-- ==== Sys2Proof/Word.lean ====
section
/-!
DEFINITION. Word.lean: the words of the register window, and the plainest arithmetic on them: taking a
run of bits out of a number, putting one in, reading a two's complement field, and the descriptors of a
register field and of a row of the register table.
-/

namespace Sys2Proof.Machine

/-- A register of the register window (spec/00_scope.md, R4: 32-bit little-endian words). -/
abbrev Word := BitVec 32

/-- The `w` bits of `x` from bit `lo` up. -/
def bitsOf (x lo w : Nat) : Nat := x / 2 ^ lo % 2 ^ w

/-- `x` with the `w` bits from bit `lo` up replaced by the low `w` bits of `v`. -/
def putBits (x lo w v : Nat) : Nat :=
  x % 2 ^ lo + 2 ^ lo * (v % 2 ^ w + 2 ^ w * (x / 2 ^ (lo + w)))

/-- The two's complement reading of the low `w` bits of `x`. -/
def signedOf (w x : Nat) : Int :=
  if 2 * (x % 2 ^ w) < 2 ^ w then (x % 2 ^ w : Nat) else ((x % 2 ^ w : Nat) : Int) - (2 ^ w : Nat)

/-- The low `w` bits of an integer, as a number. -/
def unsignedOf (w : Nat) (v : Int) : Nat := (v % (2 ^ w : Nat)).toNat

/-- A field: register address, lowest bit, width.  A field that runs past bit 31 lies in a 64-bit pair
whose low half is at `addr` and high half at `addr + 4`. -/
structure Fld where
  addr : Nat
  lo : Nat
  w : Nat
  deriving DecidableEq, Repr

/-- Whether a register stands alone or is a half of a 64-bit pair (spec/00_scope.md, R7). -/
inductive Half where
  | single
  | low
  | high
  deriving DecidableEq, Repr

/-- One row of the register table: a register or an array of registers. -/
structure RegDef where
  name : String
  /-- The offset is within a die's block. -/
  perDie : Bool
  base : Nat
  /-- (count, stride) of each index. -/
  dims : List (Nat × Nat)
  half : Half
  reset : Nat
  rw : Nat
  rwt : Nat
  w1c : Nat
  wo : Nat
  rwl : Nat
  rwa : Nat
  deriving DecidableEq, Repr

end Sys2Proof.Machine
end

