-- ==== Sys2Proof/Syntax.lean ====
section
/-!
DEFINITION. Syntax.lean: the commands and events of the package, one constructor per row of
spec/opcode_table.json, with what each carries from outside.
-/

namespace Sys2Proof

open Machine (Word)

/-- One position of an uplink frame (spec/09_element_links.md, R237). -/
structure UpSample where
  x : BitVec 12
  ovr : Bool
  win : Bool
  deriving DecidableEq, Repr

/-- An uplink frame as the port's receiver delivers it (R234, R236, R238): `ok` when the receiver finds it
valid, `tick` for a TICK frame and false for a WARM one. -/
structure UpFrame where
  ok : Bool
  tick : Bool
  echo : BitVec 32
  status : BitVec 8
  untimed : Bool
  sensor : Fin 16
  tempOk : Bool
  temp : BitVec 16
  rspTag : BitVec 8
  rspOp : BitVec 6
  rspResult : BitVec 8
  rspWin : Bool
  rspOvr : Bool
  rspData : BitVec 32
  samples : List UpSample
  deriving DecidableEq, Repr

/-- What only the signals of one calibration measurement show (R279, R280).  SKEW, for each hop of the rings between sites i and
i + 1: the arrival at i of the marker of i + 1 and the arrival at i + 1 of that of i, each after the own boundary in 1/16 phase
step, and the largest number of consecutive boundaries without markers.  LINK: the disagreements counted at each of 16 time and
32 threshold offsets, the time offset at the data sampler's instant, the threshold code at each threshold offset, and the codes
that DFE1 and DFE2 have adapted to. -/
structure CalMeas where
  hops : List (Int × Int)
  gaps : List Nat
  sweep : List (List Nat)
  inst : Fin 16
  levels : List Int
  dfe1 : Int
  dfe2 : Int
  deriving DecidableEq, Repr

/-- The AUTHENTICATION TLV of a PTP message: SPP and keyID, the bytes that the ICV covers, the ICV (R221). -/
structure PtpTlv where
  spp : Nat
  keyId : Nat
  covered : List Nat
  icv : List Nat
  deriving DecidableEq, Repr

/-- What every PTP message carries (R202): the port that received it, transport (Annex C or F), whether its
destination address is 01-80-C2-00-00-0E, a VLAN tag, versions, domain, sdoId, sourcePortIdentity, sequenceId,
correctionField in picoseconds, logMessageInterval, TLV. -/
structure PtpHdr where
  port : Fin 2
  annexC : Bool
  altAddr : Bool
  vlan : Bool
  version : Nat
  minor : Nat
  domain : BitVec 8
  sdo : BitVec 12
  source : BitVec 80
  seq : BitVec 16
  corr : Int
  logInt : Int
  tlv : Option PtpTlv
  deriving DecidableEq, Repr

/-- What an Announce adds: the grandmaster's dataset and stepsRemoved. -/
structure PtpDataset where
  prio1 : BitVec 8
  clockClass : BitVec 8
  accuracy : BitVec 8
  variance : BitVec 16
  prio2 : BitVec 8
  gm : BitVec 64
  steps : BitVec 16
  deriving DecidableEq, Repr

/-- What the TDC of a synthesis core reads in one reference cycle: cycles of `SYNTH_CLK` from the divided reference edge to the
feedback edge, and the taps of its delay line beyond them (spec/02_synthesis_core.md, R48). -/
structure TdcReading where
  coarse : Int
  tap : Fin 64
  /-- The coarse count fell outside its range, whose ends the spec does not give (R58). -/
  out : Bool := false
  deriving DecidableEq, Repr

/-- A die, and the readings of its TDC in the reference cycles of the present tick up to a moment. -/
structure CoreCycles where
  die : Fin 8
  tdc : List TdcReading
  deriving DecidableEq, Repr

/-- What holds data in a retained store (Table 11.8): the header; an emergency, calibration or snapshot slot; the audit entry at a
place of the log; the record at a place of the trim log; a key record, the telemetry key at 8. -/
inductive StorePart where
  | header
  | emergency (k : Fin 2)
  | calSlot (k : Fin 2)
  | snapSlot (k : Fin 64)
  | auditEntry (i : Fin 4096)
  | trimRecord (i : Fin 98304)
  | keyRecord (k : Fin 9)
  deriving DecidableEq, Repr

/-- The dies whose fuses fail their ECC at a start, and those of the others that cannot be burned forward (R329, Table 12.5). -/
structure FuseCheck where
  bad : BitVec 8
  behind : BitVec 8
  deriving DecidableEq, Repr

/-- What only a die's own signals show of the tick that ends: its temperature at the boundary, reference cycles passed, readings
of the TDC in the first of them (those not listed read no phase error), ENG_CLK cycles for which the loop engine stalled, the
phase offset that a changeover loaded with a commit measures (R66), the slots whose current-entry copy, and those whose drive
word, failed its parity (R157, R323), whether data on the way to its retained store failed its parity (R323), and what of that
store holds a word whose ECC reports an uncorrectable error from now on (R315, R340), and whether the die reads back its own
heartbeat line in a state that it did not drive (R350). -/
structure DieTick where
  temp : Int
  refs : Nat
  tdc : List TdcReading
  load : Nat
  off : Int
  copies : List (Fin 2560)
  words : List (Fin 2560)
  parity : Bool := false
  ecc : List StorePart := []
  line : Bool := false
  deriving DecidableEq, Repr

/-- A fabric flit (spec/13_in_service_operation.md, Table 13.4): its payload is 26 bytes. -/
structure Flit where
  type : BitVec 8
  route : BitVec 8
  seq : BitVec 16
  payload : List (BitVec 8)
  crc : BitVec 16
  deriving DecidableEq, Repr

/-- A flit as the receiver at the end of a ring direction of hop `hop` takes it in, where the flit with sequence number `next` is
due. -/
structure FlitRx where
  hop : Fin 8
  up : Bool
  next : BitVec 16
  flit : Flit
  deriving DecidableEq, Repr

/-- What the captain finds of the flash devices: those that answer, and their sizes in blocks
(spec/11_start_up_and_retained_state.md, R301, R308). -/
structure FlashFound where
  present : BitVec 2
  a : Nat
  b : Nat
  deriving DecidableEq, Repr

/-- A raw egress time stamp in picoseconds, and the moment of the frame in nanoseconds after the boundary. -/
structure RawEgress where
  ps : Int
  t : Nat
  deriving DecidableEq, Repr

/-- What the header of an uplink frame of any kind shows of the EFE: its STATUS byte and UNTIMED (spec/09_element_links.md,
R236). -/
structure UpHead where
  status : BitVec 8
  untimed : Bool := false
  deriving DecidableEq, Repr

/-- A TRAIN answer: whether the frame is valid, the rate it names, its header (spec/09_element_links.md, R234, R236, R248). -/
structure TrainAnswer where
  rate : Fin 4
  head : UpHead
  ok : Bool := true
  deriving DecidableEq, Repr

/-- A RESULT frame beside PASS: the errors it reports, its header, whether it is valid (spec/09_element_links.md, R234, R236,
R248). -/
structure TrainResult where
  errors : Nat
  head : UpHead
  ok : Bool := true
  deriving DecidableEq, Repr

/-- A register of the configuration space of a host port, by its PCI Express name: the spec gives no offsets of
capabilities (spec/14_host_port.md, R377, R378). -/
inductive CfgReg where
  | ids
  | command
  | classCode
  | cacheLine
  | bar (k : Fin 6)
  | interruptLine
  | powerCap
  | power
  | msixControl
  | msixTable
  | msixPba
  | expressCap
  | deviceCap
  | deviceControl
  | linkCap
  | linkControl
  | deviceCap2
  | deviceControl2
  | linkCap2
  | linkControl2
  | aerCap
  | aerStatus
  | aerMask
  | aerSeverity
  | aerCorrStatus
  | aerCorrMask
  | aerControl
  | aerHeader (i : Fin 4)
  | serialCap
  | serialLow
  | serialHigh
  | secondaryCap
  | linkControl3
  | laneErrors
  | laneEq (i : Fin 2)
  | phyCap
  | phyStatus
  | phyParity (i : Fin 3)
  | phyEq
  | marginCap
  | marginPort
  | margin (lane : Fin 4)
  | other (i : Fin 1024)
  deriving DecidableEq, Repr

/-- A command or an event of the package. -/
inductive Instr where
  /-- A host write of the low half of a writable 64-bit pair is held for that port until the high half
  arrives. (R7) -/
  | pairLowWrite (p : Fin 2) (a : BitVec 26) (v : Word) (t cyc : Nat)
  /-- A host write of the high half joins it with the held low half and applies the pair as one value; with
  no low half held, the write is discarded and counted. (R8) -/
  | pairHighWrite (p : Fin 2) (a : BitVec 26) (v : Word) (t cyc : Nat)
  /-- A read of the low half of a 64-bit pair latches the high half for the same port. (R7) -/
  | pairLowRead (p : Fin 2) (a : BitVec 26) (t : Nat)
  /-- A read of the high half returns the latched value and releases the latch, or returns the current value
  when nothing is latched. (R8) -/
  | pairHighRead (p : Fin 2) (a : BitVec 26) (t : Nat)
  /-- A host write to a register that has no row of its own acts according to the access type of each field
  (RW, RWT shadow load, W1C). (R9) -/
  | registerWrite (p : Fin 2) (a : BitVec 26) (v : Word) (t cyc : Nat)
  /-- An access to the blocks of a sidelined, rejected or absent die reads zero or is discarded and is
  counted, except for the mirrored DIE status block. (R40) -/
  | sidelinedDieAccess (p : Fin 2) (d : Fin 8) (read : Bool)
  /-- A write of DIE_CTRL.PEAK_CLR clears DIE_LOAD.PEAK. (R42) -/
  | diePeakClr (d : Fin 8) (v : Word)
  /-- A rail that falls below its reset threshold holds the die in reset. (R290) -/
  | railBelowReset (d : Fin 8) (r : Fin 6)
  /-- RESET_N going low puts every die into reset within 100 ns, without a snapshot. (R291) -/
  | resetNAssert
  /-- The release of RESET_N starts the IOSC, the backup PLL and the start sequence. (R296) -/
  | resetNRelease
  /-- A rail crossing its warning threshold makes every die abandon periodic writes and write an emergency
  snapshot within 150 µs. (R319) -/
  | supplyWarning
  /-- A die whose base clock is judged stable, or whose judge has timed out, sends its roll message around
  both rings. (R16)  `key` is its private identity key where that is not the one with which manufacture bound the site. -/
  | negotiationStart (d : Fin 8) (selfTestOk : Bool) (key : Option Nat)
  /-- A roll message from another site is received and recorded for role negotiation. (R16) -/
  | rollMessage (d e : Fin 8)
  /-- When all roll messages have arrived, or 1 ms after the die's negotiation start, the die fixes
  rejections, absences, captain and vice-captain. (R16) -/
  | negotiationEnd (d : Fin 8)
  /-- Before step 5, the captain compares fused settings, burns lagging dies forward and rejects any die
  that cannot be brought level. (R329) -/
  | fuseLevelling (found : FuseCheck)
  /-- At start, each die verifies its audit hash chain, drops a torn head and records LOG_BROKEN on a mid-
  chain failure. (R344) -/
  | auditChainCheck (d : Fin 8) (hit : Option Nat)
  /-- The captain discovers the flash devices, reads both slot headers and chooses the candidate slot.
  (R308) -/
  | flashDiscovery (found : FlashFound)
  /-- A block of the chosen slot arrives; the captain distributes it, checks its CRC-32C, rereads it up to
  three times and folds it into the digest. (R312) -/
  | imageBlock (ok : Bool)
  /-- Each die checks its part of the verified image against every refusal rule, and a refusal refuses the
  whole slot. (R313) -/
  | imageContentCheck (d : Fin 8)
  /-- Once all dies are LOCKED, the captain places boundary S0 at least 20 µs ahead, with package time t0,
  and the package enters service. (R297) -/
  | enterService
  /-- At step 9, the dies restore package time, states, integrators, trims and servo values from the newest
  valid snapshots under the restore condition. (R320) -/
  | retainedRestore
  /-- At a port's first ADOPT boundary A, each enabled slot of the EFE changes from state 0 to its TARGET.
  (R298) -/
  | startStateChange (d p : Fin 8)
  /-- At boundary E, when every enabled port is settled and every active primary port has passed A,
  SERVICE_OK rises. (R299) -/
  | serviceOkRise
  /-- A write of IMG_CTRL.RESTART writes a snapshot and then resets every die and runs a full start. (R293)
  -/
  | imgRestart (v : Word) (t : Nat)
  /-- At each tick boundary, every die runs the per-tick pipeline of collection, tone, accumulation,
  filtering, volley application, composition and downlink emission. (R24) -/
  | tickBoundary (env : List DieTick)
  /-- Drive words not composed by the cut-off, or needed earlier by a transmitter, declare an overrun;
  frames are repeated and unreached slots are held. (R29) -/
  | tickOverrun (d : Fin 8) (k : Nat) (begun : BitVec 16)
  /-- A write of PKG_COMMIT_CTRL.GO makes the captain send a freeze flit to every in-service die, or is
  refused as overlapping or late. (R32) -/
  | commitGo (v : Word)
  /-- A die receives the freeze flit, freezes its shadows into its part of the staged set and acknowledges.
  (R32) -/
  | freezeFlit (d : Fin 8)
  /-- The last acknowledgement makes the GO accepted: the captain fixes the commit tick and segment plan and
  sets PENDING. (R32) -/
  | freezeAck (d : Fin 8) (t : Nat)
  /-- A die receives the commit confirmation, acknowledges it and will load its part by itself. (R38) -/
  | commitConfirm (d : Fin 8)
  /-- A die with frozen shadows and no confirmation within 10 µs returns its part of the staged set to its
  shadows. (R38) -/
  | freezeConfirmTimeout (d : Fin 8)
  /-- At boundary C − 1, each in-service die loads the staged set, subject to the per-block refusal rules.
  (R33) -/
  | commitLoad (off : List Int)
  /-- A later segment of a segmented commit loads at its own boundary, and the last segment ends SEGMENTED.
  (R124) -/
  | commitSegmentLoad
  /-- At the end of each 100 µs qualification window, a reference gains or loses qualification. (R47) -/
  | refQualWindow (d : Fin 8) (x : Fin 2) (ppm : Option Nat) (off : Int)
  /-- When REF_SEL has stayed qualified for REVERT_S seconds, the core changes back to it. (R65) -/
  | revertTimer (d : Fin 8) (off : Int)
  /-- 1.5 PFD periods without a reference edge withdraw qualification and move the core to HOLDOVER or
  STARTING on bypass. (R59) -/
  | lossOfReference (d : Fin 8) (tdc : List TdcReading) (off : Int)
  /-- |e| within WIN for CNT consecutive reference cycles puts the core in LOCKED, and the die enters
  service the first time. (R57) -/
  | lockDeclared (m : CoreCycles)
  /-- Four cycles outside 4 × WIN, or a coarse count out of range, unlock the core and move the clocks to
  bypass. (R58) -/
  | lossOfLock (m : CoreCycles)
  /-- In HOLDOVER, each 20 µs window is compared; two agreeing windows return the internal clocks to
  SYNTH_CLK. (R64) -/
  | holdoverWindow (d : Fin 8) (agree : Bool)
  /-- When no agreeing pair of windows occurs within 1 ms, the die raises an F1 fault. (R64) -/
  | holdoverClockTimeout (d : Fin 8)
  /-- No LOCKED within RELOCK_TMO of entering ACQUIRE sets RELOCK_TIMEOUT and raises an F1 fault. (R72) -/
  | relockTimeout (d : Fin 8)
  /-- A fine code leaving 4,096–61,439 hops to the adjacent band, or is clamped at the edge. (R54) -/
  | bandHop (d : Fin 8) (fine : Nat)
  /-- The realign ends when SYN_BUILDOUT reaches zero. (R67) -/
  | realignEnd (d : Fin 8)
  /-- A write of SYN_SURVEY.START starts a band survey on a starting or sidelined die, and is refused on any
  other die. (R55) -/
  | surveyStart (d : Fin 8)
  /-- The band survey completes, filling the band table and setting SURVEY_DONE. (R55) -/
  | surveyDone (d : Fin 8) (ms : List (Option (Nat × Nat)))
  /-- A write of SYN_PSTEP requests signed phase steps for the package or for one die, or is refused. (R68)
  -/
  | pstepRequest (d : Fin 8) (v : Word) (t : Nat)
  /-- After the first boundary at least 20 µs on, the die makes one glitchless step per reference cycle.
  (R68) -/
  | pstepBegin (d : Fin 8)
  /-- A write of RAMP_CTRL.START checks the whole trajectory and arms a profile, or refuses it. (R74) -/
  | rampStart (d : Fin 8) (v : Word) (t c : Nat)
  /-- The armed ramp begins on the first reference cycle after its start boundary. (R74) -/
  | rampBegin (d : Fin 8)
  /-- A segment's duration expires, and the generator moves to the next segment or takes the profile's STOP,
  CHAIN or LOOP action. (R73) -/
  | rampSegmentEnd (d : Fin 8) (c : Nat)
  /-- A write of RAMP_CTRL.ABORT freezes A and makes the ramp ABORTED. (R76) -/
  | rampAbort (d : Fin 8) (v : Word) (t c : Nat)
  /-- Writing RAMP_CTRL.ENABLE = 0 aborts any ramp and refuses starts. (R76) -/
  | rampDisable (d : Fin 8) (v : Word) (t c : Nat)
  /-- A write of RAMP_CTRL.FOLD adds A to the feedback word at the next boundary and clears A. (R79) -/
  | rampFold (d : Fin 8) (v : Word) (t c : Nat)
  /-- When D would carry a running ramp past a limit or a band gap, A is frozen and the ramp becomes
  CLAMPED. (R77) -/
  | rampClamp (d : Fin 8) (c : Nat) (cause : Fin 3)
  /-- A detection window identifies the XO as 25 MHz or 50 MHz, or starts again. (R86) -/
  | xoDetectWindow (d : Fin 8) (n : Nat)
  /-- A stability window count is taken; eight agreeing windows judge the XO stable, and later windows
  monitor both oscillators. (R86) -/
  | xoJudgeWindow (d : Fin 8) (n : Nat) (iosc : Bool) (off : Int)
  /-- No stable XO within TMO_MS sets XO_TIMEOUT; the die continues on the IOSC and goes on judging. (R87)
  -/
  | xoJudgeTimeout (d : Fin 8)
  /-- A missing or deviant XO triggers the configured failure policy, withdraws XO qualification and raises
  F0. (R89) -/
  | xoFailure (d : Fin 8) (off : Int)
  /-- A missing or deviant IOSC is recorded as an F3 event, and a failure of both oscillators raises F1.
  (R92) -/
  | ioscFailure (d : Fin 8)
  /-- The backup PLL losing lock raises F1 on bypass, or F3 otherwise. (R93) -/
  | bpllUnlock (d : Fin 8)
  /-- The backup PLL relocks to the new BASE_CLK within 20 µs after holding its control word. (R93) -/
  | bpllRelock (d : Fin 8)
  /-- A write of CLK_MON_CTRL selects a clock and divider for CLKOUT, keeps a single driver, or is refused.
  (R105) -/
  | clkoutSelect (d : Fin 8) (v : Word)
  /-- A reset on one side of a crossing flushes it, and the live side discards and counts items in flight.
  (R110) -/
  | crossingFarReset (d : Fin 8) (b : Fin 32) (items : Nat)
  /-- On release of the far reset, the crossing resynchronises pointers, counters and snapshot values.
  (R110) -/
  | crossingResync (d : Fin 8) (b : Fin 32)
  /-- 256 ticks without a valid reading of the selected sensor hold T and set TEMP_STALE. (R126) -/
  | tempStale (d : Fin 8) (sl : Fin 2560)
  /-- A slot's integration window ends: it is classed held, void or clean, and a clean window runs the
  filter and detectors. (R137) -/
  | loopWindowEnd (d : Fin 8) (sl : Fin 2560)
  /-- A write of LP_CTRL.CLEAR to a slot in FAULT returns it to ACQUIRE or PARKED in step 5. (R142) -/
  | loopClear (d : Fin 8) (sl : Fin 2560)
  /-- At boundary B + X, the excluded span ends and the slot moves from KICK to ACQUIRE. (R145) -/
  | kickEnd (d : Fin 8) (sl : Fin 2560)
  /-- The backup die receives a loop record for a protected slot and keeps the latest one. (R148) -/
  | loopRecord (c : Fin 16384)
  /-- A committed library entry write goes to the live-write buffer or is scheduled for the end of the tick.
  (R165) -/
  | libWrite (d : Fin 8) (sl : Fin 2560) (q : Fin 1024) (v : BitVec 64)
  /-- At the end of the tick, after step 6, a non-live library write is written, recomputing its SECDED
  check. (R165) -/
  | libWriteApply (d : Fin 8)
  /-- A scrub pass reads every entry, corrects correctable errors and seeks repair of uncorrectable ones.
  (R158) -/
  | libScrubPass (d : Fin 8) (l : List (Nat × Nat))
  /-- The other copy of an uncorrectable entry arrives over the fabric, and the entry is repaired or stays
  poisoned. (R158) -/
  | mirrorFetch (d : Fin 8) (sl : Fin 2560) (q : Fin 1024)
  /-- A backup die receives a change of a mapped primary entry, writes the mirror and acknowledges. (R160)
  -/
  | mirrorWrite (d : Fin 8)
  /-- A backup die receives a standby record of a protected slot's state change. (R161) -/
  | standbyRecord (c : Fin 16384)
  /-- VOL_Q_CTRL.OPEN moves a queue slot from FREE to WRITING. (R176) -/
  | volOpen (p : Fin 2) (q : Fin 64) (v : Word)
  /-- A write to a queue slot's staging region or header is stored in WRITING, or is discarded and counted.
  (R177) -/
  | volStagingWrite (p : Fin 2) (a : BitVec 26) (v : Word)
  /-- VOL_Q_CTRL.STAGE checks the volley and starts tag and sequence verification, or refuses the stage with
  a cause. (R177) -/
  | volStage (p : Fin 2) (q : Fin 64) (v : Word) (t : Nat)
  /-- Tag and sequence verification ends: the slot becomes FAILED_AUTH, or B is resolved and checked under
  the late policy and the slot becomes STAGED. (R177) -/
  | volTagVerified (q : Fin 64) (t : Nat)
  /-- VOL_Q_CTRL.ABORT aborts a slot before the cutoff, or sets ABORT_LATE. (R191) -/
  | volAbort (p : Fin 2) (q : Fin 64) (v : Word) (t : Nat)
  /-- VOL_Q_CTRL.RELEASE returns a WRITING or final slot to FREE. (R176) -/
  | volRelease (p : Fin 2) (q : Fin 64) (v : Word)
  /-- A die receives volley and standby entries, stores them in its apply list and reports ARMED. (R178) -/
  | volEntries (d : Fin 8) (q : Fin 64)
  /-- The captain receives an ARMED report, and the last required one makes the slot ARMED. (R178) -/
  | volArmedReport (d : Fin 8) (q : Fin 64)
  /-- At B − 20 µs, the captain sends GO for an ARMED volley or fails it with NOT_ARMED_DIE. (R179) -/
  | volArmDeadline (q : Fin 64) (t : Nat)
  /-- A die receives a volley GO and acknowledges it. (R180) -/
  | volGo (d : Fin 8) (q : Fin 64)
  /-- A die receives a volley ABORT and will discard the volley. (R191) -/
  | volAbortMsg (d : Fin 8) (q : Fin 64)
  /-- A die that has not acknowledged GO or ABORT within 4 µs is treated as partitioned and sidelined.
  (R180) -/
  | volGoAckTimeout (d : Fin 8) (q : Fin 64)
  /-- At boundary B − 1, each die applies its entries in step 5 when it holds GO without ABORT, and discards
  them otherwise. (R181) -/
  | volLoadBoundary (q : Fin 64)
  /-- The captain sums the dies' entry counts during tick B, sets the final status and makes vector 2 due.
  (R187) -/
  | volReport (q : Fin 64)
  /-- A covering die applies a standby entry the home die did not apply, at its first serving boundary, and
  counts it DEFERRED. (R185) -/
  | volDeferredApply (q : Fin 64)
  /-- A standing occurrence is armed from each die's store with schedule digests, given GO or failed, and
  applied at its boundary. (R195) -/
  | schedOccurrence (armed : BitVec 8) (t : Nat)
  /-- Merged skipped occurrences are applied at the first boundary at least VOL_ARM_GUARD after the event.
  (R196) -/
  | schedCatchup
  /-- A received Announce feeds the BMCA of its domain and port. (R207) -/
  | ptpAnnounce (h : PtpHdr) (d : PtpDataset)
  /-- A received Sync is timestamped and checked for authentication and backward jumps. (R209) -/
  | ptpSync (h : PtpHdr) (twoStep : Bool) (origin raw : Int) (t : Nat)
  /-- A received Follow_Up supplies the precise origin time of a two-step Sync. (R208) -/
  | ptpFollowUp (h : PtpHdr) (origin : Int)
  /-- At its interval, the port sends a Delay_Req and stamps its egress. (R208) -/
  | delayReqSend (x j : Fin 2) (raw : RawEgress)
  /-- A received Delay_Resp completes an exchange, and each FILTER exchanges form an update. (R208) -/
  | ptpDelayResp (h : PtpHdr) (req : BitVec 80) (t4 : Int) (t : Nat)
  /-- Unsupported PTP messages such as Pdelay, Signaling and Management are discarded and counted. (R202) -/
  | ptpOtherMessage (h : PtpHdr)
  /-- No Sync for SYNC_TMO intervals on both ports moves the domain to LOST. (R209) -/
  | syncTimeout (x j : Fin 2)
  /-- The announce receipt timeout on both ports moves the domain to LOST. (R209) -/
  | announceTimeout (x j : Fin 2)
  /-- A die receives the captain's time word, checks its own time for skew and schedules the new D. (R200)
  -/
  | timeWord (d : Fin 8) (skew : Int)
  /-- At N_s, the dies stretch the tick, renumber the next boundary N' and set package time to the grid
  time. (R213) -/
  | firstStep (env : List DieTick)
  /-- A write of TIME_RESTEP.GO consumes a count and steps package time forward to the named domain, or is
  refused. (R220) -/
  | timeRestep (v : Word) (t : Nat)
  /-- A 100 ms link attempt ends without a link, and the port tries the next mode. (R203) -/
  | ethAttemptTimeout (j : Fin 2)
  /-- Block lock or Clause 37 completion brings the Ethernet link up. (R203) -/
  | ethLinkUp (j : Fin 2)
  /-- The Ethernet link goes down, sets LINK_DOWN and restarts its attempts. (R203) -/
  | ethLinkDown (j : Fin 2)
  /-- A received frame that is not an accepted PTP frame, or has a bad FCS, is discarded and counted. (R204)
  -/
  | ethFrameDiscard (j : Fin 2) (fcs : Bool)
  /-- ETH_L_j_CTRL.OPEN moves a launch slot from FREE to WRITING. (R223) -/
  | launchOpen (j : Fin 16) (v : Word)
  /-- ETH_L_j_CTRL.ARM arms a launch slot, refuses it, or applies the late policy. (R223) -/
  | launchArm (j : Fin 16) (v : Word) (t : Nat)
  /-- ETH_L_j_CTRL.ABORT aborts an armed slot at least 2 µs before launch, or sets ABORT_LATE. (R226) -/
  | launchAbort (j : Fin 16) (v : Word) (t : Nat)
  /-- ETH_L_j_CTRL.RELEASE returns a launch slot to FREE. (R223) -/
  | launchRelease (j : Fin 16) (v : Word)
  /-- At the launch time, the armed frame is sent and stamped, or dropped when the link is down. (R224) -/
  | launchTime (j : Fin 16) (t : Nat) (raw : Int)
  /-- At each telemetry period, each named port launches a tagged telemetry frame. (R227) -/
  | telemetryLaunch (t : Nat)
  /-- A read of TIME_NOW_NS captures all 80 bits of package time for the port. (R229) -/
  | timeNowRead (p : Fin 2) (t : Nat)
  /-- Block lock on a port in SYNC moves it to CAPS. (R245) -/
  | blockLock (d : Fin 8) (p : Fin 16)
  /-- A received CAPS frame advances the exchange; the completed capability word is checked and accepted or
  refused. (R247) -/
  | capsFrame (d : Fin 8) (p : Fin 16) (cap : BitVec 64) (ack ok : Bool) (status : UpHead)
  /-- No completed capability exchange within 10 ms makes the port FAILED. (R245) -/
  | capsTimeout (d : Fin 8) (p : Fin 16)
  /-- A TRAIN answer from the EFE leads the die to send GO and switch rate 64 idle blocks later. (R248) -/
  | trainFrame (d : Fin 8) (p : Fin 16) (x : TrainAnswer)
  /-- After 2 ms of PRBS31 counting, the ends return to idle and exchange results. (R248) -/
  | prbsCheckEnd (d : Fin 8) (p : Fin 16) (errors : Nat)
  /-- RESULT frames with PASS move the port to ACTIVE or WARM; a failure retries at a lower rate or fails.
  (R248) -/
  | resultFrame (d : Fin 8) (p : Fin 16) (pass : Bool) (x : TrainResult)
  /-- A missing answer, block lock or RESULT within its limit fails training at the rate. (R248) -/
  | trainTimeout (d : Fin 8) (p : Fin 16)
  /-- 100 ms after entry to FAILED, with all enabled rates usable, the port returns to SYNC. (R245) -/
  | failedRetry (d : Fin 8) (p : Fin 16)
  /-- A write of ELINK_p_CTRL.RETRAIN returns the port to SYNC at once. (R245) -/
  | elinkRetrain (d : Fin 8) (p : Fin 16)
  /-- A received uplink frame delivers samples, flags, temperature, status and a control response. (R242) -/
  | uplinkFrame (d : Fin 8) (p : Fin 16) (f : UpFrame)
  /-- An uplink frame incomplete at boundary N + 1 + 24 ns counts as not received. (R242) -/
  | uplinkDeadline (d : Fin 8) (p : Fin 16)
  /-- Loss of block lock, or 16 consecutive bad uplink frames, sends the port to SYNC with an F3 event.
  (R249) -/
  | linkLoss (d : Fin 8) (p : Fin 16)
  /-- A proxy GO with OPCODE NOP sends a NOP, which the EFE does not answer. (R259) -/
  | efeCmdNop (d : Fin 8) (p : Fin 16) (v : Word)
  /-- A proxy GO with OPCODE READ sends a register read to the EFE. (R259) -/
  | efeCmdRead (d : Fin 8) (p : Fin 16) (v : Word)
  /-- A proxy GO with OPCODE WRITE sends a register write, refused for PARK_p. (R259) -/
  | efeCmdWrite (d : Fin 8) (p : Fin 16) (v : Word)
  /-- A proxy GO with OPCODE SPOT requests a spot conversion, held while calibration measures the port.
  (R259) -/
  | efeCmdSpot (d : Fin 8) (p : Fin 16) (v : Word)
  /-- A proxy GO with OPCODE ECHO sends data that the EFE returns unchanged. (R259) -/
  | efeCmdEcho (d : Fin 8) (p : Fin 16) (v : Word)
  /-- A proxy GO with an unused opcode is sent and answered BAD_OPCODE. (R259) -/
  | efeCmdOther (d : Fin 8) (p : Fin 16) (v : Word)
  /-- No response within four ticks resends the command, and after three sends it ends with TIMEOUT. (R267)
  -/
  | efeCmdRetry (d : Fin 8) (p : Fin 16)
  /-- A host SPOT held by calibration for more than 64 ticks completes with BUSY_CAL. (R285) -/
  | spotHoldTimeout (d : Fin 8) (p : Fin 16)
  /-- At the second boundary after a PARKING or PARKED status the die did not command, its slots go to state
  0, ADOPT is sent and an F2 fault is raised. (R266) -/
  | efeUnorderedPark (d : Fin 8) (p : Fin 16)
  /-- A read of EFE_WIN_POP_LO removes the oldest window event and latches its high half. (R272) -/
  | efeWinPop (p : Fin 2) (d : Fin 8)
  /-- At boundary A, bench slots take records and mirrors, the backup port goes ACTIVE with ADOPT, and the
  home port goes WARM. (R269) -/
  | coverStart
  /-- At R', the home die takes back its records and sends ADOPT on its primary ports, and the backup ports
  return to WARM. (R358) -/
  | coverReturn
  /-- A write of CAL_CTRL.REQ makes an enabled item pending. (R275) -/
  | calRequest (d : Fin 8) (v : Word)
  /-- A write of CAL_CTRL.ABORT stops the item's run as ABORTED. (R276) -/
  | calAbort (d : Fin 8) (v : Word)
  /-- A write of CAL_CTRL.LOAD_TDC blends the host tap table into force. (R286) -/
  | calLoadTdc (d : Fin 8) (v : Word)
  /-- A write of CAL_CTRL.LOAD_EQ blends the host equaliser values into force. (R286) -/
  | calLoadEq (d : Fin 8) (v : Word)
  /-- A die temperature change beyond DT after MIN_INTERVAL makes the item pending. (R275) -/
  | calTempTrigger (d : Fin 8) (k : Fin 5)
  /-- MIN_INTERVAL after a failed run began, the item runs again. (R274) -/
  | calRetryTimer (d : Fin 8) (k : Fin 5)
  /-- With no run and no own blend in progress, the next pending item starts its pre-check and measurement
  A. (R275) -/
  | calRunStart (d : Fin 8) (ok : Bool)
  /-- A measurement completes: A leads to B, and B is compared with A to accept the result or end with
  CAL_DISAGREE. (R274) -/
  | calMeasurementDone (d : Fin 8) (m : CalMeas)
  /-- Every RET_CFG.PERIOD, the captain names snapshot boundary S and a new sequence number. (R316) -/
  | snapshotPeriod (t : Nat)
  /-- A write of RET_CTRL.SNAP_NOW starts a periodic snapshot at once and restarts the period. (R316) -/
  | snapNow (v : Word) (t : Nat)
  /-- At the end of step 6 of tick S − 1, each die captures its snapshot values. (R316) -/
  | snapshotCapture
  /-- The snapshot slot write completes in the safe order of sequence, body, CRC and sequence. (R317) -/
  | snapshotWriteDone (d : Fin 8) (fail : Bool)
  /-- A write of RET_CTRL.FORGET invalidates every snapshot slot and both trim log halves on every die.
  (R322) -/
  | retForget (v : Word) (t : Nat)
  /-- IMG_FL_CTRL with OP = READ copies a flash block into the buffer. (R314) -/
  | flashRead (v : Word)
  /-- IMG_FL_CTRL with OP = ERASE erases a 64 KiB region, refused as IN_USE for a running slot. (R314) -/
  | flashErase (v : Word)
  /-- IMG_FL_CTRL with OP = PROGRAM checks the buffer CRC, then programs and verifies the block. (R314) -/
  | flashProgram (v : Word)
  /-- A flash operation ends with its RESULT and sets FL_DONE. (R314) -/
  | flashOpDone (err : Fin 3)
  /-- SEC_SESS_CTRL.OPEN issues a signed challenge with a nonce and an ephemeral key. (R333) -/
  | sessionOpen (p : Fin 2)
  /-- SEC_SESS_CTRL.PROVE checks the request and derives the session keys, or fails authentication. (R334)
  -/
  | sessionProve (p : Fin 2)
  /-- A committed CLOSE ends the session after the other writes of its group. (R336) -/
  | sessionClose (p : Fin 2)
  /-- A challenge not proved within 1 s lapses. (R333) -/
  | challengeLapse
  /-- No tagged item accepted for IDLE_S seconds ends the session. (R336) -/
  | sessionIdleTimeout
  /-- A write to an RWA or RWL register, or to the library window, is held in the session port's group, or
  discarded without a session. (R337) -/
  | heldWrite (p : Fin 2) (lib : Bool) (a : BitVec 28) (v : Word) (be : BitVec 4) (t cyc : Nat)
  /-- SEC_AW_CTRL.COMMIT verifies the tag and sequence and applies the held writes in order, or discards the
  group. (R338) -/
  | heldGroupCommit (p : Fin 2) (v : Word) (t cyc : Nat)
  /-- SEC_AW_CTRL.DISCARD discards the port's held group. (R338) -/
  | heldGroupDiscard (p : Fin 2) (v : Word) (t cyc : Nat)
  /-- After LOCKOUT_S seconds, OPEN is accepted again. (R339) -/
  | lockoutEnd
  /-- SEC_OWNER_CTRL with OP = PROGRAM burns an owner key hash into an empty slot. (R330) -/
  | ownerKeyProgram (v : Word)
  /-- SEC_OWNER_CTRL with OP = REVOKE revokes a slot unless it is the last key. (R330) -/
  | ownerKeyRevoke (v : Word)
  /-- A write of SEC_LIFECYCLE burns the next lifecycle state. (R327) -/
  | lifecycleAdvance (v : Word)
  /-- SEC_ROLLBACK.COMMIT advances the anti-rollback counter by one. (R332) -/
  | rollbackCommit (v : Word)
  /-- A write of SEC_DIE_DISABLE burns die-disable bits effective from the next start. (R342) -/
  | dieDisableBurn (v : Word)
  /-- Writing SEC_HP1.EN = 0 disables HP1 from the next start. (R342) -/
  | hp1Disable (v : Word)
  /-- Writing SEC_DEBUG.LOCK = 1 closes the debug port at once. (R342) -/
  | debugLock (v : Word)
  /-- A fuse burn completes on every die and is recorded in the audit log as DONE. (R328) -/
  | fuseBurnDone (bad : BitVec 8)
  /-- SEC_PTP_KEY_CTRL writes or invalidates a PTP key slot from the next boundary. (R340) -/
  | ptpKeyWrite (v : Word)
  /-- SEC_TEL_KEY_CTRL writes the telemetry key. (R340) -/
  | telKeyWrite (v : Word)
  /-- SEC_ATT_CTRL.GO starts an attestation report over the nonce. (R341) -/
  | attestGo (v : Word)
  /-- The signed attestation report is ready, and DONE is set. (R341) -/
  | attestDone (t : Nat)
  /-- A write of SEC_LOG_SEL shows the selected audit entry, or GONE. (R344) -/
  | logSelect (v : Word)
  /-- An entropy health test failure clears ENTROPY_OK, blocks OPEN and attestation, and raises F0. (R339)
  -/
  | entropyHealthFail
  /-- A JTAG instruction on a closed debug port selects BYPASS and is counted. (R327) -/
  | debugInstruction (plain : Bool)
  /-- A heartbeat line that does not toggle within 50 ns after a boundary declares the die lost with an F1
  fault. (R350) -/
  | heartbeatMissed (d : Fin 8)
  /-- A die sidelined by F1, loss or command stops composing, and a cover order is sent. (R351) -/
  | dieSideline (d : Fin 8)
  /-- A covering die receives the priority cover order and fixes switch-over boundary A. (R351) -/
  | coverOrder (ns : Nat)
  /-- FAULT_DIE_CTRL with OP = SIDELINE sidelines a die at least 20 µs ahead, or is refused. (R351) -/
  | faultDieSideline (v : Word) (t : Nat)
  /-- FAULT_DIE_CTRL with OP = RELOAD sidelines a die for reload, or is refused. (R351) -/
  | faultDieReload (v : Word) (t : Nat)
  /-- FAULT_DIE_CTRL with OP = REJOIN starts the rejoin of a sidelined die. (R359) -/
  | faultDieRejoin (v : Word) (t : Nat)
  /-- A sidelined die with AUTO_REJOIN and rejoins left resets itself and starts rejoining. (R357) -/
  | rejoinStart (d : Fin 8) (t : Nat)
  /-- After the rejoin steps, trims are replayed, mirrors are refreshed and the fault manager picks R'.
  (R358) -/
  | rejoinReady (d : Fin 8) (t : Nat)
  /-- A failed rejoin step or time limit leaves the die sidelined with an F1 fault. (R357) -/
  | rejoinFailed (d : Fin 8)
  /-- At A of a commanded sideline of the captain, the leases pass by grant to the vice-captain. (R364) -/
  | plannedHandover
  /-- The arbiter receives a renewal and extends the lease to 50 µs. (R360) -/
  | leaseRenewal (k : Fin 6) (t : Nat)
  /-- A lease lapses 50 µs after its last renewal, or on holder loss, and passes per Table 13.3. (R360) -/
  | leaseLapse (k : Fin 6) (t : Nat)
  /-- A holder with no acknowledgement for 45 µs stops using the resource. (R360) -/
  | leaseHolderStop (k : Fin 6) (t : Nat)
  /-- A flit failing its CRC-16 triggers a replay request and is counted. (R366) -/
  | flitCrcFail (r : FlitRx)
  /-- RETRY_MAX replays or 1 µs without acknowledgement fails a hop. (R366) -/
  | hopFailure (h : Fin 8)
  /-- Every 10 ms a failed hop retrains on PRBS31, and a pass may unwrap the rings. (R367) -/
  | hopRetrain (h : Fin 8) (errors : Nat)
  /-- UPD_CTRL.VERIFY makes the captain read and check the whole slot for an update. (R370) -/
  | updVerify (v : Word) (t : Nat)
  /-- Verification ends with the slot VERIFIED or REFUSED. (R370) -/
  | updVerifyDone (ok : Bool)
  /-- UPD_CTRL.GO reloads the dies one at a time from the verified slot. (R371) -/
  | updGo (v : Word) (t : Nat)
  /-- UPD_CTRL.COMMIT loads the new package values and schedule and makes the new image booted. (R373) -/
  | updCommit (v : Word) (t : Nat)
  /-- UPD_CTRL.ABORT stops the update after the current die. (R374) -/
  | updAbort (v : Word) (t : Nat)
  /-- A read of FAULT_LOG_POP_LO removes the oldest fault log entry and latches its other half. (R347) -/
  | faultLogPop (p : Fin 2)
  /-- A memory read TLP is decoded and completed atomically, or as a decode error or Completer Abort. (R381)
  -/
  | pcieMemRead (p : Fin 2) (lib : Bool) (a : BitVec 28) (n : Fin 1024) (fbe lbe : BitVec 4) (bad : Fin 3) (perr : Bool) (t : Nat)
  /-- A memory write TLP applies its DWs atomically in ascending order. (R381) -/
  | pcieMemWrite (p : Fin 2) (lib : Bool) (a : BitVec 28) (vs : List Word) (fbe lbe : BitVec 4) (bad : Fin 3) (perr : Nat) (t cyc : Nat)
  /-- A configuration read returns configuration space. (R377) -/
  | pcieConfigRead (p : Fin 2) (r : CfgReg)
  /-- A configuration write updates configuration space. (R377) -/
  | pcieConfigWrite (p : Fin 2) (r : CfgReg) (v : Word)
  /-- An AtomicOp, locked read or I/O request is completed as Unsupported Request. (R377) -/
  | pcieUnsupportedRequest (p : Fin 2)
  /-- PERSTx_N asserted resets its host port, ends its session and discards its groups and TLPs. (R389) -/
  | perstAssert (p : Fin 2) (tlps : Nat)
  /-- A host link going down resets the port, ending its session and discarding its groups. (R389) -/
  | pcieLinkDown (p : Fin 2) (tlps : Nat)
  /-- A function level reset resets the port's function and ends its session. (R389) -/
  | functionLevelReset (p : Fin 2) (tlps : Nat)
  /-- Entry to D3hot completes memory requests as Unsupported Request and holds MSI-X messages pending.
  (R389) -/
  | d3hotEntry (p : Fin 2)
  /-- A return to D0 restores normal service without loss of state. (R389) -/
  | d0Return (p : Fin 2)
  /-- HOST_GROUP_COMMIT.OPEN opens the port's host group. (R386) -/
  | hostGroupOpen (p : Fin 2) (v : Word) (t cyc : Nat)
  /-- HOST_GROUP_COMMIT.COMMIT applies the buffered writes atomically, or is refused when the group was
  opened WITH_AW. (R386) -/
  | hostGroupCommit (p : Fin 2) (v : Word) (t cyc : Nat)
  /-- HOST_GROUP_COMMIT.DISCARD discards the host group. (R386) -/
  | hostGroupDiscard (p : Fin 2) (v : Word) (t cyc : Nat)
  /-- The sources of a vector that became due in one tick send one coalesced message, or set the pending
  bit. (R394) -/
  | msixMessage (k : Fin 64)
  /-- When a mask or enable condition clears, the pending message is sent and its pending bit cleared.
  (R394) -/
  | msixPendingRelease (p : Fin 2) (k : Fin 64)
  /-- SMBus command 0x00 returns the status byte. (R398) -/
  | smbStatusByte (addr : BitVec 7)
  /-- SMBus command 0x01 returns PKG_DIES.IN_SERVICE. (R398) -/
  | smbInService (addr : BitVec 7)
  /-- SMBus command 0x02 returns FAULT_STATUS.SIDELINED. (R398) -/
  | smbSidelined (addr : BitVec 7)
  /-- SMBus command 0x03 returns the lowest LOCK density. (R398) -/
  | smbLockDensity (addr : BitVec 7)
  /-- SMBus command 0x04 returns the highest die temperature. (R398) -/
  | smbTemperature (addr : BitVec 7)
  /-- SMBus command 0x10 returns the 32-byte health record. (R398) -/
  | smbHealthRecord (addr : BitVec 7)
  /-- Any other SMBus command code is not acknowledged. (R398) -/
  | smbOtherCommand (addr : BitVec 7) (code : BitVec 8)
  /-- A host port's PCI Express link finishes training once the port is available and PERSTx_N is released,
  and the port starts serving requests and sending MSI-X messages. (R391) -/
  | hostLinkUp (p : Fin 2) (speed : Fin 4) (lanes : Fin 3)
  /-- A rail that had fallen below its reset threshold rises back above it, ending the reset in which R290
  held the die. (R290) -/
  | railAboveReset (d : Fin 8) (r : Fin 6)
  /-- At each whole second of package time, PPS_OUT rises for WIDTH_US; before VALID it pulses on local time
  when LOCAL = 1. (R228) -/
  | ppsOut (t : Nat)
  /-- The last requested phase step is made, SYN_PSTEP_PEND reaches zero, new requests are no longer refused
  and a waiting SKEW run may proceed. (R68) -/
  | phaseStepDone (d : Fin 8)
  /-- 50 ms after S0, a port still in SYNC or CAPS counts as FAILED for boundary E and raises the F2 fault
  of R249, while it goes on trying. (R299) -/
  | startPortTimeout (d : Fin 8) (p : Fin 16)
  /-- A SKEW run that has waited more than 10 ms for a pending phase step or realign ends INPUT_UNSUITABLE.
  (R279) -/
  | skewWaitTimeout (d : Fin 8)
  /-- A function level reset completes within 1 ms, after which the port accepts requests again. (R389) -/
  | flrComplete (p : Fin 2)
  deriving DecidableEq, Repr

end Sys2Proof
end

