-- ==== Sys2Proof/Decode.lean ====
section
/-!
DEFINITION. Decode.lean: the package has no instruction words; spec/opcode_table.json gives no row any
bits.
-/

namespace Sys2Proof

/-- The command that a word of the table spells: none, since no row has bits. -/
def decodeTableWord (_nbits _w : Nat) : Option Instr := none

end Sys2Proof
end

