-- ==== Sys2Proof/Config.lean ====
section
/-!
DEFINITION. Config.lean: what the spec leaves to the implementation or does not state.  Every entry is
opaque: nothing can be proved of its value, so a claim holds whatever the hardware produces.
-/

namespace Sys2Proof.Config

/-- A fresh unknown number for each index: measurement results, nonces, signatures and other values that
the spec does not fix (notes/assumptions/2.md). [log 2: DESIGN CHOICE] -/
opaque freeValue : Nat → Nat

/-- The private half of the identity key fused into the die of a site (R325). [log 2: DESIGN CHOICE] -/
opaque identityKey : Nat → Nat

/-- SHA-384 of the manufacturing authority's public key, r and s of its signature: bytes 800 to 943 of the
package certificate (R326). [log 2: DESIGN CHOICE] -/
opaque authorityByte : Nat → Nat

/-- The bits of a configuration register of a host port that neither the spec nor the PCI Express base specification fixes: next
pointers, revision, subsystem, capabilities of an implementation (R377).  First the port, then the register's number.
[log 9: PRESUMED] -/
opaque cfgBits : Nat → Nat → Nat

end Sys2Proof.Config
end

