-- ==== Sys2Proof/Machine/Operands.lean ====
section
/-!
DEFINITION. Machine/Operands.lean: the arithmetic that the rules share: rounding, clamping, counting and
the mapping of channels, EFEs and slots.
-/

namespace Sys2Proof.Machine

/-- `a / b` rounded to the nearest integer, ties away from zero (spec/04_tone_channels.md, R116, R126). -/
def roundDiv (a : Int) (b : Nat) : Int :=
  if a < 0 then -(((2 * a.natAbs + b) / (2 * b) : Nat) : Int) else (((2 * a.natAbs + b) / (2 * b) : Nat) : Int)

/-- 10^14 π, rounded down. [log 56: DEDUCED] -/
def piE14 : Nat := 314159265358979

/-- `x` kept between `lo` and `hi`. -/
def clampInt (lo hi x : Int) : Int := min (max x lo) hi

/-- `a / b` rounded up. -/
def ceilDiv (a b : Nat) : Nat := (a + b - 1) / b

/-- Bit `i` of a mask. -/
def maskBit (m i : Nat) : Bool := m.testBit i

/-- A mask with bit `i` set. -/
def maskSet (m i : Nat) : Nat := m ||| 2 ^ i

/-- A mask with bit `i` clear. -/
def maskClear (m i : Nat) : Nat := if m.testBit i then m - 2 ^ i else m

/-- The bits of a mask below `n`, ascending. -/
def maskBits (n m : Nat) : List Nat := (List.range n).filter (fun i => m.testBit i)

/-- How many bits of a mask below `n` are set. -/
def maskCount (n m : Nat) : Nat := (maskBits n m).length

/-- Home die, EFE and position of channel `c` (spec/00_scope.md, R11). -/
def chanDie (c : Nat) : Nat := c / 2048
def chanSlot (c : Nat) : Nat := c % 2048

/-- The backup die of EFE `e` of die `d` among `n` dies (spec/01_package_and_tick.md, R18). -/
def backupDie (n d e : Nat) : Nat := (d + 1 + e % (n - 1)) % n

/-- The home die whose EFE `e` die `b` backs (R18, read backwards). -/
def homeOf (n b e : Nat) : Nat := ((List.range n).filter (fun d => backupDie n d e == b)).headD 0

/-- The bytes of a number, least significant first (R4). [log 28: DEDUCED] -/
def bytesLE : Nat → Nat → List Nat
  | 0, _ => []
  | k + 1, x => x % 256 :: bytesLE k (x / 256)

/-- The number that a list of bytes spells, least significant first. -/
def natLE : List Nat → Nat
  | [] => 0
  | b :: r => b % 256 + 256 * natLE r

/-- The number that a list of bytes spells, most significant first. -/
def natBE (bs : List Nat) : Nat := bs.foldl (fun a b => a * 256 + b % 256) 0

/-- The bytes of a number, most significant first. [log 28: DEDUCED] -/
def bytesBE (k x : Nat) : List Nat := (bytesLE k x).reverse

/-- One bit of the reflected CRC-32C (spec/00_scope.md: polynomial 0x1EDC_6F41, reflected). -/
def crc32cBit (c : Nat) : Nat := (c / 2) ^^^ (c % 2 * 0x82F63B78)

/-- One byte of the CRC. -/
def crc32cByte (c b : Nat) : Nat :=
  crc32cBit (crc32cBit (crc32cBit (crc32cBit (crc32cBit (crc32cBit (crc32cBit (crc32cBit (c ^^^ (b % 256)))))))))

/-- CRC-32C of a list of bytes (spec/00_scope.md): initial value and final XOR 0xFFFF_FFFF. -/
def crc32c (bs : List Nat) : Nat := (bs.foldl crc32cByte 0xFFFFFFFF) ^^^ 0xFFFFFFFF

/-- One bit of the fabric's CRC-16 (spec/13_in_service_operation.md, Table 13.4). -/
def crc16Bit (c : Nat) : Nat := if 0x8000 ≤ c then (2 * c % 65536) ^^^ 0x1021 else 2 * c % 65536

/-- CRC-16 of a list of bytes: polynomial 0x1021, initial value 0xFFFF, no reflection, no final XOR. -/
def crc16 (bs : List Nat) : Nat :=
  bs.foldl (fun c b => crc16Bit (crc16Bit (crc16Bit (crc16Bit (crc16Bit (crc16Bit (crc16Bit (crc16Bit
    (c ^^^ (b % 256 * 256)))))))))) 0xFFFF

end Sys2Proof.Machine
end

