-- ==== Sys2Proof/Machine/Regs.lean ====
section
/-!
DEFINITION. Machine/Regs.lean: the address of every register of the register window and the place of
every field, as the register summaries and field tables of spec/01 to spec/14 list them, and one table
(regTable) of their access types and reset values.  An address is the byte offset from the start of the
register window (spec/00_scope.md, spec/14_host_port.md): the package blocks lie below 0x100_0000, the
blocks of die d at 0x100_0000 + d × 0x40_0000.  Names keep the spec's, with an index that the spec writes
inside a name (p, k, q, j, i, x, s) turned into an argument.
-/

namespace Sys2Proof.Machine

/-- Where the blocks of die `d` begin in the register window (spec/00_scope.md, R2). -/
abbrev dieBase (d : Nat) : Nat := 0x1000000 + d * 0x400000


-- Block PKG (spec/01_package_and_tick.md).
abbrev PKG_ID : Nat := 0
abbrev PKG_ID_PART : Fld := ⟨0, 16, 16⟩
abbrev PKG_ID_DIES : Fld := ⟨0, 8, 8⟩
abbrev PKG_ID_STEPPING : Fld := ⟨0, 0, 8⟩
abbrev PKG_DIES : Nat := 4
abbrev PKG_DIES_REJECTED : Fld := ⟨4, 16, 8⟩
abbrev PKG_DIES_POPULATED : Fld := ⟨4, 8, 8⟩
abbrev PKG_DIES_IN_SERVICE : Fld := ⟨4, 0, 8⟩
abbrev PKG_ROLE : Nat := 8
abbrev PKG_ROLE_NEG_DONE : Fld := ⟨8, 31, 1⟩
abbrev PKG_ROLE_VICE_VALID : Fld := ⟨8, 7, 1⟩
abbrev PKG_ROLE_VICE : Fld := ⟨8, 4, 3⟩
abbrev PKG_ROLE_CAPTAIN : Fld := ⟨8, 0, 3⟩
abbrev PKG_SITE_MAP : Nat := 0xc
abbrev PKG_SITE_MAP_SITE : Fld := ⟨0xc, 0, 32⟩
abbrev PKG_SERIAL : Nat := 0x10
abbrev PKG_SERIAL_SERIAL : Fld := ⟨0x10, 0, 64⟩
abbrev PKG_TICK_CFG : Nat := 0x18
abbrev PKG_TICK_CFG_GRID_NET : Fld := ⟨0x18, 31, 1⟩
abbrev PKG_TICK_CFG_PERIOD : Fld := ⟨0x18, 0, 3⟩
abbrev PKG_TICK_NUM : Nat := 0x20
abbrev PKG_TICK_NUM_TICK : Fld := ⟨0x20, 0, 64⟩
abbrev PKG_ORIGIN_SEC : Nat := 0x28
abbrev PKG_ORIGIN_SEC_SEC : Fld := ⟨0x28, 0, 48⟩
abbrev PKG_ORIGIN_NS : Nat := 0x30
abbrev PKG_ORIGIN_NS_NS : Fld := ⟨0x30, 0, 30⟩
abbrev PKG_COMMIT_CTRL : Nat := 0x40
abbrev PKG_COMMIT_CTRL_GO : Fld := ⟨0x40, 31, 1⟩
abbrev PKG_COMMIT_CTRL_AT_TICK : Fld := ⟨0x40, 0, 1⟩
abbrev PKG_COMMIT_TICK : Nat := 0x44
abbrev PKG_COMMIT_TICK_TICK : Fld := ⟨0x44, 0, 64⟩
abbrev PKG_COMMIT_STATUS : Nat := 0x4c
abbrev PKG_COMMIT_STATUS_SEQ : Fld := ⟨0x4c, 16, 16⟩
abbrev PKG_COMMIT_STATUS_REG_REFUSED : Fld := ⟨0x4c, 5, 1⟩
abbrev PKG_COMMIT_STATUS_OVERLAP : Fld := ⟨0x4c, 4, 1⟩
abbrev PKG_COMMIT_STATUS_STATE : Fld := ⟨0x4c, 0, 3⟩

-- Block DIE (spec/01_package_and_tick.md).
abbrev DIE_STATUS (d : Nat) : Nat := dieBase d + 0
abbrev DIE_STATUS_BENCH_USE (d : Nat) : Fld := ⟨dieBase d + 0, 16, 2⟩
abbrev DIE_STATUS_SITE (d : Nat) : Fld := ⟨dieBase d + 0, 8, 3⟩
abbrev DIE_STATUS_ROLE (d : Nat) : Fld := ⟨dieBase d + 0, 4, 2⟩
abbrev DIE_STATUS_SERVICE (d : Nat) : Fld := ⟨dieBase d + 0, 0, 3⟩
abbrev DIE_COVER (d : Nat) : Nat := dieBase d + 4
abbrev DIE_COVER_H1_ACTIVE (d : Nat) : Fld := ⟨dieBase d + 4, 31, 1⟩
abbrev DIE_COVER_H1_DIE (d : Nat) : Fld := ⟨dieBase d + 4, 24, 3⟩
abbrev DIE_COVER_H1_EFE (d : Nat) : Fld := ⟨dieBase d + 4, 16, 3⟩
abbrev DIE_COVER_H0_ACTIVE (d : Nat) : Fld := ⟨dieBase d + 4, 15, 1⟩
abbrev DIE_COVER_H0_DIE (d : Nat) : Fld := ⟨dieBase d + 4, 8, 3⟩
abbrev DIE_COVER_H0_EFE (d : Nat) : Fld := ⟨dieBase d + 4, 0, 3⟩
abbrev DIE_ACTIVE (d : Nat) : Nat := dieBase d + 8
abbrev DIE_ACTIVE_SLOTS (d : Nat) : Fld := ⟨dieBase d + 8, 0, 12⟩
abbrev DIE_LOAD (d : Nat) : Nat := dieBase d + 0xc
abbrev DIE_LOAD_PEAK (d : Nat) : Fld := ⟨dieBase d + 0xc, 16, 16⟩
abbrev DIE_LOAD_LAST (d : Nat) : Fld := ⟨dieBase d + 0xc, 0, 16⟩
abbrev DIE_OVERRUN_CNT (d : Nat) : Nat := dieBase d + 0x10
abbrev DIE_OVERRUN_CNT_CONSEC (d : Nat) : Fld := ⟨dieBase d + 0x10, 30, 2⟩
abbrev DIE_OVERRUN_CNT_TOTAL (d : Nat) : Fld := ⟨dieBase d + 0x10, 0, 30⟩
abbrev DIE_EVENTS (d : Nat) : Nat := dieBase d + 0x14
abbrev DIE_EVENTS_SIDELINE_ACC (d : Nat) : Fld := ⟨dieBase d + 0x14, 2, 1⟩
abbrev DIE_EVENTS_OVERRUN_FAULT (d : Nat) : Fld := ⟨dieBase d + 0x14, 1, 1⟩
abbrev DIE_EVENTS_OVERRUN (d : Nat) : Fld := ⟨dieBase d + 0x14, 0, 1⟩
abbrev DIE_CTRL (d : Nat) : Nat := dieBase d + 0x18
abbrev DIE_CTRL_PEAK_CLR (d : Nat) : Fld := ⟨dieBase d + 0x18, 0, 1⟩
abbrev DIE_SIDELINE_ACC (d : Nat) : Nat := dieBase d + 0x1c
abbrev DIE_SIDELINE_ACC_COUNT (d : Nat) : Fld := ⟨dieBase d + 0x1c, 0, 32⟩

-- Block SYN (spec/02_synthesis_core.md).
abbrev SYN_CTRL (d : Nat) : Nat := dieBase d + 0x10000
abbrev SYN_CTRL_SRC_EN (d : Nat) : Fld := ⟨dieBase d + 0x10000, 12, 3⟩
abbrev SYN_CTRL_RETURN (d : Nat) : Fld := ⟨dieBase d + 0x10000, 4, 1⟩
abbrev SYN_CTRL_REVERT (d : Nat) : Fld := ⟨dieBase d + 0x10000, 3, 1⟩
abbrev SYN_CTRL_AUTO (d : Nat) : Fld := ⟨dieBase d + 0x10000, 2, 1⟩
abbrev SYN_CTRL_REF_SEL (d : Nat) : Fld := ⟨dieBase d + 0x10000, 0, 2⟩
abbrev SYN_STATUS (d : Nat) : Nat := dieBase d + 0x10004
abbrev SYN_STATUS_QUALIFIED (d : Nat) : Fld := ⟨dieBase d + 0x10004, 16, 3⟩
abbrev SYN_STATUS_LOCK_DENS (d : Nat) : Fld := ⟨dieBase d + 0x10004, 12, 4⟩
abbrev SYN_STATUS_LOCK_FULL (d : Nat) : Fld := ⟨dieBase d + 0x10004, 11, 1⟩
abbrev SYN_STATUS_QUAL_COARSE (d : Nat) : Fld := ⟨dieBase d + 0x10004, 10, 1⟩
abbrev SYN_STATUS_HO_VALID (d : Nat) : Fld := ⟨dieBase d + 0x10004, 9, 1⟩
abbrev SYN_STATUS_BAND_SRC (d : Nat) : Fld := ⟨dieBase d + 0x10004, 8, 1⟩
abbrev SYN_STATUS_REALIGN (d : Nat) : Fld := ⟨dieBase d + 0x10004, 7, 1⟩
abbrev SYN_STATUS_BYPASS (d : Nat) : Fld := ⟨dieBase d + 0x10004, 6, 1⟩
abbrev SYN_STATUS_REF_ACTIVE (d : Nat) : Fld := ⟨dieBase d + 0x10004, 4, 2⟩
abbrev SYN_STATUS_STATE (d : Nat) : Fld := ⟨dieBase d + 0x10004, 0, 3⟩
abbrev SYN_EVENTS (d : Nat) : Nat := dieBase d + 0x10008
abbrev SYN_EVENTS_BAND_EDGE (d : Nat) : Fld := ⟨dieBase d + 0x10008, 13, 1⟩
abbrev SYN_EVENTS_SURVEY_REFUSED (d : Nat) : Fld := ⟨dieBase d + 0x10008, 12, 1⟩
abbrev SYN_EVENTS_SURVEY_DONE (d : Nat) : Fld := ⟨dieBase d + 0x10008, 11, 1⟩
abbrev SYN_EVENTS_CHANGEOVER (d : Nat) : Fld := ⟨dieBase d + 0x10008, 10, 1⟩
abbrev SYN_EVENTS_BAND_REFUSED (d : Nat) : Fld := ⟨dieBase d + 0x10008, 9, 1⟩
abbrev SYN_EVENTS_PSTEP_REFUSED (d : Nat) : Fld := ⟨dieBase d + 0x10008, 8, 1⟩
abbrev SYN_EVENTS_CFG_REFUSED (d : Nat) : Fld := ⟨dieBase d + 0x10008, 6, 1⟩
abbrev SYN_EVENTS_SEED_ZERO (d : Nat) : Fld := ⟨dieBase d + 0x10008, 5, 1⟩
abbrev SYN_EVENTS_RELOCK_TIMEOUT (d : Nat) : Fld := ⟨dieBase d + 0x10008, 4, 1⟩
abbrev SYN_EVENTS_RELOCKED (d : Nat) : Fld := ⟨dieBase d + 0x10008, 3, 1⟩
abbrev SYN_EVENTS_HOLDOVER (d : Nat) : Fld := ⟨dieBase d + 0x10008, 2, 1⟩
abbrev SYN_EVENTS_REF_LOST (d : Nat) : Fld := ⟨dieBase d + 0x10008, 1, 1⟩
abbrev SYN_EVENTS_LOCK_LOST (d : Nat) : Fld := ⟨dieBase d + 0x10008, 0, 1⟩
abbrev SYN_REF_QUAL (d : Nat) : Nat := dieBase d + 0x1000c
abbrev SYN_REF_QUAL_REVERT_S (d : Nat) : Fld := ⟨dieBase d + 0x1000c, 24, 8⟩
abbrev SYN_REF_QUAL_WINDOWS (d : Nat) : Fld := ⟨dieBase d + 0x1000c, 8, 8⟩
abbrev SYN_REF_QUAL_TOL_PPM (d : Nat) : Fld := ⟨dieBase d + 0x1000c, 0, 8⟩
abbrev SYN_REFA_CFG (d : Nat) : Nat := dieBase d + 0x10010
abbrev SYN_REFA_CFG_NOM_KHZ (d : Nat) : Fld := ⟨dieBase d + 0x10010, 10, 18⟩
abbrev SYN_REFA_CFG_DIV (d : Nat) : Fld := ⟨dieBase d + 0x10010, 0, 10⟩
abbrev SYN_REFB_CFG (d : Nat) : Nat := dieBase d + 0x10014
abbrev SYN_REFB_CFG_NOM_KHZ (d : Nat) : Fld := ⟨dieBase d + 0x10014, 10, 18⟩
abbrev SYN_REFB_CFG_DIV (d : Nat) : Fld := ⟨dieBase d + 0x10014, 0, 10⟩
abbrev SYN_XO_CFG (d : Nat) : Nat := dieBase d + 0x10018
abbrev SYN_XO_CFG_NOM_KHZ (d : Nat) : Fld := ⟨dieBase d + 0x10018, 10, 18⟩
abbrev SYN_XO_CFG_DIV (d : Nat) : Fld := ⟨dieBase d + 0x10018, 0, 10⟩
abbrev SYN_FBA (d : Nat) : Nat := dieBase d + 0x10020
abbrev SYN_FBA_INT (d : Nat) : Fld := ⟨dieBase d + 0x10024, 16, 14⟩
abbrev SYN_FBA_FRAC (d : Nat) : Fld := ⟨dieBase d + 0x10020, 0, 48⟩
abbrev SYN_FBB (d : Nat) : Nat := dieBase d + 0x10028
abbrev SYN_FBB_INT (d : Nat) : Fld := ⟨dieBase d + 0x1002c, 16, 14⟩
abbrev SYN_FBB_FRAC (d : Nat) : Fld := ⟨dieBase d + 0x10028, 0, 48⟩
abbrev SYN_FBX (d : Nat) : Nat := dieBase d + 0x10030
abbrev SYN_FBX_INT (d : Nat) : Fld := ⟨dieBase d + 0x10034, 16, 14⟩
abbrev SYN_FBX_FRAC (d : Nat) : Fld := ⟨dieBase d + 0x10030, 0, 48⟩
abbrev SYN_LF_CFG (d : Nat) : Nat := dieBase d + 0x10038
abbrev SYN_LF_CFG_POLE3_MULT (d : Nat) : Fld := ⟨dieBase d + 0x10038, 13, 2⟩
abbrev SYN_LF_CFG_POLE3 (d : Nat) : Fld := ⟨dieBase d + 0x10038, 12, 1⟩
abbrev SYN_LF_CFG_ZETA (d : Nat) : Fld := ⟨dieBase d + 0x10038, 8, 2⟩
abbrev SYN_LF_CFG_BW (d : Nat) : Fld := ⟨dieBase d + 0x10038, 0, 8⟩
abbrev SYN_LOCK_CFG (d : Nat) : Nat := dieBase d + 0x1003c
abbrev SYN_LOCK_CFG_CNT (d : Nat) : Fld := ⟨dieBase d + 0x1003c, 16, 16⟩
abbrev SYN_LOCK_CFG_WIN (d : Nat) : Fld := ⟨dieBase d + 0x1003c, 0, 11⟩
abbrev SYN_HO_CFG (d : Nat) : Nat := dieBase d + 0x10040
abbrev SYN_HO_CFG_RELOCK_TMO (d : Nat) : Fld := ⟨dieBase d + 0x10040, 16, 16⟩
abbrev SYN_HO_CFG_AVG (d : Nat) : Fld := ⟨dieBase d + 0x10040, 0, 5⟩
abbrev SYN_FMAX_GUARD (d : Nat) : Nat := dieBase d + 0x10044
abbrev SYN_FMAX_GUARD_KHZ (d : Nat) : Fld := ⟨dieBase d + 0x10044, 0, 21⟩
abbrev SYN_DITHER (d : Nat) : Nat := dieBase d + 0x10048
abbrev SYN_DITHER_ENABLE (d : Nat) : Fld := ⟨dieBase d + 0x10048, 31, 1⟩
abbrev SYN_DITHER_SEED (d : Nat) : Fld := ⟨dieBase d + 0x10048, 0, 31⟩
abbrev SYN_SURVEY (d : Nat) : Nat := dieBase d + 0x1004c
abbrev SYN_SURVEY_START (d : Nat) : Fld := ⟨dieBase d + 0x1004c, 31, 1⟩
abbrev SYN_PSTEP (d : Nat) : Nat := dieBase d + 0x10050
abbrev SYN_PSTEP_SCOPE (d : Nat) : Fld := ⟨dieBase d + 0x10050, 16, 1⟩
abbrev SYN_PSTEP_STEPS (d : Nat) : Fld := ⟨dieBase d + 0x10050, 0, 16⟩
abbrev SYN_PSTEP_PEND (d : Nat) : Nat := dieBase d + 0x10054
abbrev SYN_PSTEP_PEND_PEND (d : Nat) : Fld := ⟨dieBase d + 0x10054, 0, 32⟩
abbrev SYN_PHASE_ACC (d : Nat) : Nat := dieBase d + 0x10058
abbrev SYN_PHASE_ACC_ACC (d : Nat) : Fld := ⟨dieBase d + 0x10058, 0, 32⟩
abbrev SYN_BUILDOUT (d : Nat) : Nat := dieBase d + 0x1005c
abbrev SYN_BUILDOUT_OFFSET (d : Nat) : Fld := ⟨dieBase d + 0x1005c, 0, 32⟩
abbrev SYN_DISC (d : Nat) : Nat := dieBase d + 0x10060
abbrev SYN_DISC_D (d : Nat) : Fld := ⟨dieBase d + 0x10060, 0, 64⟩
abbrev SYN_FB_EFF (d : Nat) : Nat := dieBase d + 0x10068
abbrev SYN_FB_EFF_M (d : Nat) : Fld := ⟨dieBase d + 0x10068, 0, 62⟩
abbrev SYN_DCO (d : Nat) : Nat := dieBase d + 0x10070
abbrev SYN_DCO_BAND (d : Nat) : Fld := ⟨dieBase d + 0x10070, 16, 7⟩
abbrev SYN_DCO_FINE (d : Nat) : Fld := ⟨dieBase d + 0x10070, 0, 16⟩
abbrev SYN_PHERR (d : Nat) : Nat := dieBase d + 0x10074
abbrev SYN_PHERR_PEAK_PS (d : Nat) : Fld := ⟨dieBase d + 0x10074, 16, 16⟩
abbrev SYN_PHERR_RMS_PS (d : Nat) : Fld := ⟨dieBase d + 0x10074, 0, 16⟩
abbrev SYN_LOSS_CNT (d : Nat) : Nat := dieBase d + 0x10078
abbrev SYN_LOSS_CNT_HOLDOVER (d : Nat) : Fld := ⟨dieBase d + 0x10078, 16, 16⟩
abbrev SYN_LOSS_CNT_LOCK (d : Nat) : Fld := ⟨dieBase d + 0x10078, 0, 16⟩
abbrev SYN_BAND (d k : Nat) : Nat := dieBase d + 0x10400 + k * 8
abbrev SYN_BAND_Entry (d k : Nat) : Fld := ⟨dieBase d + 0x10400 + k * 8, 0, 64⟩

-- Block RAMP (spec/02_synthesis_core.md).
abbrev RAMP_CTRL (d : Nat) : Nat := dieBase d + 0x20000
abbrev RAMP_CTRL_ENABLE (d : Nat) : Fld := ⟨dieBase d + 0x20000, 31, 1⟩
abbrev RAMP_CTRL_START (d : Nat) : Fld := ⟨dieBase d + 0x20000, 30, 1⟩
abbrev RAMP_CTRL_ABORT (d : Nat) : Fld := ⟨dieBase d + 0x20000, 29, 1⟩
abbrev RAMP_CTRL_FOLD (d : Nat) : Fld := ⟨dieBase d + 0x20000, 28, 1⟩
abbrev RAMP_CTRL_SCOPE (d : Nat) : Fld := ⟨dieBase d + 0x20000, 17, 1⟩
abbrev RAMP_CTRL_AT_TICK (d : Nat) : Fld := ⟨dieBase d + 0x20000, 16, 1⟩
abbrev RAMP_CTRL_PROFILE (d : Nat) : Fld := ⟨dieBase d + 0x20000, 0, 4⟩
abbrev RAMP_START_TICK (d : Nat) : Nat := dieBase d + 0x20004
abbrev RAMP_START_TICK_TICK (d : Nat) : Fld := ⟨dieBase d + 0x20004, 0, 64⟩
abbrev RAMP_STATUS (d : Nat) : Nat := dieBase d + 0x2000c
abbrev RAMP_STATUS_LOOPS_LEFT (d : Nat) : Fld := ⟨dieBase d + 0x2000c, 24, 8⟩
abbrev RAMP_STATUS_CAUSE (d : Nat) : Fld := ⟨dieBase d + 0x2000c, 16, 4⟩
abbrev RAMP_STATUS_ABORT_LATE (d : Nat) : Fld := ⟨dieBase d + 0x2000c, 11, 1⟩
abbrev RAMP_STATUS_STATE (d : Nat) : Fld := ⟨dieBase d + 0x2000c, 8, 3⟩
abbrev RAMP_STATUS_SEGMENT (d : Nat) : Fld := ⟨dieBase d + 0x2000c, 4, 4⟩
abbrev RAMP_STATUS_PROFILE (d : Nat) : Fld := ⟨dieBase d + 0x2000c, 0, 4⟩
abbrev RAMP_ACC (d : Nat) : Nat := dieBase d + 0x20010
abbrev RAMP_ACC_A (d : Nat) : Fld := ⟨dieBase d + 0x20010, 0, 64⟩
abbrev RAMP_EVENTS (d : Nat) : Nat := dieBase d + 0x20018
abbrev RAMP_EVENTS_WRITE_BUSY (d : Nat) : Fld := ⟨dieBase d + 0x20018, 4, 1⟩
abbrev RAMP_EVENTS_REFUSED (d : Nat) : Fld := ⟨dieBase d + 0x20018, 3, 1⟩
abbrev RAMP_EVENTS_CLAMPED (d : Nat) : Fld := ⟨dieBase d + 0x20018, 2, 1⟩
abbrev RAMP_EVENTS_ABORTED (d : Nat) : Fld := ⟨dieBase d + 0x20018, 1, 1⟩
abbrev RAMP_EVENTS_DONE (d : Nat) : Fld := ⟨dieBase d + 0x20018, 0, 1⟩
abbrev RAMP_SEG_LEFT (d : Nat) : Nat := dieBase d + 0x2001c
abbrev RAMP_SEG_LEFT_CYCLES (d : Nat) : Fld := ⟨dieBase d + 0x2001c, 0, 24⟩
abbrev RAMP_PROF_CTRL (d p : Nat) : Nat := dieBase d + 0x20020 + p * 4
abbrev RAMP_PROF_CTRL_COUNT (d p : Nat) : Fld := ⟨dieBase d + 0x20020 + p * 4, 8, 8⟩
abbrev RAMP_PROF_CTRL_NEXT (d p : Nat) : Fld := ⟨dieBase d + 0x20020 + p * 4, 4, 4⟩
abbrev RAMP_PROF_CTRL_END (d p : Nat) : Fld := ⟨dieBase d + 0x20020 + p * 4, 0, 2⟩
abbrev RAMP_SEG_INC (d p g : Nat) : Nat := dieBase d + 0x20400 + p * 0x100 + g * 0x10
abbrev RAMP_SEG_INC_INC (d p g : Nat) : Fld := ⟨dieBase d + 0x20400 + p * 0x100 + g * 0x10, 0, 48⟩
abbrev RAMP_SEG_DUR (d p g : Nat) : Nat := dieBase d + 0x20408 + p * 0x100 + g * 0x10
abbrev RAMP_SEG_DUR_DUR (d p g : Nat) : Fld := ⟨dieBase d + 0x20408 + p * 0x100 + g * 0x10, 0, 24⟩

-- Block CLK (spec/03_clocks_and_crossings.md).
abbrev CLK_FAIL_POLICY (d : Nat) : Nat := dieBase d + 0x40000
abbrev CLK_FAIL_POLICY_XO_RETURN (d : Nat) : Fld := ⟨dieBase d + 0x40000, 8, 1⟩
abbrev CLK_FAIL_POLICY_POLICY (d : Nat) : Fld := ⟨dieBase d + 0x40000, 0, 2⟩
abbrev CLK_STATUS (d : Nat) : Nat := dieBase d + 0x40004
abbrev CLK_STATUS_JUDGE (d : Nat) : Fld := ⟨dieBase d + 0x40004, 9, 3⟩
abbrev CLK_STATUS_BPLL_LOCK (d : Nat) : Fld := ⟨dieBase d + 0x40004, 8, 1⟩
abbrev CLK_STATUS_XO_DRIVE (d : Nat) : Fld := ⟨dieBase d + 0x40004, 5, 1⟩
abbrev CLK_STATUS_IOSC_FAIL (d : Nat) : Fld := ⟨dieBase d + 0x40004, 4, 1⟩
abbrev CLK_STATUS_XO_FAIL (d : Nat) : Fld := ⟨dieBase d + 0x40004, 3, 1⟩
abbrev CLK_STATUS_XO_FREQ (d : Nat) : Fld := ⟨dieBase d + 0x40004, 2, 1⟩
abbrev CLK_STATUS_XO_STABLE (d : Nat) : Fld := ⟨dieBase d + 0x40004, 1, 1⟩
abbrev CLK_STATUS_BASE_SRC (d : Nat) : Fld := ⟨dieBase d + 0x40004, 0, 1⟩
abbrev CLK_EVENTS (d : Nat) : Nat := dieBase d + 0x40008
abbrev CLK_EVENTS_MON_REFUSED (d : Nat) : Fld := ⟨dieBase d + 0x40008, 7, 1⟩
abbrev CLK_EVENTS_FAR_RESET (d : Nat) : Fld := ⟨dieBase d + 0x40008, 6, 1⟩
abbrev CLK_EVENTS_BPLL_UNLOCK (d : Nat) : Fld := ⟨dieBase d + 0x40008, 5, 1⟩
abbrev CLK_EVENTS_XO_RETURNED (d : Nat) : Fld := ⟨dieBase d + 0x40008, 4, 1⟩
abbrev CLK_EVENTS_IOSC_FAIL (d : Nat) : Fld := ⟨dieBase d + 0x40008, 3, 1⟩
abbrev CLK_EVENTS_XO_FAIL (d : Nat) : Fld := ⟨dieBase d + 0x40008, 2, 1⟩
abbrev CLK_EVENTS_XO_TIMEOUT (d : Nat) : Fld := ⟨dieBase d + 0x40008, 1, 1⟩
abbrev CLK_EVENTS_XO_STABLE (d : Nat) : Fld := ⟨dieBase d + 0x40008, 0, 1⟩
abbrev CLK_XO_CFG (d : Nat) : Nat := dieBase d + 0x4000c
abbrev CLK_XO_CFG_TMO_MS (d : Nat) : Fld := ⟨dieBase d + 0x4000c, 0, 16⟩
abbrev CLK_XO_COUNT (d : Nat) : Nat := dieBase d + 0x40010
abbrev CLK_XO_COUNT_REF (d : Nat) : Fld := ⟨dieBase d + 0x40010, 16, 16⟩
abbrev CLK_XO_COUNT_LAST (d : Nat) : Fld := ⟨dieBase d + 0x40010, 0, 16⟩
abbrev CLK_FAIL_CNT (d : Nat) : Nat := dieBase d + 0x40014
abbrev CLK_FAIL_CNT_IOSC (d : Nat) : Fld := ⟨dieBase d + 0x40014, 16, 16⟩
abbrev CLK_FAIL_CNT_XO (d : Nat) : Fld := ⟨dieBase d + 0x40014, 0, 16⟩
abbrev CLK_MON_CTRL (d : Nat) : Nat := dieBase d + 0x40020
abbrev CLK_MON_CTRL_EN (d : Nat) : Fld := ⟨dieBase d + 0x40020, 31, 1⟩
abbrev CLK_MON_CTRL_SEL (d : Nat) : Fld := ⟨dieBase d + 0x40020, 16, 8⟩
abbrev CLK_MON_CTRL_DIV (d : Nat) : Fld := ⟨dieBase d + 0x40020, 0, 16⟩
abbrev CLK_MON_STATUS (d : Nat) : Nat := dieBase d + 0x40024
abbrev CLK_MON_STATUS_DRIVING (d : Nat) : Fld := ⟨dieBase d + 0x40024, 0, 1⟩
abbrev CLK_XING_STATUS (d : Nat) : Nat := dieBase d + 0x40030
abbrev CLK_XING_STATUS_LINK (d : Nat) : Fld := ⟨dieBase d + 0x40030, 16, 16⟩
abbrev CLK_XING_STATUS_FAB_NEXT (d : Nat) : Fld := ⟨dieBase d + 0x40030, 3, 1⟩
abbrev CLK_XING_STATUS_FAB_PREV (d : Nat) : Fld := ⟨dieBase d + 0x40030, 2, 1⟩
abbrev CLK_XING_STATUS_ETH (d : Nat) : Fld := ⟨dieBase d + 0x40030, 1, 1⟩
abbrev CLK_XING_STATUS_HOST (d : Nat) : Fld := ⟨dieBase d + 0x40030, 0, 1⟩
abbrev CLK_XING_DISCARD (d : Nat) : Nat := dieBase d + 0x40034
abbrev CLK_XING_DISCARD_COUNT (d : Nat) : Fld := ⟨dieBase d + 0x40034, 0, 32⟩

-- Block CKO (spec/03_clocks_and_crossings.md).
abbrev CKO_CFG (d k : Nat) : Nat := dieBase d + 0x30000 + k * 0x10
abbrev CKO_CFG_EN (d k : Nat) : Fld := ⟨dieBase d + 0x30000 + k * 0x10, 31, 1⟩
abbrev CKO_CFG_ALIGN (d k : Nat) : Fld := ⟨dieBase d + 0x30000 + k * 0x10, 30, 1⟩
abbrev CKO_CFG_POLICY (d k : Nat) : Fld := ⟨dieBase d + 0x30000 + k * 0x10, 28, 2⟩
abbrev CKO_CFG_IDLE (d k : Nat) : Fld := ⟨dieBase d + 0x30000 + k * 0x10, 27, 1⟩
abbrev CKO_CFG_SIDELINE (d k : Nat) : Fld := ⟨dieBase d + 0x30000 + k * 0x10, 26, 1⟩
abbrev CKO_CFG_FORMAT (d k : Nat) : Fld := ⟨dieBase d + 0x30000 + k * 0x10, 16, 3⟩
abbrev CKO_CFG_BYP_DIV (d k : Nat) : Fld := ⟨dieBase d + 0x30000 + k * 0x10, 0, 8⟩
abbrev CKO_DIV (d k : Nat) : Nat := dieBase d + 0x30004 + k * 0x10
abbrev CKO_DIV_INT (d k : Nat) : Fld := ⟨dieBase d + 0x30004 + k * 0x10, 0, 12⟩
abbrev CKO_FRAC (d k : Nat) : Nat := dieBase d + 0x30008 + k * 0x10
abbrev CKO_FRAC_NUM (d k : Nat) : Fld := ⟨dieBase d + 0x30008 + k * 0x10, 16, 16⟩
abbrev CKO_FRAC_DEN (d k : Nat) : Fld := ⟨dieBase d + 0x30008 + k * 0x10, 0, 16⟩
abbrev CKO_PHASE (d k : Nat) : Nat := dieBase d + 0x3000c + k * 0x10
abbrev CKO_PHASE_TARGET (d k : Nat) : Fld := ⟨dieBase d + 0x3000c + k * 0x10, 0, 24⟩
abbrev CKO_STATUS (d k : Nat) : Nat := dieBase d + 0x30100 + k * 4
abbrev CKO_STATUS_ALIGNED (d k : Nat) : Fld := ⟨dieBase d + 0x30100 + k * 4, 31, 1⟩
abbrev CKO_STATUS_STATE (d k : Nat) : Fld := ⟨dieBase d + 0x30100 + k * 4, 28, 3⟩
abbrev CKO_STATUS_PHASE (d k : Nat) : Fld := ⟨dieBase d + 0x30100 + k * 4, 0, 24⟩
abbrev CKO_EVENTS (d : Nat) : Nat := dieBase d + 0x30140
abbrev CKO_EVENTS_REFUSED (d : Nat) : Fld := ⟨dieBase d + 0x30140, 16, 16⟩
abbrev CKO_EVENTS_ALIGN_LOST (d : Nat) : Fld := ⟨dieBase d + 0x30140, 0, 16⟩

-- Block CH (spec/04_tone_channels.md).
abbrev CH_CTRL (d sl : Nat) : Nat := dieBase d + 0x100000 + sl * 0x80
abbrev CH_CTRL_EN (d sl : Nat) : Fld := ⟨dieBase d + 0x100000 + sl * 0x80, 31, 1⟩
abbrev CH_CTRL_TONE_EN (d sl : Nat) : Fld := ⟨dieBase d + 0x100000 + sl * 0x80, 30, 1⟩
abbrev CH_CTRL_MODE (d sl : Nat) : Fld := ⟨dieBase d + 0x100000 + sl * 0x80, 27, 1⟩
abbrev CH_CTRL_HOP (d sl : Nat) : Fld := ⟨dieBase d + 0x100000 + sl * 0x80, 26, 1⟩
abbrev CH_FTW (d sl : Nat) : Nat := dieBase d + 0x100004 + sl * 0x80
abbrev CH_FTW_FTW (d sl : Nat) : Fld := ⟨dieBase d + 0x100004 + sl * 0x80, 0, 32⟩
abbrev CH_PHASE_AMP (d sl : Nat) : Nat := dieBase d + 0x100008 + sl * 0x80
abbrev CH_PHASE_AMP_PHASE (d sl : Nat) : Fld := ⟨dieBase d + 0x100008 + sl * 0x80, 16, 16⟩
abbrev CH_PHASE_AMP_AMP (d sl : Nat) : Fld := ⟨dieBase d + 0x100008 + sl * 0x80, 0, 10⟩
abbrev CH_SEED (d sl : Nat) : Nat := dieBase d + 0x10000c + sl * 0x80
abbrev CH_SEED_SEED (d sl : Nat) : Fld := ⟨dieBase d + 0x10000c + sl * 0x80, 0, 23⟩
abbrev CH_STATE (d sl : Nat) : Nat := dieBase d + 0x100010 + sl * 0x80
abbrev CH_STATE_CURRENT (d sl : Nat) : Fld := ⟨dieBase d + 0x100010 + sl * 0x80, 16, 10⟩
abbrev CH_STATE_TARGET (d sl : Nat) : Fld := ⟨dieBase d + 0x100010 + sl * 0x80, 0, 10⟩
abbrev CH_DRIVE (d sl : Nat) : Nat := dieBase d + 0x100014 + sl * 0x80
abbrev CH_DRIVE_TEMP_STALE (d sl : Nat) : Fld := ⟨dieBase d + 0x100014 + sl * 0x80, 19, 1⟩
abbrev CH_DRIVE_PARKED (d sl : Nat) : Fld := ⟨dieBase d + 0x100014 + sl * 0x80, 18, 1⟩
abbrev CH_DRIVE_DITHER_ON (d sl : Nat) : Fld := ⟨dieBase d + 0x100014 + sl * 0x80, 17, 1⟩
abbrev CH_DRIVE_SAT (d sl : Nat) : Fld := ⟨dieBase d + 0x100014 + sl * 0x80, 16, 1⟩
abbrev CH_DRIVE_WORD (d sl : Nat) : Fld := ⟨dieBase d + 0x100014 + sl * 0x80, 0, 16⟩
abbrev CH_TEMP_SEL (d sl : Nat) : Nat := dieBase d + 0x100018 + sl * 0x80
abbrev CH_TEMP_SEL_SRC (d sl : Nat) : Fld := ⟨dieBase d + 0x100018 + sl * 0x80, 16, 5⟩
abbrev CH_TEMP_SEL_T_REF (d sl : Nat) : Fld := ⟨dieBase d + 0x100018 + sl * 0x80, 0, 16⟩
abbrev CH_MON_SEL (d sl : Nat) : Nat := dieBase d + 0x10001c + sl * 0x80
abbrev CH_MON_SEL_POS (d sl : Nat) : Fld := ⟨dieBase d + 0x10001c + sl * 0x80, 0, 8⟩
abbrev CH_SUBTICK (d sl : Nat) : Nat := dieBase d + 0x100020 + sl * 0x80
abbrev CH_SUBTICK_MODE (d sl : Nat) : Fld := ⟨dieBase d + 0x100020 + sl * 0x80, 3, 1⟩
abbrev CH_SUBTICK_EDGE (d sl : Nat) : Fld := ⟨dieBase d + 0x100020 + sl * 0x80, 0, 3⟩
abbrev CH_TONE_ACC (d sl : Nat) : Nat := dieBase d + 0x100024 + sl * 0x80
abbrev CH_TONE_ACC_ACC (d sl : Nat) : Fld := ⟨dieBase d + 0x100024 + sl * 0x80, 0, 32⟩
abbrev CH_EVENTS (d sl : Nat) : Nat := dieBase d + 0x100028 + sl * 0x80
abbrev CH_EVENTS_TEMP_STALE (d sl : Nat) : Fld := ⟨dieBase d + 0x100028 + sl * 0x80, 3, 1⟩
abbrev CH_EVENTS_SEED_ZERO (d sl : Nat) : Fld := ⟨dieBase d + 0x100028 + sl * 0x80, 2, 1⟩
abbrev CH_EVENTS_PLAN_REFUSED (d sl : Nat) : Fld := ⟨dieBase d + 0x100028 + sl * 0x80, 1, 1⟩
abbrev CH_EVENTS_SAT (d sl : Nat) : Fld := ⟨dieBase d + 0x100028 + sl * 0x80, 0, 1⟩

-- Block LP (spec/05_element_lock_loops.md).
abbrev LP_CTRL (d sl : Nat) : Nat := dieBase d + 0x100040 + sl * 0x80
abbrev LP_CTRL_EN (d sl : Nat) : Fld := ⟨dieBase d + 0x100040 + sl * 0x80, 31, 1⟩
abbrev LP_CTRL_CLEAR (d sl : Nat) : Fld := ⟨dieBase d + 0x100040 + sl * 0x80, 30, 1⟩
abbrev LP_CTRL_FAULT_ACT (d sl : Nat) : Fld := ⟨dieBase d + 0x100040 + sl * 0x80, 29, 1⟩
abbrev LP_CTRL_SETTLE (d sl : Nat) : Fld := ⟨dieBase d + 0x100040 + sl * 0x80, 16, 4⟩
abbrev LP_CTRL_K (d sl : Nat) : Fld := ⟨dieBase d + 0x100040 + sl * 0x80, 0, 4⟩
abbrev LP_KP (d sl : Nat) : Nat := dieBase d + 0x100044 + sl * 0x80
abbrev LP_KP_KP (d sl : Nat) : Fld := ⟨dieBase d + 0x100044 + sl * 0x80, 0, 24⟩
abbrev LP_KI (d sl : Nat) : Nat := dieBase d + 0x100048 + sl * 0x80
abbrev LP_KI_KI (d sl : Nat) : Fld := ⟨dieBase d + 0x100048 + sl * 0x80, 0, 24⟩
abbrev LP_DEMOD_PHASE (d sl : Nat) : Nat := dieBase d + 0x10004c + sl * 0x80
abbrev LP_DEMOD_PHASE_PHASE (d sl : Nat) : Fld := ⟨dieBase d + 0x10004c + sl * 0x80, 0, 16⟩
abbrev LP_WIN (d sl : Nat) : Nat := dieBase d + 0x100050 + sl * 0x80
abbrev LP_WIN_WIN (d sl : Nat) : Fld := ⟨dieBase d + 0x100050 + sl * 0x80, 0, 16⟩
abbrev LP_LOCKCNT (d sl : Nat) : Nat := dieBase d + 0x100054 + sl * 0x80
abbrev LP_LOCKCNT_CNT (d sl : Nat) : Fld := ⟨dieBase d + 0x100054 + sl * 0x80, 0, 7⟩
abbrev LP_LOSSCNT (d sl : Nat) : Nat := dieBase d + 0x100058 + sl * 0x80
abbrev LP_LOSSCNT_CNT (d sl : Nat) : Fld := ⟨dieBase d + 0x100058 + sl * 0x80, 0, 7⟩
abbrev LP_FAULTCNT (d sl : Nat) : Nat := dieBase d + 0x10005c + sl * 0x80
abbrev LP_FAULTCNT_CNT (d sl : Nat) : Fld := ⟨dieBase d + 0x10005c + sl * 0x80, 0, 7⟩
abbrev LP_OVRCNT (d sl : Nat) : Nat := dieBase d + 0x100060 + sl * 0x80
abbrev LP_OVRCNT_HOLD_MAX (d sl : Nat) : Fld := ⟨dieBase d + 0x100060 + sl * 0x80, 8, 7⟩
abbrev LP_OVRCNT_OVR (d sl : Nat) : Fld := ⟨dieBase d + 0x100060 + sl * 0x80, 0, 7⟩
abbrev LP_INTEG (d sl : Nat) : Nat := dieBase d + 0x100064 + sl * 0x80
abbrev LP_INTEG_INTEG (d sl : Nat) : Fld := ⟨dieBase d + 0x100064 + sl * 0x80, 0, 32⟩
abbrev LP_ILIM (d sl : Nat) : Nat := dieBase d + 0x100068 + sl * 0x80
abbrev LP_ILIM_ILIM (d sl : Nat) : Fld := ⟨dieBase d + 0x100068 + sl * 0x80, 0, 15⟩
abbrev LP_I (d sl : Nat) : Nat := dieBase d + 0x10006c + sl * 0x80
abbrev LP_I_I (d sl : Nat) : Fld := ⟨dieBase d + 0x10006c + sl * 0x80, 0, 32⟩
abbrev LP_Q (d sl : Nat) : Nat := dieBase d + 0x100070 + sl * 0x80
abbrev LP_Q_Q (d sl : Nat) : Fld := ⟨dieBase d + 0x100070 + sl * 0x80, 0, 32⟩
abbrev LP_ERR (d sl : Nat) : Nat := dieBase d + 0x100074 + sl * 0x80
abbrev LP_ERR_E (d sl : Nat) : Fld := ⟨dieBase d + 0x100074 + sl * 0x80, 0, 32⟩
abbrev LP_STATUS (d sl : Nat) : Nat := dieBase d + 0x100078 + sl * 0x80
abbrev LP_STATUS_FAULT_CAUSE (d sl : Nat) : Fld := ⟨dieBase d + 0x100078 + sl * 0x80, 30, 2⟩
abbrev LP_STATUS_RUN (d sl : Nat) : Fld := ⟨dieBase d + 0x100078 + sl * 0x80, 23, 7⟩
abbrev LP_STATUS_FAULT_RUN (d sl : Nat) : Fld := ⟨dieBase d + 0x100078 + sl * 0x80, 16, 7⟩
abbrev LP_STATUS_CLAMP (d sl : Nat) : Fld := ⟨dieBase d + 0x100078 + sl * 0x80, 15, 1⟩
abbrev LP_STATUS_HELD_RUN (d sl : Nat) : Fld := ⟨dieBase d + 0x100078 + sl * 0x80, 8, 7⟩
abbrev LP_STATUS_HOLD_FROM (d sl : Nat) : Fld := ⟨dieBase d + 0x100078 + sl * 0x80, 7, 1⟩
abbrev LP_STATUS_HOLD_CAUSE (d sl : Nat) : Fld := ⟨dieBase d + 0x100078 + sl * 0x80, 4, 3⟩
abbrev LP_STATUS_SKIP (d sl : Nat) : Fld := ⟨dieBase d + 0x100078 + sl * 0x80, 3, 1⟩
abbrev LP_STATUS_STATE (d sl : Nat) : Fld := ⟨dieBase d + 0x100078 + sl * 0x80, 0, 3⟩
abbrev LP_EVENTS (d sl : Nat) : Nat := dieBase d + 0x10007c + sl * 0x80
abbrev LP_EVENTS_CFG_REFUSED (d sl : Nat) : Fld := ⟨dieBase d + 0x10007c + sl * 0x80, 7, 1⟩
abbrev LP_EVENTS_TRIM_SAT (d sl : Nat) : Fld := ⟨dieBase d + 0x10007c + sl * 0x80, 6, 1⟩
abbrev LP_EVENTS_TRIM_WRITTEN (d sl : Nat) : Fld := ⟨dieBase d + 0x10007c + sl * 0x80, 5, 1⟩
abbrev LP_EVENTS_OVERRANGE (d sl : Nat) : Fld := ⟨dieBase d + 0x10007c + sl * 0x80, 4, 1⟩
abbrev LP_EVENTS_FAULT (d sl : Nat) : Fld := ⟨dieBase d + 0x10007c + sl * 0x80, 3, 1⟩
abbrev LP_EVENTS_HOLD (d sl : Nat) : Fld := ⟨dieBase d + 0x10007c + sl * 0x80, 2, 1⟩
abbrev LP_EVENTS_LOCK_LOST (d sl : Nat) : Fld := ⟨dieBase d + 0x10007c + sl * 0x80, 1, 1⟩
abbrev LP_EVENTS_LOCKED (d sl : Nat) : Fld := ⟨dieBase d + 0x10007c + sl * 0x80, 0, 1⟩

-- Block KICK (spec/06_setpoint_library.md).
abbrev KICK_CFG (d p : Nat) : Nat := dieBase d + 0x80000 + p * 0x40
abbrev KICK_CFG_LIMIT (d p : Nat) : Fld := ⟨dieBase d + 0x80000 + p * 0x40, 16, 16⟩
abbrev KICK_CFG_LEN (d p : Nat) : Fld := ⟨dieBase d + 0x80000 + p * 0x40, 0, 5⟩
abbrev KICK_S (d p i : Nat) : Nat := dieBase d + 0x80004 + p * 0x40 + i * 4
abbrev KICK_S_S_HI (d p i : Nat) : Fld := ⟨dieBase d + 0x80004 + p * 0x40 + i * 4, 16, 16⟩
abbrev KICK_S_S_LO (d p i : Nat) : Fld := ⟨dieBase d + 0x80004 + p * 0x40 + i * 4, 0, 16⟩

-- Block LIB (spec/06_setpoint_library.md).
abbrev LIB_CTRL (d : Nat) : Nat := dieBase d + 0x88000
abbrev LIB_CTRL_SCRUB_EN (d : Nat) : Fld := ⟨dieBase d + 0x88000, 31, 1⟩
abbrev LIB_CTRL_SCRUB_S (d : Nat) : Fld := ⟨dieBase d + 0x88000, 0, 12⟩
abbrev LIB_STATUS (d : Nat) : Nat := dieBase d + 0x88004
abbrev LIB_STATUS_SCRUB_BUSY (d : Nat) : Fld := ⟨dieBase d + 0x88004, 13, 1⟩
abbrev LIB_STATUS_PEND (d : Nat) : Fld := ⟨dieBase d + 0x88004, 0, 13⟩
abbrev LIB_EVENTS (d : Nat) : Nat := dieBase d + 0x88008
abbrev LIB_EVENTS_KICK_REFUSED (d : Nat) : Fld := ⟨dieBase d + 0x88008, 7, 1⟩
abbrev LIB_EVENTS_UNMAPPED (d : Nat) : Fld := ⟨dieBase d + 0x88008, 6, 1⟩
abbrev LIB_EVENTS_MIRROR_WRITE (d : Nat) : Fld := ⟨dieBase d + 0x88008, 5, 1⟩
abbrev LIB_EVENTS_PARK_REFUSED (d : Nat) : Fld := ⟨dieBase d + 0x88008, 4, 1⟩
abbrev LIB_EVENTS_REPAIRED (d : Nat) : Fld := ⟨dieBase d + 0x88008, 3, 1⟩
abbrev LIB_EVENTS_UE (d : Nat) : Fld := ⟨dieBase d + 0x88008, 2, 1⟩
abbrev LIB_EVENTS_CE (d : Nat) : Fld := ⟨dieBase d + 0x88008, 1, 1⟩
abbrev LIB_EVENTS_DISCARD (d : Nat) : Fld := ⟨dieBase d + 0x88008, 0, 1⟩
abbrev LIB_CE_CNT (d : Nat) : Nat := dieBase d + 0x8800c
abbrev LIB_CE_CNT_COUNT (d : Nat) : Fld := ⟨dieBase d + 0x8800c, 0, 32⟩
abbrev LIB_UE_CNT (d : Nat) : Nat := dieBase d + 0x88010
abbrev LIB_UE_CNT_COUNT (d : Nat) : Fld := ⟨dieBase d + 0x88010, 0, 32⟩
abbrev LIB_UE_LOC (d : Nat) : Nat := dieBase d + 0x88014
abbrev LIB_UE_LOC_VALID (d : Nat) : Fld := ⟨dieBase d + 0x88014, 31, 1⟩
abbrev LIB_UE_LOC_MIRROR (d : Nat) : Fld := ⟨dieBase d + 0x88014, 30, 1⟩
abbrev LIB_UE_LOC_SLOT (d : Nat) : Fld := ⟨dieBase d + 0x88014, 10, 12⟩
abbrev LIB_UE_LOC_STATE (d : Nat) : Fld := ⟨dieBase d + 0x88014, 0, 10⟩
abbrev LIB_REPAIR_CNT (d : Nat) : Nat := dieBase d + 0x88018
abbrev LIB_REPAIR_CNT_COUNT (d : Nat) : Fld := ⟨dieBase d + 0x88018, 0, 32⟩
abbrev LIB_DISCARD_CNT (d : Nat) : Nat := dieBase d + 0x8801c
abbrev LIB_DISCARD_CNT_COUNT (d : Nat) : Fld := ⟨dieBase d + 0x8801c, 0, 32⟩
abbrev LIB_MAP (d e m : Nat) : Nat := dieBase d + 0x8c000 + e * 0x400 + m * 4
abbrev LIB_MAP_STATE (d e m : Nat) : Fld := ⟨dieBase d + 0x8c000 + e * 0x400 + m * 4, 0, 10⟩

-- Block VOL (spec/07_volleys.md).
abbrev VOL_ARM_GUARD : Nat := 0x30000
abbrev VOL_ARM_GUARD_US : Fld := ⟨0x30000, 0, 10⟩
abbrev VOL_STATUS : Nat := 0x30004
abbrev VOL_STATUS_TIME_VALID : Fld := ⟨0x30004, 8, 1⟩
abbrev VOL_STATUS_FREE : Fld := ⟨0x30004, 0, 7⟩
abbrev VOL_EVENTS : Nat := 0x30008
abbrev VOL_EVENTS_DEFERRED : Fld := ⟨0x30008, 10, 1⟩
abbrev VOL_EVENTS_STAGING_DISCARD : Fld := ⟨0x30008, 9, 1⟩
abbrev VOL_EVENTS_SCHED_SKIP : Fld := ⟨0x30008, 8, 1⟩
abbrev VOL_EVENTS_SCHED_FAIL : Fld := ⟨0x30008, 7, 1⟩
abbrev VOL_EVENTS_REEVALUATED : Fld := ⟨0x30008, 6, 1⟩
abbrev VOL_EVENTS_STAGE_REFUSED : Fld := ⟨0x30008, 5, 1⟩
abbrev VOL_EVENTS_ABORT_LATE : Fld := ⟨0x30008, 4, 1⟩
abbrev VOL_EVENTS_ABORTED : Fld := ⟨0x30008, 3, 1⟩
abbrev VOL_EVENTS_FAILED : Fld := ⟨0x30008, 2, 1⟩
abbrev VOL_EVENTS_APPLIED_LATE : Fld := ⟨0x30008, 1, 1⟩
abbrev VOL_EVENTS_APPLIED : Fld := ⟨0x30008, 0, 1⟩
abbrev VOL_IRQ_EN : Nat := 0x3000c
abbrev VOL_IRQ_EN_EN : Fld := ⟨0x3000c, 0, 11⟩
abbrev VOL_SEQ_LAST : Nat := 0x30010
abbrev VOL_SEQ_LAST_SEQ : Fld := ⟨0x30010, 0, 64⟩
abbrev VOL_APPLIED_CNT : Nat := 0x30018
abbrev VOL_APPLIED_CNT_COUNT : Fld := ⟨0x30018, 0, 32⟩
abbrev VOL_FAILED_CNT : Nat := 0x3001c
abbrev VOL_FAILED_CNT_COUNT : Fld := ⟨0x3001c, 0, 32⟩
abbrev VOL_STAGING_DISCARD : Nat := 0x30020
abbrev VOL_STAGING_DISCARD_COUNT : Fld := ⟨0x30020, 0, 32⟩
abbrev VOL_Q_CTRL (q : Nat) : Nat := 0x31000 + q * 0x80
abbrev VOL_Q_CTRL_STAGE (q : Nat) : Fld := ⟨0x31000 + q * 0x80, 31, 1⟩
abbrev VOL_Q_CTRL_RELEASE (q : Nat) : Fld := ⟨0x31000 + q * 0x80, 2, 1⟩
abbrev VOL_Q_CTRL_ABORT (q : Nat) : Fld := ⟨0x31000 + q * 0x80, 1, 1⟩
abbrev VOL_Q_CTRL_OPEN (q : Nat) : Fld := ⟨0x31000 + q * 0x80, 0, 1⟩
abbrev VOL_Q_ID (q : Nat) : Nat := 0x31004 + q * 0x80
abbrev VOL_Q_ID_ID (q : Nat) : Fld := ⟨0x31004 + q * 0x80, 0, 32⟩
abbrev VOL_Q_HDR (q : Nat) : Nat := 0x31008 + q * 0x80
abbrev VOL_Q_HDR_BASE (q : Nat) : Fld := ⟨0x31008 + q * 0x80, 20, 1⟩
abbrev VOL_Q_HDR_HOP (q : Nat) : Fld := ⟨0x31008 + q * 0x80, 19, 1⟩
abbrev VOL_Q_HDR_INTEG (q : Nat) : Fld := ⟨0x31008 + q * 0x80, 17, 2⟩
abbrev VOL_Q_HDR_LATE (q : Nat) : Fld := ⟨0x31008 + q * 0x80, 16, 1⟩
abbrev VOL_Q_HDR_COUNT (q : Nat) : Fld := ⟨0x31008 + q * 0x80, 0, 15⟩
abbrev VOL_Q_TIME_NS (q : Nat) : Nat := 0x3100c + q * 0x80
abbrev VOL_Q_TIME_NS_NS (q : Nat) : Fld := ⟨0x3100c + q * 0x80, 0, 32⟩
abbrev VOL_Q_TIME_SEC_LO (q : Nat) : Nat := 0x31010 + q * 0x80
abbrev VOL_Q_TIME_SEC_LO_SEC (q : Nat) : Fld := ⟨0x31010 + q * 0x80, 0, 32⟩
abbrev VOL_Q_TIME_SEC_HI (q : Nat) : Nat := 0x31014 + q * 0x80
abbrev VOL_Q_TIME_SEC_HI_SEC (q : Nat) : Fld := ⟨0x31014 + q * 0x80, 0, 16⟩
abbrev VOL_Q_SEQ (q : Nat) : Nat := 0x31018 + q * 0x80
abbrev VOL_Q_SEQ_SEQ (q : Nat) : Fld := ⟨0x31018 + q * 0x80, 0, 64⟩
abbrev VOL_Q_TAG (q i : Nat) : Nat := 0x31020 + q * 0x80 + i * 4
abbrev VOL_Q_TAG_TAG (q i : Nat) : Fld := ⟨0x31020 + q * 0x80 + i * 4, 0, 32⟩
abbrev VOL_Q_STATUS (q : Nat) : Nat := 0x31040 + q * 0x80
abbrev VOL_Q_STATUS_CAUSE (q : Nat) : Fld := ⟨0x31040 + q * 0x80, 28, 4⟩
abbrev VOL_Q_STATUS_ABORT_LATE (q : Nat) : Fld := ⟨0x31040 + q * 0x80, 8, 1⟩
abbrev VOL_Q_STATUS_BUSY (q : Nat) : Fld := ⟨0x31040 + q * 0x80, 7, 1⟩
abbrev VOL_Q_STATUS_STATE (q : Nat) : Fld := ⟨0x31040 + q * 0x80, 0, 4⟩
abbrev VOL_Q_APPLY_TICK (q : Nat) : Nat := 0x31044 + q * 0x80
abbrev VOL_Q_APPLY_TICK_TICK (q : Nat) : Fld := ⟨0x31044 + q * 0x80, 0, 64⟩
abbrev VOL_Q_ARM (q : Nat) : Nat := 0x3104c + q * 0x80
abbrev VOL_Q_ARM_DIES (q : Nat) : Fld := ⟨0x3104c + q * 0x80, 0, 8⟩
abbrev VOL_Q_REPORT_A (q : Nat) : Nat := 0x31050 + q * 0x80
abbrev VOL_Q_REPORT_A_UNCHANGED (q : Nat) : Fld := ⟨0x31050 + q * 0x80, 16, 15⟩
abbrev VOL_Q_REPORT_A_APPLIED (q : Nat) : Fld := ⟨0x31050 + q * 0x80, 0, 15⟩
abbrev VOL_Q_REPORT_B (q : Nat) : Nat := 0x31054 + q * 0x80
abbrev VOL_Q_REPORT_B_UNSERVED (q : Nat) : Fld := ⟨0x31054 + q * 0x80, 16, 15⟩
abbrev VOL_Q_REPORT_B_INACTIVE (q : Nat) : Fld := ⟨0x31054 + q * 0x80, 0, 15⟩
abbrev VOL_Q_REPORT_C (q : Nat) : Nat := 0x31058 + q * 0x80
abbrev VOL_Q_REPORT_C_PARKED (q : Nat) : Fld := ⟨0x31058 + q * 0x80, 16, 15⟩
abbrev VOL_Q_REPORT_C_OVERRIDDEN (q : Nat) : Fld := ⟨0x31058 + q * 0x80, 0, 15⟩
abbrev VOL_Q_REPORT_D (q : Nat) : Nat := 0x3105c + q * 0x80
abbrev VOL_Q_REPORT_D_DEFERRED (q : Nat) : Fld := ⟨0x3105c + q * 0x80, 0, 15⟩

-- Block SCHED (spec/07_volleys.md).
abbrev SCHED_CTRL : Nat := 0x30100
abbrev SCHED_CTRL_RUN : Fld := ⟨0x30100, 31, 1⟩
abbrev SCHED_CTRL_CATCHUP : Fld := ⟨0x30100, 1, 1⟩
abbrev SCHED_CTRL_BASE : Fld := ⟨0x30100, 0, 1⟩
abbrev SCHED_PERIOD : Nat := 0x30104
abbrev SCHED_PERIOD_TICKS : Fld := ⟨0x30104, 0, 32⟩
abbrev SCHED_ANCHOR : Nat := 0x30108
abbrev SCHED_ANCHOR_G : Fld := ⟨0x30108, 0, 64⟩
abbrev SCHED_STATUS : Nat := 0x30110
abbrev SCHED_STATUS_RUNNING : Fld := ⟨0x30110, 31, 1⟩
abbrev SCHED_STATUS_WAIT_TIME : Fld := ⟨0x30110, 30, 1⟩
abbrev SCHED_STATUS_LAST : Fld := ⟨0x30110, 16, 8⟩
abbrev SCHED_STATUS_COUNT : Fld := ⟨0x30110, 0, 9⟩
abbrev SCHED_NEXT : Nat := 0x30114
abbrev SCHED_NEXT_TICK : Fld := ⟨0x30114, 0, 64⟩
abbrev SCHED_SKIP_CNT : Nat := 0x3011c
abbrev SCHED_SKIP_CNT_COUNT : Fld := ⟨0x3011c, 0, 32⟩
abbrev SCHED_FAIL_CNT : Nat := 0x30120
abbrev SCHED_FAIL_CNT_COUNT : Fld := ⟨0x30120, 0, 32⟩
abbrev SCHED_OVERRIDE_CNT : Nat := 0x30124
abbrev SCHED_OVERRIDE_CNT_COUNT : Fld := ⟨0x30124, 0, 32⟩
abbrev SCHED_DIGEST : Nat := 0x30128
abbrev SCHED_DIGEST_D : Fld := ⟨0x30128, 0, 32⟩

-- Block TIME (spec/08_network_time.md).
abbrev TIME_CTRL : Nat := 0x20000
abbrev TIME_CTRL_EN : Fld := ⟨0x20000, 31, 1⟩
abbrev TIME_CTRL_AUTO : Fld := ⟨0x20000, 1, 1⟩
abbrev TIME_CTRL_PREF : Fld := ⟨0x20000, 0, 1⟩
abbrev TIME_STATUS : Nat := 0x20004
abbrev TIME_STATUS_VALID : Fld := ⟨0x20004, 31, 1⟩
abbrev TIME_STATUS_HOLDOVER : Fld := ⟨0x20004, 30, 1⟩
abbrev TIME_STATUS_FIRST_BACK : Fld := ⟨0x20004, 29, 1⟩
abbrev TIME_STATUS_SLEWING : Fld := ⟨0x20004, 28, 1⟩
abbrev TIME_STATUS_ACTIVE : Fld := ⟨0x20004, 24, 2⟩
abbrev TIME_STATUS_SERVO : Fld := ⟨0x20004, 20, 3⟩
abbrev TIME_EVENTS : Nat := 0x20008
abbrev TIME_EVENTS_LAUNCH_LATE : Fld := ⟨0x20008, 14, 1⟩
abbrev TIME_EVENTS_LAUNCH_DROP : Fld := ⟨0x20008, 13, 1⟩
abbrev TIME_EVENTS_LAUNCH_SENT : Fld := ⟨0x20008, 12, 1⟩
abbrev TIME_EVENTS_DIE_SKEW : Fld := ⟨0x20008, 11, 1⟩
abbrev TIME_EVENTS_REMAP : Fld := ⟨0x20008, 10, 1⟩
abbrev TIME_EVENTS_FIRST_BACK : Fld := ⟨0x20008, 9, 1⟩
abbrev TIME_EVENTS_AUTH_FAIL : Fld := ⟨0x20008, 8, 1⟩
abbrev TIME_EVENTS_RESTEP_REFUSED : Fld := ⟨0x20008, 7, 1⟩
abbrev TIME_EVENTS_RESTEPPED : Fld := ⟨0x20008, 6, 1⟩
abbrev TIME_EVENTS_HO_EXIT : Fld := ⟨0x20008, 5, 1⟩
abbrev TIME_EVENTS_HOLDOVER : Fld := ⟨0x20008, 4, 1⟩
abbrev TIME_EVENTS_BACKWARD : Fld := ⟨0x20008, 3, 1⟩
abbrev TIME_EVENTS_ANOMALY : Fld := ⟨0x20008, 2, 1⟩
abbrev TIME_EVENTS_SWITCHED : Fld := ⟨0x20008, 1, 1⟩
abbrev TIME_EVENTS_STEPPED : Fld := ⟨0x20008, 0, 1⟩
abbrev TIME_IRQ_EN : Nat := 0x2000c
abbrev TIME_IRQ_EN_EN : Fld := ⟨0x2000c, 0, 15⟩
abbrev TIME_NOW_NS : Nat := 0x20010
abbrev TIME_NOW_NS_NS : Fld := ⟨0x20010, 0, 30⟩
abbrev TIME_NOW_SEC : Nat := 0x20014
abbrev TIME_NOW_SEC_SEC : Fld := ⟨0x20014, 0, 48⟩
abbrev TIME_SERVO_CFG : Nat := 0x20020
abbrev TIME_SERVO_CFG_FILTER : Fld := ⟨0x20020, 28, 4⟩
abbrev TIME_SERVO_CFG_DRATE : Fld := ⟨0x20020, 16, 8⟩
abbrev TIME_SERVO_CFG_SLEW : Fld := ⟨0x20020, 8, 8⟩
abbrev TIME_SERVO_CFG_BW : Fld := ⟨0x20020, 0, 8⟩
abbrev TIME_JUMP_THRESH : Nat := 0x20024
abbrev TIME_JUMP_THRESH_NS : Fld := ⟨0x20024, 0, 32⟩
abbrev TIME_AGREE : Nat := 0x20028
abbrev TIME_AGREE_NS : Fld := ⟨0x20028, 0, 32⟩
abbrev TIME_LOSS_CFG : Nat := 0x2002c
abbrev TIME_LOSS_CFG_ACQ : Fld := ⟨0x2002c, 16, 8⟩
abbrev TIME_LOSS_CFG_ANN_TMO : Fld := ⟨0x2002c, 8, 8⟩
abbrev TIME_LOSS_CFG_SYNC_TMO : Fld := ⟨0x2002c, 0, 8⟩
abbrev TIME_RESTEP : Nat := 0x20030
abbrev TIME_RESTEP_GO : Fld := ⟨0x20030, 31, 1⟩
abbrev TIME_RESTEP_DOM : Fld := ⟨0x20030, 0, 1⟩
abbrev TIME_RESTEP_LEFT : Nat := 0x20034
abbrev TIME_RESTEP_LEFT_COUNT : Fld := ⟨0x20034, 0, 5⟩
abbrev TIME_HO_SEC : Nat := 0x20038
abbrev TIME_HO_SEC_SEC : Fld := ⟨0x20038, 0, 32⟩
abbrev TIME_ANOMALY_CNT : Nat := 0x2003c
abbrev TIME_ANOMALY_CNT_COUNT : Fld := ⟨0x2003c, 0, 32⟩
abbrev TIME_TICK_OUT : Nat := 0x20040
abbrev TIME_TICK_OUT_EN : Fld := ⟨0x20040, 31, 1⟩
abbrev TIME_TICK_OUT_WIDTH : Fld := ⟨0x20040, 16, 8⟩
abbrev TIME_TICK_OUT_DIV : Fld := ⟨0x20040, 0, 16⟩
abbrev TIME_PPS_OUT : Nat := 0x20044
abbrev TIME_PPS_OUT_EN : Fld := ⟨0x20044, 31, 1⟩
abbrev TIME_PPS_OUT_LOCAL : Fld := ⟨0x20044, 30, 1⟩
abbrev TIME_PPS_OUT_WIDTH_US : Fld := ⟨0x20044, 0, 20⟩
abbrev TIME_DOM_CFG (x : Nat) : Nat := 0x20100 + x * 0x40
abbrev TIME_DOM_CFG_EN (x : Nat) : Fld := ⟨0x20100 + x * 0x40, 31, 1⟩
abbrev TIME_DOM_CFG_AUTH (x : Nat) : Fld := ⟨0x20100 + x * 0x40, 30, 1⟩
abbrev TIME_DOM_CFG_TXKEY (x : Nat) : Fld := ⟨0x20100 + x * 0x40, 27, 3⟩
abbrev TIME_DOM_CFG_PORTS (x : Nat) : Fld := ⟨0x20100 + x * 0x40, 25, 2⟩
abbrev TIME_DOM_CFG_DOMAIN (x : Nat) : Fld := ⟨0x20100 + x * 0x40, 16, 8⟩
abbrev TIME_DOM_CFG_SDO (x : Nat) : Fld := ⟨0x20100 + x * 0x40, 0, 12⟩
abbrev TIME_DOM_STATUS (x : Nat) : Nat := 0x20104 + x * 0x40
abbrev TIME_DOM_STATUS_LOG_SYNC (x : Nat) : Fld := ⟨0x20104 + x * 0x40, 16, 8⟩
abbrev TIME_DOM_STATUS_TWO_STEP (x : Nat) : Fld := ⟨0x20104 + x * 0x40, 6, 1⟩
abbrev TIME_DOM_STATUS_PORT (x : Nat) : Fld := ⟨0x20104 + x * 0x40, 4, 2⟩
abbrev TIME_DOM_STATUS_STATE (x : Nat) : Fld := ⟨0x20104 + x * 0x40, 0, 3⟩
abbrev TIME_DOM_OFFSET (x : Nat) : Nat := 0x20108 + x * 0x40
abbrev TIME_DOM_OFFSET_PS (x : Nat) : Fld := ⟨0x20108 + x * 0x40, 0, 32⟩
abbrev TIME_DOM_MPD (x : Nat) : Nat := 0x2010c + x * 0x40
abbrev TIME_DOM_MPD_PS (x : Nat) : Fld := ⟨0x2010c + x * 0x40, 0, 32⟩
abbrev TIME_DOM_FREQ (x : Nat) : Nat := 0x20110 + x * 0x40
abbrev TIME_DOM_FREQ_F (x : Nat) : Fld := ⟨0x20110 + x * 0x40, 0, 32⟩
abbrev TIME_DOM_GM (x : Nat) : Nat := 0x20114 + x * 0x40
abbrev TIME_DOM_GM_ID (x : Nat) : Fld := ⟨0x20114 + x * 0x40, 0, 64⟩
abbrev TIME_DOM_UPDATE_CNT (x : Nat) : Nat := 0x2011c + x * 0x40
abbrev TIME_DOM_UPDATE_CNT_COUNT (x : Nat) : Fld := ⟨0x2011c + x * 0x40, 0, 32⟩

-- Block ETH (spec/08_network_time.md).
abbrev ETH_CTRL (p : Nat) : Nat := 0x80000 + p * 0x100
abbrev ETH_CTRL_EN (p : Nat) : Fld := ⟨0x80000 + p * 0x100, 31, 1⟩
abbrev ETH_CTRL_TRANSPORT (p : Nat) : Fld := ⟨0x80000 + p * 0x100, 28, 1⟩
abbrev ETH_CTRL_L2_ADDR (p : Nat) : Fld := ⟨0x80000 + p * 0x100, 27, 1⟩
abbrev ETH_CTRL_TS_MODE (p : Nat) : Fld := ⟨0x80000 + p * 0x100, 26, 1⟩
abbrev ETH_CTRL_PLANE (p : Nat) : Fld := ⟨0x80000 + p * 0x100, 25, 1⟩
abbrev ETH_CTRL_MODE (p : Nat) : Fld := ⟨0x80000 + p * 0x100, 0, 2⟩
abbrev ETH_STATUS (p : Nat) : Nat := 0x80004 + p * 0x100
abbrev ETH_STATUS_LINK (p : Nat) : Fld := ⟨0x80004 + p * 0x100, 31, 1⟩
abbrev ETH_STATUS_AN_DONE (p : Nat) : Fld := ⟨0x80004 + p * 0x100, 30, 1⟩
abbrev ETH_STATUS_RATE (p : Nat) : Fld := ⟨0x80004 + p * 0x100, 29, 1⟩
abbrev ETH_STATUS_REF_SYNTH (p : Nat) : Fld := ⟨0x80004 + p * 0x100, 28, 1⟩
abbrev ETH_STATUS_PRESENT (p : Nat) : Fld := ⟨0x80004 + p * 0x100, 0, 1⟩
abbrev ETH_EVENTS (p : Nat) : Nat := 0x80008 + p * 0x100
abbrev ETH_EVENTS_FCS_ERR (p : Nat) : Fld := ⟨0x80008 + p * 0x100, 3, 1⟩
abbrev ETH_EVENTS_DISCARD (p : Nat) : Fld := ⟨0x80008 + p * 0x100, 2, 1⟩
abbrev ETH_EVENTS_LINK_DOWN (p : Nat) : Fld := ⟨0x80008 + p * 0x100, 1, 1⟩
abbrev ETH_EVENTS_LINK_UP (p : Nat) : Fld := ⟨0x80008 + p * 0x100, 0, 1⟩
abbrev ETH_IPV4 (p : Nat) : Nat := 0x8000c + p * 0x100
abbrev ETH_IPV4_ADDR (p : Nat) : Fld := ⟨0x8000c + p * 0x100, 0, 32⟩
abbrev ETH_MAC (p : Nat) : Nat := 0x80010 + p * 0x100
abbrev ETH_MAC_MAC (p : Nat) : Fld := ⟨0x80010 + p * 0x100, 0, 48⟩
abbrev ETH_RX_BOARD (p : Nat) : Nat := 0x80018 + p * 0x100
abbrev ETH_RX_BOARD_PS (p : Nat) : Fld := ⟨0x80018 + p * 0x100, 0, 20⟩
abbrev ETH_TX_BOARD (p : Nat) : Nat := 0x8001c + p * 0x100
abbrev ETH_TX_BOARD_PS (p : Nat) : Fld := ⟨0x8001c + p * 0x100, 0, 20⟩
abbrev ETH_ASYM (p : Nat) : Nat := 0x80020 + p * 0x100
abbrev ETH_ASYM_PS (p : Nat) : Fld := ⟨0x80020 + p * 0x100, 0, 32⟩
abbrev ETH_RX_PTP_CNT (p : Nat) : Nat := 0x80024 + p * 0x100
abbrev ETH_RX_PTP_CNT_COUNT (p : Nat) : Fld := ⟨0x80024 + p * 0x100, 0, 32⟩
abbrev ETH_TX_PTP_CNT (p : Nat) : Nat := 0x80028 + p * 0x100
abbrev ETH_TX_PTP_CNT_COUNT (p : Nat) : Fld := ⟨0x80028 + p * 0x100, 0, 32⟩
abbrev ETH_DISCARD_CNT (p : Nat) : Nat := 0x8002c + p * 0x100
abbrev ETH_DISCARD_CNT_COUNT (p : Nat) : Fld := ⟨0x8002c + p * 0x100, 0, 32⟩
abbrev ETH_AUTH_FAIL_CNT (p : Nat) : Nat := 0x80030 + p * 0x100
abbrev ETH_AUTH_FAIL_CNT_COUNT (p : Nat) : Fld := ⟨0x80030 + p * 0x100, 0, 32⟩
abbrev ETH_TEL_CFG : Nat := 0x80200
abbrev ETH_TEL_CFG_EN : Fld := ⟨0x80200, 31, 1⟩
abbrev ETH_TEL_CFG_PORTS : Fld := ⟨0x80200, 28, 2⟩
abbrev ETH_TEL_CFG_PERIOD : Fld := ⟨0x80200, 0, 16⟩
abbrev ETH_TEL_DST : Nat := 0x80204
abbrev ETH_TEL_DST_MAC : Fld := ⟨0x80204, 0, 48⟩
abbrev ETH_TEL_SEQ : Nat := 0x8020c
abbrev ETH_TEL_SEQ_SEQ : Fld := ⟨0x8020c, 0, 64⟩
abbrev ETH_TEL_DELAYED_CNT : Nat := 0x80214
abbrev ETH_TEL_DELAYED_CNT_COUNT : Fld := ⟨0x80214, 0, 32⟩
abbrev ETH_LAUNCH_DROP_CNT : Nat := 0x80300
abbrev ETH_LAUNCH_DROP_CNT_COUNT : Fld := ⟨0x80300, 0, 32⟩
abbrev ETH_L_CTRL (j : Nat) : Nat := 0x80400 + j * 0x40
abbrev ETH_L_CTRL_RELEASE (j : Nat) : Fld := ⟨0x80400 + j * 0x40, 3, 1⟩
abbrev ETH_L_CTRL_ABORT (j : Nat) : Fld := ⟨0x80400 + j * 0x40, 2, 1⟩
abbrev ETH_L_CTRL_ARM (j : Nat) : Fld := ⟨0x80400 + j * 0x40, 1, 1⟩
abbrev ETH_L_CTRL_OPEN (j : Nat) : Fld := ⟨0x80400 + j * 0x40, 0, 1⟩
abbrev ETH_L_CFG (j : Nat) : Nat := 0x80404 + j * 0x40
abbrev ETH_L_CFG_LATE (j : Nat) : Fld := ⟨0x80404 + j * 0x40, 31, 1⟩
abbrev ETH_L_CFG_PORT (j : Nat) : Fld := ⟨0x80404 + j * 0x40, 30, 1⟩
abbrev ETH_L_CFG_LEN (j : Nat) : Fld := ⟨0x80404 + j * 0x40, 0, 11⟩
abbrev ETH_L_TIME_NS (j : Nat) : Nat := 0x80408 + j * 0x40
abbrev ETH_L_TIME_NS_NS (j : Nat) : Fld := ⟨0x80408 + j * 0x40, 0, 32⟩
abbrev ETH_L_TIME_SEC_LO (j : Nat) : Nat := 0x8040c + j * 0x40
abbrev ETH_L_TIME_SEC_LO_SEC (j : Nat) : Fld := ⟨0x8040c + j * 0x40, 0, 32⟩
abbrev ETH_L_TIME_SEC_HI (j : Nat) : Nat := 0x80410 + j * 0x40
abbrev ETH_L_TIME_SEC_HI_SEC (j : Nat) : Fld := ⟨0x80410 + j * 0x40, 0, 16⟩
abbrev ETH_L_STATUS (j : Nat) : Nat := 0x80414 + j * 0x40
abbrev ETH_L_STATUS_CAUSE (j : Nat) : Fld := ⟨0x80414 + j * 0x40, 28, 4⟩
abbrev ETH_L_STATUS_ABORT_LATE (j : Nat) : Fld := ⟨0x80414 + j * 0x40, 8, 1⟩
abbrev ETH_L_STATUS_STATE (j : Nat) : Fld := ⟨0x80414 + j * 0x40, 0, 4⟩
abbrev ETH_L_TX_NS (j : Nat) : Nat := 0x80418 + j * 0x40
abbrev ETH_L_TX_NS_NS (j : Nat) : Fld := ⟨0x80418 + j * 0x40, 0, 30⟩
abbrev ETH_L_TX_SEC_LO (j : Nat) : Nat := 0x8041c + j * 0x40
abbrev ETH_L_TX_SEC_LO_SEC (j : Nat) : Fld := ⟨0x8041c + j * 0x40, 0, 32⟩
abbrev ETH_L_TX_SEC_HI (j : Nat) : Nat := 0x80420 + j * 0x40
abbrev ETH_L_TX_SEC_HI_SEC (j : Nat) : Fld := ⟨0x80420 + j * 0x40, 0, 16⟩
abbrev ETH_L_BUF (j i : Nat) : Nat := 0x88000 + j * 0x800 + i * 4

-- Block ELINK (spec/09_element_links.md).
abbrev ELINK_CTRL (d p : Nat) : Nat := dieBase d + 0x60000 + p * 0x40
abbrev ELINK_CTRL_EN (d p : Nat) : Fld := ⟨dieBase d + 0x60000 + p * 0x40, 31, 1⟩
abbrev ELINK_CTRL_PARK (d p : Nat) : Fld := ⟨dieBase d + 0x60000 + p * 0x40, 30, 1⟩
abbrev ELINK_CTRL_RETRAIN (d p : Nat) : Fld := ⟨dieBase d + 0x60000 + p * 0x40, 29, 1⟩
abbrev ELINK_CTRL_RATE_EN (d p : Nat) : Fld := ⟨dieBase d + 0x60000 + p * 0x40, 24, 3⟩
abbrev ELINK_CTRL_WIDTH (d p : Nat) : Fld := ⟨dieBase d + 0x60000 + p * 0x40, 8, 2⟩
abbrev ELINK_CTRL_DELAY (d p : Nat) : Fld := ⟨dieBase d + 0x60000 + p * 0x40, 0, 8⟩
abbrev ELINK_STATUS (d p : Nat) : Nat := dieBase d + 0x60004 + p * 0x40
abbrev ELINK_STATUS_STATE (d p : Nat) : Fld := ⟨dieBase d + 0x60004 + p * 0x40, 29, 3⟩
abbrev ELINK_STATUS_RATE (d p : Nat) : Fld := ⟨dieBase d + 0x60004 + p * 0x40, 27, 2⟩
abbrev ELINK_STATUS_WIDTH (d p : Nat) : Fld := ⟨dieBase d + 0x60004 + p * 0x40, 25, 2⟩
abbrev ELINK_STATUS_ROLE (d p : Nat) : Fld := ⟨dieBase d + 0x60004 + p * 0x40, 24, 1⟩
abbrev ELINK_STATUS_COVERING (d p : Nat) : Fld := ⟨dieBase d + 0x60004 + p * 0x40, 23, 1⟩
abbrev ELINK_STATUS_LOCK (d p : Nat) : Fld := ⟨dieBase d + 0x60004 + p * 0x40, 22, 1⟩
abbrev ELINK_STATUS_EFE_ACTIVE (d p : Nat) : Fld := ⟨dieBase d + 0x60004 + p * 0x40, 21, 1⟩
abbrev ELINK_STATUS_ADOPTING (d p : Nat) : Fld := ⟨dieBase d + 0x60004 + p * 0x40, 20, 1⟩
abbrev ELINK_STATUS_CAUSE (d p : Nat) : Fld := ⟨dieBase d + 0x60004 + p * 0x40, 16, 4⟩
abbrev ELINK_EVENTS (d p : Nat) : Nat := dieBase d + 0x60008 + p * 0x40
abbrev ELINK_EVENTS_CFG_REFUSED (d p : Nat) : Fld := ⟨dieBase d + 0x60008 + p * 0x40, 11, 1⟩
abbrev ELINK_EVENTS_REPEAT_SHORT (d p : Nat) : Fld := ⟨dieBase d + 0x60008 + p * 0x40, 10, 1⟩
abbrev ELINK_EVENTS_CAPS_CHANGED (d p : Nat) : Fld := ⟨dieBase d + 0x60008 + p * 0x40, 9, 1⟩
abbrev ELINK_EVENTS_ADOPTED (d p : Nat) : Fld := ⟨dieBase d + 0x60008 + p * 0x40, 8, 1⟩
abbrev ELINK_EVENTS_EFE_PARKED (d p : Nat) : Fld := ⟨dieBase d + 0x60008 + p * 0x40, 7, 1⟩
abbrev ELINK_EVENTS_UNTIMED (d p : Nat) : Fld := ⟨dieBase d + 0x60008 + p * 0x40, 6, 1⟩
abbrev ELINK_EVENTS_DL_CRC (d p : Nat) : Fld := ⟨dieBase d + 0x60008 + p * 0x40, 5, 1⟩
abbrev ELINK_EVENTS_UL_MISS (d p : Nat) : Fld := ⟨dieBase d + 0x60008 + p * 0x40, 4, 1⟩
abbrev ELINK_EVENTS_UL_CRC (d p : Nat) : Fld := ⟨dieBase d + 0x60008 + p * 0x40, 3, 1⟩
abbrev ELINK_EVENTS_FAILED (d p : Nat) : Fld := ⟨dieBase d + 0x60008 + p * 0x40, 2, 1⟩
abbrev ELINK_EVENTS_DOWN (d p : Nat) : Fld := ⟨dieBase d + 0x60008 + p * 0x40, 1, 1⟩
abbrev ELINK_EVENTS_UP (d p : Nat) : Fld := ⟨dieBase d + 0x60008 + p * 0x40, 0, 1⟩
abbrev ELINK_CAP (d p : Nat) : Nat := dieBase d + 0x6000c + p * 0x40
abbrev ELINK_CAP_CAP (d p : Nat) : Fld := ⟨dieBase d + 0x6000c + p * 0x40, 0, 64⟩
abbrev ELINK_EFE (d p : Nat) : Nat := dieBase d + 0x60014 + p * 0x40
abbrev ELINK_EFE_UNTIMED (d p : Nat) : Fld := ⟨dieBase d + 0x60014 + p * 0x40, 8, 1⟩
abbrev ELINK_EFE_STATUS (d p : Nat) : Fld := ⟨dieBase d + 0x60014 + p * 0x40, 0, 8⟩
abbrev ELINK_UL_CRC_CNT (d p : Nat) : Nat := dieBase d + 0x60018 + p * 0x40
abbrev ELINK_UL_CRC_CNT_COUNT (d p : Nat) : Fld := ⟨dieBase d + 0x60018 + p * 0x40, 0, 32⟩
abbrev ELINK_UL_MISS_CNT (d p : Nat) : Nat := dieBase d + 0x6001c + p * 0x40
abbrev ELINK_UL_MISS_CNT_COUNT (d p : Nat) : Fld := ⟨dieBase d + 0x6001c + p * 0x40, 0, 32⟩
abbrev ELINK_DL_CRC_CNT (d p : Nat) : Nat := dieBase d + 0x60020 + p * 0x40
abbrev ELINK_DL_CRC_CNT_COUNT (d p : Nat) : Fld := ⟨dieBase d + 0x60020 + p * 0x40, 0, 32⟩
abbrev ELINK_RETRAIN_CNT (d p : Nat) : Nat := dieBase d + 0x60024 + p * 0x40
abbrev ELINK_RETRAIN_CNT_COUNT (d p : Nat) : Fld := ⟨dieBase d + 0x60024 + p * 0x40, 0, 32⟩
abbrev ELINK_REPEAT_CNT (d p : Nat) : Nat := dieBase d + 0x60028 + p * 0x40
abbrev ELINK_REPEAT_CNT_COUNT (d p : Nat) : Fld := ⟨dieBase d + 0x60028 + p * 0x40, 0, 32⟩
abbrev ELINK_EQ (d p : Nat) : Nat := dieBase d + 0x6002c + p * 0x40
abbrev ELINK_EQ_VTH (d p : Nat) : Fld := ⟨dieBase d + 0x6002c + p * 0x40, 24, 8⟩
abbrev ELINK_EQ_DFE1 (d p : Nat) : Fld := ⟨dieBase d + 0x6002c + p * 0x40, 16, 8⟩
abbrev ELINK_EQ_DFE2 (d p : Nat) : Fld := ⟨dieBase d + 0x6002c + p * 0x40, 8, 8⟩
abbrev ELINK_EQ_CTLE (d p : Nat) : Fld := ⟨dieBase d + 0x6002c + p * 0x40, 0, 8⟩
abbrev ELINK_TRAIN (d p : Nat) : Nat := dieBase d + 0x60030 + p * 0x40
abbrev ELINK_TRAIN_FAILED_RATES (d p : Nat) : Fld := ⟨dieBase d + 0x60030 + p * 0x40, 16, 3⟩
abbrev ELINK_TRAIN_ERRORS (d p : Nat) : Fld := ⟨dieBase d + 0x60030 + p * 0x40, 0, 16⟩
abbrev ELINK_SUMMARY (d : Nat) : Nat := dieBase d + 0x60400
abbrev ELINK_SUMMARY_UP (d : Nat) : Fld := ⟨dieBase d + 0x60400, 16, 16⟩
abbrev ELINK_SUMMARY_EVENT (d : Nat) : Fld := ⟨dieBase d + 0x60400, 0, 16⟩

-- Block EFE (spec/09_element_links.md).
abbrev EFE_CMD (d p : Nat) : Nat := dieBase d + 0x200000 + p * 0x100
abbrev EFE_CMD_GO (d p : Nat) : Fld := ⟨dieBase d + 0x200000 + p * 0x100, 31, 1⟩
abbrev EFE_CMD_OPCODE (d p : Nat) : Fld := ⟨dieBase d + 0x200000 + p * 0x100, 0, 6⟩
abbrev EFE_ADDR (d p : Nat) : Nat := dieBase d + 0x200004 + p * 0x100
abbrev EFE_ADDR_ADDR (d p : Nat) : Fld := ⟨dieBase d + 0x200004 + p * 0x100, 0, 16⟩
abbrev EFE_DATA (d p : Nat) : Nat := dieBase d + 0x200008 + p * 0x100
abbrev EFE_DATA_DATA (d p : Nat) : Fld := ⟨dieBase d + 0x200008 + p * 0x100, 0, 32⟩
abbrev EFE_RSP (d p : Nat) : Nat := dieBase d + 0x20000c + p * 0x100
abbrev EFE_RSP_BUSY (d p : Nat) : Fld := ⟨dieBase d + 0x20000c + p * 0x100, 31, 1⟩
abbrev EFE_RSP_DONE (d p : Nat) : Fld := ⟨dieBase d + 0x20000c + p * 0x100, 30, 1⟩
abbrev EFE_RSP_RESULT (d p : Nat) : Fld := ⟨dieBase d + 0x20000c + p * 0x100, 16, 8⟩
abbrev EFE_RSP_WIN (d p : Nat) : Fld := ⟨dieBase d + 0x20000c + p * 0x100, 9, 1⟩
abbrev EFE_RSP_OVR (d p : Nat) : Fld := ⟨dieBase d + 0x20000c + p * 0x100, 8, 1⟩
abbrev EFE_RSP_TAG (d p : Nat) : Fld := ⟨dieBase d + 0x20000c + p * 0x100, 0, 8⟩
abbrev EFE_RSP_DATA (d p : Nat) : Nat := dieBase d + 0x200010 + p * 0x100
abbrev EFE_RSP_DATA_DATA (d p : Nat) : Fld := ⟨dieBase d + 0x200010 + p * 0x100, 0, 32⟩
abbrev EFE_OVR_CNT (d p : Nat) : Nat := dieBase d + 0x200014 + p * 0x100
abbrev EFE_OVR_CNT_COUNT (d p : Nat) : Fld := ⟨dieBase d + 0x200014 + p * 0x100, 0, 32⟩
abbrev EFE_NSTALE_CNT (d p : Nat) : Nat := dieBase d + 0x200018 + p * 0x100
abbrev EFE_NSTALE_CNT_COUNT (d p : Nat) : Fld := ⟨dieBase d + 0x200018 + p * 0x100, 0, 32⟩
abbrev EFE_WIN_CNT (d p : Nat) : Nat := dieBase d + 0x20001c + p * 0x100
abbrev EFE_WIN_CNT_COUNT (d p : Nat) : Fld := ⟨dieBase d + 0x20001c + p * 0x100, 0, 32⟩
abbrev EFE_TEMP (d p k : Nat) : Nat := dieBase d + 0x200040 + p * 0x100 + k * 4
abbrev EFE_TEMP_VALID (d p k : Nat) : Fld := ⟨dieBase d + 0x200040 + p * 0x100 + k * 4, 31, 1⟩
abbrev EFE_TEMP_AGE (d p k : Nat) : Fld := ⟨dieBase d + 0x200040 + p * 0x100 + k * 4, 16, 15⟩
abbrev EFE_TEMP_TEMP (d p k : Nat) : Fld := ⟨dieBase d + 0x200040 + p * 0x100 + k * 4, 0, 16⟩
abbrev EFE_WIN (d p i : Nat) : Nat := dieBase d + 0x208000 + p * 0x400 + i * 4
abbrev EFE_WIN_EN (d p i : Nat) : Fld := ⟨dieBase d + 0x208000 + p * 0x400 + i * 4, 31, 1⟩
abbrev EFE_WIN_HIGH (d p i : Nat) : Fld := ⟨dieBase d + 0x208000 + p * 0x400 + i * 4, 16, 12⟩
abbrev EFE_WIN_LOW (d p i : Nat) : Fld := ⟨dieBase d + 0x208000 + p * 0x400 + i * 4, 0, 12⟩
abbrev EFE_WIN_POP_LO (d : Nat) : Nat := dieBase d + 0x20f000
abbrev EFE_WIN_POP_LO_TICK (d : Nat) : Fld := ⟨dieBase d + 0x20f000, 0, 32⟩
abbrev EFE_WIN_POP_HI (d : Nat) : Nat := dieBase d + 0x20f004
abbrev EFE_WIN_POP_HI_VALID (d : Nat) : Fld := ⟨dieBase d + 0x20f004, 31, 1⟩
abbrev EFE_WIN_POP_HI_PORT (d : Nat) : Fld := ⟨dieBase d + 0x20f004, 24, 4⟩
abbrev EFE_WIN_POP_HI_POS (d : Nat) : Fld := ⟨dieBase d + 0x20f004, 16, 8⟩
abbrev EFE_WIN_POP_HI_SAMPLE (d : Nat) : Fld := ⟨dieBase d + 0x20f004, 0, 12⟩
abbrev EFE_WIN_STATUS (d : Nat) : Nat := dieBase d + 0x20f008
abbrev EFE_WIN_STATUS_COUNT (d : Nat) : Fld := ⟨dieBase d + 0x20f008, 0, 9⟩
abbrev EFE_WIN_LOST_CNT (d : Nat) : Nat := dieBase d + 0x20f00c
abbrev EFE_WIN_LOST_CNT_COUNT (d : Nat) : Fld := ⟨dieBase d + 0x20f00c, 0, 32⟩
abbrev EFE_EVENTS (d : Nat) : Nat := dieBase d + 0x20f010
abbrev EFE_EVENTS_EFE_PARKED (d : Nat) : Fld := ⟨dieBase d + 0x20f010, 4, 1⟩
abbrev EFE_EVENTS_CMD_REFUSED (d : Nat) : Fld := ⟨dieBase d + 0x20f010, 3, 1⟩
abbrev EFE_EVENTS_CMD_DONE (d : Nat) : Fld := ⟨dieBase d + 0x20f010, 2, 1⟩
abbrev EFE_EVENTS_WIN_OVERFLOW (d : Nat) : Fld := ⟨dieBase d + 0x20f010, 1, 1⟩
abbrev EFE_EVENTS_WIN (d : Nat) : Fld := ⟨dieBase d + 0x20f010, 0, 1⟩
abbrev EFE_IRQ_EN (d : Nat) : Nat := dieBase d + 0x20f014
abbrev EFE_IRQ_EN_EN (d : Nat) : Fld := ⟨dieBase d + 0x20f014, 0, 5⟩

-- Block CAL (spec/10_calibration.md).
abbrev CAL_CTRL (d : Nat) : Nat := dieBase d + 0x50000
abbrev CAL_CTRL_EN (d : Nat) : Fld := ⟨dieBase d + 0x50000, 31, 1⟩
abbrev CAL_CTRL_LOAD_EQ (d : Nat) : Fld := ⟨dieBase d + 0x50000, 25, 1⟩
abbrev CAL_CTRL_LOAD_TDC (d : Nat) : Fld := ⟨dieBase d + 0x50000, 24, 1⟩
abbrev CAL_CTRL_REQ (d : Nat) : Fld := ⟨dieBase d + 0x50000, 16, 5⟩
abbrev CAL_CTRL_ABORT (d : Nat) : Fld := ⟨dieBase d + 0x50000, 8, 5⟩
abbrev CAL_CTRL_ITEM_EN (d : Nat) : Fld := ⟨dieBase d + 0x50000, 0, 5⟩
abbrev CAL_CFG (d : Nat) : Nat := dieBase d + 0x50004
abbrev CAL_CFG_DT (d : Nat) : Fld := ⟨dieBase d + 0x50004, 24, 4⟩
abbrev CAL_CFG_MIN_INTERVAL (d : Nat) : Fld := ⟨dieBase d + 0x50004, 0, 16⟩
abbrev CAL_TOL_A (d : Nat) : Nat := dieBase d + 0x50008
abbrev CAL_TOL_A_TDC (d : Nat) : Fld := ⟨dieBase d + 0x50008, 16, 16⟩
abbrev CAL_TOL_A_GAIN (d : Nat) : Fld := ⟨dieBase d + 0x50008, 0, 16⟩
abbrev CAL_TOL_B (d : Nat) : Nat := dieBase d + 0x5000c
abbrev CAL_TOL_B_DEMOD (d : Nat) : Fld := ⟨dieBase d + 0x5000c, 16, 16⟩
abbrev CAL_TOL_B_SKEW (d : Nat) : Fld := ⟨dieBase d + 0x5000c, 8, 8⟩
abbrev CAL_TOL_B_LINK (d : Nat) : Fld := ⟨dieBase d + 0x5000c, 0, 8⟩
abbrev CAL_STATUS (d : Nat) : Nat := dieBase d + 0x50010
abbrev CAL_STATUS_RUNNING (d : Nat) : Fld := ⟨dieBase d + 0x50010, 29, 3⟩
abbrev CAL_STATUS_PENDING (d : Nat) : Fld := ⟨dieBase d + 0x50010, 24, 5⟩
abbrev CAL_STATUS_BLENDING (d : Nat) : Fld := ⟨dieBase d + 0x50010, 16, 5⟩
abbrev CAL_STATUS_VALID (d : Nat) : Fld := ⟨dieBase d + 0x50010, 8, 5⟩
abbrev CAL_STATUS_STALE (d : Nat) : Fld := ⟨dieBase d + 0x50010, 0, 5⟩
abbrev CAL_EVENTS (d : Nat) : Nat := dieBase d + 0x50014
abbrev CAL_EVENTS_BUSY_CAL (d : Nat) : Fld := ⟨dieBase d + 0x50014, 8, 1⟩
abbrev CAL_EVENTS_SAVED (d : Nat) : Fld := ⟨dieBase d + 0x50014, 7, 1⟩
abbrev CAL_EVENTS_CAL_RESTORED_OLD (d : Nat) : Fld := ⟨dieBase d + 0x50014, 6, 1⟩
abbrev CAL_EVENTS_OVERRULED (d : Nat) : Fld := ⟨dieBase d + 0x50014, 5, 1⟩
abbrev CAL_EVENTS_ABORT_LATE (d : Nat) : Fld := ⟨dieBase d + 0x50014, 4, 1⟩
abbrev CAL_EVENTS_ABORTED (d : Nat) : Fld := ⟨dieBase d + 0x50014, 3, 1⟩
abbrev CAL_EVENTS_INPUT_UNSUITABLE (d : Nat) : Fld := ⟨dieBase d + 0x50014, 2, 1⟩
abbrev CAL_EVENTS_CAL_DISAGREE (d : Nat) : Fld := ⟨dieBase d + 0x50014, 1, 1⟩
abbrev CAL_EVENTS_DONE (d : Nat) : Fld := ⟨dieBase d + 0x50014, 0, 1⟩
abbrev CAL_IRQ_EN (d : Nat) : Nat := dieBase d + 0x50018
abbrev CAL_IRQ_EN_EN (d : Nat) : Fld := ⟨dieBase d + 0x50018, 0, 9⟩
abbrev CAL_T_NOW (d : Nat) : Nat := dieBase d + 0x5001c
abbrev CAL_T_NOW_TEMP (d : Nat) : Fld := ⟨dieBase d + 0x5001c, 0, 16⟩
abbrev CAL_SKEW (d : Nat) : Nat := dieBase d + 0x50030
abbrev CAL_SKEW_MEAS (d : Nat) : Fld := ⟨dieBase d + 0x50030, 16, 16⟩
abbrev CAL_SKEW_APPLIED (d : Nat) : Fld := ⟨dieBase d + 0x50030, 0, 16⟩
abbrev CAL_SAVE (d : Nat) : Nat := dieBase d + 0x50034
abbrev CAL_SAVE_SEQ (d : Nat) : Fld := ⟨dieBase d + 0x50034, 16, 16⟩
abbrev CAL_SAVE_SLOT (d : Nat) : Fld := ⟨dieBase d + 0x50034, 1, 1⟩
abbrev CAL_SAVE_BUSY (d : Nat) : Fld := ⟨dieBase d + 0x50034, 0, 1⟩
abbrev CAL_DEMOD_CFG (d : Nat) : Nat := dieBase d + 0x50038
abbrev CAL_DEMOD_CFG_ANISO (d : Nat) : Fld := ⟨dieBase d + 0x50038, 24, 4⟩
abbrev CAL_DEMOD_CFG_MIN_WIN (d : Nat) : Fld := ⟨dieBase d + 0x50038, 16, 8⟩
abbrev CAL_DEMOD_CFG_SLEW (d : Nat) : Fld := ⟨dieBase d + 0x50038, 0, 13⟩
abbrev CAL_GAIN_CFG (d : Nat) : Nat := dieBase d + 0x5003c
abbrev CAL_GAIN_CFG_PROBE (d : Nat) : Fld := ⟨dieBase d + 0x5003c, 0, 8⟩
abbrev CAL_ITEM_STATUS (d k : Nat) : Nat := dieBase d + 0x50040 + k * 0x10
abbrev CAL_ITEM_STATUS_RESULT (d k : Nat) : Fld := ⟨dieBase d + 0x50040 + k * 0x10, 28, 4⟩
abbrev CAL_ITEM_STATUS_CAUSE (d k : Nat) : Fld := ⟨dieBase d + 0x50040 + k * 0x10, 24, 4⟩
abbrev CAL_ITEM_STATUS_T_LAST (d k : Nat) : Fld := ⟨dieBase d + 0x50040 + k * 0x10, 0, 16⟩
abbrev CAL_ITEM_AGE (d k : Nat) : Nat := dieBase d + 0x50044 + k * 0x10
abbrev CAL_ITEM_AGE_SEC (d k : Nat) : Fld := ⟨dieBase d + 0x50044 + k * 0x10, 0, 32⟩
abbrev CAL_ITEM_CNT (d k : Nat) : Nat := dieBase d + 0x50048 + k * 0x10
abbrev CAL_ITEM_CNT_ACCEPTED (d k : Nat) : Fld := ⟨dieBase d + 0x50048 + k * 0x10, 16, 16⟩
abbrev CAL_ITEM_CNT_FAILED (d k : Nat) : Fld := ⟨dieBase d + 0x50048 + k * 0x10, 0, 16⟩
abbrev CAL_TDC_TAP (d i : Nat) : Nat := dieBase d + 0x50100 + i * 4
abbrev CAL_TDC_TAP_DELAY (d i : Nat) : Fld := ⟨dieBase d + 0x50100 + i * 4, 0, 16⟩
abbrev CAL_TDC_SET (d i : Nat) : Nat := dieBase d + 0x50200 + i * 4
abbrev CAL_TDC_SET_DELAY (d i : Nat) : Fld := ⟨dieBase d + 0x50200 + i * 4, 0, 16⟩
abbrev CAL_EQ_SET (d p : Nat) : Nat := dieBase d + 0x50300 + p * 4
abbrev CAL_EQ_SET_VTH (d p : Nat) : Fld := ⟨dieBase d + 0x50300 + p * 4, 24, 8⟩
abbrev CAL_EQ_SET_DFE1 (d p : Nat) : Fld := ⟨dieBase d + 0x50300 + p * 4, 16, 8⟩
abbrev CAL_EQ_SET_DFE2 (d p : Nat) : Fld := ⟨dieBase d + 0x50300 + p * 4, 8, 8⟩

-- Block IMG (spec/11_start_up_and_retained_state.md).
abbrev IMG_STATUS : Nat := 0x50000
abbrev IMG_STATUS_SEC_VERSION : Fld := ⟨0x50000, 24, 8⟩
abbrev IMG_STATUS_KEY_SLOT : Fld := ⟨0x50000, 22, 2⟩
abbrev IMG_STATUS_PIN_FAILED : Fld := ⟨0x50000, 20, 1⟩
abbrev IMG_STATUS_FALLBACK : Fld := ⟨0x50000, 19, 1⟩
abbrev IMG_STATUS_BOOT_SLOT : Fld := ⟨0x50000, 18, 1⟩
abbrev IMG_STATUS_CAUSE : Fld := ⟨0x50000, 12, 4⟩
abbrev IMG_STATUS_STATE : Fld := ⟨0x50000, 0, 3⟩
abbrev IMG_EVENTS : Nat := 0x50004
abbrev IMG_EVENTS_PIN_FAILED : Fld := ⟨0x50004, 5, 1⟩
abbrev IMG_EVENTS_FL_DONE : Fld := ⟨0x50004, 4, 1⟩
abbrev IMG_EVENTS_NO_IMAGE : Fld := ⟨0x50004, 3, 1⟩
abbrev IMG_EVENTS_FALLBACK : Fld := ⟨0x50004, 2, 1⟩
abbrev IMG_EVENTS_REFUSED : Fld := ⟨0x50004, 1, 1⟩
abbrev IMG_EVENTS_LOADED : Fld := ⟨0x50004, 0, 1⟩
abbrev IMG_VERSION : Nat := 0x50008
abbrev IMG_VERSION_VERSION : Fld := ⟨0x50008, 0, 32⟩
abbrev IMG_SLOT_A_VER : Nat := 0x50010
abbrev IMG_SLOT_A_VER_VERSION : Fld := ⟨0x50010, 0, 32⟩
abbrev IMG_SLOT_B_VER : Nat := 0x50014
abbrev IMG_SLOT_B_VER_VERSION : Fld := ⟨0x50014, 0, 32⟩
abbrev IMG_SLOTS : Nat := 0x50018
abbrev IMG_SLOTS_B_CAUSE : Fld := ⟨0x50018, 12, 4⟩
abbrev IMG_SLOTS_B_STATE : Fld := ⟨0x50018, 8, 2⟩
abbrev IMG_SLOTS_A_CAUSE : Fld := ⟨0x50018, 4, 4⟩
abbrev IMG_SLOTS_A_STATE : Fld := ⟨0x50018, 0, 2⟩
abbrev IMG_FAIL : Nat := 0x5001c
abbrev IMG_FAIL_VALID : Fld := ⟨0x5001c, 31, 1⟩
abbrev IMG_FAIL_SLOT : Fld := ⟨0x5001c, 30, 1⟩
abbrev IMG_FAIL_DIE : Fld := ⟨0x5001c, 24, 3⟩
abbrev IMG_FAIL_SECTION : Fld := ⟨0x5001c, 0, 10⟩
abbrev IMG_FAIL_ADDR : Nat := 0x50020
abbrev IMG_FAIL_ADDR_ADDR : Fld := ⟨0x50020, 0, 32⟩
abbrev IMG_DIGEST (i : Nat) : Nat := 0x50030 + i * 4
abbrev IMG_DIGEST_D (i : Nat) : Fld := ⟨0x50030 + i * 4, 0, 32⟩
abbrev IMG_PIN : Nat := 0x50060
abbrev IMG_PIN_ONCE : Fld := ⟨0x50060, 2, 1⟩
abbrev IMG_PIN_SLOT : Fld := ⟨0x50060, 0, 2⟩
abbrev IMG_CTRL : Nat := 0x50064
abbrev IMG_CTRL_RESTART : Fld := ⟨0x50064, 31, 1⟩
abbrev IMG_FL_CTRL : Nat := 0x50080
abbrev IMG_FL_CTRL_GO : Fld := ⟨0x50080, 31, 1⟩
abbrev IMG_FL_CTRL_SLOT : Fld := ⟨0x50080, 8, 1⟩
abbrev IMG_FL_CTRL_OP : Fld := ⟨0x50080, 0, 2⟩
abbrev IMG_FL_ADDR : Nat := 0x50084
abbrev IMG_FL_ADDR_BLOCK : Fld := ⟨0x50084, 0, 16⟩
abbrev IMG_FL_STATUS : Nat := 0x50088
abbrev IMG_FL_STATUS_BUSY : Fld := ⟨0x50088, 31, 1⟩
abbrev IMG_FL_STATUS_DONE : Fld := ⟨0x50088, 30, 1⟩
abbrev IMG_FL_STATUS_RESULT : Fld := ⟨0x50088, 0, 4⟩
abbrev IMG_FL_BUF (i : Nat) : Nat := 0x51000 + i * 4

-- Block RET (spec/11_start_up_and_retained_state.md).
abbrev RET_CFG : Nat := 0x54000
abbrev RET_CFG_EN : Fld := ⟨0x54000, 31, 1⟩
abbrev RET_CFG_RESTORE : Fld := ⟨0x54000, 30, 1⟩
abbrev RET_CFG_PERIOD : Fld := ⟨0x54000, 0, 10⟩
abbrev RET_STATUS : Nat := 0x54004
abbrev RET_STATUS_RESTORED : Fld := ⟨0x54004, 16, 5⟩
abbrev RET_STATUS_SOURCE : Fld := ⟨0x54004, 12, 2⟩
abbrev RET_STATUS_CAUSE : Fld := ⟨0x54004, 8, 4⟩
abbrev RET_STATUS_TRIM_FULL : Fld := ⟨0x54004, 1, 1⟩
abbrev RET_STATUS_WRITING : Fld := ⟨0x54004, 0, 1⟩
abbrev RET_EVENTS : Nat := 0x54008
abbrev RET_EVENTS_WRITE_FAIL : Fld := ⟨0x54008, 4, 1⟩
abbrev RET_EVENTS_TRIM_FULL : Fld := ⟨0x54008, 3, 1⟩
abbrev RET_EVENTS_TORN : Fld := ⟨0x54008, 2, 1⟩
abbrev RET_EVENTS_SUPPLY_WARN : Fld := ⟨0x54008, 1, 1⟩
abbrev RET_EVENTS_EMERGENCY : Fld := ⟨0x54008, 0, 1⟩
abbrev RET_SEQ : Nat := 0x5400c
abbrev RET_SEQ_SEQ : Fld := ⟨0x5400c, 0, 32⟩
abbrev RET_RESTORED_SEQ : Nat := 0x54010
abbrev RET_RESTORED_SEQ_SEQ : Fld := ⟨0x54010, 0, 32⟩
abbrev RET_TORN_CNT : Nat := 0x54014
abbrev RET_TORN_CNT_COUNT : Fld := ⟨0x54014, 0, 32⟩
abbrev RET_TRIM : Nat := 0x54018
abbrev RET_TRIM_COUNT : Fld := ⟨0x54018, 0, 17⟩
abbrev RET_CTRL : Nat := 0x5401c
abbrev RET_CTRL_FORGET : Fld := ⟨0x5401c, 1, 1⟩
abbrev RET_CTRL_SNAP_NOW : Fld := ⟨0x5401c, 0, 1⟩

-- Block SEC (spec/12_security.md).
abbrev SEC_STATUS : Nat := 0x40000
abbrev SEC_STATUS_ROLLBACK : Fld := ⟨0x40000, 16, 8⟩
abbrev SEC_STATUS_BURNING : Fld := ⟨0x40000, 7, 1⟩
abbrev SEC_STATUS_ENTROPY_OK : Fld := ⟨0x40000, 6, 1⟩
abbrev SEC_STATUS_HP1_EN : Fld := ⟨0x40000, 5, 1⟩
abbrev SEC_STATUS_DEBUG_LOCKED : Fld := ⟨0x40000, 4, 1⟩
abbrev SEC_STATUS_LIFECYCLE : Fld := ⟨0x40000, 0, 2⟩
abbrev SEC_EVENTS : Nat := 0x40004
abbrev SEC_EVENTS_LOG_BROKEN : Fld := ⟨0x40004, 6, 1⟩
abbrev SEC_EVENTS_LOCKOUT : Fld := ⟨0x40004, 5, 1⟩
abbrev SEC_EVENTS_RWL_REFUSED : Fld := ⟨0x40004, 4, 1⟩
abbrev SEC_EVENTS_IMAGE_REFUSED : Fld := ⟨0x40004, 3, 1⟩
abbrev SEC_EVENTS_NO_SESSION : Fld := ⟨0x40004, 2, 1⟩
abbrev SEC_EVENTS_AUTH_FAIL : Fld := ⟨0x40004, 1, 1⟩
abbrev SEC_EVENTS_SESSION : Fld := ⟨0x40004, 0, 1⟩
abbrev SEC_IRQ_EN : Nat := 0x40008
abbrev SEC_IRQ_EN_EN : Fld := ⟨0x40008, 0, 7⟩
abbrev SEC_FAIL_CNT : Nat := 0x4000c
abbrev SEC_FAIL_CNT_CONSEC : Fld := ⟨0x4000c, 24, 8⟩
abbrev SEC_FAIL_CNT_TOTAL : Fld := ⟨0x4000c, 0, 24⟩
abbrev SEC_SESS_CTRL : Nat := 0x40010
abbrev SEC_SESS_CTRL_OPEN : Fld := ⟨0x40010, 31, 1⟩
abbrev SEC_SESS_CTRL_PROVE : Fld := ⟨0x40010, 30, 1⟩
abbrev SEC_SESS_CTRL_CLOSE : Fld := ⟨0x40010, 29, 1⟩
abbrev SEC_SESS_STATUS : Nat := 0x40014
abbrev SEC_SESS_STATUS_CAUSE : Fld := ⟨0x40014, 28, 4⟩
abbrev SEC_SESS_STATUS_OWNER_SLOT : Fld := ⟨0x40014, 8, 2⟩
abbrev SEC_SESS_STATUS_FIRST_OWNER : Fld := ⟨0x40014, 7, 1⟩
abbrev SEC_SESS_STATUS_PORT : Fld := ⟨0x40014, 6, 1⟩
abbrev SEC_SESS_STATUS_STATE : Fld := ⟨0x40014, 0, 3⟩
abbrev SEC_SESS_CFG : Nat := 0x40018
abbrev SEC_SESS_CFG_LOCKOUT_S : Fld := ⟨0x40018, 24, 8⟩
abbrev SEC_SESS_CFG_FAIL_LIMIT : Fld := ⟨0x40018, 16, 8⟩
abbrev SEC_SESS_CFG_IDLE_S : Fld := ⟨0x40018, 0, 16⟩
abbrev SEC_NOSESS_CNT : Nat := 0x4001c
abbrev SEC_NOSESS_CNT_COUNT : Fld := ⟨0x4001c, 0, 32⟩
abbrev SEC_SEQ_LAST : Nat := 0x40020
abbrev SEC_SEQ_LAST_SEQ : Fld := ⟨0x40020, 0, 64⟩
abbrev SEC_SESS_ID : Nat := 0x40028
abbrev SEC_SESS_ID_ID : Fld := ⟨0x40028, 0, 64⟩
abbrev SEC_AW_CTRL : Nat := 0x40030
abbrev SEC_AW_CTRL_COMMIT : Fld := ⟨0x40030, 31, 1⟩
abbrev SEC_AW_CTRL_DISCARD : Fld := ⟨0x40030, 30, 1⟩
abbrev SEC_AW_STATUS : Nat := 0x40034
abbrev SEC_AW_STATUS_RESULT : Fld := ⟨0x40034, 28, 4⟩
abbrev SEC_AW_STATUS_VERIFYING : Fld := ⟨0x40034, 27, 1⟩
abbrev SEC_AW_STATUS_COUNT : Fld := ⟨0x40034, 0, 13⟩
abbrev SEC_AW_SEQ : Nat := 0x40038
abbrev SEC_AW_SEQ_SEQ : Fld := ⟨0x40038, 0, 64⟩
abbrev SEC_AW_TAG (i : Nat) : Nat := 0x40040 + i * 4
abbrev SEC_AW_TAG_TAG (i : Nat) : Fld := ⟨0x40040 + i * 4, 0, 32⟩
abbrev SEC_OWNER_CTRL : Nat := 0x40060
abbrev SEC_OWNER_CTRL_OP : Fld := ⟨0x40060, 31, 1⟩
abbrev SEC_OWNER_CTRL_SLOT : Fld := ⟨0x40060, 0, 2⟩
abbrev SEC_OWNER_STATE : Nat := 0x40064
abbrev SEC_OWNER_STATE_STATE : Fld := ⟨0x40064, 0, 8⟩
abbrev SEC_OWNER_LEFT : Nat := 0x40068
abbrev SEC_OWNER_LEFT_REVOKE : Fld := ⟨0x40068, 4, 4⟩
abbrev SEC_OWNER_LEFT_PROGRAM : Fld := ⟨0x40068, 0, 4⟩
abbrev SEC_OWNER_HASH (i : Nat) : Nat := 0x40070 + i * 4
abbrev SEC_OWNER_HASH_HASH (i : Nat) : Fld := ⟨0x40070 + i * 4, 0, 32⟩
abbrev SEC_LIFECYCLE : Nat := 0x400a0
abbrev SEC_LIFECYCLE_TARGET : Fld := ⟨0x400a0, 0, 2⟩
abbrev SEC_ROLLBACK : Nat := 0x400a4
abbrev SEC_ROLLBACK_COMMIT : Fld := ⟨0x400a4, 0, 1⟩
abbrev SEC_DIE_DISABLE : Nat := 0x400a8
abbrev SEC_DIE_DISABLE_MASK : Fld := ⟨0x400a8, 0, 8⟩
abbrev SEC_HP1 : Nat := 0x400ac
abbrev SEC_HP1_EN : Fld := ⟨0x400ac, 0, 1⟩
abbrev SEC_DEBUG : Nat := 0x400b0
abbrev SEC_DEBUG_LOCK : Fld := ⟨0x400b0, 0, 1⟩
abbrev SEC_LEFT : Nat := 0x400b4
abbrev SEC_LEFT_ROLLBACK : Fld := ⟨0x400b4, 24, 8⟩
abbrev SEC_LEFT_DIE_DISABLE : Fld := ⟨0x400b4, 16, 4⟩
abbrev SEC_LEFT_LIFECYCLE : Fld := ⟨0x400b4, 12, 2⟩
abbrev SEC_LEFT_HP1 : Fld := ⟨0x400b4, 9, 1⟩
abbrev SEC_LEFT_DEBUG : Fld := ⟨0x400b4, 8, 1⟩
abbrev SEC_RWL_STATUS : Nat := 0x400b8
abbrev SEC_RWL_STATUS_CAUSE : Fld := ⟨0x400b8, 28, 4⟩
abbrev SEC_DEBUG_DENY_CNT : Nat := 0x400bc
abbrev SEC_DEBUG_DENY_CNT_COUNT : Fld := ⟨0x400bc, 0, 32⟩
abbrev SEC_PTP_KEY_CTRL : Nat := 0x400c0
abbrev SEC_PTP_KEY_CTRL_VALID : Fld := ⟨0x400c0, 31, 1⟩
abbrev SEC_PTP_KEY_CTRL_SLOT : Fld := ⟨0x400c0, 24, 3⟩
abbrev SEC_PTP_KEY_CTRL_SPP : Fld := ⟨0x400c0, 16, 8⟩
abbrev SEC_PTP_KEY_CTRL_KEY_ID : Fld := ⟨0x400c0, 0, 8⟩
abbrev SEC_PTP_KEY_STATUS : Nat := 0x400c4
abbrev SEC_PTP_KEY_STATUS_VALID : Fld := ⟨0x400c4, 0, 8⟩
abbrev SEC_TEL_KEY_CTRL : Nat := 0x400c8
abbrev SEC_TEL_KEY_CTRL_VALID : Fld := ⟨0x400c8, 31, 1⟩
abbrev SEC_TEL_KEY_CTRL_STATUS : Fld := ⟨0x400c8, 0, 1⟩
abbrev SEC_KEY_DATA (i : Nat) : Nat := 0x400e0 + i * 4
abbrev SEC_KEY_DATA_KEY (i : Nat) : Fld := ⟨0x400e0 + i * 4, 0, 32⟩
abbrev SEC_ATT_CTRL : Nat := 0x40100
abbrev SEC_ATT_CTRL_GO : Fld := ⟨0x40100, 31, 1⟩
abbrev SEC_ATT_STATUS : Nat := 0x40104
abbrev SEC_ATT_STATUS_BUSY : Fld := ⟨0x40104, 31, 1⟩
abbrev SEC_ATT_STATUS_DONE : Fld := ⟨0x40104, 30, 1⟩
abbrev SEC_ATT_NONCE (i : Nat) : Nat := 0x40110 + i * 4
abbrev SEC_ATT_NONCE_NONCE (i : Nat) : Fld := ⟨0x40110 + i * 4, 0, 32⟩
abbrev SEC_LOG_HEAD : Nat := 0x40200
abbrev SEC_LOG_HEAD_INDEX : Fld := ⟨0x40200, 0, 32⟩
abbrev SEC_LOG_SEL : Nat := 0x40204
abbrev SEC_LOG_SEL_INDEX : Fld := ⟨0x40204, 0, 32⟩
abbrev SEC_LOG_STATUS : Nat := 0x40208
abbrev SEC_LOG_STATUS_GONE : Fld := ⟨0x40208, 31, 1⟩
abbrev SEC_SESS_BUF (i : Nat) : Nat := 0x40400 + i * 4
abbrev SEC_SESS_REQ (i : Nat) : Nat := 0x40800 + i * 4
abbrev SEC_ATT_REPORT (i : Nat) : Nat := 0x40c00 + i * 4
abbrev SEC_LOG_ENTRY (i : Nat) : Nat := 0x40e00 + i * 4
abbrev SEC_CERT (i : Nat) : Nat := 0x41000 + i * 4

-- Block FAULT (spec/13_in_service_operation.md).
abbrev FAULT_STATUS : Nat := 0x10000
abbrev FAULT_STATUS_SOK : Fld := ⟨0x10000, 31, 1⟩
abbrev FAULT_STATUS_NMI : Fld := ⟨0x10000, 30, 1⟩
abbrev FAULT_STATUS_QUORUM : Fld := ⟨0x10000, 29, 1⟩
abbrev FAULT_STATUS_COVER_ACTIVE : Fld := ⟨0x10000, 28, 1⟩
abbrev FAULT_STATUS_UNSERVED : Fld := ⟨0x10000, 27, 1⟩
abbrev FAULT_STATUS_COVERED_DIE : Fld := ⟨0x10000, 24, 3⟩
abbrev FAULT_STATUS_SIDELINED : Fld := ⟨0x10000, 16, 8⟩
abbrev FAULT_STATUS_LIVE : Fld := ⟨0x10000, 8, 8⟩
abbrev FAULT_F0_EVENTS : Nat := 0x10004
abbrev FAULT_F0_EVENTS_SECURITY : Fld := ⟨0x10004, 3, 1⟩
abbrev FAULT_F0_EVENTS_CAPTAIN_LOST : Fld := ⟨0x10004, 2, 1⟩
abbrev FAULT_F0_EVENTS_PARTITION : Fld := ⟨0x10004, 1, 1⟩
abbrev FAULT_F0_EVENTS_XO_FAIL : Fld := ⟨0x10004, 0, 1⟩
abbrev FAULT_EVENTS : Nat := 0x10008
abbrev FAULT_EVENTS_SOK_DOWN : Fld := ⟨0x10008, 10, 1⟩
abbrev FAULT_EVENTS_UPD_FAILED : Fld := ⟨0x10008, 9, 1⟩
abbrev FAULT_EVENTS_UPD_DONE : Fld := ⟨0x10008, 8, 1⟩
abbrev FAULT_EVENTS_LEASE_LAPSE : Fld := ⟨0x10008, 7, 1⟩
abbrev FAULT_EVENTS_LOG_OVERFLOW : Fld := ⟨0x10008, 6, 1⟩
abbrev FAULT_EVENTS_REJOIN_FAILED : Fld := ⟨0x10008, 5, 1⟩
abbrev FAULT_EVENTS_REJOINED : Fld := ⟨0x10008, 4, 1⟩
abbrev FAULT_EVENTS_COVER_END : Fld := ⟨0x10008, 3, 1⟩
abbrev FAULT_EVENTS_COVER_START : Fld := ⟨0x10008, 2, 1⟩
abbrev FAULT_EVENTS_TAKEOVER : Fld := ⟨0x10008, 1, 1⟩
abbrev FAULT_EVENTS_LOG : Fld := ⟨0x10008, 0, 1⟩
abbrev FAULT_IRQ_EN : Nat := 0x1000c
abbrev FAULT_IRQ_EN_EN : Fld := ⟨0x1000c, 0, 11⟩
abbrev FAULT_CFG : Nat := 0x10010
abbrev FAULT_CFG_AUTO_REJOIN : Fld := ⟨0x10010, 31, 1⟩
abbrev FAULT_CFG_REJOIN_MAX : Fld := ⟨0x10010, 24, 4⟩
abbrev FAULT_CFG_VEC : Fld := ⟨0x10010, 16, 6⟩
abbrev FAULT_DIE_CTRL : Nat := 0x10014
abbrev FAULT_DIE_CTRL_GO : Fld := ⟨0x10014, 31, 1⟩
abbrev FAULT_DIE_CTRL_FORCE : Fld := ⟨0x10014, 30, 1⟩
abbrev FAULT_DIE_CTRL_OP : Fld := ⟨0x10014, 24, 2⟩
abbrev FAULT_DIE_CTRL_DIE : Fld := ⟨0x10014, 0, 3⟩
abbrev FAULT_DIE_STATUS : Nat := 0x10018
abbrev FAULT_DIE_STATUS_BUSY : Fld := ⟨0x10018, 31, 1⟩
abbrev FAULT_DIE_STATUS_RESULT : Fld := ⟨0x10018, 24, 4⟩
abbrev FAULT_DIE_STATUS_DIE : Fld := ⟨0x10018, 0, 3⟩
abbrev FAULT_DIE (d : Nat) : Nat := 0x10020 + d * 4
abbrev FAULT_DIE_CAUSE (d : Nat) : Fld := ⟨0x10020 + d * 4, 25, 7⟩
abbrev FAULT_DIE_REJOIN_CNT (d : Nat) : Fld := ⟨0x10020 + d * 4, 8, 8⟩
abbrev FAULT_DIE_F1_CNT (d : Nat) : Fld := ⟨0x10020 + d * 4, 0, 8⟩
abbrev FAULT_CNT (c : Nat) : Nat := 0x10040 + c * 4
abbrev FAULT_CNT_COUNT (c : Nat) : Fld := ⟨0x10040 + c * 4, 0, 32⟩
abbrev FAULT_LOG_POP_LO : Nat := 0x10050
abbrev FAULT_LOG_POP_LO_TICK : Fld := ⟨0x10050, 0, 32⟩
abbrev FAULT_LOG_POP_HI : Nat := 0x10054
abbrev FAULT_LOG_POP_HI_VALID : Fld := ⟨0x10054, 31, 1⟩
abbrev FAULT_LOG_POP_HI_SOURCE : Fld := ⟨0x10054, 24, 7⟩
abbrev FAULT_LOG_POP_HI_DETAIL : Fld := ⟨0x10054, 0, 24⟩
abbrev FAULT_LOG_STATUS : Nat := 0x10058
abbrev FAULT_LOG_STATUS_COUNT : Fld := ⟨0x10058, 0, 10⟩
abbrev FAULT_LOG_LOST : Nat := 0x1005c
abbrev FAULT_LOG_LOST_COUNT : Fld := ⟨0x1005c, 0, 32⟩
abbrev FAULT_UPTIME : Nat := 0x10060
abbrev FAULT_UPTIME_SEC : Fld := ⟨0x10060, 0, 32⟩
abbrev FAULT_SOK_DOWN : Nat := 0x10064
abbrev FAULT_SOK_DOWN_SEC : Fld := ⟨0x10064, 0, 32⟩
abbrev FAULT_COVER_CNT : Nat := 0x10068
abbrev FAULT_COVER_CNT_COUNT : Fld := ⟨0x10068, 0, 32⟩
abbrev FAULT_HOLD : Nat := 0x1006c
abbrev FAULT_HOLD_MAX : Fld := ⟨0x1006c, 8, 8⟩
abbrev FAULT_HOLD_LAST : Fld := ⟨0x1006c, 0, 8⟩
abbrev FAULT_LEASE : Nat := 0x10070
abbrev FAULT_LEASE_HOLDER : Fld := ⟨0x10070, 0, 24⟩
abbrev FAULT_LEASE_LAPSE_CNT : Nat := 0x10074
abbrev FAULT_LEASE_LAPSE_CNT_COUNT : Fld := ⟨0x10074, 0, 32⟩
abbrev FAULT_TAKEOVER_CNT : Nat := 0x10078
abbrev FAULT_TAKEOVER_CNT_COUNT : Fld := ⟨0x10078, 0, 32⟩

-- Block UPD (spec/13_in_service_operation.md).
abbrev UPD_CTRL : Nat := 0x10080
abbrev UPD_CTRL_VERIFY : Fld := ⟨0x10080, 31, 1⟩
abbrev UPD_CTRL_GO : Fld := ⟨0x10080, 30, 1⟩
abbrev UPD_CTRL_COMMIT : Fld := ⟨0x10080, 29, 1⟩
abbrev UPD_CTRL_ABORT : Fld := ⟨0x10080, 28, 1⟩
abbrev UPD_CTRL_FORCE : Fld := ⟨0x10080, 2, 1⟩
abbrev UPD_CTRL_KEEP_TRIMS : Fld := ⟨0x10080, 1, 1⟩
abbrev UPD_CTRL_SLOT : Fld := ⟨0x10080, 0, 1⟩
abbrev UPD_STATUS : Nat := 0x10084
abbrev UPD_STATUS_STATE : Fld := ⟨0x10084, 28, 4⟩
abbrev UPD_STATUS_CAUSE : Fld := ⟨0x10084, 24, 4⟩
abbrev UPD_STATUS_NEW_MASK : Fld := ⟨0x10084, 16, 8⟩
abbrev UPD_STATUS_MIXED : Fld := ⟨0x10084, 7, 1⟩
abbrev UPD_STATUS_DIE : Fld := ⟨0x10084, 0, 3⟩

-- Block FAB (spec/13_in_service_operation.md).
abbrev FAB_CFG : Nat := 0x70000
abbrev FAB_CFG_AUTO_UNWRAP : Fld := ⟨0x70000, 31, 1⟩
abbrev FAB_CFG_RETRY_MAX : Fld := ⟨0x70000, 0, 4⟩
abbrev FAB_STATUS : Nat := 0x70004
abbrev FAB_STATUS_WRAPPED : Fld := ⟨0x70004, 31, 1⟩
abbrev FAB_STATUS_PARTITION : Fld := ⟨0x70004, 30, 1⟩
abbrev FAB_STATUS_WRAP_A : Fld := ⟨0x70004, 27, 3⟩
abbrev FAB_STATUS_WRAP_B : Fld := ⟨0x70004, 24, 3⟩
abbrev FAB_STATUS_HOP_FAIL : Fld := ⟨0x70004, 16, 8⟩
abbrev FAB_STATUS_REACH : Fld := ⟨0x70004, 8, 8⟩
abbrev FAB_EVENTS : Nat := 0x70008
abbrev FAB_EVENTS_HB_LOST : Fld := ⟨0x70008, 5, 1⟩
abbrev FAB_EVENTS_PARTITION : Fld := ⟨0x70008, 4, 1⟩
abbrev FAB_EVENTS_UNWRAP : Fld := ⟨0x70008, 3, 1⟩
abbrev FAB_EVENTS_WRAP : Fld := ⟨0x70008, 2, 1⟩
abbrev FAB_EVENTS_HOP_FAILED : Fld := ⟨0x70008, 1, 1⟩
abbrev FAB_EVENTS_RETRY : Fld := ⟨0x70008, 0, 1⟩
abbrev FAB_CRC_CNT : Nat := 0x70010
abbrev FAB_CRC_CNT_COUNT : Fld := ⟨0x70010, 0, 32⟩
abbrev FAB_RETRY_CNT : Nat := 0x70014
abbrev FAB_RETRY_CNT_COUNT : Fld := ⟨0x70014, 0, 32⟩
abbrev FAB_HOP_FAIL_CNT : Nat := 0x70018
abbrev FAB_HOP_FAIL_CNT_COUNT : Fld := ⟨0x70018, 0, 32⟩
abbrev FAB_PRIO_MAX : Nat := 0x7001c
abbrev FAB_PRIO_MAX_NS : Fld := ⟨0x7001c, 0, 16⟩
abbrev FAB_HOP_CRC_CNT (h : Nat) : Nat := 0x70100 + h * 8
abbrev FAB_HOP_CRC_CNT_COUNT (h : Nat) : Fld := ⟨0x70100 + h * 8, 0, 32⟩
abbrev FAB_HOP_RETRY_CNT (h : Nat) : Nat := 0x70104 + h * 8
abbrev FAB_HOP_RETRY_CNT_COUNT (h : Nat) : Fld := ⟨0x70104 + h * 8, 0, 32⟩

-- Block HOST (spec/14_host_port.md).
abbrev HOST_PORT_ID : Nat := 0x60000
abbrev HOST_PORT_ID_PORT : Fld := ⟨0x60000, 0, 1⟩
abbrev HOST_GROUP_COMMIT : Nat := 0x60004
abbrev HOST_GROUP_COMMIT_OPEN : Fld := ⟨0x60004, 31, 1⟩
abbrev HOST_GROUP_COMMIT_COMMIT : Fld := ⟨0x60004, 30, 1⟩
abbrev HOST_GROUP_COMMIT_DISCARD : Fld := ⟨0x60004, 29, 1⟩
abbrev HOST_GROUP_COMMIT_WITH_AW : Fld := ⟨0x60004, 28, 1⟩
abbrev HOST_GROUP_STATUS : Nat := 0x60008
abbrev HOST_GROUP_STATUS_OPEN : Fld := ⟨0x60008, 31, 1⟩
abbrev HOST_GROUP_STATUS_RESULT : Fld := ⟨0x60008, 24, 4⟩
abbrev HOST_GROUP_STATUS_COUNT : Fld := ⟨0x60008, 0, 9⟩
abbrev HOST_EVENTS : Nat := 0x6000c
abbrev HOST_EVENTS_WIDTH : Fld := ⟨0x6000c, 4, 1⟩
abbrev HOST_EVENTS_PARITY : Fld := ⟨0x6000c, 3, 1⟩
abbrev HOST_EVENTS_DECODE : Fld := ⟨0x6000c, 2, 1⟩
abbrev HOST_EVENTS_GROUP_LOST : Fld := ⟨0x6000c, 1, 1⟩
abbrev HOST_EVENTS_PORT_RESET : Fld := ⟨0x6000c, 0, 1⟩
abbrev HOST_SMB_CFG : Nat := 0x60010
abbrev HOST_SMB_CFG_EN : Fld := ⟨0x60010, 31, 1⟩
abbrev HOST_SMB_CFG_ADDR : Fld := ⟨0x60010, 0, 7⟩
abbrev HOST_PCIE_CFG : Nat := 0x60014
abbrev HOST_PCIE_CFG_ECRC : Fld := ⟨0x60014, 0, 1⟩
abbrev HOST_PCI_ID : Nat := 0x60018
abbrev HOST_PCI_ID_DEVICE : Fld := ⟨0x60018, 16, 16⟩
abbrev HOST_PCI_ID_VENDOR : Fld := ⟨0x60018, 0, 16⟩
abbrev HOST_VIEW : Nat := 0x6001c
abbrev HOST_VIEW_SHADOW : Fld := ⟨0x6001c, 0, 1⟩
abbrev HOST_STATUS (p : Nat) : Nat := 0x60100 + p * 0x40
abbrev HOST_STATUS_LINK (p : Nat) : Fld := ⟨0x60100 + p * 0x40, 31, 1⟩
abbrev HOST_STATUS_SPEED (p : Nat) : Fld := ⟨0x60100 + p * 0x40, 28, 3⟩
abbrev HOST_STATUS_WIDTH (p : Nat) : Fld := ⟨0x60100 + p * 0x40, 24, 4⟩
abbrev HOST_STATUS_ECRC_ON (p : Nat) : Fld := ⟨0x60100 + p * 0x40, 23, 1⟩
abbrev HOST_STATUS_D3HOT (p : Nat) : Fld := ⟨0x60100 + p * 0x40, 22, 1⟩
abbrev HOST_STATUS_BME (p : Nat) : Fld := ⟨0x60100 + p * 0x40, 21, 1⟩
abbrev HOST_STATUS_FN_MASK (p : Nat) : Fld := ⟨0x60100 + p * 0x40, 20, 1⟩
abbrev HOST_STATUS_MSIX_EN (p : Nat) : Fld := ⟨0x60100 + p * 0x40, 19, 1⟩
abbrev HOST_STATUS_LEASE (p : Nat) : Fld := ⟨0x60100 + p * 0x40, 18, 1⟩
abbrev HOST_STATUS_AVAILABLE (p : Nat) : Fld := ⟨0x60100 + p * 0x40, 17, 1⟩
abbrev HOST_UR_CNT (p : Nat) : Nat := 0x60104 + p * 0x40
abbrev HOST_UR_CNT_COUNT (p : Nat) : Fld := ⟨0x60104 + p * 0x40, 0, 32⟩
abbrev HOST_CA_CNT (p : Nat) : Nat := 0x60108 + p * 0x40
abbrev HOST_CA_CNT_COUNT (p : Nat) : Fld := ⟨0x60108 + p * 0x40, 0, 32⟩
abbrev HOST_DISCARD_CNT (p : Nat) : Nat := 0x6010c + p * 0x40
abbrev HOST_DISCARD_CNT_COUNT (p : Nat) : Fld := ⟨0x6010c + p * 0x40, 0, 32⟩
abbrev HOST_WIDTH_CNT (p : Nat) : Nat := 0x60110 + p * 0x40
abbrev HOST_WIDTH_CNT_COUNT (p : Nat) : Fld := ⟨0x60110 + p * 0x40, 0, 32⟩
abbrev HOST_PARITY_CNT (p : Nat) : Nat := 0x60114 + p * 0x40
abbrev HOST_PARITY_CNT_COUNT (p : Nat) : Fld := ⟨0x60114 + p * 0x40, 0, 32⟩
abbrev HOST_RESET_CNT (p : Nat) : Nat := 0x60118 + p * 0x40
abbrev HOST_RESET_CNT_FLR (p : Nat) : Fld := ⟨0x60118 + p * 0x40, 16, 16⟩
abbrev HOST_RESET_CNT_LINK (p : Nat) : Fld := ⟨0x60118 + p * 0x40, 0, 16⟩
/-- See [log 21: DESIGN CHOICE]. -/
abbrev HOST_LAT (p : Nat) : Nat := 0x6011c + p * 0x40
abbrev HOST_LAT_LIB_NS (p : Nat) : Fld := ⟨0x6011c + p * 0x40, 16, 16⟩
abbrev HOST_LAT_REG_NS (p : Nat) : Fld := ⟨0x6011c + p * 0x40, 0, 16⟩
abbrev HOST_MSG_CNT (p : Nat) : Nat := 0x60120 + p * 0x40
abbrev HOST_MSG_CNT_COUNT (p : Nat) : Fld := ⟨0x60120 + p * 0x40, 0, 32⟩
abbrev HOST_VMAP_SRC (k : Nat) : Nat := 0x60400 + k * 8
abbrev HOST_VMAP_SRC_EN (k : Nat) : Fld := ⟨0x60400 + k * 8, 31, 1⟩
abbrev HOST_VMAP_SRC_OFFSET (k : Nat) : Fld := ⟨0x60400 + k * 8, 0, 24⟩
abbrev HOST_VMAP_MASK (k : Nat) : Nat := 0x60404 + k * 8
abbrev HOST_VMAP_MASK_MASK (k : Nat) : Fld := ⟨0x60404 + k * 8, 0, 32⟩
abbrev HOST_MSIX (i : Nat) : Nat := 0x61000 + i * 4
abbrev HOST_PBA (i : Nat) : Nat := 0x62000 + i * 4

/-! The table: name, whether it belongs to a die, offset (within the die for a die's register), index
dimensions (count, stride), half of a pair, reset value, and the mask of each access type of R9:
RW, RWT, W1C, WO, RWL, and the mask of bits with RWA. A bit in no mask is RO or reserved. -/

def regTablePkg : List RegDef := [
  ⟨"PKG_ID", false, 0, [], .single, 0xb7a100a0, 0, 0, 0, 0, 0, 0⟩,
  ⟨"PKG_DIES", false, 4, [], .single, 0, 0, 0, 0, 0, 0, 0⟩,
  ⟨"PKG_ROLE", false, 8, [], .single, 0, 0, 0, 0, 0, 0, 0⟩,
  ⟨"PKG_SITE_MAP", false, 0xc, [], .single, 0, 0, 0, 0, 0, 0, 0⟩,
  ⟨"PKG_SERIAL_LO", false, 0x10, [], .low, 0, 0, 0, 0, 0, 0, 0⟩,
  ⟨"PKG_SERIAL_HI", false, 0x14, [], .high, 0, 0, 0, 0, 0, 0, 0⟩,
  ⟨"PKG_TICK_CFG", false, 0x18, [], .single, 1, 0, 0, 0, 0, 0, 0⟩,
  ⟨"PKG_TICK_NUM_LO", false, 0x20, [], .low, 0, 0, 0, 0, 0, 0, 0⟩,
  ⟨"PKG_TICK_NUM_HI", false, 0x24, [], .high, 0, 0, 0, 0, 0, 0, 0⟩,
  ⟨"PKG_ORIGIN_SEC_LO", false, 0x28, [], .low, 0, 0, 0, 0, 0, 0, 0⟩,
  ⟨"PKG_ORIGIN_SEC_HI", false, 0x2c, [], .high, 0, 0, 0, 0, 0, 0, 0⟩,
  ⟨"PKG_ORIGIN_NS", false, 0x30, [], .single, 0, 0, 0, 0, 0, 0, 0⟩,
  ⟨"PKG_COMMIT_CTRL", false, 0x40, [], .single, 0, 1, 0, 0, 0x80000000, 0, 0x80000000⟩,
  ⟨"PKG_COMMIT_TICK_LO", false, 0x44, [], .low, 0, 0xffffffff, 0, 0, 0, 0, 0⟩,
  ⟨"PKG_COMMIT_TICK_HI", false, 0x48, [], .high, 0, 0xffffffff, 0, 0, 0, 0, 0⟩,
  ⟨"PKG_COMMIT_STATUS", false, 0x4c, [], .single, 0, 0, 0, 0x30, 0, 0, 0⟩]

def regTableDie : List RegDef := [
  ⟨"DIE_STATUS", true, 0, [], .single, 0, 0, 0, 0, 0, 0, 0⟩,
  ⟨"DIE_COVER", true, 4, [], .single, 0, 0, 0, 0, 0, 0, 0⟩,
  ⟨"DIE_ACTIVE", true, 8, [], .single, 0, 0, 0, 0, 0, 0, 0⟩,
  ⟨"DIE_LOAD", true, 0xc, [], .single, 0, 0, 0, 0, 0, 0, 0⟩,
  ⟨"DIE_OVERRUN_CNT", true, 0x10, [], .single, 0, 0, 0, 0, 0, 0, 0⟩,
  ⟨"DIE_EVENTS", true, 0x14, [], .single, 0, 0, 0, 7, 0, 0, 0⟩,
  ⟨"DIE_CTRL", true, 0x18, [], .single, 0, 0, 0, 0, 1, 0, 0⟩,
  ⟨"DIE_SIDELINE_ACC", true, 0x1c, [], .single, 0, 0, 0, 0, 0, 0, 0⟩]

def regTableSyn : List RegDef := [
  ⟨"SYN_CTRL", true, 0x10000, [], .single, 0x4006, 0, 0x701f, 0, 0, 0, 0x701f⟩,
  ⟨"SYN_STATUS", true, 0x10004, [], .single, 0x30, 0, 0, 0, 0, 0, 0⟩,
  ⟨"SYN_EVENTS", true, 0x10008, [], .single, 0, 0, 0, 0x3f7f, 0, 0, 0⟩,
  ⟨"SYN_REF_QUAL", true, 0x1000c, [], .single, 0xa000832, 0xff00ffff, 0, 0, 0, 0, 0xff00ffff⟩,
  ⟨"SYN_REFA_CFG", true, 0x10010, [], .single, 0x30d4001, 0, 0xfffffff, 0, 0, 0, 0xfffffff⟩,
  ⟨"SYN_REFB_CFG", true, 0x10014, [], .single, 0x30d4001, 0, 0xfffffff, 0, 0, 0, 0xfffffff⟩,
  ⟨"SYN_XO_CFG", true, 0x10018, [], .single, 0x30d4001, 0, 0xfffffff, 0, 0, 0, 0xfffffff⟩,
  ⟨"SYN_FBA_LO", true, 0x10020, [], .low, 0, 0, 0xffffffff, 0, 0, 0, 0xffffffff⟩,
  ⟨"SYN_FBA_HI", true, 0x10024, [], .high, 0x1e0000, 0, 0x3fffffff, 0, 0, 0, 0x3fffffff⟩,
  ⟨"SYN_FBB_LO", true, 0x10028, [], .low, 0, 0, 0xffffffff, 0, 0, 0, 0xffffffff⟩,
  ⟨"SYN_FBB_HI", true, 0x1002c, [], .high, 0x1e0000, 0, 0x3fffffff, 0, 0, 0, 0x3fffffff⟩,
  ⟨"SYN_FBX_LO", true, 0x10030, [], .low, 0, 0, 0xffffffff, 0, 0, 0, 0xffffffff⟩,
  ⟨"SYN_FBX_HI", true, 0x10034, [], .high, 0x1e0000, 0, 0x3fffffff, 0, 0, 0, 0x3fffffff⟩,
  ⟨"SYN_LF_CFG", true, 0x10038, [], .single, 0x64, 0, 0x73ff, 0, 0, 0, 0x73ff⟩,
  ⟨"SYN_LOCK_CFG", true, 0x1003c, [], .single, 0x800000a, 0, 0xffff07ff, 0, 0, 0, 0xffff07ff⟩,
  ⟨"SYN_HO_CFG", true, 0x10040, [], .single, 0x64000c, 0, 0xffff001f, 0, 0, 0, 0xffff001f⟩,
  ⟨"SYN_FMAX_GUARD", true, 0x10044, [], .single, 0x186a00, 0, 0x1fffff, 0, 0, 0, 0x1fffff⟩,
  ⟨"SYN_DITHER", true, 0x10048, [], .single, 0x80000001, 0, 0xffffffff, 0, 0, 0, 0xffffffff⟩,
  ⟨"SYN_SURVEY", true, 0x1004c, [], .single, 0, 0, 0, 0, 0x80000000, 0, 0x80000000⟩,
  ⟨"SYN_PSTEP", true, 0x10050, [], .single, 0, 0, 0, 0, 0x1ffff, 0, 0x1ffff⟩,
  ⟨"SYN_PSTEP_PEND", true, 0x10054, [], .single, 0, 0, 0, 0, 0, 0, 0⟩,
  ⟨"SYN_PHASE_ACC", true, 0x10058, [], .single, 0, 0, 0, 0, 0, 0, 0⟩,
  ⟨"SYN_BUILDOUT", true, 0x1005c, [], .single, 0, 0, 0, 0, 0, 0, 0⟩,
  ⟨"SYN_DISC_LO", true, 0x10060, [], .low, 0, 0, 0, 0, 0, 0, 0⟩,
  ⟨"SYN_DISC_HI", true, 0x10064, [], .high, 0, 0, 0, 0, 0, 0, 0⟩,
  ⟨"SYN_FB_EFF_LO", true, 0x10068, [], .low, 0, 0, 0, 0, 0, 0, 0⟩,
  ⟨"SYN_FB_EFF_HI", true, 0x1006c, [], .high, 0x1e0000, 0, 0, 0, 0, 0, 0⟩,
  ⟨"SYN_DCO", true, 0x10070, [], .single, 0, 0, 0, 0, 0, 0, 0⟩,
  ⟨"SYN_PHERR", true, 0x10074, [], .single, 0, 0, 0, 0, 0, 0, 0⟩,
  ⟨"SYN_LOSS_CNT", true, 0x10078, [], .single, 0, 0, 0, 0, 0, 0, 0⟩,
  ⟨"SYN_BAND_LO", true, 0x10400, [(128, 8)], .low, 0, 0, 0xffff83ff, 0, 0, 0, 0xffff83ff⟩,
  ⟨"SYN_BAND_HI", true, 0x10404, [(128, 8)], .high, 0, 0, 0xffffffff, 0, 0, 0, 0xffffffff⟩]

def regTableRamp : List RegDef := [
  ⟨"RAMP_CTRL", true, 0x20000, [], .single, 0x80000000, 0x8003000f, 0, 0, 0x70000000, 0, 0xf0000000⟩,
  ⟨"RAMP_START_TICK_LO", true, 0x20004, [], .low, 0, 0xffffffff, 0, 0, 0, 0, 0⟩,
  ⟨"RAMP_START_TICK_HI", true, 0x20008, [], .high, 0, 0xffffffff, 0, 0, 0, 0, 0⟩,
  ⟨"RAMP_STATUS", true, 0x2000c, [], .single, 0, 0, 0, 0, 0, 0, 0⟩,
  ⟨"RAMP_ACC_LO", true, 0x20010, [], .low, 0, 0, 0, 0, 0, 0, 0⟩,
  ⟨"RAMP_ACC_HI", true, 0x20014, [], .high, 0, 0, 0, 0, 0, 0, 0⟩,
  ⟨"RAMP_EVENTS", true, 0x20018, [], .single, 0, 0, 0, 0x1f, 0, 0, 0⟩,
  ⟨"RAMP_SEG_LEFT", true, 0x2001c, [], .single, 0, 0, 0, 0, 0, 0, 0⟩,
  ⟨"RAMP_PROF_CTRL", true, 0x20020, [(16, 4)], .single, 0, 0xfff3, 0, 0, 0, 0, 0xfff3⟩,
  ⟨"RAMP_SEG_INC_LO", true, 0x20400, [(16, 0x100), (16, 0x10)], .low, 0, 0xffffffff, 0, 0, 0, 0, 0xffffffff⟩,
  ⟨"RAMP_SEG_INC_HI", true, 0x20404, [(16, 0x100), (16, 0x10)], .high, 0, 0xffff, 0, 0, 0, 0, 0xffff⟩,
  ⟨"RAMP_SEG_DUR", true, 0x20408, [(16, 0x100), (16, 0x10)], .single, 0, 0xffffff, 0, 0, 0, 0, 0xffffff⟩]

def regTableClk : List RegDef := [
  ⟨"CLK_FAIL_POLICY", true, 0x40000, [], .single, 0x100, 0, 0x103, 0, 0, 0, 0x103⟩,
  ⟨"CLK_STATUS", true, 0x40004, [], .single, 0, 0, 0, 0, 0, 0, 0⟩,
  ⟨"CLK_EVENTS", true, 0x40008, [], .single, 0, 0, 0, 0xff, 0, 0, 0⟩,
  ⟨"CLK_XO_CFG", true, 0x4000c, [], .single, 0x14, 0, 0xffff, 0, 0, 0, 0xffff⟩,
  ⟨"CLK_XO_COUNT", true, 0x40010, [], .single, 0, 0, 0, 0, 0, 0, 0⟩,
  ⟨"CLK_FAIL_CNT", true, 0x40014, [], .single, 0, 0, 0, 0, 0, 0, 0⟩,
  ⟨"CLK_MON_CTRL", true, 0x40020, [], .single, 1, 0x80ffffff, 0, 0, 0, 0, 0x80ffffff⟩,
  ⟨"CLK_MON_STATUS", true, 0x40024, [], .single, 0, 0, 0, 0, 0, 0, 0⟩,
  ⟨"CLK_XING_STATUS", true, 0x40030, [], .single, 0, 0, 0, 0, 0, 0, 0⟩,
  ⟨"CLK_XING_DISCARD", true, 0x40034, [], .single, 0, 0, 0, 0, 0, 0, 0⟩]

def regTableCko : List RegDef := [
  ⟨"CKO_CFG", true, 0x30000, [(16, 0x10)], .single, 0x40000004, 0, 0xfc0700ff, 0, 0, 0, 0xfc0700ff⟩,
  ⟨"CKO_DIV", true, 0x30004, [(16, 0x10)], .single, 6, 0, 0xfff, 0, 0, 0, 0xfff⟩,
  ⟨"CKO_FRAC", true, 0x30008, [(16, 0x10)], .single, 1, 0, 0xffffffff, 0, 0, 0, 0xffffffff⟩,
  ⟨"CKO_PHASE", true, 0x3000c, [(16, 0x10)], .single, 0, 0, 0xffffff, 0, 0, 0, 0xffffff⟩,
  ⟨"CKO_STATUS", true, 0x30100, [(16, 4)], .single, 0, 0, 0, 0, 0, 0, 0⟩,
  ⟨"CKO_EVENTS", true, 0x30140, [], .single, 0, 0, 0, 0xffffffff, 0, 0, 0⟩]

def regTableCh : List RegDef := [
  ⟨"CH_CTRL", true, 0x100000, [(2560, 0x80)], .single, 0, 0, 0xcc000000, 0, 0, 0, 0xcc000000⟩,
  ⟨"CH_FTW", true, 0x100004, [(2560, 0x80)], .single, 0, 0, 0xffffffff, 0, 0, 0, 0xffffffff⟩,
  ⟨"CH_PHASE_AMP", true, 0x100008, [(2560, 0x80)], .single, 0, 0, 0xffff03ff, 0, 0, 0, 0xffff03ff⟩,
  ⟨"CH_SEED", true, 0x10000c, [(2560, 0x80)], .single, 1, 0, 0x7fffff, 0, 0, 0, 0x7fffff⟩,
  ⟨"CH_STATE", true, 0x100010, [(2560, 0x80)], .single, 0, 0, 0x3ff, 0, 0, 0, 0x3ff⟩,
  ⟨"CH_DRIVE", true, 0x100014, [(2560, 0x80)], .single, 0, 0, 0, 0, 0, 0, 0⟩,
  ⟨"CH_TEMP_SEL", true, 0x100018, [(2560, 0x80)], .single, 0x100280, 0, 0x1fffff, 0, 0, 0, 0x1fffff⟩,
  ⟨"CH_MON_SEL", true, 0x10001c, [(2560, 0x80)], .single, 0, 0, 0xff, 0, 0, 0, 0xff⟩,
  ⟨"CH_SUBTICK", true, 0x100020, [(2560, 0x80)], .single, 0, 0, 0xf, 0, 0, 0, 0xf⟩,
  ⟨"CH_TONE_ACC", true, 0x100024, [(2560, 0x80)], .single, 0, 0, 0, 0, 0, 0, 0⟩,
  ⟨"CH_EVENTS", true, 0x100028, [(2560, 0x80)], .single, 0, 0, 0, 0xf, 0, 0, 0⟩]

def regTableLp : List RegDef := [
  ⟨"LP_CTRL", true, 0x100040, [(2560, 0x80)], .single, 0x10008, 0, 0xa00f000f, 0, 0x40000000, 0, 0xe00f000f⟩,
  ⟨"LP_KP", true, 0x100044, [(2560, 0x80)], .single, 0x400, 0, 0xffffff, 0, 0, 0, 0xffffff⟩,
  ⟨"LP_KI", true, 0x100048, [(2560, 0x80)], .single, 0x800, 0, 0xffffff, 0, 0, 0, 0xffffff⟩,
  ⟨"LP_DEMOD_PHASE", true, 0x10004c, [(2560, 0x80)], .single, 0, 0, 0xffff, 0, 0, 0, 0xffff⟩,
  ⟨"LP_WIN", true, 0x100050, [(2560, 0x80)], .single, 0x200, 0, 0xffff, 0, 0, 0, 0xffff⟩,
  ⟨"LP_LOCKCNT", true, 0x100054, [(2560, 0x80)], .single, 2, 0, 0x7f, 0, 0, 0, 0x7f⟩,
  ⟨"LP_LOSSCNT", true, 0x100058, [(2560, 0x80)], .single, 3, 0, 0x7f, 0, 0, 0, 0x7f⟩,
  ⟨"LP_FAULTCNT", true, 0x10005c, [(2560, 0x80)], .single, 4, 0, 0x7f, 0, 0, 0, 0x7f⟩,
  ⟨"LP_OVRCNT", true, 0x100060, [(2560, 0x80)], .single, 3, 0, 0x7f7f, 0, 0, 0, 0x7f7f⟩,
  ⟨"LP_INTEG", true, 0x100064, [(2560, 0x80)], .single, 0, 0, 0, 0, 0, 0, 0⟩,
  ⟨"LP_ILIM", true, 0x100068, [(2560, 0x80)], .single, 0x800, 0, 0x7fff, 0, 0, 0, 0x7fff⟩,
  ⟨"LP_I", true, 0x10006c, [(2560, 0x80)], .single, 0, 0, 0, 0, 0, 0, 0⟩,
  ⟨"LP_Q", true, 0x100070, [(2560, 0x80)], .single, 0, 0, 0, 0, 0, 0, 0⟩,
  ⟨"LP_ERR", true, 0x100074, [(2560, 0x80)], .single, 0, 0, 0, 0, 0, 0, 0⟩,
  ⟨"LP_STATUS", true, 0x100078, [(2560, 0x80)], .single, 0, 0, 0, 0, 0, 0, 0⟩,
  ⟨"LP_EVENTS", true, 0x10007c, [(2560, 0x80)], .single, 0, 0, 0, 0xff, 0, 0, 0⟩]

def regTableKick : List RegDef := [
  ⟨"KICK_CFG", true, 0x80000, [(64, 0x40)], .single, 0, 0, 0xffff001f, 0, 0, 0, 0xffff001f⟩,
  ⟨"KICK_S", true, 0x80004, [(64, 0x40), (8, 4)], .single, 0, 0, 0xffffffff, 0, 0, 0, 0xffffffff⟩]

def regTableLib : List RegDef := [
  ⟨"LIB_CTRL", true, 0x88000, [], .single, 0x8000003c, 0x80000fff, 0, 0, 0, 0, 0x80000fff⟩,
  ⟨"LIB_STATUS", true, 0x88004, [], .single, 0, 0, 0, 0, 0, 0, 0⟩,
  ⟨"LIB_EVENTS", true, 0x88008, [], .single, 0, 0, 0, 0xff, 0, 0, 0⟩,
  ⟨"LIB_CE_CNT", true, 0x8800c, [], .single, 0, 0, 0, 0, 0, 0, 0⟩,
  ⟨"LIB_UE_CNT", true, 0x88010, [], .single, 0, 0, 0, 0, 0, 0, 0⟩,
  ⟨"LIB_UE_LOC", true, 0x88014, [], .single, 0, 0, 0, 0, 0, 0, 0⟩,
  ⟨"LIB_REPAIR_CNT", true, 0x88018, [], .single, 0, 0, 0, 0, 0, 0, 0⟩,
  ⟨"LIB_DISCARD_CNT", true, 0x8801c, [], .single, 0, 0, 0, 0, 0, 0, 0⟩,
  ⟨"LIB_MAP", true, 0x8c000, [(8, 0x400), (256, 4)], .single, 0, 0, 0, 0, 0, 0, 0⟩]

def regTableVol : List RegDef := [
  ⟨"VOL_ARM_GUARD", false, 0x30000, [], .single, 0x32, 0, 0x3ff, 0, 0, 0, 0x3ff⟩,
  ⟨"VOL_STATUS", false, 0x30004, [], .single, 0x40, 0, 0, 0, 0, 0, 0⟩,
  ⟨"VOL_EVENTS", false, 0x30008, [], .single, 0, 0, 0, 0x7ff, 0, 0, 0⟩,
  ⟨"VOL_IRQ_EN", false, 0x3000c, [], .single, 0, 0x7ff, 0, 0, 0, 0, 0⟩,
  ⟨"VOL_SEQ_LAST_LO", false, 0x30010, [], .low, 0, 0, 0, 0, 0, 0, 0⟩,
  ⟨"VOL_SEQ_LAST_HI", false, 0x30014, [], .high, 0, 0, 0, 0, 0, 0, 0⟩,
  ⟨"VOL_APPLIED_CNT", false, 0x30018, [], .single, 0, 0, 0, 0, 0, 0, 0⟩,
  ⟨"VOL_FAILED_CNT", false, 0x3001c, [], .single, 0, 0, 0, 0, 0, 0, 0⟩,
  ⟨"VOL_STAGING_DISCARD", false, 0x30020, [], .single, 0, 0, 0, 0, 0, 0, 0⟩,
  ⟨"VOL_Q_CTRL", false, 0x31000, [(64, 0x80)], .single, 0, 0, 0, 0, 0x80000007, 0, 7⟩,
  ⟨"VOL_Q_ID", false, 0x31004, [(64, 0x80)], .single, 0, 0xffffffff, 0, 0, 0, 0, 0⟩,
  ⟨"VOL_Q_HDR", false, 0x31008, [(64, 0x80)], .single, 0, 0x1f7fff, 0, 0, 0, 0, 0⟩,
  ⟨"VOL_Q_TIME_NS", false, 0x3100c, [(64, 0x80)], .single, 0, 0xffffffff, 0, 0, 0, 0, 0⟩,
  ⟨"VOL_Q_TIME_SEC_LO", false, 0x31010, [(64, 0x80)], .single, 0, 0xffffffff, 0, 0, 0, 0, 0⟩,
  ⟨"VOL_Q_TIME_SEC_HI", false, 0x31014, [(64, 0x80)], .single, 0, 0xffff, 0, 0, 0, 0, 0⟩,
  ⟨"VOL_Q_SEQ_LO", false, 0x31018, [(64, 0x80)], .low, 0, 0xffffffff, 0, 0, 0, 0, 0⟩,
  ⟨"VOL_Q_SEQ_HI", false, 0x3101c, [(64, 0x80)], .high, 0, 0xffffffff, 0, 0, 0, 0, 0⟩,
  ⟨"VOL_Q_TAG", false, 0x31020, [(64, 0x80), (8, 4)], .single, 0, 0, 0, 0, 0xffffffff, 0, 0⟩,
  ⟨"VOL_Q_STATUS", false, 0x31040, [(64, 0x80)], .single, 0, 0, 0, 0, 0, 0, 0⟩,
  ⟨"VOL_Q_APPLY_TICK_LO", false, 0x31044, [(64, 0x80)], .low, 0, 0, 0, 0, 0, 0, 0⟩,
  ⟨"VOL_Q_APPLY_TICK_HI", false, 0x31048, [(64, 0x80)], .high, 0, 0, 0, 0, 0, 0, 0⟩,
  ⟨"VOL_Q_ARM", false, 0x3104c, [(64, 0x80)], .single, 0, 0, 0, 0, 0, 0, 0⟩,
  ⟨"VOL_Q_REPORT_A", false, 0x31050, [(64, 0x80)], .single, 0, 0, 0, 0, 0, 0, 0⟩,
  ⟨"VOL_Q_REPORT_B", false, 0x31054, [(64, 0x80)], .single, 0, 0, 0, 0, 0, 0, 0⟩,
  ⟨"VOL_Q_REPORT_C", false, 0x31058, [(64, 0x80)], .single, 0, 0, 0, 0, 0, 0, 0⟩,
  ⟨"VOL_Q_REPORT_D", false, 0x3105c, [(64, 0x80)], .single, 0, 0, 0, 0, 0, 0, 0⟩]

def regTableSched : List RegDef := [
  ⟨"SCHED_CTRL", false, 0x30100, [], .single, 0, 0, 0x80000003, 0, 0, 0, 0x80000003⟩,
  ⟨"SCHED_PERIOD", false, 0x30104, [], .single, 0, 0, 0, 0, 0, 0, 0⟩,
  ⟨"SCHED_ANCHOR_LO", false, 0x30108, [], .low, 0, 0, 0, 0, 0, 0, 0⟩,
  ⟨"SCHED_ANCHOR_HI", false, 0x3010c, [], .high, 0, 0, 0, 0, 0, 0, 0⟩,
  ⟨"SCHED_STATUS", false, 0x30110, [], .single, 0, 0, 0, 0, 0, 0, 0⟩,
  ⟨"SCHED_NEXT_LO", false, 0x30114, [], .low, 0, 0, 0, 0, 0, 0, 0⟩,
  ⟨"SCHED_NEXT_HI", false, 0x30118, [], .high, 0, 0, 0, 0, 0, 0, 0⟩,
  ⟨"SCHED_SKIP_CNT", false, 0x3011c, [], .single, 0, 0, 0, 0, 0, 0, 0⟩,
  ⟨"SCHED_FAIL_CNT", false, 0x30120, [], .single, 0, 0, 0, 0, 0, 0, 0⟩,
  ⟨"SCHED_OVERRIDE_CNT", false, 0x30124, [], .single, 0, 0, 0, 0, 0, 0, 0⟩,
  ⟨"SCHED_DIGEST", false, 0x30128, [], .single, 0, 0, 0, 0, 0, 0, 0⟩]

def regTableTime : List RegDef := [
  ⟨"TIME_CTRL", false, 0x20000, [], .single, 0x80000002, 0, 0x80000003, 0, 0, 0, 0x80000003⟩,
  ⟨"TIME_STATUS", false, 0x20004, [], .single, 0x2000000, 0, 0, 0, 0, 0, 0⟩,
  ⟨"TIME_EVENTS", false, 0x20008, [], .single, 0, 0, 0, 0x7fff, 0, 0, 0⟩,
  ⟨"TIME_IRQ_EN", false, 0x2000c, [], .single, 0, 0x7fff, 0, 0, 0, 0, 0⟩,
  ⟨"TIME_NOW_NS", false, 0x20010, [], .single, 0, 0, 0, 0, 0, 0, 0⟩,
  ⟨"TIME_NOW_SEC_LO", false, 0x20014, [], .single, 0, 0, 0, 0, 0, 0, 0⟩,
  ⟨"TIME_NOW_SEC_HI", false, 0x20018, [], .single, 0, 0, 0, 0, 0, 0, 0⟩,
  ⟨"TIME_SERVO_CFG", false, 0x20020, [], .single, 0x40640a0a, 0, 0xf0ffffff, 0, 0, 0, 0xf0ffffff⟩,
  ⟨"TIME_JUMP_THRESH", false, 0x20024, [], .single, 0x3e8, 0, 0xffffffff, 0, 0, 0, 0xffffffff⟩,
  ⟨"TIME_AGREE", false, 0x20028, [], .single, 0x1f4, 0, 0xffffffff, 0, 0, 0, 0xffffffff⟩,
  ⟨"TIME_LOSS_CFG", false, 0x2002c, [], .single, 0x80308, 0, 0xffffff, 0, 0, 0, 0xffffff⟩,
  ⟨"TIME_RESTEP", false, 0x20030, [], .single, 0, 0, 0, 0, 0, 0x80000001, 0⟩,
  ⟨"TIME_RESTEP_LEFT", false, 0x20034, [], .single, 0x10, 0, 0, 0, 0, 0, 0⟩,
  ⟨"TIME_HO_SEC", false, 0x20038, [], .single, 0, 0, 0, 0, 0, 0, 0⟩,
  ⟨"TIME_ANOMALY_CNT", false, 0x2003c, [], .single, 0, 0, 0, 0, 0, 0, 0⟩,
  ⟨"TIME_TICK_OUT", false, 0x20040, [], .single, 0x80190001, 0, 0x80ffffff, 0, 0, 0, 0x80ffffff⟩,
  ⟨"TIME_PPS_OUT", false, 0x20044, [], .single, 0x80000064, 0, 0xc00fffff, 0, 0, 0, 0xc00fffff⟩,
  ⟨"TIME_DOM_CFG", false, 0x20100, [(2, 0x40)], .single, 0x6000000, 0, 0xfeff0fff, 0, 0, 0, 0xfeff0fff⟩,
  ⟨"TIME_DOM_STATUS", false, 0x20104, [(2, 0x40)], .single, 0x30, 0, 0, 0, 0, 0, 0⟩,
  ⟨"TIME_DOM_OFFSET", false, 0x20108, [(2, 0x40)], .single, 0, 0, 0, 0, 0, 0, 0⟩,
  ⟨"TIME_DOM_MPD", false, 0x2010c, [(2, 0x40)], .single, 0, 0, 0, 0, 0, 0, 0⟩,
  ⟨"TIME_DOM_FREQ", false, 0x20110, [(2, 0x40)], .single, 0, 0, 0, 0, 0, 0, 0⟩,
  ⟨"TIME_DOM_GM_LO", false, 0x20114, [(2, 0x40)], .low, 0, 0, 0, 0, 0, 0, 0⟩,
  ⟨"TIME_DOM_GM_HI", false, 0x20118, [(2, 0x40)], .high, 0, 0, 0, 0, 0, 0, 0⟩,
  ⟨"TIME_DOM_UPDATE_CNT", false, 0x2011c, [(2, 0x40)], .single, 0, 0, 0, 0, 0, 0, 0⟩]

def regTableEth : List RegDef := [
  ⟨"ETH_CTRL", false, 0x80000, [(2, 0x100)], .single, 0x80000000, 0, 0x9e000003, 0, 0, 0, 0x9e000003⟩,
  ⟨"ETH_STATUS", false, 0x80004, [(2, 0x100)], .single, 0, 0, 0, 0, 0, 0, 0⟩,
  ⟨"ETH_EVENTS", false, 0x80008, [(2, 0x100)], .single, 0, 0, 0, 0xf, 0, 0, 0⟩,
  ⟨"ETH_IPV4", false, 0x8000c, [(2, 0x100)], .single, 0, 0, 0xffffffff, 0, 0, 0, 0xffffffff⟩,
  ⟨"ETH_MAC_LO", false, 0x80010, [(2, 0x100)], .low, 0, 0, 0xffffffff, 0, 0, 0, 0xffffffff⟩,
  ⟨"ETH_MAC_HI", false, 0x80014, [(2, 0x100)], .high, 0, 0, 0xffff, 0, 0, 0, 0xffff⟩,
  ⟨"ETH_RX_BOARD", false, 0x80018, [(2, 0x100)], .single, 0, 0, 0xfffff, 0, 0, 0, 0xfffff⟩,
  ⟨"ETH_TX_BOARD", false, 0x8001c, [(2, 0x100)], .single, 0, 0, 0xfffff, 0, 0, 0, 0xfffff⟩,
  ⟨"ETH_ASYM", false, 0x80020, [(2, 0x100)], .single, 0, 0, 0xffffffff, 0, 0, 0, 0xffffffff⟩,
  ⟨"ETH_RX_PTP_CNT", false, 0x80024, [(2, 0x100)], .single, 0, 0, 0, 0, 0, 0, 0⟩,
  ⟨"ETH_TX_PTP_CNT", false, 0x80028, [(2, 0x100)], .single, 0, 0, 0, 0, 0, 0, 0⟩,
  ⟨"ETH_DISCARD_CNT", false, 0x8002c, [(2, 0x100)], .single, 0, 0, 0, 0, 0, 0, 0⟩,
  ⟨"ETH_AUTH_FAIL_CNT", false, 0x80030, [(2, 0x100)], .single, 0, 0, 0, 0, 0, 0, 0⟩,
  ⟨"ETH_TEL_CFG", false, 0x80200, [], .single, 0x30000064, 0, 0xb000ffff, 0, 0, 0, 0xb000ffff⟩,
  ⟨"ETH_TEL_DST_LO", false, 0x80204, [], .low, 0, 0, 0xffffffff, 0, 0, 0, 0xffffffff⟩,
  ⟨"ETH_TEL_DST_HI", false, 0x80208, [], .high, 0, 0, 0xffff, 0, 0, 0, 0xffff⟩,
  ⟨"ETH_TEL_SEQ_LO", false, 0x8020c, [], .low, 0, 0, 0, 0, 0, 0, 0⟩,
  ⟨"ETH_TEL_SEQ_HI", false, 0x80210, [], .high, 0, 0, 0, 0, 0, 0, 0⟩,
  ⟨"ETH_TEL_DELAYED_CNT", false, 0x80214, [], .single, 0, 0, 0, 0, 0, 0, 0⟩,
  ⟨"ETH_LAUNCH_DROP_CNT", false, 0x80300, [], .single, 0, 0, 0, 0, 0, 0, 0⟩,
  ⟨"ETH_L_CTRL", false, 0x80400, [(16, 0x40)], .single, 0, 0, 0, 0, 0xf, 0, 0xf⟩,
  ⟨"ETH_L_CFG", false, 0x80404, [(16, 0x40)], .single, 0, 0xc00007ff, 0, 0, 0, 0, 0xc00007ff⟩,
  ⟨"ETH_L_TIME_NS", false, 0x80408, [(16, 0x40)], .single, 0, 0xffffffff, 0, 0, 0, 0, 0xffffffff⟩,
  ⟨"ETH_L_TIME_SEC_LO", false, 0x8040c, [(16, 0x40)], .single, 0, 0xffffffff, 0, 0, 0, 0, 0xffffffff⟩,
  ⟨"ETH_L_TIME_SEC_HI", false, 0x80410, [(16, 0x40)], .single, 0, 0xffff, 0, 0, 0, 0, 0xffff⟩,
  ⟨"ETH_L_STATUS", false, 0x80414, [(16, 0x40)], .single, 0, 0, 0, 0, 0, 0, 0⟩,
  ⟨"ETH_L_TX_NS", false, 0x80418, [(16, 0x40)], .single, 0, 0, 0, 0, 0, 0, 0⟩,
  ⟨"ETH_L_TX_SEC_LO", false, 0x8041c, [(16, 0x40)], .single, 0, 0, 0, 0, 0, 0, 0⟩,
  ⟨"ETH_L_TX_SEC_HI", false, 0x80420, [(16, 0x40)], .single, 0, 0, 0, 0, 0, 0, 0⟩,
  ⟨"ETH_L_BUF", false, 0x88000, [(16, 0x800), (384, 4)], .single, 0, 0xffffffff, 0, 0, 0, 0, 0xffffffff⟩]

def regTableElink : List RegDef := [
  ⟨"ELINK_CTRL", true, 0x60000, [(16, 0x40)], .single, 0x87000000, 0, 0xc70003ff, 0, 0x20000000, 0, 0xe70003ff⟩,
  ⟨"ELINK_STATUS", true, 0x60004, [(16, 0x40)], .single, 0, 0, 0, 0, 0, 0, 0⟩,
  ⟨"ELINK_EVENTS", true, 0x60008, [(16, 0x40)], .single, 0, 0, 0, 0xfff, 0, 0, 0⟩,
  ⟨"ELINK_CAP_LO", true, 0x6000c, [(16, 0x40)], .low, 0, 0, 0, 0, 0, 0, 0⟩,
  ⟨"ELINK_CAP_HI", true, 0x60010, [(16, 0x40)], .high, 0, 0, 0, 0, 0, 0, 0⟩,
  ⟨"ELINK_EFE", true, 0x60014, [(16, 0x40)], .single, 0, 0, 0, 0, 0, 0, 0⟩,
  ⟨"ELINK_UL_CRC_CNT", true, 0x60018, [(16, 0x40)], .single, 0, 0, 0, 0, 0, 0, 0⟩,
  ⟨"ELINK_UL_MISS_CNT", true, 0x6001c, [(16, 0x40)], .single, 0, 0, 0, 0, 0, 0, 0⟩,
  ⟨"ELINK_DL_CRC_CNT", true, 0x60020, [(16, 0x40)], .single, 0, 0, 0, 0, 0, 0, 0⟩,
  ⟨"ELINK_RETRAIN_CNT", true, 0x60024, [(16, 0x40)], .single, 0, 0, 0, 0, 0, 0, 0⟩,
  ⟨"ELINK_REPEAT_CNT", true, 0x60028, [(16, 0x40)], .single, 0, 0, 0, 0, 0, 0, 0⟩,
  ⟨"ELINK_EQ", true, 0x6002c, [(16, 0x40)], .single, 0, 0, 0, 0, 0, 0, 0⟩,
  ⟨"ELINK_TRAIN", true, 0x60030, [(16, 0x40)], .single, 0, 0, 0, 0, 0, 0, 0⟩,
  ⟨"ELINK_SUMMARY", true, 0x60400, [], .single, 0, 0, 0, 0, 0, 0, 0⟩]

def regTableEfe : List RegDef := [
  ⟨"EFE_CMD", true, 0x200000, [(16, 0x100)], .single, 0, 0x3f, 0, 0, 0x80000000, 0, 0x8000003f⟩,
  ⟨"EFE_ADDR", true, 0x200004, [(16, 0x100)], .single, 0, 0xffff, 0, 0, 0, 0, 0xffff⟩,
  ⟨"EFE_DATA", true, 0x200008, [(16, 0x100)], .single, 0, 0xffffffff, 0, 0, 0, 0, 0xffffffff⟩,
  ⟨"EFE_RSP", true, 0x20000c, [(16, 0x100)], .single, 0, 0, 0, 0x40000000, 0, 0, 0⟩,
  ⟨"EFE_RSP_DATA", true, 0x200010, [(16, 0x100)], .single, 0, 0, 0, 0, 0, 0, 0⟩,
  ⟨"EFE_OVR_CNT", true, 0x200014, [(16, 0x100)], .single, 0, 0, 0, 0, 0, 0, 0⟩,
  ⟨"EFE_NSTALE_CNT", true, 0x200018, [(16, 0x100)], .single, 0, 0, 0, 0, 0, 0, 0⟩,
  ⟨"EFE_WIN_CNT", true, 0x20001c, [(16, 0x100)], .single, 0, 0, 0, 0, 0, 0, 0⟩,
  ⟨"EFE_TEMP", true, 0x200040, [(16, 0x100), (16, 4)], .single, 0x7fff0000, 0, 0, 0, 0, 0, 0⟩,
  ⟨"EFE_WIN", true, 0x208000, [(16, 0x400), (256, 4)], .single, 0, 0, 0x8fff0fff, 0, 0, 0, 0x8fff0fff⟩,
  ⟨"EFE_WIN_POP_LO", true, 0x20f000, [], .single, 0, 0, 0, 0, 0, 0, 0⟩,
  ⟨"EFE_WIN_POP_HI", true, 0x20f004, [], .single, 0, 0, 0, 0, 0, 0, 0⟩,
  ⟨"EFE_WIN_STATUS", true, 0x20f008, [], .single, 0, 0, 0, 0, 0, 0, 0⟩,
  ⟨"EFE_WIN_LOST_CNT", true, 0x20f00c, [], .single, 0, 0, 0, 0, 0, 0, 0⟩,
  ⟨"EFE_EVENTS", true, 0x20f010, [], .single, 0, 0, 0, 0x1f, 0, 0, 0⟩,
  ⟨"EFE_IRQ_EN", true, 0x20f014, [], .single, 0, 0x1f, 0, 0, 0, 0, 0⟩]

def regTableCal : List RegDef := [
  ⟨"CAL_CTRL", true, 0x50000, [], .single, 0x8000001f, 0x8000001f, 0, 0, 0x31f1f00, 0, 0x831f1f1f⟩,
  ⟨"CAL_CFG", true, 0x50004, [], .single, 0x400000a, 0xf00ffff, 0, 0, 0, 0, 0xf00ffff⟩,
  ⟨"CAL_TOL_A", true, 0x50008, [], .single, 0x80028f, 0xffffffff, 0, 0, 0, 0, 0xffffffff⟩,
  ⟨"CAL_TOL_B", true, 0x5000c, [], .single, 0x16c0202, 0xffffffff, 0, 0, 0, 0, 0xffffffff⟩,
  ⟨"CAL_STATUS", true, 0x50010, [], .single, 0, 0, 0, 0, 0, 0, 0⟩,
  ⟨"CAL_EVENTS", true, 0x50014, [], .single, 0, 0, 0, 0x1ff, 0, 0, 0⟩,
  ⟨"CAL_IRQ_EN", true, 0x50018, [], .single, 0, 0x1ff, 0, 0, 0, 0, 0⟩,
  ⟨"CAL_T_NOW", true, 0x5001c, [], .single, 0, 0, 0, 0, 0, 0, 0⟩,
  ⟨"CAL_SKEW", true, 0x50030, [], .single, 0, 0, 0, 0, 0, 0, 0⟩,
  ⟨"CAL_SAVE", true, 0x50034, [], .single, 0, 0, 0, 0, 0, 0, 0⟩,
  ⟨"CAL_DEMOD_CFG", true, 0x50038, [], .single, 0x44000b6, 0xfff1fff, 0, 0, 0, 0, 0xfff1fff⟩,
  ⟨"CAL_GAIN_CFG", true, 0x5003c, [], .single, 0x40, 0xff, 0, 0, 0, 0, 0xff⟩,
  ⟨"CAL_ITEM_STATUS", true, 0x50040, [(5, 0x10)], .single, 0, 0, 0, 0, 0, 0, 0⟩,
  ⟨"CAL_ITEM_AGE", true, 0x50044, [(5, 0x10)], .single, 0xffffffff, 0, 0, 0, 0, 0, 0⟩,
  ⟨"CAL_ITEM_CNT", true, 0x50048, [(5, 0x10)], .single, 0, 0, 0, 0, 0, 0, 0⟩,
  ⟨"CAL_TDC_TAP", true, 0x50100, [(64, 4)], .single, 0xb00, 0, 0, 0, 0, 0, 0⟩,
  ⟨"CAL_TDC_SET", true, 0x50200, [(64, 4)], .single, 0xb00, 0xffff, 0, 0, 0, 0, 0xffff⟩,
  ⟨"CAL_EQ_SET", true, 0x50300, [(16, 4)], .single, 0, 0xffffff00, 0, 0, 0, 0, 0xffffff00⟩]

def regTableImg : List RegDef := [
  ⟨"IMG_STATUS", false, 0x50000, [], .single, 0, 0, 0, 0, 0, 0, 0⟩,
  ⟨"IMG_EVENTS", false, 0x50004, [], .single, 0, 0, 0, 0x3f, 0, 0, 0⟩,
  ⟨"IMG_VERSION", false, 0x50008, [], .single, 0, 0, 0, 0, 0, 0, 0⟩,
  ⟨"IMG_SLOT_A_VER", false, 0x50010, [], .single, 0, 0, 0, 0, 0, 0, 0⟩,
  ⟨"IMG_SLOT_B_VER", false, 0x50014, [], .single, 0, 0, 0, 0, 0, 0, 0⟩,
  ⟨"IMG_SLOTS", false, 0x50018, [], .single, 0, 0, 0, 0, 0, 0, 0⟩,
  ⟨"IMG_FAIL", false, 0x5001c, [], .single, 0, 0, 0, 0, 0, 0, 0⟩,
  ⟨"IMG_FAIL_ADDR", false, 0x50020, [], .single, 0, 0, 0, 0, 0, 0, 0⟩,
  ⟨"IMG_DIGEST", false, 0x50030, [(12, 4)], .single, 0, 0, 0, 0, 0, 0, 0⟩,
  ⟨"IMG_PIN", false, 0x50060, [], .single, 0, 7, 0, 0, 0, 0, 7⟩,
  ⟨"IMG_CTRL", false, 0x50064, [], .single, 0, 0, 0, 0, 0x80000000, 0, 0x80000000⟩,
  ⟨"IMG_FL_CTRL", false, 0x50080, [], .single, 0, 0x103, 0, 0, 0x80000000, 0, 0x80000103⟩,
  ⟨"IMG_FL_ADDR", false, 0x50084, [], .single, 0, 0xffff, 0, 0, 0, 0, 0xffff⟩,
  ⟨"IMG_FL_STATUS", false, 0x50088, [], .single, 0, 0, 0, 0x40000000, 0, 0, 0⟩,
  ⟨"IMG_FL_BUF", false, 0x51000, [(1024, 4)], .single, 0, 0xffffffff, 0, 0, 0, 0, 0xffffffff⟩]

def regTableRet : List RegDef := [
  ⟨"RET_CFG", false, 0x54000, [], .single, 0xc000000a, 0, 0xc00003ff, 0, 0, 0, 0xc00003ff⟩,
  ⟨"RET_STATUS", false, 0x54004, [], .single, 0, 0, 0, 0, 0, 0, 0⟩,
  ⟨"RET_EVENTS", false, 0x54008, [], .single, 0, 0, 0, 0x1f, 0, 0, 0⟩,
  ⟨"RET_SEQ", false, 0x5400c, [], .single, 0, 0, 0, 0, 0, 0, 0⟩,
  ⟨"RET_RESTORED_SEQ", false, 0x54010, [], .single, 0, 0, 0, 0, 0, 0, 0⟩,
  ⟨"RET_TORN_CNT", false, 0x54014, [], .single, 0, 0, 0, 0, 0, 0, 0⟩,
  ⟨"RET_TRIM", false, 0x54018, [], .single, 0, 0, 0, 0, 0, 0, 0⟩,
  ⟨"RET_CTRL", false, 0x5401c, [], .single, 0, 0, 0, 0, 3, 0, 3⟩]

def regTableSec0 : List RegDef := [
  ⟨"SEC_STATUS", false, 0x40000, [], .single, 0x40, 0, 0, 0, 0, 0, 0⟩,
  ⟨"SEC_EVENTS", false, 0x40004, [], .single, 0, 0, 0, 0x7f, 0, 0, 0⟩,
  ⟨"SEC_IRQ_EN", false, 0x40008, [], .single, 0, 0x7f, 0, 0, 0, 0, 0⟩,
  ⟨"SEC_FAIL_CNT", false, 0x4000c, [], .single, 0, 0, 0, 0, 0, 0, 0⟩,
  ⟨"SEC_SESS_CTRL", false, 0x40010, [], .single, 0, 0, 0, 0, 0xe0000000, 0, 0x20000000⟩,
  ⟨"SEC_SESS_STATUS", false, 0x40014, [], .single, 0, 0, 0, 0, 0, 0, 0⟩,
  ⟨"SEC_SESS_CFG", false, 0x40018, [], .single, 0xa080258, 0, 0xffffffff, 0, 0, 0, 0xffffffff⟩,
  ⟨"SEC_NOSESS_CNT", false, 0x4001c, [], .single, 0, 0, 0, 0, 0, 0, 0⟩,
  ⟨"SEC_SEQ_LAST_LO", false, 0x40020, [], .low, 0, 0, 0, 0, 0, 0, 0⟩,
  ⟨"SEC_SEQ_LAST_HI", false, 0x40024, [], .high, 0, 0, 0, 0, 0, 0, 0⟩,
  ⟨"SEC_SESS_ID_LO", false, 0x40028, [], .low, 0, 0, 0, 0, 0, 0, 0⟩,
  ⟨"SEC_SESS_ID_HI", false, 0x4002c, [], .high, 0, 0, 0, 0, 0, 0, 0⟩,
  ⟨"SEC_AW_CTRL", false, 0x40030, [], .single, 0, 0, 0, 0, 0xc0000000, 0, 0⟩,
  ⟨"SEC_AW_STATUS", false, 0x40034, [], .single, 0, 0, 0, 0, 0, 0, 0⟩,
  ⟨"SEC_AW_SEQ_LO", false, 0x40038, [], .low, 0, 0xffffffff, 0, 0, 0, 0, 0⟩,
  ⟨"SEC_AW_SEQ_HI", false, 0x4003c, [], .high, 0, 0xffffffff, 0, 0, 0, 0, 0⟩,
  ⟨"SEC_AW_TAG", false, 0x40040, [(8, 4)], .single, 0, 0, 0, 0, 0xffffffff, 0, 0⟩,
  ⟨"SEC_OWNER_CTRL", false, 0x40060, [], .single, 0, 0, 0, 0, 0, 0x80000003, 0⟩,
  ⟨"SEC_OWNER_STATE", false, 0x40064, [], .single, 0, 0, 0, 0, 0, 0, 0⟩,
  ⟨"SEC_OWNER_LEFT", false, 0x40068, [], .single, 0, 0, 0, 0, 0, 0, 0⟩,
  ⟨"SEC_OWNER_HASH", false, 0x40070, [(12, 4)], .single, 0, 0xffffffff, 0, 0, 0, 0, 0xffffffff⟩,
  ⟨"SEC_LIFECYCLE", false, 0x400a0, [], .single, 0, 0, 0, 0, 0, 3, 0⟩,
  ⟨"SEC_ROLLBACK", false, 0x400a4, [], .single, 0, 0, 0, 0, 0, 1, 0⟩,
  ⟨"SEC_DIE_DISABLE", false, 0x400a8, [], .single, 0, 0, 0, 0, 0, 0xff, 0⟩,
  ⟨"SEC_HP1", false, 0x400ac, [], .single, 0, 0, 0, 0, 0, 1, 0⟩,
  ⟨"SEC_DEBUG", false, 0x400b0, [], .single, 0, 0, 0, 0, 0, 1, 0⟩,
  ⟨"SEC_LEFT", false, 0x400b4, [], .single, 0, 0, 0, 0, 0, 0, 0⟩,
  ⟨"SEC_RWL_STATUS", false, 0x400b8, [], .single, 0, 0, 0, 0, 0, 0, 0⟩,
  ⟨"SEC_DEBUG_DENY_CNT", false, 0x400bc, [], .single, 0, 0, 0, 0, 0, 0, 0⟩,
  ⟨"SEC_PTP_KEY_CTRL", false, 0x400c0, [], .single, 0, 0, 0, 0, 0x87ff00ff, 0, 0x87ff00ff⟩,
  ⟨"SEC_PTP_KEY_STATUS", false, 0x400c4, [], .single, 0, 0, 0, 0, 0, 0, 0⟩,
  ⟨"SEC_TEL_KEY_CTRL", false, 0x400c8, [], .single, 0, 0, 0, 0, 0x80000000, 0, 0x80000000⟩,
  ⟨"SEC_KEY_DATA", false, 0x400e0, [(8, 4)], .single, 0, 0, 0, 0, 0xffffffff, 0, 0xffffffff⟩,
  ⟨"SEC_ATT_CTRL", false, 0x40100, [], .single, 0, 0, 0, 0, 0x80000000, 0, 0⟩,
  ⟨"SEC_ATT_STATUS", false, 0x40104, [], .single, 0, 0, 0, 0x40000000, 0, 0, 0⟩,
  ⟨"SEC_ATT_NONCE", false, 0x40110, [(8, 4)], .single, 0, 0xffffffff, 0, 0, 0, 0, 0⟩,
  ⟨"SEC_LOG_HEAD", false, 0x40200, [], .single, 0, 0, 0, 0, 0, 0, 0⟩,
  ⟨"SEC_LOG_SEL", false, 0x40204, [], .single, 0, 0xffffffff, 0, 0, 0, 0, 0⟩,
  ⟨"SEC_LOG_STATUS", false, 0x40208, [], .single, 0, 0, 0, 0, 0, 0, 0⟩,
  ⟨"SEC_SESS_BUF", false, 0x40400, [(64, 4)], .single, 0, 0, 0, 0, 0, 0, 0⟩]

def regTableSec1 : List RegDef := [
  ⟨"SEC_SESS_REQ", false, 0x40800, [(124, 4)], .single, 0, 0xffffffff, 0, 0, 0, 0, 0⟩,
  ⟨"SEC_ATT_REPORT", false, 0x40c00, [(76, 4)], .single, 0, 0, 0, 0, 0, 0, 0⟩,
  ⟨"SEC_LOG_ENTRY", false, 0x40e00, [(28, 4)], .single, 0, 0, 0, 0, 0, 0, 0⟩,
  ⟨"SEC_CERT", false, 0x41000, [(236, 4)], .single, 0, 0, 0, 0, 0, 0, 0⟩]

def regTableFault : List RegDef := [
  ⟨"FAULT_STATUS", false, 0x10000, [], .single, 0, 0, 0, 0, 0, 0, 0⟩,
  ⟨"FAULT_F0_EVENTS", false, 0x10004, [], .single, 0, 0, 0, 0xf, 0, 0, 0xf⟩,
  ⟨"FAULT_EVENTS", false, 0x10008, [], .single, 0, 0, 0, 0x7ff, 0, 0, 0⟩,
  ⟨"FAULT_IRQ_EN", false, 0x1000c, [], .single, 0, 0x7ff, 0, 0, 0, 0, 0⟩,
  ⟨"FAULT_CFG", false, 0x10010, [], .single, 0x83000000, 0, 0x8f3f0000, 0, 0, 0, 0x8f3f0000⟩,
  ⟨"FAULT_DIE_CTRL", false, 0x10014, [], .single, 0, 0x43000007, 0, 0, 0x80000000, 0, 0xc3000007⟩,
  ⟨"FAULT_DIE_STATUS", false, 0x10018, [], .single, 0, 0, 0, 0, 0, 0, 0⟩,
  ⟨"FAULT_DIE", false, 0x10020, [(8, 4)], .single, 0, 0, 0, 0, 0, 0, 0⟩,
  ⟨"FAULT_CNT", false, 0x10040, [(4, 4)], .single, 0, 0, 0, 0, 0, 0, 0⟩,
  ⟨"FAULT_LOG_POP_LO", false, 0x10050, [], .single, 0, 0, 0, 0, 0, 0, 0⟩,
  ⟨"FAULT_LOG_POP_HI", false, 0x10054, [], .single, 0, 0, 0, 0, 0, 0, 0⟩,
  ⟨"FAULT_LOG_STATUS", false, 0x10058, [], .single, 0, 0, 0, 0, 0, 0, 0⟩,
  ⟨"FAULT_LOG_LOST", false, 0x1005c, [], .single, 0, 0, 0, 0, 0, 0, 0⟩,
  ⟨"FAULT_UPTIME", false, 0x10060, [], .single, 0, 0, 0, 0, 0, 0, 0⟩,
  ⟨"FAULT_SOK_DOWN", false, 0x10064, [], .single, 0, 0, 0, 0, 0, 0, 0⟩,
  ⟨"FAULT_COVER_CNT", false, 0x10068, [], .single, 0, 0, 0, 0, 0, 0, 0⟩,
  ⟨"FAULT_HOLD", false, 0x1006c, [], .single, 0, 0, 0, 0, 0, 0, 0⟩,
  ⟨"FAULT_LEASE", false, 0x10070, [], .single, 0, 0, 0, 0, 0, 0, 0⟩,
  ⟨"FAULT_LEASE_LAPSE_CNT", false, 0x10074, [], .single, 0, 0, 0, 0, 0, 0, 0⟩,
  ⟨"FAULT_TAKEOVER_CNT", false, 0x10078, [], .single, 0, 0, 0, 0, 0, 0, 0⟩]

def regTableUpd : List RegDef := [
  ⟨"UPD_CTRL", false, 0x10080, [], .single, 2, 7, 0, 0, 0xf0000000, 0, 0xf0000007⟩,
  ⟨"UPD_STATUS", false, 0x10084, [], .single, 0, 0, 0, 0, 0, 0, 0⟩]

def regTableFab : List RegDef := [
  ⟨"FAB_CFG", false, 0x70000, [], .single, 0x80000004, 0, 0x8000000f, 0, 0, 0, 0x8000000f⟩,
  ⟨"FAB_STATUS", false, 0x70004, [], .single, 0, 0, 0, 0, 0, 0, 0⟩,
  ⟨"FAB_EVENTS", false, 0x70008, [], .single, 0, 0, 0, 0x3f, 0, 0, 0⟩,
  ⟨"FAB_CRC_CNT", false, 0x70010, [], .single, 0, 0, 0, 0, 0, 0, 0⟩,
  ⟨"FAB_RETRY_CNT", false, 0x70014, [], .single, 0, 0, 0, 0, 0, 0, 0⟩,
  ⟨"FAB_HOP_FAIL_CNT", false, 0x70018, [], .single, 0, 0, 0, 0, 0, 0, 0⟩,
  ⟨"FAB_PRIO_MAX", false, 0x7001c, [], .single, 0, 0, 0, 0, 0, 0, 0⟩,
  ⟨"FAB_HOP_CRC_CNT", false, 0x70100, [(8, 8)], .single, 0, 0, 0, 0, 0, 0, 0⟩,
  ⟨"FAB_HOP_RETRY_CNT", false, 0x70104, [(8, 8)], .single, 0, 0, 0, 0, 0, 0, 0⟩]

def regTableHost : List RegDef := [
  ⟨"HOST_PORT_ID", false, 0x60000, [], .single, 0, 0, 0, 0, 0, 0, 0⟩,
  ⟨"HOST_GROUP_COMMIT", false, 0x60004, [], .single, 0, 0x10000000, 0, 0, 0xe0000000, 0, 0⟩,
  ⟨"HOST_GROUP_STATUS", false, 0x60008, [], .single, 0, 0, 0, 0, 0, 0, 0⟩,
  ⟨"HOST_EVENTS", false, 0x6000c, [], .single, 0, 0, 0, 0x1f, 0, 0, 0⟩,
  ⟨"HOST_SMB_CFG", false, 0x60010, [], .single, 0x8000005a, 0, 0x8000007f, 0, 0, 0, 0x8000007f⟩,
  ⟨"HOST_PCIE_CFG", false, 0x60014, [], .single, 0, 0, 0, 0, 0, 0, 0⟩,
  ⟨"HOST_PCI_ID", false, 0x60018, [], .single, 0xb7a11f5c, 0, 0, 0, 0, 0, 0⟩,
  ⟨"HOST_VIEW", false, 0x6001c, [], .single, 0, 1, 0, 0, 0, 0, 0⟩,
  ⟨"HOST_STATUS", false, 0x60100, [(2, 0x40)], .single, 0, 0, 0, 0, 0, 0, 0⟩,
  ⟨"HOST_UR_CNT", false, 0x60104, [(2, 0x40)], .single, 0, 0, 0, 0, 0, 0, 0⟩,
  ⟨"HOST_CA_CNT", false, 0x60108, [(2, 0x40)], .single, 0, 0, 0, 0, 0, 0, 0⟩,
  ⟨"HOST_DISCARD_CNT", false, 0x6010c, [(2, 0x40)], .single, 0, 0, 0, 0, 0, 0, 0⟩,
  ⟨"HOST_WIDTH_CNT", false, 0x60110, [(2, 0x40)], .single, 0, 0, 0, 0, 0, 0, 0⟩,
  ⟨"HOST_PARITY_CNT", false, 0x60114, [(2, 0x40)], .single, 0, 0, 0, 0, 0, 0, 0⟩,
  ⟨"HOST_RESET_CNT", false, 0x60118, [(2, 0x40)], .single, 0, 0, 0, 0, 0, 0, 0⟩,
  ⟨"HOST_LAT", false, 0x6011c, [(2, 0x40)], .single, 0, 0, 0, 0, 0, 0, 0⟩,
  ⟨"HOST_MSG_CNT", false, 0x60120, [(2, 0x40)], .single, 0, 0, 0, 0, 0, 0, 0⟩,
  ⟨"HOST_VMAP_SRC", false, 0x60480, [(48, 8)], .single, 0, 0x80ffffff, 0, 0, 0, 0, 0⟩,
  ⟨"HOST_VMAP_MASK", false, 0x60484, [(48, 8)], .single, 0, 0xffffffff, 0, 0, 0, 0, 0⟩,
  ⟨"HOST_MSIX", false, 0x61000, [(256, 4)], .single, 0, 0xffffffff, 0, 0, 0, 0, 0⟩,
  ⟨"HOST_PBA", false, 0x62000, [(2, 4)], .single, 0, 0, 0, 0, 0, 0, 0⟩]

/-- The rows of the block that address `a` lies in (spec/01_package_and_tick.md, Table 1.5). -/
def blockTable (a : Nat) : List RegDef :=
  if a < 0x1000000 then
    match a / 0x10000 with
    | 0 => regTablePkg
    | 1 => regTableFault ++ regTableUpd
    | 2 => regTableTime
    | 3 => regTableVol ++ regTableSched
    | 4 => regTableSec0 ++ regTableSec1
    | 5 => regTableImg ++ regTableRet
    | 6 => regTableHost
    | 7 => regTableFab
    | 8 => regTableEth
    | _ => []
  else
    match (a - 0x1000000) % 0x400000 / 0x10000 with
    | 0 => regTableDie
    | 1 => regTableSyn
    | 2 => regTableRamp
    | 3 => regTableCko
    | 4 => regTableClk
    | 5 => regTableCal
    | 6 => regTableElink
    | 8 => regTableKick ++ regTableLib
    | n => if 0x10 ≤ n ∧ n ≤ 0x14 then regTableCh ++ regTableLp
           else if 0x20 ≤ n ∧ n ≤ 0x2f then regTableEfe else []

/-- Every register of the register window. -/
def regTable : List RegDef :=
  regTablePkg ++ regTableDie ++ regTableSyn ++ regTableRamp ++ regTableClk ++ regTableCko ++ regTableCh ++ regTableLp ++ regTableKick ++ regTableLib ++ regTableVol ++ regTableSched ++ regTableTime ++ regTableEth ++ regTableElink ++ regTableEfe ++ regTableCal ++ regTableImg ++ regTableRet ++ regTableSec0 ++ regTableSec1 ++ regTableFault ++ regTableUpd ++ regTableFab ++ regTableHost

end Sys2Proof.Machine
end

