-- ==== Sys2Proof/Machine/Tab.lean ====
section
/-!
DEFINITION. Machine/Tab.lean: a sparse table, a list of (key, value) pairs in one canonical form: keys
strictly rising and no value equal to what an unlisted key reads as.  Registers, memories, buffers and
the per-unit records of the state are all held so.
-/

namespace Sys2Proof.Machine

/-- A sparse table from numbers to `α`. -/
abbrev Tab (α : Type) := List (Nat × α)

/-- What the table holds at key `k`; `dflt` is what an unlisted key reads as. -/
def tabGet {α : Type} (dflt : Nat → α) : Tab α → Nat → α
  | [], k => dflt k
  | (a, v) :: r, k => if k = a then v else tabGet dflt r k

/-- The table with the value `v` listed at key `k`, in its place. -/
def tabIns {α : Type} : Tab α → Nat → α → Tab α
  | [], k, v => [(k, v)]
  | (a, w) :: r, k, v =>
    if k < a then (k, v) :: (a, w) :: r else if k = a then (k, v) :: r else (a, w) :: tabIns r k v

/-- The table with `v` at key `k`: a value that an unlisted key reads is not listed. -/
def tabPut {α : Type} [DecidableEq α] (dflt : Nat → α) : Tab α → Nat → α → Tab α
  | [], k, v => if v = dflt k then [] else [(k, v)]
  | p :: r, k, v => if v = dflt k then (p :: r).filter (fun q => decide (q.1 ≠ k)) else tabIns (p :: r) k v

/-- The canonical form. -/
def tabWf {α : Type} [DecidableEq α] (dflt : Nat → α) : Tab α → Bool
  | [] => true
  | (a, v) :: r => decide (v ≠ dflt a) && r.all (fun p => decide (a < p.1)) && tabWf dflt r

/-- The table without the keys from `lo` up to, but not including, `hi`: they read their default again. -/
def tabClear {α : Type} (t : Tab α) (lo hi : Nat) : Tab α :=
  t.filter (fun p => !(decide (lo ≤ p.1) && decide (p.1 < hi)))

/-- The table with every listed value changed by `f`, in canonical form again. -/
def tabMap {α : Type} [DecidableEq α] (dflt : Nat → α) (f : Nat → α → α) (t : Tab α) : Tab α :=
  (t.map (fun p => (p.1, f p.1 p.2))).filter (fun p => decide (p.2 ≠ dflt p.1))

end Sys2Proof.Machine
end

