-- ==== Sys2Proof/Machine/State.lean ====
section
/-!
DEFINITION. Machine/State.lean: the state of the package as plain data, and its value at reset.
Registers live in sparse tables keyed by address; what the registers do not show (counters between
events, buffers, records, stores, pins) lives in one record per unit.
-/

namespace Sys2Proof.Machine

/-- A roll message (R15, R325): self-test result, lifecycle state, the identity key whose hash it carries, none for that of the
package certificate at the site, and the die's signature. -/
structure Roll where
  selfTestOk : Bool := true
  lifecycle : Nat := 0
  key : Option Nat := none
  sig : List Nat := []
  deriving DecidableEq, Repr

/-- What the core of a die counts for a TDC or GAIN measurement (R277, R278): the item, as CAL_STATUS.RUNNING shows it; reference
cycles counted; readings at each tap and predicted fine phases in each of 64 bins; the probe; the sums over the probe changes of
their change in the slope of e, in ps, and of the loop's own fine codes, in LSB. -/
structure CoreMeas where
  item : Nat := 0
  n : Nat := 0
  hits : List Nat := []
  bins : List Nat := []
  probe : Nat := 0
  slopes : Int := 0
  loops : Int := 0
  deriving DecidableEq, Repr

/-- The cycle-by-cycle part of a synthesis core (R48 to R50, R63). -/
structure CoreRec where
  /-- fine_0, the integrator i and the output y of the loop filter, the last two in 10^-6 Hz (R50). -/
  fine0 : Nat := 0
  integ : Int := 0
  filt : Int := 0
  /-- The dither LFSR, the three accumulators of the modulator, the carries of its second stage one cycle back and of its third
  stage one and two cycles back, and the division ratio of the last cycle (R49). -/
  lfsr : Nat := 1
  acc1 : Nat := 0
  acc2 : Nat := 0
  acc3 : Nat := 0
  carry2 : Nat := 0
  carry3 : Nat × Nat := (0, 0)
  ratio : Int := 0
  /-- Phase errors in ps over the last 4,096 reference cycles and fine codes over those of R63, newest first, each with the number
  of cycles that had it one after the other. -/
  errs : List (Int × Nat) := []
  fines : List (Nat × Nat) := []
  /-- The core acquires after a retune or a loss of lock: 1.005 × target bounds it (R70). -/
  capped : Bool := false
  /-- Consecutive reference cycles with |e| within WIN, and beyond 4 × WIN (R57, R58). -/
  lockRun : Nat := 0
  badRun : Nat := 0
  /-- Reference cycles of the present tick that the core has gone through. -/
  used : Nat := 0
  meas : CoreMeas := {}
  deriving DecidableEq, Repr

/-- The hidden part of a clock output. -/
structure CkoRec where
  /-- Steps by which it stands off its aligned position, and whether that position is not known (R100). -/
  off : Int := 0
  lost : Bool := false
  /-- Its pending change and the boundary that takes it (R102): 1 start, 2 stop, 3 restart. -/
  pend : Nat × Nat := (0, 0)
  /-- The phase that it moves to in the present tick (R101). -/
  tgt : Int := 0
  /-- Its period, and the time from the boundary to its first rising edge less φ, as fractions of a tick (R97, R99). -/
  period : Nat × Nat := (1, 1)
  wait : Nat × Nat := (0, 1)
  /-- It has gone idle with its die sidelined (R104). -/
  side : Bool := false
  deriving DecidableEq, Repr

/-- A die's state that no register shows: chapters 1 to 3, 6 and 11. -/
structure DieRec where
  /-- Bit r: rail r below its reset threshold (R290). -/
  railsLow : Nat := 0
  /-- The die is held in reset. -/
  inReset : Bool := true
  /-- Negotiation (R16): begun, ended, and the sites whose message arrived. -/
  negStarted : Bool := false
  negDone : Bool := false
  rolls : Tab (Option Roll) := []
  /-- The die has been taken out of service; DIE_SIDELINE has still to carry it out. -/
  sidelineDue : Bool := false
  /-- Consecutive good qualification windows of REFA and REFB (R47). -/
  qualRunA : Nat := 0
  qualRunB : Nat := 0
  /-- The image's values are in force and the core may acquire (R296). -/
  coreOn : Bool := false
  /-- Consecutive reference cycles in LOCKED (R63). -/
  lockCycles : Nat := 0
  /-- The core has been LOCKED since the last die reset. -/
  everLocked : Bool := false
  /-- The core entered its present ACQUIRE from HOLDOVER and has left a build-out (R66, R67). -/
  builtOut : Bool := false
  /-- The source that was last active; a retune loaded in HOLDOVER waits for its acquisition (R69). -/
  lastSrc : Nat := 3
  retuneDue : Bool := false
  /-- The modulator, the loop filter and what the core has measured. -/
  core : CoreRec := {}
  /-- A survey asked for while the die was sidelined waits for `STARTING` (R55, R56). -/
  surveyDue : Bool := false
  /-- The last HOLDOVER window agreed (R64). -/
  hoAgreed : Bool := false
  /-- Start boundary of an accepted phase step request, and whether it has begun (R68). -/
  pstepAt : Option Nat := none
  pstepOn : Bool := false
  /-- Start boundary of an armed ramp; boundaries of a waiting package abort and of a waiting fold;
  reference cycles of the present tick already accounted for (R74, R76, R79). -/
  rampAt : Option Nat := none
  rampAbortAt : Option Nat := none
  rampFoldAt : Option Nat := none
  rampUsed : Nat := 0
  /-- How A has moved in the present tick: A before, the increment, reference cycles. -/
  rampTrace : List (Int × Int × Nat) := []
  /-- The stability judge (R86 to R91): the XO's frequency is identified; first count of the group and
  windows in it; the last counts, newest first; the XO has been judged stable since the die reset; the
  judge timed out or the XO failed. -/
  judgeFound : Bool := false
  judgeFirst : Nat := 0
  judgeRun : Nat := 0
  xoCounts : List Nat := []
  xoEverStable : Bool := false
  xoBroke : Bool := false
  /-- The clock outputs (R99 to R104). -/
  cko : Tab CkoRec := []
  /-- Outputs whose ALIGN is ignored since a fold (R100). -/
  ckoIgnore : Nat := 0
  /-- Part of the present tick ran in bypass mode (R61). -/
  bypSeen : Bool := false
  /-- A tick overrun was declared in the present tick, with so many slots reached (R29). -/
  overrun : Bool := false
  reached : Nat := 0
  /-- Lane-cycles of the present tick beyond the fixed work and the active slots: filter runs and volley changes (R26). -/
  work : Nat := 0
  /-- Entries that the scrub pass in progress has found uncorrectable and whose other copy it still fetches (R158). -/
  scrubWait : List Nat := []
  deriving DecidableEq, Repr

/-- The vectors (i_acc, q_acc) that DEMOD has collected from a slot in the present measurement: windows ended, vectors, their sums
and the sums of their products (R281). -/
structure DemodRec where
  wins : Nat := 0
  n : Nat := 0
  si : Int := 0
  sq : Int := 0
  sii : Int := 0
  sqq : Int := 0
  siq : Int := 0
  deriving DecidableEq, Repr

/-- The hidden part of a CH slot (spec/04, spec/05, spec/06). -/
structure SlotRec where
  /-- The slot composes drive words (R113). -/
  active : Bool := false
  /-- Phase accumulator, code LFSR and chip of the next tick; the next tick is the first of a sequence
  (R114, R118, R119). -/
  acc : Nat := 0
  lfsr : Nat := 1
  chip : Int := 1
  fresh : Bool := true
  /-- Reference pairs of the next tick, the present tick and the tick before (R118). -/
  refs : List (Int × Int) := []
  /-- The window in progress: accumulators, cause of an invalid sample (0 none), void, an overranged
  sample met; the terms added last (R133, R137). -/
  iAcc : Int := 0
  qAcc : Int := 0
  wHeld : Nat := 0
  wVoid : Bool := false
  wOvr : Bool := false
  lastI : Int := 0
  lastQ : Int := 0
  /-- The last sample was valid and stands in the accumulators; or it was valid and excluded by a kick (R145). -/
  lastOk : Bool := false
  lastExcl : Bool := false
  /-- The first tick whose sample is this slot's: it serves the channel from there on (R148, R269). -/
  since : Nat := 0
  /-- The loop: state of Table 5.2, integrator, correction, runs, hold and fault causes. -/
  st : Nat := 0
  integ : Int := 0
  corr : Int := 0
  run : Nat := 0
  faultRun : Nat := 0
  heldRun : Nat := 0
  ovrRun : Nat := 0
  holdFrom : Nat := 0
  holdCause : Nat := 0
  faultCause : Nat := 0
  clamped : Bool := false
  skip : Bool := false
  /-- The loop was in FAULT before the last state change (R143, of two changes at one boundary). -/
  wasFault : Bool := false
  lastErr : Int := 0
  /-- Boundary B of the last state change, X of R145, and the kick buffer (R169). -/
  kickAt : Nat := 0
  kickX : Nat := 0
  kick : List Int := []
  /-- The static drive and the integrator that stood before the last state change (R143, R169). -/
  startOld : Int := 0
  integOld : Int := 0
  /-- The current-entry copy (R156); the slot carries its last park word because state 0 is poisoned
  (R157); the park word (R128). -/
  entry : Nat := 0
  parkHeld : Bool := false
  parkWord : Nat := 0
  /-- Ticks since the last valid reading of the selected temperature source (R126). -/
  tempAge : Nat := 0
  /-- The tick on which the last window ended, for which its end has been carried out. -/
  endedAt : Option Nat := none
  /-- The boundary of the last state change, and of the last one that STEP_ONLY places (R127). -/
  stepAt : Option Nat := none
  edgeAt : Option Nat := none
  /-- What a commit loaded at C − 1 leaves to step 5 of tick C − 1 (R33, R143): FTW of the tick in progress, an enable, a
  state change with its hop mode; the hop of the coming boundary (0 none, 1 HOP_CONT, 2 HOP_RESET, 3 a reset that no later
  hop mode of the boundary overrules: R120, R121); a CLEAR (R142). -/
  ftwPrev : Option Nat := none
  enDue : Bool := false
  toDue : Option (Nat × Bool) := none
  hopDue : Nat := 0
  clearDue : Bool := false
  /-- The parity of the slot's last drive word failed; the slot is handled in the next tick (R323). -/
  copyBad : Bool := false
  /-- The slot takes part in the present DEMOD run and has met none of the causes of R281; the phase that
  a blend moves LP_DEMOD_PHASE to (R282). -/
  calOk : Bool := false
  dem : DemodRec := {}
  calPhase : Option Nat := none
  deriving DecidableEq, Repr

/-- A sample of an uplink frame as a port holds it for step 3. -/
structure Sample where
  x : Nat
  ovr : Bool
  stale : Bool
  deriving DecidableEq, Repr

/-- The samples of one tick at a port: the cause that makes all of them invalid (0 none), whether the downlink frame in
force in that tick was a repeated one (R132). -/
structure Frame where
  cause : Nat
  rep : Bool
  samples : List Sample
  deriving DecidableEq, Repr

/-- A downlink frame of a port in ACTIVE or WARM (R235, R237): its tick number, width and delay fields, its control slot (tag,
opcode, address, data; opcode 0 for none), the header flags, whether it was ended in short form (R264), the drive words and
the sub-tick fields by position (zero where none is listed). -/
structure DownFrame where
  tickKind : Bool
  num : Nat
  width : Nat
  delay : Nat
  tag : Nat
  op : Nat
  addr : Nat
  data : Nat
  stale : Bool
  recal : Bool
  adopt : Bool
  park : Bool
  short : Bool
  words : List (Nat × Nat)
  subs : List (Nat × Nat)
  deriving DecidableEq, Repr

/-- A CAPS, TRAIN or RESULT frame of a port (kinds 2 to 4): the header fields that have a meaning in it and its data block (R235,
R238, R246). -/
structure NegFrame where
  kind : Nat
  width : Nat
  ack : Bool
  word : Nat
  deriving DecidableEq, Repr

/-- A loop record (R148) and a standby record (R161) of a channel, as its backup die holds them. -/
structure LoopRecord where
  st : Nat
  holdFrom : Nat
  integ : Int
  corr : Int
  run : Nat
  faultRun : Nat
  kickAt : Nat
  deriving DecidableEq, Repr

structure StandbyRecord where
  /-- The park word that the slot carries in place of a poisoned state 0 entry (R157). -/
  held : Option Nat
  entry : Nat
  state : Nat
  start : Nat
  step : Int
  profile : Nat
  kick : List Int
  deriving DecidableEq, Repr

/-- A control-slot command (R259): opcode, address, data. -/
structure EfeCmd where
  op : Nat
  addr : Nat
  data : Nat
  deriving DecidableEq, Repr

/-- The command outstanding on a port: its tag, whether the host issued it, the tick it was sent in and how
often it has been sent (R267). -/
structure Outstanding where
  cmd : EfeCmd
  tag : Nat
  host : Bool
  sent : Nat
  tries : Nat
  deriving DecidableEq, Repr

/-- The hidden part of an element link port (spec/09). -/
structure PortRec where
  /-- The last valid CAPS word with ACK (R247), and the status byte of the last CAPS frame. -/
  caps : Option Nat := none
  capsStatus : Nat := 0
  /-- A valid CAPS frame has been received in this exchange; the last CAPS, TRAIN or RESULT frame that the port sent (R247,
  R248). -/
  capsSeen : Bool := false
  sent : Option NegFrame := none
  /-- Training (R248): rates failed in the attempt, rate under training, phase (0 answer awaited, 1 PRBS, 2
  RESULT awaited), errors counted by the die. -/
  failed : Nat := 0
  rate : Nat := 0
  phase : Nat := 0
  errors : Nat := 0
  /-- Consecutive uplink frames not received or invalid (R249). -/
  badRun : Nat := 0
  /-- TICK frames still to carry ADOPT (R266). -/
  adoptLeft : Nat := 0
  /-- The port's first boundary A since its die started (R298), and whether it has been passed. -/
  firstA : Option Nat := none
  passedA : Bool := false
  /-- 50 ms after S0 the port still was in SYNC or CAPS (R299). -/
  lateStart : Bool := false
  /-- The boundary at which an unordered park is answered (R266); a commit has loaded PARK = 1 for the coming boundary. -/
  parkDue : Option Nat := none
  cmdPark : Bool := false
  /-- The die commanded the park in which its EFE is, or was when last seen (R253, R266). -/
  parkCmd : Bool := false
  /-- Park and band writes still to send, by index (R261), other commands of the die, the host's command. -/
  passNext : Nat := 0
  passEnd : Nat := 0
  own : List EfeCmd := []
  host : Option EfeCmd := none
  out : Option Outstanding := none
  tag : Nat := 0
  /-- The tick since which a host SPOT is held by calibration (R285); calibration measures this port. -/
  spotSince : Option Nat := none
  calHold : Bool := false
  /-- The settling check (R281, R285): monitor inputs still to convert, conversions since the last host
  command, the main sample of the tick in which the present conversion was sent. -/
  calSpots : List Nat := []
  calCount : Nat := 0
  spotMain : Option Nat := none
  /-- Converters whose inputs are stale, with the last tick of the mark (R262): converter, position that
  overranged, tick. -/
  stale : List (Nat × Nat × Nat) := []
  deriving DecidableEq, Repr

/-- A calibration slot of the retained store (R287): sequence number; tap table; GAIN of each valid band; VTH, DFE1 and DFE2 of each
port; LP_DEMOD_PHASE of each slot, those not listed 0; die temperature; CRC-32C. -/
structure CalSave where
  seq : Nat := 0
  taps : List Nat := []
  gains : List (Nat × Nat) := []
  eqs : List (Nat × Nat × Nat) := []
  phases : Tab Nat := []
  temp : Int := 0
  crc : Nat := 0
  deriving DecidableEq, Repr

/-- The calibration engine of a die (spec/10_calibration.md). -/
structure CalRec where
  /-- The run in progress: measurement B, its port (LINK), the die temperature at its start; results of A. -/
  second : Bool := false
  port : Nat := 0
  tempStart : Int := 0
  hitsA : List Nat := []
  valA : Int := 0
  /-- The ports that the LINK run measures; frames of the present port invalid or not received, and since when, in ticks. -/
  linkPorts : List Nat := []
  portBad : Nat := 0
  portSince : Nat := 0
  /-- Items whose run the host has asked to abort in the present tick (R276). -/
  abortDue : Nat := 0
  eqA : List (Nat × Int × Int × Int) := []
  eqB : List (Nat × Int × Int × Int) := []
  phA : List (Nat × Nat) := []
  /-- Slots with which the present DEMOD run began. -/
  part : List Nat := []
  /-- When the last run of each item began and when it was accepted, in ticks since reset; items that wait for
  MIN_INTERVAL. -/
  began : Tab Nat := []
  accepted : Tab Nat := []
  retry : Nat := 0
  /-- Blends: steps made and (old, new) of each tap; of the gain of a band; skew steps still to make; targets
  of each port's VTH, DFE1 and DFE2. -/
  tapStep : Nat := 0
  taps : List (Nat × Nat) := []
  gainStep : Nat := 0
  gain : Option (Nat × Nat × Nat) := none
  skewLeft : Int := 0
  eqs : List (Nat × Int × Int × Int) := []
  /-- A save is wanted; the slot being written, with the CRC to come; when the last save began. -/
  saveDue : Bool := false
  saving : Option (Nat × Nat) := none
  savedAt : Option Nat := none
  slots : List CalSave := [{}, {}]
  /-- TDC has been accepted or restored since the die's reset (Table 10.3). -/
  tdcSure : Bool := false
  deriving DecidableEq, Repr

/-- The tick commit in progress (R32 to R38, R124). -/
structure CommitRec where
  /-- A freeze awaits acknowledgements; the boundary that the GO named; dies asked, frozen and acknowledged. -/
  freezing : Bool := false
  named : Option Nat := none
  asked : Nat := 0
  frozen : Nat := 0
  acked : Nat := 0
  /-- Dies that hold the confirmation; C; segments; segments loaded; EFEs (die × 8 + index) of each segment. -/
  confirmed : Nat := 0
  at_ : Option Nat := none
  loaded : Nat := 0
  plan : List (List Nat) := []
  /-- The channels whose tone or live entries it changes, and the moment of acceptance in nanoseconds of
  the grid, for the guard of R190. -/
  chans : List Nat := []
  acceptedNs : Nat := 0
  deriving DecidableEq, Repr

/-- The hidden part of a volley queue slot (spec/07_volleys.md). -/
structure VolRec where
  /-- Entries taken at STAGE, order of acceptance, moment of acceptance in ticks since reset. -/
  entries : List Nat := []
  order : Nat := 0
  accepted : Nat := 0
  /-- B was moved under APPLY_NEXT. -/
  late : Bool := false
  /-- 0, or the cause with which verification ends: 8 TAG, 9 SEQ. -/
  verdict : Nat := 0
  /-- Dies that hold entries and B; GO sent; dies that hold GO, ABORT, and that have acknowledged the last of
  them; an ABORT was sent. -/
  got : Nat := 0
  goSent : Bool := false
  go : Nat := 0
  abort : Nat := 0
  acks : Nat := 0
  abortSent : Bool := false
  /-- An ABORT came at or after the cutoff. -/
  tooLate : Bool := false
  /-- It was under verification when the captain's role moved (R183). -/
  moved : Bool := false
  /-- The load boundary has passed: outcomes counted in the order of Table 7.7; entries left to a covering die. -/
  loaded : Bool := false
  counts : List Nat := []
  left : List Nat := []
  deriving DecidableEq, Repr

/-- A standing volley (R192): offset, integrator policy, hop mode, entries. -/
structure Standing where
  offset : Nat
  integ : Nat
  hop : Nat
  entries : List Nat
  deriving DecidableEq, Repr

/-- An entry that its home die has not applied and that is left to a covering die (R185): the integrator policy and the hop mode
of its volley, and the place of that volley's STAGE in the order of acceptance, 0 for a standing volley (R186). -/
structure LeftEntry where
  entry : Nat
  integ : Nat
  hop : Bool
  order : Nat
  deriving DecidableEq, Repr

/-- An occurrence that has been given GO: its boundary, its volley, and the mask of the dies that hold the GO (R180, R195). -/
structure Occurrence where
  at_ : Nat
  vol : Nat
  dies : Nat
  deriving DecidableEq, Repr

/-- The standing schedule: the volleys, each die's digest of the section it loaded, the next occurrence's grid
position, occurrences with GO, the first grid position of the run. -/
structure SchedRec where
  vols : List Standing := []
  /-- Entries of standing volleys, and of volleys whose slot was released, left to a covering die. -/
  left : List LeftEntry := []
  digests : Tab (List Nat) := []
  next : Option (Nat × Nat) := none
  go : List Occurrence := []
  /-- The last boundary for which occurrences were applied, and the channels that they named. -/
  ran : Nat × List Nat := (0, [])
  /-- Skipped occurrences to catch up, one entry for each event: boundary, volleys in the order of their last occurrence. -/
  skipped : List (Nat × List Nat) := []
  from_ : Nat := 0
  deriving DecidableEq, Repr

/-- A foreign master of a port: its port identity, its dataset (priority1, clockClass, clockAccuracy, offsetScaledLogVariance,
priority2, grandmaster), stepsRemoved, the nanoseconds since reset of its last two Announce messages, newest first, and their
logMessageInterval (IEEE 1588-2019, 9.3.2). -/
structure Foreign where
  src : Nat
  ds : List Nat
  steps : Nat
  heard : List Nat
  logInt : Int
  deriving DecidableEq, Repr

/-- A PTP instance of a domain on a port (spec/08_network_time.md): the masters heard, each with its port identity, its dataset
and the Announce messages received from it; the one selected; the origin of the last Sync of each (R209); the Sync in use
(origin and corrected ingress in picoseconds; the sequence number of a Follow_Up awaited); the Delay_Req in flight (egress,
sequence number, correction, key slot of its TLV); the interval of Delay_Req; timeouts met. -/
structure PtpRec where
  masters : List Foreign := []
  sel : Option Nat := none
  origins : Tab (Option Int) := []
  twoStep : Bool := false
  logSync : Int := 0
  t1 : Option Int := none
  t2 : Option Int := none
  waitSeq : Option Nat := none
  t3 : Option Int := none
  reqSeq : Nat := 0
  reqCorr : Int := 0
  reqKey : Option Nat := none
  reqLog : Int := 0
  noSync : Bool := false
  noAnn : Bool := false
  deriving DecidableEq, Repr

/-- A domain's servo: its master (port, identity, grandmaster); exchanges of the group (θ and mean path delay in
picoseconds); consecutive good updates; θ of the last one, its time in ticks since reset; f_est of the captain's servo and of
the vice-captain's (R208, R212). -/
structure DomRec where
  master : Option (Nat × Nat × Nat) := none
  group : List (Int × Int) := []
  run : Nat := 0
  theta : Option Int := none
  lastUp : Nat := 0
  fEst : Int := 0
  fVice : Int := 0
  deriving DecidableEq, Repr

/-- The time engine. -/
structure TimeRec where
  /-- Package time at the most recent boundary, in nanoseconds. -/
  now : Nat := 0
  /-- D that the captain's servo drives; new values of D on their way: die, boundary, value. -/
  d : Int := 0
  dPend : List (Nat × Nat × Int) := []
  /-- The last D that a time word distributed (R212). -/
  dSent : Int := 0
  /-- Package time of each die in units of 2^-16 ns, as it was the nanoseconds of `marks` after the last boundary (R199). -/
  clocks : Tab Nat := []
  marks : Tab Nat := []
  /-- Nanoseconds since reset at which time holdover was entered (R219). -/
  hoFrom : Nat := 0
  /-- A step on its way: N_s, N', domain, re-step. -/
  stepAt : Option (Nat × Nat × Nat × Bool) := none
  /-- N' while the tick before a step is being finished: pending actions are already renumbered (R215). -/
  jumpTo : Option Nat := none
  /-- A change of PREF that waits for its conditions. -/
  prefDue : Bool := false
  ptp : Tab PtpRec := []
  doms : Tab DomRec := []
  /-- The mode of the present attempt of each Ethernet port, and frames counted for telemetry: F3, F2, F1, F0. -/
  ethMode : Tab Nat := []
  telSeen : List Nat := [0, 0, 0, 0]
  /-- The last frame that each port launched. -/
  lastFrame : Tab (List Nat) := []
  /-- The package time in picoseconds until which each port's wire carries its last frame, and the launch time of a telemetry
  frame that waits for a host frame (R224, R227). -/
  wireEnd : Tab Nat := []
  telWait : Tab (Option Nat) := []
  /-- Launch slots to be sent late at the first moment the port allows; those with an ABORT that came late. -/
  launchLate : Nat := 0
  launchAbort : Nat := 0
  /-- The TICK_OUT pin as it stands right after the boundary, and PPS_OUT with the package time of its rise; a
  takeover holds them low until their next rising edge. -/
  tickOut : Bool := false
  ppsOut : Option Nat := none
  deriving DecidableEq, Repr

/-- A die's way back into service (R357 to R359): the rejoin runs; the host took the die out of service; a rejoin
has been asked for (host RELOAD, update); the update reloads it; its image part is loaded; R' has been picked; the
starts of its rejoins in seconds since reset. -/
structure RejoinRec where
  on : Bool := false
  byHost : Bool := false
  asked : Bool := false
  byUpdate : Bool := false
  loaded : Bool := false
  ready : Bool := false
  starts : List Nat := []
  deriving DecidableEq, Repr

/-- A lease (R360): held, holder, last renewal in nanoseconds since reset, the holder has stopped using it. -/
structure Lease where
  held : Bool := false
  holder : Nat := 0
  renewed : Nat := 0
  stopped : Bool := false
  deriving DecidableEq, Repr

/-- The fault manager and the fabric (spec/13_in_service_operation.md). -/
structure FaultRec where
  /-- Boundary E has passed; dies lost by heartbeat; enabled EFEs (bit die × 8 + index), and those of them found
  unserved. -/
  passedE : Bool := false
  lost : Nat := 0
  enabled : Nat := 0
  unserved : List Nat := []
  /-- The die whose cover order has been sent; the die to be covered and the boundary A; for each die the boundary
  from which its elements hold plus one, 0 for none; the die covered. -/
  order : Option Nat := none
  coverAt : Option (Nat × Nat) := none
  holdFrom : Tab Nat := []
  covered : Option Nat := none
  /-- The die returning and R'. -/
  returnAt : Option (Nat × Nat) := none
  /-- An ordered sideline: the die and A, and the operation that asked for it (0 host sideline, 1 host reload, 2
  update). -/
  sideAt : Option (Nat × Nat × Nat) := none
  rejoins : Tab RejoinRec := []
  leases : List Lease := [{}, {}, {}, {}, {}, {}]
  /-- For each ring direction of a hop (hop × 2, + 1 upward) the flit under replay and how often it has been asked for again. -/
  replays : Tab (Option (Nat × Nat)) := []
  /-- Failed hops; passed hops and the boundary at which they unwrap. -/
  hopFail : Nat := 0
  unwrapAt : Option (Nat × Nat) := none
  /-- The update: dies still to reload, the die being reloaded, its slot, a stop asked for, the boundary of its
  commit, dies that run the new image. -/
  updTodo : List Nat := []
  updDie : Option Nat := none
  updSlot : Nat := 0
  updStop : Bool := false
  updAt : Option Nat := none
  updMask : Nat := 0
  /-- Live values that the capture of each boundary shows (R375). -/
  updState : Nat := 0
  updCause : Nat := 0
  /-- SERVICE_OK and NMI_N pins: driven high, pulled low. -/
  sok : Bool := false
  nmi : Bool := false
  deriving DecidableEq, Repr

/-- A section of an image, with the register records or bytes that it carries (Tables 11.5, 11.6). -/
structure Section where
  type : Nat
  die : Nat
  flags : Nat
  param : Nat
  offset : Nat
  length : Nat
  deriving DecidableEq, Repr

/-- The image loader (spec/11_start_up_and_retained_state.md). -/
structure ImageRec where
  /-- Candidate slots, and slots refused at their load in this start; the slot being loaded, next block; rereads of
  the present block. -/
  cands : Nat := 0
  tried : Nat := 0
  slot : Option Nat := none
  block : Nat := 0
  tries : Nat := 0
  /-- The digest of the slot under load, of the booted image and of a verified one. -/
  digest : List Nat := []
  booted : List Nat := []
  verified : List Nat := []
  /-- Dies that have passed the content check; dies that run an image, by slot. -/
  checked : Nat := 0
  running : Tab Nat := []
  /-- Bytes programmed into the flash devices: slot × 2^28 + byte offset; which devices answer. -/
  flash : Tab Nat := []
  present : Nat := 3
  /-- Blocks in each slot (R301). -/
  sizes : Nat × Nat := (65536, 65536)
  /-- The operation in progress: OP, slot, block. -/
  op : Option (Nat × Nat × Nat) := none
  /-- IMG_PIN of the store header. -/
  pin : Nat := 0
  /-- IMG_CTRL.RESTART waits for its snapshot; step 9 has been done in this start. -/
  restart : Bool := false
  restored : Bool := false
  deriving DecidableEq, Repr

/-- A snapshot (R316, R319): sequence, whole, cut short, records (channel, state, loop state, integrator), cover,
package time, tick, D, f_est of both domains, digest. -/
structure Snapshot where
  seq : Nat := 0
  ok : Bool := false
  torn : Bool := false
  chans : List (Nat × Nat × Nat × Int) := []
  cover : Nat := 0
  time : Nat := 0
  tick : Nat := 0
  d : Int := 0
  fA : Int := 0
  fB : Int := 0
  digest : List Nat := []
  deriving DecidableEq, Repr

/-- A die's retained store (R315): snapshot slots written, by slot number; the last one; emergency slots; trim log
halves with their generations; the snapshot being written; forgotten. -/
structure RetRec where
  slots : Tab Snapshot := []
  last : Nat := 63
  emerg : List Snapshot := [{}, {}]
  trims : List (Nat × Nat) := []
  gen : Nat := 1
  trimFull : Bool := false
  writing : Option Snapshot := none
  /-- The emergency slot written in the present tick. -/
  emergNew : Option Nat := none
  /-- The header with IMG_PIN, and key records, that cannot be read; the store identity, whose content no rule gives. -/
  headerBad : Bool := false
  keyBad : Nat := 0
  identity : Nat := 0
  forgotten : Bool := false
  /-- Integrators and loop states to take at the first start, by slot. -/
  back : List (Nat × Nat × Int) := []
  deriving DecidableEq, Repr

/-- The captain's snapshots: the one named (S and sequence number), the last sequence number. -/
structure SnapRec where
  at_ : Option (Nat × Nat) := none
  seq : Nat := 0
  deriving DecidableEq, Repr

/-- An audit log entry (Table 12.8). -/
structure Audit where
  index : Nat
  type : Nat
  site : Nat
  result : Nat
  tick : Nat
  session : Nat
  time : Nat
  detail : List Nat
  hash : List Nat
  deriving DecidableEq, Repr

/-- A die's copy of the audit log (R343): its entries, the hash of the predecessor of the oldest, none while no entry has been
overwritten, and the index of the next entry. -/
structure AuditLog where
  entries : List Audit := []
  base : List Nat := []
  next : Nat := 0
  deriving DecidableEq, Repr

/-- A PTP key slot (R340). -/
structure PtpKey where
  valid : Bool := false
  keyId : Nat := 0
  spp : Nat := 0
  key : List Nat := []
  deriving DecidableEq, Repr

/-- The fuses of a die. -/
structure Fuses where
  lifecycle : Nat := 1
  rollback : Nat := 0
  programmed : Nat := 0
  revoked : Nat := 0
  disabled : Nat := 0
  debug : Bool := false
  hp1Off : Bool := false
  hashes : Tab (List Nat) := []
  restep : Nat := 16
  /-- A repair has failed. -/
  bad : Bool := false
  deriving DecidableEq, Repr

/-- The security engine (spec/12_security.md). -/
structure SecRec where
  fuses : Tab Fuses := []
  /-- The burn in progress: kind (0 program, 1 revoke, 2 rollback, 3 lifecycle, 4 die disable, 5 HP1, 6 debug, 7
  re-step), argument, detail of its audit entry. -/
  burn : Option (Nat × Nat × List Nat) := none
  /-- SEC_OWNER_HASH as the burn's write found it. -/
  burnHash : List Nat := []
  /-- The challenge: port, challenge bytes, ephemeral private key. -/
  chal : Option (Nat × List Nat × Nat) := none
  /-- The open session: port, owner slot, first-owner, owner hash. -/
  sess : Option (Nat × Nat × Bool × List Nat) := none
  ctrlKey : List Nat := []
  volKey : List Nat := []
  seqLast : Nat := 0
  lockout : Bool := false
  /-- The audit log as each die stores it. -/
  logs : Tab AuditLog := []
  /-- The lifecycle has been burned to RETIRED since the start: it takes effect at the next (Table 12.2). -/
  retiring : Bool := false
  /-- Held groups of both ports: offset (bit 31 set: library window) and value. -/
  held : Tab (List (Nat × Word)) := []
  ptpKeys : Tab PtpKey := []
  telKey : List Nat := []
  /-- Keys in force from the next boundary: slot (8: telemetry) and key. -/
  keyDue : List (Nat × PtpKey) := []
  /-- SEC_KEY_DATA, which reads zero. -/
  keyData : Tab Nat := []
  deriving DecidableEq, Repr

/-- A host port (spec/14_host_port.md). -/
structure HostRec where
  perst : Bool := false
  d3 : Bool := false
  flr : Bool := false
  /-- R7: low halves held for a write, high halves latched for a read, by address of the low half. -/
  low : Tab (Option Word) := []
  high : Tab (Option Word) := []
  timeHigh : Option Nat := none
  /-- The host group: it commits with the held group; its writes. -/
  withAw : Bool := false
  group : List (Nat × Word) := []
  /-- Configuration space: base address registers; command register but Bus Master Enable; AER uncorrectable error status, which
  is sticky, and the bit of the first error in it; ECRC generation and checking enabled by the host; the other registers that a host
  writes, by number, where they do not hold their reset values. -/
  bars : Tab Word := []
  cmd : Nat := 0
  aer : Nat := 0
  aerFirst : Nat := 0
  ecrcGen : Bool := false
  ecrcCheck : Bool := false
  cfg : Tab (Option Nat) := []
  /-- MSI-X table words; vectors pending. -/
  msix : Tab Word := []
  pba : List Nat := []
  /-- The last completion: status (0 success, 1 Unsupported Request, 2 Completer Abort, 3 poisoned) and data; messages sent. -/
  cplStatus : Nat := 0
  cpl : List Word := []
  sent : List Nat := []
  deriving DecidableEq, Repr

/-- Everything in the package but the queue of waiting commands. -/
structure Chip where
  /-- Dies in the variant (R1): 2, 4, 6 or 8. -/
  dieCount : Nat := 8
  /-- Nanoseconds since the most recent tick boundary at which the present command acts. -/
  moment : Nat := 0
  /-- Tick boundaries since RESET_N was last released. -/
  upTicks : Nat := 0
  /-- How many free values have been taken (the model's own, notes/assumptions/2.md). -/
  freeCnt : Nat := 0
  /-- Register values in force. -/
  regs : Tab Word := []
  /-- Shadows of RWT registers that have been written since the last commit (R33, R390). -/
  shadow : Tab (Option Word) := []
  /-- The staged set: frozen shadows (R32). -/
  staged : Tab (Option Word) := []
  dies : Tab DieRec := []
  cals : Tab CalRec := []
  /-- CH slots, keyed by die × 4096 + slot. -/
  slots : Tab SlotRec := []
  /-- Element link ports, keyed by die × 16 + port. -/
  ports : Tab PortRec := []
  /-- Window event FIFO of each die, oldest first: tick, high half (R263). -/
  winFifo : Tab (List (Nat × Nat)) := []
  /-- Uplink samples received for the tick now ending, keyed by die × 16 + port. -/
  frames : Tab (Option Frame) := []
  /-- The last downlink frame of each port that is ACTIVE or WARM: from each boundary on, the frame of the tick that
  begins; and the form in which the frame of the coming tick repeats it (0 not at all, 1 full, 2 short: R29, R264), both
  keyed by die × 16 + port. -/
  down : Tab (Option DownFrame) := []
  repeatNext : Tab Nat := []
  /-- The library, 64 bits with CHECK, keyed by die × 2^22 + slot × 1024 + state (R151, R153), and the
  poisoned entries. -/
  lib : Tab Nat := []
  poison : Tab Bool := []
  /-- Library writes scheduled for the end of the tick, in order; pending live writes; live writes that
  joined the staged set; entries written by the host in the present tick (R146, R165). -/
  libQueue : List (Nat × Nat) := []
  libLive : Tab (Option Nat) := []
  libStaged : Tab (Option Nat) := []
  /-- Entries in the staged set that the host has written again since the freeze (R422). -/
  libSince : List Nat := []
  libWrote : List Nat := []
  /-- Mirror writes not yet acknowledged, oldest first: primary entry and value (R160); dirty mirror
  entries (R162). -/
  mirrorQueue : List (Nat × Nat) := []
  dirty : Tab Bool := []
  /-- Learned trims written back and not yet in the trim log: entry key and trim (R146, R318). -/
  trimNew : List (Nat × Nat) := []
  /-- Entries whose trim was written back in the present tick (R146). -/
  trimBack : List Nat := []
  /-- Protected EFEs: bit die × 8 + EFE (R19). -/
  protMask : Nat := 0
  /-- Loop and standby records held by backup dies, keyed by channel. -/
  loopRecs : Tab (Option LoopRecord) := []
  standbyRecs : Tab (Option StandbyRecord) := []
  /-- MSI-X vectors whose message is due (R394). -/
  due : List Nat := []
  /-- The fault log, oldest first: tick, source code, detail (R347). -/
  faultLog : List (Nat × Nat × Nat) := []
  commit : CommitRec := {}
  /-- Volley staging region (queue slot × 16384 + entry), queue slots, STAGE acceptances, tag writes by address. -/
  volStage : Tab Nat := []
  vols : Tab VolRec := []
  volOrder : Nat := 0
  sched : SchedRec := {}
  time : TimeRec := {}
  fault : FaultRec := {}
  image : ImageRec := {}
  rets : Tab RetRec := []
  snap : SnapRec := {}
  sec : SecRec := {}
  hosts : Tab HostRec := []
  /-- The largest latencies that each host port has seen, of a register read and of 64 bytes of a library read, in nanoseconds. -/
  latency : Tab (Nat × Nat) := []
  /-- What the SMBus target answered last: bytes; none for no acknowledge. -/
  smbus : Option (List Nat) := none
  /-- RESET_N is low; S0 has come. -/
  resetLow : Bool := true
  started : Bool := false
  deriving DecidableEq, Repr

/-- The state: the commands that wait, first in first out, and the package. -/
structure State where
  pending : List Instr := []
  chip : Chip := {}
  deriving DecidableEq, Repr

/-- No rule of the spec stops the package: a command that the rules refuse leaves a status and a count, and
the machine goes on.  No constructor: a step never faults. -/
inductive Fault
  deriving DecidableEq, Repr

/-- Why a step has no meaning. -/
inductive Refusal where
  /-- The command has no meaning in this model.  Raised by an arm of exec only; safe. -/
  | notModelled (mnemonic : String)
  deriving DecidableEq, Repr

/-- The outcome of a command: the package as `f` leaves it, the queue untouched. -/
def State.act (s : State) (f : Chip → Chip) : Host.Outcome State Fault Refusal :=
  .next { s with chip := f s.chip }

/-- The registers that show the fuses and the identity of a BT8 as shipped (R41, Table 12.10): PKG_ID, SEC_STATUS
(PROVISIONED, entropy good), SEC_OWNER_LEFT, SEC_LEFT (notes/assumptions/7.md). [log 7: DESIGN CHOICE] -/
def fusedRegs : Tab Word :=
  [(0x0, 0xB7A108A0), (0x40000, 0x61), (0x40068, 0xFF), (0x400AC, 0x1), (0x400B4, 0xFF082300)]

/-- The package with RESET_N asserted (R291): every register at its reset value, every die held in reset,
nothing stored, nothing waiting. [log 1: DESIGN CHOICE; 7: DESIGN CHOICE] -/
def State.reset : State := { chip := { regs := fusedRegs } }

end Sys2Proof.Machine
end

