-- ==== Sys2Proof/Machine/Ops.lean ====
section
/-!
DEFINITION. Machine/Ops.lean: the named operations over the registers and the per-unit records that
every rule uses: reading and writing registers and fields, free values, counters, the tick grid.
-/

namespace Sys2Proof.Machine

/-! ### The register table -/

/-- Does offset `r` hit an array that starts at 0 with these dimensions? -/
def dimsHit : List (Nat × Nat) → Nat → Bool
  | [], r => r == 0
  | (n, st) :: ds, r =>
    if ds.all (fun p => p.2 ≤ st) then decide (r / st < n) && dimsHit ds (r % st)
    else dimsHit ds (r - r % st % st) || decide (r / st < n) && dimsHit ds (r % st)

/-- The offset of address `a` within its die block, or within the package blocks. -/
def relOf (a : Nat) : Nat := if a < 0x1000000 then a else (a - 0x1000000) % 0x400000

/-- The die whose block holds address `a`. -/
def dieOf (a : Nat) : Nat := (a - 0x1000000) / 0x400000

/-- Whether a row of the register table holds address `a` (within the row's block). -/
def RegDef.hits (r : RegDef) (a : Nat) : Bool :=
  decide (r.base ≤ relOf a) && dimsHit r.dims (relOf a - r.base)

/-- The row of the register table that holds address `a`. -/
def findReg (a : Nat) : Option RegDef := (blockTable a).find? (fun r => r.hits a)

/-- Where a register that each host port has for itself is held: outside the 64 MiB register window. -/
abbrev portReg (p a : Nat) : Nat := 0x4000000 * (p + 1) + a

/-- Reset values that depend on where the register lies (spec tables 1.10, 3.8, 4.5, 6.4, 8.9, 9.17). -/
def resetExtra (a : Nat) : Nat :=
  if a < 0x1000000 then
    if a = TIME_DOM_CFG 0 then 0x80000000
    else if a = TIME_DOM_CFG 1 then 0x00010000
    else if 0x61000 ≤ a ∧ a < 0x61400 ∧ a % 16 = 12 then 1
    else 0
  else
    let r := relOf a
    if r = 0 then dieOf a * 2 ^ 8
    else if r = 0x40004 then (if dieOf a = 0 then 0x20 else 0)
    else if 0x100000 ≤ r ∧ r < 0x150000 then
      (if (r - 0x100000) % 0x80 = 0x1C then (r - 0x100000) / 0x80 % 256 else 0)
    else if 0x8C000 ≤ r ∧ r < 0x8E000 then (r - 0x8C000) / 4 % 256
    else if 0x60200 ≤ r ∧ r < 0x60400 ∧ r % 0x40 = 4 then 0x01000000
    else 0

/-- What a register reads after reset. -/
def resetOf (a : Nat) : Word :=
  let b := a % 0x4000000
  match findReg b with
  | some r => BitVec.ofNat 32 (r.reset ||| resetExtra b)
  | none => 0

/-! ### Registers and fields -/

/-- The value in force of the register at address `a`. -/
def Chip.reg (s : Chip) (a : Nat) : Word := tabGet resetOf s.regs a

/-- The state with the register at address `a` holding `v`. -/
def Chip.setReg (s : Chip) (a : Nat) (v : Word) : Chip :=
  { s with regs := tabPut resetOf s.regs a v }

/-- The 64-bit pair at `a` and `a + 4`, or the one register when the field lies in it (R7). -/
def Chip.wide (s : Chip) (f : Fld) : Nat :=
  if f.lo + f.w ≤ 32 then (s.reg f.addr).toNat
  else (s.reg f.addr).toNat + 2 ^ 32 * (s.reg (f.addr + 4)).toNat

/-- The value of a field. -/
def Chip.get (s : Chip) (f : Fld) : Nat := bitsOf (s.wide f) f.lo f.w

/-- The value of a signed field (R5). -/
def Chip.getI (s : Chip) (f : Fld) : Int := signedOf f.w (s.get f)

/-- Whether a one-bit field is set. -/
def Chip.on (s : Chip) (f : Fld) : Bool := s.get f != 0

/-- The state with a field holding `v`. -/
def Chip.set (s : Chip) (f : Fld) (v : Nat) : Chip :=
  let x := putBits (s.wide f) f.lo f.w v
  if f.lo + f.w ≤ 32 then s.setReg f.addr (BitVec.ofNat 32 x)
  else (s.setReg f.addr (BitVec.ofNat 32 x)).setReg (f.addr + 4) (BitVec.ofNat 32 (x / 2 ^ 32))

/-- The state with a signed field holding `v`. -/
def Chip.setI (s : Chip) (f : Fld) (v : Int) : Chip := s.set f (unsignedOf f.w v)

/-- A one-bit field from a truth value. -/
def Chip.setB (s : Chip) (f : Fld) (b : Bool) : Chip := s.set f (if b then 1 else 0)

/-- A counter that saturates at the top of its field. -/
def Chip.bump (s : Chip) (f : Fld) (k : Nat := 1) : Chip :=
  s.set f (min (s.get f + k) (2 ^ f.w - 1))

/-- The registers of die `d` back at their reset values. -/
def Chip.clearDie (s : Chip) (d : Nat) : Chip :=
  { s with
    regs := tabClear s.regs (dieBase d) (dieBase (d + 1))
    shadow := tabClear s.shadow (dieBase d) (dieBase (d + 1))
    staged := tabClear s.staged (dieBase d) (dieBase (d + 1)) }

/-- Registers from `lo` up to `hi` back at their reset values. -/
def Chip.clearRegs (s : Chip) (lo hi : Nat) : Chip :=
  { s with regs := tabClear s.regs lo hi }

/-! ### Shadows and the staged set (R32, R33, R390) -/

/-- The shadow written since the last commit, if there is one. -/
def Chip.shadowOf (s : Chip) (a : Nat) : Option Word := tabGet (fun _ => none) s.shadow a

/-- The value that the next commit would load. -/
def Chip.shadowVal (s : Chip) (a : Nat) : Word := (s.shadowOf a).getD (s.reg a)

def Chip.setShadow (s : Chip) (a : Nat) (v : Option Word) : Chip :=
  { s with shadow := tabPut (fun _ => none) s.shadow a v }

/-- The staged value of a register, if the staged set holds one. -/
def Chip.stagedOf (s : Chip) (a : Nat) : Option Word := tabGet (fun _ => none) s.staged a

def Chip.setStaged (s : Chip) (a : Nat) (v : Option Word) : Chip :=
  { s with staged := tabPut (fun _ => none) s.staged a v }

/-- The value that register `a` would have once the staged set is loaded. -/
def Chip.nextWord (s : Chip) (a : Nat) : Nat := ((s.stagedOf a).getD (s.reg a)).toNat

/-- The value that a field would have once the staged set is loaded. -/
def Chip.next (s : Chip) (f : Fld) : Nat :=
  bitsOf (if f.lo + f.w ≤ 32 then s.nextWord f.addr
    else s.nextWord f.addr + 2 ^ 32 * s.nextWord (f.addr + 4)) f.lo f.w

/-- Whether the staged set changes this register. -/
def Chip.changes (s : Chip) (a : Nat) : Bool :=
  match s.stagedOf a with
  | some v => v != s.reg a
  | none => false

/-- The staged registers with an address from `lo` up to `hi`. -/
def Chip.stagedIn (s : Chip) (lo hi : Nat) : List Nat :=
  (s.staged.map (·.1)).filter (fun a => decide (lo ≤ a) && decide (a < hi))

/-- The staged set without the registers from `lo` up to `hi`: their values are discarded. -/
def Chip.dropStaged (s : Chip) (lo hi : Nat) : Chip :=
  { s with staged := tabClear s.staged lo hi }

/-- Load the staged registers from `lo` up to `hi` into force and take them out of the staged set. -/
def Chip.loadStaged (s : Chip) (lo hi : Nat) : Chip :=
  ((s.stagedIn lo hi).foldl (fun t a => t.setReg a ((s.stagedOf a).getD (t.reg a))) s).dropStaged lo hi

/-- The device writes a value into a register and, unless the host has written the shadow since the
last commit, into its shadow as well (R129, R283): an unwritten shadow reads the value in force. [log 84: DEDUCED] -/
def Chip.setBoth (s : Chip) (f : Fld) (v : Nat) : Chip := s.set f v

/-! ### Dies -/

def Chip.die (s : Chip) (d : Nat) : DieRec := tabGet (fun _ => {}) s.dies d

def Chip.setDie (s : Chip) (d : Nat) (r : DieRec) : Chip :=
  { s with dies := tabPut (fun _ => {}) s.dies d r }

def Chip.modDie (s : Chip) (d : Nat) (f : DieRec → DieRec) : Chip := s.setDie d (f (s.die d))

/-! ### Retained stores (R315) -/

def Chip.ret (s : Chip) (d : Nat) : RetRec := tabGet (fun _ => {}) s.rets d
def Chip.setRet (s : Chip) (d : Nat) (r : RetRec) : Chip := { s with rets := tabPut (fun _ => {}) s.rets d r }
def Chip.modRet (s : Chip) (d : Nat) (f : RetRec → RetRec) : Chip := s.setRet d (f (s.ret d))

/-- The dies of the package. -/
def Chip.dieList (s : Chip) : List Nat := List.range s.dieCount

/-- DIE_STATUS.SERVICE codes (spec/01_package_and_tick.md, Table 1.10). -/
abbrev svcStarting : Nat := 0
abbrev svcIn : Nat := 1
abbrev svcSidelined : Nat := 2
abbrev svcRejected : Nat := 3
abbrev svcAbsent : Nat := 4

def Chip.service (s : Chip) (d : Nat) : Nat := s.get (DIE_STATUS_SERVICE d)

def Chip.inService (s : Chip) (d : Nat) : Bool :=
  decide (d < s.dieCount) && s.service d == svcIn

/-- The dies in service. -/
def Chip.inServiceDies (s : Chip) : List Nat := s.dieList.filter s.inService

/-- Put die `d` into service state `c`, in its status register and in PKG_DIES.IN_SERVICE. -/
def Chip.setService (s : Chip) (d c : Nat) : Chip :=
  let m := s.get PKG_DIES_IN_SERVICE
  let t := (s.set (DIE_STATUS_SERVICE d) c).set PKG_DIES_IN_SERVICE
    (if c = svcIn then maskSet m d else maskClear m d)
  if d < 2 then t.setB (ETH_STATUS_PRESENT d) (c == svcIn) else t

/-- Die `d` is populated, not rejected and not held in reset: its own machinery runs. -/
def Chip.runs (s : Chip) (d : Nat) : Bool :=
  decide (d < s.dieCount) && !(s.die d).inReset && decide (s.service d ≤ svcSidelined)

/-- The blocks of die `d` are open to accesses: it starts or is in service (R40). -/
def Chip.open (s : Chip) (d : Nat) : Bool :=
  decide (d < s.dieCount) && decide (s.service d ≤ svcIn)

/-- The captain's die, and whether there is one (R16). -/
def Chip.captain (s : Chip) : Nat := s.get PKG_ROLE_CAPTAIN
def Chip.vice (s : Chip) : Nat := s.get PKG_ROLE_VICE
def Chip.hasVice (s : Chip) : Bool := s.on PKG_ROLE_VICE_VALID

/-- Apply `f` for every item of a list, in order. -/
def Chip.each {α : Type} (s : Chip) (l : List α) (f : α → Chip → Chip) : Chip :=
  l.foldl (fun t k => f k t) s

/-! ### The tick grid (R21, R22) -/

/-- The tick period in nanoseconds (Table 1.2). -/
def periodNs (code : Nat) : Nat :=
  match code with
  | 0 => 500 | 1 => 1000 | 2 => 2000 | 3 => 4000 | 4 => 5000 | 5 => 8000 | 6 => 10000 | _ => 16000

def Chip.tickNs (s : Chip) : Nat := periodNs (s.get PKG_TICK_CFG_PERIOD)

/-- The tick number of the most recent boundary. -/
def Chip.tick (s : Chip) : Nat := s.get PKG_TICK_NUM_TICK

/-- The number of the coming boundary: N' in place of N_s (R213). -/
def Chip.nextB (s : Chip) : Nat :=
  match s.time.stepAt with
  | some (ns, n, _, _) => if s.tick + 1 = ns then n else s.tick + 1
  | none => s.tick + 1

/-- The present tick ends in a step: boundary N_s is not placed (R213). -/
def Chip.stepDue (s : Chip) : Bool :=
  match s.time.stepAt with
  | some (ns, _, _, _) => s.tick + 1 == ns
  | none => false

/-- The coming boundary in the numbering that pending actions have at this point of the tick (R215). [log 59: DESIGN CHOICE] -/
def Chip.comingB (s : Chip) : Nat := s.time.jumpTo.getD (s.tick + 1)

/-- The first boundary at least `ns` after the present moment. -/
def Chip.boundaryAfter (s : Chip) (ns : Nat) : Nat := s.tick + ceilDiv (s.moment + ns) s.tickNs

/-- The first boundary at least 20 µs after the present moment. -/
def Chip.boundary20 (s : Chip) : Nat := s.boundaryAfter 20000

/-- How many ticks last at least `ns`. -/
def Chip.ticksOf (s : Chip) (ns : Nat) : Nat := ceilDiv ns s.tickNs

/-- The present command acts `t` nanoseconds after the most recent boundary. -/
def Chip.at (s : Chip) (t : Nat) : Chip := { s with moment := t }

/-! ### Free values -/

/-- A value that the spec does not fix, and the state that has taken it. [log 2: DESIGN CHOICE] -/
def Chip.free (s : Chip) : Nat := Config.freeValue s.freeCnt
/-- See [log 2: DESIGN CHOICE]. -/
def Chip.took (s : Chip) : Chip := { s with freeCnt := s.freeCnt + 1 }

end Sys2Proof.Machine
end

