-- ==== Sys2Proof/Machine/Flags.lean ====
section
/-!
DEFINITION. Machine/Flags.lean: event bits, the MSI-X vectors they make due, the fault log, the four
fault classes and the leases (spec/13_in_service_operation.md, R346 to R348, R360; spec/14_host_port.md, R393 to R396).
-/

namespace Sys2Proof.Machine

/-- Vector `k` is due (R394); one that is due already stays so (coalescing). -/
def Chip.dueVec (s : Chip) (k : Nat) : Chip :=
  if s.due.contains k then s else { s with due := s.due ++ [k] }

/-- Where the assignable vectors lie whose `HOST_VMAP_k_SRC` has been written (R396). -/
def Chip.mappedVectors (s : Chip) : List Nat :=
  (s.regs.filter (fun p => decide (HOST_VMAP_SRC 16 ≤ p.1) && decide (p.1 < HOST_VMAP_SRC 64)
    && p.1 % 8 == 0)).map (fun p => (p.1 - HOST_VMAP_SRC 0) / 8)

/-- The assignable vectors that name bit `b` of the event register at `a` (R396). -/
def Chip.vmapOf (s : Chip) (a b : Nat) : List Nat :=
  s.mappedVectors.filter (fun k => s.on (HOST_VMAP_SRC_EN k) && s.get (HOST_VMAP_SRC_OFFSET k) * 4 == a
    && maskBit (s.get (HOST_VMAP_MASK_MASK k)) b)

/-- The vector of the fault log and of FAULT_EVENTS, when one is named (FAULT_CFG.VEC, R396). -/
def Chip.logVector (s : Chip) : List Nat :=
  let v := s.get FAULT_CFG_VEC
  if 16 ≤ v then [v] else []

/-- The vectors 1 to 7 that bit `b` of the event register at `a` makes due (Table 14.5). -/
def Chip.fixedVectors (s : Chip) (a b : Nat) : List Nat :=
  if a = FAULT_F0_EVENTS then [0]
  else if a = TIME_EVENTS then (if maskBit (s.get TIME_IRQ_EN_EN) b then [1] else [])
  else if a = VOL_EVENTS then (if maskBit (s.get VOL_IRQ_EN_EN) b then [2] else [])
  else if a = IMG_EVENTS then [6]
  else if a = RET_EVENTS then (if b = 1 then [] else [6])
  else if a = SEC_EVENTS then (if maskBit (s.get SEC_IRQ_EN_EN) b then [7] else [])
  else if a = FAULT_EVENTS then (if maskBit (s.get FAULT_IRQ_EN_EN) b then s.logVector else [])
  else if a < 0x1000000 then []
  else
    let d := dieOf a
    let r := relOf a
    if a = EFE_EVENTS d then (if maskBit (s.get (EFE_IRQ_EN_EN d)) b then [4] else [])
    else if a = CAL_EVENTS d then (if maskBit (s.get (CAL_IRQ_EN_EN d)) b then [5] else [])
    else if 0x100000 ≤ r ∧ r < 0x150000 ∧ r % 0x80 = 0x7C ∧ b < 4 then [3]
    else []

/-- Set bit `b` of the event register at `a`; on a change from 0 to 1 its vectors fall due (R394). -/
def Chip.raiseBit (s : Chip) (a b : Nat) : Chip :=
  if maskBit (s.reg a).toNat b then s
  else (s.fixedVectors a b ++ s.vmapOf a b).foldl Chip.dueVec
    (s.setReg a (BitVec.ofNat 32 (maskSet (s.reg a).toNat b)))

/-- Set a one-bit event field. -/
def Chip.raise (s : Chip) (f : Fld) : Chip := s.raiseBit f.addr f.lo

/-- Enter a fault in the log (R347). -/
def Chip.logFault (s : Chip) (src detail : Nat) : Chip :=
  if 512 ≤ s.faultLog.length then (s.bump FAULT_LOG_LOST_COUNT).raise FAULT_EVENTS_LOG_OVERFLOW
  else
    let t := ({ s with faultLog := s.faultLog ++ [(s.tick % 2 ^ 32, src, detail % 2 ^ 24)] } : Chip)
    (if s.faultLog.isEmpty then t.raise FAULT_EVENTS_LOG else t).set FAULT_LOG_STATUS_COUNT (s.faultLog.length + 1)

/-- An F0 fault: its bit, the log, the count and the NMI_N pin (R348). -/
def Chip.raiseF0 (s : Chip) (f : Fld) (src detail : Nat) : Chip :=
  let t := ((s.raise f).logFault src detail).bump (FAULT_CNT_COUNT 0)
  { t with fault := { t.fault with nmi := t.inService 0 || t.inService 1 } }

def Chip.modFault (s : Chip) (f : FaultRec → FaultRec) : Chip := { s with fault := f s.fault }

/-- An F1 fault of die `d`: the log, the counts, vector 8 + d; the die is sidelined (R346, R351), and
DIE_SIDELINE carries the sidelining out.  The first boundary at which its elements hold: the present tick's own for a
lost die (0x16), else the next (R353). -/
def Chip.raiseF1 (s : Chip) (d src : Nat) : Chip :=
  let t := (((s.logFault src d).bump (FAULT_CNT_COUNT 1)).dueVec (8 + d))
  let t := (t.set (FAULT_DIE_CAUSE d) src).bump (FAULT_DIE_F1_CNT d)
  if s.service d = svcStarting ∨ s.service d = svcIn then
    ((t.setService d svcSidelined).modDie d (fun r => { r with sidelineDue := true })).modFault (fun r => { r with
      holdFrom := tabPut (fun _ => 0) r.holdFrom d (s.tick + (if src = 0x16 then 1 else 2)) })
  else t

/-- An F2 fault (R346): the log and the count; the vector is the source's own. -/
def Chip.raiseF2 (s : Chip) (src detail : Nat) : Chip :=
  (s.logFault src detail).bump (FAULT_CNT_COUNT 2)

/-- An F3 fault: the log names the event register (Table 13.2). -/
def Chip.logF3 (s : Chip) (a : Nat) : Chip := (s.logFault 0x30 (a / 4)).bump (FAULT_CNT_COUNT 3)

/-- Set an event bit that a rule names F3. -/
def Chip.raiseF3 (s : Chip) (f : Fld) : Chip := (s.raise f).logF3 f.addr

/-- A library write is discarded (R167). -/
def Chip.libDiscard (s : Chip) (d : Nat) : Chip := (s.raise (LIB_EVENTS_DISCARD d)).bump (LIB_DISCARD_CNT_COUNT d)

/-! ### Leases (R360, Table 13.3) -/

/-- Leases that the captain takes: commit lock, servo, ring master, security session (Table 13.3). -/
def captainLeases : List Nat := [0, 1, 2, 5]

/-- Nanoseconds since reset on the package's own count of ticks. [log 60: DESIGN CHOICE] -/
def Chip.upNs (s : Chip) : Nat := s.upTicks * s.tickNs + s.moment

def Chip.modLease (s : Chip) (k : Nat) (f : Lease → Lease) : Chip :=
  s.modFault (fun r => { r with leases := r.leases.set k (f (r.leases.getD k {})) })

/-- Die `d` takes lease `k`. -/
def Chip.grant (s : Chip) (k d : Nat) : Chip := s.modLease k (fun _ => { held := true, holder := d, renewed := s.upNs })

/-- The holder has stopped using lease `k`, having had no acknowledgement for 45 µs. [log 29: DESIGN CHOICE] -/
def Chip.leaseStopped (s : Chip) (k : Nat) : Bool := (s.fault.leases.getD k {}).stopped

/-- The lease is given back. -/
def Chip.leaseFree (s : Chip) (k : Nat) : Chip := s.modLease k (fun _ => {})

end Sys2Proof.Machine
end

