-- ==== Sys2Proof/Machine/CalRuns.lean ====
section
/-!
DEFINITION. Machine/CalRuns.lean: the runs of the calibration engine: how they are requested and how they
end (spec/10_calibration.md, R274 to R276, R284).
-/

namespace Sys2Proof.Machine

/-- The items of Table 10.1. -/
abbrev calTdc : Nat := 0
abbrev calGain : Nat := 1
abbrev calSkew : Nat := 2
abbrev calLink : Nat := 3
abbrev calDemod : Nat := 4

abbrev calItems : List Nat := [0, 1, 2, 3, 4]

def Chip.cal (s : Chip) (d : Nat) : CalRec := tabGet (fun _ => {}) s.cals d
def Chip.setCal (s : Chip) (d : Nat) (r : CalRec) : Chip := { s with cals := tabPut (fun _ => {}) s.cals d r }
def Chip.modCal (s : Chip) (d : Nat) (f : CalRec → CalRec) : Chip := s.setCal d (f (s.cal d))

/-- MIN_WIN as the engine takes it (Table 10.7). -/
def demodWin (v : Nat) : Nat := max 8 v

/-- Item `k` is running on die `d`. -/
def Chip.calRuns (s : Chip) (d k : Nat) : Bool := s.get (CAL_STATUS_RUNNING d) == k + 1

/-- The values of item `k` are held stale (Table 10.1). -/
def Chip.calStale (s : Chip) (d k : Nat) : Bool := maskBit (s.get (CAL_STATUS_STALE d)) k

def Chip.calPend (s : Chip) (d k : Nat) : Chip :=
  s.set (CAL_STATUS_PENDING d) (maskSet (s.get (CAL_STATUS_PENDING d)) k)

/-- An enabled item becomes pending (R275). -/
def Chip.calWant (s : Chip) (d k : Nat) : Chip :=
  if s.on (CAL_CTRL_EN d) ∧ maskBit (s.get (CAL_CTRL_ITEM_EN d)) k then
    (s.calPend d k).modCal d (fun r => { r with retry := maskClear r.retry k })
  else s

/-- The settling check of DEMOD is still going on (R281). [log 43: DESIGN CHOICE] -/
def Chip.settling (s : Chip) (d : Nat) : Bool :=
  s.ports.any (fun p => p.1 / 16 == d && (p.2.calHold || !p.2.calSpots.isEmpty))

/-- The run in progress is over: nothing is held stale, no slot takes part any more. -/
def Chip.calClose (s : Chip) (d : Nat) : Chip :=
  let s := ((s.set (CAL_STATUS_RUNNING d) 0).set (CAL_STATUS_STALE d) 0).modDie d (fun r => { r with core.meas := {} })
  { s with slots := tabMap (fun _ => {}) (fun k r => if k / 4096 = d then { r with calOk := false, dem := {} } else r) s.slots
           ports := tabMap (fun _ => {}) (fun k r => if k / 16 = d then
             { r with calSpots := [], calHold := false, calCount := 0, spotSince := none } else r) s.ports }

/-- Slots of die `d` whose measurement still goes on and whose loop has left LOCKED, also by a state change or by going inactive:
they are out of the run (R281). -/
def Chip.demodDrop (s : Chip) (d : Nat) : Chip :=
  let m := demodWin (s.get (CAL_DEMOD_CFG_MIN_WIN d))
  { s with slots := tabMap (fun _ => {}) (fun k r =>
      if k / 4096 = d ∧ r.calOk ∧ r.st ≠ 4 ∧ r.dem.n < m then { r with calOk := false } else r) s.slots }

/-- The run of item `k` ends as ABORTED with a cause: 1 HOST, 2 DISABLED, 3 SIDELINED, 4 HOST_VALUE, 5
PORT_LOST (R276). -/
def Chip.calAbort (s : Chip) (d k cause : Nat) : Chip :=
  if s.calRuns d k then
    (((s.calClose d).set (CAL_ITEM_STATUS_RESULT d k) 4).set (CAL_ITEM_STATUS_CAUSE d k) cause).raise (CAL_EVENTS_ABORTED d)
  else s

/-- The run of item `k` ends with result `r`, 2 CAL_DISAGREE or 3 INPUT_UNSUITABLE: it stays pending, and runs again once
MIN_INTERVAL has passed (R274, R284), or at once when it was asked for during the run (R275). -/
def Chip.calFail (s : Chip) (d k r : Nat) : Chip :=
  if s.calRuns d k then
    let asked := maskBit (s.get (CAL_STATUS_PENDING d)) k
    let s := ((s.calClose d).set (CAL_ITEM_STATUS_RESULT d k) r).set (CAL_ITEM_STATUS_CAUSE d k) 0
    let s := s.raise (if r = 2 then CAL_EVENTS_CAL_DISAGREE d else CAL_EVENTS_INPUT_UNSUITABLE d)
    let s := if k = calDemod then s else s.bump (CAL_ITEM_CNT_FAILED d k)
    if asked then s else (s.calPend d k).modCal d (fun c => { c with retry := maskSet c.retry k })
  else s

/-- The core of die `d` has left LOCKED: TDC and GAIN measurements are unsuitable (Table 10.3). -/
def Chip.calUnlocked (s : Chip) (d : Nat) : Chip := (s.calFail d calTdc 3).calFail d calGain 3

/-- An uplink frame of port `p` is invalid or not received: it counts in the measurement of that port (R284). -/
def Chip.calBadFrame (s : Chip) (d p : Nat) : Chip :=
  if s.calRuns d calLink ∧ (s.cal d).port = p then s.modCal d (fun r => { r with portBad := r.portBad + 1 }) else s

/-- Port `p` has left ACTIVE and WARM during its own measurement (R280). -/
def Chip.calPortLost (s : Chip) (d p : Nat) : Chip :=
  if (s.cal d).port = p then s.calAbort d calLink 5 else s

end Sys2Proof.Machine
end

