-- ==== Sys2Proof/Machine/Outputs.lean ====
section
/-!
DEFINITION. Machine/Outputs.lean: the sixteen clock outputs of a die and the CLKOUT monitor pin
(spec/03_clocks_and_crossings.md, R97 to R105).
-/

namespace Sys2Proof.Machine

/-- The sources of a synthesis core: 0 REFA, 1 REFB, 2 XO (R43). -/
abbrev synSources : List Nat := [0, 1, 2]

/-- Nominal frequency in kHz, reference divider and feedback word of source `x` of die `d`, through a
reader of fields (R43, Table 2.11). -/
def srcNom (g : Fld → Nat) (d x : Nat) : Nat :=
  g (if x = 0 then SYN_REFA_CFG_NOM_KHZ d else if x = 1 then SYN_REFB_CFG_NOM_KHZ d else SYN_XO_CFG_NOM_KHZ d)
def srcDiv (g : Fld → Nat) (d x : Nat) : Nat :=
  let v := g (if x = 0 then SYN_REFA_CFG_DIV d else if x = 1 then SYN_REFB_CFG_DIV d else SYN_XO_CFG_DIV d)
  if v = 0 then 1024 else v
def srcFb (d x : Nat) : Fld :=
  if x = 0 then ⟨SYN_FBA d, 0, 62⟩ else if x = 1 then ⟨SYN_FBB d, 0, 62⟩ else ⟨SYN_FBX d, 0, 62⟩

/-- The target of a source is `num / den` kHz (R44). -/
def targetNum (g : Fld → Nat) (d x : Nat) : Nat := srcNom g d x * g (srcFb d x)
def targetDen (g : Fld → Nat) (d x : Nat) : Nat := srcDiv g d x * 2 ^ 48

/-- The enabled sources. -/
def srcEnabled (g : Fld → Nat) (d : Nat) : List Nat :=
  synSources.filter (fun x => maskBit (g (SYN_CTRL_SRC_EN d)) x)

/-- The divider of output `k` is `num / den` (R97). -/
def ckoNum (g : Fld → Nat) (d k : Nat) : Nat := g (CKO_DIV_INT d k) * g (CKO_FRAC_DEN d k) + g (CKO_FRAC_NUM d k)
def ckoDen (g : Fld → Nat) (d k : Nat) : Nat := g (CKO_FRAC_DEN d k)

/-- The largest output frequency of a format in kHz; 0 for a code not used (Table 3.4). -/
def formatMax (code : Nat) : Nat :=
  match code with
  | 0 => 800000 | 1 => 400000 | 2 => 1600000 | 3 => 250000 | 4 => 250000 | _ => 0

/-- An output's cycles per tick are a whole number for the target of source `x` (R100). -/
def ckoWhole (g : Fld → Nat) (ns d k x : Nat) : Bool :=
  decide (ns * targetNum g d x * ckoDen g d k % (1000000 * targetDen g d x * ckoNum g d k) = 0)

/-- R97, R98 and the condition of R100, for the values that `g` reads. -/
def ckoValid (g : Fld → Nat) (ns d k : Nat) : Bool :=
  let i := g (CKO_DIV_INT d k)
  let n := g (CKO_FRAC_NUM d k)
  let m := g (CKO_FRAC_DEN d k)
  let f := g (CKO_CFG_FORMAT d k)
  decide (1 ≤ i) && decide (1 ≤ m) && decide (n < m) && (n == 0 || decide (4 ≤ i))
    && (i != 1 || (n == 0 && f == 2)) && g (CKO_CFG_POLICY d k) != 3
    && decide (g (SYN_FMAX_GUARD_KHZ d) * ckoDen g d k ≤ formatMax f * ckoNum g d k)
    && (g (CKO_CFG_ALIGN d k) == 0 || (srcEnabled g d).all (fun x => ckoWhole g ns d k x))

/-- Table 3.10's output states. -/
abbrev ckoOffSt : Nat := 0
abbrev ckoWait : Nat := 1
abbrev ckoRun : Nat := 2
abbrev ckoByp : Nat := 3
abbrev ckoGated : Nat := 4
abbrev ckoHighZ : Nat := 5

abbrev outputs : List Nat := List.range 16

/-- The idle state of a disabled output (R102). -/
def Chip.ckoIdle (s : Chip) (d k : Nat) : Nat := if s.on (CKO_CFG_IDLE d k) then ckoHighZ else ckoOffSt

def Chip.ckoState (s : Chip) (d k : Nat) : Nat := s.get (CKO_STATUS_STATE d k)

def Chip.setCko (s : Chip) (d k st : Nat) : Chip := s.set (CKO_STATUS_STATE d k) st

/-- The hidden part of output `k` of die `d`. -/
def Chip.cko (s : Chip) (d k : Nat) : CkoRec := tabGet (fun _ => {}) (s.die d).cko k
def Chip.modCko (s : Chip) (d k : Nat) (f : CkoRec → CkoRec) : Chip :=
  s.modDie d (fun r => { r with cko := tabPut (fun _ => {}) r.cko k (f (tabGet (fun _ => {}) r.cko k)) })

/-- The reference source whose target governs the die: the active one, else the last one active, else REF_SEL. -/
def Chip.srcNow (s : Chip) (d : Nat) : Nat :=
  let a := s.get (SYN_STATUS_REF_ACTIVE d)
  if a ≠ 3 then a else if (s.die d).lastSrc < 3 then (s.die d).lastSrc else min 2 (s.get (SYN_CTRL_REF_SEL d))

/-- The feedback word of the die's source with A added: m × 2^48 (R44). -/
def Chip.mWord (s : Chip) (d : Nat) : Int := (s.get (srcFb d (s.srcNow d)) : Int) + s.getI (RAMP_ACC_A d)

/-- A fraction in lowest terms. -/
def reduced (n d : Nat) : Nat × Nat := (n / max 1 (Nat.gcd n d), max 1 (d / max 1 (Nat.gcd n d)))

/-- The period of output `k` as a fraction of a tick, with A as it is (R44, R97). -/
def Chip.ckoPeriod (s : Chip) (d k : Nat) : Nat × Nat :=
  let x := s.srcNow d
  reduced (1000000 * targetDen s.get d x * ckoNum s.get d k)
    (max 1 (s.tickNs * srcNom s.get d x * (s.mWord d).toNat * ckoDen s.get d k))

/-- The rising edges of one tick, and the output at the end of it. -/
def ckoEdges (r : CkoRec) : Nat × CkoRec :=
  let w := r.wait.1 * r.period.2
  let p := max 1 (r.period.1 * r.wait.2)
  let t := r.wait.2 * r.period.2
  let n := if w < t then (t - w - 1) / p + 1 else 0
  (n, { r with wait := reduced (w + n * p - t) t })

/-- Steps in one period of output `k`, rounded down (R99). -/
def Chip.ckoPeriodSteps (s : Chip) (d k : Nat) : Nat :=
  256 * ckoNum s.get d k / max 1 (ckoDen s.get d k)

/-- `v` steps, taken the shorter way round a period of `p` steps. -/
def shorterWay (p : Nat) (v : Int) : Int :=
  let u := v % (max 1 p : Nat)
  if 2 * u > p then u - p else u

/-- The step of the grid nearest to `x / b`; a value exactly halfway rounds up (R99). -/
def nearestStep (x : Int) (b : Nat) : Int := (2 * x + b) / (2 * (max 1 b : Nat))

/-- Steps from the boundary plus φ to the place `h / 2` periods after the first rising edge of output `k` (R99). -/
def Chip.ckoPlace (s : Chip) (d k : Nat) (r : CkoRec) (h : Nat) : Int :=
  let whole := r.wait.2 * r.period.1
  nearestStep ((2 * r.wait.1 * r.period.2 + h * whole) * 256 * ckoNum s.get d k : Nat) (2 * whole * ckoDen s.get d k)

/-- Rising edge `j` of output `k` after a tick boundary and the falling edge that follows it, in steps from that boundary, for
the output's position: φ, plus what it still stands off its aligned position (R99, R100). [log 122: DEDUCED] -/
def Chip.ckoRise (s : Chip) (d k j : Nat) : Int :=
  let r := s.cko d k
  s.getI (CKO_STATUS_PHASE d k) + r.off + s.ckoPlace d k r (2 * j)
def Chip.ckoFall (s : Chip) (d k j : Nat) : Int :=
  let r := s.cko d k
  s.getI (CKO_STATUS_PHASE d k) + r.off + s.ckoPlace d k r (2 * j + 1)

/-- Steps from the boundary plus φ to the first rising edge of output `k`. -/
def Chip.ckoWaitSteps (s : Chip) (d k : Nat) (r : CkoRec) : Int := s.ckoPlace d k r 0

/-- `v` moved toward 0 by at most `n`. -/
def towardZero (v : Int) (n : Nat) : Int := if v < 0 then min 0 (v + n) else max 0 (v - n)

/-- Output `k` goes off SYNTH_CLK in state `st`. -/
def Chip.ckoAway (s : Chip) (d k st : Nat) : Chip := (s.setCko d k st).set (CKO_STATUS_ALIGNED d k) 0

/-- The internal clocks have gone to bypass in `ACQUIRE` (R71), or in `STARTING` or `SURVEY`, where a `FOLLOW` output gates as
well (R103).  An output that has still to start is dealt with when it starts. -/
def Chip.ckoBypass (s : Chip) (d : Nat) (acquire : Bool) : Chip :=
  s.each outputs fun k s =>
    if s.ckoState d k = ckoRun ∧ ¬ (s.cko d k).side then
      let p := s.get (CKO_CFG_POLICY d k)
      if p = 1 then s.ckoAway d k ckoByp
      else if p = 2 ∧ acquire then s.modCko d k (fun r => { r with lost := true })
      else s.ckoAway d k ckoGated
    else s

/-- The internal clocks are back on `SYNTH_CLK`: an output on bypass runs on from it, wherever its edges fall (R103). -/
def Chip.ckoBack (s : Chip) (d : Nat) : Chip :=
  s.each outputs fun k s =>
    if s.ckoState d k = ckoByp then
      let p := s.ckoPeriod d k
      (s.setCko d k ckoRun).modCko d k (fun r => { r with lost := true, period := p, tgt := s.getI (CKO_PHASE_TARGET d k) })
    else s

/-- The core is LOCKED: a gated output restarts at the next boundary, unless it has still to stop (R103). -/
def Chip.ckoReturn (s : Chip) (d : Nat) : Chip :=
  s.each outputs fun k s =>
    if s.ckoState d k = ckoGated ∧ ¬ (s.cko d k).side ∧ (s.cko d k).pend.1 ≠ 2 then
      (s.setCko d k ckoWait).modCko d k (fun r => { r with pend := (1, s.tick + 1) })
    else s

/-- `SYNTH_CLK` supplies output `k`: the internal clocks run from it, the core is in `HOLDOVER`, or the output follows the DCO
of a core in `ACQUIRE` (Table 2.7, R103). -/
def Chip.ckoFed (s : Chip) (d k : Nat) : Bool :=
  let st := s.get (SYN_STATUS_STATE d)
  decide (2 ≤ st) && (!s.on (SYN_STATUS_BYPASS d) || st == 4 || (st == 2 && s.get (CKO_CFG_POLICY d k) == 2))

/-- Output `k` begins to run, already at its aligned position (R102, R103); where nothing feeds it, its policy holds. -/
def Chip.ckoBegin (s : Chip) (d k : Nat) : Chip :=
  let s := s.modCko d k (fun r => { r with pend := (0, 0) })
  if s.ckoFed d k then
    let v := s.getI (CKO_PHASE_TARGET d k)
    let p := s.ckoPeriod d k
    ((s.setCko d k ckoRun).setI (CKO_STATUS_PHASE d k) v).modCko d k
      (fun r => { r with off := 0, lost := false, tgt := v, period := p, wait := (0, 1) })
  else s.ckoAway d k (if s.get (CKO_CFG_POLICY d k) = 1 then ckoByp else ckoGated)

/-- Load the staged values of output `k` at boundary C − 1 (R101, R102). -/
def Chip.ckoLoadOne (s : Chip) (d k : Nat) : Chip :=
  let lo := CKO_CFG d k
  if (s.stagedIn lo (lo + 16)).isEmpty then s
  else if !ckoValid s.next s.tickNs d k then
    (s.dropStaged lo (lo + 16)).raiseBit (CKO_EVENTS d) (16 + k)
  else
    let was := s.on (CKO_CFG_EN d k)
    let fmt := s.get (CKO_CFG_FORMAT d k)
    let t := s.loadStaged lo (lo + 16)
    let t := t.modDie d (fun r => { r with ckoIgnore := maskClear r.ckoIgnore k })
    let due := fun (n : Nat) => t.modCko d k (fun r => { r with pend := (n, s.tick + 1) })
    if !was && t.on (CKO_CFG_EN d k) then (due 1).setCko d k ckoWait
    else if was && !t.on (CKO_CFG_EN d k) then due 2
    else if was && fmt != t.get (CKO_CFG_FORMAT d k) then due 3
    else if was then t
    else t.setCko d k (t.ckoIdle d k)

/-- Load the staged values of every output of die `d`. -/
def Chip.ckoLoad (s : Chip) (d : Nat) : Chip := s.each outputs fun k s => s.ckoLoadOne d k

/-- Output `k` is held to the tick boundaries now (R100). -/
def Chip.ckoHeld (s : Chip) (d k : Nat) : Bool :=
  s.on (CKO_CFG_ALIGN d k) && !maskBit (s.die d).ckoIgnore k && s.get (RAMP_ACC_A d) == 0

/-- The tick that ends at running output `k`: one step of φ, and one toward the aligned position where it stands more than a step
away, with every cycle (R100, R101). -/
def Chip.ckoCycles (s : Chip) (d k : Nat) : Chip :=
  let e := ckoEdges (s.cko d k)
  let p := s.getI (CKO_STATUS_PHASE d k)
  let hold := s.ckoHeld d k
  (s.setI (CKO_STATUS_PHASE d k) (e.2.tgt + towardZero (p - e.2.tgt) e.1)).modCko d k
    (fun _ => if hold && decide (1 < e.2.off.natAbs) then { e.2 with off := towardZero e.2.off e.1 } else e.2)

/-- What waits for this boundary at output `k` (R102). -/
def Chip.ckoDue (s : Chip) (d k : Nat) : Chip :=
  let p := (s.cko d k).pend
  if p.1 = 0 ∨ s.tick < p.2 then s
  else if p.1 = 1 then s.ckoBegin d k
  else if p.1 = 2 then (s.ckoAway d k (s.ckoIdle d k)).modCko d k (fun _ => {})
  else (s.ckoAway d k ckoWait).modCko d k (fun r => { r with pend := (1, s.tick + 1) })

/-- The check of the position of running output `k` at a boundary: within one step it is aligned (R100). A position that the
spec does not state is any number of steps within half a period (notes/assumptions/2.md). [log 2: DESIGN CHOICE] -/
def Chip.ckoCheck (s : Chip) (d k : Nat) : Chip :=
  if !s.ckoHeld d k then
    let ramp := s.get (RAMP_ACC_A d) != 0
    (s.set (CKO_STATUS_ALIGNED d k) 0).modCko d k (fun r => { r with lost := r.lost || ramp })
  else
    let r := s.cko d k
    let p := s.ckoPeriodSteps d k
    let o := shorterWay p (if r.lost then (s.free % (max 1 p) : Nat) else r.off + s.ckoWaitSteps d k r)
    let away := s.on (SYN_STATUS_BYPASS d) && s.get (SYN_STATUS_STATE d) == 2
    let s := (if r.lost then s.took else s).modCko d k (fun r => { r with off := o, lost := away, wait := (0, 1) })
    if o.natAbs ≤ 1 then s.set (CKO_STATUS_ALIGNED d k) 1
    else (s.set (CKO_STATUS_ALIGNED d k) 0).raiseBit (CKO_EVENTS d) k

/-- A tick boundary at output `k`: the cycles of the tick that ends, what waits for the boundary, the alignment check; then the
coming tick moves toward the TARGET in force and divides by the divider in force (R100 to R102). -/
def Chip.ckoTickOne (s : Chip) (d k : Nat) : Chip :=
  if s.cko d k = {} ∧ s.ckoState d k ≠ ckoRun then s
  else
    let s := if s.ckoState d k = ckoRun then s.ckoCycles d k else s
    let s := s.ckoDue d k
    if s.ckoState d k = ckoRun then
      let v := s.getI (CKO_PHASE_TARGET d k)
      let p := s.ckoPeriod d k
      (s.ckoCheck d k).modCko d k (fun r => { r with tgt := v, period := p })
    else s

/-- A tick boundary at the clock outputs of die `d`. -/
def Chip.ckoTick (s : Chip) (d : Nat) : Chip := s.each outputs fun k s => s.ckoTickOne d k

/-- A fold or retune has changed the target: outputs whose cycles per tick are no longer whole lose their
alignment for good (R100). -/
def Chip.ckoRecheck (s : Chip) (d : Nat) : Chip :=
  s.each outputs fun k s =>
    if s.on (CKO_CFG_EN d k) && s.on (CKO_CFG_ALIGN d k) && !ckoWhole s.get s.tickNs d k (s.srcNow d) then
      ((s.modDie d (fun r => { r with ckoIgnore := maskSet r.ckoIgnore k })).set
        (CKO_STATUS_ALIGNED d k) 0).raiseBit (CKO_EVENTS d) k
    else s

/-- The die is sidelined: with its core LOCKED or in HOLDOVER an output with SIDELINE = 1 goes idle for good (R104). -/
def Chip.ckoSideline (s : Chip) (d : Nat) : Chip :=
  if s.get (SYN_STATUS_STATE d) < 3 then s
  else s.each outputs fun k s =>
    if s.on (CKO_CFG_EN d k) && s.on (CKO_CFG_SIDELINE d k) then
      (s.ckoAway d k (s.ckoIdle d k)).modCko d k (fun r => { r with pend := (0, 0), side := true })
    else s

/-- What the output's balls show: its state, high-impedance while the die is in reset or its image is not in force (R104). -/
def Chip.ckoPin (s : Chip) (d k : Nat) : Nat :=
  if (s.die d).inReset || !(s.die d).coreOn then ckoHighZ else s.ckoState d k

/-! ### CLKOUT -/

/-- The nominal frequency in Hz of monitor clock `sel` of die `d`, as a fraction; none for a code not valid there
(Table 3.6). -/
def Chip.monFreq (s : Chip) (d sel : Nat) : Option (Nat × Nat) :=
  let x := s.srcNow d
  let xo := if s.on (CLK_STATUS_XO_FREQ d) then 50000000 else 25000000
  let hz := fun (n : Nat) => some (n, 1)
  if sel = 0 then hz 1500000000
  else if sel = 1 then hz 750000000
  else if sel = 2 then hz 250000000
  else if sel = 3 then hz 400000000
  else if sel = 4 then hz (if s.on (CLK_STATUS_BASE_SRC d) then xo else 100000000)
  else if sel = 5 then hz 375000000
  else if sel = 6 then hz 100000000
  else if sel = 7 then hz xo
  else if sel = 8 ∨ sel = 9 then some (1000 * srcNom s.get d (sel - 8), srcDiv s.get d (sel - 8))
  else if sel = 10 then some (1000 * srcNom s.get d x, srcDiv s.get d x)
  else if sel = 11 then (if d < 2 then hz 156250000 else none)
  else if sel = 12 then (if d < 2 then hz 250000000 else none)
  else if sel = 13 then some (1000000000, s.tickNs)
  else if 16 ≤ sel ∧ sel < 32 then hz 195312500
  else if 32 ≤ sel ∧ sel < 48 then
    some (1000 * targetNum s.get d x * ckoDen s.get d (sel - 32), max 1 (targetDen s.get d x * ckoNum s.get d (sel - 32)))
  else none

/-- The divider of the monitor pin: 0 stands for 65,536 (Table 3.8). -/
def monDiv (v : Nat) : Nat := if v = 0 then 65536 else v

/-- A selection that R105 accepts. -/
def Chip.monOk (s : Chip) (d sel div : Nat) : Bool :=
  match s.monFreq d sel with
  | some f => decide (f.1 ≤ 250000000 * monDiv div * f.2)
  | none => false

/-- A write of CLK_MON_CTRL takes effect (R105). -/
def Chip.clkoutSelect (s : Chip) (d : Nat) (v : Word) : Chip :=
  let en := maskBit v.toNat 31
  if !s.monOk d (bitsOf v.toNat 16 8) (bitsOf v.toNat 0 16) then s.raise (CLK_EVENTS_MON_REFUSED d)
  else
    let t := s.setReg (CLK_MON_CTRL d) (v &&& 0x80FFFFFF)
    let t := if en then t.each (t.dieList.filter (· != d)) fun e u =>
      (u.set (CLK_MON_CTRL_EN e) 0).set (CLK_MON_STATUS_DRIVING e) 0 else t
    t.setB (CLK_MON_STATUS_DRIVING d) en

def execClkoutSelect (d : Fin 8) (v : Word) (s : State) : Host.Outcome State Fault Refusal :=
  s.act fun c => if c.open d then c.clkoutSelect d v else c

/-! ### Domain crossings (R110) -/

/-- The far side of crossing bit `b` of CLK_XING_STATUS goes into reset with `n` items in flight, or is in reset and `n` more
items sent toward it are discarded; a die in reset is no live side. [log 38: DESIGN CHOICE] -/
def Chip.farReset (s : Chip) (d b n : Nat) : Chip :=
  if !s.runs d then s
  else
    let t := if s.on ⟨CLK_XING_STATUS d, b, 1⟩ then s else (s.set ⟨CLK_XING_STATUS d, b, 1⟩ 1).raise (CLK_EVENTS_FAR_RESET d)
    t.bump (CLK_XING_DISCARD_COUNT d) n

/-- The far side comes back: pointers and counters start again. [log 38: DESIGN CHOICE] -/
def Chip.resync (s : Chip) (d b : Nat) : Chip := s.set ⟨CLK_XING_STATUS d, b, 1⟩ 0

/-- The crossings that CLK_XING_STATUS names (Table 3.8). [log 38: DESIGN CHOICE] -/
def crossingBit (b : Nat) : Bool := decide (b < 4) || decide (16 ≤ b)

def execCrossingFarReset (d : Fin 8) (b : Fin 32) (items : Nat) (s : State) :
    Host.Outcome State Fault Refusal :=
  s.act fun c => if crossingBit b ∧ d < c.dieCount then c.farReset d b items else c

def execCrossingResync (d : Fin 8) (b : Fin 32) (s : State) : Host.Outcome State Fault Refusal :=
  s.act fun c => if crossingBit b ∧ d < c.dieCount then c.resync d b else c

end Sys2Proof.Machine
end

