-- ==== Sys2Proof/Machine/Synth.lean ====
section
/-!
DEFINITION. Machine/Synth.lean: the synthesis core of a die: limits and bands, states, lock and loss,
holdover, changeover, retune, phase steps (spec/02_synthesis_core.md, R43 to R72).
-/

namespace Sys2Proof.Machine

/-! ### States (Table 2.3) and the LOCK density (Table 2.5) -/

abbrev synStarting : Nat := 0
abbrev synSurvey : Nat := 1
abbrev synAcquire : Nat := 2
abbrev synLocked : Nat := 3
abbrev synHoldover : Nat := 4

def Chip.syn (s : Chip) (d : Nat) : Nat := s.get (SYN_STATUS_STATE d)
def Chip.bypassed (s : Chip) (d : Nat) : Bool := s.on (SYN_STATUS_BYPASS d)

/-- An Ethernet port at sites 0 and 1 loses its link, as an Ethernet port reset: LINK_DOWN, and its attempts start again with the
first one (R96, R110, R203). -/
def Chip.ethDrop (s : Chip) (j : Nat) : Chip :=
  if j < 2 ∧ s.on (ETH_STATUS_LINK j) then
    let t := ((s.set (ETH_STATUS_LINK j) 0).set (ETH_STATUS_AN_DONE j) 0).raise (ETH_EVENTS_LINK_DOWN j)
    { t with time := { t.time with ethMode := tabPut (fun _ => 0) t.time.ethMode j 0 } }
  else s

/-- The Ethernet transmit PLL has no reference: BASE_CLK from the IOSC and the core neither LOCKED nor in
HOLDOVER (R96). -/
def Chip.ethHeld (s : Chip) (d : Nat) : Bool :=
  !s.on (CLK_STATUS_BASE_SRC d) && s.syn d != synLocked && s.syn d != synHoldover

/-- A port whose PLL has no reference is held with its link down (R96). -/
def Chip.ethCheck (s : Chip) (d : Nat) : Chip :=
  if d < 2 ∧ s.ethHeld d ∧ s.on (ETH_STATUS_LINK d) then (s.ethDrop d).farReset d 1 0 else s

/-- This die's LOCK density, in sixteenths (Table 2.5). -/
def Chip.density (s : Chip) (d : Nat) : Nat :=
  let st := s.syn d
  let win := s.get (SYN_LOCK_CFG_WIN d)
  let rms := s.get (SYN_PHERR_RMS_PS d)
  if st = synLocked then (if rms ≤ 4 * win then 16 else if rms ≤ 8 * win then 15 else 14)
  else if st = synHoldover then 8
  else if st = synAcquire ∧ !s.bypassed d then 8
  else 0

/-- The LOCK pin's density in sixteenths: the lowest of the dies in service, which read 0xF for 15 and for 16; the pin is low in
reset and until the package has started (R62). -/
def Chip.lockPin (s : Chip) : Nat :=
  if s.resetLow || !s.started then 0
  else match s.inServiceDies.map (fun d => s.get (SYN_STATUS_LOCK_DENS d) + s.get (SYN_STATUS_LOCK_FULL d)) with
    | [] => 0
    | a :: r => r.foldl min a

/-- SYN_STATUS shows the density; a GAIN measurement holds it stale (Table 10.1). -/
def Chip.showDensity (s : Chip) (d : Nat) : Chip :=
  let k := s.density d
  if s.calStale d calGain then s
  else (s.set (SYN_STATUS_LOCK_DENS d) (min k 15)).setB (SYN_STATUS_LOCK_FULL d) (k == 16)

/-- The core enters state `st`. -/
def Chip.setSyn (s : Chip) (d st : Nat) : Chip :=
  let s := if st = synLocked then s else s.calUnlocked d
  (((s.set (SYN_STATUS_STATE d) st).modDie d (fun r => { r with
    lockCycles := 0, core := { r.core with lockRun := 0, badRun := 0 } })).showDensity d).ethCheck d

/-- The internal clocks run on BYPASS_CLK: in `STARTING` and `SURVEY` in any case (Table 2.3). -/
def Chip.onBypass (s : Chip) (d : Nat) : Bool := s.bypassed d || decide (s.syn d < synAcquire)

/-- The internal clocks move to BYPASS_CLK (R60). -/
def Chip.toBypass (s : Chip) (d : Nat) : Chip :=
  ((s.set (SYN_STATUS_BYPASS d) 1).modDie d (fun r => { r with bypSeen := true })).showDensity d

/-- The internal clocks return to `SYNTH_CLK`. -/
def Chip.offBypass (s : Chip) (d : Nat) : Chip := ((s.set (SYN_STATUS_BYPASS d) 0).ckoBack d).showDensity d

def Chip.modCore (s : Chip) (d : Nat) (f : CoreRec → CoreRec) : Chip := s.modDie d (fun r => { r with core := f r.core })

/-! ### Limits (R45) -/

/-- The source's input frequency, PFD frequency, target and the loop bandwidth keep their limits. -/
def srcValid (g : Fld → Nat) (ns d x : Nat) : Bool :=
  let nom := srcNom g d x
  let r := srcDiv g d x
  let tn := targetNum g d x
  let td := targetDen g d x
  decide (10000 ≤ nom) && decide (nom ≤ 250000)
    && decide (10000 * r ≤ nom) && decide (nom ≤ 100000 * r)
    && decide ((if ns = 500 then 1490000 else 1400000) * td ≤ tn) && decide (tn ≤ 1600000 * td)
    && decide (g (SYN_LF_CFG_BW d) * 10 * 25 * r ≤ nom)

/-- The codes and ranges of Table 2.11. -/
def synFields (g : Fld → Nat) (d : Nat) : Bool :=
  g (SYN_CTRL_REF_SEL d) != 3 && g (SYN_LF_CFG_ZETA d) != 3
    && decide (5 ≤ g (SYN_LF_CFG_BW d)) && decide (g (SYN_LF_CFG_BW d) ≤ 200)
    && decide (16 ≤ g (SYN_LOCK_CFG_CNT d))
    && decide (2 ≤ g (SYN_LOCK_CFG_WIN d)) && decide (g (SYN_LOCK_CFG_WIN d) ≤ 1024)
    && decide (1 ≤ g (SYN_HO_CFG_RELOCK_TMO d))
    && decide (4 ≤ g (SYN_HO_CFG_AVG d)) && decide (g (SYN_HO_CFG_AVG d) ≤ 20)
    && decide (1400000 ≤ g (SYN_FMAX_GUARD_KHZ d)) && decide (g (SYN_FMAX_GUARD_KHZ d) ≤ 1600000)
    && synSources.all (fun x => decide (10000 ≤ srcNom g d x) && decide (srcNom g d x ≤ 250000))

/-- R45, for the values that `g` reads. -/
def synValid (g : Fld → Nat) (ns d : Nat) : Bool :=
  synFields g d && (srcEnabled g d).all (fun x => srcValid g ns d x)

/-! ### Bands (R51 to R54) -/

def bandLow (e : Nat) : Nat := bitsOf e 16 16
def bandHigh (e : Nat) : Nat := bitsOf e 32 16
def bandGain (e : Nat) : Nat := bitsOf e 48 16
def bandOk (e : Nat) : Bool := maskBit e 15
def bandCap (e : Nat) : Nat := bitsOf e 0 10

def band (g : Fld → Nat) (d k : Nat) : Nat := g ⟨SYN_BAND d k, 0, 64⟩

/-- The valid entries of the band table with their indices, ascending. -/
def bandsOf (g : Fld → Nat) (d : Nat) : List (Nat × Nat) :=
  ((List.range 128).map (fun k => (k, band g d k))).filter (fun p => bandOk p.2)

/-- The DCO frequency of a band field in Hz (Table 2.1). -/
def bandHz (v : Nat) : Nat := 5000000000 + v * 62500

/-- Neighbours ascend and overlap by an eighth of the smaller span. -/
def bandsChain : List (Nat × Nat) → Bool
  | [] => true
  | [a] => decide (bandLow a.2 < bandHigh a.2)
  | a :: b :: r =>
    decide (bandLow a.2 < bandHigh a.2) && decide (bandLow a.2 < bandLow b.2)
      && decide (min (bandHigh a.2 - bandLow a.2) (bandHigh b.2 - bandLow b.2)
          ≤ 8 * (bandHigh a.2 - bandLow b.2))
      && bandsChain (b :: r)

/-- Lowest and highest DCO frequency the table covers, in Hz. -/
def bandsFrom (bs : List (Nat × Nat)) : Nat := bandHz (bandLow ((bs.headD (0, 0)).2))
def bandsTo (bs : List (Nat × Nat)) : Nat := bandHz (bs.foldl (fun m p => max m (bandHigh p.2)) 0)

/-- Bands in ascending order of LOW, each LOW and HIGH, joined where they meet: what the table covers without a gap. -/
def joinBands : List (Nat × Nat) → List (Nat × Nat)
  | [] => []
  | (lo, hi) :: r =>
    match joinBands r with
    | [] => [(lo, hi)]
    | (l, h) :: t => if l ≤ hi then (lo, max hi h) :: t else (lo, hi) :: (l, h) :: t

/-- The spans of DCO frequencies in Hz that the bands cover without a gap. -/
def bandSpans (bs : List (Nat × Nat)) : List (Nat × Nat) :=
  joinBands ((bs.map (fun p => (bandHz (bandLow p.2), bandHz (bandHigh p.2)))).mergeSort (fun a b => decide (a.1 ≤ b.1)))

/-- R52. -/
def bandsValid (g : Fld → Nat) (d : Nat) : Bool :=
  let bs := bandsOf g d
  bandsChain bs && !bs.isEmpty && (srcEnabled g d).all (fun x =>
    -- four times the target, in Hz, is 4000 × num / den
    decide (bandsFrom bs * targetDen g d x * 10000 ≤ 4000 * targetNum g d x * 9999)
      && decide (4000 * targetNum g d x * 10001 ≤ bandsTo bs * targetDen g d x * 10000))

/-- A band contains f_dco = fn / fd Hz with an eighth of its span to spare at each edge. -/
def bandFits (fn fd e : Nat) : Bool :=
  let m := (bandHigh e - bandLow e) * 62500
  decide ((8 * bandHz (bandLow e) + m) * fd ≤ 8 * fn) && decide (8 * fn + m * fd ≤ 8 * bandHz (bandHigh e) * fd)

/-- Distance of f_dco from the band's centre, scaled. -/
def bandDist (fn fd e : Nat) : Nat :=
  let c := (bandHz (bandLow e) + bandHz (bandHigh e)) * fd
  (2 * fn - c) + (c - 2 * fn)

/-- The candidate whose centre is nearest; the lower index on a tie (R53). -/
def chooseBand (g : Fld → Nat) (d x : Nat) : Option (Nat × Nat) :=
  let fn := 4000 * targetNum g d x
  let fd := targetDen g d x
  ((bandsOf g d).filter (fun p => bandFits fn fd p.2)).foldl (fun o p =>
    match o with
    | none => some p
    | some q => if bandDist fn fd p.2 < bandDist fn fd q.2 then some p else o) none

/-- The fine code of f_dco = fn / fd Hz in a band (R53). -/
def fineFor (fn fd e : Nat) : Nat :=
  (clampInt 0 65535 (roundDiv (256 * ((fn : Int) - bandHz (bandLow e) * fd)) (max 1 (bandGain e * fd)))).toNat

/-- The largest fine code of a band that keeps `SYNTH_CLK` at or below fn / fd kHz (R70). -/
def fineLimit (fn fd e : Nat) : Nat := min 65535 (256 * (4000 * fn - bandHz (bandLow e) * fd) / max 1 (bandGain e * fd))

/-- The largest fine code that SYN_FMAX_GUARD allows in a band (R70). -/
def fineGuard (g : Fld → Nat) (d e : Nat) : Nat := fineLimit (g (SYN_FMAX_GUARD_KHZ d)) 1 e

/-- The largest fine code that R70 lets `ACQUIRE` use after a retune or a loss of lock. -/
def fineCap (g : Fld → Nat) (d x e : Nat) : Nat :=
  -- 1.005 × target in kHz is 1005 × num / (1000 × den); the guard is in kHz
  let tn := 1005 * targetNum g d x
  let td := 1000 * targetDen g d x
  let gd := g (SYN_FMAX_GUARD_KHZ d)
  if gd * td ≤ tn then fineLimit gd 1 e else fineLimit tn td e

/-! ### Ramp halt (R63, R69, R76) -/

abbrev rampIdle : Nat := 0
abbrev rampArmed : Nat := 1
abbrev rampRunning : Nat := 2
abbrev rampDone : Nat := 3
abbrev rampAborted : Nat := 4
abbrev rampClamped : Nat := 5

def Chip.ramp (s : Chip) (d : Nat) : Nat := s.get (RAMP_STATUS_STATE d)

/-- A ramp is armed or running. -/
def Chip.rampBusy (s : Chip) (d : Nat) : Bool := s.ramp d == rampArmed || s.ramp d == rampRunning

/-- Stop a ramp with A frozen: 1 HOST, 2 HOLDOVER, 3 RETUNE; one that is only armed too. [log 113: DESIGN CHOICE] -/
def Chip.rampHalt (s : Chip) (d cause : Nat) : Chip :=
  if s.rampBusy d then
    (((s.set (RAMP_STATUS_STATE d) rampAborted).set (RAMP_STATUS_CAUSE d) cause).raise
      (RAMP_EVENTS_ABORTED d)).modDie d (fun r => { r with rampAt := none, rampAbortAt := none })
  else s

/-! ### Choice of a source, acquisition, holdover -/

def Chip.qualified (s : Chip) (d x : Nat) : Bool :=
  maskBit (s.get (SYN_STATUS_QUALIFIED d)) x && maskBit (s.get (SYN_CTRL_SRC_EN d)) x

/-! ### Package time of a die (R199) -/

/-- The increment of die `d`'s package time on every cycle of `SYNTH_CLK`, in ns: 10^9 / (f_nom × (N + (F + A) / 2^48)) of the
active source (R199). -/
def Chip.timeInc (s : Chip) (d : Nat) : Nat × Nat :=
  let x := s.srcNow d
  reduced (10 ^ 6 * srcDiv s.get d x * 2 ^ 48) (max 1 (srcNom s.get d x * (s.mWord d).toNat))

/-- Die `d`'s counter at the present moment, in units of 2^-16 ns: one increment for each whole cycle since it was noted. [log 61:
DESIGN CHOICE] -/
def Chip.clockNow (s : Chip) (d : Nat) : Nat :=
  let i := s.timeInc d
  let k := (s.moment - tabGet (fun _ => 0) s.time.marks d) * i.2 / max 1 i.1
  tabGet (fun _ => 0) s.time.clocks d + k * 65536 * i.1 / max 1 i.2

/-- The counter goes on from here with the increment to come: the active source changes (R199). -/
def Chip.clockMark (s : Chip) (d : Nat) : Chip :=
  let c := tabGet (fun _ => 0) s.time.clocks d
  if c = 0 then s
  else { s with time := { s.time with
    clocks := tabPut (fun _ => 0) s.time.clocks d (s.clockNow d), marks := tabPut (fun _ => 0) s.time.marks d s.moment } }

/-! ### Acquisition -/

/-- The source that the core acquires on (R65). -/
def Chip.pickSource (s : Chip) (d : Nat) : Option Nat :=
  let r := s.get (SYN_CTRL_REF_SEL d)
  if s.qualified d r then some r
  else if s.on (SYN_CTRL_AUTO d) then synSources.find? (fun x => s.qualified d x)
  else none

/-- Enter `ACQUIRE` on source `x` in band `k` with fine code `f` (R53, R69); `cap` after a retune (R70). -/
def Chip.acquireOn (s : Chip) (d x k f : Nat) (cap : Bool) : Chip :=
  let t := (((s.clockMark d).set (SYN_DCO_BAND d) k).set (SYN_DCO_FINE d) f).set (SYN_STATUS_REF_ACTIVE d) x
  let t := t.modCore d (fun r => { r with fine0 := f, integ := 0, filt := 0, fines := [], capped := cap })
  ((t.modDie d (fun r => { r with lastSrc := x, builtOut := false, retuneDue := false })).setSyn d synAcquire).ckoBypass d true

/-- The fine code that R70 leaves of `f` in a band, under 1.005 × target too where `cap`. -/
def Chip.fineKept (s : Chip) (d x e f : Nat) (cap : Bool) : Nat :=
  min f (if cap then fineCap s.get d x e else fineGuard s.get d e)

/-- Acquire on source `x` in a band chosen for its target, on bypass (R53, R69, R70).  Where no band qualifies, the core stays in
`STARTING`; from another state it acquires in the band that it has. [log 99: DESIGN CHOICE] -/
def Chip.acquire (s : Chip) (d x : Nat) (cap : Bool) : Chip :=
  let t := s.toBypass d
  match chooseBand t.get d x with
  | none =>
    let t := t.raise (SYN_EVENTS_BAND_REFUSED d)
    if t.syn d = synStarting then t
    else
      let k := t.get (SYN_DCO_BAND d)
      t.acquireOn d x k (t.fineKept d x (band t.get d k) (t.get (SYN_DCO_FINE d)) cap) cap
  | some (k, e) => t.acquireOn d x k (t.fineKept d x e (fineFor (4000 * targetNum t.get d x) (targetDen t.get d x) e) cap) cap

/-- A survey begins: `STARTING` to `SURVEY`, on BYPASS_CLK (Table 2.4). -/
def Chip.surveyBegin (s : Chip) (d : Nat) : Chip :=
  if s.syn d = synStarting then
    ((((s.toBypass d).set (SYN_STATUS_REF_ACTIVE d) 3).modDie d (fun r => { r with surveyDue := false })).setSyn d
      synSurvey).ckoBypass d false
  else s

/-- Step 1 and 2 of R65 in `STARTING`: acquire when a source can be chosen; a survey asked for comes first. -/
def Chip.tryStart (s : Chip) (d : Nat) : Chip :=
  if s.syn d = synStarting ∧ (s.die d).coreOn then
    if (s.die d).surveyDue then s.surveyBegin d
    else match s.pickSource d with
      | some x => s.acquire d x false
      | none => s
  else s

/-- Runs of equal values, newest first: one more cycle; the first `n` cycles; the rest after them. -/
def pushRun {α : Type} [DecidableEq α] (v : α) (n : Nat) : List (α × Nat) → List (α × Nat)
  | (w, k) :: r => if w = v then (w, k + n) :: r else (v, n) :: (w, k) :: r
  | [] => [(v, n)]
def takeRuns {α : Type} : Nat → List (α × Nat) → List (α × Nat)
  | _, [] => []
  | n, (v, k) :: r => if n = 0 then [] else if k ≤ n then (v, k) :: takeRuns (n - k) r else [(v, n)]
def dropRuns {α : Type} : Nat → List (α × Nat) → List (α × Nat)
  | _, [] => []
  | n, (v, k) :: r => if k ≤ n then dropRuns (n - k) r else (v, k - n) :: r
def runsCount {α : Type} (l : List (α × Nat)) : Nat := l.foldl (fun a p => a + p.2) 0

/-- The mean of the fine codes over 2^AVG reference cycles, the last of them 15 before that of the last edge (R63, Table 2.6), to
the nearest code. [log 108: DEDUCED] -/
def Chip.holdMean (s : Chip) (d : Nat) : Nat :=
  let l := takeRuns (2 ^ s.get (SYN_HO_CFG_AVG d)) (dropRuns 15 (s.die d).core.fines)
  if l.isEmpty then s.get (SYN_DCO_FINE d)
  else (roundDiv (l.foldl (fun a p => a + p.1 * p.2) 0 : Nat) (max 1 (runsCount l))).toNat

/-- Entry to `HOLDOVER` with the frozen fine code `mean`, which SYN_FMAX_GUARD caps (R63, R70). -/
def Chip.enterHoldover (s : Chip) (d mean : Nat) : Chip :=
  let mean := s.fineKept d (s.srcNow d) (band s.get d (s.get (SYN_DCO_BAND d))) mean false
  let t := ((s.rampHalt d 2).raise (SYN_EVENTS_HOLDOVER d)).bump (SYN_LOSS_CNT_HOLDOVER d)
  let t := ((t.set (SYN_DCO_FINE d) mean).set (SYN_STATUS_REF_ACTIVE d) 3).set (SYN_STATUS_REALIGN d) 0
  (t.modDie d (fun r => { r with hoAgreed := false })).setSyn d synHoldover

/-- The measured offset in steps, wrapped into half a PFD period of 256 × m × (1 + D / 2^48) steps and rounded; `m` is m × 2^48
and `dd` is D (R44, R66). -/
def wrapBuildout (m dd off : Int) : Int :=
  let p : Int := max 1 (256 * m * ((2 ^ 48 : Nat) + dd))
  let v := (off * (2 ^ 96 : Nat)) % p
  roundDiv (if 2 * v > p then v - p else v) (2 ^ 96)

/-- The core takes source `x` back after `HOLDOVER`, with the measured phase offset in steps (R66). -/
def Chip.resume (s : Chip) (d x : Nat) (off : Int) : Chip :=
  if (s.die d).retuneDue then s.acquire d x true
  else
    let m := (s.get (srcFb d x) : Int) + s.getI (RAMP_ACC_A d)
    let t := ((s.clockMark d).setI (SYN_BUILDOUT_OFFSET d) (wrapBuildout m (s.getI (SYN_DISC_D d)) off)).set (SYN_STATUS_REF_ACTIVE d) x
    let t := t.modCore d (fun r => { r with fine0 := s.get (SYN_DCO_FINE d), integ := 0, filt := 0, capped := false })
    let t := if x = (s.die d).lastSrc then t else t.raise (SYN_EVENTS_CHANGEOVER d)
    ((t.modDie d (fun r => { r with builtOut := true, lastSrc := x })).offBypass d).setSyn d synAcquire

/-- A changeover from the active source to `x`: one cycle of holdover, then the return (R65).  Without the detection of R59 it
freezes the present fine code. [log 102: DESIGN CHOICE] -/
def Chip.changeover (s : Chip) (d x : Nat) (off : Int) : Chip :=
  (s.enterHoldover d (s.get (SYN_DCO_FINE d))).resume d x off

/-- The first other enabled and qualified source when AUTO = 1 (R65). -/
def Chip.fallback (s : Chip) (d : Nat) : Option Nat :=
  if s.on (SYN_CTRL_AUTO d) then
    synSources.find? (fun x => x != s.get (SYN_STATUS_REF_ACTIVE d) && s.qualified d x)
  else none

def Chip.setQual (s : Chip) (d x : Nat) (b : Bool) : Chip :=
  let m := s.get (SYN_STATUS_QUALIFIED d)
  s.set (SYN_STATUS_QUALIFIED d) (if b then maskSet m x else maskClear m x)

/-- Consecutive good windows of REFA or REFB. -/
def Chip.qualRun (s : Chip) (d x : Nat) : Nat := if x = 0 then (s.die d).qualRunA else (s.die d).qualRunB

def Chip.setQualRun (s : Chip) (d x n : Nat) : Chip :=
  s.modDie d (fun r => if x = 0 then { r with qualRunA := n } else if x = 1 then { r with qualRunB := n } else r)

/-- Loss of reference (R59): the state that Table 2.4 gives, or a changeover where R65 makes one. -/
def Chip.refLost (s : Chip) (d : Nat) (off : Int) : Chip :=
  let x := s.get (SYN_STATUS_REF_ACTIVE d)
  if (s.syn d = synLocked ∨ s.syn d = synAcquire) ∧ x ≠ 3 then
    let t := ((s.setQual d x false).setQualRun d x 0).raiseF3 (SYN_EVENTS_REF_LOST d)
    if t.on (SYN_STATUS_HO_VALID d) then
      let o := t.fallback d
      let t := (t.toBypass d).enterHoldover d (s.holdMean d)
      match o with
      | some y => t.resume d y off
      | none => t
    else
      let t := ((t.toBypass d).setSyn d synStarting).set (SYN_STATUS_REF_ACTIVE d) 3
      ((t.set (SYN_STATUS_REALIGN d) 0).ckoBypass d false).tryStart d
  else s

/-- A source becomes qualified: a waiting core acquires or resumes (R65, R66). -/
def Chip.gainQual (s : Chip) (d x : Nat) (off : Int) : Chip :=
  let t := s.setQual d x true
  if t.syn d = synStarting then t.tryStart d
  else if t.syn d = synHoldover then
    match t.pickSource d with
    | some y => t.resume d y off
    | none => t
  else t

/-- A source loses qualification by a window outside its tolerance or by the XO's failure (R47, R65, R89); the active one leads to
a changeover whether or not SRC_EN still names it. -/
def Chip.loseQual (s : Chip) (d x : Nat) (off : Int) : Chip :=
  let t := (s.setQual d x false).setQualRun d x 0
  if maskBit (s.get (SYN_STATUS_QUALIFIED d)) x && t.get (SYN_STATUS_REF_ACTIVE d) == x
      && (t.syn d == synLocked || t.syn d == synAcquire) then
    match t.fallback d with
    | some y => t.changeover d y off
    | none => t
  else t

/-- The end of a 100 µs qualification window of REFA or REFB: deviation in ppm, none without edges (R47). -/
def Chip.qualWindow (s : Chip) (d x : Nat) (ppm : Option Nat) (off : Int) : Chip :=
  let coarse := !s.on (CLK_STATUS_BASE_SRC d)
  let s := s.setB (SYN_STATUS_QUAL_COARSE d) coarse
  let tol := if coarse then 20000 else s.get (SYN_REF_QUAL_TOL_PPM d)
  let good := match ppm with
    | some v => decide (v ≤ tol)
    | none => false
  if good then
    let n := min 255 (s.qualRun d x + 1)
    let s := s.setQualRun d x n
    if s.get (SYN_REF_QUAL_WINDOWS d) ≤ n ∧ !maskBit (s.get (SYN_STATUS_QUALIFIED d)) x then s.gainQual d x off
    else s
  else s.loseQual d x off

def execRefQualWindow (d : Fin 8) (x : Fin 2) (ppm : Option Nat) (off : Int) (s : State) :
    Host.Outcome State Fault Refusal :=
  s.act fun c => if c.runs d then c.qualWindow d x ppm off else c

/-- REVERT_S seconds of a qualified REF_SEL while another source is active (R65). -/
def Chip.revert (s : Chip) (d : Nat) (off : Int) : Chip :=
  let r := s.get (SYN_CTRL_REF_SEL d)
  if s.on (SYN_CTRL_REVERT d) ∧ s.qualified d r ∧ s.get (SYN_STATUS_REF_ACTIVE d) ≠ r
      ∧ s.get (SYN_STATUS_REF_ACTIVE d) ≠ 3 ∧ (s.syn d = synLocked ∨ s.syn d = synAcquire) then
    s.changeover d r off
  else s

/-- See [log 5: DESIGN CHOICE]. -/
def execRevertTimer (d : Fin 8) (off : Int) (s : State) : Host.Outcome State Fault Refusal :=
  s.act fun c => if c.runs d then c.revert d off else c

/-- The lock criterion is met (R57): `LOCKED`, clocks on `SYNTH_CLK`, and the die in service the first time (R297). A realign
begins here only, with the RETURN of this moment; one that a loss ends is not taken up again. [log 116: DESIGN CHOICE] -/
def Chip.lockDeclared (s : Chip) (d : Nat) : Chip :=
  if s.syn d = synAcquire then
    let t := (((s.setSyn d synLocked).offBypass d).ckoReturn d).modCore d (fun r => { r with capped := false })
    let t := if (s.die d).everLocked then t.raise (SYN_EVENTS_RELOCKED d) else t
    let t := if (s.die d).builtOut ∧ t.on (SYN_CTRL_RETURN d) ∧ t.get (SYN_BUILDOUT_OFFSET d) ≠ 0
      then t.set (SYN_STATUS_REALIGN d) 1 else t
    let t := t.modDie d (fun r => { r with everLocked := true, builtOut := false })
    if t.service d = svcStarting then t.setService d svcIn else t
  else s

/-- Loss of lock (R58). -/
def Chip.lockLost (s : Chip) (d : Nat) : Chip :=
  if s.syn d = synLocked then
    let t := (s.raiseF3 (SYN_EVENTS_LOCK_LOST d)).bump (SYN_LOSS_CNT_LOCK d)
    let t := (t.toBypass d).set (SYN_STATUS_REALIGN d) 0
    let e := band t.get d (t.get (SYN_DCO_BAND d))
    let t := (t.set (SYN_DCO_FINE d) (t.fineKept d (t.srcNow d) e (t.get (SYN_DCO_FINE d)) true)).modCore d
      (fun r => { r with capped := true })
    (t.setSyn d synAcquire).ckoBypass d true
  else s

/-- A 20 µs window of `HOLDOVER` (R64): `agree` when its frequency lies within ±100 ppm of that before the
loss; two in a row bring the clocks back. -/
def Chip.hoWindow (s : Chip) (d : Nat) (agree : Bool) : Chip :=
  if s.syn d = synHoldover ∧ s.bypassed d then
    if agree ∧ (s.die d).hoAgreed then (s.offBypass d).modDie d (fun r => { r with hoAgreed := false })
    else s.modDie d (fun r => { r with hoAgreed := agree })
  else s

def execHoldoverWindow (d : Fin 8) (agree : Bool) (s : State) : Host.Outcome State Fault Refusal :=
  s.act fun c => if c.runs d then c.hoWindow d agree else c

/-- No agreeing pair of windows within 1 ms (R64). -/
def Chip.hoTimeout (s : Chip) (d : Nat) : Chip :=
  if s.syn d = synHoldover ∧ s.bypassed d then s.raiseF1 d 0x12 else s

def execHoldoverClockTimeout (d : Fin 8) (s : State) : Host.Outcome State Fault Refusal :=
  s.act fun c => if c.runs d then c.hoTimeout d else c

/-- No `LOCKED` within RELOCK_TMO (R72). -/
def Chip.relockTimeout (s : Chip) (d : Nat) : Chip :=
  if s.syn d = synAcquire then (s.raise (SYN_EVENTS_RELOCK_TIMEOUT d)).raiseF1 d 0x11 else s

/-- See [log 5: DESIGN CHOICE]. -/
def execRelockTimeout (d : Fin 8) (s : State) : Host.Outcome State Fault Refusal :=
  s.act fun c => if c.runs d then c.relockTimeout d else c

/-- The neighbour of band `k` among the valid ones: below or above. -/
def bandBelow (bs : List (Nat × Nat)) (k : Nat) : Option (Nat × Nat) :=
  (bs.filter (fun p => decide (p.1 < k))).getLast?
def bandAbove (bs : List (Nat × Nat)) (k : Nat) : Option (Nat × Nat) := bs.find? (fun p => decide (k < p.1))

/-- The hop from band `k` with fine code `fine`: the adjacent valid band in the direction of travel, its entry, and the fine code
there for the present frequency (R54); none where there is no such band. -/
def hopTo (g : Fld → Nat) (d k fine : Nat) : Option (Nat × Nat × Nat) :=
  let e := band g d k
  let bs := bandsOf g d
  match if fine < 4096 then bandBelow bs k else bandAbove bs k with
  | some (j, e') =>
    -- the present frequency is bandHz LOW + fine × GAIN / 256
    some (j, e', min (fineFor (256 * bandHz (bandLow e) + fine * bandGain e) 256 e') (fineGuard g d e'))
  | none => none

/-- The core stands in a new band with fine code `f`, and the loop filter starts again from it (R54). [log 108: DEDUCED] -/
def CoreRec.rebase (r : CoreRec) (f : Nat) : CoreRec := { r with fine0 := f, integ := 0, filt := 0 }

/-- A hop of a locked loop whose fine code has left 4,096 to 61,439 (R54); true when a band was changed.  At the edge of the table
the code is clamped, under SYN_FMAX_GUARD too (R70). -/
def Chip.bandHop (s : Chip) (d fine : Nat) : Chip × Bool :=
  if s.syn d = synLocked ∧ (fine < 4096 ∨ 61439 < fine) then
    match hopTo s.get d (s.get (SYN_DCO_BAND d)) fine with
    | some (j, _, f) =>
      let s := s.calFail d calGain 3
      (((s.set (SYN_DCO_BAND d) j).set (SYN_DCO_FINE d) f).modCore d (fun r => r.rebase f), true)
    | none =>
      let e := band s.get d (s.get (SYN_DCO_BAND d))
      ((s.set (SYN_DCO_FINE d) (min (min fine 65535) (fineGuard s.get d e))).raise (SYN_EVENTS_BAND_EDGE d), false)
  else (s, false)

/-- The realign ends (R67). -/
def Chip.realignEnd (s : Chip) (d : Nat) : Chip :=
  if s.on (SYN_STATUS_REALIGN d) then (s.set (SYN_BUILDOUT_OFFSET d) 0).set (SYN_STATUS_REALIGN d) 0 else s

def execRealignEnd (d : Fin 8) (s : State) : Host.Outcome State Fault Refusal :=
  s.act fun c => if c.runs d then c.realignEnd d else c

/-! ### Band survey (R55) -/

/-- A write of SYN_SURVEY.START: on a core in `STARTING` the survey begins; on a sidelined die in another state it waits until the
core is in `STARTING`, the one state from which Table 2.4 leads to `SURVEY` (R55, R56). [log 37: DESIGN CHOICE] -/
def Chip.surveyStart (s : Chip) (d : Nat) : Chip :=
  if s.syn d = synStarting then s.surveyBegin d
  else if s.service d = svcSidelined then
    (if s.syn d = synSurvey then s else s.modDie d (fun r => { r with surveyDue := true }))
  else s.raise (SYN_EVENTS_SURVEY_REFUSED d)

def execSurveyStart (d : Fin 8) (s : State) : Host.Outcome State Fault Refusal :=
  s.act fun c => if c.runs d then c.surveyStart d else c

/-- The entry of band `k` from its two measured frequencies in units of 62.5 kHz above 5 GHz (Table 2.1);
none for a band that did not measure monotonically. -/
def surveyEntry (k : Nat) (m : Option (Nat × Nat)) : Nat :=
  match m with
  | some (lo, hi) =>
    (8 * k) + 2 ^ 15 + 2 ^ 16 * (lo % 65536) + 2 ^ 32 * (hi % 65536)
      + 2 ^ 48 * (min 65535 (roundDiv (((hi : Int) - lo) * 16000000) 65535).toNat)
  | none => 0

/-- The survey completes with its measurements (R55). -/
def Chip.surveyDone (s : Chip) (d : Nat) (ms : List (Option (Nat × Nat))) : Chip :=
  if s.syn d = synSurvey then
    let t := s.each (List.range 128) fun k t => t.set ⟨SYN_BAND d k, 0, 64⟩ (surveyEntry k (ms.getD k none))
    ((((t.set (SYN_STATUS_BAND_SRC d) 1).raise (SYN_EVENTS_SURVEY_DONE d)).setSyn d synStarting).tryStart d)
  else s

def execSurveyDone (d : Fin 8) (ms : List (Option (Nat × Nat))) (s : State) :
    Host.Outcome State Fault Refusal :=
  s.act fun c => if c.runs d then c.surveyDone d ms else c

/-! ### Phase steps (R68) -/

/-- A cause of refusal holds on die `d`. -/
def Chip.pstepBusy (s : Chip) (d : Nat) : Bool :=
  s.get (SYN_PSTEP_PEND_PEND d) != 0 || s.on (SYN_STATUS_REALIGN d) || s.syn d != synLocked

/-- A write of SYN_PSTEP on die `d`.  A package request is refused as a whole where one die in service must refuse it; a request of
no steps is accepted and makes none. [log 103: DESIGN CHOICE; 115: DESIGN CHOICE] -/
def Chip.pstep (s : Chip) (d : Nat) (v : Word) : Chip :=
  let ds := if maskBit v.toNat 16 then [d] else s.inServiceDies
  if s.on PKG_TICK_CFG_GRID_NET ∨ s.pstepBusy d ∨ ds.any s.pstepBusy then s.raise (SYN_EVENTS_PSTEP_REFUSED d)
  else if v.toNat % 65536 = 0 then s
  else s.each ds fun e t =>
    (t.setI (SYN_PSTEP_PEND_PEND e) (signedOf 16 v.toNat)).modDie e
      (fun r => { r with pstepAt := some s.boundary20, pstepOn := false })

def execPstepRequest (d : Fin 8) (v : Word) (t : Nat) (s : State) : Host.Outcome State Fault Refusal :=
  s.act fun c => if c.open d then (c.at t).pstep d v else c

/-- The first reference cycle after the start boundary: stepping begins. -/
def Chip.pstepBegin (s : Chip) (d : Nat) : Chip :=
  match (s.die d).pstepAt with
  | some b => if b ≤ s.tick then s.modDie d (fun r => { r with pstepAt := none, pstepOn := true }) else s
  | none => s

def execPstepBegin (d : Fin 8) (s : State) : Host.Outcome State Fault Refusal :=
  s.act fun c => if c.runs d then c.pstepBegin d else c

/-- Make up to `n` steps: one per reference cycle. -/
def Chip.pstepMove (s : Chip) (d n : Nat) : Chip :=
  if (s.die d).pstepOn then
    let p := s.getI (SYN_PSTEP_PEND_PEND d)
    let q := towardZero p n
    let t := (s.setI (SYN_PSTEP_PEND_PEND d) q).setI (SYN_PHASE_ACC_ACC d) (s.getI (SYN_PHASE_ACC_ACC d) + (p - q))
    if q = 0 then t.modDie d (fun r => { r with pstepOn := false }) else t
  else s

/-- The last requested step is made. -/
def execPhaseStepDone (d : Fin 8) (s : State) : Host.Outcome State Fault Refusal :=
  s.act fun c => if c.runs d then c.pstepMove d (2 ^ 16) else c

/-! ### Committed changes (R45, R46, R49, R52, R69) -/

/-- The SYN registers of die `d` outside the band table, and the band table. -/
def synLo (d : Nat) : Nat := dieBase d + 0x10000
def synBandLo (d : Nat) : Nat := dieBase d + 0x10400
def synBandHi (d : Nat) : Nat := dieBase d + 0x10800

/-- A retune to source `x`, loaded at C − 1 (R69); SYN_BUILDOUT stays as it is. [log 117: DESIGN CHOICE] -/
def Chip.retune (s : Chip) (d x : Nat) : Chip :=
  let s := (s.rampHalt d 3).set (RAMP_ACC_A d) 0
  if s.syn d = synHoldover then s.modDie d (fun r => { r with retuneDue := true })
  else if s.syn d = synLocked ∨ s.syn d = synAcquire then
    (s.set (SYN_STATUS_REALIGN d) 0).acquire d x true
  else s.tryStart d

/-- A commanded changeover (R46, R65): to a qualified source at once; to another one the core goes over when AUTO and REVERT or a
return bring it there. [log 100: DESIGN CHOICE] -/
def Chip.commanded (s : Chip) (d x : Nat) (off : Int) : Chip :=
  if !s.qualified d x then s
  else if s.syn d = synHoldover then s.resume d x off
  else s.changeover d x off

/-- Discard staged SYN values that break R45. -/
def Chip.synCheck (s : Chip) (d : Nat) : Chip :=
  if (s.stagedIn (synLo d) (synBandHi d)).isEmpty || synValid s.next s.tickNs d then s
  else (s.dropStaged (synLo d) (synBandHi d)).raise (SYN_EVENTS_CFG_REFUSED d)

/-- Discard a staged band table that breaks R52. -/
def Chip.bandCheck (s : Chip) (d : Nat) : Chip :=
  if (s.stagedIn (synBandLo d) (synBandHi d)).isEmpty || bandsValid s.next d then s
  else (s.dropStaged (synBandLo d) (synBandHi d)).raise (SYN_EVENTS_BAND_REFUSED d)

/-- The loaded seed of the modulator's dither (R49). -/
def Chip.loadSeed (s : Chip) (d : Nat) (staged : Bool) : Chip :=
  if staged then
    let v := s.get (SYN_DITHER_SEED d)
    let t := s.modCore d (fun r => { r with lfsr := if v = 0 then 1 else v })
    if v = 0 then t.raise (SYN_EVENTS_SEED_ZERO d) else t
  else s

/-- Two targets lie within 10 ppm of each other. -/
def nearTargets (g : Fld → Nat) (d x y : Nat) : Bool :=
  let a : Nat := targetNum g d x * targetDen g d y
  let b : Nat := targetNum g d y * targetDen g d x
  decide (((b - a) + (a - b)) * 100000 ≤ a)

/-- A code that is not driven by the loop keeps below a SYN_FMAX_GUARD that a commit lowers (R70). -/
def Chip.capFrozen (s : Chip) (d : Nat) : Chip :=
  s.set (SYN_DCO_FINE d) (s.fineKept d (s.srcNow d) (band s.get d (s.get (SYN_DCO_BAND d))) (s.get (SYN_DCO_FINE d)) false)

/-- Load the staged SYN values of die `d`: silent change, changeover or retune (R46).  In `STARTING` and `SURVEY` no source is
active, and a new REF_SEL alone can be a retune. -/
def Chip.synLoad (s : Chip) (d : Nat) (off : Int) : Chip :=
  let s := (s.synCheck d).bandCheck d
  let chg := (s.stagedIn (synLo d) (synBandHi d)).filter s.changes
  let act := s.srcNow d
  let ctrl := fun (t : Chip) => ([SYN_CTRL_SRC_EN d, SYN_CTRL_RETURN d, SYN_CTRL_REVERT d, SYN_CTRL_AUTO d].map t.get)
  let sel := s.get (SYN_CTRL_REF_SEL d)
  let was := ctrl s
  let old := [srcNom s.get d act, srcDiv s.get d act, s.get (srcFb d act)]
  let capNow := bandCap (band s.get d (s.get (SYN_DCO_BAND d)))
  let seeded := (s.stagedOf (SYN_DITHER d)).isSome
  -- host gains end a GAIN run and the blend of their band (R276, R283)
  let gains := (s.stagedIn (synBandLo d) (synBandHi d)).filter (fun a => a % 8 == 4)
  let s := if gains.isEmpty then s else s.calAbort d calGain 4
  let s := match (s.cal d).gain with
    | some g => if gains.contains (SYN_BAND d g.1 + 4) then s.modCal d (fun r => { r with gain := none }) else s
    | none => s
  let t := (s.loadStaged (synLo d) (synBandHi d)).loadSeed d seeded
  let t := if (s.stagedIn (synBandLo d) (synBandHi d)).isEmpty then t else t.set (SYN_STATUS_BAND_SRC d) 0
  let sel' := t.get (SYN_CTRL_REF_SEL d)
  let moved := [srcNom t.get d act, srcDiv t.get d act, t.get (srcFb d act)] != old
  let capMoved := bandCap (band t.get d (t.get (SYN_DCO_BAND d))) != capNow
  let t := t.capFrozen d
  let idle := decide (t.syn d < synAcquire)
  if sel' ≠ sel then
    (if !(chg == [SYN_CTRL d] && ctrl t == was && nearTargets t.get d sel sel') then t.retune d (min 2 sel')
    else if idle then t.tryStart d else t.commanded d sel' off)
  else if idle then t.tryStart d
  else if moved || capMoved then t.retune d act
  else t

/-! ### One tick of the core -/

/-- One step of the 31-bit LFSR x^31 + x^28 + 1 (R49). -/
def lfsr31 (x : Nat) : Nat :=
  let b := (x / 2 ^ 30 + x / 2 ^ 27) % 2
  2 * x % 2 ^ 31 + b

def iter {α : Type} (f : α → α) : Nat → α → α
  | 0, x => x
  | n + 1, x => iter f n (f x)

/-- One reference cycle of the third-order modulator of cascaded first-order stages (MASH 1-1-1): its input is the fraction of
F + A with the dither bit, the top bit of the LFSR (R49). [log 108: DEDUCED] -/
def CoreRec.modulate (r : CoreRec) (word : Nat) (dither : Bool) : CoreRec :=
  let a1 := r.acc1 + word % 2 ^ 48 + (if dither then r.lfsr / 2 ^ 30 % 2 else 0)
  let a2 := r.acc2 + a1 % 2 ^ 48
  let a3 := r.acc3 + a2 % 2 ^ 48
  let c1 := a1 / 2 ^ 48
  let c2 := a2 / 2 ^ 48
  let c3 := a3 / 2 ^ 48
  { r with
    lfsr := lfsr31 r.lfsr, acc1 := a1 % 2 ^ 48, acc2 := a2 % 2 ^ 48, acc3 := a3 % 2 ^ 48, carry2 := c2, carry3 := (c3, r.carry3.1)
    ratio := (word / 2 ^ 48 + c1 + c2 + c3 + r.carry3.2 : Nat) - (r.carry2 + 2 * r.carry3.1 : Nat) }

/-- What the loop filter of a die computes with in a tick: kp and ki in 10^-6 Hz per ps and a of the third pole, each a fraction
(R50). [log 108: DEDUCED] -/
structure LoopGains where
  kp : Nat × Nat
  ki : Nat × Nat
  pole : Option (Nat × Nat)

/-- Damping in thousandths (Table 2.11). -/
def zetaMilli (v : Nat) : Nat := if v = 0 then 707 else if v = 1 then 1000 else 1400

/-- The gains of a closed loop of natural frequency BW and damping ζ, whose phase error e at `SYNTH_CLK` moves by y / f_dco in each
unit of time: kp = 2 ζ ω f_dco, ki = ω² f_dco / f_pfd with ω = 2π BW and f_dco four times the target; a = 2π f_p / f_pfd (R50).
[log 108: DEDUCED] -/
def Chip.loopGains (s : Chip) (d : Nat) : LoopGains :=
  let x := s.srcNow d
  let bw := 10000 * s.get (SYN_LF_CFG_BW d)
  let fn := 4000 * targetNum s.get d x
  let fd := targetDen s.get d x
  let pn := 1000 * srcNom s.get d x
  let pd := srcDiv s.get d x
  { kp := (4 * piE14 * zetaMilli (s.get (SYN_LF_CFG_ZETA d)) * bw * fn, 10 ^ 23 * fd)
    ki := (4 * piE14 * piE14 * bw * bw * fn * pd, 10 ^ 34 * fd * max 1 pn)
    pole := if s.on (SYN_LF_CFG_POLE3 d) then
      some (2 * piE14 * 2 ^ (2 + s.get (SYN_LF_CFG_POLE3_MULT d)) * bw * pd, 10 ^ 14 * max 1 pn) else none }

def mulFrac (v : Int) (f : Nat × Nat) : Int := roundDiv (v * f.1) f.2

/-- One reference cycle of the loop filter: i, u and y (R50). -/
def CoreRec.filter (r : CoreRec) (p : LoopGains) (e : Int) : CoreRec :=
  let i := r.integ + mulFrac e p.ki
  let u := mulFrac e p.kp + i
  { r with integ := i, filt := match p.pole with
    | some a => r.filt + mulFrac (u - r.filt) a
    | none => u }

/-- The fine code of the loop filter in band entry `e`: fine_0 + y / g within the code's range (R50). -/
def CoreRec.fineCode (r : CoreRec) (e : Nat) : Nat :=
  (clampInt 0 65535 (r.fine0 + roundDiv (256 * r.filt) (max 1 (1000000 * bandGain e)))).toNat

/-- Delays of the first `n` taps in force, in 2^-8 ps (R48, Table 10.9). -/
def Chip.tapSum (s : Chip) (d n : Nat) : Nat :=
  let t := s.regs.filter (fun p => decide (CAL_TDC_TAP d 0 ≤ p.1) && decide (p.1 < CAL_TDC_TAP d 64))
  ((List.range (min 64 n)).map (fun i => (tabGet (fun _ => 2816#32) t (CAL_TDC_TAP d i)).toNat % 65536)).sum

/-- The phase error in units of 1 ps of a reading of the TDC: coarse count and taps, less the build-out (R48, R66). [log 108:
DEDUCED] -/
def Chip.phaseErr (s : Chip) (d : Nat) (off : Int) (m : Sys2Proof.TdcReading) : Int :=
  let x := s.srcNow d
  let tn := max 1 (targetNum s.get d x)
  -- a period of SYNTH_CLK is 10^9 × den / num ps
  roundDiv ((256 * m.coarse - off) * (10 ^ 9 * targetDen s.get d x : Nat) + (s.tapSum d m.tap * tn : Nat)) (256 * tn)

/-- A core on its way through the reference cycles of a tick: its record, its band and fine code, its build-out, cycles in
`LOCKED`; it has hopped; it has met the edge of its bands; what the last cycle declared (0 nothing, 1 lock, 2 loss of lock). -/
structure CoreRun where
  loop : CoreRec
  band : Nat
  fine : Nat
  off : Int
  locked : Nat
  hopped : Bool := false
  edge : Bool := false
  event : Nat := 0

/-- The runs of R57 and R58 after a cycle with phase error `e`. -/
def CoreRec.judge (r : CoreRec) (win : Nat) (e : Int) : CoreRec :=
  { r with
    lockRun := if e.natAbs ≤ win then r.lockRun + 1 else 0
    badRun := if 4 * win < e.natAbs then r.badRun + 1 else 0 }

/-- What the criteria of R57 and R58 declare after a cycle, `out` with a coarse count outside its range. -/
def Chip.coreEvent (s : Chip) (d : Nat) (r : CoreRec) (out : Bool) : Nat :=
  if s.syn d = synAcquire then (if s.get (SYN_LOCK_CFG_CNT d) ≤ r.lockRun then 1 else 0)
  else if s.syn d = synLocked ∧ (4 ≤ r.badRun ∨ out) then 2
  else 0

/-- The feedback word of the die's source with `a` added: the modulator's input of a cycle (R49). -/
def Chip.modWord (s : Chip) (d : Nat) (a : Int) : Nat := ((s.get (srcFb d (s.srcNow d)) : Int) + a).toNat

/-- One more at place `i`. -/
def countAt (l : List Nat) (i : Nat) : List Nat := l.set i (l.getD i 0 + 1)

/-- The probe of a GAIN measurement in its present cycle: +PROBE and −PROBE fine-code LSBs, alternating every 64 reference cycles
(R278). -/
def CoreMeas.offset (m : CoreMeas) : Int :=
  if m.item ≠ calGain + 1 then 0 else if m.n / 64 % 2 = 0 then m.probe else -m.probe

/-- A TDC or GAIN measurement takes one reference cycle of a locked core with phase error `e` at tap `tap`, predicted fine phase
`bin` / 64 of a cycle and loop fine code `f`.  Around the probe change at cycle 64 k, k = 1 to 4,096, the slope of e over the four
cycles before and after it gives (e(+4) − 2 e(0) + e(−4)) / 4, and the loop's own code the same sums; each change counts with its
sign (R277, R278). [log 127: DESIGN CHOICE] -/
def CoreMeas.take (m : CoreMeas) (tap bin : Nat) (e f : Int) : CoreMeas :=
  if m.item = calTdc + 1 ∧ m.n < 2 ^ 20 then
    { m with n := m.n + 1, hits := countAt m.hits tap, bins := countAt m.bins bin }
  else if m.item = calGain + 1 ∧ m.n < 64 * 4096 + 5 then
    let j := m.n % 64
    let k := if 60 ≤ j then m.n / 64 + 1 else m.n / 64
    let sg : Int := if k = 0 ∨ 4096 < k then 0 else if k % 2 = 0 then 1 else -1
    { m with
      n := m.n + 1
      slopes := m.slopes + (if j = 60 ∨ j = 4 then sg * e else if j = 0 then -(2 * sg * e) else 0)
      loops := m.loops + (if 60 ≤ j then -(sg * f) else if j < 4 then sg * f else 0) }
  else m

/-- One reference cycle of a core in `ACQUIRE` or `LOCKED`; `a` is A in it, `m` what the TDC reads, none for a phase error of zero
(R48 to R50, R54, R57, R58, R63, R67, R70, R277, R278). -/
def Chip.coreCycle (s : Chip) (d : Nat) (p : LoopGains) (c : CoreRun) (a : Int) (m : Option Sys2Proof.TdcReading) : CoreRun :=
  let e := match m with
    | some v => s.phaseErr d c.off v
    | none => 0
  let k := band s.get d c.band
  let r := ((c.loop.modulate (s.modWord d a) (s.on (SYN_DITHER_ENABLE d))).filter p e).judge (s.get (SYN_LOCK_CFG_WIN d)) e
  let own := s.fineKept d (s.srcNow d) k (r.fineCode k) r.capped
  let f := s.fineKept d (s.srcNow d) k ((own : Int) + r.meas.offset).toNat r.capped
  let r := { r with
    meas := if s.syn d = synLocked then
        r.meas.take ((m.map (fun v => v.tap.val)).getD 0) (r.acc1 * 64 / 2 ^ 48) e own else r.meas
    errs := takeRuns 4096 (pushRun e 1 r.errs), fines := takeRuns (2 ^ 20 + 16) (pushRun f 1 r.fines), used := r.used + 1 }
  let c := { c with
    loop := r, fine := f, off := if s.on (SYN_STATUS_REALIGN d) then towardZero c.off 1 else c.off
    locked := if s.syn d = synLocked then c.locked + 1 else c.locked, event := s.coreEvent d r ((m.map (·.out)).getD false) }
  if s.syn d = synLocked ∧ (f < 4096 ∨ 61439 < f) then
    match hopTo s.get d c.band f with
    | some (j, _, g) => { c with loop := r.rebase g, band := j, fine := g, hopped := true }
    | none => { c with edge := true }
  else c

/-- Reference cycles, each with A and its reading, up to the first that declares something; the cycles after it. -/
def Chip.coreSpan (s : Chip) (d : Nat) (p : LoopGains) (c : CoreRun) :
    List (Int × Option Sys2Proof.TdcReading) → CoreRun × List (Int × Option Sys2Proof.TdcReading)
  | [] => (c, [])
  | x :: r =>
    let c := s.coreCycle d p c x.1 x.2
    if c.event = 0 then s.coreSpan d p c r else (c, r)

/-- The largest number below 2^k whose square is at most `n`, added to `r`. -/
def isqrtBits : Nat → Nat → Nat → Nat
  | 0, _, r => r
  | k + 1, n, r => isqrtBits k n (if (r + 2 ^ k) * (r + 2 ^ k) ≤ n then r + 2 ^ k else r)

/-- SYN_PHERR over the last 4,096 reference cycles: RMS in 1/16 ps, rounded down, and the largest |e|; a GAIN measurement holds it
stale (Table 10.1). [log 108: DEDUCED] -/
def Chip.showPherr (s : Chip) (d : Nat) : Chip :=
  let l := (s.die d).core.errs
  if s.calStale d calGain ∨ l.isEmpty then s
  else
    let sq := l.foldl (fun a p => a + p.1.natAbs * p.1.natAbs * p.2) 0
    (s.set (SYN_PHERR_RMS_PS d) (min 65535 (isqrtBits 24 (256 * sq / max 1 (runsCount l)) 0))).set (SYN_PHERR_PEAK_PS d)
      (min 65535 (l.foldl (fun a p => max a p.1.natAbs) 0))

/-- A in the `k` cycles in which it moves from `a` by `inc` each. -/
def accsFrom (a inc : Int) : Nat → List Int
  | 0 => []
  | k + 1 => (a + inc) :: accsFrom (a + inc) inc k

/-- A in the reference cycles of the present tick up to the `n`-th: as a ramp has moved it, then as it stands (R49, R73).
[log 108: DEDUCED] -/
def Chip.rampAccs (s : Chip) (d n : Nat) : List Int :=
  let l := (s.die d).rampTrace.flatMap (fun t => accsFrom t.1 t.2.1 t.2.2)
  (l ++ List.replicate (n - l.length) (s.getI (RAMP_ACC_A d))).take n

/-- The reference cycles of the present tick up to the `n`-th that the core has not gone through, each with A and its reading; `tdc`
reads the first cycles of the tick, the others have no phase error. [log 36: DESIGN CHOICE] -/
def Chip.coreCycles (s : Chip) (d n : Nat) (tdc : List Sys2Proof.TdcReading) : List (Int × Option Sys2Proof.TdcReading) :=
  ((s.rampAccs d n).zip (tdc.map some ++ List.replicate (n - tdc.length) none)).drop (s.die d).core.used

/-- The core as it sets out on reference cycles. -/
def Chip.coreStart (s : Chip) (d : Nat) : CoreRun :=
  { loop := (s.die d).core, band := s.get (SYN_DCO_BAND d), fine := s.get (SYN_DCO_FINE d), off := s.getI (SYN_BUILDOUT_OFFSET d)
    locked := (s.die d).lockCycles }

/-- The registers and the record of die `d` after the cycles that `c` has gone through; 2^AVG cycles in `LOCKED` establish a
holdover value, and HO_VALID stays until the die is reset (R63). [log 101: DESIGN CHOICE] -/
def Chip.coreStore (s : Chip) (d : Nat) (c : CoreRun) : Chip :=
  let s := if c.edge then s.raise (SYN_EVENTS_BAND_EDGE d) else s
  let s := ((s.set (SYN_DCO_BAND d) c.band).set (SYN_DCO_FINE d) c.fine).setI (SYN_BUILDOUT_OFFSET d) c.off
  let s := if c.off = 0 then s.set (SYN_STATUS_REALIGN d) 0 else s
  let s := if 2 ^ s.get (SYN_HO_CFG_AVG d) ≤ c.locked then s.set (SYN_STATUS_HO_VALID d) 1 else s
  let s := s.modDie d (fun r => { r with core := c.loop, lockCycles := c.locked })
  (if c.hopped then s.calFail d calGain 3 else s).showPherr d

/-- The modulator alone goes through reference cycles (R49). -/
def Chip.coreIdle (s : Chip) (d : Nat) (l : List (Int × Option Sys2Proof.TdcReading)) : Chip :=
  s.modCore d (fun r =>
    let q := l.foldl (fun q x => q.modulate (s.modWord d x.1) (s.on (SYN_DITHER_ENABLE d))) r
    { q with used := q.used + l.length })

/-- The reference cycles `l` at the core of die `d`: in `ACQUIRE` and `LOCKED` the loop runs, and a declaration of lock or of its
loss takes effect, by `locked` and `lost`, before the cycles after it; `k` bounds the spans between declarations. -/
def Chip.coreRun (locked lost : Chip → Chip) (d : Nat) : Nat → List (Int × Option Sys2Proof.TdcReading) → Chip → Chip
  | 0, _, s => s
  | k + 1, l, s =>
    if l.isEmpty then s
    else if s.syn d = synAcquire ∨ s.syn d = synLocked then
      let x := s.coreSpan d (s.loopGains d) (s.coreStart d) l
      let s := s.coreStore d x.1
      if x.1.event = 1 then Chip.coreRun locked lost d k x.2 (locked s)
      else if x.1.event = 2 then Chip.coreRun locked lost d k x.2 (lost s)
      else s
    else s.coreIdle d l

/-- The effective divider m × (1 + D / 2^48) of the die's source, as SYN_FB_EFF reads (R44). -/
def Chip.fbEff (s : Chip) (d : Nat) : Nat :=
  (s.mWord d + s.mWord d * s.getI (SYN_DISC_D d) / (2 ^ 48 : Nat)).toNat % 2 ^ 62

/-- The core keeps |D| at or below ⌊10^-4 × 2^48⌋ (R44). -/
abbrev discMax : Int := 28147497671

/-- The core of die `d` takes a value of D; in `HOLDOVER` it holds the one it has (R44, R63). -/
def Chip.loadD (s : Chip) (d : Nat) (v : Int) : Chip :=
  if s.syn d = synHoldover then s else s.setI (SYN_DISC_D d) (clampInt (-discMax) discMax v)

end Sys2Proof.Machine
end

