-- ==== Sys2Proof/Machine/Ramp.lean ====
section
/-!
DEFINITION. Machine/Ramp.lean: the ramp generator (spec/02_synthesis_core.md, R73 to R79).
-/

namespace Sys2Proof.Machine

/-! ### The trajectory check (R74, R75) -/

def segInc (g : Fld → Nat) (d p i : Nat) : Int := signedOf 48 (g (RAMP_SEG_INC_INC d p i))
def segDur (g : Fld → Nat) (d p i : Nat) : Nat := g (RAMP_SEG_DUR_DUR d p i)

/-- The segments of profile `p` before its end: (increment, duration) (R73). -/
def profSegs (g : Fld → Nat) (d p : Nat) : List (Int × Nat) :=
  ((List.range 16).map (fun i => (segInc g d p i, segDur g d p i))).takeWhile (fun x => x.2 != 0)

/-- The net change of one pass. -/
def segsNet (l : List (Int × Nat)) : Int := l.foldl (fun a x => a + x.1 * x.2) 0

/-- A point of the trajectory: A, and the size of the change of increment there. -/
abbrev RampPoint := Int × Nat

/-- The points of one pass from `a` after increment `prev`, with the last increment and A at its end. -/
def segPoints : List (Int × Nat) → Int → Int → List RampPoint × Int × Int
  | [], a, prev => ([], a, prev)
  | (i, n) :: r, a, prev =>
    let q := segPoints r (a + i * n) i
    ((a, (i - prev).natAbs) :: q.1, q.2.1, q.2.2)

/-- The points of the whole trajectory of profile `p`, chains and loops included; none for a repetition
without end that has a net change.  `seen` holds the profiles already chained through with A at their
start; `fuel` bounds the chain at the sixteen profiles. -/
def rampPoints (g : Fld → Nat) (d : Nat) : Nat → List (Nat × Int) → Nat → Int → Int → Option (List RampPoint)
  | 0, _, _, _, _ => none
  | fuel + 1, seen, p, a, prev =>
    match seen.find? (fun q => q.1 == p) with
    | some q => if a = q.2 then some [(a, (((profSegs g d p).headD (0, 0)).1 - prev).natAbs)] else none
    | none =>
      let segs := profSegs g d p
      let one := segPoints segs a prev
      let fin := g (RAMP_PROF_CTRL_END d p)
      if fin = 1 then
        match rampPoints g d fuel ((p, a) :: seen) (g (RAMP_PROF_CTRL_NEXT d p)) one.2.1 one.2.2 with
        | some l => some (one.1 ++ l)
        | none => none
      else if fin = 2 then
        let k := g (RAMP_PROF_CTRL_COUNT d p)
        let net := segsNet segs
        if k = 0 ∧ net ≠ 0 then none
        else
          let again := segPoints segs (a + net * k) one.2.2
          some (one.1 ++ again.1 ++ [(again.2.1, again.2.2.natAbs)])
      else some (one.1 ++ [(one.2.1, one.2.2.natAbs)])

/-- The frequency at a point is `num / den` Hz; the bound of R75 in the same unit, rounded up. -/
def pointNum (g : Fld → Nat) (d x : Nat) (a : Int) : Int := srcNom g d x * 1000 * ((g (srcFb d x) : Int) + a)
def pointDev (g : Fld → Nat) (d x inc : Nat) : Nat :=
  ceilDiv (inc * (srcNom g d x * 1000) ^ 2 * 10 ^ 14)
    (max 1 (srcDiv g d x * 2 * piE14 * (g (SYN_LF_CFG_BW d) * 10000)))

/-- One point keeps the limits of R74 with D at ±100 ppm, within one span of DCO frequencies that the band table covers. -/
def pointOk (g : Fld → Nat) (ns d x : Nat) (sp : Nat × Nat) (p : RampPoint) : Bool :=
  let den : Int := targetDen g d x
  let dev : Int := pointDev g d x p.2
  let hi := (pointNum g d x p.1 + dev) * 10001
  let lo := (pointNum g d x p.1 - dev) * 9999
  decide ((if ns = 500 then 1490000000 else 1400000000) * den * 10000 ≤ lo)
    && decide (hi ≤ g (SYN_FMAX_GUARD_KHZ d) * 1000 * den * 10000)
    && decide (sp.1 * den * 10000 ≤ 4 * lo) && decide (4 * hi ≤ sp.2 * den * 10000)

/-- The start of profile `p` passes every check of R74 on die `d`.  The trajectory is one path: it leaves the coverage of the band
table unless all of it lies in one span that the table covers without a gap. -/
def Chip.rampOk (s : Chip) (d p : Nat) : Bool :=
  s.syn d == synLocked && !s.rampBusy d && s.on (RAMP_CTRL_ENABLE d) &&
    match rampPoints s.get d 17 [] p (s.getI (RAMP_ACC_A d)) 0 with
    | some l => (bandSpans (bandsOf s.get d)).any (fun sp => l.all (pointOk s.get s.tickNs d (s.srcNow d) sp))
    | none => false

/-! ### RAMP_CTRL (R74, R76, R79) -/

/-- The dies that a write of RAMP_CTRL on die `d` addresses. -/
def Chip.rampScope (s : Chip) (d : Nat) : List Nat := if s.on (RAMP_CTRL_SCOPE d) then s.inServiceDies else [d]

/-- Arm profile `p` on die `d` for boundary `b`: until the ramp begins SEGMENT, LOOPS_LEFT, CAUSE and ABORT_LATE read 0, and
RAMP_SEG_LEFT as the last ramp left it. [log 105: DESIGN CHOICE] -/
def Chip.rampArm (s : Chip) (d p b : Nat) : Chip :=
  ((s.calFail d calGain 3).setReg (RAMP_STATUS d) (BitVec.ofNat 32 (rampArmed * 256 + p))).modDie d
    (fun r => { r with rampAt := some b, rampAbortAt := none })

/-- The boundary `b` is a permitted start: at least 20 µs ahead. -/
def Chip.ahead20 (s : Chip) (b : Nat) : Bool := decide (s.boundary20 ≤ b)

def Chip.rampStart (s : Chip) (d : Nat) : Chip :=
  let p := s.get (RAMP_CTRL_PROFILE d)
  let ds := s.rampScope d
  let b := if s.on (RAMP_CTRL_AT_TICK d) then s.get (RAMP_START_TICK_TICK d) else s.boundary20
  if s.ahead20 b && s.rampOk d p && ds.all (fun e => s.rampOk e p) then s.each ds fun e t => t.rampArm e p b
  else s.each (if ds.contains d then ds else d :: ds) fun e t => t.raise (RAMP_EVENTS_REFUSED e)

/-- The limit that the frequency with A = `a` and the present D breaks (R77): 0 none, 4 BAND_GAP, 5 GUARD, 6 LOW_LIMIT. -/
def Chip.rampLimit (s : Chip) (d : Nat) (a : Int) : Nat :=
  let x := s.srcNow d
  let den : Int := targetDen s.get d x * 2 ^ 48
  let f := pointNum s.get d x a * ((2 ^ 48 : Nat) + s.getI (SYN_DISC_D d))
  if s.get (SYN_FMAX_GUARD_KHZ d) * 1000 * den < f then 5
  else if f < (if s.tickNs = 500 then 1490000000 else 1400000000) * den then 6
  else if (bandsOf s.get d).any (fun p => decide (bandHz (bandLow p.2) * den ≤ 4 * f) && decide (4 * f ≤ bandHz (bandHigh p.2) * den))
    then 0
  else 4

/-- How many of `k` reference cycles A moves by `inc` before it meets a limit. -/
def Chip.rampSearch (s : Chip) (d : Nat) (a inc : Int) : Nat → Nat
  | 0 => 0
  | k + 1 => if s.rampLimit d (a + inc) = 0 then s.rampSearch d (a + inc) inc k + 1 else 0

/-- The same; where the first and the last of the cycles lie in one span without a gap, so do those between them. -/
def Chip.rampFree (s : Chip) (d : Nat) (a inc : Int) (k : Nat) : Nat :=
  let x := s.srcNow d
  let den : Int := targetDen s.get d x * 2 ^ 48
  let f := fun (v : Int) => 4 * pointNum s.get d x v * ((2 ^ 48 : Nat) + s.getI (SYN_DISC_D d))
  let inside := fun (sp : Nat × Nat) (v : Int) => decide (sp.1 * den ≤ f v) && decide (f v ≤ sp.2 * den)
  if s.rampLimit d (a + inc) = 0 ∧ s.rampLimit d (a + inc * k) = 0
      ∧ (bandSpans (bandsOf s.get d)).any (fun sp => inside sp (a + inc) && inside sp (a + inc * k)) then k
  else s.rampSearch d a inc k

/-- The increment of the present segment. -/
def Chip.rampInc (s : Chip) (d : Nat) : Int := segInc s.get d (s.get (RAMP_STATUS_PROFILE d)) (s.get (RAMP_STATUS_SEGMENT d))

/-- A freezes at a limit (R77). -/
def Chip.rampFreeze (s : Chip) (d cause : Nat) : Chip :=
  ((s.set (RAMP_STATUS_STATE d) rampClamped).set (RAMP_STATUS_CAUSE d) cause).raise (RAMP_EVENTS_CLAMPED d)

/-- A moves up to reference cycle `c` of the tick, within the segment and up to a limit that D would carry it past (R77). -/
def Chip.rampMove (s : Chip) (d c : Nat) : Chip :=
  if s.ramp d = rampRunning then
    let inc := s.rampInc d
    let a := s.getI (RAMP_ACC_A d)
    let left := s.get (RAMP_SEG_LEFT_CYCLES d)
    let k := min (c - (s.die d).rampUsed) left
    let j := s.rampFree d a inc k
    let t := ((s.setI (RAMP_ACC_A d) (a + inc * j)).set (RAMP_SEG_LEFT_CYCLES d) (left - j)).modDie d (fun r => { r with
      rampUsed := max c r.rampUsed, rampTrace := r.rampTrace ++ [(a, inc, j)] })
    if j < k then t.rampFreeze d (s.rampLimit d (a + inc * (j + 1 : Nat))) else t
  else s

/-- The passes that profile `p` has still to repeat when it starts: COUNT of a LOOP, else none. -/
def Chip.loopPasses (s : Chip) (d p : Nat) : Nat := if s.get (RAMP_PROF_CTRL_END d p) = 2 then s.get (RAMP_PROF_CTRL_COUNT d p) else 0

/-- The ramp takes up segment `i` of profile `p`. -/
def Chip.rampEnter (s : Chip) (d p i : Nat) : Chip :=
  ((s.set (RAMP_STATUS_PROFILE d) p).set (RAMP_STATUS_SEGMENT d) i).set (RAMP_SEG_LEFT_CYCLES d) (segDur s.get d p i)

/-- The end of profile `p`: STOP, CHAIN or LOOP; a chained or repeated profile whose segment 0 has
duration 0 ends at once in its turn (`fuel` bounds that).  END = 3 ends as STOP. [log 104: DESIGN CHOICE] -/
def Chip.rampProfEnd (s : Chip) (d : Nat) : Nat → Chip
  | 0 => (s.set (RAMP_STATUS_STATE d) rampDone).raise (RAMP_EVENTS_DONE d)
  | fuel + 1 =>
    let p := s.get (RAMP_STATUS_PROFILE d)
    let done := (s.set (RAMP_STATUS_STATE d) rampDone).raise (RAMP_EVENTS_DONE d)
    let fin := s.get (RAMP_PROF_CTRL_END d p)
    let go := fun (t : Chip) (q : Nat) => if segDur t.get d q 0 = 0 then t.rampProfEnd d fuel else t
    if fin = 1 then
      let q := s.get (RAMP_PROF_CTRL_NEXT d p)
      go ((s.rampEnter d q 0).set (RAMP_STATUS_LOOPS_LEFT d) (s.loopPasses d q)) q
    else if fin = 2 then
      if s.get (RAMP_PROF_CTRL_COUNT d p) = 0 then go (s.rampEnter d p 0) p
      else if s.get (RAMP_STATUS_LOOPS_LEFT d) = 0 then done
      else go ((s.rampEnter d p 0).set (RAMP_STATUS_LOOPS_LEFT d) (s.get (RAMP_STATUS_LOOPS_LEFT d) - 1)) p
    else done

/-- The segment's duration has expired (R73). -/
def Chip.rampNext (s : Chip) (d : Nat) : Chip :=
  let p := s.get (RAMP_STATUS_PROFILE d)
  let i := s.get (RAMP_STATUS_SEGMENT d)
  if i < 15 ∧ segDur s.get d p (i + 1) ≠ 0 then s.rampEnter d p (i + 1) else s.rampProfEnd d 32

/-- A running ramp whose segment has no cycle left takes up what follows. -/
def Chip.rampAdvance (s : Chip) (d : Nat) : Chip :=
  if s.ramp d = rampRunning ∧ s.get (RAMP_SEG_LEFT_CYCLES d) = 0 then s.rampNext d else s

/-- The ramp goes on to reference cycle `c` of the tick, through at most `k` ends of segments; it takes up what follows a segment
on the next reference cycle (R73). -/
def Chip.rampGo (d c : Nat) : Nat → Chip → Chip
  | 0, s => s.rampMove d c
  | k + 1, s =>
    let left := s.get (RAMP_SEG_LEFT_CYCLES d)
    let used := (s.die d).rampUsed
    if s.ramp d = rampRunning ∧ used + left < c then Chip.rampGo d c k ((s.rampMove d (used + left)).rampAdvance d)
    else s.rampMove d c

/-- The end of the present segment is the natural end of the ramp: the last segment of a profile that ends as STOP, or of the
last pass of one that ends as LOOP (R73). -/
def Chip.rampLast (s : Chip) (d : Nat) : Bool :=
  let p := s.get (RAMP_STATUS_PROFILE d)
  let i := s.get (RAMP_STATUS_SEGMENT d)
  let fin := s.get (RAMP_PROF_CTRL_END d p)
  (i == 15 || segDur s.get d p (i + 1) == 0)
    && fin != 1 && (fin != 2 || (s.get (RAMP_PROF_CTRL_COUNT d p) != 0 && s.get (RAMP_STATUS_LOOPS_LEFT d) == 0))

/-- An abort at cycle `c` of the present tick; at the natural end the ramp completes (R76). -/
def Chip.rampAbortAt (s : Chip) (d c : Nat) : Chip :=
  if s.ramp d = rampRunning then
    let t := Chip.rampGo d c c s
    if t.ramp d = rampRunning ∧ t.get (RAMP_SEG_LEFT_CYCLES d) = 0 ∧ t.rampLast d then
      (((t.set (RAMP_STATUS_STATE d) rampDone).set (RAMP_STATUS_ABORT_LATE d) 1).raise
        (RAMP_EVENTS_DONE d)).modDie d (fun r => { r with rampAt := none, rampAbortAt := none })
    else t.rampHalt d 1
  else s.rampHalt d 1

/-- A write of RAMP_CTRL.ABORT: this die at once, the package at the next boundary. -/
def Chip.rampAbort (s : Chip) (d c : Nat) : Chip :=
  if s.on (RAMP_CTRL_SCOPE d) then
    s.each s.inServiceDies fun e t => t.modDie e (fun r => { r with rampAbortAt := some (t.tick + 1) })
  else s.rampAbortAt d c

/-- The feedback word of the active source with A added (R79). -/
def Chip.foldedWord (s : Chip) (d : Nat) : Int := s.mWord d

/-- The folded word keeps R45. -/
def Chip.foldOk (s : Chip) (d : Nat) : Bool :=
  let w := s.foldedWord d
  let x := s.srcNow d
  decide (0 ≤ w) && srcValid (fun f => if f = srcFb d x then w.toNat else s.get f) s.tickNs d x

/-- A fold is asked for (R79); see `rampTick`.  It is this die's own, whatever SCOPE says. [log 106: DESIGN CHOICE] -/
def Chip.rampFold (s : Chip) (d : Nat) : Chip :=
  if s.rampBusy d || !s.foldOk d then s.raise (RAMP_EVENTS_REFUSED d)
  else s.modDie d (fun r => { r with rampFoldAt := some (s.tick + 1) })

/-- A write of RAMP_CTRL at cycle `c` of the present tick (R74, R76, R79). [log 17: DESIGN CHOICE] -/
def Chip.writeRampCtrl (s : Chip) (d : Nat) (v : Word) (c : Nat) : Chip :=
  let b := fun i => maskBit v.toNat i
  if (b 30 && b 29) || (b 30 && b 28) || (b 29 && b 28) then s.raise (RAMP_EVENTS_REFUSED d)
  else
    let s := s.setReg (RAMP_CTRL d) (v &&& 0x8003000F)
    let s := if b 31 then s else s.rampAbort d c
    if b 30 then s.rampStart d else if b 29 then s.rampAbort d c else if b 28 then s.rampFold d else s

def execRampStart (d : Fin 8) (v : Word) (t c : Nat) (s : State) : Host.Outcome State Fault Refusal :=
  s.act fun x => if x.open d ∧ maskBit v.toNat 30 then (x.at t).writeRampCtrl d v c else x

def execRampAbort (d : Fin 8) (v : Word) (t c : Nat) (s : State) : Host.Outcome State Fault Refusal :=
  s.act fun x => if x.open d ∧ maskBit v.toNat 29 then (x.at t).writeRampCtrl d v c else x

def execRampDisable (d : Fin 8) (v : Word) (t c : Nat) (s : State) : Host.Outcome State Fault Refusal :=
  s.act fun x => if x.open d ∧ ¬ maskBit v.toNat 31 then (x.at t).writeRampCtrl d v c else x

def execRampFold (d : Fin 8) (v : Word) (t c : Nat) (s : State) : Host.Outcome State Fault Refusal :=
  s.act fun x => if x.open d ∧ maskBit v.toNat 28 then (x.at t).writeRampCtrl d v c else x

/-! ### Running (R73, R77) -/

/-- The armed ramp begins on the first reference cycle after its boundary (R74). -/
def Chip.rampBegin (s : Chip) (d : Nat) : Chip :=
  match (s.die d).rampAt with
  | some b =>
    if s.ramp d = rampArmed ∧ b ≤ s.tick then
      let p := s.get (RAMP_STATUS_PROFILE d)
      let t := ((s.set (RAMP_STATUS_STATE d) rampRunning).rampEnter d p 0).set (RAMP_STATUS_LOOPS_LEFT d) (s.loopPasses d p)
      let t := t.modDie d (fun r => { r with rampAt := none, rampUsed := 0 })
      if segDur t.get d p 0 = 0 then t.rampProfEnd d 32 else t
    else s
  | none => s

def execRampBegin (d : Fin 8) (s : State) : Host.Outcome State Fault Refusal :=
  s.act fun x => if x.runs d then x.rampBegin d else x

/-- The segment ends at cycle `c` of the present tick. -/
def Chip.rampSegmentEnd (s : Chip) (d c : Nat) : Chip :=
  if s.ramp d = rampRunning then
    let t := s.rampMove d ((s.die d).rampUsed + s.get (RAMP_SEG_LEFT_CYCLES d))
    (t.modDie d (fun r => { r with rampUsed := c })).rampAdvance d
  else s

def execRampSegmentEnd (d : Fin 8) (c : Nat) (s : State) : Host.Outcome State Fault Refusal :=
  s.act fun x => if x.runs d then x.rampSegmentEnd d c else x

/-- D carries the ramp past a limit at cycle `c`: 4 BAND_GAP, 5 GUARD, 6 LOW_LIMIT; A freezes when the next cycle breaks it
(R77). -/
def Chip.rampClamp (s : Chip) (d c cause : Nat) : Chip :=
  let t := Chip.rampGo d c c s
  if t.ramp d = rampRunning ∧ t.rampLimit d (t.getI (RAMP_ACC_A d) + t.rampInc d) = cause then t.rampFreeze d cause else t

def execRampClamp (d : Fin 8) (c : Nat) (cause : Fin 3) (s : State) : Host.Outcome State Fault Refusal :=
  s.act fun x => if x.runs d then x.rampClamp d c (cause.val + 4) else x

/-- The `n` reference cycles of a tick: A follows the segments (R73).  Loss of lock does not stop it. [log 114: DESIGN CHOICE] -/
def Chip.rampRun (s : Chip) (d n : Nat) : Chip := (Chip.rampGo d n n s).rampAdvance d

/-- The boundary that ends a tick: package aborts and folds take effect (R76, R79). -/
def Chip.rampTick (s : Chip) (d : Nat) : Chip :=
  let s := s.modDie d (fun r => { r with rampUsed := 0, rampTrace := [], core := { r.core with used := 0 } })
  let s := match (s.die d).rampAbortAt with
    | some b => if b ≤ s.tick then (s.modDie d (fun r => { r with rampAbortAt := none })).rampAbortAt d 0 else s
    | none => s
  match (s.die d).rampFoldAt with
  | some b =>
    if b ≤ s.tick then
      let x := s.srcNow d
      let w := s.foldedWord d
      let lo := (srcFb d x).addr
      -- the shadow that software has written moves by A as well
      let sh := unsignedOf 62 ((s.shadowVal lo).toNat + 2 ^ 32 * (s.shadowVal (lo + 4)).toNat + s.getI (RAMP_ACC_A d))
      let wrote := (s.shadowOf lo).isSome || (s.shadowOf (lo + 4)).isSome
      let t := s.modDie d (fun r => { r with rampFoldAt := none })
      let t := (t.setI (srcFb d x) w).set (RAMP_ACC_A d) 0
      let t := if wrote then
        (t.setShadow lo (some (BitVec.ofNat 32 sh))).setShadow (lo + 4) (some (BitVec.ofNat 32 (sh / 2 ^ 32))) else t
      t.ckoRecheck d
    else s
  | none => s

/-! ### Writes to the profile tables (R78) -/

/-- The profiles that profile `p` can reach by chaining, itself included. -/
def profReach (g : Fld → Nat) (d : Nat) : Nat → Nat → List Nat
  | 0, p => [p]
  | fuel + 1, p => if g (RAMP_PROF_CTRL_END d p) = 1 then p :: profReach g d fuel (g (RAMP_PROF_CTRL_NEXT d p)) else [p]

/-- The profile that a register at offset `r` of the RAMP block belongs to. -/
def profOf (r : Nat) : Option Nat :=
  if 0x20 ≤ r ∧ r < 0x60 then some ((r - 0x20) / 4)
  else if 0x400 ≤ r ∧ r < 0x1400 then some ((r - 0x400) / 0x100)
  else none

/-- A write to profile `p` is discarded now. -/
def Chip.profBusy (s : Chip) (d p : Nat) : Bool :=
  s.rampBusy d && (profReach s.get d 16 (s.get (RAMP_STATUS_PROFILE d))).contains p

end Sys2Proof.Machine
end

