-- ==== Sys2Proof/Machine/Clocks.lean ====
section
/-!
DEFINITION. Machine/Clocks.lean: the base clock of a die: stability judge, oscillator failures, backup PLL
(spec/03_clocks_and_crossings.md, R84 to R96).
-/

namespace Sys2Proof.Machine

/-- CLK_STATUS.JUDGE codes (Table 3.8). -/
abbrev judgeDetect : Nat := 0
abbrev judgeCounting : Nat := 1
abbrev judgeStable : Nat := 2
abbrev judgeTimeout : Nat := 3
abbrev judgeFailed : Nat := 4

/-- While the judge has timed out or the XO has failed, JUDGE says so until the XO is stable again, also while it detects and
counts anew. [log 118: DESIGN CHOICE] -/
def Chip.showJudge (s : Chip) (d c : Nat) : Chip := if (s.die d).xoBroke then s else s.set (CLK_STATUS_JUDGE d) c

/-- BASE_CLK changes source: the Ethernet reference with it, which takes the link down; the qualification of REFA and REFB is
coarse or fine (R47, R96). -/
def Chip.setBase (s : Chip) (d : Nat) (xo : Bool) : Chip :=
  let t := (s.setB (CLK_STATUS_BASE_SRC d) xo).setB (SYN_STATUS_QUAL_COARSE d) !xo
  if s.on (CLK_STATUS_BASE_SRC d) = xo then t
  else if d < 2 ∧ t.on (ETH_STATUS_LINK d) then (t.ethDrop d).farReset d 1 0
  else t

/-- The XO is judged stable: first time, or again after a failure or a timeout (R86, R91). -/
def Chip.xoStable (s : Chip) (d : Nat) (off : Int) : Chip :=
  let broke := (s.die d).xoBroke
  let t := (s.set (CLK_STATUS_XO_STABLE d) 1).raise (CLK_EVENTS_XO_STABLE d)
  let t := (t.set (CLK_STATUS_XO_FAIL d) 0).modDie d (fun r => { r with xoBroke := false, xoEverStable := true })
  let t := t.set (CLK_STATUS_JUDGE d) judgeStable
  if !broke then (t.setBase d true).gainQual d 2 off
  else if t.on (CLK_FAIL_POLICY_XO_RETURN d) then
    (((t.setBase d true).raise (CLK_EVENTS_XO_RETURNED d)).set (CLK_STATUS_BPLL_LOCK d) 0).gainQual d 2 off
  else t

/-- The end of a detection window of 2,500 XO cycles with `n` IOSC cycles (R86, step 1). -/
def Chip.xoDetect (s : Chip) (d n : Nat) : Chip :=
  if (s.die d).judgeFound then s
  else if (9850 ≤ n ∧ n ≤ 10150) ∨ (4925 ≤ n ∧ n ≤ 5075) then
    ((s.setB (CLK_STATUS_XO_FREQ d) (decide (n ≤ 5075))).modDie d
      (fun r => { r with judgeFound := true, judgeRun := 0 })).showJudge d judgeCounting
  else s

def execXoDetectWindow (d : Fin 8) (n : Nat) (s : State) : Host.Outcome State Fault Refusal :=
  s.act fun c => if c.runs d then c.xoDetect d n else c

/-- The mean of the window counts held, rounded down. [log 119: DESIGN CHOICE] -/
def meanOf (l : List Nat) : Nat := (l.foldl (· + ·) 0) / max 1 l.length

/-- The XO loses its qualification; as the active source it leaves the core to R65 where there is a fallback, else to R59. -/
def Chip.xoGone (s : Chip) (d : Nat) (off : Int) : Chip :=
  if s.get (SYN_STATUS_REF_ACTIVE d) = 2 ∧ (s.fallback d).isNone then s.refLost d off else s.loseQual d 2 off

/-- The XO fails (R89, R90).  With the IOSC failed as well there is nothing to switch to (R92). -/
def Chip.xoFail (s : Chip) (d : Nat) (off : Int) : Chip :=
  if s.on (CLK_STATUS_XO_FAIL d) ∨ ¬ s.on (CLK_STATUS_XO_STABLE d) then s
  else
    let t := ((s.set (CLK_STATUS_XO_FAIL d) 1).raise (CLK_EVENTS_XO_FAIL d)).bump (CLK_FAIL_CNT_XO d)
    let t := (t.set (CLK_STATUS_XO_STABLE d) 0).modDie d
      (fun r => { r with judgeFound := false, judgeRun := 0, xoCounts := [], xoBroke := true })
    let t := t.set (CLK_STATUS_JUDGE d) judgeFailed
    let t := if t.on (CLK_STATUS_BASE_SRC d) ∧ ¬ t.on (CLK_STATUS_IOSC_FAIL d) then (t.setBase d false).set (CLK_STATUS_BPLL_LOCK d) 0 else t
    let t := t.raiseF0 FAULT_F0_EVENTS_XO_FAIL 0x01 d
    let t := if t.on (CLK_STATUS_IOSC_FAIL d) then t.raiseF1 d 0x14 else t
    let t := if t.get (CLK_FAIL_POLICY_POLICY d) = 1 then t.raiseF1 d 0x15 else t
    t.xoGone d off

def execXoFailure (d : Fin 8) (off : Int) (s : State) : Host.Outcome State Fault Refusal :=
  s.act fun c => if c.runs d then c.xoFail d off else c

/-- The IOSC fails: the die continues on the XO, which takes BASE_CLK back where the IOSC supplied it (R92, R93). -/
def Chip.ioscFail (s : Chip) (d : Nat) : Chip :=
  if s.on (CLK_STATUS_IOSC_FAIL d) then s
  else
    let t := ((s.set (CLK_STATUS_IOSC_FAIL d) 1).raiseF3 (CLK_EVENTS_IOSC_FAIL d)).bump (CLK_FAIL_CNT_IOSC d)
    if t.on (CLK_STATUS_XO_FAIL d) then t.raiseF1 d 0x14
    else if t.on (CLK_STATUS_XO_STABLE d) ∧ ¬ t.on (CLK_STATUS_BASE_SRC d) then (t.setBase d true).set (CLK_STATUS_BPLL_LOCK d) 0
    else t

def execIoscFailure (d : Fin 8) (s : State) : Host.Outcome State Fault Refusal :=
  s.act fun c => if c.runs d then c.ioscFail d else c

/-- A window count: judging (R86, steps 2 to 4) or, once stable, monitoring (R88); `iosc` is what the
measurement against `SYNTH_CLK` says when the core is LOCKED to REFA or REFB: the IOSC is the one that
differs. [log 120: DESIGN CHOICE] -/
def Chip.xoWindow (s : Chip) (d n : Nat) (iosc : Bool) (off : Int) : Chip :=
  if !(s.die d).judgeFound then s
  else
    let s := s.set (CLK_XO_COUNT_LAST d) n
    if s.on (CLK_STATUS_XO_STABLE d) then
      let m := s.get (CLK_XO_COUNT_REF d)
      if m + 20 < n ∨ n + 20 < m then
        let a := s.get (SYN_STATUS_REF_ACTIVE d)
        if iosc && s.syn d == synLocked && decide (a < 2) then s.ioscFail d else s.xoFail d off
      else
        let l := (n :: (s.die d).xoCounts).take 64
        (s.modDie d (fun r => { r with xoCounts := l })).set (CLK_XO_COUNT_REF d) (meanOf l)
    else
      let r := s.die d
      let first := if r.judgeRun = 0 then n else r.judgeFirst
      if 9850 ≤ first ∧ first ≤ 10150 ∧ first ≤ n + 5 ∧ n ≤ first + 5 then
        let s := s.modDie d (fun r => { r with judgeFirst := first, judgeRun := r.judgeRun + 1, xoCounts := n :: r.xoCounts })
        if r.judgeRun + 1 < 8 then s else (s.set (CLK_XO_COUNT_REF d) (meanOf (s.die d).xoCounts)).xoStable d off
      else s.modDie d (fun r => { r with judgeRun := 0, xoCounts := [] })

def execXoJudgeWindow (d : Fin 8) (n : Nat) (iosc : Bool) (off : Int) (s : State) :
    Host.Outcome State Fault Refusal :=
  s.act fun c => if c.runs d then c.xoWindow d n iosc off else c

/-- TMO_MS has passed without a stable XO (R87). -/
def Chip.judgeTimeout (s : Chip) (d : Nat) : Chip :=
  if s.on (CLK_STATUS_XO_STABLE d) then s
  else ((s.raise (CLK_EVENTS_XO_TIMEOUT d)).set (CLK_STATUS_JUDGE d) Machine.judgeTimeout).modDie d
    (fun r => { r with xoBroke := true })

def execXoJudgeTimeout (d : Fin 8) (s : State) : Host.Outcome State Fault Refusal :=
  s.act fun c => if c.runs d then c.judgeTimeout d else c

/-- The backup PLL loses lock (R93). -/
def Chip.bpllUnlock (s : Chip) (d : Nat) : Chip :=
  let t := s.set (CLK_STATUS_BPLL_LOCK d) 0
  if s.onBypass d then (t.raise (CLK_EVENTS_BPLL_UNLOCK d)).raiseF1 d 0x13
  else t.raiseF3 (CLK_EVENTS_BPLL_UNLOCK d)

def execBpllUnlock (d : Fin 8) (s : State) : Host.Outcome State Fault Refusal :=
  s.act fun c => if c.runs d then c.bpllUnlock d else c

/-- The backup PLL is locked to the running BASE_CLK (R93). -/
def execBpllRelock (d : Fin 8) (s : State) : Host.Outcome State Fault Refusal :=
  s.act fun c => if c.runs d then c.set (CLK_STATUS_BPLL_LOCK d) 1 else c

end Sys2Proof.Machine
end

