-- ==== Sys2Proof/Machine/Library.lean ====
section
/-!
DEFINITION. Machine/Library.lean: the setpoint library, its SECDED code, poisoning, scrub, mirrors and
host writes, and the kick profiles (spec/06_setpoint_library.md).
-/

namespace Sys2Proof.Machine

/-! ### The SECDED code (R154) -/

/-- The 8-bit values with exactly three bits set, ascending: the columns h(0) to h(55). -/
def hsiao : List Nat := (List.range 256).filter (fun v => maskCount 8 v == 3)

/-- `CHECK` of data bits [55:0]. -/
def checkOf (data : Nat) : Nat :=
  ((List.range 56).zip hsiao).foldl (fun c p => if data.testBit p.1 then c ^^^ p.2 else c) 0

/-- The data bits with their check bits. -/
def withCheck (data : Nat) : Nat := data % 2 ^ 56 + 2 ^ 56 * checkOf (data % 2 ^ 56)

/-- What a read makes of the 64 stored bits: the entry, corrected or not, or none when uncorrectable. -/
def secded (raw : Nat) : Option (Nat × Bool) :=
  let data := raw % 2 ^ 56
  let syn := (raw / 2 ^ 56 % 256) ^^^ checkOf data
  if syn = 0 then some (raw % 2 ^ 64, false)
  else if maskCount 8 syn = 1 then some (withCheck data, true)
  else match ((List.range 56).zip hsiao).find? (fun p => p.2 == syn) with
    | some p => some (withCheck (data ^^^ 2 ^ p.1), true)
    | none => none

/-! ### Entry fields (Table 6.1) -/

def entBase (e : Nat) : Int := (bitsOf e 0 16 : Nat)
def entTrim (e : Nat) : Int := signedOf 12 (bitsOf e 16 12)
/-- The entry with a new trim. -/
def setTrim (e : Nat) (t : Int) : Nat := putBits e 16 12 (unsignedOf 12 t)
def entSlope (e : Nat) : Int := signedOf 10 (bitsOf e 28 10)
def entKick (e : Nat) : Nat := bitsOf e 38 6
def entLoop (e : Nat) : Bool := maskBit e 44
def entDither (e : Nat) : Bool := maskBit e 45
def entLearn (e : Nat) : Bool := maskBit e 46
def entPark (e : Nat) : Bool := maskBit e 47

/-- A drive word saturated to 16 bits (R125). -/
def satWord (v : Int) : Nat := (clampInt 0 65535 v).toNat

/-- The park word of an entry (R128). -/
def parkOf (e : Nat) : Nat := satWord (entBase e + entTrim e)

/-! ### Addresses -/

/-- The key of the entry of slot `sl`, state `q`, of die `d`. -/
def entKey (d sl q : Nat) : Nat := d * 2 ^ 22 + sl * 1024 + q

/-- The key of mirror entry (e, p, m) of die `b` (R152). -/
def mirKey (b e p m : Nat) : Nat := b * 2 ^ 22 + 2 ^ 21 + (e * 256 + p) * 256 + m

def keyDie (k : Nat) : Nat := k / 2 ^ 22
def keySlot (k : Nat) : Nat := k % 2 ^ 22 / 1024
def keyState (k : Nat) : Nat := k % 1024

/-- What the library RAM reads where nothing has been written (notes/assumptions/6.md). [log 6: DESIGN CHOICE] -/
def libBlank : Nat → Nat := fun _ => 0

/-- See [log 6: DESIGN CHOICE]. -/
def Chip.libRaw (s : Chip) (k : Nat) : Nat := tabGet libBlank s.lib k
def Chip.isPoison (s : Chip) (k : Nat) : Bool := tabGet (fun _ => false) s.poison k

/-- The 64 bits of an entry are written. -/
def Chip.setRaw (s : Chip) (k v : Nat) : Chip := { s with lib := tabPut libBlank s.lib k v }

def Chip.setPoison (s : Chip) (k : Nat) (b : Bool) : Chip :=
  { s with poison := tabPut (fun _ => false) s.poison k b }

/-- EFE `e` of die `d` is protected (R19). -/
def Chip.isProt (s : Chip) (d e : Nat) : Bool := maskBit s.protMask (d * 8 + e)

/-- The map index of state `q` for backup port `e` of die `b` (R159). -/
def Chip.mapIndex (s : Chip) (b e q : Nat) : Option Nat :=
  (List.range 256).find? (fun m => s.get (LIB_MAP_STATE b e m) == q)

/-- The mirror of a primary entry, when its EFE is protected and its state mapped (R160). -/
def Chip.mirrorOf (s : Chip) (k : Nat) : Option Nat :=
  let d := keyDie k
  let sl := keySlot k
  if 2048 ≤ sl then none
  else
    let e := sl / 256
    let b := backupDie s.dieCount d e
    if s.isProt d e then (s.mapIndex b e (keyState k)).map (fun m => mirKey b e (sl % 256) m) else none

/-- Send a change of a primary entry to its mirror (R160). -/
def Chip.sendMirror (s : Chip) (k v : Nat) : Chip :=
  if (s.mirrorOf k).isSome then { s with mirrorQueue := s.mirrorQueue ++ [(k, v)] } else s

/-- A change of an entry: check recomputed, poison cleared, the mirror told (R157, R160, R165). -/
def Chip.putEntry (s : Chip) (k v : Nat) : Chip :=
  ((s.setRaw k (withCheck v)).setPoison k false).sendMirror k (withCheck v)

/-- Note an uncorrectable entry (R157). -/
def Chip.noteUe (s : Chip) (k : Nat) : Chip :=
  let d := keyDie k
  let sl := keySlot k
  let t := ((s.setPoison k true).raise (LIB_EVENTS_UE d)).bump (LIB_UE_CNT_COUNT d)
  (((t.set (LIB_UE_LOC_VALID d) 1).setB (LIB_UE_LOC_MIRROR d) (decide (2048 ≤ sl))).set (LIB_UE_LOC_SLOT d) sl).set
    (LIB_UE_LOC_STATE d) (keyState k)

/-- A read of an entry by the die: corrected and written back, or poisoned (R154, R157, R158). -/
def Chip.readEntry (s : Chip) (k : Nat) : Chip × Option Nat :=
  if s.isPoison k then (s, none)
  else match secded (s.libRaw k) with
    | some (e, false) => (s, some e)
    | some (e, true) =>
      let d := keyDie k
      ((((s.setRaw k e).raise (LIB_EVENTS_CE d)).bump (LIB_CE_CNT_COUNT d)).sendMirror k e, some e)
    | none => (s.noteUe k, none)

/-! ### Slots -/

/-- The hidden record of slot `sl` of die `d`. -/
def Chip.slot (s : Chip) (d sl : Nat) : SlotRec := tabGet (fun _ => {}) s.slots (d * 4096 + sl)

def Chip.setSlot (s : Chip) (d sl : Nat) (r : SlotRec) : Chip :=
  { s with slots := tabPut (fun _ => {}) s.slots (d * 4096 + sl) r }

def Chip.modSlot (s : Chip) (d sl : Nat) (f : SlotRec → SlotRec) : Chip := s.setSlot d sl (f (s.slot d sl))

/-- The element link port of a slot: EL0–EL7 for primary slots, EB0–EB7 for the bench (R20). -/
def Chip.slotPort (s : Chip) (d sl : Nat) : Nat :=
  if sl < 2048 then sl / 256
  else 8 + (if sl < 2304 then s.get (DIE_COVER_H0_EFE d) else s.get (DIE_COVER_H1_EFE d))

/-- The bench half of a slot covers. -/
def Chip.halfActive (s : Chip) (d sl : Nat) : Bool :=
  if sl < 2304 then s.on (DIE_COVER_H0_ACTIVE d) else s.on (DIE_COVER_H1_ACTIVE d)

/-- The channel that a slot carries (R11, R20). -/
def Chip.chanOf (s : Chip) (d sl : Nat) : Nat :=
  if sl < 2048 then d * 2048 + sl
  else
    let e := s.slotPort d sl - 8
    (if sl < 2304 then s.get (DIE_COVER_H0_DIE d) else s.get (DIE_COVER_H1_DIE d)) * 2048 + e * 256 + sl % 256

/-- The die serves the slot's EFE: from the port's first boundary A on, or by covering (R113, R298). -/
def Chip.serves (s : Chip) (d sl : Nat) : Bool :=
  s.inService d && (if sl < 2048 then (tabGet (fun _ => ({} : PortRec)) s.ports (d * 16 + sl / 256)).passedA
    else s.halfActive d sl)

/-- The key of the entry that slot `sl` uses for state `q`: its own, or its mirror entry while it covers;
none for a state that is not mapped (R162, R163). -/
def Chip.slotKey (s : Chip) (d sl q : Nat) : Option Nat :=
  if sl < 2048 then some (entKey d sl q)
  else
    let e := s.slotPort d sl - 8
    (s.mapIndex d e q).map (fun m => mirKey d e (sl % 256) m)

/-- The port states (Table 9.13). -/
abbrev elOff : Nat := 0
abbrev elSync : Nat := 1
abbrev elCaps : Nat := 2
abbrev elTrain : Nat := 3
abbrev elActive : Nat := 4
abbrev elWarm : Nat := 5
abbrev elFailed : Nat := 6

/-- A slot that is not active carries its park word: in its frames and in CH_DRIVE (R128). -/
def Chip.showPark (s : Chip) (d sl v : Nat) : Chip :=
  let t := s.modSlot d sl (fun r => { r with parkWord := v })
  if (s.slot d sl).active then t else t.setReg (CH_DRIVE d sl) (BitVec.ofNat 32 (v + 2 ^ 18))

/-- The park word of slot `sl` as its state 0 entry gives it; when that entry cannot be read, the last one stands (R128,
R157). -/
def Chip.parkLoad (s : Chip) (d sl : Nat) : Chip :=
  match s.slotKey d sl 0 with
  | none => s.showPark d sl (s.slot d sl).parkWord
  | some k =>
    let f := s.readEntry k
    f.1.showPark d sl ((f.2.map parkOf).getD (s.slot d sl).parkWord)

/-- The 256 slots from `base` on begin to be served: those that are not active carry their park words (R128, R156). -/
def Chip.parkAll (s : Chip) (d base : Nat) : Chip :=
  s.each ((List.range 256).map (base + ·)) fun sl t => if (t.slot d sl).active then t else t.parkLoad d sl

/-- The park word of slot `sl` follows its state 0 entry: the die writes `PARK_p` of its position again (R128, R261).
[log 49: DEDUCED] -/
def Chip.parkChanged (s : Chip) (d sl : Nat) : Chip :=
  let p : Nat := s.slotPort d sl
  let t := s.parkLoad d sl
  let r : PortRec := tabGet (fun _ => {}) t.ports (d * 16 + p)
  if s.get (ELINK_STATUS_STATE d p) = elActive then
    let r := { r with own := r.own ++ [⟨2, 0x100 + sl % 256, (t.slot d sl).parkWord⟩] }
    { t with ports := tabPut (fun _ => {}) t.ports (d * 16 + p) r }
  else t

/-- The slots with a CH_CTRL written: the enabled ones are among them, since EN resets to 0. -/
def Chip.enabledSlots (s : Chip) (d : Nat) : List Nat :=
  ((s.regs.filter (fun p => decide (CH_CTRL d 0 ≤ p.1) && decide (p.1 < CH_CTRL d 2560)
    && (p.1 - CH_CTRL d 0) % 0x80 == 0)).map (fun p => (p.1 - CH_CTRL d 0) / 0x80)).filter
      (fun sl => s.on (CH_CTRL_EN d sl))

/-- The active slots of die `d`. -/
def Chip.activeSlots (s : Chip) (d : Nat) : List Nat := (s.enabledSlots d).filter (fun sl => (s.slot d sl).active)

/-! ### Host writes (R155, R164, R165) -/

/-- The slot whose current or park entry the key is, when the entry is live (R165). -/
def Chip.isLive (s : Chip) (k : Nat) : Bool :=
  let d := keyDie k
  let sl := keySlot k
  let q := keyState k
  decide (sl < 2048) &&
    ((q == 0 && s.serves d sl) || ((s.slot d sl).active && s.get (CH_STATE_CURRENT d sl) == q))

def Chip.liveOf (s : Chip) (k : Nat) : Option Nat := tabGet (fun _ => none) s.libLive k

def Chip.setLive (s : Chip) (k : Nat) (v : Option Nat) : Chip :=
  { s with libLive := tabPut (fun _ => none) s.libLive k v }

/-- LIB_STATUS shows the pending live writes of die `d`. -/
def Chip.showPend (s : Chip) (d : Nat) : Chip :=
  s.set (LIB_STATUS_PEND d) (s.libLive.filter (fun p => keyDie p.1 == d)).length

/-- The host has written entry `k` again since the freeze that took its last live write into the staged set (R422). -/
def Chip.libAgain (s : Chip) (k : Nat) : Chip :=
  if (tabGet (fun _ => none) s.libStaged k).isSome then { s with libSince := k :: s.libSince } else s

/-- A committed host write of an entry: refused for a state 0 entry without PARK_SAFE, buffered when live,
scheduled for the end of the tick otherwise.  It takes the place of one that waits in the other of the two (R165). -/
def Chip.libWrite (s : Chip) (k v : Nat) : Chip :=
  let d := keyDie k
  let v := v % 2 ^ 48
  if 2048 ≤ keySlot k then (s.libDiscard d).raise (LIB_EVENTS_MIRROR_WRITE d)
  else if keyState k = 0 ∧ !entPark v then (s.libDiscard d).raise (LIB_EVENTS_PARK_REFUSED d)
  else if s.isLive k then
    ((({ s with libQueue := s.libQueue.filter (fun p => p.1 != k) } : Chip).libAgain k).setLive k (some v)).showPend d
  else
    let t := (s.libAgain k).setLive k none
    ({ t with libQueue := t.libQueue ++ [(k, v)] } : Chip).showPend d

def execLibWrite (d : Fin 8) (sl : Fin 2560) (q : Fin 1024) (v : BitVec 64) (s : State) :
    Host.Outcome State Fault Refusal :=
  s.act fun c => if c.open d then c.libWrite (entKey d sl q) v.toNat else c

/-- A non-live write takes effect: on a live slot's current entry the copy and on state 0 the park word
follow (R128, R156). -/
def Chip.reloadCopies (s : Chip) (d sl q : Nat) : Chip :=
  let s := if q = 0 then s.parkChanged d sl else s
  if (s.slot d sl).active && s.get (CH_STATE_CURRENT d sl) == q then
    let f := s.readEntry (entKey d sl q)
    match f.2 with
    | some e => f.1.modSlot d sl (fun r => { r with entry := e, parkHeld := false })
    | none => f.1
  else s

/-- One scheduled write at the end of the tick; one whose entry has become live goes to the buffer.  A trim written back
in the same tick does not stand beside it (R146). [log 86: DESIGN CHOICE] -/
def Chip.libApplyOne (s : Chip) (k v : Nat) : Chip :=
  let d := keyDie k
  if s.isLive k then (s.setLive k (some v)).showPend d
  else
    let s := if s.trimBack.contains k then { s with trimNew := s.trimNew.filter (fun p => p.1 != k) } else s
    (({ s with libWrote := k :: s.libWrote } : Chip).putEntry k v).reloadCopies d (keySlot k) (keyState k)

/-- The scheduled writes of die `d`, and pending live writes whose entry is no longer live (R165). -/
def Chip.libApply (s : Chip) (d : Nat) : Chip :=
  let mine := s.libQueue.filter (fun p => keyDie p.1 == d)
  let s : Chip := { s with libQueue := s.libQueue.filter (fun p => keyDie p.1 != d) }
  let s := mine.foldl (fun t p => t.libApplyOne p.1 p.2) s
  let gone := (s.libLive.filter (fun p => keyDie p.1 == d && !s.isLive p.1)).map (·.1)
  (s.each gone fun k t =>
    match t.liveOf k with
    | some v => (t.setLive k none).libApplyOne k v
    | none => t).showPend d

def execLibWriteApply (d : Fin 8) (s : State) : Host.Outcome State Fault Refusal :=
  s.act fun c => if c.runs d then c.libApply d else c

/-- The live writes of die `d` join the staged set (R165). -/
def Chip.stageLive (s : Chip) (d : Nat) : Chip :=
  let mine := s.libLive.filter (fun p => keyDie p.1 == d)
  let s := mine.foldl (fun (t : Chip) p => { t with libStaged := tabPut (fun _ => none) t.libStaged p.1 p.2 }) s
  ({ s with libLive := s.libLive.filter (fun p => keyDie p.1 != d) } : Chip).showPend d

/-- The staged live writes of die `d` return to the buffer, unless the host has written the entry since (R422). -/
def Chip.unstageLive (s : Chip) (d : Nat) : Chip :=
  let mine := s.libStaged.filter (fun p => keyDie p.1 == d && !s.libSince.contains p.1)
  let s := mine.foldl (fun (t : Chip) p => t.setLive p.1 p.2) s
  ({ s with
    libStaged := s.libStaged.filter (fun p => keyDie p.1 != d)
    libSince := s.libSince.filter (fun k => keyDie k != d) } : Chip).showPend d

/-- The staged live writes of die `d` are discarded (R38). -/
def Chip.dropLive (s : Chip) (d : Nat) : Chip :=
  { s with
    libStaged := s.libStaged.filter (fun p => keyDie p.1 != d)
    libSince := s.libSince.filter (fun k => keyDie k != d) }

/-- The staged live writes of die `d` to slots that `f` admits are made (R165, R166). -/
def Chip.loadLive (s : Chip) (d : Nat) (f : Nat → Bool) : Chip :=
  let mine := s.libStaged.filter (fun p => keyDie p.1 == d && f (keySlot p.1))
  let s : Chip := { s with
    libStaged := s.libStaged.filter (fun p => !(keyDie p.1 == d && f (keySlot p.1)))
    libSince := s.libSince.filter (fun k => !(keyDie k == d && f (keySlot k))) }
  mine.foldl (fun t p =>
    match p.2 with
    | some v => (({ t with libWrote := p.1 :: t.libWrote } : Chip).putEntry p.1 v).reloadCopies d (keySlot p.1)
        (keyState p.1)
    | none => t) s

/-! ### Mirrors and scrub (R158, R160) -/

/-- The oldest mirror write of home die `d` arrives at its backup die and is acknowledged. -/
def Chip.mirrorWrite (s : Chip) (d : Nat) : Chip :=
  match s.mirrorQueue.find? (fun p => keyDie p.1 == d) with
  | some (k, v) =>
    let s : Chip := { s with mirrorQueue := s.mirrorQueue.erase (k, v) }
    match s.mirrorOf k with
    | some m => (s.setRaw m v).setPoison m false
    | none => s
  | none => s

def execMirrorWrite (d : Fin 8) (s : State) : Host.Outcome State Fault Refusal :=
  s.act fun c => if d < c.dieCount then c.mirrorWrite d else c

/-- The other copy of an entry: its mirror, or the primary entry of a mirror entry. -/
def Chip.otherCopy (s : Chip) (k : Nat) : Option Nat :=
  let d := keyDie k
  if keySlot k < 2048 then s.mirrorOf k
  else
    let i := k % 2 ^ 21
    let e := i / 65536
    let h := homeOf s.dieCount d e
    if s.isProt h e then some (entKey h (e * 256 + i / 256 % 256) (s.get (LIB_MAP_STATE d e (i % 256)))) else none

/-- The way back into service of die `d`. -/
def Chip.rejoin (s : Chip) (d : Nat) : RejoinRec := tabGet (fun _ => {}) s.fault.rejoins d

/-- The learned trim of mirror entry value `v` goes into the home die's primary entry `o` and into its trim log (R358); during an
update only the trim does, and with KEEP_TRIMS = 0 nothing. [log 78: DESIGN CHOICE] -/
def Chip.homeCopy (s : Chip) (o v : Nat) (upd : Bool) : Chip :=
  if upd ∧ !s.on UPD_CTRL_KEEP_TRIMS then s
  else
    let t := if upd then
        let g := s.readEntry o
        match g.2 with
        | some w => g.1.setRaw o (withCheck (setTrim w (entTrim v)))
        | none => g.1
      else (s.setRaw o v).setPoison o false
    { t with trimNew := t.trimNew ++ [(o, bitsOf v 16 12)] }

/-- Mirror entry `k` takes the learned entry `v`: it waits for the copy-back, unless step 2 of its home die's rejoin is over;
then it also goes to the primary entry (R162, R358). -/
def Chip.mirrorBack (s : Chip) (k v : Nat) : Chip :=
  let t := s.setRaw k (withCheck v)
  match s.otherCopy k with
  | some o =>
    if (s.rejoin (keyDie o)).ready then t.homeCopy o (withCheck v) (s.rejoin (keyDie o)).byUpdate
    else { t with dirty := tabPut (fun _ => false) t.dirty k true }
  | none => { t with dirty := tabPut (fun _ => false) t.dirty k true }

/-- Physical upsets of stored bits: (offset of the entry in the die's library, XOR mask). [log 85: DESIGN CHOICE] -/
def Chip.upset (s : Chip) (d : Nat) (l : List (Nat × Nat)) : Chip :=
  l.foldl (fun t p => t.setRaw (d * 2 ^ 22 + p.1 % 2621440)
    (t.libRaw (d * 2 ^ 22 + p.1 % 2621440) ^^^ (p.2 % 2 ^ 64))) s

/-- SCRUB_BUSY: the pass in progress still waits for copies (R158). [log 85: DESIGN CHOICE] -/
def Chip.scrubShow (s : Chip) (d : Nat) : Chip :=
  s.setB (LIB_STATUS_SCRUB_BUSY d) (!(tabGet (fun _ => ({} : DieRec)) s.dies d).scrubWait.isEmpty)

/-- A scrub pass: every entry that holds anything is read; the others are blank and read without error.  The copies of
those found uncorrectable are fetched (R158). [log 85: DESIGN CHOICE] -/
def Chip.scrub (s : Chip) (d : Nat) (l : List (Nat × Nat)) : Chip :=
  let s := s.upset d l
  if s.on (LIB_CTRL_SCRUB_EN d) then
    let ks := (s.lib.filter (fun p => keyDie p.1 == d)).map (·.1)
    let s := s.each ks fun k t => (t.readEntry k).1
    let w := ks.filter (fun k => s.isPoison k && (s.otherCopy k).isSome)
    (s.modDie d (fun r => { r with scrubWait := w })).scrubShow d
  else s

/-- See [log 85: DESIGN CHOICE]. -/
def execLibScrubPass (d : Fin 8) (l : List (Nat × Nat)) (s : State) : Host.Outcome State Fault Refusal :=
  s.act fun c => if c.runs d then c.scrub d l else c

/-- Die `d` holds its library and can send an entry of it: it runs, and a rejoin has loaded it again. -/
def Chip.holdsLib (s : Chip) (d : Nat) : Bool :=
  let r : RejoinRec := tabGet (fun _ => {}) s.fault.rejoins d
  s.runs d && (s.open d || !r.on || r.loaded)

/-- The other copy of a poisoned entry arrives: repaired when the copy is correctable; a read of the copy corrects it, or
notes it as uncorrectable, as every read does (R158).  A die that does not hold it sends none. -/
def Chip.mirrorFetch (s : Chip) (k : Nat) : Chip :=
  let d := keyDie k
  let s := (s.modDie d (fun r => { r with scrubWait := r.scrubWait.filter (fun x => x != k) })).scrubShow d
  if !s.isPoison k then s
  else match s.otherCopy k with
    | none => s
    | some o =>
      if !s.holdsLib (keyDie o) then s
      else
        let f := s.readEntry o
        match f.2 with
        | some e => (((f.1.setRaw k e).setPoison k false).raise (LIB_EVENTS_REPAIRED d)).bump (LIB_REPAIR_CNT_COUNT d)
        | none => f.1

def execMirrorFetch (d : Fin 8) (sl : Fin 2560) (q : Fin 1024) (s : State) : Host.Outcome State Fault Refusal :=
  s.act fun c => if c.runs d then c.mirrorFetch (entKey d sl q) else c

/-! ### Kick profiles (R168 to R170) -/

/-- Sample `i` of profile `p`. -/
def Chip.kickSample (s : Chip) (d p i : Nat) : Int :=
  signedOf 16 (if i % 2 = 0 then s.get (KICK_S_S_LO d p (i / 2)) else s.get (KICK_S_S_HI d p (i / 2)))

/-- The kick buffer of profile `p` for the step `delta` (R169). -/
def Chip.kickFill (s : Chip) (d p : Nat) (delta : Int) : List Int :=
  let lim := s.get (KICK_CFG_LIMIT d p)
  (List.range (min 16 (s.get (KICK_CFG_LEN d p)))).map fun i =>
    let v := roundDiv (s.kickSample d p i * delta) 4096
    if lim = 0 then v else clampInt (-lim) lim v

/-- The KICK registers of die `d`. -/
def kickLo (d : Nat) : Nat := dieBase d + 0x80000
def kickHi (d : Nat) : Nat := dieBase d + 0x81000

/-- Load the staged profiles of die `d`, or refuse them all (R170). [log 51: DESIGN CHOICE] -/
def Chip.kickLoad (s : Chip) (d : Nat) : Chip :=
  let lens := (s.stagedIn (kickLo d) (kickHi d)).filter (fun a => (a - kickLo d) % 0x40 == 0)
  if lens.any (fun a => decide (16 < s.nextWord a % 32)) then
    (s.dropStaged (kickLo d) (kickHi d)).raiseF3 (LIB_EVENTS_KICK_REFUSED d)
  else s.loadStaged (kickLo d) (kickHi d)

end Sys2Proof.Machine
end

