-- ==== Sys2Proof/Machine/Sine.lean ====
section
/-!
DEFINITION. Machine/Sine.lean: the sine table of R116 (spec/04_tone_channels.md): entry i of 1,024 is
131,071 × sin(2π i / 1,024), here to 60 further binary places so that the interpolated value rounds as
the exact sine would (notes/assumptions/3.md).  Entries 0 to 256 are listed; the rest follow by symmetry.
-/

namespace Sys2Proof.Machine

def sineQuarter0 : List Nat := [
  0, 927221598124125140226, 1854408286879148673392, 2781525158210287008260,
  3708537306691343101901, 4635409830838876027389, 5562107834426222098951, 6488596427797318082431,
  7414840729180277026357, 8340805866000667258225, 9266456976194445101794, 10191759209520491884214,
  11116677728872705816705, 12041177711591599349280, 12965224350775352618603, 13888782856590273628567,
  14811818457580615825503, 15734296401977703754133, 16656181959008317506423, 17577440420202286703395,
  18498037100699244779742, 19417937340554494372661, 20337106506043934649831, 21255509990968001446752,
  22173113217954571120828, 23089881639760779068615, 24005780740573703893492, 24920776037309868253735,
  25834833080913507465525, 26747917457653556981796, 27659994790419309916102, 28571030740014695830708]

def sineQuarter1 : List Nat := [
  29480991006451132060047, 30389841330238898894432, 31297547493676990004454, 32204075322141389543951,
  33109390685371727428630, 34013459498756264348497, 34916247724615158135142, 35817721373481963169626,
  36717846505383314583227, 37616589231116749071685, 38513915713526614213685, 39409792168778018256335,
  40304184867628772404140, 41197060136699277723565, 42088384359740308852663, 42978123978898646784432,
  43866245495980513073531, 44752715473712757898784, 45637500537001754498451, 46520567374189952581593,
  47401882738310043407016, 48281413448336689311182, 49159126390435770558185, 50034988519211102478339,
  50908966858948575957202, 51781028504857674433832, 52651140624310320665873, 53519270458077006619590,
  54385385321560159945249, 55249452606024700602313, 56111439779825741304671, 56971314389633385563685]

def sineQuarter2 : List Nat := [
  57829044061654577216094, 58684596502851955434841, 59537939502159669333606, 60389040931696106390328,
  61237868747973489031158, 62084390993104293834238, 62928575796004447932285, 63770391373593257314322,
  64609806031990021849944, 65446788167707291984217, 66281306268840722177795, 67113328916255476294927,
  67942824784769140271874, 68769762644331097529728, 69594111361198322728836, 70415839899107549596838,
  71234917320443768698877, 72051312787405011156692, 72864995563163374463150, 73675935013022246680253,
  74484100605569685451773, 75289461913827908406460, 76091988616398851674151, 76891650498605753385151,
  77688417453630719172912, 78482259483648226851314, 79273146700954527590738, 80061049329092901071609,
  80845937703974722250192, 81627782274996297529121, 82406553606151428284389, 83182222377139659861427]

def sineQuarter3 : List Nat := [
  83954759384470174315326, 84724135542561285334251, 85490321884835493950689, 86253289564810063812318,
  87013009857183074952923, 87769454158914915174084, 88522593990305168320067, 89272400996064858901706,
  90018846946384012699849, 90761903737994493155340, 91501543395228073530325, 92237738071069705005082,
  92970460048205941055406, 93699681740068478637987, 94425375691872776895027, 95147514581651714274694,
  95866071221284245150814, 96581018557519017213447, 97292329672992911091743, 97999977787244463861634,
  98703936257722138283530, 99404178580787399809270, 100100678392712563593027, 100793409470673373937806,
  101482345733736278807468, 102167461243840362233965, 102848730206773897650570, 103526126973145485384437,
  104199626039349737745708, 104869202048527475355654, 105534829791520398563035, 106196484207820198005800]

def sineQuarter4 : List Nat := [
  106854140386512068584679, 107507773567212591325894, 108157359141001947822252, 108802872651350432155294,
  109444289795039225415835, 110081586423075398156260, 110714738541601106325255, 111343722312796946454250,
  111968514055779436084770, 112589090247492585647057, 113205427523593528222800, 113817502679332173848487,
  114425292670424855240917, 115028774613921932052592, 115627925789069320992182, 116222723638163919373933,
  116813145767402889889825, 117399169947726774629364, 117980774115656406604258, 118557936374123587268725,
  119130634993295498760895, 119698848411392819826653, 120262555235501514624316, 120821734242378263846758,
  121376364379249507836956, 121926424764604071613439, 122471894688979341963742, 123012753615740967006765,
  123548981181856048868763, 124080557198659800362720, 124607461652615636806908, 125129674706068674365603]

def sineQuarter5 : List Nat := [
  125647176697992606543172, 126159948144729930712061, 126667969740725496805553, 127171222359253350557630,
  127669687053136843924682, 128163345055461985577313, 128652177780284004605018, 129136166823327100831988,
  129615293962677355398843, 130089541159468775522616, 130558890558562447605769, 131023324489218773124527,
  131482825465762761987220, 131937376188242358314711, 132386959543079773857337, 132831558603715804525996,
  133271156631247105779252, 133705737075056402873394, 134135283573435612248380, 134559779954201850589510,
  134979210235306308372426, 135393558625435964967703, 135802809524608122650788, 136206947524757737133423,
  136605957410317522503890, 136999824158790808735450, 137388532941317130195223, 137772069123230523859412,
  138150418264610516215264, 138523566120825778105420, 138891498643070427046363, 139254201978892956829475]

def sineQuarter6 : List Nat := [
  139611662472717774490808, 139963866666359325013995, 140310801299528784409803, 140652453310333302095608,
  140988809835767773778607, 141319858212199126327797, 141645585975843096401664, 141965980863233484881136,
  142281030811683869440642, 142590723959741757874057, 142895048647635165076909, 143193993417711596871492,
  143487547014869424147378, 143775698386981631076346, 144058436685311921447840, 144335751264923167458789,
  144607631685078185579929, 144874067709632824409630, 145135049307421349715708, 145390566652634112155682,
  145640610125187483456497, 145885170311086047125838, 146124238002777030058749, 146357804199496961695413,
  146585860107610547678561, 146808397140941745252125, 147025406921097027936324, 147236881277780827308442,
  147442812249103140013118, 147643192081879288420886, 147838013231921823649173, 148027268364324559955761]

def sineQuarter7 : List Nat := [
  148210950353738729810969, 148389052284641249251489, 148561567451595083415831, 148728489359501702458750,
  148889811723845618339858, 149045528470930993279722, 149195633738110310975289, 149340121874005101965295,
  149478987438718714835468, 149612225204041125252812, 149739830153645775118023, 149861797483278434425170,
  149978122600938078718070, 150088801127049775333457, 150193828894629571921847, 150293201949441381038156,
  150386916550145854895448, 150474969168441244676769, 150557356489196239101782, 150634075410574777246918,
  150705123044152830919906, 150770496715027152191890, 150830193961915981992851, 150884212537251715978716,
  150932550407265524181330, 150975205752063921255412, 151012176965697284439674, 151043462656220316652428,
  151069061645744452445293, 151088972970482204841937, 151103195880783451392227, 151111729841163658075638]

def sineQuarter8 : List Nat := [
  151114574530324039991296]

/-- Entries 0 to 256, scaled by 2^60. [log 3: DEDUCED] -/
def sineQuarter : List Nat :=
  sineQuarter0 ++ sineQuarter1 ++ sineQuarter2 ++ sineQuarter3 ++ sineQuarter4 ++ sineQuarter5 ++ sineQuarter6 ++ sineQuarter7 ++ sineQuarter8

/-- Entry `i` of the table, `i` taken modulo 1,024, scaled by 2^60. [log 3: DEDUCED] -/
def sineEntry (i : Nat) : Int :=
  let k := i % 1024
  if k ≤ 256 then (sineQuarter.getD k 0 : Nat)
  else if k ≤ 512 then (sineQuarter.getD (512 - k) 0 : Nat)
  else if k ≤ 768 then -(sineQuarter.getD (k - 512) 0 : Nat)
  else -(sineQuarter.getD (1024 - k) 0 : Nat)

/-- R116: linear interpolation at phase `theta` (units of 2^-32 cycle), rounded to 18 bits signed. [log 3: DEDUCED] -/
def sineAt (theta : Nat) : Int :=
  let i := bitsOf theta 22 10
  let f := bitsOf theta 6 16
  roundDiv (sineEntry i * (65536 - (f : Nat)) + sineEntry (i + 1) * (f : Nat)) (65536 * 2 ^ 60)

/-- R116: the cosine, from the same table at index + 256. [log 3: DEDUCED] -/
def cosineAt (theta : Nat) : Int := sineAt ((theta + 256 * 2 ^ 22) % 2 ^ 32)

end Sys2Proof.Machine
end

