-- ==== Sys2Proof/Machine/Tone.lean ====
section
/-!
DEFINITION. Machine/Tone.lean: tone channels and the composition of drive words
(spec/04_tone_channels.md, R113 to R129).
-/

namespace Sys2Proof.Machine

/-- One step of the 23-bit LFSR x^23 + x^18 + 1: the new state and the chip (R119). -/
def lfsr23 (x : Nat) : Nat × Int :=
  let out := (x / 2 ^ 22 + x / 2 ^ 17) % 2
  ((2 * x + out) % 2 ^ 23, if out = 1 then 1 else -1)

/-- The reference pair of the next tick: sine and cosine of theta, or the chips (R114, R118). -/
def Chip.toneRef (s : Chip) (d sl : Nat) (r : SlotRec) (prev : Int) : Int × Int :=
  if s.on (CH_CTRL_MODE d sl) then (r.chip * 131071, if r.fresh then 0 else prev * 131071)
  else
    let th := (r.acc + s.get (CH_PHASE_AMP_PHASE d sl) * 2 ^ 16) % 2 ^ 32
    (sineAt th, cosineAt th)

/-- Step 2: the tone advances to the tick after the next one (R114, R119).  FTW of the tick in progress is the value that
stood before a commit loaded at its beginning (R120). -/
def Chip.toneStep (s : Chip) (d sl : Nat) (r : SlotRec) : SlotRec :=
  let prev := r.chip
  let ftw := r.ftwPrev.getD (s.get (CH_FTW_FTW d sl))
  let r := { r with ftwPrev := none }
  let r := if s.on (CH_CTRL_MODE d sl) then
      let n := lfsr23 r.lfsr
      { r with lfsr := n.1, chip := n.2, fresh := false }
    else { r with acc := (r.acc + ftw) % 2 ^ 32 }
  { r with refs := s.toneRef d sl r prev :: r.refs.take 2 }

/-- A phase reset at the coming boundary: acc = 0, or the LFSR loaded from the seed (R119, R120). -/
def Chip.toneReset (s : Chip) (d sl : Nat) (r : SlotRec) : SlotRec :=
  let seed := s.get (CH_SEED_SEED d sl)
  let r := if s.on (CH_CTRL_MODE d sl) then
      let n := lfsr23 (if seed = 0 then 1 else seed)
      { r with lfsr := n.1, chip := n.2, fresh := true }
    else { r with acc := 0 }
  { r with refs := s.toneRef d sl r 0 :: r.refs.drop 1 }

/-- A hop of the coming boundary is noted with its mode: the last one decides the phase, but a slot that becomes active and
a change of MODE take HOP_RESET whatever follows (R120, R121). [log 87: DEDUCED] -/
def Chip.noteHop (s : Chip) (d sl m : Nat) : Chip :=
  s.modSlot d sl (fun r => { r with hopDue := max (if r.hopDue = 3 then 3 else 0) m })

/-- A hop at the coming boundary in mode `reset` (R120). -/
def Chip.hop (s : Chip) (d sl : Nat) (reset : Bool) : Chip :=
  let r := s.slot d sl
  if reset then
    let s := s.setSlot d sl (s.toneReset d sl r)
    if s.on (CH_CTRL_MODE d sl) ∧ s.get (CH_SEED_SEED d sl) = 0 then s.raise (CH_EVENTS_SEED_ZERO d sl) else s
  else if s.on (CH_CTRL_MODE d sl) then s
  else s.setSlot d sl { r with refs := s.toneRef d sl r 0 :: r.refs.drop 1 }

/-- The hop that the coming boundary holds for a slot is made; the window in progress at it is void (R137). -/
def Chip.hopNow (s : Chip) (d sl : Nat) : Chip :=
  let m := (s.slot d sl).hopDue
  if m = 0 then s else (s.modSlot d sl (fun r => { r with hopDue := 0, wVoid := true })).hop d sl (decide (2 ≤ m))

/-! ### Temperature (R126) -/

/-- A reading of sensor `k` reaches the slots of port `p` that select it. -/
def Chip.tempReading (s : Chip) (d p k : Nat) : Chip :=
  s.each ((s.activeSlots d).filter (fun sl => s.slotPort d sl == p && s.get (CH_TEMP_SEL_SRC d sl) == k)) fun sl t =>
    (t.modSlot d sl (fun r => { r with tempAge := 0 })).set (CH_DRIVE_TEMP_STALE d sl) 0

/-- The source that a slot selects has delivered a valid reading, and the latest one (R126). [log 88: DEDUCED] -/
def Chip.tempOf (s : Chip) (d sl : Nat) : Option Int :=
  let k := s.get (CH_TEMP_SEL_SRC d sl)
  let p := s.slotPort d sl
  if k = 16 then some (s.getI (CAL_T_NOW_TEMP d))
  else if s.on (EFE_TEMP_VALID d p k) then some (signedOf 16 (s.get (EFE_TEMP_TEMP d p k))) else none

/-- The temperature of a slot at a boundary: the die sensor delivers a reading at every boundary; an EFE sensor ages. -/
def Chip.tempTick (s : Chip) (d sl : Nat) : Chip :=
  if s.get (CH_TEMP_SEL_SRC d sl) = 16 then
    (s.modSlot d sl (fun r => { r with tempAge := 0 })).set (CH_DRIVE_TEMP_STALE d sl) 0
  else s.modSlot d sl (fun r => { r with tempAge := min 256 (r.tempAge + 1) })

/-- 256 ticks without a valid reading. -/
def Chip.tempStale (s : Chip) (d sl : Nat) : Chip :=
  if (s.slot d sl).active ∧ 256 ≤ (s.slot d sl).tempAge ∧ ¬ s.on (CH_DRIVE_TEMP_STALE d sl) then
    (s.set (CH_DRIVE_TEMP_STALE d sl) 1).raise (CH_EVENTS_TEMP_STALE d sl)
  else s

/-- A slot turns to the source that it now selects: the age of that source's latest reading counts, and one that is too old
already is reported. [log 88: DEDUCED] -/
def Chip.tempFresh (s : Chip) (d sl : Nat) : Chip :=
  let k := s.get (CH_TEMP_SEL_SRC d sl)
  let p := s.slotPort d sl
  let age := if k < 16 ∧ s.on (EFE_TEMP_VALID d p k) then s.get (EFE_TEMP_AGE d p k) else 0
  let s := s.modSlot d sl (fun r => { r with tempAge := age })
  if age < 256 then s.set (CH_DRIVE_TEMP_STALE d sl) 0 else s.tempStale d sl

def execTempStale (d : Fin 8) (sl : Fin 2560) (s : State) : Host.Outcome State Fault Refusal :=
  s.act fun c => if c.runs d then c.tempStale d sl else c

/-- The temperature term. -/
def Chip.tempTerm (s : Chip) (d sl : Nat) (r : SlotRec) : Int :=
  match s.tempOf d sl with
  | some x => roundDiv (entSlope r.entry * (x - s.getI (CH_TEMP_SEL_T_REF d sl))) 256
  | none => 0

/-! ### The drive word (R125) -/

/-- The dither of the next tick (R116, R119). -/
def Chip.dither (s : Chip) (d sl : Nat) (r : SlotRec) : Int :=
  let amp : Int := s.get (CH_PHASE_AMP_AMP d sl)
  if s.on (CH_CTRL_MODE d sl) then amp * r.chip else roundDiv (amp * (r.refs.headD (0, 0)).1) 131071

/-- The kick sample of tick `n` (R169). [log 46: DEDUCED] -/
def SlotRec.kickAtTick (r : SlotRec) (n : Nat) : Int := if r.kickAt ≤ n then r.kick.getD (n - r.kickAt) 0 else 0

/-- The loop correction in the drive: none in PARKED (Table 5.2). -/
def SlotRec.corrIn (r : SlotRec) : Int := if r.st = 1 then 0 else r.corr

/-- The unsaturated sum for tick `n`, and whether the dither is in it. -/
def Chip.driveSum (s : Chip) (d sl : Nat) (r : SlotRec) (n : Nat) : Int × Bool :=
  let dith := s.on (CH_CTRL_TONE_EN d sl) && entDither r.entry
  (entBase r.entry + entTrim r.entry + s.tempTerm d sl r + r.corrIn + r.kickAtTick n
    + (if dith then s.dither d sl r else 0), dith)

/-- Step 6 for one active slot and tick `n`: the word, and the captures of CH_DRIVE and CH_TONE_ACC. -/
def Chip.compose (s : Chip) (d sl n : Nat) : Chip :=
  let r := s.slot d sl
  let s := s.set (CH_TONE_ACC_ACC d sl) (if s.on (CH_CTRL_MODE d sl) then r.lfsr else r.acc)
  let s := s.setB (CH_DRIVE_PARKED d sl) r.parkHeld
  if r.parkHeld then
    ((s.set (CH_DRIVE_WORD d sl) r.parkWord).set (CH_DRIVE_SAT d sl) 0).set (CH_DRIVE_DITHER_ON d sl) 0
  else
    let v := s.driveSum d sl r n
    let sat := decide (v.1 < 0) || decide (65535 < v.1)
    let s := (s.set (CH_DRIVE_WORD d sl) (satWord v.1)).setB (CH_DRIVE_DITHER_ON d sl) v.2
    let s := s.setB (CH_DRIVE_SAT d sl) sat
    if sat then s.raise (CH_EVENTS_SAT d sl) else s

/-- The sub-tick field that accompanies the word of tick `n` (R127). -/
def Chip.subtick (s : Chip) (d sl n : Nat) : Nat :=
  if s.on (CH_SUBTICK_MODE d sl) then (if (s.slot d sl).edgeAt = some n then s.get (CH_SUBTICK_EDGE d sl) else 0)
  else s.get (CH_SUBTICK_EDGE d sl)

/-! ### Tone plans (R122, R123) -/

/-- The EFE at port `p` of die `d` declares position `pos` as a monitor input: below MONITORS of its
capability word, once that word is known (R122, R246). [log 45: DEDUCED] -/
def Chip.monitorPos (s : Chip) (d p pos : Nat) : Bool :=
  s.get (ELINK_CAP_CAP d p) == 0 || decide (pos < bitsOf (s.get (ELINK_CAP_CAP d p)) 39 9)

/-- The slots of die `d` on the EFE of port `p` that the values read by `g` would make active, among those that `v` admits
(the ones that the die serves: R113). -/
def planSlots (g : Fld → Nat) (v : Nat → Bool) (d p : Nat) : List Nat :=
  (List.range 256).map (p * 256 + ·) |>.filter (fun sl => v sl && g (CH_CTRL_EN d sl) == 1)

/-- Bin width of a slot's window in FTW units. -/
def binOf (g : Fld → Nat) (d sl : Nat) : Nat := 2 ^ (32 - min 32 (g (LP_CTRL_K d sl)))

/-- The conditions of Table 4.1 on one slot. [log 45: DEDUCED] -/
def Chip.planOne (s : Chip) (g : Fld → Nat) (d sl : Nat) : Bool :=
  let f := g (CH_FTW_FTW d sl)
  let tone := g (CH_CTRL_MODE d sl) == 0 && g (CH_CTRL_TONE_EN d sl) == 1
  decide (f ≤ 0x40000000) && (!tone || (decide (f % binOf g d sl = 0) && decide (binOf g d sl ≤ f)))
    && s.monitorPos d (s.slotPort d sl) (g (CH_MON_SEL_POS d sl)) && decide (g (CH_TEMP_SEL_SRC d sl) ≤ 16)

/-- Conditions 4 and 5 on two slots that share a monitor. -/
def planPair (g : Fld → Nat) (d a b : Nat) : Bool :=
  let ma := g (CH_CTRL_MODE d a)
  let mb := g (CH_CTRL_MODE d b)
  let fa := g (CH_FTW_FTW d a)
  let fb := g (CH_FTW_FTW d b)
  if ma = 0 ∧ mb = 0 then
    g (CH_CTRL_TONE_EN d a) == 0 || g (CH_CTRL_TONE_EN d b) == 0
      || decide (2 * max (binOf g d a) (binOf g d b) ≤ (fa - fb) + (fb - fa))
  else if ma = 1 ∧ mb = 1 then max 1 (g (CH_SEED_SEED d a)) != max 1 (g (CH_SEED_SEED d b))
  else true

/-- The slots that share slot `sl`'s monitor under the values that `g` reads, itself included. [log 44: DEDUCED] -/
def planGroup (g : Fld → Nat) (v : Nat → Bool) (d sl : Nat) : List Nat :=
  (planSlots g v d (sl / 256)).filter (fun x => g (CH_MON_SEL_POS d x) == g (CH_MON_SEL_POS d sl))

/-- Slot `sl` keeps every condition of Table 4.1; a slot that would not be active is held to R115 alone. -/
def Chip.planOk (s : Chip) (g : Fld → Nat) (v : Nat → Bool) (d sl : Nat) : Bool :=
  if v sl && g (CH_CTRL_EN d sl) == 1 then
    s.planOne g d sl && (planGroup g v d sl).all (fun x => x == sl || planPair g d sl x)
  else decide (g (CH_FTW_FTW d sl) ≤ 0x40000000)

/-- The CH registers of a slot, and the slots of die `d` with staged CH values. -/
def slotLo (d sl : Nat) : Nat := CH_CTRL d sl
def slotHi (d sl : Nat) : Nat := CH_CTRL d sl + 0x80

def Chip.stagedSlots (s : Chip) (d : Nat) : List Nat :=
  ((s.stagedIn (CH_CTRL d 0) (CH_CTRL d 2560)).map (fun a => (a - CH_CTRL d 0) / 0x80)).eraseDups

/-- The slots with staged values that share slot `sl`'s monitor: by the position that stands or by the staged one, whether
they stay active or not. [log 44: DEDUCED] -/
def Chip.stagedGroup (s : Chip) (d sl : Nat) : List Nat :=
  (s.stagedSlots d).filter (fun x => x / 256 == sl / 256 && (s.next (CH_MON_SEL_POS d x) == s.next (CH_MON_SEL_POS d sl)
    || s.get (CH_MON_SEL_POS d x) == s.next (CH_MON_SEL_POS d sl)))

/-- Slot `sl` of die `d` counts in a plan: the die serves it, or its mirror keeps it for a die out of service (R113, R355). -/
def Chip.planned (s : Chip) (d sl : Nat) : Bool :=
  s.serves d sl || (s.service d == svcSidelined && decide (sl < 2048) && s.isProt d (sl / 256))

/-- Discard the staged values of a slot whose plan breaks, and of every slot that shares its monitor. [log 44: DEDUCED] -/
def Chip.planRefuse (s : Chip) (d sl : Nat) : Chip :=
  if s.planOk s.next (s.planned d) d sl then s
  else
    let grp := (sl :: planGroup s.next (s.planned d) d sl ++ s.stagedGroup d sl).eraseDups
    let s := s.each grp fun x t => (t.dropStaged (slotLo d x) (slotHi d x)).raise (CH_EVENTS_PLAN_REFUSED d x)
    s.logF3 (CH_EVENTS d (grp.foldl min sl))

/-- Every staged slot of die `d` is checked once. -/
def Chip.planPass (s : Chip) (d : Nat) : Chip := s.each (s.stagedSlots d) fun sl t => t.planRefuse d sl

/-- At most `k` passes, until one refuses nothing: each meets the slots that a refusal of the last has put back (R123). [log 44:
DEDUCED] -/
def Chip.planPasses (d : Nat) : Nat → Chip → Chip
  | 0, s => s
  | k + 1, s =>
    let t := s.planPass d
    if (t.stagedSlots d).length = (s.stagedSlots d).length then t else Chip.planPasses d k t

/-- Check the staged plan of die `d` (R123). -/
def Chip.planCheck (s : Chip) (d : Nat) : Chip := Chip.planPasses d ((s.stagedSlots d).length + 1) s

end Sys2Proof.Machine
end

