-- ==== Sys2Proof/Machine/Loop.lean ====
section
/-!
DEFINITION. Machine/Loop.lean: element lock loops: samples, windows, filter, detectors, state changes,
trim write-back (spec/05_element_lock_loops.md, R131 to R149; spec/06_setpoint_library.md, R156, R157,
R163, R169).
-/

namespace Sys2Proof.Machine

/-! ### Loop states and sample causes (Tables 5.1, 5.2) -/

abbrev lpOff : Nat := 0
abbrev lpParked : Nat := 1
abbrev lpKick : Nat := 2
abbrev lpAcquire : Nat := 3
abbrev lpLocked : Nat := 4
abbrev lpHold : Nat := 5
abbrev lpFault : Nat := 6

abbrev causeStale : Nat := 1
abbrev causeUntimed : Nat := 2
abbrev causeOvr : Nat := 3
abbrev causeOverrun : Nat := 4
abbrev causeBypass : Nat := 5

/-- The loop acts: ACQUIRE, LOCKED or HOLD. -/
def lpLive (st : Nat) : Bool := st == lpAcquire || st == lpLocked || st == lpHold

/-- LP_STATUS shows the loop as it stands (Table 5.9). [log 66: DESIGN CHOICE] -/
def Chip.showLoop (s : Chip) (d sl : Nat) : Chip :=
  let r := s.slot d sl
  s.setReg (LP_STATUS d sl) (BitVec.ofNat 32
    (r.st + (if r.skip then 8 else 0) + 16 * r.holdCause + 128 * r.holdFrom + 256 * min 127 r.heldRun
      + (if r.clamped then 2 ^ 15 else 0) + 2 ^ 16 * min 127 r.faultRun + 2 ^ 23 * min 127 r.run
      + 2 ^ 30 * r.faultCause))

/-- The captures of LP_I, LP_Q, LP_ERR, LP_INTEG and LP_STATUS (Table 5.9). [log 66: DESIGN CHOICE] -/
def Chip.captureLoop (s : Chip) (d sl : Nat) (i q : Option Int) : Chip :=
  let r := s.slot d sl
  let s := match i with
    | some v => s.setI (LP_I_I d sl) (v / 256)
    | none => s
  let s := match q with
    | some v => s.setI (LP_Q_Q d sl) (v / 256)
    | none => s
  ((s.setI (LP_ERR_E d sl) r.lastErr).setI (LP_INTEG_INTEG d sl) r.integ).showLoop d sl

/-! ### Samples (R132, R133, R141) -/

/-- The sample of the tick just ended at position `pos` of port `p`: its value, or the cause that makes it
invalid. -/
def Chip.sampleAt (s : Chip) (d p pos : Nat) : Nat × Option Nat :=
  match tabGet (fun _ => none) s.frames (d * 16 + p) with
  | none => (0, some causeStale)
  | some f =>
    if f.cause ≠ 0 then (0, some f.cause)
    else match f.samples[pos]? with
      | none => (0, some causeStale)
      | some x =>
        if x.stale then (x.x, some causeStale)
        else if x.ovr then (x.x, some causeOvr)
        else if f.rep then (x.x, some causeOverrun)
        else (x.x, none)

/-- The sample of tick `m` lies in the excluded span of a kick (R145). -/
def SlotRec.excluded (r : SlotRec) (m : Nat) : Bool := decide (r.kickAt ≤ m) && decide (m < r.kickAt + r.kickX)

/-- An invalid sample with cause `c`: the window is held, and a loop in ACQUIRE or LOCKED holds (R141). -/
def Chip.badSample (s : Chip) (d sl c : Nat) : Chip :=
  let r := s.slot d sl
  let r := { r with wHeld := c, wOvr := r.wOvr || c == causeOvr, holdCause := c }
  if r.st = lpAcquire ∨ r.st = lpLocked then
    ((s.setSlot d sl { r with st := lpHold, holdFrom := if r.st = lpLocked then 1 else 0 }).raise (LP_EVENTS_HOLD d sl)).showLoop d sl
  else (s.setSlot d sl r).showLoop d sl

/-- The sample at position `pos` of port `p` carried OVR, whatever else makes it invalid (Table 5.9). -/
def Chip.sampleOvr (s : Chip) (d p pos : Nat) : Bool :=
  match tabGet (fun _ => none) s.frames (d * 16 + p) with
  | some f => ((f.samples[pos]?).map (·.ovr)).getD false
  | none => false

/-- Step 3 for one slot: the sample of tick `m` against the reference pair of that tick.  A sample of a tick before the slot served
its channel is none of its own (R148, R269). -/
def Chip.accumulate (s : Chip) (d sl m : Nat) (byp : Bool) : Chip :=
  if (s.slot d sl).st = lpOff ∨ m < (s.slot d sl).since then s
  else
    let p := s.slotPort d sl
    let pos := s.get (CH_MON_SEL_POS d sl)
    let x := s.sampleAt d p pos
    let bad := if byp then some causeBypass else x.2
    let s := if s.sampleOvr d p pos then s.raise (LP_EVENTS_OVERRANGE d sl) else s
    let r := { s.slot d sl with lastI := 0, lastQ := 0, lastOk := false, lastExcl := false }
    if r.excluded m then
      -- an excluded sample holds nothing, but HOLD_CAUSE shows the last invalid one (R141, R145)
      (s.setSlot d sl { r with wVoid := true, holdCause := bad.getD r.holdCause, lastExcl := bad.isNone }).showLoop d sl
    else match bad with
      | some c => (s.setSlot d sl r).badSample d sl c
      | none =>
        let p := r.refs.getD 2 (0, 0)
        let ti := roundDiv (((x.1 : Int) - 2048) * p.1) 4
        let tq := roundDiv (((x.1 : Int) - 2048) * p.2) 4
        s.setSlot d sl { r with iAcc := r.iAcc + ti, qAcc := r.qAcc + tq, lastI := ti, lastQ := tq, lastOk := true }

/-- The sample last added leaves the accumulators: it turned out invalid with cause `c` (R29, R132). -/
def Chip.discardSample (s : Chip) (d sl c : Nat) : Chip :=
  (s.modSlot d sl (fun r => { r with
    iAcc := r.iAcc - r.lastI, qAcc := r.qAcc - r.lastQ, lastI := 0, lastQ := 0, lastOk := false })).badSample d sl c

/-- The last sample, in the excluded span of a kick, turned out invalid: it holds nothing, but its cause is the last one (R141). -/
def Chip.excludedBad (s : Chip) (d sl c : Nat) : Chip :=
  (s.modSlot d sl (fun r => { r with holdCause := c, lastExcl := false })).showLoop d sl

/-- The die has entered bypass mode in the tick after the sample's: the sample is invalid (Table 5.1). -/
def Chip.bypCheck (s : Chip) (d sl : Nat) : Chip :=
  if !(s.die d).bypSeen then s
  else if (s.slot d sl).lastOk then s.discardSample d sl causeBypass
  else if (s.slot d sl).lastExcl then s.excludedBad d sl causeBypass
  else s

/-! ### Error and filter (R134, R135) -/

/-- The error of a window. -/
def Chip.windowErr (s : Chip) (d sl : Nat) (r : SlotRec) : Int :=
  let th := s.get (LP_DEMOD_PHASE_PHASE d sl) * 2 ^ 16
  roundDiv (r.iAcc * cosineAt th + r.qAcc * sineAt th) (2 ^ (s.get (LP_CTRL_K d sl) + 23))

/-- The integrator's clamp. -/
def Chip.ilim (s : Chip) (d sl : Nat) : Int := (s.get (LP_ILIM_ILIM d sl) * 2 ^ 16 : Nat)

/-- One filter run. -/
def Chip.filterRun (s : Chip) (d sl : Nat) (r : SlotRec) (e : Int) : SlotRec :=
  let lim := s.ilim d sl
  let i := clampInt (-lim) lim (r.integ + s.getI (LP_KI_KI d sl) * e)
  let c := clampInt (-32767) 32767 (roundDiv (s.getI (LP_KP_KP d sl) * e + i) (2 ^ 16))
  { r with integ := i, corr := c, clamped := decide (i = lim) || decide (i = -lim) }

/-- The lock detector on a clean window, and the event bit it sets (R140). -/
def Chip.lockDetect (s : Chip) (d sl : Nat) (r : SlotRec) (e : Int) : SlotRec × Option Fld :=
  let win := s.get (LP_WIN_WIN d sl)
  if r.st = lpAcquire then
    if e.natAbs ≤ win then
      if s.get (LP_LOCKCNT_CNT d sl) ≤ r.run + 1 then ({ r with st := lpLocked, run := 0 }, some (LP_EVENTS_LOCKED d sl))
      else ({ r with run := r.run + 1 }, none)
    else ({ r with run := 0 }, none)
  else if r.st = lpLocked then
    if 2 * win < e.natAbs then
      if s.get (LP_LOSSCNT_CNT d sl) ≤ r.run + 1 then ({ r with st := lpAcquire, run := 0 }, some (LP_EVENTS_LOCK_LOST d sl))
      else ({ r with run := r.run + 1 }, none)
    else ({ r with run := 0 }, none)
  else (r, none)

/-! ### Trim write-back (R146) -/

/-- A host write of entry `k` takes effect in the present tick, once the slot has gone to state `q` (none: to OFF). -/
def Chip.hostWins (s : Chip) (k : Nat) (q : Option Nat) : Bool :=
  s.libWrote.contains k || (keyState k != 0 && q != some (keyState k)
    && ((s.liveOf k).isSome || s.libQueue.any (fun p => p.1 == k)))

/-- Write back the learned trim of the state that slot `sl` leaves for state `q` (none: for OFF).  An entry that cannot be read
keeps what it holds. [log 86: DESIGN CHOICE] -/
def Chip.writeBack (s : Chip) (d sl : Nat) (q : Option Nat) : Chip :=
  let r := s.slot d sl
  if r.active && (r.st == lpLocked || (r.st == lpHold && r.holdFrom == 1)) && entLearn r.entry then
    match s.slotKey d sl (s.get (CH_STATE_CURRENT d sl)) with
    | none => s
    | some k =>
      if s.hostWins k q then s
      else
        let f := s.readEntry k
        match f.2 with
        | none => f.1
        | some e =>
          let t := entTrim r.entry + roundDiv r.integ (2 ^ 16)
          let t' := clampInt (-2048) 2047 t
          let v := setTrim e t'
          let s := if sl < 2048 then f.1.putEntry k v
            else f.1.mirrorBack k v
          let s : Chip := { s with trimBack := k :: s.trimBack }
          let s : Chip := if sl < 2048 then { s with trimNew := s.trimNew ++ [(k, unsignedOf 12 t')] } else s
          let s := if s.get (CH_STATE_CURRENT d sl) = 0 then s.parkChanged d sl else s
          let s := s.raise (LP_EVENTS_TRIM_WRITTEN d sl)
          if t' = t then s else s.raise (LP_EVENTS_TRIM_SAT d sl)
  else s

/-! ### State changes (R143, R144, R156, R157, R163, R169) -/

/-- Integrator policies (Table 5.4); `zero` is that of a PARK action, `take` that of a start with a restored
integrator (R298). -/
inductive Policy where
  | keep
  | reset
  | preload
  | zero
  | take (v : Int)
  deriving DecidableEq, Repr

/-- What a state change to `q` finds: the state that finally stands, its entry (none when state 0 itself
cannot be read), and whether it became a PARK action. -/
def Chip.findEntry (s : Chip) (d sl q : Nat) : Chip × Nat × Option Nat × Bool :=
  let park := fun (t : Chip) =>
    match t.slotKey d sl 0 with
    | none => (t, 0, none, true)
    | some k0 => let u := t.readEntry k0; (u.1, 0, u.2, true)
  match s.slotKey d sl q with
  | none => park ((s.raise (LIB_EVENTS_UNMAPPED d)).raiseF2 0x22 (s.chanOf d sl))
  | some k =>
    match s.readEntry k with
    | (t, some e) => (t, q, some e, false)
    | (t, none) => park (t.raiseF2 0x21 (t.chanOf d sl))

/-- The new integrator (R144). -/
def Policy.integ (p : Policy) (old : Int) (e : Nat) : Int :=
  match p with
  | .keep => old
  | .reset => -(entTrim e * (2 ^ 16 : Nat))
  | .preload => 0
  | .zero => 0
  | .take v => v

/-- TARGET takes the state of a change; a shadow that the host has written keeps its value (R129). [log 84: DEDUCED] -/
def Chip.showState (s : Chip) (d sl q : Nat) : Chip := (s.set (CH_STATE_CURRENT d sl) q).set (CH_STATE_TARGET d sl) q

/-- A state change of slot `sl` to state `q` at the coming boundary (R143); `edge` when STEP_ONLY places it (R127).  A second
change at the same boundary starts from what stood before the first.  A slot that carries its park word, because it was not active
or its state 0 is poisoned, was held at that word (R128, R157, R169). [log 46: DEDUCED] -/
def Chip.changeState (s : Chip) (d sl q : Nat) (pol : Policy) (hop : Option Nat) (park edge : Bool) : Chip :=
  let b := s.nextB
  let again := decide ((s.slot d sl).stepAt = some b) && (s.slot d sl).active
  let fresh := !(s.slot d sl).active
  let s := if again then s else s.writeBack d sl (some q)
  -- a slot that was not active leaves its state 0 entry (R169)
  let o := if fresh then (match s.slotKey d sl 0 with
    | some k => s.readEntry k
    | none => (s, none)) else (s, some (s.slot d sl).entry)
  let s := o.1
  let r0 := s.slot d sl
  let integ0 := if again then r0.integOld else if fresh then 0 else r0.integ
  let start0 := if again then r0.startOld else match (if r0.parkHeld then none else o.2) with
    | some old => entBase old + entTrim old + roundDiv integ0 (2 ^ 16)
    | none => (r0.parkWord : Int)
  let f := s.findEntry d sl q
  let s := f.1
  let park := park || f.2.2.2
  let pol := if park then Policy.zero else pol
  let r := s.slot d sl
  let edgeAt := if edge then some b else r.edgeAt
  let fault := park && (r.st == lpFault || (again && r.wasFault))
  let lim := s.ilim d sl
  let s := match f.2.2.1 with
    | none =>
      s.setSlot d sl { r with
        active := true, st := if fault then lpFault else lpParked
        wasFault := r.st == lpFault || (again && r.wasFault), integ := 0, corr := 0,
        run := 0, faultRun := 0, heldRun := 0, ovrRun := 0, wVoid := true, parkHeld := true, kick := [],
        kickAt := b, kickX := max 1 (s.get (LP_CTRL_SETTLE d sl)), startOld := start0, integOld := integ0,
        clamped := false, copyBad := false, stepAt := some b, edgeAt := edgeAt }
    | some e =>
      let i := clampInt (-lim) lim (pol.integ integ0 e)
      let start1 := entBase e + entTrim e + roundDiv i (2 ^ 16)
      let kick := if park then [] else s.kickFill d (entKick e) (start1 - start0)
      let closed := s.on (LP_CTRL_EN d sl) && entLoop e
      s.setSlot d sl { r with
        active := true, entry := e, parkHeld := false, integ := i, corr := roundDiv i (2 ^ 16),
        st := if fault then lpFault else if closed then lpKick else lpParked,
        wasFault := r.st == lpFault || (again && r.wasFault),
        run := 0, faultRun := 0, heldRun := 0, ovrRun := 0, wVoid := true, kick := kick, kickAt := b,
        kickX := max 1 (kick.length + s.get (LP_CTRL_SETTLE d sl)), startOld := start0, integOld := integ0,
        clamped := false, copyBad := false, stepAt := some b, edgeAt := edgeAt }
  let s := s.showState d sl f.2.1
  let s := match hop with
    | some m => s.noteHop d sl m
    | none => s
  s.captureLoop d sl none none

/-- The PARK action (R142). -/
def Chip.parkSlot (s : Chip) (d sl : Nat) : Chip := s.changeState d sl 0 .zero none true false

/-- An uncorrectable current-entry copy (R157): the PARK action with an F2 fault. -/
def Chip.parityPark (s : Chip) (d sl : Nat) : Chip :=
  if (s.slot d sl).active then (s.raiseF2 0x21 (s.chanOf d sl)).parkSlot d sl else s

/-- A slot becomes active and starts at TARGET under an integrator policy (R120, R128, R139, R298). -/
def Chip.enableWith (s : Chip) (d sl : Nat) (pol : Policy) : Chip :=
  let s := s.modSlot d sl (fun r => { r with
    refs := [], wHeld := 0, wOvr := false, iAcc := 0, qAcc := 0, lastOk := false, lastExcl := false, since := s.nextB
    enDue := false, toDue := none })
  ((s.changeState d sl (s.get (CH_STATE_TARGET d sl)) pol (some 3) false false)).tempFresh d sl

def Chip.enableSlot (s : Chip) (d sl : Nat) : Chip := s.enableWith d sl .preload

/-- A slot stops being active: `OFF`, with the park word (R128, R139). -/
def Chip.disableSlot (s : Chip) (d sl : Nat) : Chip :=
  if !(s.slot d sl).active then s
  else
    let s := s.writeBack d sl none
    let s := s.modSlot d sl (fun r => { r with
      active := false, st := lpOff, integ := 0, corr := 0, kick := [], kickX := 0, parkHeld := false,
      stepAt := some s.nextB, edgeAt := some s.nextB, iAcc := 0, qAcc := 0, wHeld := 0, wVoid := false, wOvr := false,
      lastOk := false, lastExcl := false, enDue := false, toDue := none, hopDue := 0, clearDue := false, copyBad := false })
    ((s.set (CH_STATE_CURRENT d sl) 0).parkLoad d sl).captureLoop d sl none none

/-! ### The end of a window (R137, R140 to R142) -/

/-- Enter FAULT with a cause; the drive follows FAULT_ACT (R142). -/
def Chip.loopFault (s : Chip) (d sl cause : Nat) : Chip :=
  let s := (s.modSlot d sl (fun r => { r with st := lpFault, faultCause := cause })).raise (LP_EVENTS_FAULT d sl)
  s.raiseF2 0x20 (s.chanOf d sl)

/-- A host value of LP_DEMOD_PHASE stands: the result of DEMOD is discarded (R283). -/
def Chip.demodOverrule (s : Chip) (d sl : Nat) : Chip :=
  if (s.slot d sl).calPhase.isSome then
    (s.modSlot d sl (fun r => { r with calPhase := none })).raise (CAL_EVENTS_OVERRULED d)
  else s

/-- A blend step of DEMOD (R282, R283): the phase moves toward the result along the shorter way; a shadow
that the host has written since the last commit overrules it. [log 84: DEDUCED] -/
def Chip.demodSlew (s : Chip) (d sl : Nat) : Chip :=
  match (s.slot d sl).calPhase with
  | none => s
  | some t =>
    let a := LP_DEMOD_PHASE d sl
    if (s.shadowOf a).isSome ∨ (s.stagedOf a).isSome then s.demodOverrule d sl
    else
      let p := s.get (LP_DEMOD_PHASE_PHASE d sl)
      let m : Nat := max 1 (s.get (CAL_DEMOD_CFG_SLEW d))
      let dist := signedOf 16 ((t + 65536 - p) % 65536)
      let step := clampInt (-(m : Int)) m dist
      let q := unsignedOf 16 ((p : Int) + step)
      (s.set (LP_DEMOD_PHASE_PHASE d sl) q).modSlot d sl (fun r => { r with calPhase := if q = t then none else r.calPhase })

/-- A window of a slot of the DEMOD run ends: a clean one in LOCKED gives its vector, until the slot has `m` of them or has given
up after 8 × `m` windows (R281). -/
def SlotRec.demodTake (r : SlotRec) (m : Nat) : SlotRec :=
  if r.calOk ∧ r.dem.n < m ∧ r.dem.wins < 8 * m then
    let c := r.dem
    let w : DemodRec := { c with wins := c.wins + 1 }
    if r.wHeld = 0 ∧ !r.wVoid ∧ r.st = lpLocked then
      { r with dem := { w with
          n := c.n + 1, si := c.si + r.iAcc, sq := c.sq + r.qAcc, sii := c.sii + r.iAcc * r.iAcc
          sqq := c.sqq + r.qAcc * r.qAcc, siq := c.siq + r.iAcc * r.qAcc } }
    else { r with dem := w }
  else r

/-- The vectors of the settled DEMOD run on die `d`. -/
def Chip.demodCollect (s : Chip) (d sl : Nat) : Chip :=
  if s.calRuns d calDemod ∧ !s.settling d then s.modSlot d sl (fun r => r.demodTake (demodWin (s.get (CAL_DEMOD_CFG_MIN_WIN d)))) else s

/-- The window in progress of slot `sl` ends on the present tick. -/
def Chip.windowEnd (s : Chip) (d sl : Nat) : Chip :=
  let s := (s.demodSlew d sl).demodCollect d sl
  let r := s.slot d sl
  let i := r.iAcc
  let q := r.qAcc
  let held := r.wHeld ≠ 0
  let clean := ¬ held ∧ ¬ r.wVoid
  let cleared := fun (x : SlotRec) => { x with iAcc := 0, qAcc := 0, wHeld := 0, wVoid := false, wOvr := false, skip := !decide clean }
  if clean then
    let e := s.windowErr d sl r
    let r := if r.st = lpHold then { r with st := if r.holdFrom = 1 then lpLocked else lpAcquire
                                            run := if r.holdFrom = 1 then r.run else 0 } else r
    let r := { r with lastErr := e }
    if r.st = lpAcquire ∨ r.st = lpLocked then
      let r := s.filterRun d sl r e
      let ld := s.lockDetect d sl r e
      let r := ld.1
      let r := { r with heldRun := 0, ovrRun := 0, faultRun := if r.clamped then min 127 (r.faultRun + 1) else 0 }
      let s := (s.setSlot d sl (cleared r)).modDie d (fun x => { x with work := x.work + 48 })
      let s : Chip := match ld.2 with
        | some f => s.raise f
        | none => s
      let s : Chip := if r.clamped ∧ s.get (LP_FAULTCNT_CNT d sl) ≤ r.faultRun then s.loopFault d sl 1 else s
      let s := s.captureLoop d sl (some i) (some q)
      if (s.slot d sl).st = lpFault ∧ ¬ s.on (LP_CTRL_FAULT_ACT d sl) then s.parkSlot d sl else s
    else (s.setSlot d sl (cleared r)).captureLoop d sl (some i) (some q)
  else if held ∧ lpLive r.st then
    let r := { r with heldRun := min 127 (r.heldRun + 1), ovrRun := if r.wOvr then r.ovrRun + 1 else 0 }
    let hm := s.get (LP_OVRCNT_HOLD_MAX d sl)
    let cause := if s.get (LP_OVRCNT_OVR d sl) < r.ovrRun then 2 else if hm ≠ 0 ∧ hm ≤ r.heldRun then 3 else 0
    let s := s.setSlot d sl (cleared r)
    let s := if cause ≠ 0 then s.loopFault d sl cause else s
    let s := s.captureLoop d sl (some i) (some q)
    if cause ≠ 0 ∧ ¬ s.on (LP_CTRL_FAULT_ACT d sl) then s.parkSlot d sl else s
  else (s.setSlot d sl (cleared r)).captureLoop d sl (some i) (some q)

/-- The slot's window ends on tick `n` (R26). -/
def Chip.endsOn (s : Chip) (d sl n : Nat) : Bool := (n + sl) % 2 ^ s.get (LP_CTRL_K d sl) == 0

/-! ### Other transitions -/

/-- Boundary B + X has come (R145). -/
def Chip.kickEnd (s : Chip) (d sl : Nat) : Chip :=
  let r := s.slot d sl
  if r.st = lpKick ∧ r.kickAt + r.kickX ≤ s.tick then (s.setSlot d sl { r with st := lpAcquire, run := 0 }).showLoop d sl else s

def execKickEnd (d : Fin 8) (sl : Fin 2560) (s : State) : Host.Outcome State Fault Refusal :=
  s.act fun c => if c.runs d then c.kickEnd d sl else c

/-- A write of LP_CTRL.CLEAR to a slot in FAULT is accepted; it acts in step 5 (R142). -/
def Chip.loopClear (s : Chip) (d sl : Nat) : Chip :=
  if (s.slot d sl).st = lpFault then s.modSlot d sl (fun r => { r with clearDue := true }) else s

def execLoopClear (d : Fin 8) (sl : Fin 2560) (s : State) : Host.Outcome State Fault Refusal :=
  s.act fun c => if c.open d then c.loopClear d sl else c

/-- Step 5: an accepted CLEAR. -/
def Chip.clearNow (s : Chip) (d sl : Nat) : Chip :=
  let r := s.slot d sl
  let closed := s.on (LP_CTRL_EN d sl) && entLoop r.entry
  if !r.clearDue then s
  else if r.st = lpFault then
    (s.setSlot d sl { r with st := if closed then lpAcquire else lpParked, integ := 0, clearDue := false,
                             corr := if closed then r.corr else 0, wVoid := true, clamped := false,
                             run := 0, faultRun := 0, heldRun := 0, ovrRun := 0 }).captureLoop d sl none none
  else s.setSlot d sl { r with clearDue := false }

/-- The ranges of Table 5.9 on the values that `g` reads (R147). -/
def loopValid (g : Fld → Nat) (d sl : Nat) : Bool :=
  decide (4 ≤ g (LP_CTRL_K d sl)) && decide (g (LP_CTRL_K d sl) ≤ 12) && g (LP_WIN_WIN d sl) != 0
    && g (LP_LOCKCNT_CNT d sl) != 0 && g (LP_LOSSCNT_CNT d sl) != 0 && g (LP_FAULTCNT_CNT d sl) != 0
    && g (LP_OVRCNT_OVR d sl) != 0 && g (LP_ILIM_ILIM d sl) != 0

/-- Discard the staged loop values of a slot that lie outside their ranges. -/
def Chip.loopCheck (s : Chip) (d sl : Nat) : Chip :=
  let lo := LP_CTRL d sl
  if (s.stagedIn lo (lo + 0x40)).isEmpty || loopValid s.next d sl then s
  else (s.dropStaged lo (lo + 0x40)).raiseF3 (LP_EVENTS_CFG_REFUSED d sl)

/-- A change of LP_CTRL.EN from `en0`, at boundary C − 1 (R139); `PARKED` has no transition for EN = 0. -/
def Chip.loopEn (s : Chip) (d sl : Nat) (en0 : Bool) : Chip :=
  let en := s.on (LP_CTRL_EN d sl)
  if en = en0 then s
  else
    let s := s.modSlot d sl (fun r => { r with wVoid := true })
    let r := s.slot d sl
    let stop := !en && r.st != lpParked
    let go := en && r.st == lpParked && entLoop r.entry && !r.parkHeld
    if stop || go then
      (s.setSlot d sl { r with
        st := if stop then lpParked else lpAcquire, integ := 0, corr := 0, run := 0, faultRun := 0, heldRun := 0, ovrRun := 0
        clamped := false }).captureLoop d sl none none
    else s

/-- Load the staged CH values of slot `sl` at boundary C − 1 (R128, R139, R147); what takes its effect at boundary C is left
to step 5 of tick C − 1 (R120, R129, R143). -/
def Chip.slotLoad (s : Chip) (d sl : Nat) : Chip :=
  let lo := slotLo d sl
  if (s.stagedIn lo (slotHi d sl)).isEmpty then s
  else
    let k0 := s.get (LP_CTRL_K d sl)
    let en0 := s.on (LP_CTRL_EN d sl)
    let mode0 := s.get (CH_CTRL_MODE d sl)
    let ftw0 := s.get (CH_FTW_FTW d sl)
    let src0 := s.get (CH_TEMP_SEL_SRC d sl)
    let tone := (s.stagedIn lo (lo + 0x10)).any s.changes
    let target := (s.stagedOf (CH_STATE d sl)).isSome
    let cur := s.get (CH_STATE_CURRENT d sl)
    -- a host value of LP_DEMOD_PHASE overrules a blend and ends a DEMOD run (R276, R283)
    let s := if (s.stagedOf (LP_DEMOD_PHASE d sl)).isSome then (s.calAbort d calDemod 4).demodOverrule d sl else s
    -- CURRENT is the device's: a staged CH_STATE carries TARGET only
    let s := (s.loadStaged lo (slotHi d sl)).set (CH_STATE_CURRENT d sl) cur
    let s := if s.get (CH_TEMP_SEL_SRC d sl) ≠ src0 then s.tempFresh d sl else s
    let r := s.slot d sl
    if r.active ∧ ¬ s.on (CH_CTRL_EN d sl) then s.disableSlot d sl
    else if ¬ r.active then
      (if s.on (CH_CTRL_EN d sl) ∧ s.serves d sl then s.modSlot d sl (fun r => { r with enDue := true }) else s)
    else
      let mode := s.get (CH_CTRL_MODE d sl) != mode0
      let m := if mode then 3 else if s.on (CH_CTRL_HOP d sl) then 2 else 1
      let s := if s.get (CH_FTW_FTW d sl) ≠ ftw0 then s.modSlot d sl (fun r => { r with ftwPrev := some ftw0 }) else s
      let s := if tone then s.noteHop d sl m else s
      let s := if s.get (LP_CTRL_K d sl) ≠ k0 then
          s.modSlot d sl (fun r => { r with
            iAcc := 0, qAcc := 0, lastI := 0, lastQ := 0, lastOk := false, lastExcl := false, wVoid := true, wHeld := 0
            wOvr := false })
        else s
      let s := s.loopEn d sl en0
      if target ∧ s.get (CH_STATE_TARGET d sl) ≠ cur then
        s.modSlot d sl (fun r => { r with toDue := some (s.get (CH_STATE_TARGET d sl), s.on (CH_CTRL_HOP d sl)) })
      else s

/-- Step 5 of tick C − 1 for a slot that a commit has loaded: it becomes active, or changes its state (R129, R139, R143). -/
def Chip.slotSwitch (s : Chip) (d sl : Nat) : Chip :=
  let r := s.slot d sl
  if r.enDue then
    if s.on (CH_CTRL_EN d sl) ∧ s.serves d sl ∧ !r.active then s.enableSlot d sl
    else s.modSlot d sl (fun r => { r with enDue := false })
  else match r.toDue with
    | some (q, reset) =>
      let s := s.modSlot d sl (fun r => { r with toDue := none })
      if r.active then s.changeState d sl q .preload (some (if reset then 2 else 1)) false true else s
    | none => s

/-- The slots that wait for step 5: die and slot. -/
def Chip.slotsDue (s : Chip) : List (Nat × Nat) :=
  (s.slots.filter (fun p => p.2.enDue || p.2.toDue.isSome)).map (fun p => (p.1 / 4096, p.1 % 4096))

/-- The commit's part of step 5: before the volleys of the boundary (R36). -/
def Chip.commitSwitch (s : Chip) : Chip := s.each s.slotsDue fun x t => t.slotSwitch x.1 x.2

/-! ### Records for covering (R148, R161) -/

/-- The loop record that slot `sl` would send now. -/
def Chip.loopRecordOf (s : Chip) (d sl : Nat) : LoopRecord :=
  let r := s.slot d sl
  ⟨r.st, r.holdFrom, r.integ, r.corr, r.run, r.faultRun, r.kickAt⟩

/-- The standby record of a slot's last state change; a slot that carries its park word says so (R157). -/
def Chip.standbyRecordOf (s : Chip) (d sl : Nat) : StandbyRecord :=
  let r := s.slot d sl
  let held := if r.parkHeld then some r.parkWord else none
  let start : Int := if r.parkHeld then (r.parkWord : Int) else entBase r.entry + entTrim r.entry + roundDiv r.integ (2 ^ 16)
  ⟨held, r.entry, s.get (CH_STATE_CURRENT d sl), r.kickAt, start - r.startOld, entKick r.entry, r.kick⟩

/-- The backup die receives the loop record of channel `c` and keeps the latest. -/
def Chip.recvLoop (s : Chip) (c : Nat) : Chip :=
  let d := chanDie c
  let sl := chanSlot c
  if s.isProt d (sl / 256) ∧ (s.slot d sl).active then
    { s with loopRecs := tabPut (fun _ => none) s.loopRecs c (some (s.loopRecordOf d sl)) }
  else s

def execLoopRecord (c : Fin 16384) (s : State) : Host.Outcome State Fault Refusal :=
  s.act fun x => if x.inService (chanDie c) then x.recvLoop c else x

/-- The backup die receives the standby record of channel `c`. -/
def Chip.recvStandby (s : Chip) (c : Nat) : Chip :=
  let d := chanDie c
  let sl := chanSlot c
  if s.isProt d (sl / 256) ∧ (s.slot d sl).active then
    { s with standbyRecs := tabPut (fun _ => none) s.standbyRecs c (some (s.standbyRecordOf d sl)) }
  else s

def execStandbyRecord (c : Fin 16384) (s : State) : Host.Outcome State Fault Refusal :=
  s.act fun x => if x.inService (chanDie c) then x.recvStandby c else x

/-- Step 4 for slot `sl`: its window ends on the present tick, once. -/
def Chip.windowOnce (s : Chip) (d sl : Nat) : Chip :=
  let s := s.bypCheck d sl
  if (s.slot d sl).active ∧ s.endsOn d sl s.tick ∧ (s.slot d sl).endedAt ≠ some s.tick then
    (s.modSlot d sl (fun r => { r with endedAt := some s.tick })).windowEnd d sl
  else s

def execLoopWindowEnd (d : Fin 8) (sl : Fin 2560) (s : State) : Host.Outcome State Fault Refusal :=
  s.act fun c => if c.inService d then c.windowOnce d sl else c

end Sys2Proof.Machine
end

