-- ==== Sys2Proof/Machine/Links.lean ====
section
/-!
DEFINITION. Machine/Links.lean: element link ports: negotiation, training, uplink frames, the control slot
and the proxy (spec/09_element_links.md).
-/

namespace Sys2Proof.Machine

/-! ### Ports -/

abbrev ports16 : List Nat := List.range 16

def Chip.port (s : Chip) (d p : Nat) : PortRec := tabGet (fun _ => {}) s.ports (d * 16 + p)
def Chip.setPort (s : Chip) (d p : Nat) (r : PortRec) : Chip :=
  { s with ports := tabPut (fun _ => {}) s.ports (d * 16 + p) r }
def Chip.modPort (s : Chip) (d p : Nat) (f : PortRec → PortRec) : Chip := s.setPort d p (f (s.port d p))

def Chip.el (s : Chip) (d p : Nat) : Nat := s.get (ELINK_STATUS_STATE d p)

/-- The port carries frames: ACTIVE or WARM. -/
def Chip.elUp (s : Chip) (d p : Nat) : Bool := s.el d p == elActive || s.el d p == elWarm

/-- Home die and EFE index of the EFE at port `p` of die `d` (R18). -/
def Chip.efeAt (s : Chip) (d p : Nat) : Nat × Nat :=
  if p < 8 then (d, p) else (homeOf s.dieCount d (p - 8), p - 8)

/-- The port leads to an EFE: a backup port only when the EFE is protected (R268). [log 70: DEDUCED] -/
def Chip.portUsable (s : Chip) (d p : Nat) : Bool :=
  decide (p < 8) || s.isProt (s.efeAt d p).1 (p - 8)

/-- Backup port `p` of die `d` serves its EFE. -/
def Chip.covering (s : Chip) (d p : Nat) : Bool := s.on (ELINK_STATUS_COVERING d p)

/-- The die serves the port's EFE (Table 9.13). -/
def Chip.portServes (s : Chip) (d p : Nat) : Bool :=
  if p < 8 then s.inService d else s.covering d p

/-- Enter a port state, and show it in ELINK_SUMMARY; UP whenever ACTIVE or WARM is entered. -/
def Chip.setEl (s : Chip) (d p st : Nat) : Chip :=
  let up := st = elActive ∨ st = elWarm
  let m := s.get (ELINK_SUMMARY_UP d)
  let t := (s.set (ELINK_STATUS_STATE d p) st).set (ELINK_SUMMARY_UP d) (if up then maskSet m p else maskClear m p)
  let t := if up then (t.set ⟨CLK_XING_STATUS d, 16 + p, 1⟩ 0) else t
  if up ∧ s.el d p ≠ st then t.raise (ELINK_EVENTS_UP d p) else t

/-! ### Rates and widths (R237, R243) -/

/-- Positions, downlink and uplink TICK blocks of a width code (Table 9.6). -/
def widthPos (w : Nat) : Nat := 256 / 2 ^ w
def blocksDown (w : Nat) : Nat := (19 * widthPos w + 63) / 64 + 4
def blocksUp (w : Nat) : Nat := (14 * widthPos w + 63) / 64 + 5

/-- Unit interval in picoseconds of rate index 0 to 2. -/
def uiPs (r : Nat) : Nat := 640 / 2 ^ r

/-- R243 for a tick of `ns`, width code, rate index, DELAY and READY_NS in nanoseconds. [log 48: DESIGN CHOICE] -/
def fits (ns w r delay ready : Nat) : Bool :=
  decide ((blocksDown w + 2) * 66 * uiPs r ≤ (ns - 32) * 1000)
    && decide (delay * ns * 1000 + 256 * (ready * 1000 + blocksUp w * 66 * uiPs r) ≤ 256 * ((ns - 32) * 1000))

/-- Fields of a capability word (Table 9.10). -/
def capVersion (c : Nat) : Nat := bitsOf c 60 4
def capRates (c : Nat) : Nat := bitsOf c 57 3
def capChannels (c : Nat) : Nat := bitsOf c 48 9
def capMonitors (c : Nat) : Nat := bitsOf c 39 9
def capGroup (c : Nat) : Nat := bitsOf c 30 9
def capOvrRec (c : Nat) : Nat := bitsOf c 26 4
def capHold (c : Nat) : Nat := bitsOf c 18 8
def capReady (c : Nat) : Nat := 4 * bitsOf c 10 8
def capSensors (c : Nat) : Nat := bitsOf c 5 5

/-- Rate indices common to both ends, not failed, that meet R243; ascending. [log 48: DESIGN CHOICE] -/
def Chip.ratesFor (s : Chip) (d p cap delay ready : Nat) : List Nat :=
  [0, 1, 2].filter fun r => maskBit (s.get (ELINK_CTRL_RATE_EN d p)) r && maskBit (capRates cap) r
    && !maskBit (s.port d p).failed r && fits s.tickNs (s.get (ELINK_CTRL_WIDTH d p)) r delay ready

/-! ### Commands to the EFE (R259, R261, R267) -/

/-- The host command completes (R267). -/
def Chip.efeComplete (s : Chip) (d p result data : Nat) (win ovr : Bool) (tag : Nat) : Chip :=
  let t := (s.setReg (EFE_RSP d p) (BitVec.ofNat 32 (2 ^ 30 + 2 ^ 16 * result + (if win then 512 else 0)
    + (if ovr then 256 else 0) + tag % 256))).set (EFE_RSP_DATA_DATA d p) data
  (t.modPort d p (fun r => { r with host := none, spotSince := none })).raise (EFE_EVENTS_CMD_DONE d)

/-- The slots of die `d` on port `p` take no part in the DEMOD run (R281). -/
def Chip.calDropPort (s : Chip) (d p : Nat) : Chip :=
  let ks := (s.activeSlots d).filter (fun sl => s.slotPort d sl == p)
  (s.each ks fun sl t => t.modSlot d sl (fun r => { r with calOk := false })).modPort d p
    (fun r => { r with calSpots := [], calHold := false, calCount := 0 })

/-- The answer `x` to a conversion of monitor input `k` by the settling check: none when it brought no sample.
The slots on an input whose two values differ by more than 16 are out (R281). [log 43: DESIGN CHOICE] -/
def Chip.calSpot (s : Chip) (d p k : Nat) (x : Option Nat) : Chip :=
  let good := match x, (s.port d p).spotMain with
    | some v, some m => decide (v ≤ m + 16) && decide (m ≤ v + 16)
    | _, _ => false
  let ks := (s.activeSlots d).filter (fun sl => s.slotPort d sl == p && s.get (CH_MON_SEL_POS d sl) == k)
  let s := if good then s else s.each ks fun sl t => t.modSlot d sl (fun r => { r with calOk := false })
  s.modPort d p (fun r => if r.calSpots.isEmpty then
    { r with calHold := false, calCount := 0, spotMain := none, spotSince := none } else { r with spotMain := none })

/-- Everything outstanding ends with the link (R267); the die's own commands are dropped. -/
def Chip.efeFlush (s : Chip) (d p : Nat) : Chip :=
  let r := s.port d p
  let hostTag := match r.out with
    | some o => if o.host then some o.tag else if r.host.isSome then some r.tag else none
    | none => if r.host.isSome then some r.tag else none
  let t := s.setPort d p { r with out := none, own := [], passNext := 0, passEnd := 0, host := none }
  let t := if r.calHold || !r.calSpots.isEmpty then t.calDropPort d p else t
  match hostTag with
  | some g => t.efeComplete d p 0x82 0 false false g
  | none => t

/-- Start the pass of park and band writes (R261). -/
def Chip.startPass (s : Chip) (d p : Nat) : Chip :=
  let c := s.get (ELINK_CAP_CAP d p)
  s.modPort d p (fun r => { r with passNext := 0, passEnd := capChannels c + capMonitors c })

/-- The slot of die `d` that drives position `pos` of port `p`: a bench slot on a covering backup port. -/
def Chip.slotOf (s : Chip) (d p pos : Nat) : Nat :=
  if p < 8 then p * 256 + pos
  else if s.on (DIE_COVER_H0_ACTIVE d) ∧ s.get (DIE_COVER_H0_EFE d) = p - 8 then 2048 + pos
  else 2304 + pos

/-- The park word of a position: that of its slot (R128). -/
def Chip.parkWordOf (s : Chip) (d p pos : Nat) : Nat := (s.slot d (s.slotOf d p pos)).parkWord

/-- Write `i` of the pass. [log 49: DEDUCED] -/
def Chip.passCmd (s : Chip) (d p i : Nat) : EfeCmd :=
  let c := capChannels (s.get (ELINK_CAP_CAP d p))
  if i < c then ⟨2, 0x100 + i, s.parkWordOf d p i⟩ else ⟨2, 0x200 + (i - c), (s.reg (EFE_WIN d p (i - c))).toNat⟩

/-- Send a command in the frame of tick `n`. -/
def Chip.efeSend (s : Chip) (d p n : Nat) (c : EfeCmd) (host : Bool) : Chip :=
  s.modPort d p (fun r => { r with out := some ⟨c, (r.tag + 1) % 256, host, n, 1⟩, tag := (r.tag + 1) % 256 })

/-- The control slot of the frame of tick `n`: the pass first, then the die's own commands, then the host's.  A frame of each tick
may carry one, for the answer to the last has come by the time it is composed (R259, R261). [log 49: DEDUCED] -/
def Chip.efeNext (s : Chip) (d p n : Nat) : Chip :=
  let r := s.port d p
  if r.out.isSome then s
  else if r.passNext < r.passEnd then
    (s.modPort d p (fun r => { r with passNext := r.passNext + 1 })).efeSend d p n (s.passCmd d p r.passNext) false
  else match r.own with
    | c :: rest => (s.modPort d p (fun r => { r with own := rest })).efeSend d p n c false
    | [] =>
      let sendHost := fun (c : EfeCmd) =>
        (s.modPort d p (fun r => { r with host := none, spotSince := none, calCount := 0 })).efeSend d p n c true
      match r.calSpots, r.host with
      | k :: rest, h =>
        -- the settling check waits for a pending host command, and lets one go after every 32 conversions
        if h.isSome ∧ (¬ r.calHold ∨ 32 ≤ r.calCount) then
          match h with
          | some c => sendHost c
          | none => s
        else
          (s.modPort d p (fun r => { r with calSpots := rest, calHold := true, calCount := r.calCount + 1 })).efeSend
            d p n ⟨3, k, 256⟩ false
      | [], some c => if r.calHold ∧ c.op = 3 then s else sendHost c
      | [], none => s

/-- A response with the outstanding tag completes the command; the die's own needs nothing further. -/
def Chip.efeRespond (s : Chip) (d p tag result data : Nat) (win ovr : Bool) : Chip :=
  match (s.port d p).out with
  | some o =>
    if o.tag = tag then
      let t := s.modPort d p (fun r => { r with out := none })
      if o.host then t.efeComplete d p result data win ovr tag
      else if o.cmd.op = 3 then t.calSpot d p o.cmd.addr (if result = 0 then some (data % 4096) else none)
      else t
    else s
  | none => s

/-- Four ticks without a response: send again, or end with TIMEOUT after three sends (R267). -/
def Chip.efeRetry (s : Chip) (d p : Nat) : Chip :=
  match (s.port d p).out with
  | some o =>
    if s.tick < o.sent + 4 then s
    else if o.tries < 3 then s.modPort d p (fun r => { r with out := some { o with sent := s.comingB, tries := o.tries + 1 } })
    else
      let t := s.modPort d p (fun r => { r with out := none })
      if o.host then t.efeComplete d p 0x80 0 false false o.tag
      else if o.cmd.op = 3 then t.calSpot d p o.cmd.addr none
      else t
  | none => s

def execEfeCmdRetry (d : Fin 8) (p : Fin 16) (s : State) : Host.Outcome State Fault Refusal :=
  s.act fun c => if c.runs d then c.efeRetry d p else c

/-- A write of EFE_p_CMD (R267). -/
def Chip.efeWrite (s : Chip) (d p : Nat) (v : Word) : Chip :=
  let op := v.toNat % 64
  if ¬ maskBit v.toNat 31 then s.set (EFE_CMD_OPCODE d p) op
  else if s.on (EFE_RSP_BUSY d p) then s.raise (EFE_EVENTS_CMD_REFUSED d)
  else
    let s := s.set (EFE_CMD_OPCODE d p) op
    let a := s.get (EFE_ADDR_ADDR d p)
    let tag := (s.port d p).tag
    if !s.elUp d p then (s.efeComplete d p 0x82 0 false false tag).raise (EFE_EVENTS_CMD_REFUSED d)
    else if op = 2 ∧ 0x100 ≤ a ∧ a < 0x200 then
      (s.efeComplete d p 0x83 0 false false tag).raise (EFE_EVENTS_CMD_REFUSED d)
    else
      let hold := op = 3 ∧ (s.port d p).calHold
      (s.set (EFE_RSP_BUSY d p) 1).modPort d p (fun r => { r with
        host := some ⟨op, a, s.get (EFE_DATA_DATA d p)⟩, spotSince := if hold then some s.tick else none })

/-- A GO of the proxy with an opcode that `f` admits. -/
def efeGo (d p : Nat) (v : Word) (f : Nat → Bool) (c : Chip) : Chip :=
  if c.open d ∧ f (v.toNat % 64) then c.efeWrite d p (v ||| 0x80000000) else c

def execEfeCmdNop (d : Fin 8) (p : Fin 16) (v : Word) (s : State) : Host.Outcome State Fault Refusal :=
  s.act (efeGo d p v (· == 0))
def execEfeCmdRead (d : Fin 8) (p : Fin 16) (v : Word) (s : State) : Host.Outcome State Fault Refusal :=
  s.act (efeGo d p v (· == 1))
def execEfeCmdWrite (d : Fin 8) (p : Fin 16) (v : Word) (s : State) : Host.Outcome State Fault Refusal :=
  s.act (efeGo d p v (· == 2))
def execEfeCmdSpot (d : Fin 8) (p : Fin 16) (v : Word) (s : State) : Host.Outcome State Fault Refusal :=
  s.act (efeGo d p v (· == 3))
def execEfeCmdEcho (d : Fin 8) (p : Fin 16) (v : Word) (s : State) : Host.Outcome State Fault Refusal :=
  s.act (efeGo d p v (· == 4))
def execEfeCmdOther (d : Fin 8) (p : Fin 16) (v : Word) (s : State) : Host.Outcome State Fault Refusal :=
  s.act (efeGo d p v (fun o => decide (5 ≤ o)))

/-- A host SPOT held for more than 64 ticks (R285). -/
def Chip.spotTimeout (s : Chip) (d p : Nat) : Chip :=
  match (s.port d p).spotSince with
  | some n =>
    if n + 64 < s.tick then (s.efeComplete d p 0x81 0 false false (s.port d p).tag).raise (CAL_EVENTS_BUSY_CAL d) else s
  | none => s

def execSpotHoldTimeout (d : Fin 8) (p : Fin 16) (s : State) : Host.Outcome State Fault Refusal :=
  s.act fun c => if c.runs d then c.spotTimeout d p else c

/-! ### Port transitions (R245 to R249) -/

/-- The commands that a port holds: writes of the pass and of the die still to send, the one outstanding, the host's. -/
def PortRec.queued (r : PortRec) : Nat :=
  (r.passEnd - r.passNext) + r.own.length + r.calSpots.length + (if r.out.isSome then 1 else 0) + (if r.host.isSome then 1 else 0)

/-- Leave ACTIVE or WARM: commands end, the crossing is flushed, with those commands and `n` more items in it (R110, R249, R267). -/
def Chip.portDrop (s : Chip) (d p n : Nat) : Chip :=
  let n := (s.port d p).queued + n
  let t := ((s.calPortLost d p).efeFlush d p).modPort d p (fun r => { r with badRun := 0, adoptLeft := 0, parkDue := none, caps := none })
  ((t.set (ELINK_STATUS_ADOPTING d p) 0).set (ELINK_STATUS_EFE_ACTIVE d p) 0).farReset d (16 + p) n

/-- The die's capability word on port `p` (Table 9.11). -/
def Chip.dieCap (s : Chip) (d p : Nat) : Nat :=
  2 ^ 60 + s.get (ELINK_CTRL_RATE_EN d p) * 2 ^ 57 + s.get (ELINK_CTRL_WIDTH d p) * 2 ^ 55 + s.get PKG_TICK_CFG_PERIOD * 2 ^ 52
    + (if p < 8 then 0 else 2 ^ 51) + d * 2 ^ 48 + (s.efeAt d p).2 * 2 ^ 45 + (s.efeAt d p).1 * 2 ^ 42

/-- The frame that port `p` sends in CAPS and in TRAIN; `go` with GO = 1 (R235, R238, R247, R248). -/
def Chip.negFrame (s : Chip) (d p : Nat) (go : Bool) : Option NegFrame :=
  let w := s.get (ELINK_CTRL_WIDTH d p)
  let r := s.port d p
  if s.el d p = elCaps then some ⟨2, w, r.capsSeen, s.dieCap d p⟩
  else if s.el d p = elTrain ∧ r.phase = 0 then some ⟨3, w, false, r.rate * 2 ^ 61 + (if go then 2 ^ 60 else 0)⟩
  else if s.el d p = elTrain ∧ r.phase = 2 ∧ s.on (ELINK_STATUS_LOCK d p) then
    some ⟨4, w, false, (if r.errors = 0 then 2 ^ 63 else 0) + min r.errors (2 ^ 32 - 1)⟩
  else none

/-- Port `p` sends that frame. -/
def Chip.sendNeg (s : Chip) (d p : Nat) (go : Bool) : Chip :=
  match s.negFrame d p go with
  | some f => s.modPort d p (fun r => { r with sent := some f })
  | none => s

/-- SYNC: idle blocks at 1.5625 Gb/s (Table 9.13). -/
def Chip.portSync (s : Chip) (d p : Nat) : Chip :=
  let t := s.modPort d p (fun r => { r with caps := none, capsSeen := false, phase := 0, rate := 0 })
  ((t.setEl d p elSync).set (ELINK_STATUS_LOCK d p) 0).set (ELINK_STATUS_RATE d p) 1

/-- FAILED with a cause: an F2 fault for the EFE (R249). -/
def Chip.portFail (s : Chip) (d p cause : Nat) : Chip :=
  let t := ((s.setEl d p elFailed).set (ELINK_STATUS_CAUSE d p) cause).raise (ELINK_EVENTS_FAILED d p)
  (t.raiseF2 0x23 (d * 256 + p)).modPort d p (fun r => { r with failed := 0, caps := none })

/-- OFF: EN = 0, or the die has left service.  The queued commands, and the frame that waits with them, are discarded and
counted (R271, R110). [log 90: DESIGN CHOICE] -/
def Chip.portOff (s : Chip) (d p : Nat) : Chip :=
  let t := if s.elUp d p then s.portDrop d p 1 else s
  (((t.setEl d p elOff).set (ELINK_STATUS_RATE d p) 0).set (ELINK_STATUS_LOCK d p) 0).modPort d p
    (fun r => { r with failed := 0, caps := none })

/-- Die `d` rejoins: its primary ports train while its EFEs remain driven through their backup ports (R357). -/
def Chip.rejoining (s : Chip) (d : Nat) : Bool := (tabGet (fun _ => ({} : RejoinRec)) s.fault.rejoins d).on

/-- An enabled port of a die in service, or of one that rejoins, leaves OFF (Table 9.13). -/
def Chip.portStart (s : Chip) (d p : Nat) : Chip :=
  if s.el d p = elOff ∧ s.on (ELINK_CTRL_EN d p) ∧ (s.inService d ∨ s.rejoining d) ∧ s.portUsable d p then
    ((s.portSync d p).set (ELINK_STATUS_CAUSE d p) 0).set (ELINK_STATUS_ROLE d p) (if p < 8 then 0 else 1)
  else s

/-- Loss of the link in ACTIVE or WARM (R249). -/
def Chip.linkLoss (s : Chip) (d p : Nat) : Chip :=
  if s.elUp d p then
    let t := (s.raiseF3 (ELINK_EVENTS_DOWN d p)).bump (ELINK_RETRAIN_CNT_COUNT d p)
    ((t.portDrop d p 0).portSync d p).set (ELINK_STATUS_CAUSE d p) 9
  else s

/-- A write of ELINK_p_CTRL.RETRAIN (R245). -/
def Chip.retrain (s : Chip) (d p : Nat) : Chip :=
  if s.elUp d p then ((s.bump (ELINK_RETRAIN_CNT_COUNT d p)).portDrop d p 0).portSync d p else s

/-- Entry into ACTIVE, with first boundary `a` when it is the port's first: eight ADOPT frames and the pass of writes; a
parked EFE that was served up to now is an unordered park (R261, R266, R298).  The frame of the tick in progress may have had
to start already, so the first one is that of boundary `a`. [log 47: DEDUCED] -/
def Chip.portActive (s : Chip) (d p : Nat) : Chip :=
  let r := s.port d p
  let parked := decide (r.capsStatus / 8 % 4 ≠ 0)
  let t := (s.setEl d p elActive).set (ELINK_STATUS_ADOPTING d p) 1
  let t := t.modPort d p (fun r => { r with
    adoptLeft := 9, failed := 0, badRun := 0,
    firstA := if r.firstA.isNone then some (s.tick + 2) else r.firstA,
    parkDue := if parked ∧ r.firstA.isSome ∧ ¬ s.on (ELINK_CTRL_PARK d p) ∧ ¬ r.parkCmd then some (s.tick + 2) else none })
  let t := if r.firstA.isNone ∧ p < 8 then t.parkAll d (p * 256) else t
  (t.startPass d p).set (ELINK_STATUS_CAUSE d p) 0

/-- Entry into WARM. -/
def Chip.portWarm (s : Chip) (d p : Nat) : Chip :=
  ((s.setEl d p elWarm).set (ELINK_STATUS_ADOPTING d p) 0).modPort d p
    (fun r => { r with adoptLeft := 0, failed := 0, badRun := 0, parkDue := none })

/-- Block lock: SYNC to CAPS, or the wait for RESULT frames in training (R245, R248). -/
def Chip.blockLock (s : Chip) (d p : Nat) : Chip :=
  if s.el d p = elSync then ((s.setEl d p elCaps).set (ELINK_STATUS_LOCK d p) 1).sendNeg d p false
  else if s.el d p = elTrain ∧ (s.port d p).phase = 2 then (s.set (ELINK_STATUS_LOCK d p) 1).sendNeg d p false
  else s

def execBlockLock (d : Fin 8) (p : Fin 16) (s : State) : Host.Outcome State Fault Refusal :=
  s.act fun c => if c.runs d then c.blockLock d p else c

/-- The enabled slots of the port's EFE: of its home die (R247). -/
def Chip.efeSlots (s : Chip) (d p : Nat) : List (Nat × Nat) :=
  let h := s.efeAt d p
  ((s.enabledSlots h.1).filter (fun sl => decide (sl < 2048) && sl / 256 == h.2)).map (fun sl => (h.1, sl))

/-- The refusal cause of a capability word, 0 for an accepted one (R247). [log 48: DESIGN CHOICE] -/
def Chip.capCause (s : Chip) (d p cap : Nat) : Nat :=
  let sl := s.efeSlots d p
  let bad9 := fun v => decide (v = 0) || decide (256 < v)
  if capVersion cap ≠ 1 then 1
  else if bad9 (capChannels cap) || bad9 (capMonitors cap) || bad9 (capGroup cap) || capHold cap == 0
      || decide (16 < capSensors cap) then 10
  else if sl.any (fun x => decide (capChannels cap ≤ x.2 % 256)) then 2
  else if sl.any (fun x => decide (capMonitors cap ≤ s.get (CH_MON_SEL_POS x.1 x.2))) then 3
  else if (s.ratesFor d p cap 0 0).isEmpty then 4
  else if (s.ratesFor d p cap (s.get (ELINK_CTRL_DELAY d p)) (capReady cap)).isEmpty then 5
  else if !maskBit cap 4 && sl.any (fun x => (s.reg (CH_SUBTICK x.1 x.2)) != 0) then 6
  else if !maskBit cap 3 && (List.range 256).any (fun i => s.on (EFE_WIN_EN d p i)) then 6
  else if !maskBit cap 2 && maskBit (s.get (CAL_CTRL_ITEM_EN d)) calDemod then 6
  else 0

/-- The highest usable rate, for training. -/
def Chip.bestRate (s : Chip) (d p : Nat) : Option Nat :=
  let cap := s.get (ELINK_CAP_CAP d p)
  (s.ratesFor d p cap (s.get (ELINK_CTRL_DELAY d p)) (capReady cap)).getLast?

/-- The status byte and UNTIMED of an uplink frame of any kind (R236, Table 9.5). -/
def Chip.takeStatus (s : Chip) (d p : Nat) (h : Sys2Proof.UpHead) : Chip :=
  let st := h.status.toNat
  let s := (s.set (ELINK_EFE_STATUS d p) st).setB (ELINK_EFE_UNTIMED d p) h.untimed
  let s := if h.untimed then s.raise (ELINK_EVENTS_UNTIMED d p) else s
  let s := if maskBit st 2 then (s.raise (ELINK_EVENTS_DL_CRC d p)).bump (ELINK_DL_CRC_CNT_COUNT d p) else s
  let s := if maskBit st 6 ∧ ¬ s.on (ELINK_STATUS_EFE_ACTIVE d p) then s.raise (ELINK_EVENTS_ADOPTED d p) else s
  s.setB (ELINK_STATUS_EFE_ACTIVE d p) (maskBit st 6)

/-- An invalid uplink frame is discarded and counted (R234, Table 9.17). -/
def Chip.badUplink (s : Chip) (d p : Nat) : Chip := (s.raise (ELINK_EVENTS_UL_CRC d p)).bump (ELINK_UL_CRC_CNT_COUNT d p)

/-- A CAPS frame (R247). -/
def Chip.capsFrame (s : Chip) (d p cap : Nat) (ack ok : Bool) (h : Sys2Proof.UpHead) : Chip :=
  if s.el d p = elCaps ∧ !ok then s.badUplink d p
  else if s.el d p = elCaps then
    let s := (s.modPort d p (fun r => { r with capsStatus := h.status.toNat, capsSeen := true })).takeStatus d p h
    if !ack then s
    else if (s.port d p).caps ≠ some cap then s.modPort d p (fun r => { r with caps := some cap })
    else
      let old := s.get (ELINK_CAP_CAP d p)
      let s := s.set (ELINK_CAP_CAP d p) cap
      let s := if old ≠ 0 ∧ old ≠ cap then s.raise (ELINK_EVENTS_CAPS_CHANGED d p) else s
      let c := s.capCause d p cap
      if c ≠ 0 then s.portFail d p c
      else match s.bestRate d p with
        | some r => ((s.setEl d p elTrain).modPort d p (fun x => { x with rate := r + 1, phase := 0 })).sendNeg d p false
        | none => s.portFail d p 4
  else s

def execCapsFrame (d : Fin 8) (p : Fin 16) (cap : BitVec 64) (ack ok : Bool) (status : UpHead) (s : State) :
    Host.Outcome State Fault Refusal :=
  s.act fun c => if c.runs d then c.capsFrame d p cap.toNat ack ok status else c

def execCapsTimeout (d : Fin 8) (p : Fin 16) (s : State) : Host.Outcome State Fault Refusal :=
  s.act fun c => if c.runs d ∧ c.el d p = elCaps then c.portFail d p 7 else c

/-- Training fails at the rate: SYNC with a usable rate left, else FAILED (R248). -/
def Chip.trainFail (s : Chip) (d p : Nat) : Chip :=
  if s.el d p = elTrain then
    let s := s.modPort d p (fun r => { r with failed := maskSet r.failed (r.rate - 1) })
    let s := s.set (ELINK_TRAIN_FAILED_RATES d p) (s.port d p).failed
    if (s.bestRate d p).isSome then s.portSync d p else s.portFail d p 8
  else s

/-- The EFE's TRAIN answer: GO is sent and both ends switch rate (R248). -/
def Chip.trainFrame (s : Chip) (d p : Nat) (x : Sys2Proof.TrainAnswer) : Chip :=
  if s.el d p ≠ elTrain then s
  else if !x.ok then s.badUplink d p
  else
  let s := s.takeStatus d p x.head
  let r := s.port d p
  if r.phase = 0 ∧ x.rate.val = r.rate then
    (((s.sendNeg d p true).modPort d p (fun r => { r with phase := 1 })).set (ELINK_STATUS_RATE d p) x.rate).set (ELINK_STATUS_LOCK d p) 0
  else s

def execTrainFrame (d : Fin 8) (p : Fin 16) (x : Sys2Proof.TrainAnswer) (s : State) : Host.Outcome State Fault Refusal :=
  s.act fun c => if c.runs d then c.trainFrame d p x else c

/-- The end of the 2 ms count (R248, steps 4 and 5). -/
def execPrbsCheckEnd (d : Fin 8) (p : Fin 16) (errors : Nat) (s : State) : Host.Outcome State Fault Refusal :=
  s.act fun c => if c.runs d ∧ c.el d p = elTrain ∧ (c.port d p).phase = 1 then
    c.modPort d p (fun r => { r with phase := 2, errors := errors }) else c

/-- Training at a rate has passed: the receiver's equaliser.  It starts from the last accepted codes of the port; what training
gives is not stated (R280, R288). [log 110: DESIGN CHOICE] -/
def Chip.trainEq (s : Chip) (d p : Nat) : Chip :=
  let s := if maskBit (s.get (CAL_STATUS_VALID d)) calLink then s.set (ELINK_EQ_CTLE d p) (s.free % 256)
    else s.setReg (ELINK_EQ d p) (BitVec.ofNat 32 s.free)
  match (s.cal d).eqs.find? (fun e => e.1 == p) with
  | some e =>
    (((s.setI (ELINK_EQ_VTH d p) e.2.1).setI (ELINK_EQ_DFE1 d p) e.2.2.1).setI (ELINK_EQ_DFE2 d p) e.2.2.2).took.modCal d
      (fun r => { r with eqs := r.eqs.filter (fun x => x.1 != p) })
  | none => s.took

/-- A RESULT frame (R248). -/
def Chip.resultFrame (s : Chip) (d p : Nat) (pass : Bool) (x : Sys2Proof.TrainResult) : Chip :=
  if s.el d p = elTrain ∧ (s.port d p).phase = 2 ∧ !x.ok then s.badUplink d p
  else if s.el d p = elTrain ∧ (s.port d p).phase = 2 then
    let s := s.takeStatus d p x.head
    let s := s.set (ELINK_TRAIN_ERRORS d p) (min x.errors 65535)
    if pass ∧ (s.port d p).errors = 0 then
      let s := (s.set (ELINK_TRAIN_FAILED_RATES d p) (s.port d p).failed).set (ELINK_STATUS_WIDTH d p)
        (s.get (ELINK_CTRL_WIDTH d p))
      let s := s.trainEq d p
      if s.portServes d p then s.portActive d p else s.portWarm d p
    else s.trainFail d p
  else s

def execResultFrame (d : Fin 8) (p : Fin 16) (pass : Bool) (x : Sys2Proof.TrainResult) (s : State) :
    Host.Outcome State Fault Refusal :=
  s.act fun c => if c.runs d then c.resultFrame d p pass x else c

/-- See [log 5: DESIGN CHOICE]. -/
def execTrainTimeout (d : Fin 8) (p : Fin 16) (s : State) : Host.Outcome State Fault Refusal :=
  s.act fun c => if c.runs d then c.trainFail d p else c

/-- 100 ms after FAILED (R245). [log 5: DESIGN CHOICE] -/
def execFailedRetry (d : Fin 8) (p : Fin 16) (s : State) : Host.Outcome State Fault Refusal :=
  s.act fun c => if c.runs d ∧ c.el d p = elFailed then c.portSync d p else c

/-! ### Uplink frames (R242, R249, R262, R263, R266) -/

/-- A frame not received or invalid; the sixteenth in a row loses the link. -/
def Chip.badFrame (s : Chip) (d p : Nat) : Chip :=
  let n := (s.port d p).badRun + 1
  let s := (s.calBadFrame d p).modPort d p (fun r => { r with badRun := n })
  if 16 ≤ n then s.linkLoss d p else s

/-- Push a window event (R263). -/
def Chip.winPush (s : Chip) (d p pos x n : Nat) : Chip :=
  let q := tabGet (fun _ => []) s.winFifo d
  if 256 ≤ q.length then (s.bump (EFE_WIN_LOST_CNT_COUNT d)).raise (EFE_EVENTS_WIN_OVERFLOW d)
  else
    let e := (n % 2 ^ 32, 2 ^ 31 + p * 2 ^ 24 + pos * 2 ^ 16 + x)
    let t : Chip := { s with winFifo := tabPut (fun _ => []) s.winFifo d (q ++ [e]) }
    (if q.isEmpty then t.raise (EFE_EVENTS_WIN d) else t).set (EFE_WIN_STATUS_COUNT d) (q.length + 1)

/-- The marks that the overranged positions of a frame of tick `n` leave (R262). -/
def Chip.ovrMarks (s : Chip) (d p n : Nat) (xs : List (Nat × Sys2Proof.UpSample)) : List (Nat × Nat × Nat) :=
  let cap := s.get (ELINK_CAP_CAP d p)
  let g := max 1 (capGroup cap)
  let new := (xs.filter (fun x => x.2.ovr)).map (fun x => (x.1 / g, x.1, n + capOvrRec cap))
  new ++ (s.port d p).stale.filter (fun m => decide (n ≤ m.2.2))

/-- The samples of a good TICK frame of tick `n`. -/
def Chip.takeSamples (s : Chip) (d p n cause : Nat) (l : List Sys2Proof.UpSample) : Chip :=
  let cap := s.get (ELINK_CAP_CAP d p)
  let g := max 1 (capGroup cap)
  let xs := (List.range l.length).zip l
  let marks := s.ovrMarks d p n xs
  let stale := fun i => decide (i < capMonitors cap) && marks.any (fun m => m.1 == i / g && m.2.1 != i)
  let sm := xs.map (fun x => (⟨x.2.x.toNat, x.2.ovr, stale x.1⟩ : Sample))
  let s := s.modPort d p (fun r => { r with
    stale := marks
    spotMain := match r.out with
      | some o => if o.sent = n ∧ !o.host ∧ o.cmd.op = 3 then (l[o.cmd.addr]?).map (·.x.toNat) else r.spotMain
      | none => r.spotMain })
  let s := s.bump (EFE_OVR_CNT_COUNT d p) (l.filter (·.ovr)).length
  let s := s.bump (EFE_WIN_CNT_COUNT d p) (l.filter (·.win)).length
  let s := s.bump (EFE_NSTALE_CNT_COUNT d p) (sm.filter (·.stale)).length
  let again := match tabGet (fun _ => none) s.down (d * 16 + p) with
    | some f => f.stale || f.short
    | none => false
  let s : Chip := { s with frames := tabPut (fun _ => none) s.frames (d * 16 + p) (some ⟨cause, again, sm⟩) }
  let byp := (s.die d).bypSeen || s.bypassed d
  xs.foldl (fun t x =>
    if x.2.win && !byp && (t.sampleAt d p x.1).2.isNone then t.winPush d p x.1 x.2.x.toNat n else t) s

/-- An uplink frame is received. [log 47: DEDUCED] -/
def Chip.uplink (s : Chip) (d p : Nat) (f : Sys2Proof.UpFrame) : Chip :=
  if !s.elUp d p then s
  else if !f.ok then (s.badUplink d p).badFrame d p
  else
    let n := s.tick
    let st := f.status.toNat
    let s := s.modPort d p (fun r => { r with badRun := 0 })
    let s := s.takeStatus d p ⟨f.status, f.untimed⟩
    let wrong := f.echo.toNat ≠ n % 2 ^ 32
    let s := if wrong then (s.raise (ELINK_EVENTS_UL_MISS d p)).bump (ELINK_UL_MISS_CNT_COUNT d p) else s
    let s := if f.tempOk then
        (s.setReg (EFE_TEMP d p f.sensor) (BitVec.ofNat 32 (2 ^ 31 + f.temp.toNat))).tempReading d p f.sensor
      else s
    let s := if f.tick ∧ s.el d p = elActive then
        s.takeSamples d p n (if wrong then causeStale else if f.untimed then causeUntimed else 0) f.samples
      else s
    let s := if f.rspOp ≠ 0 then s.efeRespond d p f.rspTag.toNat f.rspResult.toNat f.rspData.toNat f.rspWin f.rspOvr else s
    let shows := maskBit st 4 || maskBit st 3
    let cmd := s.on (ELINK_CTRL_PARK d p)
    -- PARK cleared does not end a commanded park (R253)
    let s := s.modPort d p (fun r => { r with parkCmd := cmd || (r.parkCmd && shows) })
    let r := s.port d p
    let parked := shows && s.el d p == elActive && !r.parkCmd && r.passedA && r.parkDue.isNone
    if parked then s.modPort d p (fun r => { r with parkDue := some (n + 2) }) else s

def execUplinkFrame (d : Fin 8) (p : Fin 16) (f : UpFrame) (s : State) : Host.Outcome State Fault Refusal :=
  s.act fun c => if c.runs d then c.uplink d p f else c

/-- An uplink frame is incomplete 24 ns after the boundary (R242). -/
def execUplinkDeadline (d : Fin 8) (p : Fin 16) (s : State) : Host.Outcome State Fault Refusal :=
  s.act fun c => if c.runs d ∧ c.elUp d p then
    ((c.raise (ELINK_EVENTS_UL_MISS d p)).bump (ELINK_UL_MISS_CNT_COUNT d p)).badFrame d p else c

/-- The slots of die `d` that are active on port `p`. -/
def Chip.portSlots (s : Chip) (d p : Nat) : List Nat := (s.activeSlots d).filter (fun sl => s.slotPort d sl == p)

/-- The answer to an unordered park (R266); a window that ends on the tick ends first (R143). [log 47: DEDUCED] -/
def Chip.unorderedPark (s : Chip) (d p : Nat) : Chip :=
  match (s.port d p).parkDue with
  | some b =>
    if s.comingB < b then s
    else
      let s := s.each (s.portSlots d p) fun sl t => (t.windowOnce d sl).parkSlot d sl
      let s := (s.modPort d p (fun r => { r with parkDue := none, adoptLeft := 8 })).set (ELINK_STATUS_ADOPTING d p) 1
      ((s.raise (ELINK_EVENTS_EFE_PARKED d p)).raise (EFE_EVENTS_EFE_PARKED d)).raiseF2 0x24 (d * 256 + p)
  | none => s

def execEfeUnorderedPark (d : Fin 8) (p : Fin 16) (s : State) : Host.Outcome State Fault Refusal :=
  s.act fun c => if c.runs d then c.unorderedPark d p else c

/-- A read of EFE_WIN_POP_LO: the oldest entry leaves the FIFO (R272). -/
def Chip.winPop (s : Chip) (d : Nat) : Chip :=
  match tabGet (fun _ => []) s.winFifo d with
  | [] => (s.setReg (EFE_WIN_POP_LO d) 0).setReg (EFE_WIN_POP_HI d) 0
  | e :: q =>
    (((({ s with winFifo := tabPut (fun _ => []) s.winFifo d q } : Chip).setReg (EFE_WIN_POP_LO d)
      (BitVec.ofNat 32 e.1)).setReg (EFE_WIN_POP_HI d) (BitVec.ofNat 32 e.2)).set (EFE_WIN_STATUS_COUNT d) q.length)

/-! ### Committed changes (R271, R268, R261) -/

/-- The slots of port `p` that the values to come would make active (R243, R271); none on a backup port that does not cover. -/
def Chip.portNext (s : Chip) (d p : Nat) : List Nat :=
  if p < 8 ∨ s.covering d p then planSlots s.next (s.serves d) d (s.slotOf d p 0 / 256) else []

/-- The width and delay keep R243 at the rate of port `p`: that of the line, and in TRAIN the one under training.  Before, the
rate is still to be chosen by R243 (R247). [log 48: DESIGN CHOICE] -/
def Chip.portFits (s : Chip) (d p w delay : Nat) : Bool :=
  let r := if s.el d p = elTrain then (s.port d p).rate else s.get (ELINK_STATUS_RATE d p)
  !(s.elUp d p || s.el d p == elTrain) || r == 0 || fits s.tickNs w (r - 1) delay (capReady (s.get (ELINK_CAP_CAP d p)))

/-- The backup port of primary port `p`: die and port. -/
def Chip.backupPort (s : Chip) (d p : Nat) : Nat × Nat := (backupDie s.dieCount d p, 8 + p)

/-- The staged values of a port keep R243, on the backup port that follows it too, and the positions of the slots that will
be active. -/
def Chip.portValid (s : Chip) (d p : Nat) : Bool :=
  let w := s.next (ELINK_CTRL_WIDTH d p)
  let y := s.next (ELINK_CTRL_DELAY d p)
  (s.portNext d p).all (fun sl => decide (sl % 256 < widthPos w)) && s.portFits d p w y
    && (!(decide (p < 8) && s.isProt d p) || s.portFits (s.backupPort d p).1 (s.backupPort d p).2 w y)

/-- The slots that a commit would make active beyond the width that the port keeps. -/
def Chip.beyond (s : Chip) (d p : Nat) : List Nat :=
  (s.portNext d p).filter (fun sl => decide (widthPos (s.get (ELINK_CTRL_WIDTH d p)) ≤ sl % 256) && !s.on (CH_CTRL_EN d sl))

/-- Values that break R243 or R271 are discarded: the staged values of the port, and those of the slots that the commit
would enable beyond the width that then stands. [log 89: DEDUCED] -/
def Chip.portCheck (s : Chip) (d p : Nat) : Chip :=
  let a := ELINK_CTRL d p
  let bad := (s.stagedOf a).isSome && !s.portValid d p
  let t := if bad then s.setStaged a none else s
  let out := if (t.stagedOf a).isSome then [] else t.beyond d p
  let t := t.each out fun sl u => u.dropStaged (slotLo d sl) (slotHi d sl)
  if bad || !out.isEmpty then t.raiseF3 (ELINK_EVENTS_CFG_REFUSED d p) else t

/-- The band writes of the port wait behind its other commands (R261). -/
def Chip.ownBands (s : Chip) (d p : Nat) (l : List (Nat × Nat)) : Chip :=
  s.modPort d p (fun r => { r with own := r.own ++ l.map (fun x => ⟨2, 0x200 + x.1, x.2⟩) })

/-- WIDTH and DELAY as loaded are in force on a port that carries frames. -/
def Chip.showWidth (s : Chip) (d p : Nat) : Chip :=
  if s.elUp d p then s.set (ELINK_STATUS_WIDTH d p) (s.get (ELINK_CTRL_WIDTH d p)) else s

/-- Load the staged ELINK values and bands of port `p` at C − 1; PARK acts on the slots in step 5 of that tick. -/
def Chip.portLoad (s : Chip) (d p : Nat) : Chip :=
  let a := ELINK_CTRL d p
  let bands := (s.stagedIn (EFE_WIN d p 0) (EFE_WIN d p 256)).filter s.changes
  let had := (s.stagedOf a).isSome
  let s := (s.loadStaged a (a + 4)).loadStaged (EFE_WIN d p 0) (EFE_WIN d p 256)
  let vals := bands.map (fun b => ((b - EFE_WIN d p 0) / 4, (s.reg b).toNat))
  let s := s.ownBands d p vals
  -- the backup port of a protected EFE follows its primary port
  let s := if p < 8 ∧ s.isProt d p then
      let b := s.backupPort d p
      let t := if had then ((s.set (ELINK_CTRL_WIDTH b.1 b.2) (s.get (ELINK_CTRL_WIDTH d p))).set (ELINK_CTRL_DELAY b.1 b.2)
        (s.get (ELINK_CTRL_DELAY d p))).showWidth b.1 b.2 else s
      let t := vals.foldl (fun t x => t.setReg (EFE_WIN b.1 b.2 x.1) (BitVec.ofNat 32 x.2)) t
      t.ownBands b.1 b.2 vals
    else s
  if !had then s
  else
    let s := (s.showWidth d p).modPort d p (fun r => { r with
      cmdPark := s.on (ELINK_CTRL_PARK d p), parkCmd := r.parkCmd || s.on (ELINK_CTRL_PARK d p) })
    if !s.on (ELINK_CTRL_EN d p) then s.portOff d p else s.portStart d p

/-- Step 5: a commit has loaded PARK = 1 (R271). -/
def Chip.portPark (s : Chip) (d p : Nat) : Chip :=
  if (s.port d p).cmdPark then
    (s.each (s.portSlots d p) fun sl t => t.parkSlot d sl).modPort d p (fun r => { r with cmdPark := false })
  else s

/-! ### One tick at a port -/

/-- The readings of the EFE sensors of die `d` age, on ports that carry frames and on others (R272). -/
def Chip.tempAges (s : Chip) (d : Nat) : Chip :=
  let lo := dieBase d + 0x200000
  let l := (s.regs.filter (fun p => decide (lo ≤ p.1) && decide (p.1 < lo + 0x1000)
    && decide (0x40 ≤ (p.1 - lo) % 0x100) && decide ((p.1 - lo) % 0x100 < 0x80))).map (·.1)
  s.each l fun a t => if maskBit (t.reg a).toNat 31 then t.bump ⟨a, 16, 15⟩ else t

/-- A boundary at port `p`: ADOPT frames counted down. -/
def Chip.portTick (s : Chip) (d p : Nat) : Chip :=
  if !s.elUp d p then s
  else
    let r := s.port d p
    let past := match r.firstA with
      | some a => decide (a ≤ s.tick)
      | none => false
    let s := s.modPort d p (fun r => { r with adoptLeft := r.adoptLeft - 1, passedA := r.passedA || past })
    if r.adoptLeft ≤ 1 then s.set (ELINK_STATUS_ADOPTING d p) 0 else s

/-! ### Downlink frames: step 7 (R24, R235, R237, R264) -/

/-- The registers at offset `o` of the slots of port `p` that hold anything but zero: position and value. -/
def Chip.byPos (s : Chip) (d p o : Nat) : List (Nat × Nat) :=
  let lo := CH_CTRL d (s.slotOf d p 0)
  (s.regs.filter (fun q => decide (lo ≤ q.1) && decide (q.1 < lo + 0x8000) && (q.1 - lo) % 0x80 == o)).map
    (fun q => ((q.1 - lo) / 0x80, q.2.toNat))

/-- The drive words of port `p` by position, as CH_DRIVE holds them. -/
def Chip.portWords (s : Chip) (d p w : Nat) : List (Nat × Nat) :=
  ((s.byPos d p 0x14).map (fun x => (x.1, x.2 % 65536))).filter (fun x => x.2 != 0 && decide (x.1 < widthPos w))

/-- The sub-tick fields of the frame of tick `n` by position (R127). -/
def Chip.portSubs (s : Chip) (d p w n : Nat) : List (Nat × Nat) :=
  ((s.byPos d p 0x20).map (fun x => (x.1, s.subtick d (s.slotOf d p x.1) n))).filter
    (fun x => x.2 != 0 && decide (x.1 < widthPos w))

/-- VTH, DFE1 or DFE2 of a port has not reached its target yet. -/
def Chip.eqOff (s : Chip) (d : Nat) (e : Nat × Int × Int × Int) : Bool :=
  decide (s.getI (ELINK_EQ_VTH d e.1) ≠ e.2.1) || decide (s.getI (ELINK_EQ_DFE1 d e.1) ≠ e.2.2.1)
    || decide (s.getI (ELINK_EQ_DFE2 d e.1) ≠ e.2.2.2)

/-- The receiver of port `p` moves toward its codes in the coming tick (R258, R282). -/
def Chip.eqMoves (s : Chip) (d p : Nat) : Bool := (s.cal d).eqs.any (fun e => e.1 == p && s.eqOff d e)

/-- The frame that port `p` sends for tick `n`: TICK in ACTIVE, WARM in WARM. -/
def Chip.frameOf (s : Chip) (d p n : Nat) : DownFrame :=
  let w := s.get (ELINK_CTRL_WIDTH d p)
  let r := s.port d p
  let tk := s.el d p == elActive
  let c := match r.out with
    | some o => if o.sent = n then (o.tag, o.cmd) else (0, ⟨0, 0, 0⟩)
    | none => (0, ⟨0, 0, 0⟩)
  { tickKind := tk, num := n % 2 ^ 32, width := w, delay := s.get (ELINK_CTRL_DELAY d p), tag := c.1, op := c.2.op
    addr := c.2.addr, data := c.2.data, stale := false, recal := s.eqMoves d p, adopt := s.on (ELINK_STATUS_ADOPTING d p)
    park := s.on (ELINK_CTRL_PARK d p), short := false
    words := if tk then s.portWords d p w else [], subs := if tk then s.portSubs d p w n else [] }

/-- Step 7 at port `p`: the frame of the coming tick `n`, or the repeat of the last one: in short form it ends as an
abandoned frame, in full form it carries the last words and sub-tick fields with STALE (R29, R264).  A port that negotiates sends
its CAPS, TRAIN or RESULT frame, one in each tick. [log 125: DESIGN CHOICE] -/
def Chip.sendDown (s : Chip) (d p n : Nat) : Chip :=
  let k := d * 16 + p
  let old := tabGet (fun _ => none) s.down k
  let how := tabGet (fun _ => 0) s.repeatNext k
  let on := s.elUp d p && !(s.el d p == elActive && decide (9 ≤ (s.port d p).adoptLeft))
  let s := if on && how != 2 then s.efeNext d p n else s.sendNeg d p false
  let f := if !on then none
    else
      let f := s.frameOf d p n
      let o := old.getD { f with words := [], subs := [] }
      some (if how = 0 then f
        else if how = 1 then { f with stale := true, words := o.words, subs := o.subs }
        else { f with stale := false, short := true, words := o.words, subs := o.subs })
  { s with down := tabPut (fun _ => none) s.down k f }

end Sys2Proof.Machine
end

