-- ==== Sys2Proof/Machine/Cal.lean ====
section
/-!
DEFINITION. Machine/Cal.lean: self-referenced calibration: measurements, comparison, blends, saving and
restoring, host write-back (spec/10_calibration.md).
-/

namespace Sys2Proof.Machine

/-- Minimum interval in ticks (R275). [log 60: DESIGN CHOICE] -/
def Chip.calInterval (s : Chip) (d : Nat) : Nat := s.ticksOf (max 1 (s.get (CAL_CFG_MIN_INTERVAL d)) * 1000000000)

def Chip.calTNow (s : Chip) (d : Nat) : Int := s.getI (CAL_T_NOW_TEMP d)

/-- Every enabled item becomes pending: the die enters service (R275). -/
def Chip.calEnter (s : Chip) (d : Nat) : Chip := s.each calItems fun k t => t.calWant d k

/-- A value of item `k` has been accepted, restored (5) or loaded by the host (6) (R286, R288). -/
def Chip.calTaken (s : Chip) (d k res : Nat) (temp : Int) : Chip :=
  let s := ((s.set (CAL_ITEM_STATUS_RESULT d k) res).set (CAL_ITEM_STATUS_CAUSE d k) 0).setI (CAL_ITEM_STATUS_T_LAST d k) temp
  let s := s.modCal d (fun r => { r with tdcSure := r.tdcSure || (k == calTdc && res != 6) })
  (s.set (CAL_STATUS_VALID d) (maskSet (s.get (CAL_STATUS_VALID d)) k)).set (CAL_ITEM_AGE_SEC d k) 0

def Chip.calBlending (s : Chip) (d k : Nat) : Bool := maskBit (s.get (CAL_STATUS_BLENDING d)) k

def Chip.setBlending (s : Chip) (d k : Nat) (b : Bool) : Chip :=
  let m := s.get (CAL_STATUS_BLENDING d)
  s.set (CAL_STATUS_BLENDING d) (if b then maskSet m k else maskClear m k)

/-- Ports whose receivers LINK measures: those in ACTIVE or WARM. [log 40: DESIGN CHOICE] -/
def Chip.calPorts (s : Chip) (d : Nat) : List Nat := ports16.filter (fun p => s.elUp d p)

/-- Slots that DEMOD can measure (R281). -/
def Chip.demodSlots (s : Chip) (d : Nat) : List Nat := (s.activeSlots d).filter (fun sl => (s.slot d sl).st == lpLocked)

/-- A SKEW run waits for phase steps and realigns (R279). -/
def Chip.skewWaits (s : Chip) (d : Nat) : Bool := s.get (SYN_PSTEP_PEND_PEND d) != 0 || s.on (SYN_STATUS_REALIGN d)

/-- The pre-check of Table 10.3 for what the die itself can tell. -/
def Chip.calSuits (s : Chip) (d k : Nat) : Bool :=
  if k = calTdc then s.syn d == synLocked
  else if k = calGain then s.syn d == synLocked && !s.rampBusy d && (s.cal d).tdcSure
  else if k = calLink then !(s.calPorts d).isEmpty
  else if k = calDemod then !(s.demodSlots d).isEmpty
  else true

/-- Start the settling check of DEMOD: each monitor input in use, once per port (R281). [log 43: DESIGN CHOICE] -/
def Chip.calSettle (s : Chip) (d : Nat) : Chip :=
  let ks := s.demodSlots d
  let s := (s.each ks fun sl t => t.modSlot d sl (fun r => { r with calOk := true, dem := {} })).modCal d (fun r => { r with part := ks })
  s.each (s.calPorts d) fun p t =>
    let ins := (List.range 256).filter (fun m => ks.any (fun sl => t.slotPort d sl == p && t.get (CH_MON_SEL_POS d sl) == m))
    t.modPort d p (fun r => { r with calSpots := ins, calCount := 0 })

/-- The core begins to count for a measurement of item `k`, where it takes part in it (R277, R278). -/
def Chip.calCount (s : Chip) (d k : Nat) : Chip :=
  let m : CoreMeas :=
    if k = calTdc then { item := k + 1, hits := List.replicate 64 0, bins := List.replicate 64 0 }
    else if k = calGain then { item := k + 1, probe := max 8 (s.get (CAL_GAIN_CFG_PROBE d)) } else {}
  s.modCore d (fun r => { r with meas := m })

/-- The receiver of port `p` is the next that LINK measures; it is unsuitable when the port is not up (R275, R284). -/
def Chip.calPort (s : Chip) (d p : Nat) : Chip :=
  let s := s.modCal d (fun r => { r with port := p, portBad := 0, portSince := s.upTicks })
  if s.elUp d p then s else s.calFail d calLink 3

/-- The next pending item starts (R274, R275); `ok` says that SKEW finds markers on its path. -/
def Chip.calStart (s : Chip) (d : Nat) (ok : Bool) : Chip :=
  if s.get (CAL_STATUS_RUNNING d) ≠ 0 ∨ ¬ s.on (CAL_CTRL_EN d) then s
  else
    match calItems.find? (fun k => maskBit (s.get (CAL_STATUS_PENDING d)) k && maskBit (s.get (CAL_CTRL_ITEM_EN d)) k
        && !maskBit (s.cal d).retry k && !s.calBlending d k) with
    | none => s
    | some k =>
      let s := (s.set (CAL_STATUS_RUNNING d) (k + 1)).set (CAL_STATUS_PENDING d) (maskClear (s.get (CAL_STATUS_PENDING d)) k)
      let s := if k = calGain ∨ k = calSkew then s.set (CAL_STATUS_STALE d) (2 ^ k) else s
      let s := s.modCal d (fun r => { r with
        second := false, tempStart := s.calTNow d, began := tabPut (fun _ => 0) r.began k s.upTicks
        linkPorts := s.calPorts d, eqA := [], eqB := [], hitsA := [], phA := [] })
      if k = calSkew && !ok || !s.calSuits d k then s.calFail d k 3
      else if k = calLink then s.calPort d ((s.calPorts d).headD 16)
      else if k = calDemod then s.calSettle d
      else s.calCount d k

/-- Runs take place on a die in service, and SKEW on one that rejoins (R275, R357). -/
def Chip.calOn (s : Chip) (d : Nat) : Bool := s.inService d || s.rejoining d

def execCalRunStart (d : Fin 8) (ok : Bool) (s : State) : Host.Outcome State Fault Refusal :=
  s.act fun c => if c.calOn d then c.calStart d ok else c

/-! ### Results (R274, R277 to R281) -/

/-- The run of item `k` is accepted; its blend begins. -/
def Chip.calAccept (s : Chip) (d k : Nat) : Chip :=
  let s := (s.calTaken d k 1 (s.cal d).tempStart).calClose d
  let s := (s.setBlending d k true).raise (CAL_EVENTS_DONE d)
  let s := if k = calDemod then s else s.bump (CAL_ITEM_CNT_ACCEPTED d k)
  s.modCal d (fun r => { r with accepted := tabPut (fun _ => 0) r.accepted k s.upTicks })

/-- Two measured values agree within `tol`. [log 39: DEDUCED] -/
def within (a b : Int) (tol : Nat) : Bool := decide ((a - b).natAbs ≤ tol)

/-- The hops from the captain to die `d` along the rings as they run, and whether they go up in site order: that way unless one
of them has failed; none when both ways are broken (R279). [log 40: DESIGN CHOICE] -/
def Chip.skewPath (s : Chip) (d : Nat) : Option (Bool × List Nat) :=
  let n := s.dieCount
  let c := s.captain
  let up := (List.range ((d + n - c) % n)).map (fun j => (c + j) % n)
  let down := (List.range ((c + n - d) % n)).map (fun j => (d + j) % n)
  let runs := fun (l : List Nat) => l.all (fun h => !maskBit s.fault.hopFail h)
  if runs up then some (true, up) else if runs down then some (false, down) else none

/-- The skew of die `d` to the captain in 1/16 phase step: the sum of (m_ab − m_ba) / 2 over the hops between them, a the nearer
to the captain; none when a hop has carried no markers for 16 boundaries in a row (R279, Table 10.3). -/
def Chip.skewOf (s : Chip) (d : Nat) (m : Sys2Proof.CalMeas) : Option Int :=
  match s.skewPath d with
  | none => none
  | some (up, l) =>
    if l.any (fun h => decide (16 ≤ m.gaps.getD h 0)) then none
    else
      let v := (l.map (fun h => (m.hops.getD h (0, 0)).1 - (m.hops.getD h (0, 0)).2)).sum
      some (roundDiv (if up then v else -v) 2)

/-- The mean of two values to the nearest, ties away from zero. -/
def midOf (a b : Int) : Int := roundDiv (a + b) 2

/-- f_synth = num / den kHz of die `d`, with the A and the D in force (R44). -/
def Chip.synthFreq (s : Chip) (d : Nat) : Nat × Nat :=
  let x := s.srcNow d
  (srcNom s.get d x * (s.mWord d).toNat * (2 ^ 48 + s.getI (SYN_DISC_D d)).toNat, targetDen s.get d x * 2 ^ 48)

/-- Every one of the 64 bins holds from 0.5 to 1.5 times the mean (Table 10.3). -/
def CoreMeas.spread (m : CoreMeas) : Bool :=
  m.bins.all (fun b => decide (m.n ≤ 128 * b) && decide (128 * b ≤ 3 * m.n))

/-- The gain that a GAIN measurement gives, in 2^-8 Hz per LSB: the change in the slope of e stands for a change of 4 × f_synth by
the probe and by the loop's own codes (R278). [log 127: DESIGN CHOICE] -/
def Chip.gainOf (s : Chip) (d : Nat) (m : CoreMeas) : Int :=
  let f := s.synthFreq d
  let x := s.srcNow d
  -- 2^-8 Hz for a slope of 1 ps in a reference cycle: 256 × 4 f_synth × f_ref / 10^12
  let kn : Nat := 256 * 4000 * f.1 * (1000 * srcNom s.get d x)
  let kd : Nat := 10 ^ 12 * f.2 * srcDiv s.get d x
  let g := bandGain (band s.get d (s.get (SYN_DCO_BAND d)))
  roundDiv (-(m.slopes * kn) - g * m.loops * kd) (max 1 (8 * m.probe * 4096 * kd))

/-- A disagreement ratio below 10^-6 over 2^24 bits (R280). -/
def eyeOpen (count : Nat) : Bool := decide (count * 10 ^ 6 < 2 ^ 24)

/-- The threshold codes at which the eye is open at time offset `i`. -/
def eyeLevels (m : Sys2Proof.CalMeas) (i : Nat) : List Int :=
  (((m.sweep.getD i []).zip m.levels).filter (fun p => eyeOpen p.1)).map (·.2)

/-- Delay of one tap in 2^-8 ps from its hits: T_synth × h / H, as numerator and denominator; f_synth is num / den kHz (R277). -/
def tapDelay (num den h total : Nat) : Nat × Nat := (256 * 1000000000 * den * h, max 1 (num * total))

/-- The taps of two histograms: agreement, and the mean of each reached tap. -/
def tapResults (num den tol : Nat) (a b : List Nat) : Bool × List (Nat × Nat) :=
  let ta := a.sum
  let tb := b.sum
  let rows := (List.range (min 64 (max a.length b.length))).map (fun i =>
    (i, tapDelay num den (a.getD i 0) ta, tapDelay num den (b.getD i 0) tb))
  let agree := rows.all (fun r =>
    decide (r.2.1.1 * r.2.2.2 ≤ r.2.2.1 * r.2.1.2 + tol * (r.2.1.2 * r.2.2.2))
      && decide (r.2.2.1 * r.2.1.2 ≤ r.2.1.1 * r.2.2.2 + tol * (r.2.1.2 * r.2.2.2)))
  let means := (rows.filter (fun r => r.2.1.1 != 0 || r.2.2.1 != 0)).map (fun r =>
    (r.1, min 65535 (roundDiv ((r.2.1.1 * r.2.2.2 + r.2.2.1 * r.2.1.2 : Nat) : Int) (2 * (r.2.1.2 * r.2.2.2))).toNat))
  (agree, means)

/-- The blend of the tap table to new entries. -/
def Chip.tapBlend (s : Chip) (d : Nat) (l : List (Nat × Nat)) : Chip :=
  s.modCal d (fun r => { r with
    tapStep := 0
    taps := (List.range 64).map (fun i =>
      let old := s.get (CAL_TDC_TAP_DELAY d i)
      (old, ((l.find? (fun p => p.1 == i)).map (·.2)).getD old)) })

/-- Circular distance and mean of two phases of 2^16 units (R274). [log 41: DESIGN CHOICE] -/
def phaseDist (a b : Nat) : Int := signedOf 16 ((b + 65536 - a % 65536) % 65536)
def phaseMean (a b : Nat) : Nat := unsignedOf 16 ((2 * (a : Int) + phaseDist a b + 1) / 2)

/-- The ratio of R281 reaches `k`: with S = sxx + syy and r² = (sxx − syy)² + 4 sxy², (S + r) / (S − r) ≥ k. [log 41: DESIGN
CHOICE] -/
def ratioOk (k : Nat) (sxx syy sxy : Int) : Bool :=
  let t := sxx + syy
  let r2 := (sxx - syy) ^ 2 + 4 * sxy ^ 2
  decide (t ^ 2 * ((k - 1 : Nat) : Int) ^ 2 ≤ r2 * ((k + 1 : Nat) : Int) ^ 2)

/-- Half the angle of the vector (x, y) in units of 2^-16 cycle, to the nearest (R281).  The vector is turned into the first
quadrant, then by the largest table angle (R116) that keeps y at or above 0; the arc tangent of the rest is its first two
terms. [log 41: DESIGN CHOICE] -/
def halfAngle (x y : Int) : Nat :=
  let v : Nat × Int × Int := if 0 < x ∧ 0 ≤ y then (0, x, y) else if x ≤ 0 ∧ 0 < y then (1, y, -x)
    else if x < 0 ∧ y ≤ 0 then (2, -x, -y) else (3, -y, x)
  let turn := fun (c : Nat) => v.2.2 * sineEntry (c + 256) - v.2.1 * sineEntry c
  let c := [128, 64, 32, 16, 8, 4, 2, 1].foldl (fun c b => if 0 ≤ turn (c + b) then c + b else c) 0
  let y' := turn c
  let x' := v.2.1 * sineEntry (c + 256) + v.2.2 * sineEntry c
  -- 65,536 / (4 π) units for each radian of the angle
  let r := roundDiv ((3 * y' * x' ^ 2 - y' ^ 3) * 65536 * 10 ^ 20) (3 * x'.toNat ^ 3 * 1256637061435917295385)
  unsignedOf 16 (((256 * v.1 + c) * 32 : Nat) + r)

/-- The phase that one measurement gives a slot from its vectors: α or α + π, whichever lies nearer the present phase; none
when the slot is unsuitable.  The covariance terms are taken n² times over. [log 41: DESIGN CHOICE] -/
def Chip.demodPhase (s : Chip) (d sl : Nat) : Option (Nat × Nat) :=
  let k := s.get (CAL_DEMOD_CFG_ANISO d)
  let p := s.get (LP_DEMOD_PHASE_PHASE d sl)
  let c := (s.slot d sl).dem
  let sxx := c.n * c.sii - c.si ^ 2
  let syy := c.n * c.sqq - c.sq ^ 2
  let sxy := c.n * c.siq - c.si * c.sq
  let a := halfAngle (sxx - syy) (2 * sxy)
  if (s.slot d sl).calOk && decide (demodWin (s.get (CAL_DEMOD_CFG_MIN_WIN d)) ≤ c.n)
      && decide (0 < sxx + syy) && ratioOk (if k < 2 then 4 else k) sxx syy sxy then
    some (sl, if (phaseDist p a).natAbs ≤ 16384 then a else (a + 32768) % 65536)
  else none

/-- Every slot of the measurement has its vectors, or has given up after 8 × MIN_WIN windows (R281). -/
def Chip.demodFull (s : Chip) (d : Nat) : Bool :=
  let m := demodWin (s.get (CAL_DEMOD_CFG_MIN_WIN d))
  s.slots.all (fun p => p.1 / 4096 != d || !p.2.calOk || decide (m ≤ p.2.dem.n) || decide (8 * m ≤ p.2.dem.wins))

/-- The slots that take part, and the phases that they give; each starts on new vectors, and one whose loop is not LOCKED then
is out: the pre-check of measurement B. -/
def Chip.demodPhases (s : Chip) (d : Nat) : List (Nat × Nat) :=
  ((s.slots.filter (fun p => p.1 / 4096 == d && p.2.calOk)).map (fun p => p.1 % 4096)).filterMap (s.demodPhase d)

def Chip.demodNext (s : Chip) (d : Nat) (ph : List (Nat × Nat)) : Chip :=
  let sls := (s.slots.filter (fun p => p.1 / 4096 == d && p.2.calOk)).map (fun p => p.1 % 4096)
  s.each sls fun sl t => t.modSlot d sl (fun r => { r with
    dem := {}, calOk := r.st == lpLocked && ph.any (fun x => x.1 == sl) })

/-- The end of a DEMOD run: each slot on its own. [log 41: DESIGN CHOICE] -/
def Chip.demodEnd (s : Chip) (d : Nat) (b : List (Nat × Nat)) : Chip :=
  let a := (s.cal d).phA
  let tol := s.get (CAL_TOL_B_DEMOD d)
  let part := (s.cal d).part
  let one := fun sl => match a.find? (fun x => x.1 == sl), b.find? (fun x => x.1 == sl) with
    | some x, some y => some (x.2, y.2)
    | _, _ => none
  let pairs := part.filterMap (fun sl => (one sl).map (fun v => (sl, v)))
  let good := pairs.filter (fun v => decide ((phaseDist v.2.1 v.2.2).natAbs ≤ tol))
  let failed := part.length - good.length
  let s := (s.bump (CAL_ITEM_CNT_ACCEPTED d calDemod) good.length).bump (CAL_ITEM_CNT_FAILED d calDemod) failed
  if good.isEmpty then s.calFail d calDemod (if pairs.isEmpty then 3 else 2)
  else
    let s := if good.length < pairs.length then s.raise (CAL_EVENTS_CAL_DISAGREE d) else s
    let s := if pairs.length < part.length then s.raise (CAL_EVENTS_INPUT_UNSUITABLE d) else s
    (s.calAccept d calDemod).each good fun v t => t.modSlot d v.1 (fun r => { r with calPhase := some (phaseMean v.2.1 v.2.2) })

/-- The means of the three equaliser codes of a port. -/
def eqMean (a b : Int × Int × Int) : Int × Int × Int := (midOf a.1 b.1, midOf a.2.1 b.2.1, midOf a.2.2 b.2.2)

/-- TDC: 2^20 reference cycles are counted (R277). -/
def Chip.tdcMeasured (s : Chip) (d : Nat) : Chip :=
  let c := (s.die d).core.meas
  let r := s.cal d
  if c.n < 2 ^ 20 then s
  else if !s.calSuits d calTdc || !c.spread then s.calFail d calTdc 3
  else if !r.second then (s.modCal d (fun r => { r with second := true, hitsA := c.hits })).calCount d calTdc
  else
    let f := s.synthFreq d
    let v := tapResults f.1 f.2 (s.get (CAL_TOL_A_TDC d)) r.hitsA c.hits
    if v.1 then (s.calAccept d calTdc).tapBlend d v.2 else s.calFail d calTdc 2

/-- GAIN: 4,096 probe changes are measured (R278). -/
def Chip.gainMeasured (s : Chip) (d : Nat) : Chip :=
  let c := (s.die d).core.meas
  let r := s.cal d
  if c.n < 64 * 4096 + 5 then s
  else if !s.calSuits d calGain then s.calFail d calGain 3
  else
    let v := s.gainOf d c
    if !r.second then (s.modCal d (fun r => { r with second := true, valA := v })).calCount d calGain
    else if decide ((r.valA - v).natAbs * 65536 ≤ s.get (CAL_TOL_A_GAIN d) * r.valA.natAbs) then
      let b := s.get (SYN_DCO_BAND d)
      (s.calAccept d calGain).modCal d (fun c => { c with
        gainStep := 0, gain := some (b, bandGain (band s.get d b), min 65535 (midOf r.valA v).toNat) })
    else s.calFail d calGain 2

/-- SKEW: 65,536 boundaries are measured (R279). -/
def Chip.skewMeasured (s : Chip) (d : Nat) (m : Sys2Proof.CalMeas) : Chip :=
  let r := s.cal d
  match s.skewOf d m with
  | none => s.calFail d calSkew 3
  | some v =>
    if !r.second then s.modCal d (fun r => { r with second := true, valA := v })
    else if within r.valA v (16 * s.get (CAL_TOL_B_SKEW d)) then
      let q := midOf r.valA v
      ((s.calAccept d calSkew).setI (CAL_SKEW_MEAS d) q).modCal d (fun c => { c with skewLeft := -(roundDiv q 16) })
    else s.calFail d calSkew 2

/-- The comparison of a LINK run, port by port (R274). -/
def Chip.linkCompare (s : Chip) (d : Nat) : Chip :=
  let c := s.cal d
  let tol := s.get (CAL_TOL_B_LINK d)
  let both := c.eqA.zip c.eqB
  if both.all (fun v => within v.1.2.1 v.2.2.1 tol && within v.1.2.2.1 v.2.2.2.1 tol && within v.1.2.2.2 v.2.2.2.2 tol) then
    (s.calAccept d calLink).modCal d (fun c => { c with eqs := both.map (fun v => (v.1.1, eqMean v.1.2 v.2.2)) })
  else s.calFail d calLink 2

/-- LINK: 2^24 bits of the present port are measured: VTH at the centre of the eye at the data sampler's instant, a free value
where it is closed there, DFE1 and DFE2 as adapted (R280).  Then the next port, measurement B, or the comparison. [log 40: DESIGN
CHOICE] -/
def Chip.linkMeasured (s : Chip) (d : Nat) (m : Sys2Proof.CalMeas) : Chip :=
  let r := s.cal d
  let lost := decide (s.upTicks - r.portSince < 1000 * r.portBad)
  if !s.elUp d r.port || lost || !m.sweep.any (fun l => l.any eyeOpen) then s.calFail d calLink 3
  else
    let l := eyeLevels m m.inst
    let v := match l with
      | [] => signedOf 8 (s.free % 256)
      | x :: l => midOf (l.foldl min x) (l.foldl max x)
    let e := (r.port, v, m.dfe1, m.dfe2)
    let s := (if l.isEmpty then s.took else s).modCal d (fun c =>
      if r.second then { c with eqB := c.eqB ++ [e] } else { c with eqA := c.eqA ++ [e] })
    match r.linkPorts.find? (fun p => decide (r.port < p)), r.second with
    | some p, _ => s.calPort d p
    | none, false => (s.modCal d (fun c => { c with second := true })).calPort d (r.linkPorts.headD 16)
    | none, true => s.linkCompare d

/-- DEMOD: every slot has its vectors or has given up (R281). -/
def Chip.demodMeasured (s : Chip) (d : Nat) : Chip :=
  let ph := s.demodPhases d
  if !(s.cal d).second then (s.demodNext d ph).modCal d (fun r => { r with second := true, phA := ph }) else s.demodEnd d ph

/-- A measurement completes (R274). [log 39: DEDUCED; 40: DESIGN CHOICE] -/
def Chip.calMeasured (s : Chip) (d : Nat) (m : Sys2Proof.CalMeas) : Chip :=
  if s.calRuns d calTdc then s.tdcMeasured d
  else if s.calRuns d calGain then s.gainMeasured d
  else if s.calRuns d calSkew then (if s.skewWaits d then s else s.skewMeasured d m)
  else if s.calRuns d calLink then s.linkMeasured d m
  else if s.calRuns d calDemod then (if s.settling d ∨ ¬ s.demodFull d then s else s.demodMeasured d)
  else s

def execCalMeasurementDone (d : Fin 8) (m : CalMeas) (s : State) : Host.Outcome State Fault Refusal :=
  s.act fun c => if c.calOn d then c.calMeasured d m else c

/-- A SKEW run has waited more than 10 ms (R279). -/
def execSkewWaitTimeout (d : Fin 8) (s : State) : Host.Outcome State Fault Refusal :=
  s.act fun c => if c.calOn d ∧ c.skewWaits d then c.calFail d calSkew 3 else c

/-! ### Requests (R275, R276, R286) -/

/-- Load the host's tap table by a blend. -/
def Chip.calLoadTdc (s : Chip) (d : Nat) : Chip :=
  let s := (s.calAbort d calTdc 4).tapBlend d ((List.range 64).map (fun i => (i, s.get (CAL_TDC_SET_DELAY d i))))
  (s.setBlending d calTdc true).calTaken d calTdc 6 (s.calTNow d)

/-- Load the host's equaliser values by a blend. -/
def Chip.calLoadEq (s : Chip) (d : Nat) : Chip :=
  let s := (s.calAbort d calLink 4).modCal d (fun r => { r with eqs := ports16.map (fun p =>
    (p, s.getI (CAL_EQ_SET_VTH d p), s.getI (CAL_EQ_SET_DFE1 d p), s.getI (CAL_EQ_SET_DFE2 d p))) })
  (s.setBlending d calLink true).calTaken d calLink 6 (s.calTNow d)

/-- An abort written in tick `n`, in which the run of item `k` has reached acceptance (R276). -/
def Chip.abortLate (s : Chip) (d k n : Nat) : Chip :=
  if n ≠ 0 ∧ tabGet (fun _ => 0) (s.cal d).accepted k = n then s.raise (CAL_EVENTS_ABORT_LATE d) else s

/-- A write of CAL_CTRL takes effect; an abort that it asks for stops the run at the end of the tick, unless the run is accepted
before (R276). [log 126: DESIGN CHOICE] -/
def Chip.writeCalCtrl (s : Chip) (d : Nat) (v : Word) : Chip :=
  let x := v.toNat
  let s := (s.set (CAL_CTRL_EN d) (x / 2 ^ 31)).set (CAL_CTRL_ITEM_EN d) (x % 32)
  let s := s.each calItems fun k t =>
    if ¬ maskBit x 31 ∨ ¬ maskBit x k then t.calAbort d k 2 else t
  let s := s.each (maskBits 5 (x / 2 ^ 8)) fun k t =>
    if t.calRuns d k then t.modCal d (fun r => { r with abortDue := maskSet r.abortDue k })
    else t.abortLate d k t.upTicks
  let s := if maskBit x 24 then s.calLoadTdc d else s
  let s := if maskBit x 25 then s.calLoadEq d else s
  s.each (maskBits 5 (x / 2 ^ 16)) fun k t => t.calWant d k

def execCalRequest (d : Fin 8) (v : Word) (s : State) : Host.Outcome State Fault Refusal :=
  s.act fun c => if c.open d then c.writeCalCtrl d v else c
def execCalAbort (d : Fin 8) (v : Word) (s : State) : Host.Outcome State Fault Refusal :=
  s.act fun c => if c.open d then c.writeCalCtrl d v else c
def execCalLoadTdc (d : Fin 8) (v : Word) (s : State) : Host.Outcome State Fault Refusal :=
  s.act fun c => if c.open d then c.writeCalCtrl d v else c
def execCalLoadEq (d : Fin 8) (v : Word) (s : State) : Host.Outcome State Fault Refusal :=
  s.act fun c => if c.open d then c.writeCalCtrl d v else c

/-- The die's temperature has moved by more than DT since the last accepted run (R275). -/
def Chip.calTemp (s : Chip) (d k : Nat) : Chip :=
  let dt := 16 * max 1 (s.get (CAL_CFG_DT d))
  let moved := decide (dt < (s.calTNow d - s.getI (CAL_ITEM_STATUS_T_LAST d k)).natAbs)
  let b := tabGet (fun _ => 0) (s.cal d).began k
  if moved ∧ b + s.calInterval d ≤ s.upTicks then s.calWant d k else s

def execCalTempTrigger (d : Fin 8) (k : Fin 5) (s : State) : Host.Outcome State Fault Refusal :=
  s.act fun c => if c.inService d then c.calTemp d k else c

/-- MIN_INTERVAL since a failed run began: the item may run again (R274). -/
def Chip.calRetry (s : Chip) (d k : Nat) : Chip :=
  if maskBit (s.cal d).retry k ∧ tabGet (fun _ => 0) (s.cal d).began k + s.calInterval d ≤ s.upTicks then
    s.modCal d (fun r => { r with retry := maskClear r.retry k })
  else s

def execCalRetryTimer (d : Fin 8) (k : Fin 5) (s : State) : Host.Outcome State Fault Refusal :=
  s.act fun c => if c.calOn d then c.calRetry d k else c

/-! ### Blends and saves at a boundary (R282, R283, R287) -/

/-- Step `j` of a 16-step blend. -/
def blendAt (old new j : Nat) : Nat := ((old : Int) + roundDiv (((new : Int) - old) * j) 16).toNat

def Chip.tapTick (s : Chip) (d : Nat) : Chip :=
  let r := s.cal d
  if r.taps.isEmpty then s
  else
    let j := r.tapStep + 1
    let s := s.each (List.range 64) fun i t =>
      let v := r.taps.getD i (0, 0)
      t.set (CAL_TDC_TAP_DELAY d i) (blendAt v.1 v.2 j)
    s.modCal d (fun r => if j = 16 then { r with taps := [], tapStep := 0 } else { r with tapStep := j })

/-- See [log 39: DEDUCED]. -/
def Chip.gainTick (s : Chip) (d : Nat) : Chip :=
  match (s.cal d).gain with
  | none => s
  | some (b, old, new) =>
    let a := SYN_BAND d b + 4
    let j := (s.cal d).gainStep + 1
    if (s.shadowOf a).isSome ∨ (s.stagedOf a).isSome then
      (s.modCal d (fun r => { r with gain := none })).raise (CAL_EVENTS_OVERRULED d)
    else
      (s.set ⟨a, 16, 16⟩ (blendAt old new j)).modCal d (fun r =>
        if j = 16 then { r with gain := none, gainStep := 0 } else { r with gainStep := j })

/-- The aborts asked for in the tick that has ended: a run still on stops, one accepted in that tick stands (R276). [log 126:
DESIGN CHOICE] -/
def Chip.abortTick (s : Chip) (d : Nat) : Chip :=
  let l := maskBits 5 (s.cal d).abortDue
  let s := s.modCal d (fun r => { r with abortDue := 0 })
  s.each l fun k t => if t.calRuns d k then t.calAbort d k 1 else t.abortLate d k (t.upTicks - 1)

/-- One code per field per tick, with RECAL in the frames of those ticks. -/
def Chip.eqTick (s : Chip) (d : Nat) : Chip :=
  let step := fun (a b : Int) => a + clampInt (-1) 1 (b - a)
  let s := s.each (s.cal d).eqs fun e t =>
    let v := t.getI (ELINK_EQ_VTH d e.1)
    let x := t.getI (ELINK_EQ_DFE1 d e.1)
    let y := t.getI (ELINK_EQ_DFE2 d e.1)
    (((t.setI (ELINK_EQ_VTH d e.1) (step v e.2.1)).setI (ELINK_EQ_DFE1 d e.1) (step x e.2.2.1)).setI
      (ELINK_EQ_DFE2 d e.1) (step y e.2.2.2))
  s.modCal d (fun r => { r with eqs := r.eqs.filter (s.eqOff d) })

/-- `n` reference cycles of SKEW's phase steps, each of which delays the clock by 1/256 cycle: APPLIED counts them, and package time
of the die moves with them (R279). [log 39: DEDUCED] -/
def Chip.skewTick (s : Chip) (d n : Nat) : Chip :=
  let q := (s.cal d).skewLeft
  -- the item waits for phase steps of the host and for a realign
  if q = 0 ∨ s.skewWaits d then s
  else
    let left := towardZero q n
    let i := s.timeInc d
    let c := tabGet (fun _ => 0) s.time.clocks d
    let s := if c = 0 then s else { s with time := { s.time with
      clocks := tabPut (fun _ => 0) s.time.clocks d ((c : Int) - roundDiv ((q - left) * 256 * i.1) (max 1 i.2)).toNat } }
    (s.setI (CAL_SKEW_APPLIED d) (s.getI (CAL_SKEW_APPLIED d) + (q - left))).modCal d (fun r => { r with skewLeft := left })

/-- Blends that have come to their end; each asks for a save. -/
def Chip.blendEnds (s : Chip) (d : Nat) : Chip :=
  s.each calItems fun k t =>
    let r := t.cal d
    let busy := if k = calTdc then !r.taps.isEmpty else if k = calGain then r.gain.isSome
      else if k = calSkew then r.skewLeft != 0 else if k = calLink then !r.eqs.isEmpty
      else t.slots.any (fun p => p.1 / 4096 == d && p.2.calPhase.isSome)
    if t.calBlending d k ∧ ¬ busy then (t.setBlending d k false).modCal d (fun r => { r with saveDue := true }) else t

/-- The bytes of a calibration slot that its CRC-32C covers. [log 42: DESIGN CHOICE] -/
def CalSave.bytes (v : CalSave) : List Nat :=
  bytesLE 4 v.seq ++ v.taps.flatMap (bytesLE 2) ++ v.gains.flatMap (fun g => g.1 :: bytesLE 2 g.2)
    ++ v.eqs.flatMap (fun e => [e.1, e.2.1, e.2.2])
    ++ (List.range 2560).flatMap (fun sl => bytesLE 2 (tabGet (fun _ => 0) v.phases sl)) ++ bytesLE 2 (unsignedOf 16 v.temp)

/-- A slot is valid when its sequence number is not zero and its CRC verifies (R288). -/
def CalSave.valid (v : CalSave) : Bool := v.seq != 0 && v.crc == crc32c v.bytes

/-- What a slot that is being written, or whose word ECC fails, holds in place of a CRC: no CRC-32C equals it. -/
abbrev crcTorn : Nat := 2 ^ 32

/-- The newest valid calibration slot: index and content. -/
def CalRec.newest (r : CalRec) : Option (Nat × CalSave) :=
  (((List.range 2).zip r.slots).filter (fun p => p.2.valid)).foldl (fun b p => match b with
    | some q => if q.2.seq < p.2.seq then some p else some q
    | none => some p) none

def Chip.showSave (s : Chip) (d : Nat) : Chip :=
  match (s.cal d).newest with
  | some p => (s.set (CAL_SAVE_SEQ d) (p.2.seq % 65536)).set (CAL_SAVE_SLOT d) p.1
  | none => (s.set (CAL_SAVE_SEQ d) 0).set (CAL_SAVE_SLOT d) 0

/-- Every value of die `d` that a calibration slot holds, under sequence number `n` (R287). -/
def Chip.calNow (s : Chip) (d n : Nat) : CalSave :=
  let v : CalSave :=
    { seq := n % 2 ^ 32
      taps := (List.range 64).map (fun i => s.get (CAL_TDC_TAP_DELAY d i))
      gains := ((List.range 128).filter (fun k => bandOk (band s.get d k))).map (fun k => (k, bandGain (band s.get d k)))
      eqs := ports16.map (fun p => (s.get (ELINK_EQ_VTH d p), s.get (ELINK_EQ_DFE1 d p), s.get (ELINK_EQ_DFE2 d p)))
      phases := ((List.range 2560).map (fun sl => (sl, s.get (LP_DEMOD_PHASE_PHASE d sl)))).filter (fun p => p.2 != 0)
      temp := s.calTNow d }
  { v with crc := crc32c v.bytes }

/-- A save begins: every current value goes to the slot with the older sequence number, which is torn until the next boundary.
[log 42: DESIGN CHOICE] -/
def Chip.calSave (s : Chip) (d : Nat) : Chip :=
  let r := s.cal d
  let a := (r.slots.getD 0 {}).seq
  let b := (r.slots.getD 1 {}).seq
  let i := if a ≤ b then 0 else 1
  let v := s.calNow d (max a b + 1)
  let s := s.modCal d (fun r => { r with
    saveDue := false, savedAt := some s.upTicks, saving := some (i, v.crc), slots := r.slots.set i { v with crc := crcTorn } })
  (s.set (CAL_SAVE_BUSY d) 1).showSave d

/-- The slot has been written and is read back; a failed write is abandoned (R287, R323). [log 42: DESIGN CHOICE] -/
def Chip.calSaved (s : Chip) (d i crc : Nat) (bad : Bool) : Chip :=
  let s := (s.modCal d (fun r => { r with
    saving := none, slots := if bad then r.slots else r.slots.set i { r.slots.getD i {} with crc := crc } })).set (CAL_SAVE_BUSY d) 0
  if ((s.cal d).slots.getD i {}).valid then (s.showSave d).raise (CAL_EVENTS_SAVED d) else s.raise RET_EVENTS_WRITE_FAIL

/-- A save in progress ends; one that is wanted begins, at most once in MIN_INTERVAL (R287). [log 42: DESIGN CHOICE] -/
def Chip.saveTick (s : Chip) (d : Nat) (bad : Bool) : Chip :=
  let r := s.cal d
  let free := match r.savedAt with
    | some n => decide (n + s.calInterval d ≤ s.upTicks)
    | none => true
  match r.saving with
  | some (i, crc) => s.calSaved d i crc bad
  | none => if r.saveDue && free then s.calSave d else s

/-- A boundary for the calibration engine of die `d`: `n` reference cycles passed; a write of its store failed in the tick; `sec` at
a whole second. -/
def Chip.calTick (s : Chip) (d n : Nat) (bad sec : Bool) : Chip :=
  let s := (s.demodDrop d).abortTick d
  let s := (((s.tapTick d).gainTick d).eqTick d).skewTick d n
  let s := (s.blendEnds d).saveTick d bad
  if sec then s.each calItems fun k t => t.bump (CAL_ITEM_AGE_SEC d k) else s

/-- Restore a calibration slot at start (R288): TDC and LINK from any valid slot, GAIN and DEMOD only when the
restore condition is met (Table 11.9). -/
def Chip.calRestore (s : Chip) (d : Nat) (met : Bool) : Chip :=
  let r := s.cal d
  let top := r.slots.foldl (fun b x => if b.seq < x.seq then x else b) {}
  match r.newest with
  | none => s
  | some (_, v) =>
    let s := s.each ((List.range 64).zip v.taps) fun x t => t.set (CAL_TDC_TAP_DELAY d x.1) x.2
    let s := s.each (ports16.zip v.eqs) fun x t =>
      ((t.set (ELINK_EQ_VTH d x.1) x.2.1).set (ELINK_EQ_DFE1 d x.1) x.2.2.1).set (ELINK_EQ_DFE2 d x.1) x.2.2.2
    let s := if met then
        let s := s.each (v.gains.filter (fun g => bandOk (band s.get d g.1))) fun g t => t.set ⟨SYN_BAND d g.1 + 4, 16, 16⟩ g.2
        s.each (List.range 2560) fun sl t => t.set (LP_DEMOD_PHASE_PHASE d sl) (tabGet (fun _ => 0) v.phases sl)
      else s
    let s := (if met then [calTdc, calGain, calLink, calDemod] else [calTdc, calLink]).foldl
      (fun t k => t.calTaken d k 5 v.temp) s
    let s := s.showSave d
    if top.valid then s else s.raise (CAL_EVENTS_CAL_RESTORED_OLD d)

end Sys2Proof.Machine
end

