-- ==== Sys2Proof/Machine/Crypto.lean ====
section
/-!
DEFINITION. Machine/Crypto.lean: the functions that the security rules name: SHA-256, SHA-384, HMAC, HKDF, and
the arithmetic of the curve P-384 (spec/00_scope.md, definitions; spec/12_security.md).  Bytes are numbers below 256.
-/

namespace Sys2Proof.Machine

/-! ### SHA-2 -/

/-- The parameters in which SHA-256 and SHA-384 differ: word width, block bytes, rounds and rotations. -/
structure ShaKind where
  w : Nat
  rounds : Nat
  k : List Nat
  s0 : Nat × Nat × Nat
  s1 : Nat × Nat × Nat
  b0 : Nat × Nat × Nat
  b1 : Nat × Nat × Nat
  deriving DecidableEq, Repr

def sha256K : List Nat :=
  [0x428a2f98, 0x71374491, 0xb5c0fbcf, 0xe9b5dba5, 0x3956c25b, 0x59f111f1, 0x923f82a4, 0xab1c5ed5]
  ++ [0xd807aa98, 0x12835b01, 0x243185be, 0x550c7dc3, 0x72be5d74, 0x80deb1fe, 0x9bdc06a7, 0xc19bf174]
  ++ [0xe49b69c1, 0xefbe4786, 0x0fc19dc6, 0x240ca1cc, 0x2de92c6f, 0x4a7484aa, 0x5cb0a9dc, 0x76f988da]
  ++ [0x983e5152, 0xa831c66d, 0xb00327c8, 0xbf597fc7, 0xc6e00bf3, 0xd5a79147, 0x06ca6351, 0x14292967]
  ++ [0x27b70a85, 0x2e1b2138, 0x4d2c6dfc, 0x53380d13, 0x650a7354, 0x766a0abb, 0x81c2c92e, 0x92722c85]
  ++ [0xa2bfe8a1, 0xa81a664b, 0xc24b8b70, 0xc76c51a3, 0xd192e819, 0xd6990624, 0xf40e3585, 0x106aa070]
  ++ [0x19a4c116, 0x1e376c08, 0x2748774c, 0x34b0bcb5, 0x391c0cb3, 0x4ed8aa4a, 0x5b9cca4f, 0x682e6ff3]
  ++ [0x748f82ee, 0x78a5636f, 0x84c87814, 0x8cc70208, 0x90befffa, 0xa4506ceb, 0xbef9a3f7, 0xc67178f2]

def sha512K : List Nat :=
  [0x428a2f98d728ae22, 0x7137449123ef65cd, 0xb5c0fbcfec4d3b2f, 0xe9b5dba58189dbbc]
  ++ [0x3956c25bf348b538, 0x59f111f1b605d019, 0x923f82a4af194f9b, 0xab1c5ed5da6d8118]
  ++ [0xd807aa98a3030242, 0x12835b0145706fbe, 0x243185be4ee4b28c, 0x550c7dc3d5ffb4e2]
  ++ [0x72be5d74f27b896f, 0x80deb1fe3b1696b1, 0x9bdc06a725c71235, 0xc19bf174cf692694]
  ++ [0xe49b69c19ef14ad2, 0xefbe4786384f25e3, 0x0fc19dc68b8cd5b5, 0x240ca1cc77ac9c65]
  ++ [0x2de92c6f592b0275, 0x4a7484aa6ea6e483, 0x5cb0a9dcbd41fbd4, 0x76f988da831153b5]
  ++ [0x983e5152ee66dfab, 0xa831c66d2db43210, 0xb00327c898fb213f, 0xbf597fc7beef0ee4]
  ++ [0xc6e00bf33da88fc2, 0xd5a79147930aa725, 0x06ca6351e003826f, 0x142929670a0e6e70]
  ++ [0x27b70a8546d22ffc, 0x2e1b21385c26c926, 0x4d2c6dfc5ac42aed, 0x53380d139d95b3df]
  ++ [0x650a73548baf63de, 0x766a0abb3c77b2a8, 0x81c2c92e47edaee6, 0x92722c851482353b]
  ++ [0xa2bfe8a14cf10364, 0xa81a664bbc423001, 0xc24b8b70d0f89791, 0xc76c51a30654be30]
  ++ [0xd192e819d6ef5218, 0xd69906245565a910, 0xf40e35855771202a, 0x106aa07032bbd1b8]
  ++ [0x19a4c116b8d2d0c8, 0x1e376c085141ab53, 0x2748774cdf8eeb99, 0x34b0bcb5e19b48a8]
  ++ [0x391c0cb3c5c95a63, 0x4ed8aa4ae3418acb, 0x5b9cca4f7763e373, 0x682e6ff3d6b2b8a3]
  ++ [0x748f82ee5defb2fc, 0x78a5636f43172f60, 0x84c87814a1f0ab72, 0x8cc702081a6439ec]
  ++ [0x90befffa23631e28, 0xa4506cebde82bde9, 0xbef9a3f7b2c67915, 0xc67178f2e372532b]
  ++ [0xca273eceea26619c, 0xd186b8c721c0c207, 0xeada7dd6cde0eb1e, 0xf57d4f7fee6ed178]
  ++ [0x06f067aa72176fba, 0x0a637dc5a2c898a6, 0x113f9804bef90dae, 0x1b710b35131c471b]
  ++ [0x28db77f523047d84, 0x32caab7b40c72493, 0x3c9ebe0a15c9bebc, 0x431d67c49c100d4c]
  ++ [0x4cc5d4becb3e42b6, 0x597f299cfc657e2a, 0x5fcb6fab3ad6faec, 0x6c44198c4a475817]

def sha256Kind : ShaKind := ⟨32, 64, sha256K, (7, 18, 3), (17, 19, 10), (2, 13, 22), (6, 11, 25)⟩
def sha384Kind : ShaKind := ⟨64, 80, sha512K, (1, 8, 7), (19, 61, 6), (28, 34, 39), (14, 18, 41)⟩

def sha256Init : List Nat := [0x6a09e667, 0xbb67ae85, 0x3c6ef372, 0xa54ff53a, 0x510e527f, 0x9b05688c, 0x1f83d9ab, 0x5be0cd19]
def sha384Init : List Nat :=
  [0xcbbb9d5dc1059ed8, 0x629a292a367cd507, 0x9159015a3070dd17, 0x152fecd8f70e5939]
  ++ [0x67332667ffc00b31, 0x8eb44a8768581511, 0xdb0c2e0d64f98fa7, 0x47b5481dbefa4fa4]

/-- Rotate right within the word. -/
def ShaKind.rotr (h : ShaKind) (x n : Nat) : Nat := (x / 2 ^ n) ||| (x * 2 ^ (h.w - n) % 2 ^ h.w)

/-- The small sigma functions: two rotations and a shift. -/
def ShaKind.sigma (h : ShaKind) (p : Nat × Nat × Nat) (x : Nat) : Nat :=
  (h.rotr x p.1 ^^^ h.rotr x p.2.1) ^^^ (x / 2 ^ p.2.2)

/-- The large sigma functions: three rotations. -/
def ShaKind.bigSigma (h : ShaKind) (p : Nat × Nat × Nat) (x : Nat) : Nat :=
  (h.rotr x p.1 ^^^ h.rotr x p.2.1) ^^^ h.rotr x p.2.2

/-- The message schedule, newest word first: `n` words more. -/
def ShaKind.schedule (h : ShaKind) : Nat → List Nat → List Nat
  | 0, ws => ws
  | n + 1, ws =>
    h.schedule n (((h.sigma h.s1 (ws.getD 1 0) + ws.getD 6 0 + h.sigma h.s0 (ws.getD 14 0) + ws.getD 15 0) % 2 ^ h.w) :: ws)

/-- One round on the eight working variables. -/
def ShaKind.round (h : ShaKind) (v : List Nat) (kw : Nat × Nat) : List Nat :=
  match v with
  | [a, b, c, d, e, f, g, x] =>
    let ch := (e &&& f) ^^^ ((e ^^^ (2 ^ h.w - 1)) &&& g)
    let maj := ((a &&& b) ^^^ (a &&& c)) ^^^ (b &&& c)
    let t1 := x + h.bigSigma h.b1 e + ch + kw.1 + kw.2
    let t2 := h.bigSigma h.b0 a + maj
    [(t1 + t2) % 2 ^ h.w, a, b, c, (d + t1) % 2 ^ h.w, e, f, g]
  | _ => v

/-- One block, given as its words. -/
def ShaKind.block (h : ShaKind) (st ws : List Nat) : List Nat :=
  let sched := (h.schedule (h.rounds - 16) ws.reverse).reverse
  let v := (h.k.zip sched).foldl h.round st
  (st.zip v).map (fun p => (p.1 + p.2) % 2 ^ h.w)

/-- The words of `n` bytes each of a message, most significant byte first. -/
def wordsBE (n : Nat) : Nat → List Nat → List Nat
  | 0, _ => []
  | k + 1, bs => natBE (bs.take n) :: wordsBE n k (bs.drop n)

/-- The padded message: 0x80, zeros, the length in bits. -/
def ShaKind.pad (h : ShaKind) (bs : List Nat) : List Nat :=
  let blk := 2 * h.w
  let z := (2 * blk - (bs.length + 1 + h.w / 4) % blk) % blk
  bs ++ 0x80 :: (List.replicate z 0 ++ bytesBE (h.w / 4) (8 * bs.length))

def ShaKind.blocks (h : ShaKind) : Nat → List Nat → List Nat → List Nat
  | 0, st, _ => st
  | n + 1, st, bs => h.blocks n (h.block st (wordsBE (h.w / 8) 16 bs)) (bs.drop (2 * h.w))

def ShaKind.hash (h : ShaKind) (init bs : List Nat) : List Nat :=
  let p := h.pad bs
  (h.blocks (p.length / (2 * h.w)) init p).flatMap (bytesBE (h.w / 8))

/-- SHA-256, 32 bytes. -/
def sha256 (bs : List Nat) : List Nat := sha256Kind.hash sha256Init bs

/-- SHA-384, 48 bytes. -/
def sha384 (bs : List Nat) : List Nat := (sha384Kind.hash sha384Init bs).take 48

/-- HMAC over a hash with blocks of `blk` bytes. -/
def hmac (hash : List Nat → List Nat) (blk : Nat) (key msg : List Nat) : List Nat :=
  let k := if blk < key.length then hash key else key
  let k := k ++ List.replicate (blk - k.length) 0
  hash (k.map (· ^^^ 0x5C) ++ hash (k.map (· ^^^ 0x36) ++ msg))

def hmacSha256 (key msg : List Nat) : List Nat := hmac sha256 64 key msg
def hmacSha384 (key msg : List Nat) : List Nat := hmac sha384 128 key msg

/-- `n` blocks of HKDF-Expand with SHA-384. -/
def hkdfBlocks (prk info : List Nat) : Nat → Nat → List Nat → List Nat
  | 0, _, _ => []
  | n + 1, i, prev =>
    let t := hmacSha384 prk (prev ++ info ++ [i])
    t ++ hkdfBlocks prk info n (i + 1) t

/-- HKDF-SHA-384 with `len` bytes of output. -/
def hkdfSha384 (salt ikm info : List Nat) (len : Nat) : List Nat :=
  (hkdfBlocks (hmacSha384 salt ikm) info (ceilDiv len 48) 1 []).take len

/-! ### P-384 (FIPS 186-5): y² = x³ − 3x + b over the field of p elements, base point of order n -/

def p384P : Nat := 2 ^ 384 - 2 ^ 128 - 2 ^ 96 + 2 ^ 32 - 1
def p384N : Nat := 0xffffffffffffffffffffffffffffffffffffffffffffffffc7634d81f4372ddf581a0db248b0a77aecec196accc52973
def p384B : Nat := 0xb3312fa7e23ee7e4988e056be3f82d19181d9c6efe8141120314088f5013875ac656398d8a2ed19d2a85c8edd3ec2aef
def p384G : Nat × Nat :=
  (0xaa87ca22be8b05378eb1c71ef320ad746e1d3b628ba79b9859f741e082542a385502f25dbf55296c3a545e3872760ab7,
   0x3617de4a96262c6f5d9e98bf9292dc29f8f41dbd289a147ce9da3113b5f0b8c00a60b1ce1d7e819d7a431d7c90ea0e5f)

/-- `x ^ e mod m` over the lowest `k` hexadecimal digits of `e`. -/
def powMod (m : Nat) : Nat → Nat → Nat → Nat
  | 0, _, _ => 1
  | k + 1, x, e => powMod m k x (e / 16) ^ 16 * x ^ (e % 16) % m

/-- The inverse modulo a prime `m` of 384 bits. -/
def invMod (m x : Nat) : Nat := powMod m 96 (x % m) (m - 2)

/-- The sum of two points; none is the point at infinity. -/
def ecAdd (a b : Option (Nat × Nat)) : Option (Nat × Nat) :=
  match a, b with
  | none, q => q
  | p, none => p
  | some p, some q =>
    if p.1 = q.1 ∧ (p.2 + q.2) % p384P = 0 then none
    else
      let l := if p = q then (3 * p.1 * p.1 + (p384P - 3)) * invMod p384P (2 * p.2) % p384P
        else (q.2 + p384P - p.2) * invMod p384P (q.1 + p384P - p.1) % p384P
      let x := (l * l + 2 * p384P - p.1 - q.1) % p384P
      some (x, (l * (p.1 + p384P - x) + p384P - p.2) % p384P)

/-- `k` times a point, over the lowest `n` bits of `k`. -/
def ecMul : Nat → Nat → Option (Nat × Nat) → Option (Nat × Nat)
  | 0, _, _ => none
  | n + 1, k, p =>
    let h := ecMul n (k / 2) (ecAdd p p)
    if k % 2 = 1 then ecAdd p h else h

/-- The point lies on the curve. -/
def onCurve (q : Nat × Nat) : Bool :=
  decide (q.1 < p384P) && decide (q.2 < p384P)
    && q.2 * q.2 % p384P == (q.1 * q.1 * q.1 + (p384P - 3) * q.1 + p384B) % p384P

/-- An uncompressed public key: 0x04, X and Y of 48 bytes each. [log 28: DEDUCED] -/
def pointOf (bs : List Nat) : Option (Nat × Nat) :=
  if bs.length = 97 ∧ bs.headD 0 = 4 then some (natBE ((bs.drop 1).take 48), natBE (bs.drop 49)) else none

def bytesOf (q : Nat × Nat) : List Nat := 4 :: (bytesBE 48 q.1 ++ bytesBE 48 q.2)

/-- ECDSA P-384: does (r, s) sign the digest under the key? [log 28: DEDUCED] -/
def ecdsaOk (key digest : List Nat) (r s : Nat) : Bool :=
  match pointOf key with
  | none => false
  | some q =>
    onCurve q && decide (0 < r) && decide (r < p384N) && decide (0 < s) && decide (s < p384N) &&
      (let w := invMod p384N s
       match ecAdd (ecMul 384 (natBE digest * w % p384N) (some p384G)) (ecMul 384 (r * w % p384N) (some q)) with
       | some v => v.1 % p384N == r
       | none => false)

/-- The signature of a digest under private key `x` with per-message secret `k`. -/
def ecdsaSign (x k : Nat) (digest : List Nat) : Nat × Nat :=
  let r := match ecMul 384 k (some p384G) with
    | some v => v.1 % p384N
    | none => 0
  (r, invMod p384N k * (natBE digest + r * x) % p384N)

/-- The public key of private key `x`. -/
def ecPublic (x : Nat) : List Nat :=
  match ecMul 384 x (some p384G) with
  | some q => bytesOf q
  | none => List.replicate 97 0

/-- The x-coordinate of the ECDH shared point, 48 bytes. -/
def ecdh (x : Nat) (peer : List Nat) : List Nat :=
  match (pointOf peer).bind (fun q => ecMul 384 x (some q)) with
  | some q => bytesBE 48 q.1
  | none => List.replicate 48 0

end Sys2Proof.Machine
end

