-- ==== Sys2Proof/Machine/Secure.lean ====
section
/-!
DEFINITION. Machine/Secure.lean: what every part of the package needs of the security engine: package time,
the audit log, authentication failures, the end of a session (spec/12_security.md, R335, R336, R339, R343).
-/

namespace Sys2Proof.Machine

/-- The view of a register field that port `p` has for itself. -/
abbrev onPort (p : Nat) (f : Fld) : Fld := ⟨portReg p f.addr, f.lo, f.w⟩

/-- Package time in nanoseconds at the present moment (R199). [log 61: DESIGN CHOICE] -/
def Chip.pkgNs (s : Chip) : Nat := s.time.now + s.moment

/-- TICK_ORIGIN in nanoseconds (R22). -/
def Chip.originNs (s : Chip) : Nat := s.get PKG_ORIGIN_SEC_SEC * 1000000000 + s.get PKG_ORIGIN_NS_NS

/-- The first boundary at or after package time `ns` (R175). -/
def Chip.boundaryOf (s : Chip) (ns : Nat) : Nat := ceilDiv (ns - s.originNs) s.tickNs

/-! ### Audit log (R343) -/

/-- Bytes 0 to 63 of an entry. -/
def Audit.head (a : Audit) : List Nat :=
  bytesLE 4 a.index ++ bytesLE 2 a.type ++ [a.site, a.result] ++ bytesLE 8 a.tick ++ bytesLE 8 a.session
    ++ bytesLE 4 (a.time / 1000000000) ++ bytesLE 4 (a.time % 1000000000)
    ++ (a.detail ++ List.replicate 32 0).take 32

/-- H_i of entry i, from that of its predecessor. -/
def Audit.next (h : List Nat) (a : Audit) : List Nat := sha384 (h ++ a.head)

def Audit.bytes (a : Audit) : List Nat := a.head ++ a.hash

def Chip.modSec (s : Chip) (f : SecRec → SecRec) : Chip := { s with sec := f s.sec }

/-- The log of die `d`, and of the captain. -/
def Chip.log (s : Chip) (d : Nat) : AuditLog := tabGet (fun _ => {}) s.sec.logs d
def Chip.setLog (s : Chip) (d : Nat) (l : AuditLog) : Chip :=
  s.modSec (fun r => { r with logs := tabPut (fun _ => {}) r.logs d l })
def Chip.audit (s : Chip) : List Audit := (s.log s.captain).entries
def Chip.auditNext (s : Chip) : Nat := (s.log s.captain).next

/-- H of the predecessor of the oldest entry: as stored, or H_(−1). -/
def Chip.logBase (s : Chip) (l : AuditLog) : List Nat :=
  if l.base.isEmpty then sha384 (bytesLE 8 (s.get PKG_SERIAL_SERIAL)) else l.base

/-- H of the newest entry of the captain's log. -/
def Chip.auditHash (s : Chip) : List Nat :=
  match s.audit.getLast? with
  | some a => a.hash
  | none => s.logBase (s.log s.captain)

/-- A log takes an entry; the 4,096 most recent are kept. -/
def AuditLog.store (l : AuditLog) (a : Audit) : AuditLog :=
  let es := l.entries.filter (fun b => decide (b.index < a.index)) ++ [a]
  if es.length ≤ 4096 then { l with entries := es, next := a.index + 1 }
  else { entries := es.drop 1, base := (es.head?.map (·.hash)).getD l.base, next := a.index + 1 }

/-- A log takes the entries of the captain's that it lacks, and drops those that lie above its head (R343). -/
def AuditLog.follow (l cap : AuditLog) : AuditLog :=
  if l.next = cap.next then l
  else if cap.next < l.next ∨ l.next < (cap.entries.head?.map (·.index)).getD cap.next then cap
  else (cap.entries.filter (fun a => decide (l.next ≤ a.index))).foldl AuditLog.store l

/-- Die `d` stores the log: it is in service, or starts with the package. [log 25: DESIGN CHOICE] -/
def Chip.keepsLog (s : Chip) (d : Nat) : Bool := d == s.captain || s.inService d || (!s.started && s.runs d)

/-- SEC_LOG_HEAD shows the captain's head. -/
def Chip.showHead (s : Chip) : Chip := s.set SEC_LOG_HEAD_INDEX (s.auditNext - 1)

/-- The captain appends an entry that die `d` originates, and every die that keeps the log stores a copy (R343). [log 25: DESIGN
CHOICE] -/
def Chip.auditFrom (s : Chip) (d type result : Nat) (detail : List Nat) : Chip :=
  let a : Audit := { index := s.auditNext, type := type, site := d, result := result, tick := s.tick
                     session := s.get SEC_SESS_ID_ID, time := s.pkgNs, detail := detail, hash := [] }
  let a := { a with hash := a.next s.auditHash }
  let cap := s.log s.captain
  (s.each ((List.range 8).filter s.keepsLog) fun e t => t.setLog e (((t.log e).follow cap).store a)).showHead

/-- An entry that the captain originates. -/
def Chip.auditAdd (s : Chip) (type result : Nat) (detail : List Nat) : Chip := s.auditFrom s.captain type result detail

/-- A security F0 fault whose detail is the type of the audit entry (Table 13.2). -/
def Chip.secF0 (s : Chip) (type : Nat) : Chip := s.raiseF0 FAULT_F0_EVENTS_SECURITY 0x04 type

/-! ### Sessions (R333 to R336, R339, R345) -/

/-- The port that holds the open session. -/
def Chip.sessPort (s : Chip) : Option Nat := s.sec.sess.map (·.1)

/-- Port `p` holds the open session. -/
def Chip.holdsSession (s : Chip) (p : Nat) : Bool := s.sessPort == some p

/-- Show the state that each port sees, the open session and the control leases (R345, R392). -/
def Chip.showSess (s : Chip) : Chip :=
  s.each [0, 1] fun p t =>
    let st := if t.sec.lockout then 3 else if t.holdsSession p then 2
      else if (t.sec.chal.map (·.1)) == some p then 1 else 0
    let t := t.set (onPort p SEC_SESS_STATUS_STATE) st
    let t := (t.setB (HOST_STATUS_LEASE p) (t.holdsSession p))
    match t.sec.sess with
    | some (q, k, f, _) => ((t.set (onPort p SEC_SESS_STATUS_PORT) q).set (onPort p SEC_SESS_STATUS_OWNER_SLOT) k).setB
        (onPort p SEC_SESS_STATUS_FIRST_OWNER) f
    | none => ((t.set (onPort p SEC_SESS_STATUS_PORT) 0).set (onPort p SEC_SESS_STATUS_OWNER_SLOT) 0).set
        (onPort p SEC_SESS_STATUS_FIRST_OWNER) 0

/-- The held group of port `p`, and its replacement, shown in SEC_AW_STATUS. -/
def Chip.heldOf (s : Chip) (p : Nat) : List (Nat × Word) := tabGet (fun _ => []) s.sec.held p
def Chip.setHeld (s : Chip) (p : Nat) (l : List (Nat × Word)) : Chip :=
  (s.modSec (fun r => { r with held := tabPut (fun _ => []) r.held p l })).set (onPort p SEC_AW_STATUS_COUNT) l.length

/-- Library writes among `l` (addresses with bit 31 set) that are discarded: each counts at its die (R167).
[log 96: DESIGN CHOICE] -/
def Chip.libLost (s : Chip) (l : List (Nat × Word)) : Chip :=
  s.each (l.filter (fun w => decide (0x80000000 ≤ w.1))) fun w t =>
    let d := (w.1 - 0x80000000) / 0x2000000
    if t.runs d then t.libDiscard d else t

/-- The held group of port `p` is discarded. -/
def Chip.heldDrop (s : Chip) (p : Nat) : Chip := (s.libLost (s.heldOf p)).setHeld p []

def Chip.awResult (s : Chip) (p r : Nat) : Chip := s.set (onPort p SEC_AW_STATUS_RESULT) r

/-- Reasons of a SESSION_END entry, in the order of R336. [log 25: DESIGN CHOICE] -/
abbrev endClose : Nat := 1
abbrev endIdle : Nat := 2
abbrev endPort : Nat := 3
abbrev endDie : Nat := 4
abbrev endOther : Nat := 5
abbrev endRevoked : Nat := 6
abbrev endLockout : Nat := 7

/-- The session ends (R336). -/
def Chip.sessEnd (s : Chip) (reason : Nat) : Chip :=
  match s.sec.sess with
  | none => s
  | some _ =>
    let s := s.auditAdd 6 0 [reason]
    let s := s.modSec (fun r => { r with sess := none, ctrlKey := [], volKey := [] })
    let s := ((s.heldDrop 0).heldDrop 1).set SEC_SESS_ID_ID 0
    (s.raise SEC_EVENTS_SESSION).showSess

/-- A lockout (R339). -/
def Chip.lockOut (s : Chip) : Chip :=
  let s := (s.sessEnd endLockout).modSec (fun r => { r with lockout := true, chal := none })
  let s := ((s.set SEC_FAIL_CNT_CONSEC 0).raise SEC_EVENTS_LOCKOUT).auditAdd 7 0 []
  (s.secF0 7).showSess

/-- An authentication failure (R339). -/
def Chip.authFail (s : Chip) : Chip :=
  let s := (s.bump SEC_FAIL_CNT_TOTAL).bump SEC_FAIL_CNT_CONSEC
  let s := s.raiseF3 SEC_EVENTS_AUTH_FAIL
  if max 2 (s.get SEC_SESS_CFG_FAIL_LIMIT) ≤ s.get SEC_FAIL_CNT_CONSEC then s.lockOut else s

/-- A tagged item with sequence `q` is accepted (R335, R339). -/
def Chip.seqAccept (s : Chip) (q : Nat) : Chip :=
  (((s.modSec (fun r => { r with seqLast := q })).set SEC_SEQ_LAST_SEQ q).set VOL_SEQ_LAST_SEQ q).set SEC_FAIL_CNT_CONSEC 0

end Sys2Proof.Machine
end

