-- ==== Sys2Proof/Machine/Volley.lean ====
section
/-!
DEFINITION. Machine/Volley.lean: host volleys: queue slots, staging, arming, the apply boundary, late policy,
aborts (spec/07_volleys.md, R172 to R191).
-/

namespace Sys2Proof.Machine

/-! ### Queue slots (Tables 7.2, 7.4) -/

abbrev vFree : Nat := 0
abbrev vWriting : Nat := 1
abbrev vStaged : Nat := 2
abbrev vArmed : Nat := 3
abbrev vApplied : Nat := 4
abbrev vAppliedLate : Nat := 5
abbrev vPast : Nat := 6
abbrev vNotArmed : Nat := 7
abbrev vAuth : Nat := 8
abbrev vAborted : Nat := 9

def Chip.vol (s : Chip) (q : Nat) : VolRec := tabGet (fun _ => {}) s.vols q
def Chip.setVol (s : Chip) (q : Nat) (r : VolRec) : Chip := { s with vols := tabPut (fun _ => {}) s.vols q r }
def Chip.modVol (s : Chip) (q : Nat) (f : VolRec → VolRec) : Chip := s.setVol q (f (s.vol q))

def Chip.vst (s : Chip) (q : Nat) : Nat := s.get (VOL_Q_STATUS_STATE q)
def Chip.volB (s : Chip) (q : Nat) : Nat := s.get (VOL_Q_APPLY_TICK_TICK q)

def queueSlots : List Nat := List.range 64

/-- Enter a state; FREE counts the free slots. -/
def Chip.setVst (s : Chip) (q st : Nat) : Chip :=
  let t := s.set (VOL_Q_STATUS_STATE q) st
  t.set VOL_STATUS_FREE (queueSlots.filter (fun k => t.vst k == vFree)).length

def Chip.volCause (s : Chip) (q c : Nat) : Chip := s.set (VOL_Q_STATUS_CAUSE q) c

/-- A final FAILED_ state with a cause (R177, R179, R188). -/
def Chip.volFail (s : Chip) (q st c : Nat) : Chip :=
  let t := ((s.setVst q st).volCause q c).set (VOL_Q_STATUS_BUSY q) 0
  let t := if (s.vol q).tooLate then t.set (VOL_Q_STATUS_ABORT_LATE q) 1 else t
  (t.raise VOL_EVENTS_FAILED).bump VOL_FAILED_CNT_COUNT

/-! ### Entries (R172) -/

def veChannel (e : Nat) : Nat := e % 2 ^ 15
def veState (e : Nat) : Nat := bitsOf e 15 10
def veHop (e : Nat) : Nat := bitsOf e 25 2
def veInteg (e : Nat) : Nat := bitsOf e 27 2
def veNoKick (e : Nat) : Bool := maskBit e 29
def veForce (e : Nat) : Bool := maskBit e 30

/-- The policy of an entry under its header's (codes of Table 7.2 and of Table 7.1). -/
def vePolicy (hdr e : Nat) : Policy :=
  let h := fun (c : Nat) => if c = 0 then Policy.preload else if c = 1 then Policy.keep else Policy.reset
  if veInteg e = 0 then h hdr else h (veInteg e - 1)

/-- The hop of an entry under its header's: true for HOP_RESET. -/
def veHopReset (hdr : Bool) (e : Nat) : Bool := if veHop e = 0 then hdr else veHop e == 2

/-! ### Where a channel is served (R185, R186) -/

/-- The die and slot that serve channel `c`: its home slot, or a bench slot that covers it. -/
def Chip.servedAt (s : Chip) (c : Nat) : Option (Nat × Nat) :=
  let h := chanDie c
  let e := chanSlot c / 256
  if s.inService h then some (h, chanSlot c)
  else if s.isProt h e then
    let b := backupDie s.dieCount h e
    if s.inService b && s.on (DIE_COVER_H0_ACTIVE b) && s.get (DIE_COVER_H0_DIE b) == h && s.get (DIE_COVER_H0_EFE b) == e then
      some (b, 2048 + chanSlot c % 256)
    else if s.inService b && s.on (DIE_COVER_H1_ACTIVE b) && s.get (DIE_COVER_H1_DIE b) == h
        && s.get (DIE_COVER_H1_EFE b) == e then some (b, 2304 + chanSlot c % 256)
    else none
  else none

/-- A covering of channel `c` has been ordered or is under way (R185). -/
def Chip.coverComing (s : Chip) (c : Nat) : Bool :=
  s.isProt (chanDie c) (chanSlot c / 256) && (match s.fault.coverAt with
    | some a => a.1 == chanDie c
    | none => (s.die (chanDie c)).sidelineDue || s.fault.order == some (chanDie c))

/-- One entry at its slot (R184): the outcome's row of Table 7.7 (0 APPLIED, 1 UNCHANGED, 2 INACTIVE, 5 PARKED). -/
def Chip.applyEntry (s : Chip) (d sl e : Nat) (pol : Policy) (reset : Bool) : Chip × Nat :=
  let q := veState e
  if !(s.slot d sl).active then (s.set (CH_STATE_TARGET d sl) q, 2)
  else if q = s.get (CH_STATE_CURRENT d sl) ∧ !veForce e then (s, 1)
  else
    let t := s.changeState d sl q pol (some (if reset then 2 else 1)) false true
    -- a state change costs three lane-cycles of step 5 (R26)
    let t := t.modDie d (fun r => { r with work := r.work + 3 })
    let t := if veNoKick e then
        t.modSlot d sl (fun r => { r with kick := [], kickX := max 1 (t.get (LP_CTRL_SETTLE d sl)) })
      else t
    (t, if t.get (CH_STATE_CURRENT d sl) ≠ q ∨ (t.slot d sl).parkHeld then 5 else 0)

/-- The backup die of channel `c` is in service and holds the standby entry of a volley that the dies that `f` admits
apply (R178, R185). -/
def Chip.standbyHeld (s : Chip) (f : Nat → Bool) (c : Nat) : Bool :=
  let b := backupDie s.dieCount (chanDie c) (chanSlot c / 256)
  s.isProt (chanDie c) (chanSlot c / 256) && s.inService b && f b

/-- The outcome of an entry for channel `c`: applied where it is served by a die that `f` admits; left to the backup die
(6) where its home die discards it without having GO, or where its covering is under way; else unserved (3). [log 123: DESIGN
CHOICE] -/
def Chip.outcome (s : Chip) (f : Nat → Bool) (e : Nat) (pol : Policy) (reset : Bool) : Chip × Nat :=
  match s.servedAt (veChannel e) with
  | some (d, sl) => if f d then s.applyEntry d sl e pol reset else (s, if s.standbyHeld f (veChannel e) then 6 else 3)
  | none => (s, if s.coverComing (veChannel e) ∧ s.standbyHeld f (veChannel e) then 6 else 3)

/-! ### Staging (R173, R174, R177) -/

/-- A slot is open for header and entry writes. -/
def Chip.volOpen (s : Chip) (q : Nat) : Bool := s.vst q == vWriting && !s.on (VOL_Q_STATUS_BUSY q)

/-- A staging or header write to a slot that is not open is discarded (R177). -/
def Chip.volDiscard (s : Chip) : Chip := (s.bump VOL_STAGING_DISCARD_COUNT).raise VOL_EVENTS_STAGING_DISCARD

/-- A header register of a slot: its writable bits. -/
def volHdrMask (o : Nat) : Option Nat :=
  if o = 0x08 then some 0x1F7FFF
  else if o = 0x14 then some 0xFFFF
  else if o = 0x04 ∨ o = 0x0C ∨ o = 0x10 ∨ o = 0x18 ∨ o = 0x1C ∨ (0x20 ≤ o ∧ o < 0x40) then some 0xFFFFFFFF
  else none

/-- A write to the staging region (0x0080_0000) or to a header register of queue slot `q`. -/
def Chip.volWrite (s : Chip) (a : Nat) (v : Word) : Chip :=
  if 0x800000 ≤ a then
    let i := (a - 0x800000) / 4
    if s.volOpen (i / 16384) then { s with volStage := tabPut (fun _ => 0) s.volStage i v.toNat } else s.volDiscard
  else
    let q := (a - 0x31000) / 0x80
    match volHdrMask ((a - 0x31000) % 0x80) with
    | some m => if s.volOpen q then s.setReg a (v &&& BitVec.ofNat 32 m) else s.volDiscard
    | none => s

/-- The first `n` entries of a slot. -/
def Chip.stageEntries (s : Chip) (q n : Nat) : List Nat :=
  (List.range n).map (fun i => tabGet (fun _ => 0) s.volStage (q * 16384 + i))

def Chip.volSeq (s : Chip) (q : Nat) : Nat := s.get (VOL_Q_SEQ_SEQ q)

/-- The message that the tag covers (R174, Table 7.3). -/
def Chip.volMessage (s : Chip) (q : Nat) (es : List Nat) : List Nat :=
  bytesLE 4 (s.get (VOL_Q_ID_ID q)) ++ bytesLE 4 (s.reg (VOL_Q_HDR q)).toNat ++ bytesLE 4 (s.get (VOL_Q_TIME_NS_NS q))
    ++ bytesLE 4 (s.get (VOL_Q_TIME_SEC_LO_SEC q)) ++ bytesLE 2 (s.get (VOL_Q_TIME_SEC_HI_SEC q)) ++ List.replicate 6 0
    ++ bytesLE 8 (s.volSeq q) ++ bytesLE 8 (s.get PKG_SERIAL_SERIAL) ++ es.flatMap (bytesLE 4)

def Chip.volTag (s : Chip) (q : Nat) : List Nat := (List.range 8).flatMap (fun i => bytesLE 4 (s.reg (VOL_Q_TAG q i)).toNat)

/-- No two channels of a list are equal. -/
def noRepeat : List Nat → Bool
  | [] => true
  | a :: r => !r.contains a && noRepeat r

/-- The first cause of R177 that applies to a STAGE through port `p`; 0 for none. [log 53: DESIGN CHOICE] -/
def Chip.stageCause (s : Chip) (p q : Nat) : Nat :=
  let n := s.get (VOL_Q_HDR_COUNT q)
  let es := s.stageEntries q n
  let base := s.on (VOL_Q_HDR_BASE q)
  -- from the acceptance of a captain's ordered sideline on no STAGE is accepted (R364)
  if (s.fault.sideAt.map (·.1)) == some s.captain then 6
  else if !base ∧ !s.on TIME_STATUS_VALID then 1
  else if n = 0 ∨ 16384 < n then 2
  else if es.any (fun e => decide (s.dieCount * 2048 ≤ veChannel e)) then 3
  else if !noRepeat (es.map veChannel) then 4
  else if es.any (fun e => maskBit e 31 || veHop e == 3) || s.get (VOL_Q_HDR_INTEG q) == 3
      || (base && s.get (VOL_Q_TIME_SEC_HI_SEC q) != 0)
      || (!base && decide (999999999 < s.get (VOL_Q_TIME_NS_NS q))) then 5
  else if !s.holdsSession p then 7
  else if base ∧ !s.started then 15
  else 0

/-- STAGE written through port `p` for a slot in WRITING: refused, or verification begins (R177).  The captain handles tagged items
one at a time in order of arrival, so that tag and sequence count, or fail, with the session as the STAGE finds it (R335, R336); the
slot shows the outcome when verification ends. [log 52: DESIGN CHOICE] -/
def Chip.volStart (s : Chip) (p q : Nat) : Chip :=
  let c := s.stageCause p q
  if c ≠ 0 then (s.volCause q c).raise VOL_EVENTS_STAGE_REFUSED
  else
    let es := s.stageEntries q (s.get (VOL_Q_HDR_COUNT q))
    let seq := s.volSeq q
    let bad := if s.volTag q != hmacSha256 s.sec.volKey (s.volMessage q es) then 8 else if seq ≤ s.sec.seqLast then 9 else 0
    let s := if bad = 0 then s.seqAccept seq else s.authFail
    let s : Chip := { s with volOrder := s.volOrder + 1 }
    (s.set (VOL_Q_STATUS_BUSY q) 1).setVol q { entries := es, order := s.volOrder, verdict := bad,
                                                accepted := s.tick * s.tickNs + s.moment }

/-- The guard in nanoseconds. -/
def Chip.guardNs (s : Chip) : Nat := s.get VOL_ARM_GUARD_US * 1000

/-- The boundary that a slot's apply field resolves to (R175). -/
def Chip.volResolve (s : Chip) (q : Nat) : Nat :=
  if s.on (VOL_Q_HDR_BASE q) then s.get (VOL_Q_TIME_NS_NS q) + 2 ^ 32 * s.get (VOL_Q_TIME_SEC_LO_SEC q)
  else s.boundaryOf ((s.get (VOL_Q_TIME_SEC_LO_SEC q) + 2 ^ 32 * s.get (VOL_Q_TIME_SEC_HI_SEC q)) * 1000000000
    + s.get (VOL_Q_TIME_NS_NS q))

/-- A segmented commit is accepted and not finished (R190). -/
def Chip.segments (s : Chip) : Option (Nat × Nat) :=
  match s.commit.at_ with
  | some c => if 1 < s.commit.plan.length then some (c, s.commit.plan.length) else none
  | none => none

/-- The staged set changes channel `c`: its tone settings or its live entries (R124, R166, R190). -/
def Chip.chanChanged (s : Chip) (c : Nat) : Bool := s.commit.chans.contains c

/-- A volley with these entries and boundary meets the commit (R190). -/
def Chip.meets (s : Chip) (es : List Nat) (b : Nat) : Bool :=
  match s.segments with
  | some (c, n) => decide (c ≤ b) && decide (b < c + n) && es.any (fun e => s.chanChanged (veChannel e))
  | none => false

/-- The late policy with cause `c`; APPLY_NEXT moves B to `b`, and the arming begins anew.  The cause of a move at STAGE is
not shown (R188); those of R189 and R190 are. -/
def Chip.volLate (s : Chip) (q b c : Nat) : Chip :=
  if s.on (VOL_Q_HDR_LATE q) then
    let s := if c = 10 then s else s.volCause q c
    (((s.setVst q vStaged).set (VOL_Q_APPLY_TICK_TICK q) b).set (VOL_Q_ARM_DIES q) 0).modVol q
      (fun r => { r with late := true, got := 0 })
  else s.volFail q vPast c

/-- The first boundary at least the guard after the moment `ns` of the grid. -/
def Chip.guardAfter (s : Chip) (ns : Nat) : Nat := ceilDiv (ns + s.guardNs) s.tickNs

/-- A host volley that meets an accepted segmented commit waits; the guard runs from the commit's acceptance (R190). -/
def Chip.volWait (s : Chip) (q : Nat) : Chip :=
  match s.segments with
  | some (c, n) =>
    if s.meets (s.vol q).entries (s.volB q) ∧ !(s.vol q).goSent then
      s.volLate q (max (c + n) (s.guardAfter s.commit.acceptedNs)) 12
    else s
  | none => s

/-- Slot `q` is under verification, and no other that is had its STAGE accepted before (R182). -/
def Chip.volTurn (s : Chip) (q : Nat) : Bool :=
  s.vst q == vWriting && s.on (VOL_Q_STATUS_BUSY q)
    && queueSlots.all (fun k => s.vst k != vWriting || !s.on (VOL_Q_STATUS_BUSY k) || decide ((s.vol q).order ≤ (s.vol k).order))

/-- The arm deadline of the volley of slot `q`, B − 20 µs, has passed (R179). -/
def Chip.armPast (s : Chip) (q : Nat) : Bool := decide (s.volB q * s.tickNs < s.tick * s.tickNs + s.moment + 20000)

/-- Verification ends, in the order of the STAGE acceptances; one that ends after the arm deadline of its volley has missed it
(R177, R182, R188, R190). [log 52: DESIGN CHOICE] -/
def Chip.volVerified (s : Chip) (q : Nat) : Chip :=
  if s.volTurn q then
    let r := s.vol q
    let s := s.set (VOL_Q_STATUS_BUSY q) 0
    if r.verdict ≠ 0 then s.volFail q vAuth r.verdict
    else
      let s := s.volCause q 0
      let b := s.volResolve q
      let s := (s.set (VOL_Q_APPLY_TICK_TICK q) b).set (VOL_Q_ARM_DIES q) 0
      let s := if b * s.tickNs < r.accepted + s.guardNs then s.volLate q (s.guardAfter r.accepted) 10 else s.setVst q vStaged
      let s := if s.vst q = vStaged then s.volWait q else s
      if s.vst q = vStaged ∧ s.armPast q then s.volFail q vNotArmed (if r.moved then 14 else 13) else s
  else s

def execVolTagVerified (q : Fin 64) (t : Nat) (s : State) : Host.Outcome State Fault Refusal :=
  s.act fun c => (c.at t).volVerified q

/-! ### Commands (R176, R191) -/

def isFinal (st : Nat) : Bool := decide (vApplied ≤ st)

/-- The content of slot `q` is discarded: its header registers and its entries (R176). [log 93: DESIGN CHOICE] -/
def Chip.volForget (s : Chip) (q : Nat) : Chip :=
  let s : Chip := { s with volStage := tabClear s.volStage (q * 16384) ((q + 1) * 16384) }
  (s.clearRegs (VOL_Q_ID q) (VOL_Q_STATUS q)).setVol q {}

/-- An ABORT (R191). -/
def Chip.volAbort (s : Chip) (q : Nat) : Chip :=
  let st := s.vst q
  let toAborted := fun (t : Chip) => (((t.setVst q vAborted).volCause q 0).set (VOL_Q_STATUS_BUSY q) 0).raise VOL_EVENTS_ABORTED
  if st = vWriting then (toAborted s).volForget q
  else if st = vStaged ∨ st = vArmed then
    if s.tick * s.tickNs + s.moment + 4000 < (s.volB q - 1) * s.tickNs then
      (toAborted s).modVol q (fun r => { r with abortSent := r.goSent, acks := 0 })
    else (s.modVol q (fun r => { r with tooLate := true })).raise VOL_EVENTS_ABORT_LATE
  else if isFinal st then (s.set (VOL_Q_STATUS_ABORT_LATE q) 1).raise VOL_EVENTS_ABORT_LATE
  else s.volCause q 6

/-- The entries that the volley of slot `q` has left to covering dies. -/
def Chip.leftOf (s : Chip) (q : Nat) : List LeftEntry :=
  (s.vol q).left.map (fun e => ⟨e, s.get (VOL_Q_HDR_INTEG q), s.on (VOL_Q_HDR_HOP q), (s.vol q).order⟩)

/-- A slot in WRITING or in a final state becomes FREE.  The entries that it has left to a covering die are still applied
there (R176, R185). -/
def Chip.volRelease (s : Chip) (q : Nat) : Chip :=
  let s : Chip := { s with sched := { s.sched with left := s.sched.left ++ s.leftOf q } }
  let s := (s.clearRegs (VOL_Q_STATUS q) (VOL_Q_REPORT_D q + 4)).setVol q {}
  s.setVst q vFree

/-- A write of VOL_Q_q_CTRL through port `p`. [log 18: DEDUCED] -/
def Chip.volCtrl (s : Chip) (p q : Nat) (v : Word) : Chip :=
  let x := v.toNat
  let n := (if maskBit x 31 then 1 else 0) + (if maskBit x 2 then 1 else 0) + (if maskBit x 1 then 1 else 0) + x % 2
  let st := s.vst q
  if n = 0 then s
  else if 1 < n then s.volCause q 6
  else if maskBit x 0 then
    if st = vFree then ((s.setVol q {}).setVst q vWriting).volCause q 0 else s.volCause q 6
  else if maskBit x 1 then s.volAbort q
  else if maskBit x 2 then
    if st = vWriting ∨ isFinal st then s.volRelease q else s.volCause q 6
  else if st = vWriting ∧ !s.on (VOL_Q_STATUS_BUSY q) then s.volStart p q
  else s.volCause q 6

def execVolOpen (p : Fin 2) (q : Fin 64) (v : Word) (s : State) : Host.Outcome State Fault Refusal :=
  s.act fun c => c.volCtrl p q v
/-- See [log 18: DEDUCED]. -/
def execVolStage (p : Fin 2) (q : Fin 64) (v : Word) (t : Nat) (s : State) : Host.Outcome State Fault Refusal :=
  s.act fun c => (c.at t).volCtrl p q v
def execVolAbort (p : Fin 2) (q : Fin 64) (v : Word) (t : Nat) (s : State) : Host.Outcome State Fault Refusal :=
  s.act fun c => (c.at t).volCtrl p q v
def execVolRelease (p : Fin 2) (q : Fin 64) (v : Word) (s : State) : Host.Outcome State Fault Refusal :=
  s.act fun c => c.volCtrl p q v

/-! ### Distribution and arming (R178 to R180) -/

/-- The volley of slot `q` waits for its GO: it is STAGED or ARMED. -/
def Chip.volWaits (s : Chip) (q : Nat) : Bool := (s.vst q == vStaged || s.vst q == vArmed) && !(s.vol q).goSent

/-- Die `d` holds the entries of every such volley whose STAGE was accepted before that of slot `q` (R182). -/
def Chip.volNext (s : Chip) (d q : Nat) : Bool :=
  queueSlots.all (fun k => !s.volWaits k || decide ((s.vol q).order ≤ (s.vol k).order) || maskBit (s.vol k).got d)

/-- A die receives its entries and standby entries, in the order of the STAGE acceptances (R178, R182). -/
def Chip.volEntries (s : Chip) (d q : Nat) : Chip :=
  if (s.vst q = vStaged ∨ s.vst q = vArmed) ∧ s.volNext d q then s.modVol q (fun r => { r with got := maskSet r.got d }) else s

def execVolEntries (d : Fin 8) (q : Fin 64) (s : State) : Host.Outcome State Fault Refusal :=
  s.act fun c => if c.inService d then c.volEntries d q else c

/-- Every required die has reported: those in service now. -/
def Chip.allArmed (s : Chip) (q : Nat) : Bool :=
  s.inServiceDies.all (fun d => maskBit (s.get (VOL_Q_ARM_DIES q)) d)

/-- The captain receives an ARMED report, from a die that has entered service since the slot became ARMED too (R178); one that
comes after the arm deadline counts for nothing (R179). -/
def Chip.volReport1 (s : Chip) (d q : Nat) : Chip :=
  if (s.vst q = vStaged ∨ s.vst q = vArmed) ∧ maskBit (s.vol q).got d ∧ s.armPast q = false then
    let s := s.set (VOL_Q_ARM_DIES q) (maskSet (s.get (VOL_Q_ARM_DIES q)) d)
    if s.vst q = vStaged ∧ s.allArmed q then s.setVst q vArmed else s
  else s

def execVolArmedReport (d : Fin 8) (q : Fin 64) (s : State) : Host.Outcome State Fault Refusal :=
  s.act fun c => if c.inService d then c.volReport1 d q else c

/-- The arm deadline B − 20 µs (R179).  A captain that is lost, or that has stopped using the commit lock, does nothing (R183,
R360); when there is one again more than a tick later, the volley has missed its deadline. [log 124: DESIGN CHOICE] -/
def Chip.volDeadline (s : Chip) (q : Nat) : Chip :=
  if (s.vst q = vStaged ∨ s.vst q = vArmed) ∧ !(s.vol q).goSent ∧ !s.leaseStopped 0 ∧ s.inService s.captain
      ∧ s.volB q * s.tickNs ≤ s.tick * s.tickNs + s.moment + 20000 then
    let missed := decide (s.volB q * s.tickNs + s.tickNs < s.tick * s.tickNs + s.moment + 20000)
    if s.allArmed q ∧ !missed then (s.setVst q vArmed).modVol q (fun r => { r with goSent := true, acks := 0 })
    else s.volFail q vNotArmed (if (s.vol q).moved || missed then 14 else 13)
  else s

/-- The arm deadlines that fell in the tick that ends. [log 124: DESIGN CHOICE] -/
def Chip.volDeadlines (s : Chip) : Chip :=
  let s := s.at (s.tickNs - 1)
  s.each (queueSlots.filter s.volWaits) fun q t => t.volDeadline q

def execVolArmDeadline (q : Fin 64) (t : Nat) (s : State) : Host.Outcome State Fault Refusal :=
  s.act fun c => (c.at t).volDeadline q

/-- A die receives GO, or ABORT, and acknowledges it (R180). -/
def execVolGo (d : Fin 8) (q : Fin 64) (s : State) : Host.Outcome State Fault Refusal :=
  s.act fun c => if c.inService d ∧ (c.vol q).goSent then
    c.modVol q (fun r => { r with go := maskSet r.go d, acks := maskSet r.acks d }) else c
def execVolAbortMsg (d : Fin 8) (q : Fin 64) (s : State) : Host.Outcome State Fault Refusal :=
  s.act fun c => if c.inService d ∧ (c.vol q).abortSent then
    c.modVol q (fun r => { r with abort := maskSet r.abort d, acks := maskSet r.acks d }) else c

/-- GO or ABORT not acknowledged within 4 µs: the die is partitioned (R180). -/
def execVolGoAckTimeout (d : Fin 8) (q : Fin 64) (s : State) : Host.Outcome State Fault Refusal :=
  s.act fun c => if c.inService d ∧ ((c.vol q).goSent ∨ (c.vol q).abortSent) ∧ !maskBit (c.vol q).acks d then
    c.raiseF1 d 0x17 else c

/-! ### The apply boundary (R181, R184 to R187) -/

/-- Die `d` applies volley `q` at its load boundary. -/
def Chip.volHolds (s : Chip) (q d : Nat) : Bool :=
  maskBit (s.vol q).go d && !maskBit (s.vol q).abort d && maskBit (s.vol q).got d

/-- The load boundary of the volley of slot `q` is the present one: B is the coming boundary, or one that the step passes.  GO
has been given; an ABORT since then counts die by die (R181, R189). [log 94: DESIGN CHOICE] -/
def Chip.volDue (s : Chip) (q : Nat) : Bool :=
  (s.vol q).goSent && (s.vst q == vArmed || s.vst q == vAborted) && decide (s.tick < s.volB q) && decide (s.volB q ≤ s.nextB)

/-- The channels that the volley of slot `q` takes at its load boundary: those whose die applies it, and unless it has been
aborted those that no die serves. -/
def Chip.volTakes (s : Chip) (q : Nat) : List Nat :=
  ((s.vol q).entries.map veChannel).filter (fun c => match s.servedAt c with
    | some (d, _) => s.volHolds q d
    | none => s.vst q == vArmed)

/-- The channels that host volleys with the present load boundary take, of those that `f` admits. -/
def Chip.volsTake (s : Chip) (f : Nat → Bool) : List Nat :=
  (queueSlots.filter (fun q => s.volDue q && f q)).flatMap s.volTakes

/-- The channel is served by a covering die. -/
def Chip.coveredNow (s : Chip) (c : Nat) : Bool :=
  match s.servedAt c with
  | some (_, sl) => decide (2048 ≤ sl)
  | none => false

/-- The entries left to covering dies that serve their channels now: they act at the coming boundary (R185). -/
def Chip.leftNow (s : Chip) : List LeftEntry :=
  (queueSlots.flatMap s.leftOf ++ s.sched.left).filter (fun x => s.coveredNow (veChannel x.entry))

/-- The channels that such entries take, of the volleys whose place in the order of STAGE acceptances `f` admits. -/
def Chip.leftTakes (s : Chip) (f : Nat → Bool) : List Nat :=
  (s.leftNow.filter (fun x => f x.order)).map (fun x => veChannel x.entry)

/-- The channels that host volleys whose STAGE was accepted after place `o` take at the coming boundary (R186). -/
def Chip.laterTakes (s : Chip) (o : Nat) : List Nat :=
  s.volsTake (fun k => decide (o < (s.vol k).order)) ++ s.leftTakes (fun x => decide (o < x))

/-- The channels that a later host volley at the same boundary takes (R186). -/
def Chip.volOver (s : Chip) (q : Nat) : List Nat := s.laterTakes (s.vol q).order

/-- One more of an outcome. -/
def countOf (l : List Nat) (k : Nat) : List Nat := (List.range 7).map (fun i => l.getD i 0 + (if i = k then 1 else 0))

/-- What is left to covering dies for channels `cs` is superseded: their home dies have taken a later entry. [log 123: DESIGN
CHOICE] -/
def Chip.leftForget (s : Chip) (cs : List Nat) : Chip :=
  { s with
    vols := tabMap (fun _ => {}) (fun _ r => { r with left := r.left.filter (fun e => !cs.contains (veChannel e)) }) s.vols
    sched := { s.sched with left := s.sched.left.filter (fun x => !cs.contains (veChannel x.entry)) } }

/-- The channels of entries that a die that `f` admits serves at their home slots. -/
def Chip.homeTakes (s : Chip) (f : Nat → Bool) (taken es : List Nat) : List Nat :=
  (es.map veChannel).filter (fun c => !taken.contains c && match s.servedAt c with
    | some (d, sl) => f d && decide (sl < 2048)
    | none => false)

/-- Apply a list of entries: outcomes counted, entries left to a covering die. -/
def Chip.applyAll (s : Chip) (f : Nat → Bool) (hdr : Nat) (hop : Bool) (taken : List Nat) (es : List Nat) :
    Chip × List Nat × List Nat :=
  es.foldl (fun a e =>
    if taken.contains (veChannel e) then (a.1, countOf a.2.1 4, a.2.2)
    else
      let o := a.1.outcome f e (vePolicy hdr e) (veHopReset hop e)
      if o.2 = 6 then (o.1, a.2.1, a.2.2 ++ [e]) else (o.1, countOf a.2.1 o.2, a.2.2)) (s, [], [])

/-- Load boundary of a volley, in step 5 of tick B − 1: each die applies it or discards it by what it holds (R181). -/
def Chip.volLoad (s : Chip) (q : Nat) : Chip :=
  if s.volDue q ∧ !(s.vol q).loaded then
    let hdr := s.get (VOL_Q_HDR_INTEG q)
    let newer := s.volOver q
    let es := (s.vol q).entries
    let t := s.leftForget (s.homeTakes (s.volHolds q) newer es)
    let a := t.applyAll (s.volHolds q) hdr (s.on (VOL_Q_HDR_HOP q)) newer es
    a.1.modVol q (fun r => { r with loaded := true, counts := a.2.1, left := a.2.2 })
  else s

/-- The captain sums the reports during tick B and sets the final status (R181, R187). -/
def Chip.volReport (s : Chip) (q : Nat) : Chip :=
  let r := s.vol q
  if s.vst q = vArmed ∧ r.loaded ∧ s.volB q ≤ s.tick then
    let n := fun i => r.counts.getD i 0
    let s := s.setReg (VOL_Q_REPORT_A q) (BitVec.ofNat 32 (n 0 + 2 ^ 16 * n 1))
    let s := s.setReg (VOL_Q_REPORT_B q) (BitVec.ofNat 32 (n 2 + 2 ^ 16 * n 3))
    let s := s.setReg (VOL_Q_REPORT_C q) (BitVec.ofNat 32 (n 4 + 2 ^ 16 * n 5))
    let s := s.set (VOL_Q_REPORT_D_DEFERRED q) (n 6)
    let s := if r.tooLate then s.set (VOL_Q_STATUS_ABORT_LATE q) 1 else s
    let s := s.bump VOL_APPLIED_CNT_COUNT
    if r.late then (s.setVst q vAppliedLate).raise VOL_EVENTS_APPLIED_LATE else (s.setVst q vApplied).raise VOL_EVENTS_APPLIED
  else s

def execVolReport (q : Fin 64) (s : State) : Host.Outcome State Fault Refusal :=
  s.act fun c => c.volReport q

/-- A covering die applies an entry left to it, as a state change (R185). -/
def Chip.leftApply (s : Chip) (x : LeftEntry) : Chip :=
  match s.servedAt (veChannel x.entry) with
  | some (d, sl) => (s.applyEntry d sl (x.entry ||| 2 ^ 30) (vePolicy x.integ x.entry) (veHopReset x.hop x.entry)).1
  | none => s

/-- `n` more entries of slot `q` counted DEFERRED and `m` more OVERRIDDEN: before its report among its outcomes, after it in the
report itself (R187). -/
def Chip.volCount (s : Chip) (q n m : Nat) : Chip :=
  if isFinal (s.vst q) then
    (s.set (VOL_Q_REPORT_D_DEFERRED q) (s.get (VOL_Q_REPORT_D_DEFERRED q) + n)).set (VOL_Q_REPORT_C_OVERRIDDEN q)
      (s.get (VOL_Q_REPORT_C_OVERRIDDEN q) + m)
  else s.modVol q (fun r => { r with
    counts := (List.range 7).map (fun i => r.counts.getD i 0 + (if i = 6 then n else if i = 4 then m else 0)) })

/-- Entries left by the home die whose channel a covering die now serves; `newer` are the channels that later host volleys take
at this boundary (R185 to R187). -/
def Chip.volDeferred (s : Chip) (newer : List Nat) (q : Nat) : Chip :=
  let now := (s.leftOf q).filter (fun x => s.coveredNow (veChannel x.entry))
  if now.isEmpty then s
  else
    let win := now.filter (fun x => !newer.contains (veChannel x.entry))
    let s := s.each win fun x t => t.leftApply x
    let gone := now.map (·.entry)
    let s := s.modVol q (fun r => { r with left := r.left.filter (fun e => !gone.contains e) })
    let s := s.volCount q win.length (now.length - win.length)
    if win.isEmpty then s else s.raise VOL_EVENTS_DEFERRED

def execVolDeferredApply (q : Fin 64) (s : State) : Host.Outcome State Fault Refusal :=
  s.act fun c => c.volDeferred (c.volOver q) q

/-! ### A die that loses what it holds (R178) -/

/-- Die `d` has been reset: its apply lists, its GOs and ABORTs and the standby entries left to it are gone, and its ARMED reports
with them (R178, R185, R357). -/
def Chip.volWipe (s : Chip) (d : Nat) : Chip :=
  let mine := fun (c : Nat) => backupDie s.dieCount (chanDie c) (chanSlot c / 256) == d
  let s : Chip := { s with
    vols := tabMap (fun _ => {}) (fun _ r => { r with
      got := maskClear r.got d, go := maskClear r.go d, abort := maskClear r.abort d
      left := r.left.filter (fun e => !mine (veChannel e)) }) s.vols
    sched := { s.sched with
      left := s.sched.left.filter (fun x => !mine (veChannel x.entry))
      go := s.sched.go.map (fun o => { o with dies := maskClear o.dies d }) } }
  s.each (queueSlots.filter (fun q => s.vst q == vStaged || s.vst q == vArmed)) fun q t =>
    t.set (VOL_Q_ARM_DIES q) (maskClear (t.get (VOL_Q_ARM_DIES q)) d)

/-! ### A change of the mapping (R189) and of the captain (R183) -/

/-- Re-evaluate every STAGED and ARMED volley whose arm deadline has not passed. -/
def Chip.volRemap (s : Chip) : Chip :=
  let qs := queueSlots.filter s.volWaits
  let s := s.each qs fun q t =>
    let b := if t.on (VOL_Q_HDR_BASE q) then t.volB q else t.volResolve q
    if t.tick * t.tickNs + t.moment + t.guardNs ≤ b * t.tickNs then
      (((t.set (VOL_Q_APPLY_TICK_TICK q) b).set (VOL_Q_ARM_DIES q) 0).setVst q vStaged).modVol q (fun r => { r with got := 0 })
    else t.volLate q (t.guardAfter (t.tick * t.tickNs + t.moment)) 11
  if qs.isEmpty then s else s.raise VOL_EVENTS_REEVALUATED

/-- The new captain takes the volleys from its mirror, and verifies again those under verification (R183). -/
def Chip.volTakeover (s : Chip) : Chip :=
  s.each queueSlots fun q t =>
    if t.vst q = vWriting ∧ t.on (VOL_Q_STATUS_BUSY q) then t.modVol q (fun r => { r with moved := true })
    else if (t.vst q = vStaged ∨ t.vst q = vArmed) ∧ !(t.vol q).goSent then
      if t.volB q * t.tickNs ≤ t.tick * t.tickNs + t.moment + 20000 then t.volFail q vNotArmed 14
      else ((t.setVst q vStaged).set (VOL_Q_ARM_DIES q) 0).modVol q (fun r => { r with got := 0 })
    else t

end Sys2Proof.Machine
end

