-- ==== Sys2Proof/Machine/Sched.lean ====
section
/-!
DEFINITION. Machine/Sched.lean: the standing schedule: occurrences, GO, skipping, catch-up
(spec/07_volleys.md, R192 to R197).
-/

namespace Sys2Proof.Machine

def Chip.modSched (s : Chip) (f : SchedRec → SchedRec) : Chip := { s with sched := f s.sched }

/-- The first occurrence of a standing volley at grid position `x` or later (R194). -/
def occAfter (anchor period off x : Nat) : Nat := anchor + off + period * ceilDiv (x - (anchor + off)) period

/-- The first occurrence of any standing volley at `x` or later: grid position and volley. -/
def Chip.nextOcc (s : Chip) (x : Nat) : Option (Nat × Nat) :=
  let p := s.get SCHED_PERIOD_TICKS
  if p = 0 then none
  else ((List.range s.sched.vols.length).zip s.sched.vols).foldl (fun b v =>
    let g := occAfter (s.get SCHED_ANCHOR_G) p v.2.offset x
    match b with
    | some c => if g < c.1 then some (g, v.1) else some c
    | none => some (g, v.1)) none

/-- The schedule runs: RUN, service, and valid time when its base is network time (R194). -/
def Chip.schedOn (s : Chip) : Bool :=
  s.on SCHED_CTRL_RUN && s.started && (!s.on SCHED_CTRL_BASE || s.on TIME_STATUS_VALID)

/-- SCHED_STATUS and SCHED_NEXT. [log 66: DESIGN CHOICE] -/
def Chip.showSched (s : Chip) : Chip :=
  let s := (s.setB SCHED_STATUS_RUNNING s.schedOn).setB SCHED_STATUS_WAIT_TIME
    (s.on SCHED_CTRL_RUN && s.on SCHED_CTRL_BASE && !s.on TIME_STATUS_VALID)
  let s := s.set SCHED_STATUS_COUNT s.sched.vols.length
  match if s.schedOn then s.nextOcc s.sched.from_ else none with
  | some (g, _) => s.set SCHED_NEXT_TICK g
  | none => s.set SCHED_NEXT_TICK 0

/-- `n` occurrences of one event are skipped: each is counted, and their volleys are noted for the event's catch-up, the latest
last (R196). -/
def Chip.schedSkip (s : Chip) (n : Nat) (vs : List Nat) : Chip :=
  if n = 0 then s
  else
    let s := (s.bump SCHED_SKIP_CNT_COUNT n).raise VOL_EVENTS_SCHED_SKIP
    if s.on SCHED_CTRL_CATCHUP then
      s.modSched (fun r => { r with skipped := r.skipped ++ [(s.boundaryAfter s.guardNs, vs)] })
    else s

/-- The occurrences from grid position `x` up to, not including, `y`: their number, and the volleys in the order
of their last occurrence. -/
def Chip.occBetween (s : Chip) (x y : Nat) : Nat × List Nat :=
  let p := s.get SCHED_PERIOD_TICKS
  if p = 0 ∨ y ≤ x then (0, [])
  else
    let rows := ((List.range s.sched.vols.length).zip s.sched.vols).map (fun v =>
      let g := occAfter (s.get SCHED_ANCHOR_G) p v.2.offset x
      let n := if g < y then (y - 1 - g) / p + 1 else 0
      (v.1, n, g + (n - 1) * p))
    let rows := rows.filter (fun r => r.2.1 != 0)
    ((rows.map (·.2.1)).sum, ((rows.mergeSort (fun a b => decide (a.2.2 ≤ b.2.2))).map (·.1)))

/-- The tick number has jumped to `n` (R196, R215): the occurrences passed are skipped, `gone` of them with GO, if the schedule
ran before the jump (`was`); otherwise the first occurrence is one whose arm deadline is still to come. -/
def Chip.schedJump (s : Chip) (was : Bool) (gone : List Nat) (n : Nat) : Chip :=
  if was then
    let o := s.occBetween s.sched.from_ n
    (s.schedSkip (gone.length + o.1) (gone.eraseDups.filter (fun v => !o.2.contains v) ++ o.2)).modSched
      (fun r => { r with from_ := max r.from_ n })
  else s.modSched (fun r => { r with from_ := max r.from_ (n + s.ticksOf 20000) })

/-- A commit with boundary `c` loads RUN = 1 (R197): occurrences from C on whose arm deadline fell before C are skipped, where
the schedule runs. -/
def Chip.schedStart (s : Chip) (c : Nat) : Chip :=
  let first := c + s.ticksOf 20000
  let o := s.occBetween c first
  (if s.schedOn then s.schedSkip o.1 o.2 else s).modSched (fun r => { r with from_ := first })

/-- The arm deadline of the next occurrence: `armed` are the dies that have reported ARMED from their stores.  The dies in service
then hold its GO (R180, R195).  A deadline that went by more than a tick ago, with no captain or in a jump of the tick number
that did not pass the boundary, is missed. [log 124: DESIGN CHOICE] -/
def Chip.schedArm (s : Chip) (armed : Nat) : Chip :=
  match if s.schedOn ∧ s.inService s.captain then s.nextOcc s.sched.from_ else none with
  | none => s
  | some (g, v) =>
    if s.tick * s.tickNs + s.moment + 20000 < g * s.tickNs then s
    else
      let es := ((s.sched.vols[v]?).map (·.entries)).getD []
      let s := s.modSched (fun r => { r with from_ := g + 1 })
      let missed := decide (g * s.tickNs + s.tickNs < s.tick * s.tickNs + s.moment + 20000)
      if !missed && s.meets es g then s.schedSkip 1 [v]
      else
        let dig := fun d => tabGet (fun _ => []) s.sched.digests d
        if !missed && !s.leaseStopped 0 && s.inServiceDies.all (fun d => maskBit armed d && dig d == dig s.captain) then
          s.modSched (fun r => { r with go := r.go ++ [⟨g, v, s.inServiceDies.foldl maskSet 0⟩] })
        else (s.bump SCHED_FAIL_CNT_COUNT).raise VOL_EVENTS_SCHED_FAIL

/-- Channels that host volleys take at the coming boundary. -/
def Chip.hostOver (s : Chip) : List Nat := s.laterTakes 0

/-- The occurrences with GO whose boundary is the coming one. -/
def Chip.schedDue (s : Chip) : List Occurrence := s.sched.go.filter (fun o => o.at_ == s.nextB)

/-- The channels of occurrences. -/
def Chip.occChans (s : Chip) (os : List Occurrence) : List Nat :=
  os.flatMap (fun o => (((s.sched.vols[o.vol]?).map (·.entries)).getD []).map veChannel)

/-- The occurrences with GO whose boundary is the next one, applied in step 5 on the dies that hold their GO (R181, R186, R195). -/
def Chip.schedLoad (s : Chip) : Chip :=
  let b := s.nextB
  let due := s.schedDue
  let s := s.modSched (fun r => { r with
    go := r.go.filter (fun o => b < o.at_)
    ran := (b, (if r.ran.1 = b then r.ran.2 else []) ++ s.occChans due) })
  s.each due fun o t =>
    match t.sched.vols[o.vol]? with
    | none => t
    | some v =>
      let newer := t.hostOver
      let a := (t.leftForget (t.homeTakes (maskBit o.dies) newer v.entries)).applyAll (maskBit o.dies) v.integ (v.hop == 1) newer v.entries
      let u := a.1.modSched (fun r => { r with left := r.left ++ a.2.2.map (fun e => ⟨e, v.integ, v.hop == 1, 0⟩) })
      ((u.bump SCHED_OVERRIDE_CNT_COUNT (a.2.1.getD 4 0)).set SCHED_STATUS_LAST o.vol)

/-- The volleys of an event merged: for each channel the latest entry, with its own volley's policies (R196). -/
def Chip.schedMerge (s : Chip) (vs : List Nat) : List LeftEntry :=
  vs.reverse.foldl (fun (m : List LeftEntry) k =>
    match s.sched.vols[k]? with
    | none => m
    | some v => m ++ ((v.entries.filter (fun e => !m.any (fun x => veChannel x.entry == veChannel e))).map
        (fun e => ⟨e, v.integ, v.hop == 1, 0⟩))) []

/-- The skipped occurrences whose catch-up comes at the coming boundary.  Two events with one boundary merge in the order in
which they came.  Host volleys and regular occurrences, those left to covering dies too, go before (R186, R196). -/
def Chip.schedCatchup (s : Chip) : Chip :=
  let b := s.nextB
  let vs := (s.sched.skipped.filter (fun e => decide (e.1 ≤ b))).flatMap (·.2)
  let merged := s.schedMerge vs
  let taken := s.hostOver ++ s.leftTakes (· == 0) ++ s.occChans s.schedDue ++ (if s.sched.ran.1 = b then s.sched.ran.2 else [])
  let s := s.modSched (fun r => { r with skipped := r.skipped.filter (fun e => decide (b < e.1)) })
  let hit := merged.filter (fun x => taken.contains (veChannel x.entry))
  let s := s.bump SCHED_OVERRIDE_CNT_COUNT hit.length
  let act := merged.filter (fun x => !taken.contains (veChannel x.entry))
  let s := s.leftForget (s.homeTakes (fun _ => true) [] (act.map (·.entry)))
  s.each act fun x t =>
    let o := t.outcome (fun _ => true) x.entry (vePolicy x.integ x.entry) (veHopReset x.hop x.entry)
    if o.2 = 6 then o.1.modSched (fun r => { r with left := r.left ++ [x] }) else o.1

/-- Of entries with one channel and one place in the order, the last. -/
def lastOnly : List LeftEntry → List LeftEntry
  | [] => []
  | x :: r => if r.any (fun y => veChannel y.entry == veChannel x.entry && y.order == x.order) then lastOnly r else x :: lastOnly r

/-- Entries of occurrences, and of released host volleys, that a home die left and a covering die now serves; `newer` tells the
channels that go before an entry of a place in the order (R185, R186). -/
def Chip.schedDeferred (s : Chip) (newer : Nat → List Nat) : Chip :=
  let now := s.sched.left.filter (fun x => s.coveredNow (veChannel x.entry))
  if now.isEmpty then s
  else
    let win := (lastOnly now).filter (fun x => !(newer x.order).contains (veChannel x.entry))
    let lost := (now.filter (fun x => x.order == 0)).length - (win.filter (fun x => x.order == 0)).length
    let s := s.modSched (fun r => { r with left := r.left.filter (fun x => !now.contains x) })
    let s := (s.each win fun x t => t.leftApply x).bump SCHED_OVERRIDE_CNT_COUNT lost
    if win.isEmpty then s else s.raise VOL_EVENTS_DEFERRED

/-- Every entry left to a covering die that serves its channel now: for each channel the one with precedence acts (R185, R186). -/
def Chip.deferred (s : Chip) : Chip :=
  let qs := (queueSlots.filter (fun q => !(s.vol q).left.isEmpty)).map (fun q => (q, s.volOver q))
  let ran := if s.sched.ran.1 = s.nextB then s.sched.ran.2 else []
  let later := s.sched.left.map (fun x => (x.order, s.laterTakes x.order ++ (if x.order = 0 then ran else [])))
  let newer := fun (o : Nat) => ((later.find? (fun p => p.1 == o)).map (·.2)).getD []
  (s.each qs fun x t => t.volDeferred x.2 x.1).schedDeferred newer

end Sys2Proof.Machine
end

