-- ==== Sys2Proof/Machine/Commit.lean ====
section
/-!
DEFINITION. Machine/Commit.lean: the tick commit: freeze, acceptance, confirmation, loading in segments, return
to the shadows (spec/01_package_and_tick.md, R32 to R38, R422, R423; R124, R166, R190).
-/

namespace Sys2Proof.Machine

abbrev coIdle : Nat := 0
abbrev coPending : Nat := 1
abbrev coDone : Nat := 2
abbrev coLate : Nat := 3
abbrev coSegmented : Nat := 4

def Chip.modCommit (s : Chip) (f : CommitRec → CommitRec) : Chip := { s with commit := f s.commit }
def Chip.coState (s : Chip) (v : Nat) : Chip := s.set PKG_COMMIT_STATUS_STATE v

/-- The address lies in a block that the captain holds: the package blocks freeze with its part. -/
def Chip.partOf (s : Chip) (a : Nat) : Nat := if a < 0x1000000 then s.captain else dieOf a

/-- Die `d` freezes its shadows into its part of the staged set (R32). -/
def Chip.freeze (s : Chip) (d : Nat) : Chip :=
  let mine := s.shadow.filter (fun p => s.partOf p.1 == d)
  let t := mine.foldl (fun t p => t.setStaged p.1 p.2) s
  (mine.foldl (fun t p => t.setShadow p.1 none) t).stageLive d

/-- The staged part of die `d` returns to its shadows (R422). -/
def Chip.unfreeze (s : Chip) (d : Nat) : Chip :=
  let mine := s.staged.filter (fun p => s.partOf p.1 == d)
  let t := mine.foldl (fun t p => if (t.shadowOf p.1).isSome then t else t.setShadow p.1 p.2) s
  (mine.foldl (fun t p => t.setStaged p.1 none) t).unstageLive d

/-- The staged part of die `d` is discarded: the die has left service (R38). -/
def Chip.dropPart (s : Chip) (d : Nat) : Chip :=
  let mine := s.staged.filter (fun p => s.partOf p.1 == d && decide (0x1000000 ≤ p.1))
  let t := mine.foldl (fun t p => t.setStaged p.1 none) s
  t.dropLive d

def Chip.unfreezeAll (s : Chip) : Chip := s.each (maskBits 8 s.commit.frozen) fun d t => t.unfreeze d

/-- A write of PKG_COMMIT_CTRL takes effect (R32, R34). -/
def Chip.commitGo (s : Chip) (v : Word) : Chip :=
  let s := s.set PKG_COMMIT_CTRL_AT_TICK (v.toNat % 2)
  if !maskBit v.toNat 31 then s
  else if !s.started then s.coState coLate
  else
    let st := s.get PKG_COMMIT_STATUS_STATE
    if st = coPending ∨ st = coSegmented ∨ s.commit.freezing then s.set PKG_COMMIT_STATUS_OVERLAP 1
    else s.modCommit (fun _ => {
      freezing := true
      named := if maskBit v.toNat 0 then some (s.get PKG_COMMIT_TICK_TICK) else none
      asked := s.inServiceDies.foldl maskSet 0 })

def execCommitGo (v : Word) (s : State) : Host.Outcome State Fault Refusal :=
  s.act fun c => c.commitGo v

/-- A die receives the freeze flit. -/
def Chip.freezeFlit (s : Chip) (d : Nat) : Chip :=
  if s.commit.freezing ∧ maskBit s.commit.asked d ∧ !maskBit s.commit.frozen d then
    (s.freeze d).modCommit (fun r => { r with frozen := maskSet r.frozen d })
  else s

def execFreezeFlit (d : Fin 8) (s : State) : Host.Outcome State Fault Refusal :=
  s.act fun c => if c.inService d then c.freezeFlit d else c

/-! ### Segments (R124, R166) -/

/-- The home EFE (die × 8 + index) to which a staged register or entry of a slot belongs. -/
def Chip.efeOfSlot (s : Chip) (d sl : Nat) : Nat := s.chanOf d sl / 256

/-- The channels that the staged set changes; a bench slot stands for the channel that it covers (R166). -/
def Chip.changedChans (s : Chip) : List Nat :=
  let regs := (s.staged.map (·.1)).filter (fun a => decide (0x1000000 ≤ a) && decide (CH_CTRL (dieOf a) 0 ≤ a)
    && decide (a < CH_CTRL (dieOf a) 2560) && s.changes a)
  let tone := regs.filter (fun a => let o := (a - CH_CTRL (dieOf a) 0) % 0x80
    [CH_CTRL 0 0, CH_FTW 0 0, CH_PHASE_AMP 0 0, CH_SEED 0 0, CH_MON_SEL 0 0].any (fun b => b - CH_CTRL 0 0 == o))
  (tone.map (fun a => s.chanOf (dieOf a) ((a - CH_CTRL (dieOf a) 0) / 0x80))
    ++ s.libStaged.map (fun p => s.chanOf (keyDie p.1) (keySlot p.1))).eraseDups

/-- The segment plan: EFEs in ascending order, sixteen to a segment; one segment for up to 4,096 channels. -/
def Chip.segmentPlan (s : Chip) : List (List Nat) :=
  let cs := s.changedChans
  let efes := (cs.map (· / 256)).eraseDups.mergeSort (· ≤ ·)
  if cs.length ≤ 4096 then [efes]
  else (List.range (ceilDiv efes.length 16)).map (fun j => (efes.drop (16 * j)).take 16)

/-! ### Acceptance (R32, R35, R190) -/

/-- Volleys and occurrences that have been given GO: boundary and entries. -/
def Chip.goVolleys (s : Chip) : List (Nat × List Nat) :=
  ((queueSlots.filter (fun q => (s.vol q).goSent && !(s.vol q).loaded && s.vst q == vArmed)).map
    (fun q => (s.volB q, (s.vol q).entries)))
    ++ s.sched.go.map (fun o => (o.at_, ((s.sched.vols[o.vol]?).map (·.entries)).getD []))

/-- A volley already given GO would meet a commit of `n` segments at `c`, whose channels `commit.chans` holds. [log 54: DESIGN
CHOICE] -/
def Chip.goMeets (s : Chip) (c n : Nat) : Bool :=
  decide (1 < n) && s.goVolleys.any (fun v => decide (c ≤ v.1) && decide (v.1 < c + n)
    && v.2.any (fun e => s.chanChanged (veChannel e)))

/-- The first boundary from `c` on that no such volley meets; at most `fuel` steps. [log 54: DESIGN CHOICE] -/
def Chip.freeBoundary (s : Chip) (n : Nat) : Nat → Nat → Nat
  | 0, c => c
  | fuel + 1, c => if s.goMeets c n then s.freeBoundary n fuel (c + 1) else c

/-- The last acknowledgement: the GO is accepted, or refused as LATE. [log 54: DESIGN CHOICE] -/
def Chip.commitAccept (s : Chip) : Chip :=
  let s := s.modCommit (fun r => { r with chans := s.changedChans })
  let plan := s.segmentPlan
  let n := plan.length
  let c20 := s.boundary20
  let late := fun (t : Chip) => (t.unfreezeAll.modCommit (fun _ => {})).coState coLate
  let go := fun (t : Chip) (c : Nat) =>
    let t := (t.modCommit (fun r => { r with
      freezing := false, at_ := some c, plan := plan, loaded := 0
      acceptedNs := t.tick * t.tickNs + t.moment, confirmed := 2 ^ t.captain })).coState coPending
    t.each queueSlots fun q u => if u.vst q = vStaged ∨ u.vst q = vArmed then u.volWait q else u
  match s.commit.named with
  | some c => if c < c20 ∨ s.goMeets c n then late s else go s c
  | none => go s (s.freeBoundary n (64 * 2 + 64 * n + s.sched.go.length * n) c20)

/-- A freeze acknowledgement reaches the captain. -/
def Chip.freezeAck (s : Chip) (d : Nat) : Chip :=
  if s.commit.freezing ∧ maskBit s.commit.frozen d then
    let s := s.modCommit (fun r => { r with acked := maskSet r.acked d })
    if s.inServiceDies.all (fun e => maskBit s.commit.acked e) then s.commitAccept else s
  else s

def execFreezeAck (d : Fin 8) (t : Nat) (s : State) : Host.Outcome State Fault Refusal :=
  s.act fun c => if c.inService d then (c.at t).freezeAck d else c

/-- A die receives the confirmation (R38): the captain holds it from acceptance and sends it to the vice-captain first. -/
def execCommitConfirm (d : Fin 8) (s : State) : Host.Outcome State Fault Refusal :=
  s.act fun c => if c.inService d ∧ c.commit.at_.isSome ∧ maskBit c.commit.frozen d
      ∧ (c.hasVice = false ∨ d.val = c.vice ∨ maskBit c.commit.confirmed c.vice ∨ c.inService c.vice = false) then
    c.modCommit (fun r => { r with confirmed := maskSet r.confirmed d }) else c

/-- No confirmation within 10 µs of the freeze: the die's part returns to its shadows (R38). -/
def Chip.freezeTimeout (s : Chip) (d : Nat) : Chip :=
  if maskBit s.commit.frozen d ∧ !maskBit s.commit.confirmed d then
    (s.unfreeze d).modCommit (fun r => { r with frozen := maskClear r.frozen d, freezing := false })
  else s

def execFreezeConfirmTimeout (d : Fin 8) (s : State) : Host.Outcome State Fault Refusal :=
  s.act fun c => if c.inService d then c.freezeTimeout d else c

/-- The captain is lost before the vice-captain holds a confirmation: no die loads the commit (R38). -/
def Chip.commitLost (s : Chip) : Chip :=
  if s.commit.freezing ∨ (s.commit.at_.isSome ∧ !(s.hasVice ∧ maskBit s.commit.confirmed s.vice) ∧ s.commit.loaded = 0) then
    (s.unfreezeAll.modCommit (fun _ => {})).coState coIdle
  else s

/-! ### Loading (R33, R37, R124, R423) -/

/-- A package register with a rule on its value, and the test (R423).  A value outside a range that its table states counts
as refused whether or not the table says the word. [log 91: DESIGN CHOICE] -/
def regRules : List (Nat × (Nat → Bool)) := [
  (VOL_ARM_GUARD, fun v => decide (50 ≤ v % 1024) && decide (v % 1024 ≤ 1000)),
  (TIME_SERVO_CFG, fun v => v / 2 ^ 28 != 0 && decide (1 ≤ v / 2 ^ 16 % 256)
    && decide (1 ≤ v / 256 % 256) && decide (v / 256 % 256 ≤ 100) && decide (1 ≤ v % 256) && decide (v % 256 ≤ 100)),
  (TIME_JUMP_THRESH, fun v => decide (100 ≤ v) && decide (v ≤ 1000000)),
  (TIME_AGREE, fun v => decide (10 ≤ v) && decide (v ≤ 1000000)),
  (TIME_LOSS_CFG, fun v => decide (4 ≤ v / 2 ^ 16 % 256) && decide (2 ≤ v / 256 % 256) && decide (2 ≤ v % 256)),
  (TIME_PPS_OUT, fun v => decide (1 ≤ v % 2 ^ 20) && decide (v % 2 ^ 20 ≤ 999999)),
  (ETH_CTRL 0, fun v => v % 4 != 3), (ETH_CTRL 1, fun v => v % 4 != 3),
  (ETH_TEL_CFG, fun v => v % 65536 != 0),
  (RET_CFG, fun v => decide (1 ≤ v % 1024) && decide (v % 1024 ≤ 600)),
  (FAULT_CFG, fun v => let k := v / 2 ^ 16 % 64; k == 0 || decide (16 ≤ k)),
  (FAB_CFG, fun v => v % 16 != 0),
  (HOST_SMB_CFG, fun v => decide (8 ≤ v % 128) && decide (v % 128 < 0x78))]

/-- TICK_OUT's width is shorter than its period (R228). -/
def tickOutOk (ns v : Nat) : Bool :=
  let div := if v % 65536 = 0 then 65536 else v % 65536
  decide (1 ≤ v / 2 ^ 16 % 256) && decide (4 * (v / 2 ^ 16 % 256) < div * ns)

/-- The value would be accepted into package register `a`. -/
def Chip.regOk (s : Chip) (a v : Nat) : Bool :=
  (regRules.all (fun r => r.1 != a || r.2 v)) && (a != TIME_TICK_OUT || tickOutOk s.tickNs v)

/-- Load the staged package registers; refused ones keep their values (R423). -/
def Chip.pkgLoad (s : Chip) : Chip :=
  s.each (s.stagedIn 0 0x1000000) fun a t =>
    match t.stagedOf a with
    | none => t
    | some v =>
      let t := t.setStaged a none
      if t.regOk a v.toNat then t.setReg a v
      else (t.set PKG_COMMIT_STATUS_REG_REFUSED 1).logF3 PKG_COMMIT_STATUS

/-- What a loaded package value starts: the schedule (R197), a domain's state (R209), a change of preference
(R218). -/
def Chip.pkgEffects (s old : Chip) (c : Nat) : Chip :=
  let s := if s.on SCHED_CTRL_RUN ∧ !old.on SCHED_CTRL_RUN then s.schedStart c else s
  let s := s.each [0, 1] fun x t =>
    if t.on (TIME_DOM_CFG_EN x) then
      (if t.get (TIME_DOM_STATUS_STATE x) = 0 then
        ({ t with time := { t.time with doms := tabPut (fun _ => {}) t.time.doms x {} } } : Chip).set (TIME_DOM_STATUS_STATE x) 1
      else t)
    else t.set (TIME_DOM_STATUS_STATE x) 0
  let s := s.each [0, 1] fun j t => if t.on (ETH_CTRL_EN j) then t else t.ethDrop j
  let s := if s.get TIME_CTRL_PREF ≠ old.get TIME_CTRL_PREF then { s with time := { s.time with prefDue := true } } else s
  s.showSched

/-- The slots of die `d` that would be active with the staged values: enabled, and served (R113). -/
def Chip.nextSlots (s : Chip) (d : Nat) : List Nat :=
  ((s.enabledSlots d ++ s.stagedSlots d).eraseDups).filter (fun sl => s.next (CH_CTRL_EN d sl) == 1 && s.serves d sl)

/-- More slots of die `d` would be active than Table 1.2 allows: on the die, or at the 500 ns tick on one EFE, of a bench half
too (R27). -/
def Chip.tooMany (s : Chip) (d : Nat) : Bool :=
  let on := s.nextSlots d
  let lim := if s.get PKG_TICK_CFG_PERIOD = 0 then 1280 else 2560
  decide (lim < on.length)
    || (s.get PKG_TICK_CFG_PERIOD == 0 && (List.range 10).any (fun e => decide (128 < (on.filter (fun sl => sl / 256 == e)).length)))

/-- Checks on the channel values of die `d`, made once, before its first segment loads: the loop values first, so that the tone
plan is judged with the K that loads (R122, R147). -/
def Chip.chanChecks (s : Chip) (d : Nat) : Chip :=
  (s.each (s.stagedSlots d) fun sl t => t.loopCheck d sl).planCheck d

/-- The slots of die `d` that segment `j` loads: those whose tone or library it changes, on its EFEs; every other slot with a
staged value loads with the first, and the last takes what is left (R33, R37, R124). -/
def Chip.segmentSlots (s : Chip) (d j : Nat) : List Nat :=
  let r := s.commit
  let es := r.plan.getD j []
  ((s.stagedSlots d) ++ (s.libStaged.filter (fun p => keyDie p.1 == d)).map (fun p => keySlot p.1)).eraseDups.filter
    (fun sl => decide (r.plan.length ≤ j + 1) || es.contains (s.efeOfSlot d sl)
      || (j == 0 && !r.chans.contains (s.chanOf d sl)))

/-- Load the channels of segment `j` on die `d`. -/
def Chip.chanLoad (s : Chip) (d j : Nat) : Chip :=
  let sls := s.segmentSlots d j
  let s := s.loadLive d (fun sl => sls.contains sl)
  s.each sls fun sl t => t.slotLoad d sl

/-- Sidelined dies whose protected slots still have staged values: their mirrors hold them (R355). -/
def Chip.mirrorDies (s : Chip) : List Nat :=
  s.dieList.filter (fun d => s.service d == svcSidelined && !(s.stagedSlots d).isEmpty)

/-- The mirrors of a sidelined die's protected slots take the values of segment `j` that the home slots would have taken
(R355). [log 80: DESIGN CHOICE] -/
def Chip.mirrorLoad (s : Chip) (d j : Nat) : Chip :=
  let s := if j = 0 then s.chanChecks d else s
  s.each (s.segmentSlots d j) fun sl t => t.loadStaged (slotLo d sl) (slotHi d sl)

/-- The value would be accepted into register `a` of die `d`: CLK_FAIL_POLICY.POLICY has no values 2 and 3 (Table 3.1). -/
def dieRegOk (d a v : Nat) : Bool := a != CLK_FAIL_POLICY d || decide (v % 4 < 2)

/-- Load everything of die `d` that is not a channel: boundary C − 1. -/
def Chip.dieLoad (s : Chip) (d : Nat) (off : Int) : Chip :=
  let s := ((s.synLoad d off).ckoLoad d).kickLoad d
  let s := s.each ports16 fun p t => t.portCheck d p
  let s := s.each ports16 fun p t => t.portLoad d p
  -- the remaining RWT registers of the die's block: RAMP, CLK, CAL, EFE
  let lo := dieBase d
  let rest := (s.stagedIn lo (dieBase (d + 1))).filter (fun a => !(decide (CH_CTRL d 0 ≤ a) && decide (a < CH_CTRL d 2560)))
  s.each rest fun a t =>
    let v := (t.stagedOf a).getD (t.reg a)
    let t := t.setStaged a none
    if dieRegOk d a v.toNat then t.setReg a v
    else (t.set PKG_COMMIT_STATUS_REG_REFUSED 1).logF3 PKG_COMMIT_STATUS

/-- The commit is refused as a whole: its staged set returns to the shadows and it ends LATE (R27, R422).
[log 92: DESIGN CHOICE] -/
def Chip.commitRefuse (s : Chip) : Chip := (s.unfreezeAll.modCommit (fun _ => {})).coState coLate

/-- Load segment `j` (counted from 0) on every confirmed die in service; `off` is the phase offset that a
changeover of each die measures (R66). -/
def Chip.commitLoad (s : Chip) (off : List Int) : Chip :=
  match s.commit.at_ with
  | none => s
  | some c =>
    let j := s.commit.loaded
    let n := s.commit.plan.length
    if s.tick + 1 = c + j ∧ j < n then
      let ds := s.inServiceDies.filter (fun d => maskBit s.commit.confirmed d)
      if j = 0 ∧ ds.any s.tooMany then s.commitRefuse
      else
        let s := if j = 0 then
            let old := s
            let s := (s.pkgLoad).pkgEffects old c
            s.each ds fun d t => (t.chanChecks d).dieLoad d (off.getD d 0)
          else s
        let s := s.each ds fun d t => t.chanLoad d j
        let s := s.each s.mirrorDies fun d t => t.mirrorLoad d j
        let s := s.modCommit (fun r => { r with loaded := j + 1 })
        if j + 1 = n then
          let s := if n = 1 then (s.coState coDone).modCommit (fun _ => {}) else s.coState coSegmented
          -- what is left belongs to dies that have left service
          let s := s.each ds fun d t => t.dropPart d
          s.set PKG_COMMIT_STATUS_SEQ (s.get PKG_COMMIT_STATUS_SEQ + 1)
        else s.coState coSegmented
    else s

/-- The last segment switches at C + S − 1: DONE (R124). -/
def Chip.commitEnd (s : Chip) : Chip :=
  match s.commit.at_ with
  | some c =>
    let n := s.commit.plan.length
    if s.commit.loaded = n ∧ c + n ≤ s.tick + 1 ∧ 1 < n then (s.coState coDone).modCommit (fun _ => {}) else s
  | none => s

/-- Boundary C − 1, and those of the later segments. -/
def Chip.commitTick (s : Chip) (off : List Int) : Chip := (s.commitEnd).commitLoad off

def execCommitLoad (off : List Int) (s : State) : Host.Outcome State Fault Refusal :=
  s.act fun c => if c.commit.loaded = 0 then c.commitLoad off else c

def execCommitSegmentLoad (s : State) : Host.Outcome State Fault Refusal :=
  s.act fun c => if c.commit.loaded = 0 then c else c.commitTick []

end Sys2Proof.Machine
end

