-- ==== Sys2Proof/Machine/Time.lean ====
section
/-!
DEFINITION. Machine/Time.lean: network time: Ethernet ports, PTP messages, domains and servos, the first step,
launch slots, telemetry, TICK_OUT and PPS_OUT (spec/08_network_time.md, R199 to R230).
-/

namespace Sys2Proof.Machine

def Chip.modTime (s : Chip) (f : TimeRec → TimeRec) : Chip := { s with time := f s.time }

/-! ### Ethernet ports (R203, R204, R96) -/

/-- The attempt that port `j` makes: false 10GBASE-R, true 1000BASE-X (R203). -/
def Chip.ethTry (s : Chip) (j : Nat) : Nat :=
  let m := s.get (ETH_CTRL_MODE j)
  if m = 1 then 0 else if m = 2 then 1 else tabGet (fun _ => 0) s.time.ethMode j

def Chip.setEthMode (s : Chip) (j m : Nat) : Chip :=
  s.modTime (fun r => { r with ethMode := tabPut (fun _ => 0) r.ethMode j m })

/-- Port `j` exists, is enabled and may train: its die is in service and its PLL has a reference (R96). -/
def Chip.ethReady (s : Chip) (j : Nat) : Bool := s.started && s.inService j && s.on (ETH_CTRL_EN j) && !s.ethHeld j

def Chip.ethUp (s : Chip) (j : Nat) : Bool := s.inService j && s.on (ETH_STATUS_LINK j)

/-- 100 ms without a link: the next attempt. -/
def Chip.ethAttempt (s : Chip) (j : Nat) : Chip :=
  if s.ethReady j ∧ !s.on (ETH_STATUS_LINK j) ∧ s.get (ETH_CTRL_MODE j) = 0 then s.setEthMode j (1 - s.ethTry j) else s

/-- See [log 5: DESIGN CHOICE]. -/
def execEthAttemptTimeout (j : Fin 2) (s : State) : Host.Outcome State Fault Refusal :=
  s.act fun c => c.ethAttempt j

/-- Block lock, or Clause 37 completion, of the present attempt. -/
def Chip.ethLinkUp (s : Chip) (j : Nat) : Chip :=
  if s.ethReady j ∧ !s.on (ETH_STATUS_LINK j) then
    let m := s.ethTry j
    ((((s.set (ETH_STATUS_LINK j) 1).set (ETH_STATUS_RATE j) m).set (ETH_STATUS_AN_DONE j) m).raise
      (ETH_EVENTS_LINK_UP j)).resync j 1
  else s

def execEthLinkUp (j : Fin 2) (s : State) : Host.Outcome State Fault Refusal :=
  s.act fun c => c.ethLinkUp j

/-- The link goes down, and the attempts start again with the first one. -/
def Chip.ethLinkDown (s : Chip) (j : Nat) : Chip :=
  s.ethDrop j

def execEthLinkDown (j : Fin 2) (s : State) : Host.Outcome State Fault Refusal :=
  s.act fun c => c.ethLinkDown j

/-- A received frame is discarded and counted (R204). [log 62: DESIGN CHOICE] -/
def Chip.ethDiscard (s : Chip) (j : Nat) : Chip := (s.bump (ETH_DISCARD_CNT_COUNT j)).raise (ETH_EVENTS_DISCARD j)

/-- A frame that is not an accepted PTP frame, or one with a bad FCS. -/
def execEthFrameDiscard (j : Fin 2) (fcs : Bool) (s : State) : Host.Outcome State Fault Refusal :=
  s.act fun c => if c.ethUp j then (if fcs then c.raise (ETH_EVENTS_FCS_ERR j) else c).ethDiscard j else c

/-! ### Timestamps in picoseconds (R205, R206) -/

/-- See [log 63: DESIGN CHOICE]. -/
def Chip.stampIn (s : Chip) (j : Nat) (raw : Int) : Int :=
  let slow := s.on (ETH_STATUS_RATE j)
  if s.on (ETH_CTRL_TS_MODE j) then raw - (if slow then 152000 else 38400)
  else raw - (if slow then 10400 else 7840) - (if s.on (ETH_CTRL_PLANE j) then (s.get (ETH_RX_BOARD_PS j) : Int) else 0)

/-- The native egress stamp (R205). [log 63: DESIGN CHOICE] -/
def Chip.stampNative (s : Chip) (j : Nat) (raw : Int) : Int :=
  raw + (if s.on (ETH_STATUS_RATE j) then 8960 else 5120) + (if s.on (ETH_CTRL_PLANE j) then (s.get (ETH_TX_BOARD_PS j) : Int) else 0)

/-- See [log 63: DESIGN CHOICE]. -/
def Chip.stampOut (s : Chip) (j : Nat) (raw : Int) : Int :=
  if s.on (ETH_CTRL_TS_MODE j) then raw + (if s.on (ETH_STATUS_RATE j) then 136000 else 32000) else s.stampNative j raw

/-! ### The clocks of the dies (R199, R201) -/

/-- Package time of a die at the boundary that it places for grid time `now` (in ns): the nearest of its own counts at steps of
1/256 cycle; after a step, and at the start, the grid time exactly (R201, R213). [log 61: DESIGN CHOICE] -/
def Chip.clockAt (s : Chip) (d now : Nat) (jump : Bool) : Nat :=
  let c := tabGet (fun _ => 0) s.time.clocks d
  if jump || c == 0 then 65536 * now
  else
    -- one step is 256 × inc in units of 2^-16 ns
    let i := s.timeInc d
    let k := roundDiv (((65536 * now : Nat) - (c : Int)) * i.2) (max 1 (256 * i.1))
    (c + roundDiv (k * (256 * i.1 : Nat)) (max 1 i.2)).toNat

/-- The running dies place the boundary. -/
def Chip.placeClocks (s : Chip) (jump : Bool) : Chip :=
  let l := (s.dieList.filter s.runs).map (fun d => (d, s.clockAt d s.time.now jump))
  s.modTime (fun r => { r with clocks := l.foldl (fun t x => tabPut (fun _ => 0) t x.1 x.2) [], marks := [] })

/-- Package time of die `d` as its counter holds it now: 48-bit seconds, nanoseconds, 2^-16 ns (R199). -/
def Chip.dieTime (s : Chip) (d : Nat) : Nat × Nat × Nat :=
  let c := s.clockNow d
  (c / 65536 / 1000000000 % 2 ^ 48, c / 65536 % 1000000000, c % 65536)

/-- Package time in nanoseconds that TIME_NOW reads: the captain's counter (R199, R229). [log 61: DESIGN CHOICE] -/
def Chip.timeShown (s : Chip) : Nat :=
  if tabGet (fun _ => 0) s.time.clocks s.captain = 0 then s.pkgNs else s.clockNow s.captain / 65536

/-- TIME_HO_SEC counts whole seconds since time holdover was entered (R219). -/
def Chip.showHoSec (s : Chip) : Chip :=
  if s.on TIME_STATUS_HOLDOVER then s.set TIME_HO_SEC_SEC (min (2 ^ 32 - 1) ((s.upNs - s.time.hoFrom) / 1000000000)) else s

/-! ### Domains -/

abbrev domOff : Nat := 0
abbrev domListen : Nat := 1
abbrev domTracking : Nat := 2
abbrev domAnomaly : Nat := 3
abbrev domLost : Nat := 4

def Chip.domSt (s : Chip) (x : Nat) : Nat := s.get (TIME_DOM_STATUS_STATE x)
def Chip.dom (s : Chip) (x : Nat) : DomRec := tabGet (fun _ => {}) s.time.doms x
def Chip.modDom (s : Chip) (x : Nat) (f : DomRec → DomRec) : Chip :=
  s.modTime (fun r => { r with doms := tabPut (fun _ => {}) r.doms x (f (s.dom x)) })

/-- The PTP instance of domain `x` on port `j`. -/
def Chip.ptp (s : Chip) (x j : Nat) : PtpRec := tabGet (fun _ => {}) s.time.ptp (x * 2 + j)
def Chip.modPtp (s : Chip) (x j : Nat) (f : PtpRec → PtpRec) : Chip :=
  s.modTime (fun r => { r with ptp := tabPut (fun _ => {}) r.ptp (x * 2 + j) (f (s.ptp x j)) })

/-- The last offset of a domain is at most `ns` nanoseconds. -/
def Chip.thetaIn (s : Chip) (x ns : Nat) : Bool :=
  match (s.dom x).theta with
  | some v => decide (v.natAbs ≤ ns * 1000)
  | none => false

/-- Lexicographic order of datasets. [log 55: DEDUCED] -/
def lexLt : List Nat → List Nat → Bool
  | [], [] => false
  | [], _ :: _ => true
  | _ :: _, [] => false
  | a :: r, b :: t => decide (a < b) || (a == b && lexLt r t)

/-- Dataset `a` is better than `b`: by the grandmaster's attributes where the grandmasters differ, else by stepsRemoved and then by
the senders' identities (IEEE 1588-2019, 9.3.4). [log 55: DEDUCED] -/
def Foreign.better (a b : Foreign) : Bool :=
  if a.ds.getD 5 0 ≠ b.ds.getD 5 0 then lexLt a.ds b.ds
  else if a.steps ≠ b.steps then decide (a.steps < b.steps)
  else decide (a.src < b.src)

/-- Nanoseconds of a logMessageInterval. -/
def logNs (l : Int) : Nat := if 0 ≤ l then 10 ^ 9 * 2 ^ l.toNat else 10 ^ 9 / 2 ^ (-l).toNat

/-- Two Announce messages within the foreign master time window of four intervals (IEEE 1588-2019, 9.3.2.4). [log 55: DEDUCED] -/
def Foreign.qualified (m : Foreign) (now : Nat) : Bool :=
  match m.heard with
  | _ :: t :: _ => decide (now ≤ t + 4 * logNs m.logInt)
  | _ => false

/-- The master that the BMCA selects on a port at `now` (IEEE 1588-2019, 9.3). [log 55: DEDUCED] -/
def PtpRec.best (r : PtpRec) (now : Nat) : Option Foreign :=
  (r.masters.filter (·.qualified now)).foldl (fun b m => match b with
    | none => some m
    | some c => if m.better c then some m else some c) none

/-- The port and master of a domain: the better of the two ports' masters, ETH0 when they are equal (R207). [log 55: DEDUCED] -/
def Chip.domMaster (s : Chip) (x : Nat) : Option (Nat × Nat × Nat) :=
  let pick := fun (j : Nat) (m : Foreign) => some (j, m.src, m.ds.getD 5 0)
  match (s.ptp x 0).best s.upNs, (s.ptp x 1).best s.upNs with
  | some a, some b => if b.better a then pick 1 b else pick 0 a
  | some a, none => pick 0 a
  | none, some b => pick 1 b
  | none, none => none

/-- Take the domain's master anew; a change of port or of master starts a new group and a new run (R207). -/
def Chip.remaster (s : Chip) (x : Nat) : Chip :=
  let m := s.domMaster x
  if m = (s.dom x).master then s
  else
    let t := s.modDom x (fun r => { r with master := m, group := [], run := if s.domSt x = domListen then 0 else r.run })
    t.set (TIME_DOM_STATUS_PORT x) (match m with
      | some (j, _, _) => j
      | none => 3)

/-- Port `j` selects its master anew; stamps taken with another master are dropped (R207, R208). -/
def Chip.reselect (s : Chip) (x j : Nat) : Chip :=
  let m := ((s.ptp x j).best s.upNs).map (·.src)
  let t := if m = (s.ptp x j).sel then s
    else s.modPtp x j (fun r => { r with sel := m, t1 := none, t2 := none, t3 := none, waitSeq := none })
  t.remaster x

/-! ### Reception (R202, R204, R221) -/

/-- The domains that a message belongs to, enabled on its port. -/
def Chip.ptpDomains (s : Chip) (h : PtpHdr) : List Nat :=
  [0, 1].filter fun x => s.on (TIME_DOM_CFG_EN x) && maskBit (s.get (TIME_DOM_CFG_PORTS x)) h.port
    && s.get (TIME_DOM_CFG_DOMAIN x) == h.domain.toNat && s.get (TIME_DOM_CFG_SDO x) == h.sdo.toNat

/-- The frame is addressed and formed as the port is configured. [log 62: DESIGN CHOICE] -/
def Chip.ptpFits (s : Chip) (h : PtpHdr) : Bool :=
  let j : Nat := h.port
  s.on TIME_CTRL_EN && h.version == 2 && decide (h.minor ≤ 1) && !h.vlan
    && s.on (ETH_CTRL_TRANSPORT j) == h.annexC && (h.annexC || s.on (ETH_CTRL_L2_ADDR j) == h.altAddr)

/-- The AUTHENTICATION TLV names a valid key slot and carries its ICV (R221). [log 55: DEDUCED] -/
def Chip.ptpAuth (s : Chip) (h : PtpHdr) : Bool :=
  match h.tlv with
  | none => false
  | some t => s.sec.ptpKeys.any (fun k => k.2.valid && k.2.keyId == t.keyId && k.2.spp == t.spp
      && (hmacSha256 k.2.key t.covered).take 16 == t.icv)

/-- A message fails authentication: discarded, counted, noted. -/
def Chip.ptpAuthFail (s : Chip) (j : Nat) : Chip := (s.bump (ETH_AUTH_FAIL_CNT_COUNT j)).raise TIME_EVENTS_AUTH_FAIL

/-- Pass a message of a domain on to `f`, or discard it; `lim` when its logMessageInterval has limits. [log 55: DEDUCED] -/
def Chip.ptpTake (s : Chip) (h : PtpHdr) (lim : Bool) (f : Nat → Chip → Chip) : Chip :=
  if !s.ethUp h.port then s
  else
    let xs := s.ptpDomains h
    if !s.ptpFits h || xs.isEmpty || (lim && !(decide (-7 ≤ h.logInt) && decide (h.logInt ≤ 3))) then s.ethDiscard h.port
    else
      let good := xs.filter (fun x => !s.on (TIME_DOM_CFG_AUTH x) || s.ptpAuth h)
      if good.isEmpty then s.ptpAuthFail h.port
      else
        let t := if good.length < xs.length then s.ptpAuthFail h.port else s
        (t.bump (ETH_RX_PTP_CNT_COUNT h.port)).each good fun x u => f x (u.reselect x h.port)

/-- Pdelay, Signaling and Management messages (Table 8.1). -/
def execPtpOtherMessage (h : PtpHdr) (s : State) : Host.Outcome State Fault Refusal :=
  s.act fun c => if c.ethUp h.port then c.ethDiscard h.port else c

/-- The clockIdentity of port `j`: the EUI-64 of its MAC address (R202). -/
def Chip.clockId (s : Chip) (j : Nat) : Nat :=
  let m := s.get (ETH_MAC_MAC j)
  m / 2 ^ 24 * 2 ^ 40 + 0xFFFE * 2 ^ 24 + m % 2 ^ 24

/-- The portIdentity of port `j`: its clockIdentity and portNumber 1 (R202). -/
def Chip.portId (s : Chip) (j : Nat) : Nat := s.clockId j * 2 ^ 16 + 1

/-- An Announce: the sender's dataset, and a LOST domain listens again (R207, R209).  One that this clock has sent itself, or with
stepsRemoved of 255 or more, names no foreign master (IEEE 1588-2019, 9.3.2.5). [log 55: DEDUCED] -/
def Chip.announce (s : Chip) (h : PtpHdr) (d : PtpDataset) (x : Nat) : Chip :=
  let src := h.source.toNat
  let ds := [d.prio1.toNat, d.clockClass.toNat, d.accuracy.toNat, d.variance.toNat, d.prio2.toNat, d.gm.toNat]
  let t := s.modPtp x h.port (fun r =>
    let old := ((r.masters.find? (fun m => m.src == src)).map (·.heard)).getD []
    let l := r.masters.filter (fun m => m.src != src)
    { r with noAnn := false, masters := if d.steps.toNat < 255 ∧ src / 2 ^ 16 ≠ s.clockId h.port then
        l ++ [{ src, ds, steps := d.steps.toNat, heard := (s.upNs :: old).take 2, logInt := h.logInt }] else l })
  let t := if t.domSt x = domLost then (t.set (TIME_DOM_STATUS_STATE x) domListen).modDom x (fun r => { r with run := 0, theta := none })
    else t
  t.reselect x h.port

def execPtpAnnounce (h : PtpHdr) (d : PtpDataset) (s : State) : Host.Outcome State Fault Refusal :=
  s.act fun c => c.ptpTake h true (fun x t => t.announce h d x)

/-! ### Active domain (R216 to R219) -/

/-- Make domain `x` active. -/
def Chip.makeActive (s : Chip) (x : Nat) : Chip :=
  if s.get TIME_STATUS_ACTIVE = x then s else (s.set TIME_STATUS_ACTIVE x).raise TIME_EVENTS_SWITCHED

/-- The active domain has been lost: switch over, or time holdover. -/
def Chip.activeLost (s : Chip) : Chip :=
  let o := 1 - s.get TIME_STATUS_ACTIVE
  if s.on TIME_CTRL_AUTO ∧ s.domSt o = domTracking ∧ s.thetaIn o (s.get TIME_AGREE_NS) then s.makeActive o
  else if s.on TIME_STATUS_HOLDOVER then s
  else ((((s.set TIME_STATUS_HOLDOVER 1).set TIME_STATUS_SLEWING 0).set TIME_HO_SEC_SEC 0).modTime
    (fun r => { r with hoFrom := s.upNs })).raise TIME_EVENTS_HOLDOVER

/-- Domain `x` enters ANOMALY or LOST. -/
def Chip.domBad (s : Chip) (x st : Nat) : Chip :=
  let t := (s.set (TIME_DOM_STATUS_STATE x) st).modDom x (fun r => { r with run := 0 })
  let t := if st = domAnomaly then (t.bump TIME_ANOMALY_CNT_COUNT).raiseF3 TIME_EVENTS_ANOMALY else t
  if t.get TIME_STATUS_ACTIVE = x then t.activeLost else t

/-- A change of preference that can be made now (R218). -/
def Chip.prefTry (s : Chip) : Chip :=
  let x := s.get TIME_CTRL_PREF
  if s.time.prefDue ∧ s.get TIME_STATUS_ACTIVE < 2 ∧ s.domSt x = domTracking ∧ s.thetaIn x (s.get TIME_AGREE_NS) then
    (s.makeActive x).modTime (fun r => { r with prefDue := false })
  else s

/-- A tracked update of domain `x` ends time holdover (R219). -/
def Chip.holdoverExit (s : Chip) (x : Nat) : Chip :=
  if s.on TIME_STATUS_HOLDOVER ∧ s.domSt x = domTracking ∧ s.thetaIn x (s.get TIME_JUMP_THRESH_NS) then
    (((s.set TIME_STATUS_HOLDOVER 0).set TIME_HO_SEC_SEC 0).raise TIME_EVENTS_HO_EXIT).makeActive x
  else s

/-! ### The servo (R210, R211) -/

/-- A frequency in units of 10^-12 as a value of D. -/
def discOf (f : Int) : Int := roundDiv (f * 281474977) 1000000

/-- kp × θ and ki × θ in units of 10^-12 for θ in picoseconds: a critically damped loop of natural frequency BW
in units of 10 mHz, updated every `ns` nanoseconds. [log 56: DEDUCED] -/
def kpTheta (bw : Nat) (th : Int) : Int := roundDiv (4 * piE14 * bw * th) (10 ^ 16)
/-- See [log 56: DEDUCED]. -/
def kiTheta (bw ns : Nat) (th : Int) : Int := roundDiv (4 * piE14 * piE14 * bw * bw * ns * th) (10 ^ 41)

/-- `a` moved toward `b` by at most `n`. [log 56: DEDUCED] -/
def toward (a b : Int) (n : Nat) : Int := a + clampInt (-n) n (b - a)

/-- The largest move of D in `ns` nanoseconds. [log 56: DEDUCED] -/
def Chip.drate (s : Chip) (ns : Nat) : Nat := s.get TIME_SERVO_CFG_DRATE * 281474977 * ns / 10 ^ 10

/-- The captain's core is LOCKED, and it uses the time-servo lease (R211, R360). -/
def Chip.servoFree (s : Chip) : Bool := s.syn s.captain == synLocked && !s.leaseStopped 1

/-- The vice-captain's servo measures: its core is LOCKED (R208, R211). -/
def Chip.viceFree (s : Chip) : Bool := s.hasVice && s.syn s.vice == synLocked

/-- An update of domain `x` drives the f_est of both servos and, for the domain in charge, D from the captain's. Outside R210,
which gives f_est for the active domain after the first step, the spec does not say how f_est is found: a free value. [log 2:
DESIGN CHOICE; 56: DEDUCED; 57: DESIGN CHOICE] -/
def Chip.servo (s : Chip) (x : Nat) (th : Int) (ns : Nat) : Chip :=
  if s.get TIME_STATUS_ACTIVE = x then
    if s.domSt x ≠ domTracking ∨ s.on TIME_STATUS_HOLDOVER then s
    else
      let bw := s.get TIME_SERVO_CFG_BW
      let lim := s.get TIME_SERVO_CFG_SLEW * 1000000
      let k := kiTheta bw ns th
      let s := if s.viceFree then s.modDom x (fun r => { r with fVice := r.fVice - k }) else s
      if !s.servoFree then s
      else
        let f := (s.dom x).fEst - k
        let p := clampInt (-lim) lim (-(kpTheta bw th))
        let tgt := clampInt (-discMax) discMax (discOf (f + p))
        let t := (s.modDom x (fun r => { r with fEst := f })).modTime (fun r => { r with d := toward r.d tgt (s.drate ns) })
        t.setB TIME_STATUS_SLEWING (decide (p.natAbs = lim))
  else
    let free := fun (t : Chip) => clampInt (-100000000) 100000000 (signedOf 32 t.free)
    let s := if s.viceFree then s.took.modDom x (fun r => { r with fVice := free s }) else s
    if !s.servoFree then s
    else
      let f := free s
      let t := s.took.modDom x (fun r => { r with fEst := f })
      if t.on TIME_STATUS_VALID ∨ t.domSt x ≠ domTracking ∨ x ≠ t.get TIME_CTRL_PREF ∧ t.domSt (t.get TIME_CTRL_PREF) = domTracking then t
      else t.modTime (fun r => { r with d := toward r.d (clampInt (-discMax) discMax (discOf f)) (t.drate ns) })

/-! ### The first step and a re-step (R213, R214, R220) -/

/-- Choose N_s and N' for a step to domain `x`; `restep` when authorised by R220. [log 58: DEDUCED] -/
def Chip.chooseStep (s : Chip) (x : Nat) (restep : Bool) : Chip :=
  let ns := s.boundaryAfter (20 * s.tickNs)
  let th := ((s.dom x).theta).getD 0
  -- domain time, in picoseconds past TICK_ORIGIN, of local boundary N_s - 1
  let at_ : Int := ((ns - 1) * s.tickNs * 1000 : Nat) - th
  let per : Int := (s.tickNs * 1000 : Nat)
  let n : Int := -((-(at_ + per)) / per)
  if n ≤ (ns : Int) - 1 then
    if restep then s.raise TIME_EVENTS_RESTEP_REFUSED
    else (s.set TIME_STATUS_FIRST_BACK 1).raise TIME_EVENTS_FIRST_BACK
  else s.modTime (fun r => { r with stepAt := some (ns, n.toNat, x, restep) })

/-- The conditions of the first step hold together. [log 58: DEDUCED] -/
def Chip.tryFirst (s : Chip) : Chip :=
  let x := if s.domSt (s.get TIME_CTRL_PREF) = domTracking then s.get TIME_CTRL_PREF else 1 - s.get TIME_CTRL_PREF
  if s.started ∧ s.on TIME_CTRL_EN ∧ !s.on TIME_STATUS_VALID ∧ !s.on TIME_STATUS_FIRST_BACK ∧ s.time.stepAt = none
      ∧ s.domSt x = domTracking ∧ s.time.d = clampInt (-discMax) discMax (discOf (s.dom x).fEst) then s.chooseStep x false
  else s

/-! ### Updates (R208, R209) -/

/-- An update of domain `x`: offset and mean path delay in picoseconds. [log 60: DESIGN CHOICE] -/
def Chip.domUpdate (s : Chip) (x : Nat) (th mpd : Int) : Chip :=
  let r := s.dom x
  let ns := (s.upTicks - r.lastUp) * s.tickNs
  let jump := s.get TIME_JUMP_THRESH_NS * 1000
  let small := decide (th.natAbs ≤ jump)
  let near := match r.theta with
    | some v => decide ((th - v).natAbs ≤ jump)
    | none => true
  let st := s.domSt x
  let ok := if st = domListen ∧ !s.on TIME_STATUS_VALID then near else small
  let first := decide (st = domListen) && !s.on TIME_STATUS_VALID
  let run := if ok then r.run + 1 else if first then 1 else 0
  let s := s.modDom x (fun r => { r with run := run, theta := some th, lastUp := s.upTicks, group := [] })
  let s := if (st = domListen ∨ st = domAnomaly) ∧ s.get TIME_LOSS_CFG_ACQ ≤ run then s.set (TIME_DOM_STATUS_STATE x) domTracking
    else if st = domTracking ∧ s.on TIME_STATUS_VALID ∧ !small then s.domBad x domAnomaly
    else s
  let s := (s.holdoverExit x).prefTry
  let s := s.servo x th ns
  let s := s.setI (TIME_DOM_OFFSET_PS x) (clampInt (-(2 ^ 31 : Nat)) (2 ^ 31 - 1 : Nat) th)
  let s := s.set (TIME_DOM_MPD_PS x) mpd.toNat
  let s := s.setI (TIME_DOM_FREQ_F x) (s.dom x).fEst
  let s := s.set (TIME_DOM_GM_ID x) (match (s.dom x).master with
    | some (_, _, g) => g
    | none => 0)
  (s.bump (TIME_DOM_UPDATE_CNT_COUNT x)).tryFirst

/-- An exchange of the port in use joins the group; FILTER of them make an update, from the one with the smallest
mean path delay. -/
def Chip.exchange (s : Chip) (x : Nat) (th mpd : Int) : Chip :=
  let g := (s.dom x).group ++ [(th, mpd)]
  if s.get TIME_SERVO_CFG_FILTER ≤ g.length then
    let b := g.foldl (fun (b : Int × Int) e => if e.2 < b.2 then e else b) (th, mpd)
    let b := (g.find? (fun e => e.2 == b.2)).getD b
    s.domUpdate x b.1 b.2
  else s.modDom x (fun r => { r with group := g })

/-- The message comes from the master that the port has selected. -/
def Chip.fromMaster (s : Chip) (h : PtpHdr) (x : Nat) : Bool :=
  (s.ptp x h.port).sel == some h.source.toNat

/-- The port is the one in use. -/
def Chip.inUse (s : Chip) (x j : Nat) : Bool := ((s.dom x).master.map (·.1)) == some j

/-- A Sync with its originTimestamp and the raw ingress stamp, both in picoseconds (R208, R209). [log 63: DESIGN CHOICE] -/
def Chip.sync (s : Chip) (h : PtpHdr) (twoStep : Bool) (origin raw : Int) (x : Nat) : Chip :=
  let j : Nat := h.port
  if !s.fromMaster h x then s
  else
    let back := match tabGet (fun _ => none) (s.ptp x j).origins h.source.toNat with
      | some o => decide (origin < o)
      | none => false
    let t2 := s.stampIn j raw - h.corr - s.getI (ETH_ASYM_PS j)
    let t := s.modPtp x j (fun r => { r with
      origins := tabPut (fun _ => none) r.origins h.source.toNat (some origin), noSync := false, twoStep := twoStep,
      logSync := h.logInt, t2 := some t2,
      t1 := if twoStep then none else some origin, waitSeq := if twoStep then some h.seq.toNat else none })
    if t.inUse x j then
      let t := (t.set (TIME_DOM_STATUS_LOG_SYNC x) (unsignedOf 8 h.logInt)).setB (TIME_DOM_STATUS_TWO_STEP x) twoStep
      if back then
        let t := t.raise TIME_EVENTS_BACKWARD
        if t.domSt x = domTracking then t.domBad x domAnomaly else t
      else t
    else t

def execPtpSync (h : PtpHdr) (twoStep : Bool) (origin raw : Int) (t : Nat) (s : State) : Host.Outcome State Fault Refusal :=
  s.act fun c => (c.at t).ptpTake h true (fun x u => u.sync h twoStep origin raw x)

/-- A Follow_Up: the precise origin time of the Sync with the same sequence number. -/
def Chip.followUp (s : Chip) (h : PtpHdr) (origin : Int) (x : Nat) : Chip :=
  if s.fromMaster h x ∧ (s.ptp x h.port).waitSeq = some h.seq.toNat then
    s.modPtp x h.port (fun r => { r with t1 := some (origin + h.corr), waitSeq := none })
  else s

def execPtpFollowUp (h : PtpHdr) (origin : Int) (s : State) : Host.Outcome State Fault Refusal :=
  s.act fun c => c.ptpTake h false (fun x u => u.followUp h origin x)

/-- A Delay_Resp to the port's own request: receiveTimestamp in picoseconds (clause 11.3). -/
def Chip.delayResp (s : Chip) (h : PtpHdr) (req : Nat) (t4 : Int) (x : Nat) : Chip :=
  let j : Nat := h.port
  let r := s.ptp x j
  if req = s.portId j ∧ s.fromMaster h x ∧ r.reqSeq = h.seq.toNat then
    let s := s.modPtp x j (fun r => { r with t3 := none, reqLog := clampInt (-7) 3 h.logInt })
    match r.t1, r.t2, r.t3 with
    | some t1, some t2, some t3 =>
      let ms := t2 - t1
      let sm := t4 - h.corr - t3
      if s.inUse x j then s.exchange x (roundDiv (ms - sm) 2) (roundDiv (ms + sm) 2) else s
    | _, _, _ => s
  else s

def execPtpDelayResp (h : PtpHdr) (req : BitVec 80) (t4 : Int) (t : Nat) (s : State) : Host.Outcome State Fault Refusal :=
  s.act fun c => (c.at t).ptpTake h false (fun x u => u.delayResp h req.toNat t4 x)

/-! ### Loss (R209) -/

/-- Port `j` takes no part in domain `x`, or has no link. -/
def Chip.ptpAbsent (s : Chip) (x j : Nat) : Bool := !s.ethUp j || !maskBit (s.get (TIME_DOM_CFG_PORTS x)) j

/-- LOST when a timeout of either kind stands on each port. -/
def Chip.domLostTry (s : Chip) (x : Nat) : Chip :=
  let gone := [0, 1].all (fun j => s.ptpAbsent x j || (s.ptp x j).noSync || (s.ptp x j).noAnn)
  if domListen ≤ s.domSt x ∧ s.domSt x ≤ domAnomaly ∧ gone then s.domBad x domLost else s

/-- SYNC_TMO Sync intervals without a Sync on port `j`. -/
def execSyncTimeout (x j : Fin 2) (s : State) : Host.Outcome State Fault Refusal :=
  s.act fun c => (c.modPtp x j (fun r => { r with noSync := true })).domLostTry x

/-- ANN_TMO Announce intervals without an Announce on port `j`: it has no master any more. -/
def execAnnounceTimeout (x j : Fin 2) (s : State) : Host.Outcome State Fault Refusal :=
  s.act fun c => ((c.modPtp x j (fun r => { r with noAnn := true, masters := [] })).reselect x j).domLostTry x

/-! ### Time words (R200) -/

/-- The time word of the boundary reaches die `d`, whose own package time differs by `skew` picoseconds; a SKEW run holds the check
stale (R200, Table 10.1). [log 61: DESIGN CHOICE] -/
def Chip.timeWord (s : Chip) (d : Nat) (skew : Int) : Chip :=
  let t := if 1000 < skew.natAbs ∧ !s.calStale d calSkew then s.raiseF3 TIME_EVENTS_DIE_SKEW else s
  t.modTime (fun r => { r with dPend := r.dPend ++ [(d, s.tick + 2, r.d)], dSent := r.d })

def execTimeWord (d : Fin 8) (skew : Int) (s : State) : Host.Outcome State Fault Refusal :=
  s.act fun c => if c.inService d ∧ c.started ∧ !c.leaseStopped 2 then c.timeWord d skew else c

/-- At a boundary the dies load the values of D that are due. -/
def Chip.dTick (s : Chip) : Chip :=
  let due := s.time.dPend.filter (fun p => decide (p.2.1 ≤ s.tick))
  let s := s.modTime (fun r => { r with dPend := r.dPend.filter (fun p => decide (s.tick < p.2.1)) })
  s.each due fun p t => t.loadD p.1 p.2.2

/-! ### Launch slots (R223 to R226, R230) -/

abbrev lFree : Nat := 0
abbrev lWriting : Nat := 1
abbrev lArmed : Nat := 2
abbrev lSent : Nat := 3
abbrev lSentLate : Nat := 4
abbrev lDropped : Nat := 5
abbrev lAborted : Nat := 6

abbrev launchSlots : List Nat := List.range 16

def Chip.lst (s : Chip) (j : Nat) : Nat := s.get (ETH_L_STATUS_STATE j)
def Chip.setLst (s : Chip) (j st : Nat) : Chip := s.set (ETH_L_STATUS_STATE j) st
def Chip.lCause (s : Chip) (j c : Nat) : Chip := s.set (ETH_L_STATUS_CAUSE j) c
def Chip.lPort (s : Chip) (j : Nat) : Nat := s.get (ETH_L_CFG_PORT j)

/-- The launch time of slot `j` in nanoseconds. -/
def Chip.lTime (s : Chip) (j : Nat) : Nat :=
  (s.get (ETH_L_TIME_SEC_LO_SEC j) + 2 ^ 32 * s.get (ETH_L_TIME_SEC_HI_SEC j)) * 1000000000 + s.get (ETH_L_TIME_NS_NS j)

/-- Time on the wire of a frame of `len` bytes with preamble, FCS and gap, in picoseconds. [log 64: DESIGN CHOICE] -/
def Chip.wirePs (s : Chip) (p len : Nat) : Nat := (8 + len + 4 + 12) * (if s.on (ETH_STATUS_RATE p) then 8000 else 800)

/-- Two frames that start at `a` and `b` ns and last `x` and `y` ps meet on the wire. [log 64: DESIGN CHOICE] -/
def wireMeet (a x b y : Nat) : Bool := decide (a * 1000 < b * 1000 + y) && decide (b * 1000 < a * 1000 + x)

/-- Slot `j` meets another armed slot of the same port. [log 64: DESIGN CHOICE] -/
def Chip.lOverlap (s : Chip) (j : Nat) : Bool :=
  launchSlots.any fun k => k != j && s.lst k == lArmed && s.lPort k == s.lPort j
    && wireMeet (s.lTime j) (s.wirePs (s.lPort j) (s.get (ETH_L_CFG_LEN j)))
        (s.lTime k) (s.wirePs (s.lPort k) (s.get (ETH_L_CFG_LEN k)))

/-- A final state. -/
def Chip.lFinal (s : Chip) (j st c : Nat) : Chip :=
  let late := maskBit s.time.launchAbort j
  let t := ((s.setLst j st).lCause j c).modTime (fun r => { r with
    launchLate := maskClear r.launchLate j, launchAbort := maskClear r.launchAbort j })
  t.setB (ETH_L_STATUS_ABORT_LATE j) late

def Chip.lDrop (s : Chip) (j c : Nat) : Chip :=
  ((s.lFinal j lDropped c).bump ETH_LAUNCH_DROP_CNT_COUNT).raise TIME_EVENTS_LAUNCH_DROP

/-- The late policy (R225): dropped, or sent at the first moment the port allows. [log 64: DESIGN CHOICE] -/
def Chip.lLate (s : Chip) (j : Nat) : Chip :=
  if s.on (ETH_L_CFG_LATE j) then
    (s.setLst j lArmed).modTime (fun r => { r with launchLate := maskSet r.launchLate j })
  else s.lDrop j 5

/-- ARM in WRITING (R223). -/
def Chip.lArm (s : Chip) (j : Nat) : Chip :=
  let n := s.get (ETH_L_CFG_LEN j)
  if !s.on TIME_STATUS_VALID then s.lCause j 1
  else if n < 60 ∨ 1514 < n then s.lCause j 2
  else if !s.ethUp (s.lPort j) then s.lCause j 3
  else if s.lOverlap j then s.lCause j 4
  else
    let t := s.lCause j 0
    if t.lTime j < t.pkgNs + 10000 then t.lLate j else t.setLst j lArmed

/-- A write of ETH_L_j_CTRL. -/
def Chip.launchCtrl (s : Chip) (j : Nat) (v : Word) : Chip :=
  let x := v.toNat % 16
  let st := s.lst j
  if x = 0 then s
  else if 1 < maskCount 4 x then s.lCause j 6
  else if x = 1 then
    if st = lFree then ((s.setLst j lWriting).lCause j 0).set (ETH_L_STATUS_ABORT_LATE j) 0 else s.lCause j 6
  else if x = 2 then (if st = lWriting then s.lArm j else s.lCause j 6)
  else if x = 4 then
    if st = lArmed then
      if s.pkgNs + 2000 ≤ s.lTime j ∧ !maskBit s.time.launchLate j then s.lFinal j lAborted 0
      else s.modTime (fun r => { r with launchAbort := maskSet r.launchAbort j })
    else if lSent ≤ st then s.set (ETH_L_STATUS_ABORT_LATE j) 1
    else s.lCause j 6
  else if st = lWriting ∨ lSent ≤ st then ((s.setLst j lFree).lCause j 0).set (ETH_L_STATUS_ABORT_LATE j) 0
  else s.lCause j 6

def execLaunchOpen (j : Fin 16) (v : Word) (s : State) : Host.Outcome State Fault Refusal :=
  s.act fun c => c.launchCtrl j v
def execLaunchArm (j : Fin 16) (v : Word) (t : Nat) (s : State) : Host.Outcome State Fault Refusal :=
  s.act fun c => (c.at t).launchCtrl j v
def execLaunchAbort (j : Fin 16) (v : Word) (t : Nat) (s : State) : Host.Outcome State Fault Refusal :=
  s.act fun c => (c.at t).launchCtrl j v
def execLaunchRelease (j : Fin 16) (v : Word) (s : State) : Host.Outcome State Fault Refusal :=
  s.act fun c => c.launchCtrl j v

/-- A write to a header register or to the buffer of slot `j` (R230). [log 64: DESIGN CHOICE] -/
def Chip.launchWrite (s : Chip) (j a : Nat) (v : Word) : Chip :=
  let m : Nat := if a = ETH_L_CFG j then 0xC00007FF else if a = ETH_L_TIME_SEC_HI j then 0xFFFF else 0xFFFFFFFF
  if s.lst j = lWriting then s.setReg a (v &&& BitVec.ofNat 32 m) else s.lCause j 6

/-- The bytes of the frame of slot `j`. -/
def Chip.lFrame (s : Chip) (j : Nat) : List Nat :=
  ((List.range 379).flatMap (fun i => bytesLE 4 (s.reg (ETH_L_BUF j i)).toNat)).take (s.get (ETH_L_CFG_LEN j))

/-- Port `p` puts a frame on the wire, as soon as that has become free. [log 64: DESIGN CHOICE] -/
def Chip.sendFrame (s : Chip) (p : Nat) (bs : List Nat) : Chip :=
  s.modTime (fun r => { r with
    lastFrame := tabPut (fun _ => []) r.lastFrame p bs
    wireEnd := tabPut (fun _ => 0) r.wireEnd p (max (s.pkgNs * 1000) (tabGet (fun _ => 0) r.wireEnd p) + s.wirePs p bs.length) })

/-- The wire of port `p` still carries a frame. -/
def Chip.wireHeld (s : Chip) (p : Nat) : Bool := decide (s.pkgNs * 1000 < tabGet (fun _ => 0) s.time.wireEnd p)

/-- A frame of `len` bytes that port `p` started now would delay a launch armed for its time (R224). [log 64: DESIGN CHOICE] -/
def Chip.wireBusy (s : Chip) (p len : Nat) : Bool :=
  launchSlots.any fun k => s.lst k == lArmed && s.lPort k == p && !maskBit s.time.launchLate k
    && wireMeet s.pkgNs (s.wirePs p len) (s.lTime k) (s.wirePs p (s.get (ETH_L_CFG_LEN k)))

/-- The launch time of slot `j`, or the first moment the port allows for a late one: the wire is free and no armed launch would be
delayed.  `raw` is the egress stamp in picoseconds (R224, R225). [log 63: DESIGN CHOICE; 64: DESIGN CHOICE] -/
def Chip.launch (s : Chip) (j : Nat) (raw : Int) : Chip :=
  let late := maskBit s.time.launchLate j
  if s.lst j = lArmed ∧ (late ∨ s.lTime j ≤ s.pkgNs) then
    let p := s.lPort j
    if !s.ethUp p then s.lDrop j 3
    else if late ∧ (s.wireHeld p ∨ s.wireBusy p (s.get (ETH_L_CFG_LEN j))) then s
    else
      let ns := (s.stampNative p raw / 1000).toNat
      let t := (s.sendFrame p (s.lFrame j)).lFinal j (if late then lSentLate else lSent) 0
      let t := t.raise (if late then TIME_EVENTS_LAUNCH_LATE else TIME_EVENTS_LAUNCH_SENT)
      ((t.set (ETH_L_TX_NS_NS j) (ns % 1000000000)).set (ETH_L_TX_SEC_LO_SEC j) (ns / 1000000000)).set
        (ETH_L_TX_SEC_HI_SEC j) (ns / 1000000000 / 2 ^ 32)
  else s

/-- A step of package time passes the launch times up to `ns` (R226). -/
def Chip.launchPassed (s : Chip) (ns : Nat) : Chip :=
  s.each launchSlots fun j t =>
    if t.lst j = lArmed ∧ !maskBit t.time.launchLate j ∧ t.lTime j < ns then t.lLate j else t

/-! ### Delay_Req (R202, R204, R208, R221, R224) -/

/-- The ones-complement sum of the 16-bit words of a header, complemented. -/
def ipChecksum (bs : List Nat) : Nat :=
  let w := (List.range ((bs.length + 1) / 2)).foldl (fun a i => a + bs.getD (2 * i) 0 * 256 + bs.getD (2 * i + 1) 0) 0
  let f := fun (x : Nat) => x % 65536 + x / 65536
  65535 - f (f w)

/-- The PTP part of a Delay_Req of domain `x` on port `j`: header, an originTimestamp of zero and, under AUTH, an AUTHENTICATION
TLV of key slot TXKEY (R208, R221). [log 109: PRESUMED] -/
def Chip.delayReqMsg (s : Chip) (x j seq : Nat) (corr : Int) : List Nat :=
  let auth := s.on (TIME_DOM_CFG_AUTH x)
  let sdo := s.get (TIME_DOM_CFG_SDO x)
  let k : PtpKey := tabGet (fun _ => {}) s.sec.ptpKeys (s.get (TIME_DOM_CFG_TXKEY x))
  let hdr := [sdo / 256 % 16 * 16 + 1, 0x12] ++ bytesBE 2 (if auth then 70 else 44) ++ [s.get (TIME_DOM_CFG_DOMAIN x), sdo % 256, 0, 0]
    ++ bytesBE 8 (unsignedOf 64 (roundDiv (corr * 65536) 1000)) ++ [0, 0, 0, 0] ++ bytesBE 10 (s.portId j) ++ bytesBE 2 seq ++ [1, 0x7F]
    ++ List.replicate 10 0
  if auth then
    let m := hdr ++ bytesBE 2 0x8009 ++ bytesBE 2 22 ++ [k.spp % 256, 0] ++ bytesBE 4 k.keyId
    m ++ (hmacSha256 k.key m).take 16
  else hdr

/-- The Ethernet frame of a Delay_Req, without its FCS: Annex F, or UDP/IPv4 from ETH_p_IPV4 with TTL 1, as the port is configured
(Table 8.1, R204). [log 109: PRESUMED] -/
def Chip.delayReqFrame (s : Chip) (j : Nat) (msg : List Nat) : List Nat :=
  let mac := bytesBE 6 (s.get (ETH_MAC_MAC j))
  let bs := if s.on (ETH_CTRL_TRANSPORT j) then
      let ip := fun (c : Nat) => [0x45, 0] ++ bytesBE 2 (28 + msg.length) ++ [0, 0, 0, 0, 1, 17] ++ bytesBE 2 c
        ++ bytesBE 4 (s.get (ETH_IPV4_ADDR j)) ++ [224, 0, 1, 129]
      bytesBE 6 0x01005E000181 ++ mac ++ [8, 0] ++ ip (ipChecksum (ip 0)) ++ bytesBE 2 319 ++ bytesBE 2 319 ++ bytesBE 2 (8 + msg.length)
        ++ [0, 0] ++ msg
    else bytesBE 6 (if s.on (ETH_CTRL_L2_ADDR j) then 0x0180C200000E else 0x011B19000000) ++ mac ++ [0x88, 0xF7] ++ msg
  bs ++ List.replicate (60 - bs.length) 0

/-- A Delay_Req leaves port `j` for domain `x`, with the raw egress stamp; while another frame is on the wire, or it would delay an
armed launch, it waits (R208, R221, R224). [log 63: DESIGN CHOICE] -/
def Chip.delayReq (s : Chip) (x j : Nat) (raw : Int) : Chip :=
  if s.ethUp j ∧ s.on TIME_CTRL_EN ∧ s.on (TIME_DOM_CFG_EN x) ∧ maskBit (s.get (TIME_DOM_CFG_PORTS x)) j
      ∧ (s.ptp x j).sel.isSome then
    let seq := ((s.ptp x j).reqSeq + 1) % 65536
    let corr := -(s.getI (ETH_ASYM_PS j))
    let f := s.delayReqFrame j (s.delayReqMsg x j seq corr)
    if s.wireHeld j ∨ s.wireBusy j f.length then s
    else
      ((s.modPtp x j (fun r => { r with
        t3 := some (s.stampOut j raw), reqSeq := seq, reqCorr := corr,
        reqKey := if s.on (TIME_DOM_CFG_AUTH x) then some (s.get (TIME_DOM_CFG_TXKEY x)) else none })).sendFrame j f).bump
        (ETH_TX_PTP_CNT_COUNT j)
  else s

def execDelayReqSend (x j : Fin 2) (raw : Sys2Proof.RawEgress) (s : State) : Host.Outcome State Fault Refusal :=
  s.act fun c => (c.at raw.t).delayReq x j raw.ps

/-! ### Telemetry (R227) -/

/-- How many active slots of the dies in service stand in loop state `st`. -/
def Chip.slotsIn (s : Chip) (st : Nat) : Nat :=
  (s.inServiceDies.map (fun d => ((s.activeSlots d).filter (fun sl => (s.slot d sl).st == st)).length)).sum

/-- Faults raised since the last frame: F3, F2, F1, F0 in bits 3 to 0. -/
def Chip.faultsSince (s : Chip) : Nat :=
  (List.range 4).foldl (fun m k => if s.get (FAULT_CNT_COUNT k) = s.time.telSeen.getD k 0 then m else maskSet m k) 0

/-- The lowest LOCK density of the dies in service, as SYN_STATUS shows it. -/
def Chip.lowDens (s : Chip) : Nat :=
  s.inServiceDies.foldl (fun m d => min m (s.get (SYN_STATUS_LOCK_DENS d))) 15

/-- The telemetry frame of port `p` for launch time `ns`, which starts on the wire at `start` (Table 8.6); the tag under a
telemetry key that nobody has written is not stated: free. [log 2: DESIGN CHOICE; 65: DESIGN CHOICE] -/
def Chip.telFrame (s : Chip) (p ns start : Nat) (delayed : Bool) : List Nat :=
  let act := s.get TIME_STATUS_ACTIVE
  let fl := s.get TIME_STATUS_VALID * 128 + s.get TIME_STATUS_HOLDOVER * 64 + s.get TIME_STATUS_SLEWING * 32
    + (if delayed then 16 else 0) + act * 4
  let th := if act < 2 then s.get (TIME_DOM_OFFSET_PS act) else 0
  let body := bytesBE 6 (s.get ETH_TEL_DST_MAC) ++ bytesBE 6 (s.get (ETH_MAC_MAC p)) ++ [0x88, 0xB5, 1, fl]
    ++ bytesBE 8 (s.get PKG_SERIAL_SERIAL) ++ bytesBE 8 (s.get ETH_TEL_SEQ_SEQ)
    ++ bytesBE 8 (s.tick + (start - s.time.now) / s.tickNs)
    ++ bytesBE 6 (ns / 1000000000) ++ bytesBE 4 (ns % 1000000000) ++ bytesBE 4 th ++ bytesBE 8 (unsignedOf 64 s.time.d)
    ++ [lpLocked, lpAcquire, lpHold, lpFault, lpParked].flatMap (fun k => bytesBE 2 (s.slotsIn k))
    ++ [s.get PKG_DIES_IN_SERVICE, s.faultsSince, s.lowDens] ++ List.replicate 35 0
  body ++ (if s.sec.telKey.isEmpty then bytesBE 16 s.free else (hmacSha256 s.sec.telKey body).take 16)

/-- The moment is a whole multiple of PERIOD milliseconds since TICK_ORIGIN. -/
def Chip.telDue (s : Chip) : Bool :=
  s.on ETH_TEL_CFG_EN && s.started && (s.pkgNs - s.originNs) % (max 1 (s.get ETH_TEL_CFG_PERIOD) * 1000000) == 0

/-- The telemetry frame of port `p` for launch time `ns` goes on the wire, at once after a host frame that is still there. [log 65:
DESIGN CHOICE] -/
def Chip.telSend (s : Chip) (p ns : Nat) (delayed : Bool) : Chip :=
  let start := max s.pkgNs (ceilDiv (tabGet (fun _ => 0) s.time.wireEnd p) 1000)
  let t := (s.sendFrame p (s.telFrame p ns start delayed)).took.set ETH_TEL_SEQ_SEQ (s.get ETH_TEL_SEQ_SEQ + 1)
  let t := if delayed then t.bump ETH_TEL_DELAYED_CNT_COUNT else t
  t.modTime (fun r => { r with
    telWait := tabPut (fun _ => none) r.telWait p none, telSeen := (List.range 4).map (fun k => s.get (FAULT_CNT_COUNT k)) })

/-- A telemetry frame that waits follows as soon as no armed launch stands before it (R227). -/
def Chip.telFollow (s : Chip) (p : Nat) : Chip :=
  match tabGet (fun _ => none) s.time.telWait p with
  | some ns => if s.wireBusy p 126 then s else if s.ethUp p then s.telSend p ns true
      else s.modTime (fun r => { r with telWait := tabPut (fun _ => none) r.telWait p none })
  | none => s

/-- A telemetry launch: where it meets a host launch the host frame goes first (R227). -/
def Chip.telemetry (s : Chip) : Chip :=
  if !s.telDue then s
  else s.each [0, 1] fun p t =>
    if maskBit (t.get ETH_TEL_CFG_PORTS) p ∧ t.ethUp p then
      if t.wireBusy p 126 then t.modTime (fun r => { r with telWait := tabPut (fun _ => none) r.telWait p (some t.pkgNs) })
      else t.telSend p t.pkgNs (t.wireHeld p)
    else t

def execTelemetryLaunch (t : Nat) (s : State) : Host.Outcome State Fault Refusal :=
  s.act fun c => (c.at t).telemetry

def execLaunchTime (j : Fin 16) (t : Nat) (raw : Int) (s : State) : Host.Outcome State Fault Refusal :=
  s.act fun c => ((c.at t).launch j raw).telFollow ((c.at t).lPort j)

/-! ### TICK_OUT and PPS_OUT (R228) -/

/-- Both pins are low until their next rising edge: a takeover, or no captain. -/
def Chip.pinsLow (s : Chip) : Chip := s.modTime (fun r => { r with tickOut := false, ppsOut := none })

/-- TICK_OUT right after the boundary. -/
def Chip.tickPin (s : Chip) : Chip :=
  let v := s.get TIME_TICK_OUT_DIV
  let div := if v = 0 then 65536 else v
  let k := s.tick % div
  let hi := s.on TIME_TICK_OUT_EN && s.started && s.inService s.captain
    && (k == 0 || (s.time.tickOut && decide (k * s.tickNs < 4 * s.get TIME_TICK_OUT_WIDTH)))
  s.modTime (fun r => { r with tickOut := hi })

/-- PPS_OUT falls WIDTH_US after it rose. -/
def Chip.ppsFall (s : Chip) : Chip :=
  match s.time.ppsOut with
  | some n => if n + 1000 * s.get TIME_PPS_OUT_WIDTH_US ≤ s.pkgNs ∨ s.pkgNs < n then s.modTime (fun r => { r with ppsOut := none }) else s
  | none => s

/-- A whole second of package time: PPS_OUT rises. -/
def Chip.pps (s : Chip) : Chip :=
  if s.pkgNs % 1000000000 = 0 ∧ s.on TIME_PPS_OUT_EN ∧ s.started ∧ s.inService s.captain
      ∧ (s.on TIME_STATUS_VALID ∨ s.on TIME_PPS_OUT_LOCAL) then s.modTime (fun r => { r with ppsOut := some s.pkgNs })
  else s

def execPpsOut (t : Nat) (s : State) : Host.Outcome State Fault Refusal :=
  s.act fun c => ((c.at t).ppsFall).pps

end Sys2Proof.Machine
end

