-- ==== Sys2Proof/Machine/Security.lean ====
section
/-!
DEFINITION. Machine/Security.lean: sessions, limited-count settings, keys, attestation, the audit log's checks
(spec/12_security.md, R325 to R345).
-/

namespace Sys2Proof.Machine

/-! ### Fuses (R327 to R332, R342) -/

def Chip.fuses (s : Chip) (d : Nat) : Fuses := tabGet (fun _ => {}) s.sec.fuses d
def Chip.setFuses (s : Chip) (d : Nat) (f : Fuses) : Chip :=
  s.modSec (fun r => { r with fuses := tabPut (fun _ => {}) r.fuses d f })

/-- State of an owner slot: 0 EMPTY, 1 PROGRAMMED, 2 REVOKED. -/
def Fuses.owner (f : Fuses) (k : Nat) : Nat :=
  if maskBit f.revoked k then 2 else if maskBit f.programmed k then 1 else 0

def Fuses.owners (f : Fuses) : List Nat := (List.range 4).map f.owner

/-- The debug port is closed (Table 12.2). [log 27: DESIGN CHOICE] -/
def Fuses.closed (f : Fuses) : Bool := f.debug || decide (2 ≤ f.lifecycle)

/-- The lifecycle state in effect: RETIRED takes effect at the next start (Table 12.2). -/
def Chip.lifecycle (s : Chip) : Nat := if s.sec.retiring then 2 else (s.fuses s.captain).lifecycle

/-- The SEC registers that come from fuses, shown from the captain's. -/
def Chip.showFuses (s : Chip) : Chip :=
  let f := s.fuses s.captain
  let s := (s.set SEC_STATUS_ROLLBACK f.rollback).set SEC_STATUS_LIFECYCLE s.lifecycle
  let s := s.setB SEC_STATUS_DEBUG_LOCKED (f.closed || s.on SEC_STATUS_DEBUG_LOCKED)
  let s := s.set SEC_OWNER_STATE_STATE (((List.range 4).map (fun k => f.owner k * 4 ^ k)).sum)
  let s := s.set SEC_OWNER_LEFT_PROGRAM (15 - f.programmed % 16)
  let s := s.set SEC_OWNER_LEFT_REVOKE (15 - f.revoked % 16)
  let s := (s.set SEC_DIE_DISABLE_MASK f.disabled).setB SEC_HP1_EN (!f.hp1Off)
  let s := (s.setB SEC_DEBUG_LOCK f.debug).set SEC_LEFT_ROLLBACK (255 - f.rollback)
  let s := (s.set SEC_LEFT_DIE_DISABLE (8 - maskCount 8 f.disabled)).set SEC_LEFT_LIFECYCLE (3 - f.lifecycle)
  let s := (s.setB SEC_LEFT_HP1 (!f.hp1Off)).setB SEC_LEFT_DEBUG (!f.debug)
  s.set TIME_RESTEP_LEFT_COUNT f.restep

/-- What a burn of a kind with an argument does to a die's fuses. -/
def Fuses.burnt (f : Fuses) (kind arg : Nat) (hash : List Nat) : Fuses :=
  if kind = 0 then { f with programmed := maskSet f.programmed arg, hashes := tabPut (fun _ => []) f.hashes arg hash }
  else if kind = 1 then { f with revoked := maskSet f.revoked arg }
  else if kind = 2 then { f with rollback := f.rollback + 1 }
  else if kind = 3 then { f with lifecycle := arg, debug := f.debug || arg == 2 }
  else if kind = 4 then { f with disabled := f.disabled ||| arg }
  else if kind = 5 then { f with hp1Off := true }
  else if kind = 6 then { f with debug := true }
  else { f with restep := f.restep - 1 }

/-- SEC_OWNER_HASH_0 to 11 as bytes. -/
def Chip.ownerHash (s : Chip) : List Nat := (List.range 12).flatMap (fun i => bytesLE 4 (s.reg (SEC_OWNER_HASH i)).toNat)

/-- An RWL write is refused with a cause of SEC_RWL_STATUS; one with no count left is recorded (Table 12.5). [log 26: DESIGN
CHOICE] -/
def Chip.rwlRefuse (s : Chip) (cause : Nat) (detail : List Nat) : Chip :=
  let t := (s.set SEC_RWL_STATUS_CAUSE cause).raise SEC_EVENTS_RWL_REFUSED
  if cause = 1 then t.auditAdd 2 2 detail else t

/-- Every populated die that is not rejected is in service (R328). -/
def Chip.allServing (s : Chip) : Bool := s.dieList.all (fun d => s.inService d || decide (svcRejected ≤ s.service d))

/-- The detail of an RWL entry: register offset, value written, remaining count after the write. [log 25: DESIGN CHOICE] -/
def rwlDetail (a v left : Nat) : List Nat := bytesLE 4 a ++ bytesLE 4 v ++ bytesLE 4 left

/-- An RWL write that its own rules admit: refused, or its burn begins with an INTENT entry (R328).  The written word itself is kept
nowhere: SEC_OWNER_CTRL, SEC_LIFECYCLE, SEC_ROLLBACK and TIME_RESTEP read 0. [log 26: DESIGN CHOICE; 111: DESIGN CHOICE] -/
def Chip.rwlBurn (s : Chip) (need : Bool) (kind arg : Nat) (detail : List Nat) : Chip :=
  if s.on SEC_STATUS_BURNING then s.rwlRefuse 3 detail
  else if !need then s.rwlRefuse 2 detail
  else
    let t := ((s.auditAdd 1 1 detail).set SEC_STATUS_BURNING 1)
    t.modSec (fun r => { r with burn := some (kind, arg, detail), burnHash := s.ownerHash })

/-- A write of SEC_OWNER_CTRL takes effect (R330). [log 26: DESIGN CHOICE] -/
def Chip.ownerCtrl (s : Chip) (v : Word) : Chip :=
  let k := v.toNat % 4
  let f := s.fuses s.captain
  let left := 1 - (if maskBit v.toNat 31 then (if maskBit f.revoked k then 1 else 0) else (if maskBit f.programmed k then 1 else 0))
  let det := rwlDetail SEC_OWNER_CTRL v.toNat (left - 1)
  if maskBit v.toNat 31 then
    if maskBit f.revoked k then s.rwlRefuse 1 det
    else if f.owner k ≠ 1 then s.rwlRefuse 8 det
    else if (List.range 4).all (fun j => j == k || f.owner j != 1) then s.rwlRefuse 4 det
    else s.rwlBurn s.allServing 1 k det
  else if maskBit f.programmed k then s.rwlRefuse 1 det
  else if f.owner k ≠ 0 then s.rwlRefuse 8 det
  else match s.sec.sess with
    | some (_, _, true, h) => if h = s.ownerHash then s.rwlBurn s.allServing 0 k det else s.rwlRefuse 7 det
    | _ => s.rwlBurn s.allServing 0 k det

def execOwnerKeyProgram (v : Word) (s : State) : Host.Outcome State Fault Refusal :=
  s.act fun c => if maskBit v.toNat 31 then c else c.ownerCtrl v
def execOwnerKeyRevoke (v : Word) (s : State) : Host.Outcome State Fault Refusal :=
  s.act fun c => if maskBit v.toNat 31 then c.ownerCtrl v else c

/-- A write of SEC_LIFECYCLE takes effect (R327). [log 26: DESIGN CHOICE] -/
def Chip.lifecycleWrite (s : Chip) (v : Word) : Chip :=
  let f := s.fuses s.captain
  let x := v.toNat % 4
  let det := rwlDetail SEC_LIFECYCLE v.toNat (2 - f.lifecycle)
  if 3 ≤ f.lifecycle then s.rwlRefuse 1 (rwlDetail SEC_LIFECYCLE v.toNat 0)
  else if x ≠ f.lifecycle + 1 ∨ (x = 2 ∧ f.owners.all (· != 1)) then s.rwlRefuse 6 det
  else s.rwlBurn s.allServing 3 x det

def execLifecycleAdvance (v : Word) (s : State) : Host.Outcome State Fault Refusal :=
  s.act fun c => c.lifecycleWrite v

/-- A write of SEC_ROLLBACK takes effect (R332). [log 26: DESIGN CHOICE] -/
def Chip.rollbackWrite (s : Chip) (v : Word) : Chip :=
  let f := s.fuses s.captain
  if !maskBit v.toNat 0 then s
  else if f.rollback = s.get IMG_STATUS_SEC_VERSION then s.rwlRefuse 5 (rwlDetail SEC_ROLLBACK v.toNat (255 - f.rollback))
  else if 255 ≤ f.rollback then s.rwlRefuse 1 (rwlDetail SEC_ROLLBACK v.toNat 0)
  else s.rwlBurn s.allServing 2 0 (rwlDetail SEC_ROLLBACK v.toNat (254 - f.rollback))

def execRollbackCommit (v : Word) (s : State) : Host.Outcome State Fault Refusal :=
  s.act fun c => c.rollbackWrite v

/-- A write of SEC_DIE_DISABLE takes effect: 1 bits only are burned (R342). [log 26: DESIGN CHOICE; 27: DESIGN CHOICE] -/
def Chip.disableWrite (s : Chip) (v : Word) : Chip :=
  let f := s.fuses s.captain
  let x := v.toNat % 256
  let all := f.disabled ||| x
  let det := rwlDetail SEC_DIE_DISABLE v.toNat (8 - maskCount 8 all)
  if x = 0 then s
  else if all = f.disabled then s.rwlRefuse 1 det
  else if maskBit all 0 ∧ maskBit all 1 then s.rwlRefuse 6 det
  else s.rwlBurn (s.inService 0 && s.inService 1) 4 x det

def execDieDisableBurn (v : Word) (s : State) : Host.Outcome State Fault Refusal :=
  s.act fun c => c.disableWrite v

/-- A write of SEC_HP1 takes effect: EN = 0 disables HP1 from the next start. [log 26: DESIGN CHOICE; 27: DESIGN CHOICE] -/
def Chip.hp1Write (s : Chip) (v : Word) : Chip :=
  let det := rwlDetail SEC_HP1 v.toNat 0
  if maskBit v.toNat 0 then s
  else if (s.fuses s.captain).hp1Off then s.rwlRefuse 1 det
  else s.rwlBurn s.allServing 5 0 det

def execHp1Disable (v : Word) (s : State) : Host.Outcome State Fault Refusal :=
  s.act fun c => c.hp1Write v

/-- A write of SEC_DEBUG takes effect: LOCK = 1 closes the debug port at once. [log 26: DESIGN CHOICE; 27: DESIGN CHOICE] -/
def Chip.debugWrite (s : Chip) (v : Word) : Chip :=
  let det := rwlDetail SEC_DEBUG v.toNat 0
  if !maskBit v.toNat 0 then s
  else if (s.fuses s.captain).debug then s.rwlRefuse 1 det
  else
    let t := s.rwlBurn s.allServing 6 0 det
    if t.sec.burn.isSome ∧ s.sec.burn.isNone then t.set SEC_STATUS_DEBUG_LOCKED 1 else t

def execDebugLock (v : Word) (s : State) : Host.Outcome State Fault Refusal :=
  s.act fun c => c.debugWrite v

/-- A write of TIME_RESTEP takes effect (R220). [log 26: DESIGN CHOICE; 58: DEDUCED] -/
def Chip.restepWrite (s : Chip) (v : Word) : Chip :=
  let x := v.toNat % 2
  let f := s.fuses s.captain
  let ahead := match (s.dom x).theta with
    | some th => decide (th < 0)
    | none => false
  if !maskBit v.toNat 31 then s
  else if !((s.domSt x == domTracking || s.domSt x == domAnomaly) && ahead) then s.raise TIME_EVENTS_RESTEP_REFUSED
  else if f.restep = 0 then s.rwlRefuse 1 (rwlDetail TIME_RESTEP v.toNat 0)
  else
    let t := s.rwlBurn s.allServing 7 x (rwlDetail TIME_RESTEP v.toNat (f.restep - 1))
    if t.sec.burn.isSome ∧ s.sec.burn.isNone then
      ((if t.on TIME_STATUS_HOLDOVER then (t.set TIME_STATUS_HOLDOVER 0).set TIME_HO_SEC_SEC 0 else t).makeActive x).chooseStep x true
    else t

def execTimeRestep (v : Word) (t : Nat) (s : State) : Host.Outcome State Fault Refusal :=
  s.act fun c => (c.at t).restepWrite v

/-- A die is rejected after its start: it leaves service (Table 12.5); DIE_SIDELINE carries the consequences out. -/
def Chip.rejectDie (s : Chip) (d : Nat) : Chip :=
  let was := s.inService d
  let t := (s.setService d svcRejected).set PKG_DIES_REJECTED (maskSet (s.get PKG_DIES_REJECTED) d)
  if was then t.modDie d (fun r => { r with sidelineDue := true }) else t

/-- The fuses of die `d` fail: it is rejected (Table 12.5). -/
def Chip.fuseFault (s : Chip) (d : Nat) : Chip := ((s.auditFrom d 10 0 [d]).secF0 10).rejectDie d

/-- The burn has been read back on every die; those in `bad` failed. [log 27: DESIGN CHOICE] -/
def Chip.burnDone (s : Chip) (bad : Nat) : Chip :=
  match s.sec.burn with
  | none => s
  | some (kind, arg, det) =>
    let hash := s.sec.burnHash
    let ds := s.dieList.filter (fun d => decide (s.service d ≤ svcSidelined))
    let s := s.each ds fun d t =>
      if maskBit bad d then t.fuseFault d
      else t.setFuses d ((t.fuses d).burnt kind arg hash)
    let s := (s.modSec (fun r => { r with
      burn := none, burnHash := [], retiring := r.retiring || (kind == 3 && arg == 3) })).set SEC_STATUS_BURNING 0
    let s := (s.auditAdd 1 0 det).showFuses
    match kind, s.sec.sess with
    | 1, some (_, k, false, _) => if k = arg then s.sessEnd endRevoked else s
    | _, _ => s

def execFuseBurnDone (bad : BitVec 8) (s : State) : Host.Outcome State Fault Refusal :=
  s.act fun c => c.burnDone bad.toNat

/-! ### Fuse levelling (R329) -/

/-- The most advanced value of every setting over a list of dies. -/
def Chip.levelOf (s : Chip) (ds : List Nat) : Fuses :=
  let fs := ds.map s.fuses
  let mx := fun (g : Fuses → Nat) => fs.foldl (fun m f => max m (g f)) 0
  let un := fun (g : Fuses → Nat) => fs.foldl (fun m f => m ||| g f) 0
  let prog := un (·.programmed)
  let whole := fun (k : Nat) => (fs.find? (fun f => maskBit f.programmed k && !(tabGet (fun _ => []) f.hashes k).isEmpty)).map
    (fun f => tabGet (fun _ => []) f.hashes k)
  let broken := (maskBits 4 prog).filter (fun k => (whole k).isNone)
  { lifecycle := mx (·.lifecycle), rollback := mx (·.rollback), programmed := prog,
    revoked := broken.foldl maskSet (un (·.revoked)), disabled := un (·.disabled),
    debug := fs.any (·.debug), hp1Off := fs.any (·.hp1Off),
    hashes := (maskBits 4 prog).foldl (fun t k => match whole k with
      | some h => tabPut (fun _ => []) t k h
      | none => t) [],
    restep := fs.foldl (fun m f => min m f.restep) 16 }

/-- The key registers show the key store. -/
def Chip.showKeys (s : Chip) : Chip :=
  (s.set SEC_PTP_KEY_STATUS_VALID (s.sec.ptpKeys.foldl (fun m k => if k.2.valid then maskSet m k.1 else m) 0)).setB
    SEC_TEL_KEY_CTRL_STATUS (!s.sec.telKey.isEmpty)

/-- At the first start in RETIRED the retained store, log and keys are erased, and one entry is recorded (R327). -/
def Chip.retire (s : Chip) : Chip :=
  if (s.fuses s.captain).lifecycle = 3 ∧ !s.audit.any (fun a => a.type == 13) then
    let t : Chip := { s with rets := [], cals := [], image := { s.image with pin := 0 } }
    let t := (t.set IMG_PIN_SLOT 0).set IMG_PIN_ONCE 0
    ((t.modSec (fun r => { r with logs := [], ptpKeys := [], telKey := [] })).showKeys).auditAdd 13 0 []
  else s

/-- Before step 5 of a start: `bad` are dies whose fuses fail their ECC, `fail` those that cannot be burned forward (R329, Table
12.5). -/
def Chip.fuseLevel (s : Chip) (bad fail : Nat) : Chip :=
  let s := s.each (s.dieList.filter (fun d => s.service d == svcStarting && maskBit bad d)) fun d t => t.fuseFault d
  let ds := s.dieList.filter (fun d => s.service d == svcStarting)
  let lv := s.levelOf ds
  let s := s.each ds fun d t =>
    if t.fuses d = lv then t
    else if maskBit fail d then (t.auditAdd 11 0 [d]).rejectDie d
    else (t.setFuses d lv).auditFrom d 9 0 [d]
  let s := s.retire.showFuses
  s.setB SEC_STATUS_HP1_EN (!(s.fuses s.captain).hp1Off)

/-! ### Sessions (R333 to R336) -/

/-- Byte area at an address function, read as bytes. -/
def Chip.areaBytes (s : Chip) (f : Nat → Nat) (n : Nat) : List Nat :=
  (List.range (n / 4)).flatMap (fun i => bytesLE 4 (s.reg (f i)).toNat)

/-- A list of bytes as words of an area. -/
def Chip.putBytes (s : Chip) (f : Nat → Nat) (bs : List Nat) : Chip :=
  s.each (List.range (bs.length / 4)) fun i t => t.setReg (f i) (BitVec.ofNat 32 (natLE ((bs.drop (4 * i)).take 4)))

def Chip.serialBytes (s : Chip) : List Nat := bytesLE 8 (s.get PKG_SERIAL_SERIAL)

/-- The captain's signature over a digest: r and s, 48 bytes each; its secret is a free value. [log 2: DESIGN CHOICE; 28:
DEDUCED] -/
def Chip.sign (s : Chip) (digest : List Nat) : List Nat :=
  let v := ecdsaSign (Config.identityKey s.captain) (s.free % p384N) digest
  bytesLE 48 v.1 ++ bytesLE 48 v.2

def Chip.sessCause (s : Chip) (p c : Nat) : Chip := s.set (onPort p SEC_SESS_STATUS_CAUSE) c

/-- OPEN through port `p` (R333). [log 2: DESIGN CHOICE; 22: DESIGN CHOICE] -/
def Chip.sessOpen (s : Chip) (p : Nat) : Chip :=
  let lc := s.get SEC_STATUS_LIFECYCLE
  if lc = 0 then s.sessCause p 8
  else if lc = 3 then s.sessCause p 7
  else if s.sec.lockout then s.sessCause p 6
  else if !s.on SEC_STATUS_ENTROPY_OK then s
  else
    let nonce := bytesLE 48 s.free
    let s := s.took
    let x := s.free % p384N
    let s := s.took
    let head := nonce ++ ecPublic x ++ [s.captain, 0, 0] ++ s.serialBytes ++ [0, 0, 0, 0]
    let buf := head ++ s.sign (sha384 head)
    let s := (s.took.putBytes (fun i => portReg p (SEC_SESS_BUF i)) buf)
    (s.modSec (fun r => { r with chal := some (p, head, x) })).showSess

/-- The request area. [log 23: DEDUCED] -/
def Chip.sessReq (s : Chip) : List Nat := s.areaBytes SEC_SESS_REQ 496

def sub (l : List Nat) (a n : Nat) : List Nat := (l.drop a).take n

/-- The owner slot that the request's owner key opens; the second part marks a first-owner session. -/
def Chip.ownerOf (s : Chip) (q : List Nat) : Option (Nat × Bool) :=
  let f := s.fuses s.captain
  let h := sha384 (sub q 0 97)
  if s.get SEC_STATUS_LIFECYCLE = 1 ∧ f.owners.all (· != 1) then some (0, true)
  else ((List.range 4).find? (fun k => f.owner k == 1 && tabGet (fun _ => []) f.hashes k == h)).map (fun k => (k, false))

/-- The first failure of R334 steps 3 to 5, 0 for none; `head` are challenge bytes 0 to 159. -/
def Chip.proveCause (s : Chip) (q head : List Nat) : Nat :=
  let own := sub q 0 97
  let plain := (sub q 97 203).all (· == 0)
  let op := if plain then own else sub q 97 97
  let scope := q.getD 194 0
  let scopeOk := scope == 0 || (scope == 1 && sub q 196 8 == s.serialBytes)
  let on := fun (k : List Nat) => match pointOf k with
    | some x => onCurve x
    | none => false
  if !plain && !(scopeOk && ecdsaOk own (sha384 (sub q 97 107)) (natLE (sub q 204 48)) (natLE (sub q 252 48))) then 3
  else if !(on own && on op && on (sub q 300 97)) then 4
  else if !ecdsaOk op (sha384 (head ++ sub q 0 400)) (natLE (sub q 400 48)) (natLE (sub q 448 48)) then 5
  else 0

def Chip.proveFail (s : Chip) (p c : Nat) : Chip :=
  (((s.sessCause p c).modSec (fun r => { r with chal := if (r.chal.map (·.1)) == some p then none else r.chal })).showSess).authFail

/-- PROVE through port `p` (R334). -/
def Chip.prove (s : Chip) (p : Nat) : Chip :=
  match s.sec.chal with
  | none => s.proveFail p 1
  | some (cp, head, x) =>
    if cp ≠ p then s.proveFail p 1
    else
      let q := s.sessReq
      match s.ownerOf q with
      | none => s.proveFail p 2
      | some (k, first) =>
        let c := s.proveCause q head
        if c ≠ 0 then s.proveFail p c
        else
          let z := ecdh x (sub q 300 97)
          -- the ASCII bytes BURTAN-SESSION-1
          let info := [66, 85, 82, 84, 65, 78, 45, 83, 69, 83, 83, 73, 79, 78, 45, 49] ++ s.serialBytes
          let okm := hkdfSha384 (sub head 0 48) z info 72
          let s := s.sessEnd endOther
          let s := s.modSec (fun r => { r with
            chal := none, sess := some (p, k, first, sha384 (sub q 0 97)), ctrlKey := sub okm 0 32,
            volKey := sub okm 32 32, seqLast := 0 })
          let s := (s.set SEC_SESS_ID_ID (natLE (sub okm 64 8))).seqAccept 0
          ((s.auditAdd 5 0 [p, k]).raise SEC_EVENTS_SESSION).showSess

/-- A write of SEC_SESS_CTRL with CLOSE = 0 acts at once (R337). -/
def Chip.sessCtrl (s : Chip) (p : Nat) (v : Word) : Chip :=
  if maskBit v.toNat 29 then s
  else
    let t := if maskBit v.toNat 31 then s.sessOpen p else s
    if maskBit v.toNat 30 then t.prove p else t

def execSessionOpen (p : Fin 2) (s : State) : Host.Outcome State Fault Refusal :=
  s.act fun c => c.sessCtrl p 0x80000000
def execSessionProve (p : Fin 2) (s : State) : Host.Outcome State Fault Refusal :=
  s.act fun c => c.sessCtrl p 0x40000000

/-- A committed CLOSE ends the session of port `p`. -/
def execSessionClose (p : Fin 2) (s : State) : Host.Outcome State Fault Refusal :=
  s.act fun c => if c.holdsSession p then c.sessEnd endClose else c

/-- A challenge not proved within 1 s. [log 5: DESIGN CHOICE] -/
def execChallengeLapse (s : State) : Host.Outcome State Fault Refusal :=
  s.act fun c => (c.modSec (fun r => { r with chal := none })).showSess

/-- No tagged item accepted for IDLE_S seconds. [log 5: DESIGN CHOICE] -/
def execSessionIdleTimeout (s : State) : Host.Outcome State Fault Refusal :=
  s.act fun c => c.sessEnd endIdle

/-- LOCKOUT_S seconds have passed. [log 5: DESIGN CHOICE] -/
def execLockoutEnd (s : State) : Host.Outcome State Fault Refusal :=
  s.act fun c => (c.modSec (fun r => { r with lockout := false })).showSess

/-! ### Held groups (R337, R338) -/

/-- A write with no session on its port is discarded (R337, Table 12.5). -/
def Chip.noSession (s : Chip) : Chip := (s.bump SEC_NOSESS_CNT_COUNT).raiseF3 SEC_EVENTS_NO_SESSION

/-- A write to a held register or to the library window (offset with bit 31 set) through port `p`. -/
def Chip.heldWrite (s : Chip) (p a : Nat) (v : Word) : Chip :=
  if !s.holdsSession p then s.noSession.libLost [(a, v)]
  else
    let l := s.heldOf p
    if 4096 ≤ l.length then ((s.heldDrop p).libLost [(a, v)]).awResult p 3 else s.setHeld p (l ++ [(a, v)])

/-- A held write of another width or alignment discards the group. -/
def Chip.heldBad (s : Chip) (p : Nat) : Chip :=
  if !s.holdsSession p then s.noSession else (s.heldDrop p).awResult p 4

/-- The message of a held group's tag. -/
def Chip.heldMessage (s : Chip) (p : Nat) : List Nat :=
  let l := s.heldOf p
  bytesLE 8 (s.get (onPort p SEC_AW_SEQ_SEQ)) ++ s.serialBytes ++ bytesLE 4 l.length
    ++ l.flatMap (fun w => bytesLE 4 w.1 ++ bytesLE 4 w.2.toNat)

def Chip.heldTag (s : Chip) (p : Nat) : List Nat :=
  (List.range 8).flatMap (fun i => bytesLE 4 (s.reg (portReg p (SEC_AW_TAG i))).toNat)

/-- Verification of a COMMIT of port `p`: none when it is refused (the state says why), else the writes. -/
def Chip.heldVerify (s : Chip) (p : Nat) : Chip × Option (List (Nat × Word)) :=
  if !s.holdsSession p then (((s.bump SEC_NOSESS_CNT_COUNT).raise SEC_EVENTS_NO_SESSION).awResult p 8, none)
  else
    let l := s.heldOf p
    let q := s.get (onPort p SEC_AW_SEQ_SEQ)
    if s.heldTag p != hmacSha256 s.sec.ctrlKey (s.heldMessage p) then (((s.heldDrop p).awResult p 1).authFail, none)
    else if q ≤ s.sec.seqLast then (((s.heldDrop p).awResult p 2).authFail, none)
    else (((s.setHeld p []).awResult p 0).seqAccept q, some l)

/-- DISCARD of the held group. -/
def Chip.heldDiscard (s : Chip) (p : Nat) : Chip := (s.heldDrop p).awResult p 5

/-- A first-owner session accepts this address. [log 24: DESIGN CHOICE] -/
def firstOwnerOk (a : Nat) : Bool := a == SEC_OWNER_CTRL || (decide (SEC_OWNER_HASH 0 ≤ a) && decide (a < SEC_OWNER_HASH 12))

/-! ### Keys (R340) -/

/-- The key in SEC_KEY_DATA. -/
def Chip.keyBytes (s : Chip) : List Nat := (List.range 8).flatMap (fun i => bytesLE 4 (tabGet (fun _ => 0) s.sec.keyData i))

/-- A write of SEC_KEY_DATA_i takes effect. -/
def Chip.keyDataWrite (s : Chip) (i : Nat) (v : Word) : Chip :=
  s.modSec (fun r => { r with keyData := tabPut (fun _ => 0) r.keyData i v.toNat })

/-- A write of SEC_PTP_KEY_CTRL takes effect: in force from the next boundary. -/
def Chip.ptpKeyWrite (s : Chip) (v : Word) : Chip :=
  let x := v.toNat
  let k := bitsOf x 24 3
  let e : PtpKey := if maskBit x 31 then ⟨true, x % 256, bitsOf x 16 8, s.keyBytes⟩ else {}
  (s.modSec (fun r => { r with keyDue := r.keyDue ++ [(k, e)] })).auditAdd 8 0 [k, x % 256, bitsOf x 16 8]

def execPtpKeyWrite (v : Word) (s : State) : Host.Outcome State Fault Refusal :=
  s.act fun c => c.ptpKeyWrite v

/-- A write of SEC_TEL_KEY_CTRL takes effect. -/
def Chip.telKeyWrite (s : Chip) (v : Word) : Chip :=
  let e : PtpKey := if maskBit v.toNat 31 then ⟨true, 0, 0, s.keyBytes⟩ else {}
  (s.modSec (fun r => { r with keyDue := r.keyDue ++ [(8, e)] })).auditAdd 8 0 [8]

def execTelKeyWrite (v : Word) (s : State) : Host.Outcome State Fault Refusal :=
  s.act fun c => c.telKeyWrite v

/-- Keys written in the tick before come into force, and go into the key store of every die in service. -/
def Chip.keyTick (s : Chip) : Chip :=
  if s.sec.keyDue.isEmpty then s
  else
    let s := s.each s.inServiceDies fun d t => t.modRet d (fun r => { r with
      keyBad := s.sec.keyDue.foldl (fun m k => maskClear m k.1) r.keyBad })
    (s.modSec (fun r => { r with
      ptpKeys := r.keyDue.foldl (fun t k => if k.1 < 8 then tabPut (fun _ => {}) t k.1 k.2 else t) r.ptpKeys
      telKey := r.keyDue.foldl (fun t k => if k.1 = 8 then k.2.key else t) r.telKey
      keyDue := [] })).showKeys

/-! ### Attestation (R341) -/

/-- At a start the keys come from the captain's key store: one whose record fails its HMAC is ignored (R340). -/
def Chip.keysBack (s : Chip) : Chip :=
  let m := (s.ret s.captain).keyBad
  (s.modSec (fun r => { r with
    ptpKeys := r.ptpKeys.filter (fun k => !maskBit m k.1), telKey := if maskBit m 8 then [] else r.telKey })).showKeys

/-- The package certificate (Table 12.1). [log 2: DESIGN CHOICE] -/
def Chip.certBytes (s : Chip) : List Nat :=
  [0x42, 0x54, 0x50, 0x43, 1, 0, s.dieCount, s.get PKG_ID_STEPPING] ++ s.serialBytes ++ List.replicate 8 0
    ++ (List.range 8).flatMap (fun k => if k < s.dieCount then ecPublic (Config.identityKey k) else List.replicate 97 0)
    ++ (List.range 144).map (fun i => Config.authorityByte i % 256)

/-- The identity public key that the certificate has for the die at site `d`. -/
def Chip.certKey (s : Chip) (d : Nat) : List Nat := (s.certBytes.drop (24 + 97 * d)).take 97

/-- The largest calibration age of item `k` over the dies in service. -/
def Chip.calAge (s : Chip) (k : Nat) : Nat := s.inServiceDies.foldl (fun m d => max m (s.get (CAL_ITEM_AGE_SEC d k))) 0

/-- Bytes 0 to 207 of the report (Table 12.6). -/
def Chip.attHead (s : Chip) : List Nat :=
  let f := s.fuses s.captain
  let ns := s.pkgNs
  [0x42, 0x54, 0x41, 0x52, 1, 0, s.captain, s.get SEC_STATUS_LIFECYCLE] ++ s.serialBytes
    ++ s.areaBytes SEC_ATT_NONCE 32 ++ s.areaBytes IMG_DIGEST 48 ++ bytesLE 4 (s.get IMG_VERSION_VERSION)
    ++ [s.get IMG_STATUS_SEC_VERSION, f.rollback, s.get SEC_OWNER_STATE_STATE, s.get PKG_DIES_IN_SERVICE]
    ++ bytesLE 8 s.tick ++ bytesLE 6 (ns / 1000000000) ++ bytesLE 4 (ns % 1000000000)
    ++ [s.get TIME_STATUS_VALID + 2 * s.get SEC_STATUS_DEBUG_LOCKED + 4 * s.get SEC_STATUS_HP1_EN, f.restep, f.disabled,
        s.get PKG_DIES_REJECTED, 0, 0]
    ++ (List.range 5).flatMap (fun k => bytesLE 4 (s.calAge k)) ++ bytesLE 4 (s.get SEC_LOG_HEAD_INDEX)
    ++ s.auditHash ++ List.replicate 8 0

/-- A write of SEC_ATT_CTRL. -/
def Chip.attGo (s : Chip) (v : Word) : Chip :=
  if maskBit v.toNat 31 ∧ !s.on SEC_ATT_STATUS_BUSY ∧ s.on SEC_STATUS_ENTROPY_OK then s.set SEC_ATT_STATUS_BUSY 1 else s

def execAttestGo (v : Word) (s : State) : Host.Outcome State Fault Refusal :=
  s.act fun c => c.attGo v

/-- The report is ready. -/
def Chip.attDone (s : Chip) : Chip :=
  if s.on SEC_ATT_STATUS_BUSY then
    let h := s.attHead
    let t := (s.putBytes SEC_ATT_REPORT (h ++ s.sign (sha384 h))).took
    (t.set SEC_ATT_STATUS_BUSY 0).set SEC_ATT_STATUS_DONE 1
  else s

def execAttestDone (t : Nat) (s : State) : Host.Outcome State Fault Refusal :=
  s.act fun c => (c.at t).attDone

/-! ### Audit log (R343, R344), entropy, debug -/

/-- A write of SEC_LOG_SEL: the entry is shown, or zero with GONE. -/
def Chip.logSelect (s : Chip) (v : Word) : Chip :=
  let t := s.set SEC_LOG_SEL_INDEX v.toNat
  match s.audit.find? (fun a => a.index == v.toNat) with
  | some a => (t.putBytes SEC_LOG_ENTRY a.bytes).set SEC_LOG_STATUS_GONE 0
  | none => (t.putBytes SEC_LOG_ENTRY (List.replicate 112 0)).set SEC_LOG_STATUS_GONE 1

def execLogSelect (v : Word) (s : State) : Host.Outcome State Fault Refusal :=
  s.act fun c => c.logSelect v

/-- The index of the first entry whose hash does not follow from its predecessor's. -/
def chainFail : List Nat → List Audit → Option Nat
  | _, [] => none
  | h, a :: r => if a.hash = sha384 (h ++ a.head) then chainFail a.hash r else some a.index

/-- The first entry of a log whose hash does not follow; the stored hash of the oldest one's predecessor is taken as given
(R344). -/
def Chip.logFail (s : Chip) (l : AuditLog) : Option Nat := chainFail (s.logBase l) l.entries

/-- Entry `i` of the log of die `d` is damaged. -/
def AuditLog.damaged (l : AuditLog) (i : Nat) : AuditLog :=
  { l with entries := l.entries.map (fun a => if a.index = i then { a with hash := a.hash.map (· + 1) } else a) }

/-- Die `d` takes the entries that its log lacks (R343). -/
def Chip.logCatchUp (s : Chip) (d : Nat) : Chip := s.setLog d ((s.log d).follow (s.log s.captain))

/-- Die `d` verifies its log (R344): a torn head is dropped, another failure is a broken chain; then it takes what it lacks.
`hit` is an entry that a power loss or wear has damaged. [log 25: DESIGN CHOICE] -/
def Chip.chainCheck (s : Chip) (d : Nat) (hit : Option Nat) : Chip :=
  let s := match hit with
    | some i => s.setLog d ((s.log d).damaged i)
    | none => s
  let l := s.log d
  match s.logFail l with
  | none => s.logCatchUp d
  | some i =>
    if (l.entries.getLast?.map (·.index)) = some i then
      ((s.setLog d { l with entries := l.entries.dropLast, next := i }).logCatchUp d).showHead
    else ((((s.auditFrom d 12 0 (bytesLE 4 i)).raise SEC_EVENTS_LOG_BROKEN).secF0 12).logCatchUp d)

/-- A die starts with the package, or rejoins it (R344, R357). -/
def execAuditChainCheck (d : Fin 8) (hit : Option Nat) (s : State) : Host.Outcome State Fault Refusal :=
  s.act fun c => if c.runs d ∧ (¬ c.started ∨ c.rejoining d) then c.chainCheck d hit else c

/-- The entropy source fails a health test (Table 12.5). -/
def execEntropyHealthFail (s : State) : Host.Outcome State Fault Refusal :=
  s.act fun c => (c.set SEC_STATUS_ENTROPY_OK 0).secF0 0

/-- A JTAG instruction; `plain` for IDCODE and BYPASS (R327). -/
def execDebugInstruction (plain : Bool) (s : State) : Host.Outcome State Fault Refusal :=
  s.act fun c => if c.on SEC_STATUS_DEBUG_LOCKED ∧ !plain then c.bump SEC_DEBUG_DENY_CNT_COUNT else c

end Sys2Proof.Machine
end

