-- ==== Sys2Proof/Machine/Start.lean ====
section
/-!
DEFINITION. Machine/Start.lean: supplies and reset, role negotiation, fuse levelling (spec/11_start_up_and_retained_state.md,
R290 to R296; spec/01_package_and_tick.md, R14 to R16; spec/12_security.md, R329).
-/

namespace Sys2Proof.Machine

/-! ### Reset (R290, R291) -/

/-- A snapshot whose write was cut short leaves its slot torn (R317, R319). [log 74: DESIGN CHOICE] -/
def RetRec.tear (r : RetRec) : RetRec :=
  if r.writing.isSome then
    { r with writing := none, slots := tabPut (fun _ => {}) r.slots ((r.last + 1) % 64) { torn := true } }
  else r

/-- What a reset keeps of the security engine: fuses, audit log and keys (R340, R343). -/
def SecRec.kept (r : SecRec) : SecRec :=
  { fuses := r.fuses, logs := r.logs, ptpKeys := r.ptpKeys, telKey := r.telKey }

/-- The identity and the fuses as registers show them. [log 7: DESIGN CHOICE] -/
def Chip.showIdentity (s : Chip) : Chip :=
  let s := s.showFuses.setB SEC_STATUS_HP1_EN (!(s.fuses s.captain).hp1Off)
  ((s.set PKG_ID_DIES s.dieCount).set IMG_PIN_SLOT (s.image.pin % 4)).set IMG_PIN_ONCE (s.image.pin / 4 % 2)

/-- Every die in reset: what fuses, stores, flash devices and supplies hold stays, everything else is at its
reset value. -/
def Chip.afterReset (s : Chip) : Chip :=
  let t : Chip := {
    dieCount := s.dieCount
    freeCnt := s.freeCnt
    dies := tabMap (fun _ => {}) (fun _ r => { railsLow := r.railsLow }) s.dies
    cals := tabMap (fun _ => {}) (fun _ r => { slots := r.slots }) s.cals
    image := {
      flash := s.image.flash, present := s.image.present, sizes := s.image.sizes
      pin := if (s.ret 0).headerBad && (s.ret 1).headerBad then 0 else s.image.pin }
    rets := tabMap (fun _ => {}) (fun _ r => { r.tear with back := [] }) s.rets
    sec := s.sec.kept
    hosts := tabMap (fun _ => {}) (fun _ r => { perst := r.perst }) s.hosts }
  t.showIdentity.showKeys.showHead

def execResetNAssert (s : State) : Host.Outcome State Fault Refusal :=
  s.act fun c => c.afterReset

/-- The neighbours of die `d` on the rings, each with the bit of CLK_XING_STATUS by which it knows die `d`. -/
def Chip.neighbours (s : Chip) (d : Nat) : List (Nat × Nat) :=
  if s.dieCount < 2 then [] else [((d + 1) % s.dieCount, 2), ((d + s.dieCount - 1) % s.dieCount, 3)]

/-- Die `d` goes into reset: its neighbours flush their crossings to it (R110). -/
def Chip.fabReset (s : Chip) (d : Nat) : Chip := s.each (s.neighbours d) fun x t => t.farReset x.1 x.2 0

/-- Die `d` is out of reset: its neighbours' crossings to it resynchronise, and its own see what is still in reset (R110). -/
def Chip.fabBack (s : Chip) (d : Nat) : Chip :=
  let s := s.each (s.neighbours d) fun x t =>
    let t := t.resync x.1 x.2
    if (t.die x.1).inReset then t.farReset d (5 - x.2) 0 else t
  if d < 2 ∧ (tabGet (fun _ => {}) s.hosts d).perst then s.farReset d 0 0 else s

/-- RESET_N released: dies whose rails are up leave reset and start (R296). -/
def Chip.release (s : Chip) : Chip :=
  if s.resetLow then
    let t := ({ s with resetLow := false } : Chip).each s.dieList fun d t =>
      t.modDie d (fun r => { r with inReset := decide (r.railsLow ≠ 0) })
    t.each (t.dieList.filter (fun d => !(t.die d).inReset)) fun d u => u.fabBack d
  else s

def execResetNRelease (s : State) : Host.Outcome State Fault Refusal :=
  s.act fun c => c.release

/-- The last word of the DIE status block, which the captain mirrors (R40). -/
def dieStatusEnd (d : Nat) : Nat := DIE_STATUS d + 0x20

/-- Everything that die `d` holds is lost, except what its retained store and fuses hold; `mirror` keeps the DIE
status block as the captain mirrors it.  The CH registers of a protected EFE's slots stay, with their staged values: they stand for
the CH mirror that the backup die holds (R355). [log 80: DESIGN CHOICE] -/
def Chip.wipeDie (s : Chip) (d : Nat) (mirror : Bool) : Chip :=
  let lo := d * 2 ^ 22
  let hi := (d + 1) * 2 ^ 22
  let block := (s.regs.filter (fun p => decide (DIE_STATUS d ≤ p.1) && decide (p.1 < dieStatusEnd d)))
  let mirrored := fun (a : Nat) =>
    decide (CH_CTRL d 0 ≤ a) && decide (a < CH_CTRL d 2048) && s.isProt d ((a - CH_CTRL d 0) / 0x8000)
  let t := s.clearDie d
  let t := (s.regs.filter (fun p => mirrored p.1)).foldl (fun t p => t.setReg p.1 p.2) t
  let t := (s.staged.filter (fun p => mirrored p.1)).foldl (fun t p => t.setStaged p.1 p.2) t
  let t := if mirror then block.foldl (fun t p => t.setReg p.1 p.2) t else t
  let backs := fun (c : Nat) => backupDie s.dieCount (chanDie c) (chanSlot c / 256) == d
  Chip.volWipe (d := d) { t with
    cals := tabMap (fun _ => {}) (fun k r => if k = d then { slots := r.slots } else r) t.cals
    slots := tabClear t.slots (d * 4096) ((d + 1) * 4096)
    ports := tabClear t.ports (d * 16) ((d + 1) * 16)
    winFifo := tabClear t.winFifo d (d + 1)
    frames := tabClear t.frames (d * 16) ((d + 1) * 16)
    down := tabClear t.down (d * 16) ((d + 1) * 16)
    repeatNext := tabClear t.repeatNext (d * 16) ((d + 1) * 16)
    lib := tabClear t.lib lo hi
    poison := tabClear t.poison lo hi
    libQueue := t.libQueue.filter (fun p => keyDie p.1 != d)
    libLive := tabClear t.libLive lo hi
    libStaged := tabClear t.libStaged lo hi
    libSince := t.libSince.filter (fun k => keyDie k != d)
    libWrote := t.libWrote.filter (fun k => keyDie k != d)
    trimBack := t.trimBack.filter (fun k => keyDie k != d)
    mirrorQueue := t.mirrorQueue.filter (fun p => keyDie p.1 != d)
    dirty := tabClear t.dirty lo hi
    trimNew := t.trimNew.filter (fun p => keyDie p.1 != d)
    loopRecs := t.loopRecs.filter (fun p => !backs p.1)
    standbyRecs := t.standbyRecs.filter (fun p => !backs p.1)
    rets := tabMap (fun _ => {}) (fun k r => if k = d then r.tear else r) t.rets }

/-- A rail of die `d` falls below its reset threshold: the die is in reset whatever RESET_N does (R290). -/
def Chip.railDown (s : Chip) (d r : Nat) : Chip :=
  let was := s.die d
  let t := if was.inReset then s else s.wipeDie d true
  let t := t.setDie d { railsLow := maskSet was.railsLow r, sidelineDue := was.sidelineDue }
  if was.inReset then t else t.fabReset d

def execRailBelowReset (d : Fin 8) (r : Fin 6) (s : State) : Host.Outcome State Fault Refusal :=
  s.act fun c => if d.val < c.dieCount then c.railDown d r else c

/-- The rail is back: the last of them ends the reset when RESET_N is high. -/
def Chip.railUp (s : Chip) (d r : Nat) : Chip :=
  let m := maskClear (s.die d).railsLow r
  let t := s.modDie d (fun x => { x with railsLow := m, inReset := x.inReset && (s.resetLow || m != 0) })
  if (s.die d).inReset ∧ !(t.die d).inReset then t.fabBack d else t

def execRailAboveReset (d : Fin 8) (r : Fin 6) (s : State) : Host.Outcome State Fault Refusal :=
  s.act fun c => if d.val < c.dieCount then c.railUp d r else c

/-! ### Role negotiation (R16) -/

/-- Roles, in PKG_ROLE and in each die's status. -/
def Chip.setRoles (s : Chip) (cap : Nat) (vice : Option Nat) : Chip :=
  let t := ((s.set PKG_ROLE_CAPTAIN cap).set PKG_ROLE_VICE (vice.getD 0)).setB PKG_ROLE_VICE_VALID vice.isSome
  t.each s.dieList fun d t => t.set (DIE_STATUS_ROLE d) (if d = cap then 1 else if vice = some d then 2 else 0)

/-- The package has a captain: negotiation is over and its die is neither rejected nor absent. -/
def Chip.hasCaptain (s : Chip) : Bool := s.on PKG_ROLE_NEG_DONE && decide (s.service s.captain ≤ svcIn)

def DieRec.rollOf (r : DieRec) (e : Nat) : Option Roll := tabGet (fun _ => none) r.rolls e

/-- The base clock of die `d` has been judged: the XO is stable, or the judge has timed out (R86). -/
def Chip.judged (s : Chip) (d : Nat) : Bool :=
  s.get (CLK_STATUS_JUDGE d) == judgeStable || s.get (CLK_STATUS_JUDGE d) == Machine.judgeTimeout

/-- The private identity key that the roll message of site `d` stands for (R325). -/
def Roll.identity (r : Roll) (d : Nat) : Nat := r.key.getD (Config.identityKey d)

/-- The message's die is bound: the certificate's key at site `d` equals its own identity key (R326). -/
def Chip.rollBound (s : Chip) (d : Nat) (r : Roll) : Bool :=
  match r.key with
  -- the certificate holds the public half of this very key
  | none => true
  | some x => ecPublic x == s.certKey d

/-- What a roll message carries: site, self-test result, lifecycle state and identity key hash (R15). [log 81: DESIGN CHOICE] -/
def Roll.bytes (r : Roll) (d : Nat) : List Nat :=
  [d, if r.selfTestOk then 1 else 0, r.lifecycle] ++ sha384 (ecPublic (r.identity d))

/-- Die `d` sends its roll message, signed with its identity key, when the XO has been judged stable or the judge has timed out
(R16, R325); the secret of the signature is a free value. [log 2: DESIGN CHOICE] -/
def Chip.negStart (s : Chip) (d : Nat) (ok : Bool) (key : Option Nat) : Chip :=
  if !(s.die d).inReset ∧ !(s.die d).negStarted ∧ s.judged d then
    let r : Roll := { selfTestOk := ok, lifecycle := (s.fuses d).lifecycle, key := key }
    let v := ecdsaSign (r.identity d) (s.free % p384N) (sha384 (r.bytes d))
    let r := { r with sig := bytesLE 48 v.1 ++ bytesLE 48 v.2 }
    s.took.modDie d (fun x => { x with negStarted := true, rolls := tabPut (fun _ => none) x.rolls d (some r) })
  else s

def execNegotiationStart (d : Fin 8) (selfTestOk : Bool) (key : Option Nat) (s : State) : Host.Outcome State Fault Refusal :=
  s.act fun c => if d.val < c.dieCount then c.negStart d selfTestOk key else c

/-- Die `d` has received the roll message of site `e` on both rings. [log 81: DESIGN CHOICE] -/
def Chip.rollMessage (s : Chip) (d e : Nat) : Chip :=
  if !(s.die d).inReset ∧ !(s.die d).negDone ∧ (s.die e).negStarted then
    s.modDie d (fun r => { r with rolls := tabPut (fun _ => none) r.rolls e ((s.die e).rollOf e) })
  else s

def execRollMessage (d e : Fin 8) (s : State) : Host.Outcome State Fault Refusal :=
  s.act fun c => if d.val < c.dieCount ∧ e.val < c.dieCount then c.rollMessage d e else c

/-- The die-disable masks of every die that die `d` has heard. [log 112: DESIGN CHOICE] -/
def Chip.disabledSeen (s : Chip) (d : Nat) : Nat :=
  (s.dieList.filter (fun e => ((s.die d).rollOf e).isSome)).foldl (fun m e => m ||| (s.fuses e).disabled) 0

/-- The outcome for die `e` as die `d` sees it: a service code.  A die that is silent is absent, whether or not its bit is set
in a die-disable mask. [log 30: DESIGN CHOICE; 95: DESIGN CHOICE] -/
def Chip.verdict (s : Chip) (d e : Nat) : Nat :=
  match (s.die d).rollOf e with
  | none => svcAbsent
  | some r => if r.selfTestOk && s.rollBound e r && !maskBit (s.disabledSeen d) e then svcStarting else svcRejected

/-- The captain and the vice-captain as die `d` sees them. [log 30: DESIGN CHOICE] -/
def Chip.rolesSeen (s : Chip) (d : Nat) : Option Nat × Option Nat :=
  if s.verdict d 0 = svcStarting then (some 0, if s.verdict d 1 = svcStarting then some 1 else none)
  else if s.verdict d 1 = svcStarting then (some 1, none)
  else (none, none)

/-- The outcome of die `d`'s negotiation becomes the package's. [log 30: DESIGN CHOICE] -/
def Chip.settleRoles (s : Chip) (d : Nat) : Chip :=
  let heard := s.dieList.filter (fun e => ((s.die d).rollOf e).isSome)
  let rej := s.dieList.filter (fun e => s.verdict d e == svcRejected)
  let unbound := rej.filter (fun e => (((s.die d).rollOf e).map (fun r => !s.rollBound e r)).getD false)
  let t := s.each s.dieList fun e t => t.setService e (s.verdict d e)
  let t := (t.set PKG_DIES_POPULATED (heard.foldl maskSet 0)).set PKG_DIES_REJECTED (rej.foldl maskSet 0)
  let t := t.set PKG_SITE_MAP_SITE ((heard.map (fun e => (8 + e) * 16 ^ e)).sum)
  let t := t.set PKG_ROLE_NEG_DONE 1
  match s.rolesSeen d with
  | (some c, v) =>
    let t := (t.setRoles c v).showFuses.keysBack.showHead
    t.each unbound fun e t => t.auditAdd 11 0 [e]
  | (none, _) => t

/-- The die at site `e` may still end its negotiation, whether or not it has begun it. -/
def Chip.negOpen (s : Chip) (e : Nat) : Bool := !(s.die e).negDone && !(s.die e).inReset

/-- Negotiation ends for die `d`: every message has arrived, or 1 ms has passed since its start.  The package takes the outcome
of the die that finds itself captain; where neither site 0 nor site 1 may do so any more, it has no captain.
[log 30: DESIGN CHOICE] -/
def Chip.negEnd (s : Chip) (d : Nat) : Chip :=
  if (s.die d).negStarted ∧ !(s.die d).negDone then
    let t := s.modDie d (fun r => { r with negDone := true })
    let cap := (s.rolesSeen d).1
    if (cap = some d ∧ !s.hasCaptain) ∨ (cap = none ∧ !s.on PKG_ROLE_NEG_DONE ∧ !t.negOpen 0 ∧ !t.negOpen 1) then t.settleRoles d
    else t
  else s

def execNegotiationEnd (d : Fin 8) (s : State) : Host.Outcome State Fault Refusal :=
  s.act fun c => if d.val < c.dieCount then c.negEnd d else c

/-! ### Fuse levelling (R329, R16) -/

/-- The dies are brought level; a rejected captain gives its role to the vice-captain, a rejected vice-captain
leaves the package without one. -/
def Chip.levelDies (s : Chip) (bad fail : Nat) : Chip :=
  let t := s.fuseLevel bad fail
  let alive := fun (d : Nat) => decide (t.service d ≤ svcIn)
  let t := if alive s.captain then (if s.hasVice ∧ !alive s.vice then t.setRoles s.captain none else t)
    else if s.hasVice ∧ alive s.vice then t.setRoles s.vice none else t
  t.showFuses

def execFuseLevelling (found : FuseCheck) (s : State) : Host.Outcome State Fault Refusal :=
  s.act fun c => if c.hasCaptain ∧ !c.started ∧ c.get IMG_STATUS_STATE = 0 ∧ c.image.slot = none then
    c.levelDies found.bad.toNat found.behind.toNat else c

end Sys2Proof.Machine
end

