-- ==== Sys2Proof/Machine/Eloalet.lean ====
section
/-!
DEFINITION. Machine/Eloalet.lean: what an image in flash says: header, section table, sections, signature, and the
rules that refuse it (spec/11_start_up_and_retained_state.md, R301 to R307, R312, R313).
-/

namespace Sys2Proof.Machine

/-! ### Bytes in flash (R302) -/

/-- Byte `b` of a flash slot: 0xFF where nothing is programmed (notes/assumptions/8.md). [log 8: DESIGN CHOICE] -/
def Chip.flashByte (s : Chip) (slot b : Nat) : Nat := tabGet (fun _ => 255) s.image.flash (slot * 2 ^ 28 + b)

/-- Image byte `o`: block o / 4,092, byte o mod 4,092. -/
def Chip.imgByte (s : Chip) (slot o : Nat) : Nat := s.flashByte slot (o / 4092 * 4096 + o % 4092)

def Chip.imgBytes (s : Chip) (slot o n : Nat) : List Nat := (List.range n).map (fun i => s.imgByte slot (o + i))

/-- The number at image byte `o`, `n` bytes, least significant first. -/
def Chip.imgNat (s : Chip) (slot o n : Nat) : Nat := natLE (s.imgBytes slot o n)

/-- The CRC-32C of block `b` as it reads from flash. -/
def Chip.blockCrcOk (s : Chip) (slot b : Nat) : Bool :=
  let l := (List.range 4096).map (fun i => s.flashByte slot (b * 4096 + i))
  crc32c (l.take 4092) == natLE (l.drop 4092)

/-! ### Header and section table (R303 to R305) -/

def Chip.imgVersion (s : Chip) (slot : Nat) : Nat := s.imgNat slot 8 4
def Chip.imgSecVersion (s : Chip) (slot : Nat) : Nat := s.imgByte slot 12
def Chip.imgKeySlot (s : Chip) (slot : Nat) : Nat := s.imgByte slot 13
def Chip.imgLen (s : Chip) (slot : Nat) : Nat := s.imgNat slot 16 8
def Chip.imgDigest (s : Chip) (slot : Nat) : List Nat := sha384 (s.imgBytes slot 0 (s.imgLen slot))
def Chip.imgBlocks (s : Chip) (slot : Nat) : Nat := ceilDiv (s.imgLen slot + 256) 4092

/-- MAGIC, FORMAT, HDR_LEN and HDR_CRC are correct. -/
def Chip.headerOk (s : Chip) (slot : Nat) : Bool :=
  s.imgBytes slot 0 4 == [0x45, 0x4C, 0x4F, 0x41] && s.imgNat slot 4 2 == 1 && s.imgNat slot 6 2 == 256
    && crc32c (s.imgBytes slot 0 252) == s.imgNat slot 252 4

/-- Why a header makes its slot no candidate (R308): 1 HEADER, 2 VARIANT, 3 KEY, 4 ROLLBACK; 0 for a candidate. [log 67: DEDUCED] -/
def Chip.headerCause (s : Chip) (slot : Nat) : Nat :=
  let f := s.fuses s.captain
  if !s.headerOk slot then 1
  else if !maskBit (s.imgByte slot 14) (s.dieCount / 2 - 1) then 2
  else if f.owner (s.imgKeySlot slot) ≠ 1 ∨ 4 ≤ s.imgKeySlot slot then 3
  else if s.imgSecVersion slot < f.rollback then 4
  else 0

def Chip.sectOff (s : Chip) (slot : Nat) : Nat := s.imgNat slot 24 4
def Chip.sectCount (s : Chip) (slot : Nat) : Nat := s.imgNat slot 28 2

/-- The section table. -/
def Chip.sectionsOf (s : Chip) (slot : Nat) : List Section :=
  (List.range (s.sectCount slot)).map fun i =>
    let o := s.sectOff slot + 32 * i
    { type := s.imgNat slot o 2, die := s.imgByte slot (o + 2), flags := s.imgByte slot (o + 3)
      param := s.imgNat slot (o + 4) 4, offset := s.imgNat slot (o + 8) 8, length := s.imgNat slot (o + 16) 8 }

abbrev sectPkg : Nat := 1
abbrev sectReg : Nat := 2
abbrev sectLib : Nat := 3
abbrev sectMap : Nat := 4
abbrev sectSched : Nat := 5

/-- Lengths of the standing volleys that a SCHED section holds one after the other, from image byte `o` on: the
bytes that `n` volleys take. -/
def Chip.volleyBytes (s : Chip) (slot : Nat) : Nat → Nat → Nat
  | 0, _ => 0
  | n + 1, o =>
    let l := 8 + 4 * s.imgNat slot (o + 6) 2
    l + s.volleyBytes slot n (o + l)

/-- A section's own shape (Table 11.6); an unknown one is skipped unless it is CRITICAL. [log 67: DEDUCED] -/
def Chip.sectionOk (s : Chip) (slot : Nat) (x : Section) : Bool :=
  if x.type = sectPkg then x.die == 255 && x.param == 0 && x.length == 48
  else if x.type = sectReg then x.die == 255 && x.length % 8 == 0
  else if x.type = sectLib then decide (x.die < s.dieCount) && x.length % 8192 == 0 && decide (x.param + x.length / 8192 ≤ 2048)
  else if x.type = sectMap then decide (x.die < s.dieCount) && decide (x.param < 8) && x.length == 512
  else if x.type = sectSched then x.die == 255 && decide (x.param ≤ 256) && s.volleyBytes slot x.param x.offset == x.length
  else !maskBit x.flags 0

/-- Ranges in ascending order do not overlap, lie below `top`, and what lies between them, from `o` on, is zero. -/
def Chip.gapsZero (s : Chip) (slot top : Nat) : Nat → List (Nat × Nat) → Bool
  | o, [] => (List.range (top - o)).all (fun i => s.imgByte slot (o + i) == 0)
  | o, (a, n) :: r => decide (o ≤ a) && decide (a + n ≤ top)
      && (List.range (a - o)).all (fun i => s.imgByte slot (o + i) == 0) && s.gapsZero slot top (a + n) r

/-- R304 and R305 hold. [log 67: DEDUCED] -/
def Chip.layoutOk (s : Chip) (slot : Nat) : Bool :=
  let n := s.sectCount slot
  let l := s.sectionsOf slot
  let rs := ((s.sectOff slot, 32 * n) :: (l.filter (fun x => x.length != 0)).map (fun x => (x.offset, x.length)))
  decide (1 ≤ n) && decide (n ≤ 1024) && s.sectOff slot % 32 == 0
    && s.gapsZero slot (s.imgLen slot) 256 (rs.mergeSort (fun a b => decide (a.1 ≤ b.1)))
    && l.all (s.sectionOk slot)
    && (l.filter (fun x => x.type == sectPkg)).length == 1 && decide ((l.filter (fun x => x.type == sectSched)).length ≤ 1)

/-- The first place where ranges overlap or lie outside the image, or where a byte between them is not zero. -/
def Chip.gapAt (s : Chip) (slot top : Nat) : Nat → List (Nat × Nat) → Option Nat
  | o, [] => ((List.range (top - o)).find? (fun i => s.imgByte slot (o + i) != 0)).map (o + ·)
  | o, (a, n) :: r =>
    if a < o then some a
    else match (List.range (a - o)).find? (fun i => s.imgByte slot (o + i) != 0) with
      | some i => some (o + i)
      | none => if top < a + n then some a else s.gapAt slot top (a + n) r

/-- Where an image breaks R304 or R305, as IMG_FAIL.SECTION and IMG_FAIL_ADDR show it: the lowest image byte offset, of a header
field, a section table entry, a section or a byte between them; section 0x3FF where no section is at fault. [log 67: DEDUCED] -/
def Chip.layoutAt (s : Chip) (slot : Nat) : Nat × Nat :=
  let n := s.sectCount slot
  let o := s.sectOff slot
  if o % 32 ≠ 0 then (0x3FF, 24)
  else if n = 0 ∨ 1024 < n then (0x3FF, 28)
  else
    let l := (List.range n).zip (s.sectionsOf slot)
    let again := fun (t : Nat) => ((l.filter (fun x => x.2.type == t)).drop 1).map (fun x => (x.1, o + 32 * x.1))
    let shape := (l.filter (fun x => !s.sectionOk slot x.2)).map (fun x => (x.1, o + 32 * x.1))
    let full := l.filter (fun x => x.2.length != 0)
    let rs := ((o, 32 * n) :: full.map (fun x => (x.2.offset, x.2.length))).mergeSort (fun a b => decide (a.1 ≤ b.1))
    let gap := match s.gapAt slot (s.imgLen slot) 256 rs with
      | some a => [(((full.find? (fun x => x.2.offset == a)).map (·.1)).getD 0x3FF, a)]
      | none => []
    (shape ++ again sectPkg ++ again sectSched ++ gap).foldl (fun b x => if x.2 < b.2 ∨ b.2 = 0 then x else b)
      (if l.any (fun x => x.2.type == sectPkg) then (0x3FF, 0) else (0x3FF, o))

/-- The signature block's key is that of KEY_SLOT (R331). -/
def Chip.imgKeyOk (s : Chip) (slot : Nat) : Bool :=
  sha384 (s.imgBytes slot (s.imgLen slot) 97) == tabGet (fun _ => []) (s.fuses s.captain).hashes (s.imgKeySlot slot)

/-- The signature verifies over the image digest (R307). -/
def Chip.imgSigned (s : Chip) (slot : Nat) : Bool :=
  let o := s.imgLen slot
  ecdsaOk (s.imgBytes slot o 97) (s.imgDigest slot) (s.imgNat slot (o + 97) 48) (s.imgNat slot (o + 145) 48)

/-! ### The values of an image, in image byte order (R306, Tables 11.6, 11.7) -/

/-- One value: a register record; a PKG field (0 PERIOD, 1 and 2 TICK_ORIGIN, 3 SCHED_PERIOD, 4 SCHED_ANCHOR, 5 + d the
protection mask of die d, 13 flags, 14 RET_CFG.PERIOD); a mirror map state; a library entry; a standing volley's
offset and modes; one of its entries. -/
inductive ImgItem where
  | reg (a v : Nat)
  | pkg (f v : Nat)
  | map (d e m q : Nat)
  | lib (d sl q v : Nat)
  | vol (offset integ hop : Nat)
  | entry (e : Nat)
  deriving DecidableEq, Repr

structure ImgVal where
  off : Nat
  sect : Nat
  item : ImgItem
  deriving DecidableEq, Repr

/-- The values of standing volleys from image byte `o` on. -/
def Chip.schedVals (s : Chip) (slot i : Nat) : Nat → Nat → List ImgVal
  | 0, _ => []
  | n + 1, o =>
    let k := s.imgNat slot (o + 6) 2
    ⟨o, i, .vol (s.imgNat slot o 4) (s.imgByte slot (o + 4)) (s.imgByte slot (o + 5))⟩
      :: (List.range k).map (fun j => ⟨o + 8 + 4 * j, i, .entry (s.imgNat slot (o + 8 + 4 * j) 4)⟩)
      ++ s.schedVals slot i n (o + 8 + 4 * k)

/-- The values of section `x`, the `i`-th of the table. -/
def Chip.sectionVals (s : Chip) (slot i : Nat) (x : Section) : List ImgVal :=
  let o := x.offset
  if x.type = sectPkg then
    [⟨o, i, .pkg 0 (s.imgByte slot o)⟩, ⟨o + 4, i, .pkg 1 (s.imgNat slot (o + 4) 6)⟩,
     ⟨o + 12, i, .pkg 2 (s.imgNat slot (o + 12) 4)⟩, ⟨o + 16, i, .pkg 3 (s.imgNat slot (o + 16) 4)⟩,
     ⟨o + 24, i, .pkg 4 (s.imgNat slot (o + 24) 8)⟩]
      ++ (List.range 8).map (fun d => ⟨o + 32 + d, i, .pkg (5 + d) (s.imgByte slot (o + 32 + d))⟩)
      ++ [⟨o + 40, i, .pkg 13 (s.imgByte slot (o + 40))⟩, ⟨o + 42, i, .pkg 14 (s.imgNat slot (o + 42) 2)⟩]
  else if x.type = sectReg then
    (List.range (x.length / 8)).map fun j => ⟨o + 8 * j, i, .reg (s.imgNat slot (o + 8 * j) 4) (s.imgNat slot (o + 8 * j + 4) 4)⟩
  else if x.type = sectLib then
    (List.range (x.length / 8)).map fun j =>
      ⟨o + 8 * j, i, .lib x.die (x.param + j / 1024) (j % 1024) (s.imgNat slot (o + 8 * j) 8)⟩
  else if x.type = sectMap then
    (List.range 256).map fun m => ⟨o + 2 * m, i, .map x.die x.param m (s.imgNat slot (o + 2 * m) 2)⟩
  else if x.type = sectSched then s.schedVals slot i x.param o
  else []

/-- Every value of the image, in image byte order. -/
def Chip.imgVals (s : Chip) (slot : Nat) : List ImgVal :=
  let l := s.sectionsOf slot
  (((List.range l.length).zip l).mergeSort (fun a b => decide (a.2.offset ≤ b.2.offset))).flatMap
    (fun x => s.sectionVals slot x.1 x.2)

/-- The bits of a register that a record sets: fields of type RW or RWT. -/
def recMask (a : Nat) : Nat := match findReg a with
  | some r => r.rw ||| r.rwt
  | none => 0

/-- A record's value in its register. -/
def Chip.recPut (s : Chip) (a v : Nat) : Chip :=
  let m := BitVec.ofNat 32 (recMask a)
  (s.setReg a ((s.reg a &&& ~~~m) ||| (BitVec.ofNat 32 v &&& m))).setShadow a none

/-- The offset within a die block belongs to the kick profiles, which are package-wide (R168). [log 51: DESIGN CHOICE] -/
def isKick (a : Nat) : Bool := decide (0x1000000 ≤ a) && decide (0x80000 ≤ relOf a) && decide (relOf a < 0x81000)

/-- A value takes its place among the settings, the library apart. [log 51: DESIGN CHOICE] -/
def Chip.imgPut (s : Chip) (x : ImgItem) : Chip :=
  match x with
  | .reg a v => if isKick a then s.each s.dieList (fun d t => t.recPut (dieBase d + relOf a) v) else s.recPut a v
  | .pkg f v =>
    if f = 0 then s.set PKG_TICK_CFG_PERIOD v
    else if f = 1 then s.set PKG_ORIGIN_SEC_SEC v
    else if f = 2 then s.set PKG_ORIGIN_NS_NS v
    else if f = 3 then s.set SCHED_PERIOD_TICKS v
    else if f = 4 then s.set SCHED_ANCHOR_G v
    else if f < 13 then { s with protMask := putBits s.protMask (8 * (f - 5)) 8 v }
    else if f = 13 then ((s.set HOST_PCIE_CFG_ECRC v).set RET_CFG_EN (v / 2)).set RET_CFG_RESTORE (v / 4)
    else s.set RET_CFG_PERIOD v
  | .map d e m q => s.set (LIB_MAP_STATE d e m) q
  | .lib _ _ _ _ => s
  | .vol o i h => s.modSched (fun r => { r with vols := r.vols ++ [⟨o, i, h, []⟩] })
  | .entry e =>
    let last := (s.sched.vols.drop (s.sched.vols.length - 1)).map (fun v => { v with entries := v.entries ++ [e] })
    s.modSched (fun r => { r with vols := r.vols.dropLast ++ last })

/-- The reset values with the first values of a list applied. -/
def imgState (n : Nat) (l : List ImgVal) : Chip := l.foldl (fun t v => t.imgPut v.item) { dieCount := n }

/-! ### What refuses an image (R306, R313) -/

/-- A register record that no image may hold (R306). -/
def recBad (n a v : Nat) : Bool :=
  let inRange := fun lo hi => decide (lo ≤ a) && decide (a < hi)
  a % 4 != 0 || decide (0x1000000 + n * 0x400000 ≤ a) || inRange 0x40000 0x60000 || inRange 0x61000 0x63000
    || inRange 0x80400 0x80800 || inRange 0x88000 0x90000
    || match findReg a with
      | none => true
      | some r => (r.rw ||| r.rwt) == 0
        || ((v ^^^ (resetOf a).toNat) &&& ((2 ^ 32 - 1) ^^^ (r.rw ||| r.rwt ||| r.w1c ||| r.wo ||| r.rwl ||| r.rwa))) != 0

/-- A value that is refused whatever the others are. [log 69: DESIGN CHOICE] -/
def ImgItem.bad (n : Nat) : ImgItem → Bool
  | .reg a v => recBad n a v
  | .pkg f v => (f == 0 && decide (7 < v)) || (f == 2 && decide (999999999 < v))
      || (f == 14 && (v == 0 || decide (600 < v)))
  | .map _ _ _ q => decide (1023 < q)
  | .lib _ _ q v => q == 0 && !entPark v
  | .vol _ i h => decide (2 < i) || decide (1 < h)
  | .entry e => decide (n * 2048 ≤ veChannel e) || maskBit e 31 || veHop e == 3

/-- The die that checks a value. -/
def ImgItem.die (n cap : Nat) : ImgItem → Nat
  | .reg a _ => if 0x1000000 ≤ a ∧ dieOf a < n then dieOf a else cap
  | .map d _ _ _ => d
  | .lib d _ _ _ => d
  | _ => cap

/-- The first library slot that two sections of die `d` cover: the value with which the second begins to cover it. -/
def libTwice (d : Nat) : List (Nat × Nat) → List ImgVal → Option ImgVal
  | _, [] => none
  | seen, v :: r =>
    match v.item with
    | .lib e sl _ _ =>
      if e = d then
        if seen.any (fun p => p.1 == sl && p.2 != v.sect) then some v else libTwice d ((sl, v.sect) :: seen.filter (·.1 != sl)) r
      else libTwice d seen r
    | _ => libTwice d seen r

/-- The enabled slots of EFE `e` of die `d`. -/
def Chip.onSlots (s : Chip) (d e : Nat) : Nat := ((List.range 256).filter (fun p => s.on (CH_CTRL_EN d (e * 256 + p)))).length

def efes8 : List Nat := List.range 8

/-- R27 on die `d`, its covering load after the loss of any one die included. -/
def Chip.capOk (s : Chip) (d : Nat) : Bool :=
  let lim := if s.get PKG_TICK_CFG_PERIOD = 0 then 1280 else 2560
  let own := (efes8.map (s.onSlots d)).sum
  (s.get PKG_TICK_CFG_PERIOD != 0 || efes8.all (fun e => decide (s.onSlots d e ≤ 128)))
    && (s.dieList.filter (· != d)).all (fun h => decide (own + ((efes8.filter (fun e =>
        s.isProt h e && backupDie s.dieCount h e == d)).map (s.onSlots h)).sum ≤ lim))

/-- The mirror map of backup port `e` of die `b` meets R159. -/
def Chip.mapOk (s : Chip) (b e : Nat) : Bool :=
  let h := homeOf s.dieCount b e
  let qs := (List.range 256).map (fun m => s.get (LIB_MAP_STATE b e m))
  !s.isProt h e || (qs.headD 1 == 0 && noRepeat qs && s.sched.vols.all (fun v => v.entries.all (fun x =>
    veChannel x / 256 != h * 8 + e || qs.contains (veState x))))

/-- Schedule entries that die `d` would store (R193). -/
def Chip.storeCount (s : Chip) (d : Nat) : Nat :=
  (s.sched.vols.map (fun v => (v.entries.filter (fun x =>
    let c := veChannel x
    chanDie c == d || (s.isProt (chanDie c) (c % 2048 / 256) && backupDie s.dieCount (chanDie c) (c % 2048 / 256) == d))).length)).sum

/-- R3 and R19: at most two protected EFEs of a home die on one backup die; no bit of a die that is not there. [log 69: DESIGN
CHOICE] -/
def Chip.protOk (s : Chip) : Bool :=
  decide (s.protMask < 2 ^ (8 * s.dieCount)) && s.dieList.all (fun h => s.dieList.all (fun b =>
    decide ((efes8.filter (fun e => s.isProt h e && backupDie s.dieCount h e == b)).length ≤ 2)))

/-- R192 on the standing volleys together. -/
def Chip.volleysOk (s : Chip) : Bool :=
  s.sched.vols.all (fun v => decide (v.offset < s.get SCHED_PERIOD_TICKS) && noRepeat (v.entries.map veChannel))
    && noRepeat (s.sched.vols.map (·.offset))

/-- The bands of port `p` of die `d` that hold anything but zero: monitor input and value. -/
def Chip.bandsOf (s : Chip) (d p : Nat) : List (Nat × Word) :=
  (s.regs.filter (fun q => decide (EFE_WIN d p 0 ≤ q.1) && decide (q.1 < EFE_WIN d p 256))).map
    (fun q => ((q.1 - EFE_WIN d p 0) / 4, q.2))

/-- R268, R261: a backup port has the WIDTH and DELAY of its EFE's primary port, and the same bands. -/
def Chip.dualOk (s : Chip) (b e : Nat) : Bool :=
  let h := homeOf s.dieCount b e
  s.get (ELINK_CTRL_WIDTH b (8 + e)) == s.get (ELINK_CTRL_WIDTH h e)
    && s.get (ELINK_CTRL_DELAY b (8 + e)) == s.get (ELINK_CTRL_DELAY h e) && s.bandsOf b (8 + e) == s.bandsOf h e

/-- The rules that die `d` checks over values that hold together: cause and rule.  `ts` are the addresses that the
image's records write. [log 68: DEDUCED; 69: DESIGN CHOICE] -/
def imgRules (d cap : Nat) (ts : List Nat) : List (Nat × (Chip → Bool)) :=
  let hit := fun lo hi => ts.any (fun a => decide (lo ≤ a) && decide (a < hi))
  let sls := ((ts.filter (fun a => decide (CH_CTRL d 0 ≤ a) && decide (a < CH_CTRL d 2048))).map
    (fun a => (a - CH_CTRL d 0) / 0x80)).eraseDups
  (if hit (synLo d) (synBandLo d) then [(8, fun c => synValid c.get c.tickNs d)] else [])
    ++ (if hit (synBandLo d) (synBandHi d) then [(8, fun c => bandsValid c.get d)] else [])
    ++ (if hit (CLK_FAIL_POLICY d) (CLK_FAIL_POLICY d + 4) then [(8, fun c => decide (c.get (CLK_FAIL_POLICY_POLICY d) < 2))] else [])
    ++ (outputs.filter (fun k => hit (CKO_CFG d k) (CKO_CFG d k + 16))).map (fun k => (8, fun c => ckoValid c.get c.tickNs d k))
    ++ sls.flatMap (fun sl => [(8, fun c => loopValid c.get d sl), (8, fun c => c.planOk c.get (fun _ => true) d sl),
        (8, fun c => !c.on (CH_CTRL_EN d sl) || decide (sl % 256 < widthPos (c.get (ELINK_CTRL_WIDTH d (sl / 256)))))])
    ++ (if ts.any isKick then [(8, fun c => (List.range 64).all (fun p => decide (c.get (KICK_CFG_LEN d p) ≤ 16)))] else [])
    ++ [(8, fun c => c.capOk d), (8, fun c => decide (c.storeCount d ≤ 786432))]
    ++ efes8.flatMap (fun e => [(8, fun c => c.mapOk d e), (8, fun c => c.dualOk d e)])
    ++ (if d = cap then (ts.filter (· < 0x1000000)).eraseDups.map (fun a => (8, fun c => c.regOk a (c.reg a).toNat))
          ++ [(9, fun c => c.protOk), (8, fun c => c.volleysOk)]
        else [])

/-- The first prefix, of one value or more, with which a rule fails: its length. [log 68: DEDUCED] -/
def firstFail (n : Nat) (l : List ImgVal) (f : Chip → Bool) : Option Nat :=
  ((List.range l.length).map (· + 1)).find? (fun i => !f (imgState n (l.take i)))

/-- The earlier of two refusals (position among the values, cause). -/
def earlier (a b : Option (Nat × Nat)) : Option (Nat × Nat) :=
  match a, b with
  | some x, some y => if y.1 < x.1 then some y else some x
  | some x, none => some x
  | none, y => y

/-- Why die `d` refuses a list of values: cause, section, address as IMG_FAIL_ADDR shows it (R313). [log 68: DEDUCED] -/
def contentFault (n d cap : Nat) (l : List ImgVal) : Option (Nat × Nat × Nat) :=
  let ts := l.filterMap (fun v => match v.item with
    | .reg a _ => some a
    | _ => none)
  let u := imgState n l
  let mine := (List.range l.length).find? (fun i => match l[i]? with
    | some v => v.item.die n cap == d && v.item.bad n
    | none => false)
  let twice := match libTwice d [] l with
    | some v => (List.range l.length).find? (fun i => match l[i]? with
      | some (w : ImgVal) => w.off == v.off
      | none => false)
    | none => none
  let rules := (imgRules d cap ts).filter (fun r => !r.2 u)
  let best := rules.foldl (fun b r => earlier b (some ((firstFail n l r.2).getD 1 - 1, r.1)))
    (earlier (mine.map (fun i => (i, 8))) (twice.map (fun i => (i, 8))))
  match best with
  | none => none
  | some (i, c) => match l[i]? with
    | some v => some (c, v.sect, match v.item with
      | .reg a _ => a
      | _ => v.off)
    | none => some (c, 0x3FF, 0)

end Sys2Proof.Machine
end

