-- ==== Sys2Proof/Machine/Image.lean ====
section
/-!
DEFINITION. Machine/Image.lean: choosing a slot, streaming, checking and loading an image; programming the flash
devices (spec/11_start_up_and_retained_state.md, R306 to R314, R324; R331).
-/

namespace Sys2Proof.Machine

def Chip.modImage (s : Chip) (f : ImageRec → ImageRec) : Chip := { s with image := f s.image }

abbrev imgHeaders : Nat := 0
abbrev imgLoading : Nat := 1
abbrev imgChecking : Nat := 2
abbrev imgLoaded : Nat := 3
abbrev imgNone : Nat := 4

def Chip.imgSt (s : Chip) : Nat := s.get IMG_STATUS_STATE

/-- State and cause of a slot in IMG_SLOTS. [log 71: DESIGN CHOICE] -/
def Chip.slotShow (s : Chip) (slot st cause : Nat) : Chip :=
  if slot = 0 then (s.set IMG_SLOTS_A_STATE st).set IMG_SLOTS_A_CAUSE cause
  else (s.set IMG_SLOTS_B_STATE st).set IMG_SLOTS_B_CAUSE cause

/-- A slot is refused (R313): status, place, event; KEY, ROLLBACK and SIGNATURE are recorded (R331). `dig` is the
digest when one was computed. -/
def Chip.slotRefuse (s : Chip) (slot cause die sect addr : Nat) (dig : List Nat) : Chip :=
  let t := (((s.slotShow slot 3 cause).set IMG_STATUS_CAUSE cause).set IMG_FAIL_VALID 1).set IMG_FAIL_SLOT slot
  let t := (((t.set IMG_FAIL_DIE die).set IMG_FAIL_SECTION sect).set IMG_FAIL_ADDR_ADDR addr).raise IMG_EVENTS_REFUSED
  if cause = 3 ∨ cause = 4 ∨ cause = 7 then
    (t.auditAdd 4 2 (slot :: cause :: dig.take 32)).raise SEC_EVENTS_IMAGE_REFUSED
  else t

/-- No slot loads: the dies stay in STARTING (R313). -/
def Chip.noImage (s : Chip) : Chip :=
  ((s.set IMG_STATUS_STATE imgNone).raise IMG_EVENTS_NO_IMAGE).modImage (fun r => { r with slot := none })

/-- The load of a slot begins. -/
def Chip.loadSlot (s : Chip) (slot : Nat) : Chip :=
  ((s.grant (3 + slot) s.captain).set IMG_STATUS_STATE imgLoading).modImage (fun r => { r with
    slot := some slot, tried := maskSet r.tried slot, block := 0, tries := 0, checked := 0, digest := [] })

/-- The pin NVA_RESET_N of the die at site 0 (`x` = 0) or NVB_RESET_N of that at site 1: low while the die is in reset, high
from its release (R411). -/
def Chip.nvResetPin (s : Chip) (x : Nat) : Bool := decide (x < s.dieCount) && !(s.die x).inReset

/-- The chip select NVA_CS_N or NVB_CS_N while no transfer goes on: high-impedance in reset, high from release (R294). -/
def Chip.nvSelectPin (s : Chip) (x : Nat) : Option Bool := if s.nvResetPin x then some true else none

/-- Slot `slot` can be reached: its device answers and the die at its site runs. [log 71: DESIGN CHOICE] -/
def Chip.slotReach (s : Chip) (slot : Nat) : Bool :=
  maskBit s.image.present slot && decide (s.service slot ≤ svcSidelined) && !(s.die slot).inReset

/-- The header of one slot is read (R308). -/
def Chip.readHeader (s : Chip) (slot : Nat) : Chip :=
  let ver := if slot = 0 then IMG_SLOT_A_VER_VERSION else IMG_SLOT_B_VER_VERSION
  if maskBit s.image.tried slot then s
  else if !s.slotReach slot then (s.slotShow slot 0 10).set ver 0
  else
    let t := s.set ver (if s.headerOk slot then s.imgVersion slot else 0)
    let c := s.headerCause slot
    if c = 0 then (t.slotShow slot 1 0).modImage (fun r => { r with cands := maskSet r.cands slot })
    else t.slotRefuse slot c s.captain 0x3FF 0 []

/-- The slot that IMG_PIN names (R309). -/
def Chip.pinned (s : Chip) : Option Nat := match s.image.pin % 4 with
  | 1 => some 0
  | 2 => some 1
  | _ => none

/-- A pin for one start only has been read. -/
def Chip.pinRead (s : Chip) : Chip :=
  if maskBit s.image.pin 2 then ((s.set IMG_PIN_SLOT 0).set IMG_PIN_ONCE 0).modImage (fun r => { r with pin := 0 }) else s

/-- The slot to load among the candidates (R308, R309). -/
def Chip.chooseSlot (s : Chip) : Option Nat :=
  let a := maskBit s.image.cands 0
  let b := maskBit s.image.cands 1
  match s.pinned with
  | some p => if maskBit s.image.cands p then some p else if maskBit s.image.cands (1 - p) then some (1 - p) else none
  | none =>
    if a && b then some (if s.imgVersion 0 < s.imgVersion 1 then 1 else 0)
    else if a then some 0 else if b then some 1 else none

/-- Blocks of a slot: 256 MiB, or the device where that is smaller (R301). -/
def Chip.slotBlocks (s : Chip) (slot : Nat) : Nat := if slot = 0 then s.image.sizes.1 else s.image.sizes.2

/-- Step 5 of the start: `present` are the flash devices that answer, `a` and `b` their sizes in blocks. [log 71: DESIGN CHOICE] -/
def Chip.discover (s : Chip) (present a b : Nat) : Chip :=
  let s := s.modImage (fun r => { r with present := present, cands := 0, sizes := (min a 65536, min b 65536) })
  let life := s.lifecycle
  let s := (s.readHeader 0).readHeader 1
  let missed := match s.pinned with
    | some p => !maskBit s.image.cands p
    | none => false
  let s := if missed then (s.set IMG_STATUS_PIN_FAILED 1).raise IMG_EVENTS_PIN_FAILED else s
  let pick := s.chooseSlot
  let s := s.pinRead
  match if life = 0 ∨ life = 3 then none else pick with
  | some slot => s.loadSlot slot
  | none => s.noImage

def execFlashDiscovery (found : Sys2Proof.FlashFound) (s : State) : Host.Outcome State Fault Refusal :=
  s.act fun c => if c.hasCaptain ∧ !c.started ∧ c.imgSt = imgHeaders ∧ c.image.slot = none then
    c.discover found.present.toNat found.a found.b else c

/-- The load of slot `slot` is refused: the other candidate is loaded, or there is no image (R310). -/
def Chip.loadRefuse (s : Chip) (slot cause die sect addr : Nat) (dig : List Nat) : Chip :=
  let t := (s.slotRefuse slot cause die sect addr dig).leaseFree (3 + slot)
  let o := 1 - slot
  if maskBit t.image.cands o && !maskBit t.image.tried o then
    ((t.loadSlot o).set IMG_STATUS_FALLBACK 1).raise IMG_EVENTS_FALLBACK
  else t.noImage

/-- The last block is in: key and signature (R312, R331). -/
def Chip.imageEnd (s : Chip) (slot : Nat) : Chip :=
  let dig := s.imgDigest slot
  if !s.imgKeyOk slot then s.loadRefuse slot 3 s.captain 0x3FF 0 dig
  else if !s.imgSigned slot then s.loadRefuse slot 7 s.captain 0x3FF 0 dig
  else ((s.leaseFree (3 + slot)).set IMG_STATUS_STATE imgChecking).modImage (fun r => { r with digest := dig, checked := 0 })

/-- The captain uses the port of slot `slot`: it loads from it, verifies it, or carries out a flash operation (R311, R314, R370). -/
def Chip.flashUse (s : Chip) (slot : Nat) : Bool :=
  (s.imgSt == imgLoading && s.image.slot == some slot) || (s.fault.updState == 1 && s.fault.updSlot == slot)
    || (s.image.op.map (·.2.1)) == some slot

/-- The captain holds the lease of the port of slot `slot` and has not stopped using it (R360). -/
def Chip.flashHeld (s : Chip) (slot : Nat) : Bool :=
  let l := s.fault.leases.getD (3 + slot) {}
  l.held && l.holder == s.captain && !l.stopped

/-- A block of the slot under load arrives; `ok` when nothing disturbed the read (R312). -/
def Chip.imageBlock (s : Chip) (ok : Bool) : Chip :=
  match s.image.slot with
  | none => s
  | some slot =>
    -- a reader whose lease has lapsed, or that had no acknowledgement of it for 45 µs, does not read (R360)
    if s.imgSt ≠ imgLoading ∨ !s.flashHeld slot then s
    else if s.slotBlocks slot < s.imgBlocks slot then s.loadRefuse slot 6 s.captain 0x3FF 0 []
    else
      let b := s.image.block
      if ok && s.blockCrcOk slot b then
        let t := s.modImage (fun r => { r with block := b + 1, tries := 0 })
        if s.imgBlocks slot ≤ b + 1 then t.imageEnd slot else t
      else if s.image.tries < 3 then s.modImage (fun r => { r with tries := r.tries + 1 })
      else s.loadRefuse slot 5 s.captain 0x3FF (b * 4092) []

def execImageBlock (ok : Bool) (s : State) : Host.Outcome State Fault Refusal :=
  s.act fun c => if c.hasCaptain then c.imageBlock ok else c

/-! ### Loading (R306) -/

/-- Dies that take part in a load: neither rejected nor absent (R313). -/
def Chip.loadDies (s : Chip) : List Nat := s.dieList.filter (fun d => decide (s.service d ≤ svcSidelined))

/-- The library of die `d` as the image fills it: entries of LIB sections, elsewhere zero with PARK_SAFE in state 0. -/
def Chip.loadLib (s : Chip) (d : Nat) (l : List ImgVal) : Chip :=
  let ents := l.filterMap (fun v => match v.item with
    | .lib e sl q x => if e = d then some (sl, q, x) else none
    | _ => none)
  let covered := (ents.map (·.1)).eraseDups
  let s := s.each ((List.range 2048).filter (fun sl => !covered.contains sl)) fun sl t =>
    t.setRaw (entKey d sl 0) (withCheck (2 ^ 47))
  s.each ents fun e t => t.setRaw (entKey d e.1 e.2.1) (withCheck e.2.2)

/-- Mirror entry `m` is filled from primary entry `k` as a read of it finds it (R154).  Of an uncorrectable one no value comes: the
mirror entry keeps what it holds, and one that holds nothing cannot be read either. [log 121: DESIGN CHOICE] -/
def Chip.fillEntry (s : Chip) (m k : Nat) : Chip :=
  let f := s.readEntry k
  match f.2 with
  | some v => (f.1.setRaw m v).setPoison m false
  | none => if f.1.libRaw m = 0 then f.1.setPoison m true else f.1

/-- Mirror entries of backup port `e` of die `b` are filled from the primary entries (R160). -/
def Chip.fillMirror (s : Chip) (b e : Nat) : Chip :=
  let h := homeOf s.dieCount b e
  s.each (List.range 256) fun p t => t.each (List.range 256) fun m t =>
    t.fillEntry (mirKey b e p m) (entKey h (e * 256 + p) (t.get (LIB_MAP_STATE b e m)))

/-- The mirror entries that die `b` holds are filled. -/
def Chip.fillMirrors (s : Chip) (b : Nat) : Chip :=
  s.each efes8 fun e t => if t.isProt (homeOf t.dieCount b e) e then t.fillMirror b e else t

/-- What a register value of die `d` starts when the image brings it into force: outputs wait for lock, the dither
seed, the monitor pin. -/
def Chip.imgEffects (s : Chip) (d : Nat) (ts : List Nat) : Chip :=
  let s := s.each outputs fun k t =>
    t.setCko d k (if t.on (CKO_CFG_EN d k) then (if t.get (CKO_CFG_POLICY d k) = 1 then ckoByp else ckoGated) else t.ckoIdle d k)
  let s := s.loadSeed d (ts.contains (SYN_DITHER d))
  let s := if ts.contains (CLK_MON_CTRL d) then
    (s.clearRegs (CLK_MON_CTRL d) (CLK_MON_CTRL d + 4)).clkoutSelect d (s.reg (CLK_MON_CTRL d)) else s
  let s := s.modDie d (fun r => { r with coreOn := true })
  let bands := ts.any (fun a => decide (SYN_BAND d 0 ≤ a) && decide (a < SYN_BAND d 128))
  if bands then s.tryStart d else s.surveyBegin d

/-- The register addresses that the records of an image write. -/
def recAddrs (n : Nat) (l : List ImgVal) : List Nat :=
  l.flatMap (fun v => match v.item with
    | .reg a _ => if isKick a then (List.range n).map (fun d => dieBase d + relOf a) else [a]
    | _ => [])

/-- The digest of the image's SCHED section as each die computes it (R195). [log 72: DESIGN CHOICE] -/
def Chip.schedDigest (s : Chip) (slot : Nat) : List Nat :=
  match (s.sectionsOf slot).find? (fun x => x.type == sectSched) with
  | some x => sha384 (s.imgBytes slot x.offset x.length)
  | none => []

/-- Die `d` keeps the schedule digest of the image it took, and runs that image. -/
def Chip.tookImage (s : Chip) (d slot : Nat) : Chip :=
  (s.modSched (fun r => { r with digests := tabPut (fun _ => []) r.digests d (s.schedDigest slot) })).modImage
    (fun r => { r with running := tabPut (fun _ => 0) r.running d (slot + 1) })

/-- The booted image, as IMG_STATUS, IMG_VERSION and IMG_DIGEST show it. -/
def Chip.showBooted (s : Chip) (slot : Nat) : Chip :=
  let dig := s.imgDigest slot
  let t := ((((s.set IMG_STATUS_SEC_VERSION (s.imgSecVersion slot)).set IMG_STATUS_KEY_SLOT (s.imgKeySlot slot)).set
    IMG_STATUS_BOOT_SLOT slot).set IMG_VERSION_VERSION (s.imgVersion slot))
  let t := t.each (List.range 12) fun i t => t.set (IMG_DIGEST_D i) (natLE (sub dig (4 * i) 4))
  t.modImage (fun r => { r with booted := dig })

/-- Detail of an IMAGE_LOADED entry: VERSION, SEC_VERSION, the first 32 bytes of the digest (R331). [log 25: DESIGN CHOICE] -/
def Chip.loadedDetail (s : Chip) (slot : Nat) : List Nat :=
  bytesLE 4 (s.imgVersion slot) ++ [s.imgSecVersion slot] ++ (s.imgDigest slot).take 32

/-- SCHED_DIGEST shows the captain's digest. -/
def Chip.showSchedDigest (s : Chip) : Chip :=
  s.set SCHED_DIGEST_D (natLE ((tabGet (fun _ => []) s.sched.digests s.captain).take 4))

/-- Every die has passed its part: the whole slot comes into force. [log 72: DESIGN CHOICE] -/
def Chip.imageLoad (s : Chip) (slot : Nat) : Chip :=
  let l := s.imgVals slot
  let ts := recAddrs s.dieCount l
  let s := l.foldl (fun t v => t.imgPut v.item) (s.modSched (fun _ => {}))
  let ds := s.loadDies
  let s := s.each ds fun d t => t.loadLib d l
  let s := s.each ds fun d t => (t.fillMirrors d).tookImage d slot
  let s := (((s.showBooted slot).showSchedDigest).set SCHED_STATUS_COUNT s.sched.vols.length).slotShow slot 2 0
  let s := (s.auditAdd 3 0 (s.loadedDetail slot)).raise IMG_EVENTS_LOADED
  let s := (s.set IMG_STATUS_STATE imgLoaded).modImage (fun r => { r with slot := none })
  s.each ds fun d t => t.imgEffects d ts

/-- Die `d` checks its part: R304 and R305, which every die checks, then what the values say (R313). -/
def Chip.contentCheck (s : Chip) (d : Nat) : Chip :=
  match s.image.slot with
  | none => s
  | some slot =>
    if s.imgSt ≠ imgChecking then s
    else if !s.layoutOk slot then s.loadRefuse slot 6 d (s.layoutAt slot).1 (s.layoutAt slot).2 s.image.digest
    else
      match contentFault s.dieCount d s.captain (s.imgVals slot) with
      | some (c, sect, addr) => s.loadRefuse slot c d sect addr s.image.digest
      | none =>
        let t := s.modImage (fun r => { r with checked := maskSet r.checked d })
        if s.loadDies.all (fun e => maskBit t.image.checked e) then t.imageLoad slot else t

/-! ### Programming the slots (R314) -/

abbrev flOk : Nat := 0
abbrev flInUse : Nat := 1
abbrev flBadAddr : Nat := 2
abbrev flBadCrc : Nat := 3
abbrev flVerify : Nat := 4
abbrev flFlashErr : Nat := 5

/-- A flash operation ends, and with it the use of the flash port. -/
def Chip.flEnd (s : Chip) (result : Nat) : Chip :=
  let s := match s.image.op with
    | some (_, slot, _) => s.leaseFree (3 + slot)
    | none => s
  ((((s.set IMG_FL_STATUS_BUSY 0).set IMG_FL_STATUS_DONE 1).set IMG_FL_STATUS_RESULT result).raise
    IMG_EVENTS_FL_DONE).modImage (fun r => { r with op := none })

/-- The buffer as bytes. -/
def Chip.flBuf (s : Chip) : List Nat := (List.range 1024).flatMap (fun i => bytesLE 4 (s.reg (IMG_FL_BUF i)).toNat)

/-- An in-service die runs its image from slot `slot`. -/
def Chip.slotInUse (s : Chip) (slot : Nat) : Bool :=
  s.inServiceDies.any (fun d => tabGet (fun _ => 0) s.image.running d == slot + 1)

/-- A write of IMG_FL_CTRL takes effect. -/
def Chip.flCtrl (s : Chip) (v : Word) : Chip :=
  let s := (s.set IMG_FL_CTRL_SLOT (bitsOf v.toNat 8 1)).set IMG_FL_CTRL_OP (v.toNat % 4)
  if !maskBit v.toNat 31 || s.on IMG_FL_STATUS_BUSY then s
  else
    let op := s.get IMG_FL_CTRL_OP
    let slot := s.get IMG_FL_CTRL_SLOT
    let b := s.get IMG_FL_ADDR_BLOCK
    let buf := s.flBuf
    if op = 3 ∨ (op = 1 ∧ b % 16 ≠ 0) ∨ s.slotBlocks slot ≤ b then s.flEnd flBadAddr
    else if op ≠ 0 ∧ s.slotInUse slot then s.flEnd flInUse
    else if op = 2 ∧ crc32c (buf.take 4092) ≠ natLE (buf.drop 4092) then s.flEnd flBadCrc
    else ((s.grant (3 + slot) s.captain).set IMG_FL_STATUS_BUSY 1).modImage (fun r => { r with op := some (op, slot, b) })

/-- The row's own operation, one of OP 0 to 2, or any other write. -/
def Chip.flOp (s : Chip) (op : Nat) (v : Word) : Chip := if v.toNat % 4 = op then s.flCtrl v else s

def execFlashRead (v : Word) (s : State) : Host.Outcome State Fault Refusal :=
  s.act fun c => c.flOp 0 v
def execFlashErase (v : Word) (s : State) : Host.Outcome State Fault Refusal :=
  s.act fun c => c.flOp 1 v
def execFlashProgram (v : Word) (s : State) : Host.Outcome State Fault Refusal :=
  s.act fun c => c.flOp 2 v

/-- Put bytes into flash from key `k` on. -/
def Chip.putFlash (s : Chip) (k : Nat) (bs : List Nat) : Chip :=
  let put := fun (t : Tab Nat) (p : Nat × Nat) => tabPut (fun _ => 255) t (k + p.1) p.2
  s.modImage (fun r => { r with flash := ((List.range bs.length).zip bs).foldl put r.flash })

/-- The operation in progress ends: 0 well, 1 the read-back differed, 2 the flash device reported an error.  What a
failed operation leaves in the block, or in the buffer, is a free value. [log 2: DESIGN CHOICE] -/
def Chip.flDone (s : Chip) (err : Nat) : Chip :=
  match s.image.op with
  | none => s
  | some (op, slot, b) =>
    if !s.flashHeld slot then s else
    let k := slot * 2 ^ 28 + b * 4096
    let junk := fun (n : Nat) => bytesLE n s.free
    let bufPut := fun (t : Chip) (bs : List Nat) => t.each (List.range 1024) fun i t =>
      t.setReg (IMG_FL_BUF i) (BitVec.ofNat 32 (natLE (sub bs (4 * i) 4)))
    if op = 0 then
      if err = 0 then (bufPut s ((List.range 4096).map (fun i => s.flashByte slot (b * 4096 + i)))).flEnd flOk
      else (bufPut s.took (junk 4096)).flEnd flFlashErr
    else if op = 1 then
      if err = 0 then (s.modImage (fun r => { r with flash := tabClear r.flash k (k + 65536) })).flEnd flOk
      else (s.took.putFlash k (junk 65536)).flEnd (if err = 1 then flVerify else flFlashErr)
    else if err = 0 then (s.putFlash k s.flBuf).flEnd flOk
    else (s.took.putFlash k (junk 4096)).flEnd (if err = 1 then flVerify else flFlashErr)

def execFlashOpDone (err : Fin 3) (s : State) : Host.Outcome State Fault Refusal :=
  s.act fun c => if c.hasCaptain then c.flDone err else c

/-- A write of IMG_PIN goes to the retained stores of sites 0 and 1 (R309). -/
def Chip.pinWrite (s : Chip) (v : Word) : Chip :=
  let s := s.each [0, 1] fun d t => t.modRet d (fun r => { r with headerBad := false })
  ((s.set IMG_PIN_SLOT (v.toNat % 4)).set IMG_PIN_ONCE (bitsOf v.toNat 2 1)).modImage (fun r => { r with pin := v.toNat % 8 })

end Sys2Proof.Machine
end

