-- ==== Sys2Proof/Machine/Retain.lean ====
section
/-!
DEFINITION. Machine/Retain.lean: entry into service, the retained-state store, snapshots and what returns at start
(spec/11_start_up_and_retained_state.md, R292, R293, R297 to R299, R315 to R322).
-/

namespace Sys2Proof.Machine

/-! ### Valid snapshots (R317, R320) -/

def Snapshot.valid (x : Snapshot) : Bool := x.ok && x.seq != 0

/-- The best of two snapshots by a measure; the first when equal. -/
def better (f : Snapshot → Nat) (a : Option Snapshot) (b : Snapshot) : Option Snapshot :=
  match a with
  | some x => if f x < f b then some b else some x
  | none => some b

/-- The newest valid periodic snapshot of a store. -/
def RetRec.newest (r : RetRec) : Option Snapshot :=
  ((r.slots.map (·.2)).filter Snapshot.valid).foldl (better (·.seq)) none

/-- The newest valid emergency snapshot of a store. -/
def RetRec.newestEmerg (r : RetRec) : Option Snapshot := (r.emerg.filter Snapshot.valid).foldl (better (·.tick)) none

/-- The snapshots that the dies hold, each die's newest. -/
def Chip.periodics (s : Chip) : List Snapshot := s.loadDies.filterMap (fun d => (s.ret d).newest)
def Chip.emergencies (s : Chip) : List Snapshot := s.loadDies.filterMap (fun d => (s.ret d).newestEmerg)

/-- The newest periodic snapshot of any die, and the emergency snapshot when it is used. -/
def Chip.bestPeriodic (s : Chip) : Option Snapshot := s.periodics.foldl (better (·.seq)) none
def Chip.usedEmerg (s : Chip) : Option Snapshot :=
  match s.emergencies.foldl (better (·.tick)) none, s.bestPeriodic with
  | some e, some p => if p.tick < e.tick then some e else none
  | e, none => e
  | none, _ => none

/-- The snapshot that gives the package values. -/
def Chip.usedSnap (s : Chip) : Option Snapshot :=
  match s.usedEmerg with
  | some e => some e
  | none => s.bestPeriodic

/-! ### Entry into service (R297, R321) -/

/-- Package time at S0: the restored time, or TICK_ORIGIN. [log 32: DESIGN CHOICE] -/
def Chip.startNs (s : Chip) : Nat :=
  match s.usedSnap with
  | some x => max s.originNs (x.time + s.tickNs)
  | none => s.originNs

/-- Every die that is neither rejected nor absent is `LOCKED` or has been sidelined, the captain in service (R297). -/
def Chip.readyToServe (s : Chip) : Bool :=
  !s.resetLow && s.hasCaptain && s.imgSt == imgLoaded && !s.started && s.inService s.captain
    && s.loadDies.all (fun d => (s.service d == svcIn && s.syn d == synLocked) || s.service d == svcSidelined)

/-- A domain that is enabled listens; one that is not is off (R209). -/
def Chip.domStart (s : Chip) (x : Nat) : Chip :=
  (s.set (TIME_DOM_STATUS_STATE x) (if s.on (TIME_DOM_CFG_EN x) then domListen else domOff)).modDom x (fun _ => {})

/-- Boundary S0. [log 32: DESIGN CHOICE] -/
def Chip.enterService (s : Chip) : Chip :=
  let n := ceilDiv (s.startNs - s.originNs) s.tickNs
  let s : Chip := { s with started := true, moment := 0 }
  let s := (s.set PKG_TICK_NUM_TICK n).modTime (fun r => { r with now := s.originNs + n * s.tickNs })
  let s := s.each s.inServiceDies fun d t => t.each ports16 fun p t => t.portStart d p
  let s := s.each [0, 1] fun x t => t.domStart x
  let s := (s.modSched (fun r => { r with from_ := n + s.ticksOf 20000 })).showSched
  let s := (s.each captainLeases fun k t => t.grant k t.captain).set TIME_STATUS_SERVO s.captain
  let top := (s.loadDies.flatMap (fun d => ((s.ret d).slots.map (·.2.seq)))).foldl max 0
  ({ s with snap := { seq := top } } : Chip).tickPin

def execEnterService (s : State) : Host.Outcome State Fault Refusal :=
  s.act fun c => if c.readyToServe then c.enterService else c

/-! ### What returns (R320 to R322) -/

/-- The restore condition. -/
def Chip.restoreOk (s : Chip) : Bool :=
  match s.usedSnap with
  | some x => s.on RET_CFG_RESTORE && x.digest == s.image.booted
  | none => false

/-- The record of channel `c` with the highest measure among snapshots. -/
def recordOf (l : List Snapshot) (f : Snapshot → Nat) (c : Nat) : Option (Nat × Nat × Int) :=
  let with_ := l.filter (fun x => x.chans.any (fun r => r.1 == c))
  (with_.foldl (better f) none).bind (fun x => (x.chans.find? (fun r => r.1 == c)).map (·.2))

/-- The loop state in which a recorded one comes back (Table 11.9). -/
def backState (st : Nat) : Nat := if st = lpParked ∨ st = lpFault then st else lpAcquire

/-- Channel `c` gets its state, and its integrator when the periodic record has the same state. [log 75: DESIGN CHOICE] -/
def Chip.restoreChan (s : Chip) (c : Nat) : Chip :=
  let per := recordOf s.periodics (·.seq) c
  let state := match s.usedEmerg with
    | some _ => (recordOf s.emergencies (·.tick) c).map (·.1)
    | none => per.map (·.1)
  let d := chanDie c
  let sl := chanSlot c
  match state with
  | none => s
  | some q =>
    let s := s.set (CH_STATE_TARGET d sl) q
    match per with
    | some (q', st, i) =>
      if q' = q then s.modRet d (fun r => { r with back := (sl, backState st, i) :: r.back }) else s
    | none => s

/-- The trim log of die `d` is replayed into its entries and their mirrors. -/
def Chip.replayTrims (s : Chip) (d : Nat) : Chip :=
  s.each (s.ret d).trims fun p t =>
    let f := t.readEntry p.1
    match f.2 with
    | some e => f.1.putEntry p.1 (putBits e 16 12 p.2)
    | none => f.1

/-- The channels that any snapshot records. -/
def Chip.recordedChans (s : Chip) : List Nat :=
  ((s.periodics ++ s.emergencies).flatMap (fun x => x.chans.map (·.1))).eraseDups

/-- Why nothing, or not everything, came back (RET_STATUS.CAUSE). [log 75: DESIGN CHOICE] -/
def Chip.restoreCause (s : Chip) : Nat :=
  match s.usedSnap with
  | none => if s.dieList.any (fun d => (s.ret d).forgotten) then 4 else 2
  | some x => if !s.on RET_CFG_RESTORE then 1 else if x.digest != s.image.booted then 3 else 0

/-- See [log 75: DESIGN CHOICE]. -/
def Chip.restoreSource (s : Chip) : Nat :=
  match s.bestPeriodic, s.usedEmerg with
  | some _, none => 1
  | some _, some _ => 2
  | none, some _ => 3
  | none, none => 0

/-- Step 9 of the start. [log 75: DESIGN CHOICE] -/
def Chip.restore (s : Chip) : Chip :=
  let ok := s.restoreOk
  let old := s
  let ds := s.inServiceDies
  let torn := (s.loadDies.map (fun d => ((s.ret d).slots.filter (fun p => p.2.torn)).length)).sum
  let s := s.modImage (fun r => { r with restored := true })
  let s := if ok then old.recordedChans.foldl (fun t c => t.restoreChan c) s else s
  let s := if ok then s.each ds fun d t => t.replayTrims d else s
  let s := match if ok then old.usedSnap else none with
    | some x =>
      let s := ((s.modTime (fun r => { r with d := x.d })).modDom 0 (fun r => { r with fEst := x.fA })).modDom 1
        (fun r => { r with fEst := x.fB })
      s.each ds fun d t => t.loadD d x.d
    | none => s
  let s := s.each ds fun d t => t.calRestore d ok
  let bits := (if old.usedSnap.isSome then 1 else 0) + (if ok then 2 + 8 + 16 else 0)
    + (if ok && old.bestPeriodic.isSome then 4 else 0)
  let s := ((s.set RET_STATUS_RESTORED bits).set RET_STATUS_SOURCE old.restoreSource).set RET_STATUS_CAUSE old.restoreCause
  let s := s.set RET_RESTORED_SEQ_SEQ ((old.bestPeriodic.map (·.seq)).getD 0 % 2 ^ 32)
  let s := s.set RET_TRIM_COUNT (s.ret s.captain).trims.length
  if torn = 0 then s else (s.bump RET_TORN_CNT_COUNT torn).raise RET_EVENTS_TORN

def execRetainedRestore (s : State) : Host.Outcome State Fault Refusal :=
  s.act fun c => if c.started ∧ !c.image.restored then c.restore else c

/-! ### The first boundary A (R298) and boundary E (R299) -/

/-- Slot `sl` of die `d` starts at TARGET, with its restored integrator when it has one. -/
def Chip.startSlot (s : Chip) (d sl : Nat) : Chip :=
  match (s.ret d).back.find? (fun b => b.1 == sl) with
  | none => s.enableSlot d sl
  | some (_, st, i) =>
    let t := s.modRet d (fun r => { r with back := r.back.filter (fun b => b.1 != sl) })
    let t := t.enableWith d sl (.take i)
    if st = lpParked ∨ st = lpFault then t.modSlot d sl (fun r => { r with st := st }) else t

/-- Every enabled slot of EFE `p` of die `d` makes its state change from state 0. -/
def Chip.startEfe (s : Chip) (d p : Nat) : Chip :=
  s.each ((s.enabledSlots d).filter (fun sl => sl / 256 == p && !(s.slot d sl).active)) fun sl t => t.startSlot d sl

def Chip.startDue (s : Chip) (d p : Nat) : Bool :=
  s.inService d && (s.port d p).firstA == some s.comingB

def execStartStateChange (d p : Fin 8) (s : State) : Host.Outcome State Fault Refusal :=
  s.act fun c => if c.startDue d p then c.startEfe d p else c

/-- 50 ms after S0 the port is still in SYNC or CAPS. -/
def Chip.portLate (s : Chip) (d p : Nat) : Chip :=
  let st := s.el d p
  if (st = elSync ∨ st = elCaps) ∧ !(s.port d p).lateStart then
    (s.raiseF2 0x23 (d * 256 + p)).modPort d p (fun r => { r with lateStart := true })
  else s

def execStartPortTimeout (d : Fin 8) (p : Fin 16) (s : State) : Host.Outcome State Fault Refusal :=
  s.act fun c => if c.started ∧ c.inService d then c.portLate d p else c

/-- An enabled port that boundary E need not wait for. -/
def Chip.portSettled (s : Chip) (d p : Nat) : Bool :=
  let st := s.el d p
  !s.on (ELINK_CTRL_EN d p) || !s.portUsable d p
    || (st == elActive && (decide (8 ≤ p) || (s.port d p).passedA || match (s.port d p).firstA with
        | some a => decide (a ≤ s.tick)
        | none => false))
    || st == elWarm || st == elFailed || (s.port d p).lateStart && (st == elSync || st == elCaps)

/-- The condition of boundary E. -/
def Chip.boundaryE (s : Chip) : Bool :=
  s.started && s.lifecycle != 3 && s.inServiceDies.all (fun d => ports16.all (fun p => s.portSettled d p))

/-! ### Snapshots (R316, R317) -/

/-- The captain names S and a sequence number, and sends them with the time words. -/
def Chip.snapName (s : Chip) : Chip :=
  if s.started ∧ s.snap.at_ = none then
    { s with snap := { at_ := some (s.boundary20, s.snap.seq + 1), seq := s.snap.seq + 1 } }
  else s

def execSnapshotPeriod (t : Nat) (s : State) : Host.Outcome State Fault Refusal :=
  s.act fun c => if c.on RET_CFG_EN then (c.at t).snapName else c

/-- What die `d` captures for boundary `n` (R316). [log 74: DESIGN CHOICE] -/
def Chip.captureOf (s : Chip) (d n seq : Nat) : Snapshot :=
  { seq := seq, ok := true
    chans := (s.activeSlots d).map (fun sl => (s.chanOf d sl, s.get (CH_STATE_CURRENT d sl), (s.slot d sl).st, (s.slot d sl).integ))
    cover := (s.reg (DIE_COVER d)).toNat
    time := s.time.now + (n - s.tick) * s.tickNs, tick := n
    d := s.time.d, fA := (s.dom 0).fEst, fB := (s.dom 1).fEst
    digest := if s.fault.updMask ≠ 0 ∧ s.fault.updState ≠ 7 then s.image.verified else s.image.booted }

/-- RET_STATUS.WRITING. -/
def Chip.showWriting (s : Chip) : Chip := s.setB RET_STATUS_WRITING (s.dieList.any (fun d => (s.ret d).writing.isSome))

/-- A die's write ends: the slot after the last one holds the capture, or is torn when the read-back failed. -/
def Chip.snapDone (s : Chip) (d : Nat) (fail : Bool) : Chip :=
  match (s.ret d).writing with
  | none => s
  | some x =>
    let k := ((s.ret d).last + 1) % 64
    if fail then
      ((s.modRet d (fun r => { r with writing := none, slots := tabPut (fun _ => {}) r.slots k { torn := true } })).raise
        RET_EVENTS_WRITE_FAIL).showWriting
    else
      let t := (s.modRet d (fun r => { r with writing := none, last := k, forgotten := false
                                              slots := tabPut (fun _ => {}) r.slots k x })).showWriting
      if d = t.captain then t.set RET_SEQ_SEQ (x.seq % 2 ^ 32) else t

/-- At the end of step 6 of tick S − 1 each die in service captures its values and begins to write them; a write
still in progress ends first. [log 73: DEDUCED] -/
def Chip.snapCapture (s : Chip) : Chip :=
  match s.snap.at_ with
  | some (n, seq) =>
    if n = s.comingB then
      let s : Chip := { s with snap := { seq := s.snap.seq } }
      (s.each s.inServiceDies fun d t =>
        (t.snapDone d false).modRet d (fun r => { r with writing := some (s.captureOf d n seq) })).showWriting
    else s
  | none => s

def execSnapshotCapture (s : State) : Host.Outcome State Fault Refusal :=
  s.act fun c => c.snapCapture

/-- A full start after the snapshot (R293). [log 73: DEDUCED] -/
def Chip.restart (s : Chip) : Chip := s.afterReset.release

def execSnapshotWriteDone (d : Fin 8) (fail : Bool) (s : State) : Host.Outcome State Fault Refusal :=
  s.act fun c =>
    let t := c.snapDone d fail
    if t.image.restart ∧ t.snap.at_ = none ∧ !t.on RET_STATUS_WRITING then t.restart else t

/-- A write of IMG_CTRL (R293): before S0 there is no boundary for a snapshot and the start begins at once. [log 73: DEDUCED] -/
def Chip.imgCtrl (s : Chip) (v : Word) : Chip :=
  if maskBit v.toNat 31 then
    if s.started then s.snapName.modImage (fun r => { r with restart := true }) else s.restart
  else s

def execImgRestart (v : Word) (t : Nat) (s : State) : Host.Outcome State Fault Refusal :=
  s.act fun c => (c.at t).imgCtrl v

/-- RET_CTRL.FORGET (R322): every snapshot and both trim log halves of every die become invalid. [log 74: DESIGN CHOICE] -/
def Chip.forget (s : Chip) : Chip :=
  let blank := fun (r : RetRec) => { r with slots := [], emerg := [{}, {}], trims := [], gen := 1, writing := none, forgotten := true }
  ((s.each s.dieList fun d t => t.modRet d blank).showWriting).set RET_TRIM_COUNT 0

/-- A write of RET_CTRL. -/
def Chip.retCtrl (s : Chip) (v : Word) : Chip :=
  let s := if maskBit v.toNat 1 then s.forget else s
  if maskBit v.toNat 0 then s.snapName else s

def execSnapNow (v : Word) (t : Nat) (s : State) : Host.Outcome State Fault Refusal :=
  s.act fun c => if maskBit v.toNat 0 then (c.at t).retCtrl v else c
def execRetForget (v : Word) (t : Nat) (s : State) : Host.Outcome State Fault Refusal :=
  s.act fun c => if maskBit v.toNat 1 then (c.at t).retCtrl v else c

/-! ### The trim log (R318) -/

/-- The latest trim of each entry, most recently written back first. -/
def latestTrims : List (Nat × Nat) → List (Nat × Nat)
  | l => l.reverse.foldl (fun acc p => if acc.any (fun q => q.1 == p.1) then acc else acc ++ [p]) []

/-- One record for the log of die `d`; a full half is compacted into the other first. -/
def Chip.trimAdd (s : Chip) (d : Nat) (p : Nat × Nat) : Chip :=
  let r := s.ret d
  if 98304 ≤ r.trims.length then
    let l := latestTrims r.trims
    let full := decide (90112 < l.length)
    let t := s.setRet d { r with trims := ((l.take 90112).reverse) ++ [p], gen := r.gen + 1, trimFull := r.trimFull || full }
    if full then (t.set RET_STATUS_TRIM_FULL 1).raise RET_EVENTS_TRIM_FULL else t
  else s.setRet d { r with trims := r.trims ++ [p] }

/-- The write-backs of the tick go into the logs of the entries' home dies; the write of one whose data failed its parity is
abandoned (R323). -/
def Chip.trimTick (s : Chip) (env : List Sys2Proof.DieTick) : Chip :=
  if s.trimNew.isEmpty then s
  else
    let t := s.each s.trimNew fun p t =>
      if ((env[keyDie p.1]?).map (·.parity)).getD false then t.raise RET_EVENTS_WRITE_FAIL else t.trimAdd (keyDie p.1) p
    ({ t with trimNew := [] } : Chip).set RET_TRIM_COUNT (t.ret t.captain).trims.length

/-! ### Emergency snapshots (R319) -/

/-- Die `d` writes the last boundary into the older emergency slot. [log 74: DESIGN CHOICE] -/
def Chip.emergency (s : Chip) (d : Nat) : Chip :=
  let a := (s.ret d).emerg.getD 0 {}
  let b := (s.ret d).emerg.getD 1 {}
  let x := { s.captureOf d s.tick (max a.seq b.seq + 1) with
    chans := (s.activeSlots d).map (fun sl => (s.chanOf d sl, s.get (CH_STATE_CURRENT d sl), 0, 0)) }
  s.modRet d (fun r => { r.tear with
    emerg := if a.seq ≤ b.seq then [x, b] else [a, x], emergNew := some (if a.seq ≤ b.seq then 0 else 1) })

/-- A rail crosses its warning threshold. [log 74: DESIGN CHOICE] -/
def Chip.supplyWarning (s : Chip) : Chip :=
  let s := s.raise RET_EVENTS_SUPPLY_WARN
  if s.started then
    ((s.each (s.dieList.filter s.runs) fun d t => t.emergency d).showWriting).raise RET_EVENTS_EMERGENCY
  else s

/-- The tick of die `d` is over: with `bad`, data on the way to its store failed its parity, and the snapshots then being
written are abandoned (R323). -/
def Chip.storeTick (s : Chip) (d : Nat) (bad : Bool) : Chip :=
  let s := match (s.ret d).emergNew with
    | some i =>
      let s := s.modRet d (fun r => { r with emergNew := none })
      if bad then (s.modRet d (fun r => { r with emerg := r.emerg.set i { r.emerg.getD i {} with ok := false } })).raise
        RET_EVENTS_WRITE_FAIL else s
    | none => s
  if bad then s.snapDone d true else s

/-- What of the store of die `d` cannot be read any more (R315, R340): the structure that holds the word is invalid. -/
def Chip.storeLoses (s : Chip) (d : Nat) (x : Sys2Proof.StorePart) : Chip :=
  match x with
  | .header => s.modRet d (fun r => { r with headerBad := true })
  | .emergency k => s.modRet d (fun r => { r with emerg := r.emerg.set k { r.emerg.getD k {} with ok := false } })
  | .calSlot k => s.modCal d (fun r => { r with slots := r.slots.set k { r.slots.getD k {} with crc := crcTorn } })
  | .snapSlot k => s.modRet d (fun r => { r with slots := tabPut (fun _ => {}) r.slots k { tabGet (fun _ => {}) r.slots k with ok := false } })
  | .auditEntry i =>
    match (s.log d).entries.find? (fun a => a.index % 4096 == i.val) with
    | some a => s.setLog d ((s.log d).damaged a.index)
    | none => s
  | .trimRecord i => s.modRet d (fun r => { r with trims := r.trims.eraseIdx i })
  | .keyRecord k => s.modRet d (fun r => { r with keyBad := maskSet r.keyBad k })

def execSupplyWarning (s : State) : Host.Outcome State Fault Refusal :=
  s.act fun c => if c.resetLow then c else c.supplyWarning

end Sys2Proof.Machine
end

