-- ==== Sys2Proof/Machine/HostPort.lean ====
section
/-!
DEFINITION. Machine/HostPort.lean: host ports as the package sees them: availability, links, resets, MSI-X messages,
configuration space (spec/14_host_port.md, R377, R378, R384, R388 to R395).
-/

namespace Sys2Proof.Machine

def Chip.host (s : Chip) (p : Nat) : HostRec := tabGet (fun _ => {}) s.hosts p
def Chip.setHost (s : Chip) (p : Nat) (r : HostRec) : Chip := { s with hosts := tabPut (fun _ => {}) s.hosts p r }
def Chip.modHost (s : Chip) (p : Nat) (f : HostRec → HostRec) : Chip := s.setHost p (f (s.host p))

/-! ### Availability and link (R391) -/

/-- Port `p` is available. -/
def Chip.portAvail (s : Chip) (p : Nat) : Bool :=
  !s.resetLow && !(s.die p).inReset
    && (s.inService p || (s.hasCaptain && decide (p < s.dieCount) && decide (s.service p ≤ svcSidelined) && s.imgSt == imgNone))
    && (p == 0 || s.on SEC_STATUS_HP1_EN)

/-- The link of port `p` is down: no speed and no lanes. -/
def Chip.linkDown (s : Chip) (p : Nat) : Chip :=
  ((s.set (HOST_STATUS_LINK p) 0).set (HOST_STATUS_SPEED p) 0).set (HOST_STATUS_WIDTH p) 0

/-- Both status registers show availability; the link of a port that is not available is held down. -/
def Chip.showHosts (s : Chip) : Chip :=
  s.each [0, 1] fun p t =>
    let u := t.setB (HOST_STATUS_AVAILABLE p) (t.portAvail p)
    if t.portAvail p then u else u.linkDown p

/-- ECRC checking is in force (R384). -/
def Chip.showEcrc (s : Chip) (p : Nat) : Chip :=
  s.setB (HOST_STATUS_ECRC_ON p) (s.on HOST_PCIE_CFG_ECRC && (s.host p).ecrcCheck)

/-- The port serves requests: available, its link up, no function level reset in progress. -/
def Chip.hostUp (s : Chip) (p : Nat) : Bool := s.portAvail p && s.on (HOST_STATUS_LINK p) && !(s.host p).flr

/-- The link finishes training: speed code 1 to 4, lanes 1, 2 or 4. -/
def Chip.hostLinkUp (s : Chip) (p speed lanes : Nat) : Chip :=
  if s.portAvail p ∧ !s.on (HOST_STATUS_LINK p) then
    let t := s.modHost p (fun r => { r with perst := false })
    ((((t.set (HOST_STATUS_LINK p) 1).set (HOST_STATUS_SPEED p) speed).set (HOST_STATUS_WIDTH p) lanes).showHosts).resync p 0
  else s

def execHostLinkUp (p : Fin 2) (speed : Fin 4) (lanes : Fin 3) (s : State) : Host.Outcome State Fault Refusal :=
  s.act fun c => c.hostLinkUp p (speed.val + 1) (2 ^ lanes.val)

/-! ### Registers of configuration space (R377, Table 14.1) -/

/-- How a register of configuration space is held: its reset value, the bits that a host writes, those that it clears by writing
1, and whether it keeps its value in every reset but that of PERSTx_N. -/
structure CfgRule where
  reset : Nat := 0
  rw : Nat := 0
  w1c : Nat := 0
  sticky : Bool := false

/-- The rules of the registers with bits that a host writes; the others hold nothing. [log 9: PRESUMED] -/
def cfgRule (r : Sys2Proof.CfgReg) : CfgRule :=
  match r with
  | .cacheLine => { rw := 0xFF }
  | .interruptLine => { rw := 0xFF }
  | .deviceControl => { reset := 0x2810, rw := 0x78FF, w1c := 0xF0000 }
  | .linkControl => { rw := 0xCB }
  | .linkControl2 => { reset := 4, rw := 0xFFBF, sticky := true }
  | .aerMask => { rw := 0x1FF010, sticky := true }
  | .aerSeverity => { reset := 0x62010, rw := 0x1FF010, sticky := true }
  | .aerCorrStatus => { w1c := 0x31C1, sticky := true }
  | .aerCorrMask => { reset := 0x2000, rw := 0x31C1, sticky := true }
  | .laneErrors => { w1c := 0xF, sticky := true }
  | .phyStatus => { w1c := 0x10, sticky := true }
  | .phyParity _ => { w1c := 0xF, sticky := true }
  | .margin _ => { reset := 0x9C38, rw := 0xFF7F }
  | .ids | .command | .classCode | .bar _ | .powerCap | .power | .msixControl | .msixTable | .msixPba | .expressCap | .deviceCap
  | .linkCap | .deviceCap2 | .deviceControl2 | .linkCap2 | .aerCap | .aerStatus | .aerControl | .aerHeader _ | .serialCap
  | .serialLow | .serialHigh | .secondaryCap | .linkControl3 | .laneEq _ | .phyCap | .phyEq | .marginCap | .marginPort
  | .other _ => {}

/-- The number of a register of configuration space. -/
def cfgKey (r : Sys2Proof.CfgReg) : Nat :=
  match r with
  | .ids => 0 | .command => 1 | .classCode => 2 | .cacheLine => 3 | .bar k => 4 + k | .interruptLine => 15
  | .powerCap => 16 | .power => 17 | .msixControl => 20 | .msixTable => 21 | .msixPba => 22
  | .expressCap => 32 | .deviceCap => 33 | .deviceControl => 34 | .linkCap => 35 | .linkControl => 36 | .deviceCap2 => 41
  | .deviceControl2 => 42 | .linkCap2 => 43 | .linkControl2 => 44
  | .aerCap => 64 | .aerStatus => 65 | .aerMask => 66 | .aerSeverity => 67 | .aerCorrStatus => 68 | .aerCorrMask => 69
  | .aerControl => 70 | .aerHeader i => 71 + i
  | .serialCap => 80 | .serialLow => 81 | .serialHigh => 82
  | .secondaryCap => 96 | .linkControl3 => 97 | .laneErrors => 98 | .laneEq i => 99 + i
  | .phyCap => 112 | .phyStatus => 115 | .phyParity i => 116 + i | .phyEq => 120
  | .marginCap => 128 | .marginPort => 129 | .margin l => 130 + l
  | .other i => 1024 + i

/-- The numbers of the registers that every reset but that of PERSTx_N keeps: Link Control 2, AER masks, severities and correctable
status, Lane Error Status, the status of 16.0 GT/s. -/
def cfgSticky : List Nat := [44, 66, 67, 68, 69, 98, 115, 116, 117, 118]

/-- What a host has written into a register of configuration space. -/
def HostRec.cfgAt (h : HostRec) (r : Sys2Proof.CfgReg) : Nat := (tabGet (fun _ => none) h.cfg (cfgKey r)).getD (cfgRule r).reset

def HostRec.cfgPut (h : HostRec) (r : Sys2Proof.CfgReg) (x : Nat) : HostRec :=
  { h with cfg := tabPut (fun _ => none) h.cfg (cfgKey r) (if x = (cfgRule r).reset then none else some x) }

/-- A host writes a register by its rule. -/
def HostRec.cfgSet (h : HostRec) (r : Sys2Proof.CfgReg) (x : Nat) : HostRec :=
  let k := cfgRule r
  let old := h.cfgAt r
  h.cfgPut r (((old ^^^ (old &&& (k.rw ||| k.w1c))) ||| (x &&& k.rw)) ||| ((old &&& k.w1c) ^^^ (old &&& k.w1c &&& x)))

/-- AER records error `b`: its status bit, the first error where none that is not masked was held, and the bits of Device Status: an
error of its severity, an unsupported request. [log 9: PRESUMED] -/
def HostRec.report (h : HostRec) (b : Nat) : HostRec :=
  let masked := h.cfgAt .aerMask
  let first := if (h.aer ^^^ (h.aer &&& masked)) = 0 ∧ !maskBit masked b then b else h.aerFirst
  let seen := maskSet (h.cfgAt .deviceControl) (if maskBit (h.cfgAt .aerSeverity) b then 18 else 17)
  { h.cfgPut .deviceControl (if b = 20 then maskSet seen 19 else seen) with aer := maskSet h.aer b, aerFirst := first }

/-! ### Resets (R388, R389, Table 14.4) -/

/-- The host group of port `p` is gone. -/
def Chip.groupEnd (s : Chip) (p result : Nat) : Chip :=
  (s.modHost p (fun r => { r with withAw := false, group := [] })).setReg (portReg p HOST_GROUP_STATUS)
    (BitVec.ofNat 32 (result * 2 ^ 24))

def Chip.groupOpen (s : Chip) (p : Nat) : Bool := s.on (onPort p HOST_GROUP_STATUS_OPEN)

/-- What every reset of Table 14.4 but D3hot entry does to port `p`; `tlps` TLPs were in flight; the session ends for
`reason`. [log 22: DESIGN CHOICE] -/
def Chip.hostReset (s : Chip) (p tlps reason : Nat) : Chip :=
  let s := if s.holdsSession p then s.sessEnd reason else s
  let s := s.heldDrop p
  let s := if s.groupOpen p then (s.groupEnd p 3).raise HOST_EVENTS_GROUP_LOST else s
  let s := s.modHost p (fun r => { r with
    d3 := false, flr := false, low := [], high := [], timeHigh := none, bars := [], cmd := 0, ecrcGen := false, ecrcCheck := false,
    cfg := r.cfg.filter (fun x => cfgSticky.contains x.1), msix := [], pba := [] })
  let s := (((s.set (HOST_STATUS_D3HOT p) 0).set (HOST_STATUS_BME p) 0).set (HOST_STATUS_FN_MASK p) 0).set
    (HOST_STATUS_MSIX_EN p) 0
  let s := (s.showEcrc p).setReg (portReg p HOST_VIEW) 0
  ((s.bump (HOST_DISCARD_CNT_COUNT p) tlps).raise HOST_EVENTS_PORT_RESET).farReset p 0 tlps

/-- The link is down by a reset, by a surprise, or because the die has left service. -/
def Chip.hostDown (s : Chip) (p tlps reason : Nat) : Chip :=
  (((s.hostReset p tlps reason).linkDown p).bump (HOST_RESET_CNT_LINK p)).showHosts

/-- PERSTx_N asserted: the sticky bits too. [log 12: DESIGN CHOICE] -/
def execPerstAssert (p : Fin 2) (tlps : Nat) (s : State) : Host.Outcome State Fault Refusal :=
  s.act fun c => if c.resetLow then c.modHost p (fun r => { r with perst := true })
    else (c.hostDown p tlps endPort).modHost p (fun r => { r with perst := true, aer := 0, aerFirst := 0, cfg := [] })

/-- Surprise down, host master reset, hot reset. [log 12: DESIGN CHOICE] -/
def execPcieLinkDown (p : Fin 2) (tlps : Nat) (s : State) : Host.Outcome State Fault Refusal :=
  s.act fun c => if c.on (HOST_STATUS_LINK p) then c.hostDown p tlps endPort else c

/-- A function level reset begins; `tlps` TLPs are in flight. -/
def Chip.flrBegin (s : Chip) (p tlps : Nat) : Chip :=
  ((s.hostReset p tlps endPort).bump (HOST_RESET_CNT_FLR p)).modHost p (fun r => { r with flr := true })

/-- A function level reset; it completes within 1 ms. [log 12: DESIGN CHOICE] -/
def execFunctionLevelReset (p : Fin 2) (tlps : Nat) (s : State) : Host.Outcome State Fault Refusal :=
  s.act fun c => if c.hostUp p then c.flrBegin p tlps else c

def execFlrComplete (p : Fin 2) (s : State) : Host.Outcome State Fault Refusal :=
  s.act fun c => (c.modHost p (fun r => { r with flr := false })).resync p 0

/-- D3hot entry and the return to D0. -/
def Chip.hostPower (s : Chip) (p : Nat) (d3 : Bool) : Chip :=
  (s.modHost p (fun r => { r with d3 := d3 })).setB (HOST_STATUS_D3HOT p) d3

def execD3hotEntry (p : Fin 2) (s : State) : Host.Outcome State Fault Refusal :=
  s.act fun c => if c.hostUp p then c.hostPower p true else c
def execD0Return (p : Fin 2) (s : State) : Host.Outcome State Fault Refusal :=
  s.act fun c => if c.hostUp p then c.hostPower p false else c

/-! ### MSI-X (R393 to R395) -/

/-- Word `i` of the MSI-X table of port `p`: after a reset every vector is masked. [log 9: PRESUMED] -/
def msixBlank : Nat → Word := fun i => if i % 4 = 3 then 1 else 0
def Chip.msixWord (s : Chip) (p i : Nat) : Word := tabGet msixBlank (s.host p).msix i

/-- A message of vector `k` may leave port `p`. -/
def Chip.msixFree (s : Chip) (p k : Nat) : Bool :=
  s.hostUp p && s.on (HOST_STATUS_BME p) && s.on (HOST_STATUS_MSIX_EN p) && !s.on (HOST_STATUS_FN_MASK p)
    && !(s.host p).d3 && !maskBit (s.msixWord p (4 * k + 3)).toNat 0

/-- The message of vector `k` leaves port `p`. -/
def Chip.msixSend (s : Chip) (p k : Nat) : Chip :=
  (s.modHost p (fun r => { r with pba := r.pba.filter (· != k), sent := r.sent ++ [k] })).bump (HOST_MSG_CNT_COUNT p)

/-- A message falls due for port `p`: sent, or pending. -/
def Chip.msixDue (s : Chip) (p k : Nat) : Chip :=
  if !s.portAvail p then s
  else if s.msixFree p k then s.msixSend p k
  else s.modHost p (fun r => { r with pba := if r.pba.contains k then r.pba else r.pba ++ [k] })

/-- Every source of vector `k` that became due in the tick gives one message at each available port. -/
def Chip.msixMessage (s : Chip) (k : Nat) : Chip :=
  if s.due.contains k then
    (({ s with due := s.due.filter (· != k) } : Chip).msixDue 0 k).msixDue 1 k
  else s

def execMsixMessage (k : Fin 64) (s : State) : Host.Outcome State Fault Refusal :=
  s.act fun c => c.msixMessage k

/-- The condition that held a message back has cleared. -/
def execMsixPendingRelease (p : Fin 2) (k : Fin 64) (s : State) : Host.Outcome State Fault Refusal :=
  s.act fun c => if (c.host p).pba.contains k ∧ c.msixFree p k then c.msixSend p k else c

/-! ### Completions and configuration space (R377, R378) -/

/-- The port completes a request: 0 successful, 1 Unsupported Request, 2 Completer Abort. -/
def Chip.complete (s : Chip) (p status : Nat) (data : List Word) : Chip :=
  s.modHost p (fun r => { r with cplStatus := status, cpl := data })

/-- Bits of the AER uncorrectable error status that the port sets (notes/assumptions/9.md). [log 9: PRESUMED] -/
abbrev aerAbort : Nat := 15
/-- See [log 9: PRESUMED]. -/
abbrev aerMalformed : Nat := 18
/-- See [log 9: PRESUMED]. -/
abbrev aerUnsupported : Nat := 20
/-- See [log 9: PRESUMED]. -/
def Chip.aerSet (s : Chip) (p b : Nat) : Chip := s.modHost p (fun r => r.report b)

/-- The writable bits of base address register `k`: 64 MiB at BAR0/1, 256 MiB at BAR2/3. -/
def barMask (k : Nat) : Nat :=
  if k = 0 then 0xFC000000 else if k = 2 then 0xF0000000 else if k = 1 ∨ k = 3 then 0xFFFFFFFF else 0

/-- The bits of the command register that are held beside Bus Master Enable: Memory Space Enable, Parity Error Response,
SERR# Enable; the port has no I/O space and no INTx. [log 16: PRESUMED] -/
abbrev cmdMask : Nat := 0x142

/-- The port claims memory requests: Memory Space Enable is set, and the function is in D0. [log 16: PRESUMED] -/
def Chip.memOn (s : Chip) (p : Nat) : Bool := maskBit (s.host p).cmd 1 && !(s.host p).d3

/-- The largest latencies of port `p`: of a register read, of 64 bytes of a library read. -/
def Chip.latOf (s : Chip) (p : Nat) : Nat × Nat := tabGet (fun _ => (0, 0)) s.latency p

/-- Port `p` has completed a read: its latency is a free value within the bound of R385. [log 21: DESIGN CHOICE] -/
def Chip.observe (s : Chip) (p : Nat) (lib : Bool) : Chip :=
  let x := s.latOf p
  let y := if lib then (x.1, max x.2 (s.free % 3001)) else (max x.1 (s.free % 1501), x.2)
  ({ s with latency := tabPut (fun _ => (0, 0)) s.latency p y } : Chip).took

/-- The bits of a read that nothing fixes: `n` bits from bit `lo` on. [log 9: PRESUMED] -/
def cfgOpen (p : Nat) (r : Sys2Proof.CfgReg) (lo n : Nat) : Nat := Config.cfgBits p (cfgKey r) % 2 ^ n * 2 ^ lo

/-- The header of an extended capability: its ID and version 1; where the next one stands is open. [log 9: PRESUMED] -/
def extCap (p : Nat) (r : Sys2Proof.CfgReg) (id : Nat) : Nat := id + 2 ^ 16 + cfgOpen p r 20 12

/-- Lane margining answers a command that asks for nothing with the same bits; any other answer is the receiver's. [log 2: DESIGN
CHOICE; 9: PRESUMED] -/
def Chip.marginWord (s : Chip) (x : Nat) : Nat := x + (if x = 0x9C38 then x else s.free % 2 ^ 16) * 2 ^ 16

/-- What configuration space shows: the registers of Table 14.1's capabilities, as the base specification lays them out. [log 2:
DESIGN CHOICE; 9: PRESUMED] -/
def Chip.cfgRead (s : Chip) (p : Nat) (r : Sys2Proof.CfgReg) : Word :=
  let h := s.host p
  let b := fun (x : Bool) (i : Nat) => if x then 2 ^ i else 0
  let x := h.cfgAt r
  BitVec.ofNat 32 (match r with
  | .ids => (s.reg HOST_PCI_ID).toNat
  -- status: a capability list, no other feature
  | .command => h.cmd + b (s.on (HOST_STATUS_BME p)) 2 + 0x100000
  | .classCode => 0x118000 * 256 + cfgOpen p r 0 8
  | .bar k => (tabGet (fun _ => 0) h.bars k.val).toNat + (if k.val = 0 ∨ k.val = 2 then 4 else 0)
  -- version 3; no D1, D2 or PME
  | .powerCap => 0x30001 + cfgOpen p r 8 8
  | .power => (if h.d3 then 3 else 0) + 8
  | .msixControl => (63 + b (s.on (HOST_STATUS_FN_MASK p)) 14 + b (s.on (HOST_STATUS_MSIX_EN p)) 15) * 2 ^ 16 + 0x11 + cfgOpen p r 8 8
  | .msixTable => 0x61000
  | .msixPba => 0x62000
  -- version 2, an endpoint
  | .expressCap => 0x20010 + cfgOpen p r 8 8
  -- 256 bytes, role-based error reporting, function level reset
  | .deviceCap => 0x10008001
  -- 16.0 GT/s, ×4, no ASPM
  | .linkCap => 0x400044 + cfgOpen p r 24 8
  | .linkControl => x + (s.get (HOST_STATUS_SPEED p) % 16 + s.get (HOST_STATUS_WIDTH p) % 64 * 16) * 2 ^ 16 + cfgOpen p r 28 1
  -- 10-bit tag completer
  | .deviceCap2 => 0x10000
  -- 2.5 to 16.0 GT/s
  | .linkCap2 => 0x1E
  | .linkControl2 => x + s.free % 2 ^ 16 * 2 ^ 16
  | .aerCap => extCap p r 1
  | .aerStatus => h.aer
  | .aerControl =>
    let c := s.on HOST_PCIE_CFG_ECRC
    h.aerFirst % 32 + b c 5 + b h.ecrcGen 6 + b c 7 + b h.ecrcCheck 8
  | .aerHeader _ => s.free
  | .serialCap => extCap p r 3
  | .serialLow => s.get PKG_SERIAL_SERIAL
  | .serialHigh => s.get PKG_SERIAL_SERIAL / 2 ^ 32
  | .secondaryCap => extCap p r 0x19
  | .phyCap => extCap p r 0x26
  | .phyStatus => x + s.free % 16
  | .marginCap => extCap p r 0x27
  | .marginPort => s.free % 2 * 2 ^ 16
  | .margin _ => s.marginWord x
  | .laneEq _ | .phyEq | .other _ => cfgOpen p r 0 32
  | .cacheLine | .interruptLine | .deviceControl | .deviceControl2 | .aerMask | .aerSeverity | .aerCorrStatus | .aerCorrMask
  | .linkControl3 | .laneErrors | .phyParity _ => x)

/-- A configuration read; what the spec does not give of a register is a free value. [log 11: DESIGN CHOICE] -/
def execPcieConfigRead (p : Fin 2) (r : CfgReg) (s : State) : Host.Outcome State Fault Refusal :=
  s.act fun c => if c.hostUp p then (c.complete p 0 [c.cfgRead p r]).took else c

/-- What a configuration write changes. Device Control's bit 15 begins a function level reset, which finds no TLP in flight.
[log 9: PRESUMED] -/
def Chip.cfgWrite (s : Chip) (p : Nat) (r : Sys2Proof.CfgReg) (v : Word) : Chip :=
  let x := v.toNat
  match r with
  | .command => (s.modHost p (fun h => { h with cmd := x &&& cmdMask })).setB (HOST_STATUS_BME p) (maskBit x 2)
  | .bar k => s.modHost p (fun h => { h with bars := tabPut (fun _ => 0) h.bars k.val (v &&& BitVec.ofNat 32 (barMask k.val)) })
  | .power => if x % 4 = 3 then s.hostPower p true else if x % 4 = 0 then s.hostPower p false else s
  | .msixControl => (s.setB (HOST_STATUS_FN_MASK p) (maskBit x 30)).setB (HOST_STATUS_MSIX_EN p) (maskBit x 31)
  | .aerStatus => s.modHost p (fun h => { h with aer := (BitVec.ofNat 32 h.aer &&& ~~~v).toNat })
  | .aerControl =>
    let c := s.on HOST_PCIE_CFG_ECRC
    (s.modHost p (fun h => { h with ecrcGen := c && maskBit x 6, ecrcCheck := c && maskBit x 8 })).showEcrc p
  | .deviceControl =>
    let t := s.modHost p (fun h => h.cfgSet .deviceControl x)
    if maskBit x 15 then t.flrBegin p 0 else t
  | r => if (cfgRule r).rw = 0 ∧ (cfgRule r).w1c = 0 then s else s.modHost p (fun h => h.cfgSet r x)

/-- See [log 11: DESIGN CHOICE]. -/
def execPcieConfigWrite (p : Fin 2) (r : CfgReg) (v : Word) (s : State) : Host.Outcome State Fault Refusal :=
  s.act fun c => if c.hostUp p then (c.cfgWrite p r v).complete p 0 [] else c

/-- AtomicOp, locked read, I/O request: Unsupported Request. [log 14: DEDUCED] -/
def Chip.unsupported (s : Chip) (p : Nat) : Chip :=
  ((s.complete p 1 []).aerSet p aerUnsupported).bump (HOST_UR_CNT_COUNT p)

def execPcieUnsupportedRequest (p : Fin 2) (s : State) : Host.Outcome State Fault Refusal :=
  s.act fun c => if c.hostUp p then c.unsupported p else c

end Sys2Proof.Machine
end

