-- ==== Sys2Proof/Machine/Fault.lean ====
section
/-!
DEFINITION. Machine/Fault.lean: live dies, the fabric, partitions, leases, the captain's role, sidelining and covering
(spec/13_in_service_operation.md, R350 to R356, R360 to R369; spec/09_element_links.md, R269).
-/

namespace Sys2Proof.Machine

def Chip.modRejoin (s : Chip) (d : Nat) (f : RejoinRec → RejoinRec) : Chip :=
  s.modFault (fun r => { r with rejoins := tabPut (fun _ => {}) r.rejoins d (f (s.rejoin d)) })

/-! ### Update states (Table 13.7) -/

abbrev updIdle : Nat := 0
abbrev updVerifying : Nat := 1
abbrev updVerified : Nat := 2
abbrev updRefused : Nat := 3
abbrev updReloading : Nat := 4
abbrev updReloaded : Nat := 5
abbrev updCommitting : Nat := 6
abbrev updDone : Nat := 7
abbrev updStopped : Nat := 8
abbrev updFailed : Nat := 9

/-! ### Live dies, hops, parts (R350, R362, R366 to R368) -/

def Chip.isLost (s : Chip) (d : Nat) : Bool := maskBit s.fault.lost d

/-- Die `d` toggles its heartbeat line: it is populated, not in reset, not lost, and has the tick grid. -/
def Chip.live (s : Chip) (d : Nat) : Bool :=
  decide (d < s.dieCount) && s.service d != svcAbsent && !(s.die d).inReset && !s.isLost d
    && !((s.rejoin d).on && s.syn d != synLocked)

/-- The two sites of hop `h`. -/
def Chip.hopEnds (s : Chip) (h : Nat) : Nat × Nat := (h, (h + 1) % s.dieCount)

/-- Hop `h` works between two live dies. -/
def Chip.hopOk (s : Chip) (h : Nat) : Bool :=
  !maskBit s.fault.hopFail h && s.live (s.hopEnds h).1 && s.live (s.hopEnds h).2

/-- The sites reached from a set of sites over one more hop each. -/
def Chip.spread (s : Chip) (m : Nat) : Nat :=
  s.dieList.foldl (fun m h =>
    let e := s.hopEnds h
    if s.hopOk h && (maskBit m e.1 || maskBit m e.2) then maskSet (maskSet m e.1) e.2 else m) m

/-- The part of die `d`: the live dies that it can reach, itself included. [log 81: DESIGN CHOICE] -/
def Chip.partFrom (s : Chip) (d : Nat) : Nat :=
  if s.live d then s.dieList.foldl (fun m _ => s.spread m) (maskSet 0 d) else 0

/-- Live dies that are neither rejected nor absent, and how many of them a part holds. -/
def Chip.voters (s : Chip) : List Nat := s.dieList.filter (fun d => s.live d && decide (s.service d ≤ svcSidelined))
def Chip.votes (s : Chip) (part : Nat) : Nat := (s.voters.filter (maskBit part)).length

/-- The captain holds quorum. -/
def Chip.quorum (s : Chip) : Bool :=
  s.live s.captain && decide (s.voters.length ≤ 2 * s.votes (s.partFrom s.captain))

/-- An F1 fault for every die of a list that starts or is in service. -/
def Chip.f1All (s : Chip) (l : List Nat) (src : Nat) : Chip :=
  s.each (l.filter s.open) fun d t => t.raiseF1 d src

/-- The captain releases its leases. -/
def Chip.releaseRole (s : Chip) : Chip := s.each captainLeases fun k t => t.leaseFree k

/-- The part that a vice-captain cut off from the captain goes on with: more than half of the live dies are in it (R362). -/
def Chip.vicePart (s : Chip) : Nat :=
  let m := s.partFrom s.vice
  if s.hasVice ∧ s.open s.vice ∧ !maskBit m s.captain ∧ s.voters.length < 2 * s.votes m then m else 0

/-- The parts are looked at anew: a partition begins or ends, or the captain loses quorum: then its part is sidelined, and every
part but the one that a vice-captain takes over. -/
def Chip.partCheck (s : Chip) : Chip :=
  let part := s.partFrom s.captain
  let s := s.set FAB_STATUS_REACH part
  if !s.live s.captain then s
  else
    -- a rejected die that is live belongs to a part as well
    let out := s.dieList.filter (fun d => s.live d && !maskBit part d)
    let s := if out.isEmpty then s.set FAB_STATUS_PARTITION 0
      else if s.on FAB_STATUS_PARTITION then s
      else ((s.set FAB_STATUS_PARTITION 1).raise FAB_EVENTS_PARTITION).raiseF0 FAULT_F0_EVENTS_PARTITION 0x02
        (s.get FAB_STATUS_HOP_FAIL)
    if s.quorum then s.f1All out 0x17
    else if !s.open s.captain then s
    else
      let stays := s.vicePart
      let s := (s.raiseF0 FAULT_F0_EVENTS_PARTITION 0x02 (s.get FAB_STATUS_HOP_FAIL)).releaseRole
      s.f1All (s.dieList.filter (fun d => s.live d && !maskBit stays d)) 0x17

/-! ### Hops (R366, R367) -/

/-- The last site that a walk over working hops from site `x` reaches, upward or downward. [log 81: DESIGN CHOICE] -/
def Chip.walk (s : Chip) (up : Bool) : Nat → Nat → Nat
  | 0, x => x
  | fuel + 1, x =>
    let h := if up then x else (x + s.dieCount - 1) % s.dieCount
    if maskBit s.fault.hopFail h then x
    else s.walk up fuel (if up then (x + 1) % s.dieCount else h)

/-- FAB_STATUS shows the failed hops and the wrap. [log 81: DESIGN CHOICE] -/
def Chip.showFabric (s : Chip) : Chip :=
  let m := s.fault.hopFail
  let s := (s.set FAB_STATUS_HOP_FAIL m).setB FAB_STATUS_WRAPPED (m != 0)
  if m = 0 then (s.set FAB_STATUS_WRAP_A 0).set FAB_STATUS_WRAP_B 0
  else (s.set FAB_STATUS_WRAP_A (s.walk true 8 s.captain)).set FAB_STATUS_WRAP_B (s.walk false 8 s.captain)

/-- Hop `h` fails: its ends wrap the rings. -/
def Chip.hopFails (s : Chip) (h : Nat) : Chip :=
  if maskBit s.fault.hopFail h then s
  else
    let s := ((s.raise FAB_EVENTS_HOP_FAILED).bump FAB_HOP_FAIL_CNT_COUNT).logF3 FAB_EVENTS
    let s := s.modFault (fun r => { r with hopFail := maskSet r.hopFail h })
    (s.showFabric.raise FAB_EVENTS_WRAP).partCheck

/-- The bytes of a flit that its CRC covers (Table 13.4). [log 81: DESIGN CHOICE] -/
def flitBytes (f : Sys2Proof.Flit) : List Nat :=
  [f.type.toNat, f.route.toNat] ++ bytesLE 2 f.seq.toNat ++ (f.payload.map BitVec.toNat ++ List.replicate 26 0).take 26

/-- The CRC of a flit verifies. -/
def flitOk (f : Sys2Proof.Flit) : Bool := crc16 (flitBytes f) == f.crc.toNat

/-- How often in a row the flit due has been replayed already. -/
def Chip.replayed (s : Chip) (k seq : Nat) : Nat :=
  match tabGet (fun _ => none) s.fault.replays k with
  | some (q, n) => if q = seq then n else 0
  | none => 0

/-- The flit due in a ring direction of a hop fails its CRC: it is asked for again, unless it has been replayed RETRY_MAX times
in a row (R366). [log 81: DESIGN CHOICE] -/
def Chip.flitFail (s : Chip) (r : Sys2Proof.FlitRx) : Chip :=
  let k := 2 * r.hop + (if r.up then 1 else 0)
  let n := s.replayed k r.next.toNat
  let s := (s.bump FAB_CRC_CNT_COUNT).bump (FAB_HOP_CRC_CNT_COUNT r.hop)
  let note := fun (t : Chip) (x : Option (Nat × Nat)) => t.modFault (fun f => { f with replays := tabPut (fun _ => none) f.replays k x })
  if s.get FAB_CFG_RETRY_MAX ≤ n then (note s none).hopFails r.hop
  else (note ((s.bump FAB_RETRY_CNT_COUNT).bump (FAB_HOP_RETRY_CNT_COUNT r.hop)) (some (r.next.toNat, n + 1))).raise FAB_EVENTS_RETRY

/-- A flit on a failed hop is on no ring. -/
def execFlitCrcFail (r : FlitRx) (s : State) : Host.Outcome State Fault Refusal :=
  s.act fun c => if r.hop.val < c.dieCount ∧ !maskBit c.fault.hopFail r.hop ∧ !flitOk r.flit then c.flitFail r else c

def execHopFailure (h : Fin 8) (s : State) : Host.Outcome State Fault Refusal :=
  s.act fun c => if h.val < c.dieCount then c.hopFails h else c

/-- A failed hop has retrained with a count of errors: it unwraps at the next boundary. -/
def Chip.hopRetrained (s : Chip) (h errors : Nat) : Chip :=
  if maskBit s.fault.hopFail h ∧ errors = 0 ∧ s.on FAB_CFG_AUTO_UNWRAP then
    s.modFault (fun r => { r with unwrapAt := some (maskSet ((r.unwrapAt.map (·.1)).getD 0) h, s.tick + 1) })
  else s

def execHopRetrain (h : Fin 8) (errors : Nat) (s : State) : Host.Outcome State Fault Refusal :=
  s.act fun c => if h.val < c.dieCount then c.hopRetrained h errors else c

/-- A boundary at which the ring master joins passed hops to the rings again; one that has stopped using its lease waits (R360). -/
def Chip.unwrap (s : Chip) : Chip :=
  match s.fault.unwrapAt with
  | some (m, b) =>
    if b ≤ s.tick ∧ !s.leaseStopped 2 then
      let s := s.modFault (fun r => { r with unwrapAt := none, hopFail := r.hopFail &&& (255 - m % 256) })
      (s.showFabric.raise FAB_EVENTS_UNWRAP).partCheck
    else s
  | none => s

/-! ### Leases (R360, R361) -/

/-- A session not held on HP1 ends with its lease (Table 13.3). -/
def Chip.sessLapse (s : Chip) : Chip := if s.sec.sess.isSome ∧ !s.holdsSession 1 then s.sessEnd endDie else s

/-- Lease `k` lapses. -/
def Chip.lapse (s : Chip) (k : Nat) : Chip :=
  if (s.fault.leases.getD k {}).held then
    let s := ((s.leaseFree k).bump FAULT_LEASE_LAPSE_CNT_COUNT).raise FAULT_EVENTS_LEASE_LAPSE
    if k = 5 then s.sessLapse else s
  else s

/-- The arbiter of a lease is in service: the vice-captain, the die at site 0, the die at site 1. Before S0 no die is, and one
whose block is open arbitrates. [log 60: DESIGN CHOICE] -/
def Chip.arbiter (s : Chip) (k : Nat) : Bool :=
  let up := fun (d : Nat) => if s.started then s.inService d else s.open d
  if k = 3 then up 0 else if k = 4 then up 1 else s.hasVice && up s.vice

/-- A renewal of lease `k` reaches its arbiter; one of a flash port that the captain still uses takes a lapsed lease again, and the
operation resumes from the last block that verified (Table 13.3). [log 60: DESIGN CHOICE] -/
def Chip.renew (s : Chip) (k : Nat) : Chip :=
  if !s.arbiter k then s
  else if (s.fault.leases.getD k {}).held then s.modLease k (fun l => { l with renewed := s.upNs, stopped := false })
  else if 3 ≤ k ∧ k < 5 ∧ s.flashUse (k - 3) then s.grant k s.captain
  else s

/-- A lease whose arbiter is lost or sidelined passes to self-holding: its holder goes on using the resource (R361). -/
def Chip.selfHold (s : Chip) : Chip :=
  s.each (List.range 6) fun k t => if t.arbiter k then t else t.modLease k (fun l => { l with stopped := false })

/-- A lease that held itself comes under an arbiter again: its 50 µs begin now (R361). `was`: the leases arbitrated before. [log 60:
DESIGN CHOICE] -/
def Chip.arbiterBack (s : Chip) (was : List Nat) : Chip :=
  s.each ((List.range 6).filter (fun k => s.arbiter k && !was.contains k)) fun k t => t.modLease k (fun l => { l with renewed := t.upNs })

def execLeaseRenewal (k : Fin 6) (t : Nat) (s : State) : Host.Outcome State Fault Refusal :=
  s.act fun c => (c.at t).renew k

/-- 45 µs without an acknowledgement: the holder stops using the resource. [log 60: DESIGN CHOICE] -/
def Chip.leaseStop (s : Chip) (k : Nat) : Chip :=
  let l := s.fault.leases.getD k {}
  if l.held ∧ s.arbiter k ∧ l.renewed + 45000 ≤ s.upNs then s.modLease k (fun l => { l with stopped := true }) else s

def execLeaseHolderStop (k : Fin 6) (t : Nat) (s : State) : Host.Outcome State Fault Refusal :=
  s.act fun c => (c.at t).leaseStop k

/-! ### The captain's role (R362 to R364) -/

/-- Die `v` becomes captain; the flash ports that the old captain read pass with the role (R311). [log 76: DESIGN CHOICE] -/
def Chip.takeRole (s : Chip) (v : Nat) : Chip :=
  let old := s.captain
  let s := (s.setRoles v none).set TIME_STATUS_SERVO v
  let s := if s.started then s.each captainLeases fun k t => t.grant k v else s
  let s := s.each [3, 4] fun k t =>
    let l := t.fault.leases.getD k {}
    if (if l.held then l.holder = old else t.flashUse (k - 3)) then t.grant k v else t
  let s := (s.raise FAULT_EVENTS_TAKEOVER).bump FAULT_TAKEOVER_CNT_COUNT
  -- the new captain's servo goes on from the last D distributed with its own estimates (R212)
  (s.modTime (fun r => { r with
    tickOut := false, ppsOut := none, d := r.dSent
    doms := tabMap (fun _ => {}) (fun _ x => { x with fEst := x.fVice, fVice := x.fEst }) r.doms })).showFuses

/-- The load of an image starts again from the headers under a new captain (R311). -/
def Chip.imageAgain (s : Chip) : Chip :=
  if !s.started ∧ s.imgSt < imgLoaded then
    let s := match s.image.slot with
      | some slot => s.leaseFree (3 + slot)
      | none => s
    (s.set IMG_STATUS_STATE imgHeaders).modImage (fun r => { r with slot := none, cands := 0, tried := 0 })
  else s

/-- A captain loss (R363): the captain is lost, or sidelined by an F1 fault. [log 76: DESIGN CHOICE] -/
def Chip.captainLoss (s : Chip) (lost : Bool) : Chip :=
  let old := s.captain
  let s := s.commitLost
  let s := s.each captainLeases fun k t => t.lapse k
  let s := s.sessLapse
  let v := s.vice
  let own := s.votes (s.partFrom v)
  let all := s.voters.length
  if s.hasVice ∧ s.open v ∧ (if lost then all ≤ 2 * own else all < 2 * own) then
    let s := s.raiseF0 FAULT_F0_EVENTS_CAPTAIN_LOST 0x03 old
    ((s.takeRole v).volTakeover).imageAgain.partCheck
  else s.pinsLow

/-- The planned handover at A (R364). [log 76: DESIGN CHOICE] -/
def Chip.handover (s : Chip) : Chip :=
  if s.hasVice ∧ s.inService s.vice then s.takeRole s.vice else s

/-- Boundary A of an ordered sideline of the captain has come. -/
def Chip.handoverDue (s : Chip) : Bool :=
  match s.fault.sideAt with
  | some (d, a, _) => d == s.captain && decide (a ≤ s.comingB)
  | none => false

def execPlannedHandover (s : State) : Host.Outcome State Fault Refusal :=
  s.act fun c => if c.handoverDue then c.handover else c

/-- The captain's leases have lapsed; before S0, where it holds none, that of the flash port from which it loads (R311). `k` is the
lease that lapses. -/
def Chip.roleLapsed (s : Chip) (k : Nat) : Bool :=
  if s.started then captainLeases.all (fun j => !(s.fault.leases.getD j {}).held)
  else (k == 3 || k == 4) && decide (s.imgSt < imgLoaded) && s.image.slot == some (k - 3)

/-- Lease `k` lapses when its time is over or its holder is gone; when the captain's have all lapsed, a vice-captain
whose part holds more than half of the live dies takes the role. [log 60: DESIGN CHOICE; 76: DESIGN CHOICE] -/
def Chip.leaseLapse (s : Chip) (k : Nat) : Chip :=
  let l := s.fault.leases.getD k {}
  if l.held ∧ ((s.arbiter k ∧ l.renewed + 50000 ≤ s.upNs) ∨ s.isLost l.holder ∨ s.service l.holder = svcSidelined) then
    let s := s.lapse k
    let v := s.vice
    if s.roleLapsed k ∧ s.hasVice ∧ (if s.started then s.inService v else s.open v) ∧ s.voters.length < 2 * s.votes (s.partFrom v) then
      ((s.commitLost.takeRole v).volTakeover).imageAgain
    else s
  else s

def execLeaseLapse (k : Fin 6) (t : Nat) (s : State) : Host.Outcome State Fault Refusal :=
  s.act fun c => (c.at t).leaseLapse k

/-! ### Sidelining (R351, R354) -/

/-- The protected EFEs of die `d` whose primary port is enabled. -/
def Chip.coverEfes (s : Chip) (d : Nat) : List Nat := efes8.filter (fun e => s.isProt d e)

/-- Die `d` no longer covers anything. -/
def Chip.dropBench (s : Chip) (d : Nat) : Chip :=
  let s := ((s.set (DIE_COVER_H0_ACTIVE d) 0).set (DIE_COVER_H1_ACTIVE d) 0).set (DIE_STATUS_BENCH_USE d) 0
  s.each efes8 fun e t => t.set (ELINK_STATUS_COVERING d (8 + e)) 0

/-- The ports of a die that leaves service; one that still runs sends WARM frames where a backup die takes over. -/
def Chip.dropPorts (s : Chip) (d : Nat) (ordered : Bool) : Chip :=
  s.each ports16 fun p t =>
    if ordered ∧ p < 8 ∧ t.isProt d p ∧ t.el d p = elActive then t.portWarm d p else t.portOff d p

/-- A die's staged part is discarded but for the CH values of protected slots, which their mirrors hold (R38, R355). -/
def Chip.dropStagedPart (s : Chip) (d : Nat) : Chip :=
  let mine := (s.staged.map (·.1)).filter (fun a => decide (0x1000000 ≤ a) && dieOf a == d
    && !(decide (CH_CTRL d 0 ≤ a) && decide (a < CH_CTRL d 2048) && s.isProt d ((a - CH_CTRL d 0) / 0x8000)))
  let s := mine.foldl (fun t a => t.setStaged a none) s
  s.dropLive d

/-- Volleys that waited for a die which is required no longer. -/
def Chip.volsRecheck (s : Chip) : Chip :=
  s.each queueSlots fun q t => if t.vst q = vStaged ∧ t.get (VOL_Q_ARM_DIES q) ≠ 0 ∧ t.allArmed q then t.setVst q vArmed else t

/-- Die `d` has left service: what ends with it.  Its slots stop without leaving their states (R354). -/
def Chip.leave (s : Chip) (d : Nat) (ordered : Bool) : Chip :=
  let s := s.each calItems fun k t => t.calAbort d k 3
  let s : Chip := { s.dropBench d with slots := tabClear s.slots (d * 4096) ((d + 1) * 4096) }
  let s := ((s.dropPorts d ordered).ckoSideline d).set (DIE_ACTIVE_SLOTS d) 0
  let s := if d < 2 then (s.ethDrop d).hostDown d 0 endDie else s
  let s := (s.dropStagedPart d).each [3, 4] fun k t =>
    if (t.fault.leases.getD k {}).held ∧ (t.fault.leases.getD k {}).holder = d then t.lapse k else t
  let s := if s.commit.freezing ∧ s.inServiceDies.all (fun e => maskBit s.commit.acked e) then s.commitAccept else s
  let s := s.volsRecheck
  (if s.hasVice ∧ s.vice = d then s.setRoles s.captain none else s).selfHold

/-- An update in progress stops after the die that it reloads: die `d`, another, is sidelined by a fault (R374). -/
def Chip.updHit (s : Chip) (d : Nat) : Chip :=
  if s.fault.updState = updReloading ∧ s.fault.updDie ≠ some d then s.modFault (fun r => { r with updStop := true }) else s

/-- The order to cover die `d` is sent, unless one die is covered or about to be (R356). -/
def Chip.sendOrder (s : Chip) (d : Nat) : Chip :=
  let f := s.fault
  if (s.coverEfes d).isEmpty ∨ f.order.isSome ∨ f.coverAt.isSome ∨ f.covered.isSome then s
  else s.modFault (fun r => { r with order := some d })

/-- Who asked for the sideline (0 host, 1 host reload, 2 update) decides how the die comes back. -/
def Chip.sideFlags (s : Chip) (d : Nat) (op : Option Nat) : Chip :=
  s.modRejoin d (fun r => { r with
    byHost := op == some 0 || op == some 1, asked := op == some 1 || op == some 2, byUpdate := op == some 2
    on := false, loaded := false, ready := false })

/-- A host SIDELINE is complete. -/
def Chip.opDone (s : Chip) (result : Nat) : Chip := (s.set FAULT_DIE_STATUS_BUSY 0).set FAULT_DIE_STATUS_RESULT result

/-- The operation that has ordered a sideline of die `d`. -/
def Chip.sideOp (s : Chip) (d : Nat) : Option Nat :=
  match s.fault.sideAt with
  | some (e, _, op) => if e = d then some op else none
  | none => none

/-- Die `d` is sidelined: by an F1 fault or a loss already declared, or by an order whose boundary A has come. -/
def Chip.sideline (s : Chip) (d : Nat) (ordered : Bool) : Chip :=
  let op := s.sideOp d
  let s := if ordered then (if s.captain = d then s.handover else s).setService d svcSidelined else s
  let s := (s.modDie d (fun r => { r with sidelineDue := false })).sideFlags d op
  let s := s.modFault (fun r => { r with
    sideAt := if op.isSome then none else r.sideAt
    holdFrom := if ordered then tabPut (fun _ => 0) r.holdFrom d 0 else r.holdFrom
    coverAt := if !ordered && (r.coverAt.map (·.1)) == some d then none else r.coverAt })
  let s := s.leave d ordered
  let s := if !ordered ∧ s.captain = d then s.captainLoss (s.isLost d) else s
  let s := if ordered then s else (s.updHit d).sendOrder d
  if op = some 0 then s.opDone 0 else s

/-- Die `d` is due to be sidelined now: ordered or not. -/
def Chip.sideDue (s : Chip) (d : Nat) : Option Bool :=
  if (s.die d).sidelineDue then some false
  else match s.fault.sideAt with
    | some (e, a, _) => if e = d ∧ a ≤ s.comingB then some true else none
    | none => none

def Chip.sidelineDue (s : Chip) (d : Nat) : Chip :=
  match s.sideDue d with
  | some ordered => s.sideline d ordered
  | none => s

def execDieSideline (d : Fin 8) (s : State) : Host.Outcome State Fault Refusal :=
  s.act fun c => if d.val < c.dieCount then c.sidelineDue d else c

/-- A heartbeat line has not toggled: the die is lost (R350), be it that a failed rail holds a die in reset that no rule had
taken out of service. -/
def Chip.heartbeat (s : Chip) (d : Nat) : Chip :=
  if s.on PKG_ROLE_NEG_DONE ∧ (s.live d || (decide (d < s.dieCount) && (s.die d).inReset && decide (s.service d ≤ svcIn) && !s.isLost d))
  then
    let s := (s.modFault (fun r => { r with lost := maskSet r.lost d })).raise FAB_EVENTS_HB_LOST
    (s.raiseF1 d 0x16).selfHold.partCheck
  else s

/-- Die `d` reads back its own line in a state that it did not drive: it declares the same fault on itself (R350). -/
def Chip.ownLine (s : Chip) (d : Nat) (bad : Bool) : Chip := if bad ∧ s.live d ∧ s.open d then s.raiseF1 d 0x16 else s

def execHeartbeatMissed (d : Fin 8) (s : State) : Host.Outcome State Fault Refusal :=
  s.act fun c => c.heartbeat d

/-! ### Covering (R161, R162, R269, R352, R353, R355) -/

/-- The cover order reaches the covering dies after `ns`: A is the third boundary from now. -/
def Chip.coverOrder (s : Chip) (ns : Nat) : Chip :=
  match s.fault.order with
  | some d =>
    let s := s.modFault (fun r => { r with order := none, coverAt := some (d, s.tick + 3) })
    s.set FAB_PRIO_MAX_NS (min 65535 (max (s.get FAB_PRIO_MAX_NS) ns))
  | none => s

def execCoverOrder (ns : Nat) (s : State) : Host.Outcome State Fault Refusal :=
  s.act fun c => c.coverOrder ns

/-- The CH registers of 256 slots at `src` become those at `dst`. [log 80: DESIGN CHOICE] -/
def Chip.copyRegs (s : Chip) (src dst : Nat) : Chip :=
  let l := s.regs.filter (fun p => decide (src ≤ p.1) && decide (p.1 < src + 0x8000))
  l.foldl (fun t p => t.recPut (dst + (p.1 - src)) p.2.toNat) (s.clearRegs dst (dst + 0x8000))

/-- The staged values whose segment is still to come go with them (R355). [log 80: DESIGN CHOICE] -/
def Chip.moveStaged (s : Chip) (src dst : Nat) : Chip :=
  (s.stagedIn src (src + 0x8000)).foldl (fun t a =>
    (t.setStaged a none).setStaged (dst + (a - src)) (t.stagedOf a)) s

/-- Slot `sl` of die `d` goes on from a loop record and a standby record. -/
def Chip.takeRecords (s : Chip) (d sl : Nat) (l : LoopRecord) (r : StandbyRecord) : Chip :=
  let park := (s.slot d sl).parkWord
  let s := s.setSlot d sl {
    active := true, st := l.st, holdFrom := l.holdFrom, integ := l.integ, corr := l.corr, run := l.run,
    faultRun := l.faultRun, kickAt := l.kickAt, kick := r.kick, entry := r.entry, wVoid := true, since := s.nextB
    parkHeld := r.held.isSome, parkWord := r.held.getD park
    kickX := max 1 (r.kick.length + s.get (LP_CTRL_SETTLE d sl)) }
  let s := s.showState d sl r.state
  ((s.noteHop d sl 3).tempFresh d sl).captureLoop d sl none none

/-- Bench slot `p` of half `k` of die `b` takes channel (h, e, p): its records, or an enable (R162). [log 80: DESIGN CHOICE] -/
def Chip.benchSlot (s : Chip) (b k h e p : Nat) : Chip :=
  let sl := 2048 + 256 * k + p
  let c := h * 2048 + e * 256 + p
  if !s.on (CH_CTRL_EN b sl) then s
  else match tabGet (fun _ => none) s.loopRecs c, tabGet (fun _ => none) s.standbyRecs c with
    | some l, some r => s.takeRecords b sl l r
    | _, _ => s.enableSlot b sl

/-- A WARM port becomes ACTIVE at a switch-over (R269, R270). -/
def Chip.portAdopt (s : Chip) (d p : Nat) : Chip :=
  if s.el d p = elWarm then
    let s := ((s.setEl d p elActive).set (ELINK_STATUS_ADOPTING d p) 1).set (ELINK_STATUS_CAUSE d p) 0
    (s.modPort d p (fun r => { r with
      adoptLeft := 8, badRun := 0, parkDue := none, firstA := some (r.firstA.getD s.comingB), passedA := true })).startPass d p
  else s

/-- Fields of DIE_COVER of half `k`; BENCH_USE counts the halves that cover. -/
def Chip.setHalf (s : Chip) (b k : Nat) (on : Bool) (h e : Nat) : Chip :=
  let s := if k = 0 then ((s.setB (DIE_COVER_H0_ACTIVE b) on).set (DIE_COVER_H0_DIE b) h).set (DIE_COVER_H0_EFE b) e
    else ((s.setB (DIE_COVER_H1_ACTIVE b) on).set (DIE_COVER_H1_DIE b) h).set (DIE_COVER_H1_EFE b) e
  s.set (DIE_STATUS_BENCH_USE b) (s.get (DIE_COVER_H0_ACTIVE b) + s.get (DIE_COVER_H1_ACTIVE b))

/-- Registers of bench half `k` of die `b`, and of EFE `e` of die `h`. -/
def benchRegs (b k : Nat) : Nat := CH_CTRL b (2048 + 256 * k)
def efeRegs (h e : Nat) : Nat := CH_CTRL h (256 * e)

/-- EFE `e` of die `h` is covered by half `k` of die `b`. -/
def Chip.coverEfe (s : Chip) (b k h e : Nat) : Chip :=
  let s := s.setHalf b k true h e
  let s := (s.copyRegs (efeRegs h e) (benchRegs b k)).moveStaged (efeRegs h e) (benchRegs b k)
  let s := s.parkAll b (2048 + 256 * k)
  let s := s.each (List.range 256) fun p t => t.benchSlot b k h e p
  (s.set (ELINK_STATUS_COVERING b (8 + e)) 1).portAdopt b (8 + e)

/-- The EFEs of die `h` that die `b` backs and that are protected, with their bench halves (R20). -/
def Chip.benchPlan (s : Chip) (b h : Nat) : List (Nat × Nat) :=
  let es := (s.coverEfes h).filter (fun e => backupDie s.dieCount h e == b)
  (List.range es.length).zip es

/-- FAULT_HOLD records the boundaries that the elements held (R353). -/
def Chip.noteHold (s : Chip) (h a : Nat) : Chip :=
  let f := tabGet (fun _ => 0) s.fault.holdFrom h
  let n := if f = 0 then 0 else min 255 (a - (f - 1))
  (s.set FAULT_HOLD_LAST n).set FAULT_HOLD_MAX (max n (s.get FAULT_HOLD_MAX))

/-- Covering of die `h` starts at boundary `a`. -/
def Chip.coverDie (s : Chip) (h a : Nat) : Chip :=
  let s := s.modFault (fun r => { r with
    coverAt := none, covered := some h, order := if r.order = some h then none else r.order })
  let s := s.each (s.inServiceDies.filter (· != h)) fun b t =>
    t.each (t.benchPlan b h) fun x u => u.coverEfe b x.1 h x.2
  ((s.bump FAULT_COVER_CNT_COUNT).raise FAULT_EVENTS_COVER_START).noteHold h a

/-- At load boundary A − 1, before the volleys of that boundary. -/
def Chip.coverStart (s : Chip) : Chip :=
  match s.fault.coverAt with
  | some (h, a) => if a ≤ s.comingB then (s.sidelineDue h).coverDie h a else s
  | none => s

def execCoverStart (s : State) : Host.Outcome State Fault Refusal :=
  s.act fun c => c.coverStart

end Sys2Proof.Machine
end

