-- ==== Sys2Proof/Machine/Rejoin.lean ====
section
/-!
DEFINITION. Machine/Rejoin.lean: the host's operations on dies, rejoining, the hand-back, updates in service, service
status at each boundary, the fault log's reads (spec/13_in_service_operation.md, R347 to R349, R351, R357 to R359, R370
to R375).
-/

namespace Sys2Proof.Machine

/-! ### Host operations (R351, R359) -/

/-- See [log 78: DESIGN CHOICE]. -/
def Chip.updTo (s : Chip) (st cause : Nat) : Chip := s.modFault (fun r => { r with updState := st, updCause := cause })
def Chip.bootSlot (s : Chip) : Nat := s.get IMG_STATUS_BOOT_SLOT

/-- Die `d` has an enabled EFE that is not protected. -/
def Chip.hasUnprot (s : Chip) (d : Nat) : Bool := efes8.any (fun e => s.on (ELINK_CTRL_EN d e) && !s.isProt d e)

/-- A die other than `d` is sidelined. -/
def Chip.otherSidelined (s : Chip) (d : Nat) : Bool := s.dieList.any (fun e => e != d && s.service e == svcSidelined)

/-- Why a SIDELINE or RELOAD of die `d` is refused: the first cause that applies; 0 for none. [log 78: DESIGN CHOICE] -/
def Chip.sideCause (s : Chip) (d : Nat) : Nat :=
  if !s.inService d then 5
  else if s.otherSidelined d then 1
  else if s.fault.updState = updReloading ∨ s.fault.updState = updCommitting then 8
  else if s.captain = d ∧ !(s.hasVice && s.inService s.vice) then 2
  else if s.hasUnprot d ∧ !s.on FAULT_DIE_CTRL_FORCE then 3
  else 0

/-- An ordered sideline of die `d` is accepted: A is the first boundary at least 20 µs ahead (R352). -/
def Chip.orderSideline (s : Chip) (d op : Nat) : Chip :=
  s.modFault (fun r => { r with
    sideAt := some (d, s.boundary20, op)
    coverAt := if (s.coverEfes d).isEmpty then r.coverAt else some (d, s.boundary20) })

/-- A sidelined die resets itself and begins to rejoin (R357). -/
def Chip.rejoinBegin (s : Chip) (d : Nat) : Chip :=
  let was := s.die d
  if s.service d ≠ svcSidelined ∨ (s.rejoin d).on ∨ was.sidelineDue ∨ was.inReset then s
  else
    let t := (((s.wipeDie d false).setDie d
      { railsLow := was.railsLow, inReset := false, surveyDue := was.surveyDue }).fabReset d).fabBack d
    let t := t.setService d svcSidelined
    let t := t.modFault (fun r => { r with lost := maskClear r.lost d, holdFrom := tabPut (fun _ => 0) r.holdFrom d 0 })
    let t := t.modRejoin d (fun r => { r with
      on := true, loaded := false, ready := false, starts := r.starts ++ [s.upNs / 1000000000] })
    t.bump (FAULT_DIE_REJOIN_CNT d)

/-- A write of FAULT_DIE_CTRL takes effect. [log 79: DESIGN CHOICE] -/
def Chip.dieCtrl (s : Chip) (v : Word) : Chip :=
  let x := v.toNat
  let s := ((s.set FAULT_DIE_CTRL_FORCE (bitsOf x 30 1)).set FAULT_DIE_CTRL_OP (bitsOf x 24 2)).set FAULT_DIE_CTRL_DIE (x % 8)
  let op := bitsOf x 24 2
  let d := x % 8
  if !maskBit x 31 || s.on FAULT_DIE_STATUS_BUSY || op == 3 then s
  else
    let c := if op = 1 then (if d < s.dieCount ∧ s.service d = svcSidelined then 0 else 4) else s.sideCause d
    let s := (s.set FAULT_DIE_STATUS_DIE d).set FAULT_DIE_STATUS_RESULT c
    if c ≠ 0 then s
    else
      let s := s.set FAULT_DIE_STATUS_BUSY 1
      if op = 1 then (s.modRejoin d (fun r => { r with asked := true })).rejoinBegin d
      else s.orderSideline d (if op = 0 then 0 else 1)

/-- A write with a given OP. -/
def Chip.dieOp (s : Chip) (op : Nat) (v : Word) : Chip := if bitsOf v.toNat 24 2 = op then s.dieCtrl v else s

def execFaultDieSideline (v : Word) (t : Nat) (s : State) : Host.Outcome State Fault Refusal :=
  s.act fun c => (c.at t).dieOp 0 v
def execFaultDieReload (v : Word) (t : Nat) (s : State) : Host.Outcome State Fault Refusal :=
  s.act fun c => (c.at t).dieOp 2 v
def execFaultDieRejoin (v : Word) (t : Nat) (s : State) : Host.Outcome State Fault Refusal :=
  s.act fun c => (c.at t).dieOp 1 v

/-! ### Rejoining (R357, R359) -/

/-- Rejoins of die `d` in the last 24 hours. [log 60: DESIGN CHOICE] -/
def Chip.rejoins24 (s : Chip) (d : Nat) : List Nat := (s.rejoin d).starts.filter (fun t => decide (s.upNs / 1000000000 < t + 86400))

/-- The policy RESET has sidelined die `d` for a failure of the XO (R90). -/
def Chip.xoSidelined (s : Chip) (d : Nat) : Bool :=
  !(s.rejoin d).byHost && !(s.rejoin d).byUpdate && s.get (FAULT_DIE_CAUSE d) == 0x15

/-- A sidelined die may rejoin: asked for, or by itself (R359); the policy RESET resets it in any case (R90). [log 107: DEDUCED] -/
def Chip.mayRejoin (s : Chip) (d : Nat) : Bool :=
  (s.rejoin d).asked || s.xoSidelined d || (!(s.rejoin d).byHost && s.on FAULT_CFG_AUTO_REJOIN
    && decide ((s.rejoins24 d).length < s.get FAULT_CFG_REJOIN_MAX))

def execRejoinStart (d : Fin 8) (t : Nat) (s : State) : Host.Outcome State Fault Refusal :=
  s.act fun c => if d.val < c.dieCount ∧ c.mayRejoin d then (c.at t).rejoinBegin d else c

/-- The update stops, or the reload it waits for has failed. -/
def Chip.updEnd (s : Chip) (st cause : Nat) : Chip :=
  let s := (s.updTo st cause).modFault (fun r => { r with updTodo := [], updDie := none, updStop := false })
  if st = updFailed ∨ st = updRefused then s.raise FAULT_EVENTS_UPD_FAILED else s

/-- A step of the rejoin of die `d` fails; `cause` is the update's. [log 79: DESIGN CHOICE] -/
def Chip.rejoinFail (s : Chip) (d cause : Nat) : Chip :=
  if (s.rejoin d).on then
    let upd := (s.rejoin d).byUpdate
    let s := (s.raiseF1 d 0x18).raise FAULT_EVENTS_REJOIN_FAILED
    let s := s.modRejoin d (fun r => { r with on := false, asked := false, byUpdate := false, loaded := false, ready := false })
    let s := s.modFault (fun r => { r with returnAt := if (r.returnAt.map (·.1)) == some d then none else r.returnAt })
    let s := if s.on FAULT_DIE_STATUS_BUSY ∧ s.get FAULT_DIE_STATUS_DIE = d then s.opDone 6 else s
    if upd ∧ s.fault.updState = updReloading then s.updEnd updFailed cause else s
  else s

/-- See [log 79: DESIGN CHOICE]. -/
def execRejoinFailed (d : Fin 8) (s : State) : Host.Outcome State Fault Refusal :=
  s.act fun c => c.rejoinFail d 0

/-- The slot that die `d` takes, and the digest it must have. -/
def Chip.rejoinSlot (s : Chip) (d : Nat) : Nat := if (s.rejoin d).byUpdate then s.fault.updSlot else s.bootSlot
def Chip.rejoinDigest (s : Chip) (d : Nat) : List Nat :=
  if s.rejoinSlot d = s.bootSlot then s.image.booted else s.image.verified

/-- The cause with which a slot fails the rejoin of a die: absent, a bad block, another digest; 0 when it is good. -/
def Chip.rejoinCause (s : Chip) (d : Nat) : Nat :=
  let slot := s.rejoinSlot d
  if !s.slotReach slot then 10
  else if !(List.range (s.imgBlocks slot)).all (fun b => s.blockCrcOk slot b) then 5
  else if s.imgDigest slot != s.rejoinDigest d then 7
  else 0

/-- The values of an image that die `d` takes: those of its own block, and the kick profiles. -/
def partOfImage (d : Nat) (l : List ImgVal) : List ImgItem :=
  l.filterMap fun v => match v.item with
    | .reg a x =>
      if isKick a then some (.reg (dieBase d + relOf a) x)
      else if 0x1000000 ≤ a ∧ dieOf a = d then some (.reg a x) else none
    | .map e k m q => if e = d then some (.map e k m q) else none
    | _ => none

/-- A value takes its place on die `d` alone. -/
def Chip.partPut (s : Chip) (x : ImgItem) : Chip :=
  match x with
  | .reg a v => s.recPut a v
  | y => s.imgPut y

/-- Die `d` loads its part of the slot (R357 step 4). -/
def Chip.rejoinLoad (s : Chip) (d : Nat) : Chip :=
  let slot := s.rejoinSlot d
  let c := s.rejoinCause d
  if c ≠ 0 then s.rejoinFail d c
  else
    let l := s.imgVals slot
    let part := partOfImage d l
    let s := part.foldl (fun t x => t.partPut x) (s.clearRegs (CH_CTRL d 0) (CH_CTRL d 2048))
    let s := (s.loadLib d l).modImage (fun r => { r with running := tabPut (fun _ => 0) r.running d (slot + 1) })
    let s := s.modRejoin d (fun r => { r with loaded := true })
    -- the die runs the new image where this is the slot of the update, be it booted since (R375)
    let new := slot = s.fault.updSlot ∧ (slot ≠ s.bootSlot ∨ s.fault.updState = updDone)
    let s := s.modFault (fun r => { r with updMask := if new then maskSet r.updMask d else maskClear r.updMask d })
    s.imgEffects d (part.filterMap (fun x => match x with
      | .reg a _ => some a
      | _ => none))

/-- The hops of die `d` have retrained, and over one of them it reaches the captain (R357 step 3). [log 79: DESIGN CHOICE] -/
def Chip.hopsUp (s : Chip) (d : Nat) : Bool :=
  let n := s.dieCount
  let part := s.partFrom s.captain
  !maskBit s.fault.hopFail d && !maskBit s.fault.hopFail ((d + n - 1) % n)
    && (maskBit part ((d + 1) % n) || maskBit part ((d + n - 1) % n))

/-- A die checks, or checks and loads, its part of an image. -/
def execImageContentCheck (d : Fin 8) (s : State) : Host.Outcome State Fault Refusal :=
  s.act fun c => if (c.rejoin d).on then (if (c.rejoin d).loaded || !c.judged d || !c.hopsUp d || c.leaseStopped (3 + c.rejoinSlot d) then c
      else c.rejoinLoad d)
    else if d.val < c.dieCount then c.contentCheck d else c

/-! ### The hand-back (R358, R270) -/

/-- Every dirty mirror entry of die `d` goes back into its primary entry and its trim log; during an update only the
trim does, and with KEEP_TRIMS = 0 nothing. [log 78: DESIGN CHOICE] -/
def Chip.copyBack (s : Chip) (d : Nat) : Chip :=
  let upd := (s.rejoin d).byUpdate
  let ks := (s.dirty.map (·.1)).filter (fun k => homeOf s.dieCount (keyDie k) (k % 2 ^ 21 / 65536) == d)
  s.each ks fun k t =>
    let t : Chip := { t with dirty := tabPut (fun _ => false) t.dirty k false }
    match t.otherCopy k with
    | none => t
    | some o =>
      if upd ∧ !t.on UPD_CTRL_KEEP_TRIMS then t
      else
        let f := t.readEntry k
        match f.2 with
        | none => f.1
        | some v => f.1.homeCopy o v upd

/-- The mirrors of die `d`'s entries, and its own mirror region, are filled again. -/
def Chip.refill (s : Chip) (d : Nat) : Chip :=
  let s := s.each (s.coverEfes d) fun e t => t.fillMirror (backupDie t.dieCount d e) e
  s.each efes8 fun e t =>
    let h := homeOf t.dieCount d e
    if t.isProt h e && t.inService h then t.fillMirror d e else t

/-- The rejoin steps are done, the primary ports trained and SKEW accepted where it is enabled: trims replayed, mirrors
refreshed, R' picked. [log 79: DESIGN CHOICE] -/
def Chip.rejoinReady (s : Chip) (d : Nat) : Chip :=
  let r := s.rejoin d
  let skew := maskBit (s.get (CAL_STATUS_VALID d)) calSkew || !maskBit (s.get (CAL_CTRL_ITEM_EN d)) calSkew
    || !s.on (CAL_CTRL_EN d)
  let xo := !s.xoSidelined d || s.on (CLK_STATUS_XO_STABLE d)
  let ports := efes8.all (fun e => !s.on (ELINK_CTRL_EN d e) || !s.portUsable d e || s.elUp d e)
  if r.on ∧ r.loaded ∧ !r.ready ∧ s.syn d = synLocked ∧ ports ∧ skew ∧ xo then
    let s := if r.byUpdate ∧ !s.on UPD_CTRL_KEEP_TRIMS then s else s.replayTrims d
    let s := ((s.copyBack d).refill d).modRejoin d (fun r => { r with ready := true })
    s.modFault (fun r => { r with returnAt := some (d, s.boundary20) })
  else s

def execRejoinReady (d : Fin 8) (t : Nat) (s : State) : Host.Outcome State Fault Refusal :=
  s.act fun c => (c.at t).rejoinReady d

/-- The home slot of a channel takes its state back from bench slot `bs` of die `b`. -/
def Chip.homeSlot (s : Chip) (d sl b bs : Nat) : Chip :=
  if !s.on (CH_CTRL_EN d sl) then s
  else if (s.slot b bs).active then s.takeRecords d sl (s.loopRecordOf b bs) (s.standbyRecordOf b bs)
  else s.enableSlot d sl

/-- Port `p` of die `d` carries TICK frames with ADOPT from boundary `a` on, its first since the die came back. -/
def Chip.homePort (s : Chip) (d p a : Nat) : Chip :=
  (s.portAdopt d p).modPort d p (fun r => { r with firstA := some a, passedA := true })

/-- EFE `e` of die `d` takes its registers and slots back from half `k` of die `b` at boundary `a`.  An update keeps the CH values
of the image that the die has just taken (R372). [log 78: DESIGN CHOICE] -/
def Chip.homeEfe (s : Chip) (b k d e a : Nat) : Chip :=
  let s := if (s.rejoin d).byUpdate then s else s.copyRegs (benchRegs b k) (efeRegs d e)
  let s := ((s.moveStaged (benchRegs b k) (efeRegs d e)).homePort d e a).parkAll d (e * 256)
  s.each (List.range 256) fun p t => t.homeSlot d (e * 256 + p) b (2048 + 256 * k + p)

/-- Half `k` of die `b`, which covered EFE `e`, is free: its registers and slots are cleared, its port is WARM. -/
def Chip.freeHalf (s : Chip) (b k e : Nat) : Chip :=
  let lo := b * 4096 + 2048 + 256 * k
  let s : Chip := { s.clearRegs (benchRegs b k) (benchRegs b k + 0x8000) with slots := tabClear s.slots lo (lo + 256) }
  let s := (s.set (ELINK_STATUS_COVERING b (8 + e)) 0).setHalf b k false 0 0
  if s.elUp b (8 + e) then s.portWarm b (8 + e) else s

/-- Half `k` of die `b` hands EFE `e` back to its home die `d` at boundary `a`. -/
def Chip.handBackEfe (s : Chip) (b k d e a : Nat) : Chip := (s.homeEfe b k d e a).freeHalf b k e

/-- The halves of die `b` that cover EFEs of die `d`: half and EFE. -/
def Chip.halvesFor (s : Chip) (b d : Nat) : List (Nat × Nat) :=
  (if s.on (DIE_COVER_H0_ACTIVE b) && s.get (DIE_COVER_H0_DIE b) == d then [(0, s.get (DIE_COVER_H0_EFE b))] else [])
    ++ (if s.on (DIE_COVER_H1_ACTIVE b) && s.get (DIE_COVER_H1_DIE b) == d then [(1, s.get (DIE_COVER_H1_EFE b))] else [])

/-- EFE `e` of die `d`, which no die has covered, is served again from boundary `a` on (R358): its slots start as at a
start. -/
def Chip.serveAgain (s : Chip) (d e a : Nat) : Chip :=
  if s.el d e = elWarm then
    let s := (s.homePort d e a).parkAll d (e * 256)
    s.each ((s.enabledSlots d).filter (fun sl => decide (sl < 2048) && sl / 256 == e && !(s.slot d sl).active))
      fun sl t => t.enableSlot d sl
  else s

/-- The next die to reload, in the order given: none left, stopped, or its sideline is ordered (R371, R374). [log 78: DESIGN
CHOICE] -/
def Chip.updNext (s : Chip) : Chip :=
  let f := s.fault
  if f.updState ≠ updReloading then s
  else if f.updStop ∨ s.otherSidelined 8 ∨ f.sideAt.isSome then s.updEnd updStopped 0
  else match f.updTodo with
    | [] =>
      if f.updSlot = s.bootSlot then s.updEnd updStopped 0
      else (s.updEnd updReloaded 0).raise FAULT_EVENTS_UPD_DONE
    | d :: rest =>
      if !s.inService d ∨ (s.captain = d ∧ !(s.hasVice && s.inService s.vice)) then s.updEnd updStopped 0
      else (s.modFault (fun r => { r with updTodo := rest, updDie := some d })).orderSideline d 2

/-- Die `d` is back in service at boundary `a` (R358). -/
def Chip.handBack (s : Chip) (d a : Nat) : Chip :=
  let upd := (s.rejoin d).byUpdate
  let was := s.fault.covered == some d
  let arb := (List.range 6).filter s.arbiter
  let s := (s.copyBack d).setService d svcIn
  let cov := s.inServiceDies.flatMap (fun b => (s.halvesFor b d).map (fun x => (b, x.1, x.2)))
  let s := s.each cov fun x t => t.handBackEfe x.1 x.2.1 d x.2.2 a
  let s := s.each (efes8.filter (fun e => !cov.any (fun x => x.2.2 == e))) fun e t => t.serveAgain d e a
  let s := s.modRejoin d (fun r => ({ starts := r.starts } : RejoinRec))
  let s := s.modFault (fun r => { r with returnAt := none, covered := if r.covered = some d then none else r.covered })
  let s := (s.loadD d s.time.d).calEnter d
  let s := s.each ports16 fun p t => t.portStart d p
  let s := s.raise FAULT_EVENTS_REJOINED
  let s := if was then s.raise FAULT_EVENTS_COVER_END else s
  let s := (if d < 2 ∧ s.captain ≠ d ∧ !s.hasVice ∧ s.hasCaptain then s.setRoles s.captain (some d) else s).arbiterBack arb
  let s : Chip := match s.dieList.find? (fun e => s.service e == svcSidelined && !(s.coverEfes e).isEmpty) with
    | some e => s.sendOrder e
    | none => s
  let s := if s.on FAULT_DIE_STATUS_BUSY ∧ s.get FAULT_DIE_STATUS_DIE = d then s.opDone 0 else s
  if upd then s.updNext else s

/-- Load boundary R' − 1. -/
def Chip.coverReturn (s : Chip) : Chip :=
  match s.fault.returnAt with
  | some (d, a) => if a ≤ s.comingB then s.handBack d a else s
  | none => s

def execCoverReturn (s : State) : Host.Outcome State Fault Refusal :=
  s.act fun c => c.coverReturn

/-! ### Updates in service (R370 to R374) -/

/-- UPD_CTRL.VERIFY: the captain begins to read the slot. -/
def Chip.updVerify (s : Chip) : Chip :=
  let st := s.fault.updState
  if st = updVerifying ∨ st = updReloading ∨ st = updReloaded ∨ st = updCommitting then s
  else
    let slot := s.get UPD_CTRL_SLOT
    let s := (s.updTo updVerifying 0).grant (3 + slot) s.captain
    s.modFault (fun r => { r with updSlot := slot, updMask := if st = updDone then 0 else r.updMask })

/-- What an image changes that only a restart can change. -/
def Chip.incompatible (s u : Chip) : Bool :=
  u.get PKG_TICK_CFG_PERIOD != s.get PKG_TICK_CFG_PERIOD || u.get PKG_ORIGIN_SEC_SEC != s.get PKG_ORIGIN_SEC_SEC
    || u.get PKG_ORIGIN_NS_NS != s.get PKG_ORIGIN_NS_NS || u.protMask != s.protMask

/-- Why the slot is refused; 0 when it passes every check.  `ok`: nothing disturbed the read. -/
def Chip.updRefusal (s : Chip) (slot : Nat) (ok : Bool) : Nat :=
  if !s.slotReach slot then 10
  else if s.headerCause slot ≠ 0 then s.headerCause slot
  else if s.slotBlocks slot < s.imgBlocks slot then 6
  else if !ok || !(List.range (s.imgBlocks slot)).all (fun b => s.blockCrcOk slot b) then 5
  else if !s.imgKeyOk slot then 3
  else if !s.imgSigned slot then 7
  else if !s.layoutOk slot then 6
  else
    let l := s.imgVals slot
    match s.loadDies.findSome? (fun d => contentFault s.dieCount d s.captain l) with
    | some f => f.1
    | none => if s.incompatible (imgState s.dieCount l) then 11 else 0

/-- The verification ends. -/
def Chip.updVerifyDone (s : Chip) (ok : Bool) : Chip :=
  if s.fault.updState ≠ updVerifying ∨ !s.flashHeld s.fault.updSlot then s
  else
    let slot := s.fault.updSlot
    let c := s.updRefusal slot ok
    let s := s.leaseFree (3 + slot)
    if c = 0 then (s.updTo updVerified 0).modImage (fun r => { r with verified := s.imgDigest slot })
    else
      let s := if c = 3 ∨ c = 4 ∨ c = 7 then
          (s.auditAdd 4 2 (slot :: c :: (if c = 4 then [] else (s.imgDigest slot).take 32))).raise SEC_EVENTS_IMAGE_REFUSED else s
      s.updEnd updRefused c

def execUpdVerifyDone (ok : Bool) (s : State) : Host.Outcome State Fault Refusal :=
  s.act fun c => c.updVerifyDone ok

/-- The dies to reload, in order. [log 78: DESIGN CHOICE] -/
def Chip.updOrder (s : Chip) (l : List Nat) : List Nat :=
  let v := if s.hasVice then s.vice else s.captain
  l.filter (fun d => d != s.captain && d != v) ++ (if s.hasVice && l.contains v then [v] else [])
    ++ (if l.contains s.captain then [s.captain] else [])

/-- UPD_CTRL.GO: the verified slot, or after a stop the booted one. [log 78: DESIGN CHOICE] -/
def Chip.updGo (s : Chip) : Chip :=
  let f := s.fault
  let slot := s.get UPD_CTRL_SLOT
  let fwd := f.updState = updVerified ∧ slot = f.updSlot
  let back := f.updState = updStopped ∧ slot = s.bootSlot
  if fwd ∨ back then
    if s.inServiceDies.any s.hasUnprot ∧ !s.on UPD_CTRL_FORCE then s.modFault (fun r => { r with updCause := 12 })
    else
      let l := if fwd then s.inServiceDies else s.inServiceDies.filter (maskBit f.updMask)
      (((s.updTo updReloading 0).modFault (fun r => { r with updSlot := slot, updTodo := s.updOrder l })).updNext)
  else s

/-- UPD_CTRL.COMMIT. -/
def Chip.updCommit (s : Chip) : Chip :=
  if s.fault.updState = updReloaded then
    (s.updTo updCommitting 0).modFault (fun r => { r with updAt := some s.boundary20 })
  else s

/-- UPD_CTRL.ABORT. [log 78: DESIGN CHOICE] -/
def Chip.updAbort (s : Chip) : Chip :=
  if s.fault.updState = updReloaded then s.updEnd updStopped 0
  else if s.fault.updState = updReloading then s.modFault (fun r => { r with updStop := true })
  else s

/-- A write of UPD_CTRL takes effect. -/
def Chip.updCtrl (s : Chip) (v : Word) : Chip :=
  let x := v.toNat
  let s := ((s.set UPD_CTRL_FORCE (bitsOf x 2 1)).set UPD_CTRL_KEEP_TRIMS (bitsOf x 1 1)).set UPD_CTRL_SLOT (x % 2)
  let s := if maskBit x 31 then s.updVerify else s
  let s := if maskBit x 30 then s.updGo else s
  let s := if maskBit x 29 then s.updCommit else s
  if maskBit x 28 then s.updAbort else s

/-- A write whose command bit `b` is 1. -/
def Chip.updOp (s : Chip) (b : Nat) (v : Word) : Chip := if maskBit v.toNat b then s.updCtrl v else s

def execUpdVerify (v : Word) (t : Nat) (s : State) : Host.Outcome State Fault Refusal :=
  s.act fun c => (c.at t).updOp 31 v
def execUpdGo (v : Word) (t : Nat) (s : State) : Host.Outcome State Fault Refusal :=
  s.act fun c => (c.at t).updOp 30 v
def execUpdCommit (v : Word) (t : Nat) (s : State) : Host.Outcome State Fault Refusal :=
  s.act fun c => (c.at t).updOp 29 v
def execUpdAbort (v : Word) (t : Nat) (s : State) : Host.Outcome State Fault Refusal :=
  s.act fun c => (c.at t).updOp 28 v

/-- A package-block value of an image. -/
def ImgItem.isPkg : ImgItem → Bool
  | .reg a _ => decide (a < 0x1000000)
  | .pkg _ _ => true
  | .vol _ _ _ => true
  | .entry _ => true
  | _ => false

/-- The boundary of an update's commit: the package values and the schedule of the new image come into force (R373). [log 72:
DESIGN CHOICE] -/
def Chip.updLoad (s : Chip) : Chip :=
  match s.fault.updAt with
  | some c =>
    if c ≤ s.comingB then
      let slot := s.fault.updSlot
      let old := s
      let pk := ((s.imgVals slot).map (·.item)).filter ImgItem.isPkg
      let s := s.modFault (fun r => { r with updAt := none })
      let s := pk.foldl (fun t x => t.imgPut x) (s.modSched (fun r => { r with vols := [] }))
      let s := s.each s.loadDies fun d t =>
        t.modSched (fun r => { r with digests := tabPut (fun _ => []) r.digests d (t.schedDigest slot) })
      let s := ((s.slotShow old.bootSlot 1 0).showBooted slot).slotShow slot 2 0
      let s := (s.showSchedDigest).pkgEffects old c
      ((s.auditAdd 3 0 (s.loadedDetail slot)).updTo updDone 0).raise FAULT_EVENTS_UPD_DONE
    else s
  | none => s

/-! ### What each boundary captures (R348, R349, R375) -/

/-- The enabled EFEs as the fault manager knows them: those of the dies whose blocks are open, and the last known ones of
the others. -/
def Chip.seeEnabled (s : Chip) : Chip :=
  s.each (s.dieList.filter s.open) fun d t =>
    let m := efes8.foldl (fun m e => if t.on (ELINK_CTRL_EN d e) then maskSet m e else m) 0
    t.modFault (fun r => { r with enabled := putBits r.enabled (8 * d) 8 m })

/-- EFE `e` of die `d` is served: by its home die in service, or by a covering die; one whose covering is ordered
counts as served during the held ticks (R349). [log 77: DEDUCED] -/
def Chip.efeServed (s : Chip) (d e : Nat) : Bool :=
  s.inService d || (s.isProt d e && (s.fault.order == some d || (s.fault.coverAt.map (·.1)) == some d
    || (s.service d == svcSidelined && (s.die d).sidelineDue && s.fault.covered.isNone)
    || s.inServiceDies.any (fun b => (s.halvesFor b d).any (fun x => x.2 == e))))

/-- The enabled EFEs that nothing serves, as die × 8 + index. [log 77: DEDUCED] -/
def Chip.unservedNow (s : Chip) : List Nat :=
  (List.range (8 * s.dieCount)).filter (fun k => maskBit s.fault.enabled k && !s.efeServed (k / 8) (k % 8))

/-- EFEs newly unserved raise F2 faults. [log 77: DEDUCED] -/
def Chip.unservedCheck (s : Chip) : Chip :=
  let now := if s.fault.passedE then s.unservedNow else []
  let new := now.filter (fun k => !s.fault.unserved.contains k)
  (s.each new fun k t => t.raiseF2 0x25 (k / 8 * 256 + k % 8)).modFault (fun r => { r with unserved := now })

/-- A captain exists: in service, or lost in a takeover that is still to be carried out. -/
def Chip.captainOk (s : Chip) : Bool :=
  s.on PKG_ROLE_NEG_DONE && (s.inService s.captain || (s.die s.captain).sidelineDue) && (s.quorum || (s.die s.captain).sidelineDue)

/-- The package is in service (R349). -/
def Chip.packageUp (s : Chip) : Bool :=
  s.fault.passedE && s.captainOk && s.fault.unserved.isEmpty && s.lifecycle != 3

/-- NMI_N is pulled low while an F0 bit is 1, by the dies at sites 0 and 1 in service (R348). -/
def Chip.showNmi (s : Chip) : Chip :=
  s.modFault (fun r => { r with nmi := s.reg FAULT_F0_EVENTS != 0 && (s.inService 0 || s.inService 1) })

/-- F0 bits whose condition persists are set again (R348). -/
def Chip.f0Persist (s : Chip) : Chip :=
  let s := if s.dieList.any (fun d => s.on (CLK_STATUS_XO_FAIL d)) then s.raise FAULT_F0_EVENTS_XO_FAIL else s
  let s := if s.on FAB_STATUS_PARTITION then s.raise FAULT_F0_EVENTS_PARTITION else s
  (if s.sec.lockout then s.raise FAULT_F0_EVENTS_SECURITY else s).showNmi

/-- FAULT_LEASE from the leases. -/
def leaseWord (l : List Lease) : Nat :=
  (((List.range 6).zip l).map (fun p => 16 ^ p.1 * (if p.2.held then 8 + p.2.holder % 8 else 0))).sum

/-- The mask of the dies that satisfy a test. -/
def Chip.dieMask (s : Chip) (f : Nat → Bool) : Nat := (s.dieList.filter f).foldl maskSet 0

/-- The captures of a boundary. [log 66: DESIGN CHOICE] -/
def Chip.faultCapture (s : Chip) : Chip :=
  let s := s.modFault (fun r => { r with passedE := r.passedE || s.boundaryE })
  let s := s.seeEnabled.unservedCheck
  let s := s.set FAB_STATUS_REACH (s.partFrom s.captain)
  let was := s.on FAULT_STATUS_SOK
  let up := s.packageUp
  let s := s.showNmi
  let f := s.fault
  let s := ((s.setB FAULT_STATUS_SOK up).setB FAULT_STATUS_NMI f.nmi).setB FAULT_STATUS_QUORUM s.quorum
  let s := ((s.setB FAULT_STATUS_COVER_ACTIVE f.covered.isSome).setB FAULT_STATUS_UNSERVED !f.unserved.isEmpty).set
    FAULT_STATUS_COVERED_DIE (f.covered.getD 0)
  let s := (s.set FAULT_STATUS_SIDELINED (s.dieMask (fun d => s.service d == svcSidelined))).set FAULT_STATUS_LIVE (s.dieMask s.live)
  let s := s.set FAULT_LEASE_HOLDER (leaseWord f.leases)
  let s := ((s.set UPD_STATUS_STATE f.updState).set UPD_STATUS_CAUSE f.updCause).set UPD_STATUS_NEW_MASK f.updMask
  let s := (s.setB UPD_STATUS_MIXED (f.updMask != 0 && f.updState != updDone)).set UPD_STATUS_DIE (f.updDie.getD 0)
  let s := s.modFault (fun r => { r with sok := up && (s.inService 0 || s.inService 1) })
  if was ∧ !up then s.raise FAULT_EVENTS_SOK_DOWN else s

/-- The condition of boundary E has been met. -/
def execServiceOkRise (s : State) : Host.Outcome State Fault Refusal :=
  s.act fun c => if c.boundaryE ∧ !c.fault.passedE then c.faultCapture else c

/-! ### The fault log (R347) -/

/-- A read of FAULT_LOG_POP_LO: the oldest entry leaves the log. -/
def Chip.logPop (s : Chip) : Chip :=
  match s.faultLog with
  | [] => (s.setReg FAULT_LOG_POP_LO 0).setReg FAULT_LOG_POP_HI 0
  | (t, src, det) :: l =>
    ((({ s with faultLog := l } : Chip).setReg FAULT_LOG_POP_LO (BitVec.ofNat 32 t)).setReg FAULT_LOG_POP_HI
      (BitVec.ofNat 32 (2 ^ 31 + src % 128 * 2 ^ 24 + det))).set FAULT_LOG_STATUS_COUNT l.length

/-- The high half that a read of a low half latches for port `p` (R7). -/
def Chip.latchHigh (s : Chip) (p a : Nat) (v : Word) : Chip :=
  s.modHost p (fun r => { r with high := tabPut (fun _ => none) r.high a (some v) })

/-- The host reads FAULT_LOG_POP_LO through port `p`. -/
def Chip.readLogPop (s : Chip) (p : Nat) : Chip :=
  let s := s.logPop
  (s.latchHigh p FAULT_LOG_POP_LO (s.reg FAULT_LOG_POP_HI)).complete p 0 [s.reg FAULT_LOG_POP_LO]

def execFaultLogPop (p : Fin 2) (s : State) : Host.Outcome State Fault Refusal :=
  s.act fun c => if !c.hostUp p then c
    else if !c.memOn p then c.unsupported p
    else (c.readLogPop p).observe p false

end Sys2Proof.Machine
end

