-- ==== Sys2Proof/Machine/Tick.lean ====
section
/-!
DEFINITION. Machine/Tick.lean: the tick: what a boundary ends and begins, overruns, the step of the tick number, lock and
loss of the core (spec/01_package_and_tick.md, R23 to R31; spec/08_network_time.md, R213, R215, R229; R57 to R61).
-/

namespace Sys2Proof.Machine

/-! ### Lock and loss of the core (R54, R57 to R59, R96, R297, R357) -/

/-- The core of die `d` reaches LOCKED: a starting die enters service, a rejoining one trains its ports. -/
def Chip.coreLocked (s : Chip) (d : Nat) : Chip :=
  let was := s.inService d
  let s := s.lockDeclared d
  if !was ∧ s.inService d then
    let s := s.calEnter d
    if s.started then s.each ports16 fun p t => t.portStart d p else s
  else if s.rejoining d ∧ (s.rejoin d).loaded then (s.each ports16 fun p t => t.portStart d p).calWant d calSkew
  else s

/-- The core of die `d` goes through the reference cycles of the present tick up to the `n`-th, its ramp before it, as it moves by
itself (R49, R57, R58, R73). -/
def Chip.coreTo (s : Chip) (d n : Nat) (tdc : List TdcReading) : Chip :=
  Chip.coreRun (fun t => t.coreLocked d) (fun t => t.lockLost d) d (n + 1) (s.coreCycles d n tdc) s

/-- The same up to the last cycle that `tdc` reads. -/
def Chip.coreUpTo (s : Chip) (d : Nat) (tdc : List TdcReading) : Chip :=
  (Chip.rampGo d tdc.length tdc.length s).coreTo d tdc.length tdc

/-- A tick of `n` reference cycles: ramp, loop, phase steps (R49, R50, R63, R67, R68). [log 36: DESIGN CHOICE] -/
def Chip.synTick (s : Chip) (d n : Nat) (tdc : List TdcReading) : Chip :=
  (((s.rampRun d n).coreTo d n tdc).pstepMove d n).showDensity d

/-- Lock is declared where the readings meet R57; cycles that do not meet it declare nothing. -/
def execLockDeclared (m : CoreCycles) (s : State) : Host.Outcome State Fault Refusal :=
  s.act fun c => if c.runs m.die then c.coreUpTo m.die m.tdc else c

/-- Lock is lost where the readings meet R58. -/
def execLossOfLock (m : CoreCycles) (s : State) : Host.Outcome State Fault Refusal :=
  s.act fun c => if c.runs m.die then c.coreUpTo m.die m.tdc else c

/-- `tdc` holds the readings of the reference cycles of the present tick up to the detection. [log 36: DESIGN CHOICE] -/
def execLossOfReference (d : Fin 8) (tdc : List TdcReading) (off : Int) (s : State) : Host.Outcome State Fault Refusal :=
  s.act fun c => if c.runs d then (c.coreUpTo d tdc).refLost d off else c

def execBandHop (d : Fin 8) (fine : Nat) (s : State) : Host.Outcome State Fault Refusal :=
  s.act fun c => if c.runs d then (c.bandHop d fine).1 else c

/-! ### The end of a tick: steps 4 to 7 (R24) -/

/-- The active slots of die `d` in the order of R25. [log 34: DEDUCED] -/
def Chip.slotOrder (s : Chip) (d : Nat) : List Nat :=
  (s.activeSlots d).mergeSort (fun a b => decide (a % 256 * 4096 + a ≤ b % 256 * 4096 + b))

/-- The die composes the words of the coming tick: it did not overrun, and it does not repeat its frames because it runs
in bypass mode at the 500 ns tick (R29, R61). -/
def Chip.composes (s : Chip) (d : Nat) : Bool :=
  !(s.die d).overrun && !(s.bypassed d && s.get PKG_TICK_CFG_PERIOD == 0)

/-- Step 4 on every die in service. -/
def Chip.endWindows (s : Chip) : Chip :=
  s.each s.inServiceDies fun d t => t.each (t.activeSlots d) fun sl u => u.windowOnce d sl

/-- Slots whose CLEAR waits for step 5, and those whose drive word failed its parity in the tick before: die and slot. -/
def Chip.clearsDue (s : Chip) : List (Nat × Nat) :=
  (s.slots.filter (fun p => p.2.clearDue)).map (fun p => (p.1 / 4096, p.1 % 4096))
def Chip.badCopies (s : Chip) : List (Nat × Nat) :=
  (s.slots.filter (fun p => p.2.copyBad)).map (fun p => (p.1 / 4096, p.1 % 4096))

/-- Step 5 before the volleys: CLEAR, parks, covering, what the commit left to this step (R36, R142, R157, R266, R271).
[log 33: DEDUCED] -/
def Chip.stepFive (s : Chip) : Chip :=
  let s := s.each s.clearsDue fun x t => t.clearNow x.1 x.2
  let s := s.each s.badCopies fun x t => t.parityPark x.1 x.2
  let s := s.each s.inServiceDies fun d t => t.each ports16 fun p u => (u.unorderedPark d p).portPark d p
  (s.coverStart.coverReturn).commitSwitch

/-- Step 5: what waits for the coming boundary takes effect: parks, covering, the commit, volleys, starts. [log 33: DEDUCED] -/
def Chip.loadBoundary (s : Chip) : Chip :=
  let s := s.stepFive
  let s := s.each queueSlots fun q t => t.volLoad q
  let s := s.schedCatchup.schedLoad
  let s := s.deferred
  let s := s.each s.inServiceDies fun d t => t.each efes8 fun e u => if u.startDue d e then u.startEfe d e else u
  s.updLoad

/-- What a load boundary finds done: a due commit, the windows that end on the tick, step 5 before the volleys (R24, R36). -/
def Chip.openFive (s : Chip) : Chip := ((s.commitTick []).endWindows).stepFive

def execVolLoadBoundary (q : Fin 64) (s : State) : Host.Outcome State Fault Refusal :=
  s.act fun c => if c.volDue q then c.openFive.volLoad q else c

/-- An occurrence: armed at its deadline, applied at its load boundary. -/
def execSchedOccurrence (armed : BitVec 8) (t : Nat) (s : State) : Host.Outcome State Fault Refusal :=
  s.act fun c =>
    let u := (c.at t).schedArm armed.toNat
    (if u.schedDue.isEmpty then u else u.openFive.schedLoad).showSched

def execSchedCatchup (s : State) : Host.Outcome State Fault Refusal :=
  s.act fun c => if c.sched.skipped.any (fun e => decide (e.1 ≤ c.nextB)) then c.openFive.schedCatchup else c

/-- The slots with a hop at the coming boundary: die and slot. -/
def Chip.hopsDue (s : Chip) : List (Nat × Nat) :=
  (s.slots.filter (fun p => p.2.hopDue != 0)).map (fun p => (p.1 / 4096, p.1 % 4096))

/-- The slots of die `d` that step 6 reaches: all of them, those before the cut-off of an overrun, none where the frames are
repeated in bypass mode (R29, R61). -/
def Chip.composed (s : Chip) (d : Nat) : List Nat :=
  if s.composes d then s.activeSlots d
  else if (s.die d).overrun then (s.slotOrder d).take (s.die d).reached else []

/-- Step 6: the words of the coming tick `n`.  A current-entry copy that fails its parity makes its slot park (R157). -/
def Chip.composeAll (s : Chip) (n : Nat) (env : List Sys2Proof.DieTick) : Chip :=
  let s := s.each ((List.range env.length).zip env) fun x t =>
    if t.inService x.1 then t.each x.2.copies fun sl u => u.parityPark x.1 sl else t
  let s := s.each s.hopsDue fun x t => t.hopNow x.1 x.2
  s.each s.inServiceDies fun d t => t.each (t.composed d) fun sl u => u.compose d sl n

/-- The frames of the coming tick at port `p` are repeated: 1 in full form, 2 in short form, which counts (R264). -/
def Chip.repeatPort (s : Chip) (d p how : Nat) : Chip :=
  if !s.elUp d p then s
  else
    let s : Chip := { s with repeatNext := tabPut (fun _ => 0) s.repeatNext (d * 16 + p) how }
    if how = 2 then (s.bump (ELINK_REPEAT_CNT_COUNT d p)).raise (ELINK_EVENTS_REPEAT_SHORT d p) else s

/-- A drive word that fails its parity on the way into its frame ends the frame in short form, and its slot is handled in the
next tick (R323). -/
def Chip.badWord (s : Chip) (d sl : Nat) : Chip :=
  let p := s.slotPort d sl
  if (s.slot d sl).active then
    let s := s.modSlot d sl (fun r => { r with copyBad := true })
    if tabGet (fun _ => 0) s.repeatNext (d * 16 + p) = 0 then s.repeatPort d p 2 else s
  else s

/-- Step 7: the downlink frames of the coming tick `n`. -/
def Chip.sendFrames (s : Chip) (n : Nat) (env : List Sys2Proof.DieTick) : Chip :=
  let s := s.each ((List.range env.length).zip env) fun x t =>
    if t.inService x.1 then t.each x.2.words fun sl u => u.badWord x.1 sl else t
  let s := s.each s.inServiceDies fun d t =>
    if t.bypassed d ∧ t.get PKG_TICK_CFG_PERIOD = 0 then t.each ports16 fun p u => u.repeatPort d p 1 else t
  s.each (s.dieList.filter s.runs) fun d t => t.each ports16 fun p u => u.sendDown d p n

/-- Records to the backup dies: of every protected active slot, and of those that change state at the coming boundary. -/
def Chip.sendRecords (s : Chip) : Chip :=
  s.each s.inServiceDies fun d t => t.each ((t.activeSlots d).filter (· < 2048)) fun sl u =>
    let v := u.recvLoop (u.chanOf d sl)
    if (u.slot d sl).kickAt = u.nextB then v.recvStandby (u.chanOf d sl) else v

/-- Everything that the tick still has to do before its boundary; `n` is the number of the coming tick. [log 33: DEDUCED] -/
def Chip.finishTick (s : Chip) (n : Nat) (env : List Sys2Proof.DieTick) : Chip :=
  let s := s.volDeadlines.endWindows
  let s := s.each queueSlots fun q t => t.volReport q
  let s := s.loadBoundary
  let s := (s.composeAll n env).sendRecords
  -- a park word that the writes of the tick change goes out in the frame of the coming tick (R261)
  let s := s.each (s.dieList.filter s.runs) fun d t => t.libApply d
  ((s.sendFrames n env).trimTick env).snapCapture

/-! ### The boundary -/

/-- The marks of the tick that ends, on each die. -/
def Chip.closeTick (s : Chip) (d : Nat) : Chip :=
  let s := if (s.die d).overrun then s else s.set (DIE_OVERRUN_CNT_CONSEC d) 0
  s.modDie d (fun r => { r with overrun := false, reached := 0 })

/-- The boundary itself: the number of the tick and package time. -/
def Chip.advance (s : Chip) (n now : Nat) : Chip :=
  let s : Chip := { s with upTicks := s.upTicks + 1, moment := 0, libWrote := [], trimBack := [], repeatNext := [] }
  if s.started then
    ((s.set PKG_TICK_NUM_TICK n).modTime (fun r => { r with now := now, jumpTo := none })).placeClocks s.time.jumpTo.isSome
  else s

/-- The ENG_CLK cycles that the engine of die `d` used in the tick that ends: its work on 64 lanes, 4 lane-cycles for an active slot
in bypass mode and 6 otherwise, and the cycles for which it stalled (R26, R28, R61). [log 35: DESIGN CHOICE] -/
def Chip.cycles (s : Chip) (d stall : Nat) : Nat :=
  let per := if (s.die d).bypSeen then 4 else 6
  if s.started ∧ s.inService d then ceilDiv (512 + per * (s.activeSlots d).length + (s.die d).work) 64 + stall else stall

/-- The boundary at one die: what its signals showed, its core, ramp, outputs, calibration, ports and status. [log 35: DESIGN
CHOICE] -/
def Chip.dieTick (s : Chip) (d : Nat) (m : Sys2Proof.DieTick) (sec : Bool) : Chip :=
  let s := (s.setI (CAL_T_NOW_TEMP d) m.temp).storeTick d m.parity
  let s := (s.each m.ecc fun x t => t.storeLoses d x).ownLine d m.line
  let s := ((s.synTick d m.refs m.tdc).pstepBegin d).rampTick d
  let s := ((s.rampBegin d).ckoTick d).calTick d m.refs m.parity sec
  let s := s.each ports16 fun p t => t.portTick d p
  let load := min 65535 (s.cycles d m.load)
  let s := (s.tempAges d).modDie d (fun r => { r with work := 0 })
  let s := (s.set (DIE_LOAD_LAST d) load).set (DIE_LOAD_PEAK d) (max load (s.get (DIE_LOAD_PEAK d)))
  s.set (DIE_ACTIVE_SLOTS d) (s.activeSlots d).length

/-- What one second adds: service time, rejoins of the last 24 hours. -/
def Chip.second (s : Chip) : Chip :=
  let s := if s.on FAULT_STATUS_SOK then s.bump FAULT_UPTIME_SEC
    else if s.fault.passedE then s.bump FAULT_SOK_DOWN_SEC else s
  s.each s.dieList fun d t => t.set (FAULT_DIE_REJOIN_CNT d) (min 255 (t.rejoins24 d).length)

/-- The package after the boundary. [log 31: DESIGN CHOICE] -/
def Chip.packageTick (s : Chip) (sec : Bool) : Chip :=
  let s := ((s.unwrap.dTick).keyTick).prefTry
  let s := (((s.tryFirst.tickPin).ppsFall).showHoSec).each [0, 1] fun p t => t.telFollow p
  let s := if sec then s.second else s
  s.faultCapture.showHosts

/-! ### The beginning of a tick: steps 1 to 3 -/

/-- Steps 2 and 3 for one active slot; the samples are of tick `m`. [log 31: DESIGN CHOICE] -/
def Chip.slotTick (s : Chip) (d sl m : Nat) (byp : Bool) : Chip :=
  let s := s.kickEnd d sl
  let s := (s.modSlot d sl (fun r => s.toneStep d sl r)).tempTick d sl
  (s.accumulate d sl m byp).tempStale d sl

/-- Steps 1 to 3 on every die in service. [log 33: DEDUCED] -/
def Chip.beginTick (s : Chip) (m : Nat) : Chip :=
  let s := s.each s.inServiceDies fun d t =>
    let byp := (t.die d).bypSeen || t.bypassed d
    t.each (t.activeSlots d) fun sl u => u.slotTick d sl m byp
  let s := s.each s.dieList fun d t => t.modDie d (fun r => { r with bypSeen := t.bypassed d })
  { s with frames := [] }

/-- A boundary: the coming tick is number `n` and begins at package time `now`; `env` is what each die's signals show. [log 31:
DESIGN CHOICE; 33: DEDUCED] -/
def Chip.boundary (s : Chip) (n now : Nat) (env : List Sys2Proof.DieTick) : Chip :=
  let m := s.tick
  let s := if s.started then s.finishTick n env else s
  let s := s.each s.dieList fun d t => t.closeTick d
  let t0 := s.upTicks * s.tickNs
  let sec := t0 / 1000000000 != (t0 + s.tickNs) / 1000000000
  let s := s.advance n now
  let s := s.each ((List.range env.length).zip env) fun x t => if t.runs x.1 then t.dieTick x.1 x.2 sec else t
  let s := s.packageTick sec
  -- after a step the expected echo is that of tick n − 1, and no frame carries it (R132, R215)
  let s : Chip := if n = m + 1 then s else { s with
    frames := tabMap (fun _ => none) (fun _ f => f.map (fun x => { x with cause := causeStale })) s.frames }
  if s.started then (s.commitTick (env.map (·.off))).beginTick (n - 1) else s

/-! ### The step (R213, R215, R220) -/

/-- A boundary number from N_s on keeps its distance from the step. [log 59: DESIGN CHOICE] -/
def shiftFrom (ns n b : Nat) : Nat := if ns ≤ b then n + (b - ns) else b

/-- Pending actions keep their distance in boundaries, the segments to come of a commit too. [log 59: DESIGN CHOICE] -/
def Chip.shiftPending (s : Chip) (ns n : Nat) : Chip :=
  let f := shiftFrom ns n
  let g := fun (x : Nat × Nat) => (x.1, f x.2)
  { s with
    dies := tabMap (fun _ => {}) (fun _ r => { r with
      pstepAt := r.pstepAt.map f, rampAt := r.rampAt.map f, rampAbortAt := r.rampAbortAt.map f
      rampFoldAt := r.rampFoldAt.map f
      cko := tabMap (fun _ => {}) (fun _ c => { c with pend := (c.pend.1, f c.pend.2) }) r.cko }) s.dies
    ports := tabMap (fun _ => {}) (fun _ r => { r with firstA := r.firstA.map f, parkDue := r.parkDue.map f }) s.ports
    commit := { s.commit with named := s.commit.named.map f, at_ := s.commit.at_.map (fun c => if s.commit.loaded = 0 then f c else c + (n - ns)) }
    sched := { s.sched with skipped := s.sched.skipped.map (fun e => (f e.1, e.2)) }
    time := { s.time with dPend := s.time.dPend.map (fun p => (p.1, f p.2.1, p.2.2)), jumpTo := some n }
    snap := { s.snap with at_ := s.snap.at_.map (fun p => (f p.1, p.2)) }
    fault := { s.fault with
      coverAt := s.fault.coverAt.map g, returnAt := s.fault.returnAt.map g, unwrapAt := s.fault.unwrapAt.map g
      sideAt := s.fault.sideAt.map (fun p => (p.1, f p.2.1, p.2.2)), updAt := s.fault.updAt.map f } }

/-- Occurrences with GO whose boundary the jump to `n` passes: their volleys. [log 59: DESIGN CHOICE] -/
def Chip.passedGo (s : Chip) (n : Nat) : List Nat := (s.sched.go.filter (fun o => decide (o.at_ < n))).map (·.vol)
/-- See [log 59: DESIGN CHOICE]. -/
def Chip.dropPassed (s : Chip) (n : Nat) : Chip :=
  s.modSched (fun r => { r with go := r.go.filter (fun o => decide (n ≤ o.at_)) })

/-- The status that a step leaves. [log 59: DESIGN CHOICE] -/
def Chip.stepped (s : Chip) (x : Nat) (restep : Bool) : Chip :=
  let first := !s.on TIME_STATUS_VALID
  let s := (((s.set TIME_STATUS_VALID 1).set VOL_STATUS_TIME_VALID 1).set PKG_TICK_CFG_GRID_NET 1).set TIME_STATUS_ACTIVE x
  let s := (s.modTime (fun r => { r with stepAt := none })).raise TIME_EVENTS_REMAP
  let s := if first then s.raise TIME_EVENTS_STEPPED else s
  if restep then s.raise TIME_EVENTS_RESTEPPED else s

/-- Boundary N_s is not placed: the next one is N', at its grid time. [log 59: DESIGN CHOICE] -/
def Chip.stepTime (s : Chip) (env : List Sys2Proof.DieTick) : Chip :=
  match s.time.stepAt with
  | some (ns, n, x, restep) =>
    if s.tick + 1 = ns then
      let now := s.originNs + n * s.tickNs
      let gone := s.passedGo n
      let was := s.schedOn
      let s := ((s.dropPassed n).shiftPending ns n).boundary n now env
      let s := (s.stepped x restep).volRemap
      ((s.schedJump was gone n).showSched).launchPassed now
    else s
  | none => s

/-- The boundary that ends the present tick: N_s is not placed, though the one that is may have its number (R213). -/
def Chip.nextTick (s : Chip) (env : List Sys2Proof.DieTick) : Chip :=
  if s.resetLow then s
  else if s.stepDue = false then s.boundary (s.tick + 1) (s.time.now + s.tickNs) env
  else s.stepTime env

def execTickBoundary (env : List DieTick) (s : State) : Host.Outcome State Fault Refusal :=
  s.act fun c => c.nextTick env

def execFirstStep (env : List DieTick) (s : State) : Host.Outcome State Fault Refusal :=
  s.act fun c => c.stepTime env

/-! ### Overruns (R29 to R31) -/

/-- A slot not reached by the cut-off: its sample is discarded, and a window that ends on this tick ends as a held one; a
sample in the excluded span of a kick holds nothing (R137, R145). [log 34: DEDUCED] -/
def Chip.unreached (s : Chip) (d sl : Nat) : Chip :=
  if (s.slot d sl).endedAt = some s.tick ∨ (s.slot d sl).st = lpOff then s
  else
    let s := if s.tick - 1 < (s.slot d sl).since then s
      else if (s.slot d sl).excluded (s.tick - 1) then s.excludedBad d sl causeOverrun else s.discardSample d sl causeOverrun
    s.windowOnce d sl

/-- Die `d` overruns with `k` slots reached; `begun` are the ports whose frames had started: every downlink frame of the die
for the coming tick, TICK or WARM, is repeated (R29, R264, R265). [log 34: DEDUCED] -/
def Chip.overrun (s : Chip) (d k : Nat) (begun : Nat) : Chip :=
  if (s.die d).overrun ∨ s.bypassed d then s
  else
    let sls := s.slotOrder d
    let s := s.each (sls.take k) fun sl t => t.windowOnce d sl
    let s := s.each (sls.drop k) fun sl t => t.unreached d sl
    let s := s.each ports16 fun p t => t.repeatPort d p (if maskBit begun p then 2 else 1)
    let s := s.modDie d (fun r => { r with overrun := true, reached := k })
    let s := ((s.bump (DIE_OVERRUN_CNT_TOTAL d)).bump (DIE_OVERRUN_CNT_CONSEC d)).raiseF3 (DIE_EVENTS_OVERRUN d)
    if s.get (DIE_OVERRUN_CNT_CONSEC d) = 3 then (s.raise (DIE_EVENTS_OVERRUN_FAULT d)).raiseF1 d 0x10 else s

def execTickOverrun (d : Fin 8) (k : Nat) (begun : BitVec 16) (s : State) : Host.Outcome State Fault Refusal :=
  s.act fun c => if c.inService d ∧ c.started then c.overrun d k begun.toNat else c

/-! ### Single accesses and link events -/

def execLinkLoss (d : Fin 8) (p : Fin 16) (s : State) : Host.Outcome State Fault Refusal :=
  s.act fun c => if c.runs d then c.linkLoss d p else c

/-- A write of ELINK_p_CTRL.RETRAIN. -/
def execElinkRetrain (d : Fin 8) (p : Fin 16) (s : State) : Host.Outcome State Fault Refusal :=
  s.act fun c => if c.open d then c.retrain d p else c

/-- A read of EFE_WIN_POP_LO of die `d` through port `p`. -/
def Chip.readWinPop (s : Chip) (p d : Nat) : Chip :=
  let s := s.winPop d
  (s.latchHigh p (EFE_WIN_POP_LO d) (s.reg (EFE_WIN_POP_HI d))).complete p 0 [s.reg (EFE_WIN_POP_LO d)]

def execEfeWinPop (p : Fin 2) (d : Fin 8) (s : State) : Host.Outcome State Fault Refusal :=
  s.act fun c => if !c.hostUp p then c
    else if !c.memOn p then c.unsupported p
    else if c.open d then (c.readWinPop p d).observe p false else c

/-- A write of DIE_CTRL: PEAK_CLR clears DIE_LOAD.PEAK, on the captain's mirror too (R40). -/
def Chip.peakClr (s : Chip) (d : Nat) (v : Word) : Chip := if maskBit v.toNat 0 then s.set (DIE_LOAD_PEAK d) 0 else s

def execDiePeakClr (d : Fin 8) (v : Word) (s : State) : Host.Outcome State Fault Refusal :=
  s.act fun c => if d.val < c.dieCount then c.peakClr d v else c

/-- An access to the closed blocks of die `d` is counted, each DW once (R40). [log 98: DESIGN CHOICE] -/
def Chip.sidelineAcc (s : Chip) (d : Nat) : Chip := (s.bump (DIE_SIDELINE_ACC_COUNT d)).raise (DIE_EVENTS_SIDELINE_ACC d)

/-- A host access of one word: a read completes with zero data, a write is discarded. -/
def execSidelinedDieAccess (p : Fin 2) (d : Fin 8) (read : Bool) (s : State) : Host.Outcome State Fault Refusal :=
  s.act fun c => if d.val < c.dieCount ∧ svcSidelined ≤ c.service d then
    (if read then (c.sidelineAcc d).complete p 0 [0] else c.sidelineAcc d) else c

/-- The nanoseconds of package time, with the seconds captured for port `p` (R229). [log 61: DESIGN CHOICE] -/
def Chip.timeNow (s : Chip) (p : Nat) : Chip :=
  (s.modHost p (fun r => { r with timeHigh := some (s.timeShown / 1000000000) })).complete p 0
    [BitVec.ofNat 32 (s.timeShown % 1000000000)]

def execTimeNowRead (p : Fin 2) (t : Nat) (s : State) : Host.Outcome State Fault Refusal :=
  s.act fun c => if !c.hostUp p then c
    else if !c.memOn p then c.unsupported p
    else ((c.at t).timeNow p).observe p false

end Sys2Proof.Machine
end

