-- ==== Sys2Proof/Machine/Access.lean ====
section
/-!
DEFINITION. Machine/Access.lean: what a host read or write of the windows does: access types, 64-bit pairs, held groups,
host groups, request TLPs, the SMBus target (spec/00_scope.md, R6 to R9; spec/01_package_and_tick.md, R39, R40;
spec/06_setpoint_library.md, R164; spec/12_security.md, R337, R338; spec/14_host_port.md, R379 to R390, R397, R398).
-/

namespace Sys2Proof.Machine

/-! ### Registers as a port sees them -/

/-- Each port has this register for itself (R345, R386, R390). [log 19: DESIGN CHOICE; 23: DEDUCED] -/
def perPort (a : Nat) : Bool :=
  [HOST_GROUP_COMMIT, HOST_GROUP_STATUS, HOST_VIEW, SEC_SESS_STATUS, SEC_AW_STATUS].contains a
    || (decide (SEC_AW_SEQ ≤ a) && decide (a < SEC_AW_TAG 8)) || (decide (SEC_SESS_BUF 0 ≤ a) && decide (a < SEC_SESS_BUF 64))

/-- Where the register that port `p` sees at `a` is held. [log 23: DEDUCED] -/
def homeAddr (p a : Nat) : Nat := if perPort a then portReg p a else a

/-- A writable 64-bit pair: which half of it `a` is (R7). -/
def writeHalf (a : Nat) : Half :=
  match findReg a with
  | some r => if r.rw = 0 ∧ r.rwt = 0 then .single else r.half
  | none => .single

/-- A write DW is discarded for its width or its pairing (R8, R380). -/
def Chip.widthDiscard (s : Chip) (p : Nat) : Chip := (s.bump (HOST_WIDTH_CNT_COUNT p)).raise HOST_EVENTS_WIDTH

/-- The bits of `old` outside `m`, and those of `v` inside it. -/
def mergeBits (m : Nat) (old v : Word) : Word := (old &&& ~~~BitVec.ofNat 32 m) ||| (v &&& BitVec.ofNat 32 m)

/-- A write acts on each field by its access type: RW changes, W1C clears, RWT loads the shadow (R9). An RW field with a range,
SYN_REF_QUAL (R82), takes what is written. [log 91: DESIGN CHOICE] -/
def Chip.plainWrite (s : Chip) (p a : Nat) (v : Word) : Chip :=
  match findReg a with
  | none => s
  | some r =>
    let b := homeAddr p a
    let s := if r.rw = 0 ∧ r.w1c = 0 then s
      else s.setReg b ((mergeBits r.rw (s.reg b) v) &&& ~~~(v &&& BitVec.ofNat 32 r.w1c))
    if r.rwt = 0 then s else s.setShadow b (some (mergeBits r.rwt (s.shadowVal b) v))

/-- The low half held from port `p` of the pair at `a`. -/
def Chip.lowOf (s : Chip) (p a : Nat) : Option Word := tabGet (fun _ => none) (s.host p).low a
def Chip.setLow (s : Chip) (p a : Nat) (v : Option Word) : Chip :=
  s.modHost p (fun r => { r with low := tabPut (fun _ => none) r.low a v })

/-- A write at `a` that another rule discards still releases the low half held for it, when it is a high half (R8). -/
def Chip.releaseLow (s : Chip) (p a : Nat) : Chip := if writeHalf a = .high then s.setLow p (a - 4) none else s

/-- The high half of the pair at `a - 4` joins the low half held from the same port; `f` writes one half (R7, R8). -/
def Chip.joinHigh (s : Chip) (p a : Nat) (v : Word) (f : Nat → Word → Chip → Chip) : Chip :=
  match s.lowOf p (a - 4) with
  | none => s.widthDiscard p
  | some w => f a v (f (a - 4) w (s.setLow p (a - 4) none))

/-- A write of a register: a half of a writable pair waits or joins. -/
def Chip.pairWrite (s : Chip) (p a : Nat) (v : Word) (f : Nat → Word → Chip → Chip) : Chip :=
  match writeHalf a with
  | .single => f a v s
  | .low => s.setLow p a (some v)
  | .high => s.joinHigh p a v f

def Chip.commonWrite (s : Chip) (p a : Nat) (v : Word) : Chip := s.pairWrite p a v (fun b w t => t.plainWrite p b w)

/-! ### A write takes effect -/

/-- A write to the library window; its entry is written with the high half (R164), which releases the low half held whether
or not its die is in service (R8). -/
def Chip.libEffect (s : Chip) (p o : Nat) (v : Word) : Chip :=
  let d := o / 0x2000000
  let k := 0x80000000 + o
  if s.dieCount ≤ d then s
  else if svcSidelined ≤ s.service d then
    ((if o % 8 = 0 then s else s.setLow p (k - 4) none).sidelineAcc d).libLost [(k, v)]
  else if o % 8 = 0 then s.setLow p k (some v)
  else match s.lowOf p (k - 4) with
    | none => (s.widthDiscard p).libLost [(k, v)]
    | some w => (s.setLow p (k - 4) none).libWrite (d * 2 ^ 22 + o % 0x2000000 / 8) (w.toNat + 2 ^ 32 * v.toNat)

/-- A write to a die block at offset `r`; `c` reference cycles have passed since the boundary.  A high half that a busy ramp
profile or a die out of service discards releases the low half held for it. [log 17: DESIGN CHOICE; 50: DEDUCED; 51: DESIGN
CHOICE; 97: DESIGN CHOICE] -/
def Chip.dieEffect (s : Chip) (p c a : Nat) (v : Word) : Chip :=
  let d := dieOf a
  let r := relOf a
  if s.dieCount ≤ d then s
  else if r < 0x10000 then (if a = DIE_CTRL d then s.peakClr d v else s.plainWrite p a v)
  else if a = SYN_SURVEY d ∧ maskBit v.toNat 31 ∧ s.runs d then s.surveyStart d
  else if svcSidelined ≤ s.service d then (s.releaseLow p a).sidelineAcc d
  else if a = SYN_SURVEY d then s
  else if a = SYN_PSTEP d then s.pstep d v
  else if a = RAMP_CTRL d then s.writeRampCtrl d v c
  else if 0x20000 ≤ r ∧ r < 0x30000 then
    (match profOf (r - 0x20000) with
    | some q => if s.profBusy d q then (s.releaseLow p a).raise (RAMP_EVENTS_WRITE_BUSY d) else s.commonWrite p a v
    | none => s.commonWrite p a v)
  else if a = CLK_MON_CTRL d then s.clkoutSelect d v
  else if a = CAL_CTRL d then s.writeCalCtrl d v
  else if 0x60000 ≤ r ∧ r < 0x60400 ∧ r % 0x40 = 0 then
    let t := s.plainWrite p a v
    if maskBit v.toNat 29 then t.retrain d ((r - 0x60000) / 0x40) else t
  else if isKick a then s.each s.dieList fun e t => t.plainWrite p (dieBase e + r) v
  else if 0x140000 ≤ r ∧ r < 0x150000 then s.raise (LIB_EVENTS_MIRROR_WRITE d)
  else if 0x100000 ≤ r ∧ r < 0x140000 ∧ r % 0x80 = 0x40 then
    let t := s.plainWrite p a v
    if maskBit v.toNat 30 then t.loopClear d ((r - 0x100000) / 0x80) else t
  else if 0x200000 ≤ r ∧ r < 0x201000 ∧ r % 0x100 = 0 then s.efeWrite d ((r - 0x200000) / 0x100) v
  else s.commonWrite p a v

/-- A write to a volley queue slot: a half of its sequence waits or joins (R7, R177).  A high half that is discarded because the
slot is not open releases the low half held (R8) and counts as a discarded header write alone. [log 97: DESIGN CHOICE] -/
def Chip.volEffect (s : Chip) (p a : Nat) (v : Word) : Chip :=
  let q := (a - 0x31000) / 0x80
  let o := (a - 0x31000) % 0x80
  if o = 0 then s.volCtrl p q v
  else if (volHdrMask o).isSome then
    (if s.volOpen q then s.pairWrite p a v (fun b w t => t.volWrite b w) else (s.releaseLow p a).volWrite a v)
  else s

/-- A write to the SEC block. -/
def Chip.secEffect (s : Chip) (p a : Nat) (v : Word) : Chip :=
  if a = SEC_SESS_CTRL then s.sessCtrl p v
  else if a = SEC_OWNER_CTRL then s.ownerCtrl v
  else if a = SEC_LIFECYCLE then s.lifecycleWrite v
  else if a = SEC_ROLLBACK then s.rollbackWrite v
  else if a = SEC_DIE_DISABLE then s.disableWrite v
  else if a = SEC_HP1 then s.hp1Write v
  else if a = SEC_DEBUG then s.debugWrite v
  else if a = SEC_PTP_KEY_CTRL then s.ptpKeyWrite v
  else if a = SEC_TEL_KEY_CTRL then s.telKeyWrite v
  else if SEC_KEY_DATA 0 ≤ a ∧ a < SEC_KEY_DATA 8 then s.keyDataWrite ((a - SEC_KEY_DATA 0) / 4) v
  else if a = SEC_ATT_CTRL then s.attGo v
  else if a = SEC_LOG_SEL then s.logSelect v
  else if SEC_AW_TAG 0 ≤ a ∧ a < SEC_AW_TAG 8 then s.setReg (portReg p a) v
  else s.commonWrite p a v

/-- A write to the ETH block: launch slots and their buffers apart. -/
def Chip.ethEffect (s : Chip) (p a : Nat) (v : Word) : Chip :=
  if 0x88000 ≤ a then
    (if (a - 0x88000) % 0x800 < 0x600 then s.launchWrite ((a - 0x88000) / 0x800) a v else s)
  else if 0x80400 ≤ a ∧ a < 0x80800 then
    let j := (a - 0x80400) / 0x40
    let o := (a - 0x80400) % 0x40
    if o = 0 then s.launchCtrl j v else if o ≤ 0x10 then s.launchWrite j a v else s.commonWrite p a v
  else s.commonWrite p a v

/-- A write of a word of the MSI-X table: in a vector's control word bit 0 masks it, the rest is reserved. [log 9: PRESUMED] -/
def Chip.msixWrite (s : Chip) (p i : Nat) (v : Word) : Chip :=
  s.modHost p (fun r => { r with msix := tabPut msixBlank r.msix i (if i % 4 = 3 then v &&& 1 else v) })

/-- A write to the package blocks. -/
def Chip.pkgEffect (s : Chip) (p a : Nat) (v : Word) : Chip :=
  if 0x800000 ≤ a then s.volWrite a v
  else if a = PKG_COMMIT_CTRL then s.commitGo v
  else if a = FAULT_F0_EVENTS then (s.plainWrite p a v).f0Persist
  else if a = FAULT_DIE_CTRL then s.dieCtrl v
  else if a = UPD_CTRL then s.updCtrl v
  else if a = TIME_RESTEP then s.restepWrite v
  else if 0x31000 ≤ a ∧ a < 0x33000 then s.volEffect p a v
  else if 0x40000 ≤ a ∧ a < 0x50000 then s.secEffect p a v
  else if a = IMG_PIN then s.pinWrite v
  else if a = IMG_CTRL then s.imgCtrl v
  else if a = IMG_FL_CTRL then s.flCtrl v
  else if a = RET_CTRL then s.retCtrl v
  else if HOST_MSIX 0 ≤ a ∧ a < HOST_MSIX 256 then s.msixWrite p ((a - HOST_MSIX 0) / 4) v
  else if 0x80000 ≤ a ∧ a < 0x90000 then s.ethEffect p a v
  else s.commonWrite p a v

/-- A write of `v` through port `p` takes effect at address `a`: in the library window with bit 31 set.  SEC_AW_CTRL and
HOST_GROUP_COMMIT are not among them. -/
def Chip.regEffect (s : Chip) (p c a : Nat) (v : Word) : Chip :=
  if 0x80000000 ≤ a then s.libEffect p (a - 0x80000000) v
  else if 0x1000000 ≤ a then s.dieEffect p c a v
  else s.pkgEffect p a v

/-- Writes in order. -/
def Chip.effects (s : Chip) (p c : Nat) (l : List (Nat × Word)) : Chip :=
  l.foldl (fun t w => t.regEffect p c w.1 w.2) s

/-! ### Held groups (R337, R338, R387) -/

/-- A write of `v` to `a` takes effect only through a held group. [log 18: DEDUCED] -/
def needsTag (a : Nat) (v : Word) : Bool :=
  if 0x80000000 ≤ a then true
  else if a = SEC_SESS_CTRL then maskBit v.toNat 29
  else if 0x31000 ≤ a ∧ a < 0x33000 ∧ a % 0x80 = 0 then v.toNat % 8 != 0
  else match findReg a with
    | some r => r.rwa != 0 || r.rwl != 0
    | none => false

/-- One write of a committed held group; a first-owner session accepts only its own registers (R333). [log 24: DESIGN CHOICE] -/
def Chip.heldEffect (s : Chip) (p c : Nat) (first : Bool) (w : Nat × Word) : Chip :=
  if first && !firstOwnerOk w.1 then (s.rwlRefuse 7 (rwlDetail w.1 w.2.toNat 0)).libLost [w]
  else if w.1 = SEC_SESS_CTRL then s
  else s.regEffect p c w.1 w.2

/-- A CLOSE among the writes of a committed group. -/
def hasClose (first : Bool) (l : List (Nat × Word)) : Bool :=
  !first && l.any (fun w => w.1 == SEC_SESS_CTRL && maskBit w.2.toNat 29)

/-- A committed held group takes effect: the host group first where it was opened WITH_AW. [log 20: DESIGN CHOICE; 24: DESIGN
CHOICE] -/
def Chip.heldApply (s : Chip) (p c : Nat) (l : List (Nat × Word)) : Chip :=
  let first := match s.sec.sess with
    | some (_, _, f, _) => f
    | none => false
  let h := s.host p
  let s := if s.groupOpen p && h.withAw then (s.groupEnd p 0).effects p c h.group else s
  let s := l.foldl (fun t w => t.heldEffect p c first w) s
  if hasClose first l then s.sessEnd endClose else s

/-- A write of SEC_AW_CTRL through port `p`; a captain whose session lease has stopped does nothing with it (R360). [log 29:
DESIGN CHOICE] -/
def Chip.awCtrl (s : Chip) (p c : Nat) (v : Word) : Chip :=
  let x := v.toNat
  if maskBit x 31 ∧ maskBit x 30 then s.awResult p 7
  else if maskBit x 30 then s.heldDiscard p
  else if !maskBit x 31 ∨ (s.fault.leases.getD 5 {}).stopped then s
  else match s.heldVerify p with
    | (t, some l) => t.heldApply p c l
    | (t, none) => if s.holdsSession p ∧ t.groupOpen p ∧ (t.host p).withAw then t.groupEnd p 4 else t

/-! ### Host groups (R386) -/

/-- Writes that a host group does not buffer. -/
def hostExempt (a : Nat) : Bool :=
  (decide (0x40000 ≤ a) && decide (a < 0x50000)) || (decide (0x60000 ≤ a) && decide (a < 0x70000))
    || (decide (0x800000 ≤ a) && decide (a < 0xC00000)) || (decide (0x88000 ≤ a) && decide (a < 0x90000))
    || (decide (0x51000 ≤ a) && decide (a < 0x52000))

/-- A write joins the host group of port `p`; the 257th discards it. -/
def Chip.groupAdd (s : Chip) (p a : Nat) (v : Word) : Chip :=
  let l := (s.host p).group
  if 256 ≤ l.length then s.groupEnd p 1
  else (s.modHost p (fun r => { r with group := l ++ [(a, v)] })).set (onPort p HOST_GROUP_STATUS_COUNT) (l.length + 1)

/-- See [log 19: DESIGN CHOICE]. -/
def Chip.groupBad (s : Chip) (p : Nat) : Chip := s.set (onPort p HOST_GROUP_STATUS_RESULT) 5

/-- A write of HOST_GROUP_COMMIT through port `p`. [log 19: DESIGN CHOICE; 20: DESIGN CHOICE] -/
def Chip.groupCtrl (s : Chip) (p c : Nat) (v : Word) : Chip :=
  let x := v.toNat
  let n := maskCount 32 (x / 2 ^ 29)
  let keep := fun (t : Chip) => t.set (onPort p HOST_GROUP_COMMIT_WITH_AW) (bitsOf x 28 1)
  let isOpen := s.groupOpen p
  if n = 0 then keep s
  else if 1 < n then s.groupBad p
  else if maskBit x 31 then
    (if isOpen then s.groupBad p
    else ((keep s).modHost p (fun r => { r with withAw := maskBit x 28, group := [] })).set (onPort p HOST_GROUP_STATUS_OPEN) 1)
  else if !isOpen ∨ (maskBit x 30 ∧ (s.host p).withAw) then s.groupBad p
  else if maskBit x 30 then ((keep s).groupEnd p 0).effects p c (s.host p).group
  else (keep s).groupEnd p 2

/-! ### Where a host write goes -/

/-- A write that is neither held nor buffered. -/
def Chip.directWrite (s : Chip) (p c a : Nat) (v : Word) : Chip :=
  if a = SEC_AW_CTRL then s.awCtrl p c v
  else if a = HOST_GROUP_COMMIT then s.groupCtrl p c v
  else s.regEffect p c a v

/-- A host writes `v` at `a` through port `p`. -/
def Chip.hostWrite (s : Chip) (p c a : Nat) (v : Word) : Chip :=
  if needsTag a v then s.heldWrite p a v
  else if s.groupOpen p && !hostExempt a then s.groupAdd p a v
  else s.directWrite p c a v

/-- A write DW whose byte enables are not 0xF (R380, R337). -/
def Chip.narrowWrite (s : Chip) (p a : Nat) (v : Word) : Chip :=
  let t := (s.widthDiscard p).libLost [(a, v)]
  if needsTag a v then t.heldBad p else t

/-! ### Reads -/

/-- ELINK_SUMMARY.EVENT of die `d`: the ports with an event. -/
def Chip.elEvents (s : Chip) (d : Nat) : Nat :=
  ports16.foldl (fun m p => if s.reg (ELINK_EVENTS d p) = 0 then m else maskSet m p) 0

/-- The XO amplifier of die `d` drives: that of site 0, unless its die is absent, rejected, or in reset while sidelined; then that
of site 1, when its die runs (R85). -/
def Chip.xoDrives (s : Chip) (d : Nat) : Bool :=
  let gone := decide (svcSidelined < s.service 0) || (s.service 0 == svcSidelined && (s.die 0).inReset)
  if d = 0 then !gone else d == 1 && gone && s.runs 1

/-- The transmit PLL of port `j` takes its reference from `SYNTH_CLK` (R96). -/
def Chip.ethOnSynth (s : Chip) (j : Nat) : Bool := s.runs j && !s.on (CLK_STATUS_BASE_SRC j) && !s.ethHeld j

/-- `HOST_p_LAT` (Table 14.8). -/
def Chip.latWord (s : Chip) (p : Nat) : Word := BitVec.ofNat 32 ((s.latOf p).2 * 2 ^ 16 + (s.latOf p).1)

/-- The value in force of the register at `a`: HOST_p_LAT follows the reads seen, ELINK_SUMMARY.EVENT follows the event
registers (Table 9.17), CLK_STATUS.XO_DRIVE and ETH_p_STATUS.REF_SYNTH follow the clocks (R85, R96). -/
def Chip.liveReg (s : Chip) (a : Nat) : Word :=
  let v := s.reg a
  let bit := fun (f : Fld) (b : Bool) => mergeBits (2 ^ f.lo) v (BitVec.ofNat 32 (if b then 2 ^ f.lo else 0))
  if a = HOST_LAT 0 then s.latWord 0
  else if a = HOST_LAT 1 then s.latWord 1
  else if a = ETH_STATUS 0 then bit (ETH_STATUS_REF_SYNTH 0) (s.ethOnSynth 0)
  else if a = ETH_STATUS 1 then bit (ETH_STATUS_REF_SYNTH 1) (s.ethOnSynth 1)
  else if a < 0x1000000 then v
  else
    let d := dieOf a
    if relOf a = 0x60400 then mergeBits 0xFFFF v (BitVec.ofNat 32 (s.elEvents d))
    else if a = SYN_FB_EFF d then BitVec.ofNat 32 (s.fbEff d)
    else if a = SYN_FB_EFF d + 4 then BitVec.ofNat 32 (s.fbEff d / 2 ^ 32)
    else if a = CLK_STATUS d then bit (CLK_STATUS_XO_DRIVE d) (s.xoDrives d)
    else v

/-- What a read of the register at `a` returns through port `p`: WO bits read zero, RWT bits as HOST_VIEW says. -/
def Chip.regValue (s : Chip) (p a : Nat) : Word :=
  let b := homeAddr p a
  match findReg a with
  | none => 0
  | some r =>
    let x := if s.on (onPort p HOST_VIEW_SHADOW) then mergeBits r.rwt (s.liveReg b) (s.shadowVal b) else s.liveReg b
    x &&& ~~~BitVec.ofNat 32 r.wo

/-- The seconds that port `p` reads (R229). -/
def Chip.readSec (s : Chip) (p : Nat) : Nat := ((s.host p).timeHigh).getD (s.timeShown / 1000000000)

/-- Word `i` of the package certificate. -/
def Chip.certWord (s : Chip) (i : Nat) : Word := BitVec.ofNat 32 (natLE ((s.certBytes.drop (4 * i)).take 4))

/-- Word `i` of the pending bits of port `p`. -/
def Chip.pbaWord (s : Chip) (p i : Nat) : Word :=
  BitVec.ofNat 32 ((s.host p).pba.foldl (fun m k => if k / 32 = i then maskSet m (k % 32) else m) 0)

/-- A read of a register without an action of its own: a low half latches the high one, which then reads as latched. -/
def Chip.readPair (s : Chip) (p a : Nat) : Chip × Word :=
  match (findReg a).map RegDef.half with
  | some .low => (s.latchHigh p a (s.regValue p (a + 4)), s.regValue p a)
  | some .high =>
    (match tabGet (fun _ => none) (s.host p).high (a - 4) with
    | some w => (s.modHost p (fun r => { r with high := tabPut (fun _ => none) r.high (a - 4) none }), w)
    | none => (s, s.regValue p a))
  | _ => (s, s.regValue p a)

/-- The high half of a pop register, which its low half latched. -/
def Chip.readPopHigh (s : Chip) (p lo : Nat) (now : Word) : Chip × Word :=
  match tabGet (fun _ => none) (s.host p).high lo with
  | some w => (s.modHost p (fun r => { r with high := tabPut (fun _ => none) r.high lo none }), w)
  | none => (s, now)

/-- A read at `a` that returns zero still releases the high half latched for it (R8). -/
def Chip.releaseHigh (s : Chip) (p a : Nat) : Chip :=
  if (findReg a).map RegDef.half = some .high then
    s.modHost p (fun r => { r with high := tabPut (fun _ => none) r.high (a - 4) none }) else s

/-- A read of a die block (R40). -/
def Chip.readDie (s : Chip) (p a : Nat) : Chip × Word :=
  let d := dieOf a
  if s.dieCount ≤ d then (s, 0)
  else if 0x10000 ≤ relOf a ∧ svcSidelined ≤ s.service d then ((s.releaseHigh p a).sidelineAcc d, 0)
  else if a = EFE_WIN_POP_LO d then (s.readWinPop p d, (s.winPop d).reg (EFE_WIN_POP_LO d))
  else if a = EFE_WIN_POP_HI d then s.readPopHigh p (EFE_WIN_POP_LO d) (s.reg a)
  else s.readPair p a

/-- A read of one word of the register window through port `p`; of an entry in the volley staging region the reserved bit reads
zero (R6, R172). -/
def Chip.readWord (s : Chip) (p a : Nat) : Chip × Word :=
  if 0x1000000 ≤ a then s.readDie p a
  else if 0x800000 ≤ a then
    (s, if a < 0xC00000 then BitVec.ofNat 32 (tabGet (fun _ => 0) s.volStage ((a - 0x800000) / 4) % 2 ^ 31) else 0)
  else if a = HOST_PORT_ID then (s, BitVec.ofNat 32 p)
  else if a = TIME_NOW_NS then (s.timeNow p, BitVec.ofNat 32 (s.timeShown % 1000000000))
  else if a = TIME_NOW_SEC then (s, BitVec.ofNat 32 (s.readSec p))
  else if a = TIME_NOW_SEC + 4 then (s, BitVec.ofNat 32 (s.readSec p / 2 ^ 32 % 2 ^ 16))
  else if a = FAULT_LOG_POP_LO then (s.readLogPop p, s.logPop.reg FAULT_LOG_POP_LO)
  else if a = FAULT_LOG_POP_HI then s.readPopHigh p FAULT_LOG_POP_LO (s.reg a)
  else if SEC_CERT 0 ≤ a ∧ a < SEC_CERT 236 then (s, s.certWord ((a - SEC_CERT 0) / 4))
  else if HOST_MSIX 0 ≤ a ∧ a < HOST_MSIX 256 then (s, s.msixWord p ((a - HOST_MSIX 0) / 4))
  else if HOST_PBA 0 ≤ a ∧ a < HOST_PBA 2 then (s, s.pbaWord p ((a - HOST_PBA 0) / 4))
  else s.readPair p a

/-- A read of one word of the library window: a poisoned entry as stored, any other with CHECK computed (R157, R164). -/
def Chip.readLib (s : Chip) (o : Nat) : Chip × Word :=
  let d := o / 0x2000000
  let k := d * 2 ^ 22 + o % 0x2000000 / 8
  if s.dieCount ≤ d then (s, 0)
  else if svcSidelined ≤ s.service d then (s.sidelineAcc d, 0)
  else
    let x := s.readEntry k
    let t := if s.isPoison k then x.1.raise (LIB_EVENTS_UE d) else x.1
    (t, BitVec.ofNat 32 ((x.2.getD (s.libRaw k)) / (if o % 8 < 4 then 1 else 2 ^ 32)))

/-! ### Request TLPs (R379 to R384) -/

/-- Table 1.5: the address lies outside any block. -/
def Chip.regOutside (s : Chip) (a : Nat) : Bool :=
  if a < 0x1000000 then (decide (0x90000 ≤ a) && decide (a < 0x800000)) || decide (0xC00000 ≤ a)
  else
    let r := relOf a
    decide (s.dieCount ≤ dieOf a) || (decide (0x70000 ≤ r) && decide (r < 0x80000))
      || (decide (0x90000 ≤ r) && decide (r < 0x100000)) || (decide (0x150000 ≤ r) && decide (r < 0x200000)) || decide (0x300000 ≤ r)

/-- Table 1.6. -/
def Chip.libOutside (s : Chip) (o : Nat) : Bool :=
  decide (s.dieCount ≤ o / 0x2000000) || decide (0x1400000 ≤ o % 0x2000000)

/-- The word addresses of a request of `n` DW from `a`. -/
def dwords (a n : Nat) : List Nat := (List.range n).map (fun i => a / 4 * 4 + 4 * i)

/-- A request of `n` DW touches an address outside any block (R382). -/
def Chip.outside (s : Chip) (lib : Bool) (a n : Nat) : Bool := (dwords a n).any (if lib then s.libOutside else s.regOutside)

/-- The byte enables of DW `i` of `n`. -/
def enables (fbe lbe : BitVec 4) (n i : Nat) : BitVec 4 := if i = 0 then fbe else if i + 1 = n then lbe else 0xF

/-- An Unsupported Request: a read completes so, a write is discarded and reported (R382, R389). [log 14: DEDUCED] -/
def Chip.refuseUr (s : Chip) (p : Nat) (read : Bool) : Chip :=
  if read then s.unsupported p else (s.aerSet p aerUnsupported).bump (HOST_UR_CNT_COUNT p)

/-- A Completer Abort (R379). -/
def Chip.refuseCa (s : Chip) (p : Nat) (read : Bool) : Chip :=
  let t := (s.aerSet p aerAbort).bump (HOST_CA_CNT_COUNT p)
  if read then t.complete p 2 [] else t

/-- Register-path parity fails at a write's destination (R383). [log 12: DESIGN CHOICE] -/
def Chip.parityDiscard (s : Chip) (p : Nat) : Chip := (s.bump (HOST_PARITY_CNT_COUNT p)).raiseF3 HOST_EVENTS_PARITY

/-- More AER bits: a poisoned completion, an ECRC error (notes/assumptions/9.md). [log 9: PRESUMED] -/
abbrev aerPoisoned : Nat := 12
/-- See [log 9: PRESUMED]. -/
abbrev aerEcrc : Nat := 19

/-- What arrives of a TLP (R381, R384): 0 whole, 1 incomplete, poisoned or with a bad LCRC, 2 with a bad ECRC. [log 12: DESIGN
CHOICE] -/
def Chip.tlpLost (s : Chip) (p bad : Nat) : Option Chip :=
  if bad = 1 then some s
  else if bad = 2 ∧ s.on (HOST_STATUS_ECRC_ON p) then some (s.aerSet p aerEcrc)
  else none

/-- One DW of a read; without a byte enable no read action takes place (R380). [log 15: DEDUCED] -/
def Chip.readDw (s : Chip) (p : Nat) (lib : Bool) (be : BitVec 4) (a : Nat) : Chip × Word :=
  let x := if lib then s.readLib a else s.readWord p a
  if be = 0 then (s, x.2) else x

/-- The DWs of a read in ascending order. -/
def Chip.readDws (s : Chip) (p : Nat) (lib : Bool) (fbe lbe : BitVec 4) (n : Nat) (l : List Nat) (i : Nat) : Chip × List Word :=
  match l with
  | [] => (s, [])
  | a :: r =>
    let x := s.readDw p lib (enables fbe lbe n i) a
    let y := x.1.readDws p lib fbe lbe n r (i + 1)
    (y.1, x.2 :: y.2)

/-- A memory read of `n` DW; `perr`: its data fails parity on the way back (R383). [log 13: DEDUCED; 16: PRESUMED] -/
def Chip.memRead (s : Chip) (p : Nat) (lib : Bool) (a n : Nat) (fbe lbe : BitVec 4) (perr : Bool) : Chip :=
  if !s.memOn p then s.unsupported p
  else if (if lib then 128 else 16) < n then s.refuseCa p true
  else if s.outside lib a n then (s.unsupported p).raise HOST_EVENTS_DECODE
  else
    let x := s.readDws p lib fbe lbe n (dwords a n) 0
    let u := x.1.observe p lib
    if perr && !lib then (u.complete p 3 x.2).aerSet p aerPoisoned else u.complete p 0 x.2

/-- One DW of a write. -/
def Chip.writeDw (s : Chip) (p c : Nat) (lib perr : Bool) (be : BitVec 4) (a : Nat) (v : Word) : Chip :=
  let k := if lib then 0x80000000 + a else a
  if perr && !lib then s.parityDiscard p
  else if be ≠ 0xF then s.narrowWrite p k v
  else s.hostWrite p c k v

/-- A memory write: its DWs in ascending order; `perr` marks those whose parity fails. [log 13: DEDUCED; 16: PRESUMED] -/
def Chip.memWrite (s : Chip) (p c : Nat) (lib : Bool) (a : Nat) (vs : List Word) (fbe lbe : BitVec 4) (perr : Nat) : Chip :=
  let n := vs.length
  if !s.memOn p then s.refuseUr p false
  else if lib ∧ 64 < n then s.aerSet p aerMalformed
  else if !lib ∧ 16 < n then s.refuseCa p false
  else if s.outside lib a n then (s.refuseUr p false).raise HOST_EVENTS_DECODE
  else s.each ((List.range n).zip ((dwords a n).zip vs)) fun x t =>
    t.writeDw p c lib (maskBit perr x.1) (enables fbe lbe n x.1) x.2.1 x.2.2

/-- A memory read TLP from byte address `a` of BAR0 or, with `lib`, BAR2, `t` ns after the boundary. [log 12: DESIGN CHOICE] -/
def execPcieMemRead (p : Fin 2) (lib : Bool) (a : BitVec 28) (n : Fin 1024) (fbe lbe : BitVec 4) (bad : Fin 3) (perr : Bool) (t : Nat)
    (s : State) : Host.Outcome State Fault Refusal :=
  s.act fun c => if c.hostUp p then
    (match (c.at t).tlpLost p bad with
    | some u => u
    | none => (c.at t).memRead p lib a.toNat (n.val + 1) fbe lbe perr) else c

/-- A memory write TLP; `cyc` reference cycles have passed since the boundary. [log 12: DESIGN CHOICE] -/
def execPcieMemWrite (p : Fin 2) (lib : Bool) (a : BitVec 28) (vs : List Word) (fbe lbe : BitVec 4) (bad : Fin 3) (perr : Nat)
    (t cyc : Nat) (s : State) : Host.Outcome State Fault Refusal :=
  s.act fun c => if c.hostUp p then
    (match (c.at t).tlpLost p bad with
    | some u => u
    | none => (c.at t).memWrite p cyc lib a.toNat vs fbe lbe perr) else c

/-! ### Single accesses -/

/-- A whole-DW write of the register window, as a TLP of one DW makes it. -/
def Chip.writeOne (s : Chip) (p cyc : Nat) (a : BitVec 26) (v : Word) : Chip :=
  s.memWrite p cyc false a.toNat [v] 0xF 0xF 0

def Chip.readOne (s : Chip) (p : Nat) (a : BitVec 26) : Chip := s.memRead p false a.toNat 1 0xF 0xF false

/-- A write to a register that has no row of its own. -/
def execRegisterWrite (p : Fin 2) (a : BitVec 26) (v : Word) (t cyc : Nat) (s : State) : Host.Outcome State Fault Refusal :=
  s.act fun c => if c.hostUp p then (c.at t).writeOne p cyc a v else c

/-- The half of a writable pair that a host write names. -/
def Chip.writePart (s : Chip) (h : Half) (p cyc : Nat) (a : BitVec 26) (v : Word) : Chip :=
  if writeHalf (a.toNat / 4 * 4) = h then s.writeOne p cyc a v else s

/-- The half of a pair that a host read names. -/
def Chip.readPart (s : Chip) (h : Half) (p : Nat) (a : BitVec 26) : Chip :=
  if (findReg (a.toNat / 4 * 4)).map RegDef.half = some h then s.readOne p a else s

def execPairLowWrite (p : Fin 2) (a : BitVec 26) (v : Word) (t cyc : Nat) (s : State) : Host.Outcome State Fault Refusal :=
  s.act fun c => if c.hostUp p then (c.at t).writePart .low p cyc a v else c
def execPairHighWrite (p : Fin 2) (a : BitVec 26) (v : Word) (t cyc : Nat) (s : State) : Host.Outcome State Fault Refusal :=
  s.act fun c => if c.hostUp p then (c.at t).writePart .high p cyc a v else c
def execPairLowRead (p : Fin 2) (a : BitVec 26) (t : Nat) (s : State) : Host.Outcome State Fault Refusal :=
  s.act fun c => if c.hostUp p then (c.at t).readPart .low p a else c
def execPairHighRead (p : Fin 2) (a : BitVec 26) (t : Nat) (s : State) : Host.Outcome State Fault Refusal :=
  s.act fun c => if c.hostUp p then (c.at t).readPart .high p a else c

/-- A write to a held register, or with `lib` to the library window. -/
def execHeldWrite (p : Fin 2) (lib : Bool) (a : BitVec 28) (v : Word) (be : BitVec 4) (t cyc : Nat) (s : State) :
    Host.Outcome State Fault Refusal :=
  s.act fun c => if c.hostUp p then
    let x := a.toNat / 4 * 4
    if needsTag (if lib then 0x80000000 + x else x) v then (c.at t).memWrite p cyc lib x [v] be be 0 else c
  else c

/-- SEC_AW_CTRL.COMMIT and DISCARD. [log 20: DESIGN CHOICE] -/
def execHeldGroupCommit (p : Fin 2) (v : Word) (t cyc : Nat) (s : State) : Host.Outcome State Fault Refusal :=
  s.act fun c => if c.hostUp p ∧ maskBit v.toNat 31 then (c.at t).writeOne p cyc (BitVec.ofNat 26 SEC_AW_CTRL) v else c
def execHeldGroupDiscard (p : Fin 2) (v : Word) (t cyc : Nat) (s : State) : Host.Outcome State Fault Refusal :=
  s.act fun c => if c.hostUp p ∧ maskBit v.toNat 30 then (c.at t).writeOne p cyc (BitVec.ofNat 26 SEC_AW_CTRL) v else c

/-- HOST_GROUP_COMMIT: a write with its OPEN, COMMIT or DISCARD bit set. -/
def Chip.groupOp (s : Chip) (b p cyc : Nat) (v : Word) : Chip :=
  if maskBit v.toNat b then s.writeOne p cyc (BitVec.ofNat 26 HOST_GROUP_COMMIT) v else s

def execHostGroupOpen (p : Fin 2) (v : Word) (t cyc : Nat) (s : State) : Host.Outcome State Fault Refusal :=
  s.act fun c => if c.hostUp p then (c.at t).groupOp 31 p cyc v else c
/-- See [log 20: DESIGN CHOICE]. -/
def execHostGroupCommit (p : Fin 2) (v : Word) (t cyc : Nat) (s : State) : Host.Outcome State Fault Refusal :=
  s.act fun c => if c.hostUp p then (c.at t).groupOp 30 p cyc v else c
def execHostGroupDiscard (p : Fin 2) (v : Word) (t cyc : Nat) (s : State) : Host.Outcome State Fault Refusal :=
  s.act fun c => if c.hostUp p then (c.at t).groupOp 29 p cyc v else c

/-- A write to the volley staging region or to a queue slot's header through port `p` (R172). -/
def execVolStagingWrite (p : Fin 2) (a : BitVec 26) (v : Word) (s : State) : Host.Outcome State Fault Refusal :=
  s.act fun c => let x := a.toNat / 4 * 4
    if 0x800000 ≤ x ∧ x < 0xC00000 then c.volWrite x v
    else if 0x31000 ≤ x ∧ x < 0x33000 ∧ x % 0x80 ≠ 0 then c.volEffect p x v else c

/-! ### The SMBus health target (R397, R398) -/

/-- One bit, and one byte, of the packet error code: x^8 + x^2 + x + 1. [log 82: PRESUMED] -/
def pecBit (c : Nat) : Nat := if 0x80 ≤ c then (2 * c % 256) ^^^ 7 else 2 * c
/-- See [log 82: PRESUMED]. -/
def pecByte (c b : Nat) : Nat :=
  pecBit (pecBit (pecBit (pecBit (pecBit (pecBit (pecBit (pecBit (c ^^^ (b % 256)))))))))

/-- Command 0x00. -/
def Chip.smbStatus (s : Chip) : Nat :=
  128 * s.get FAULT_STATUS_SOK + 64 * s.get FAULT_STATUS_NMI + 32 * s.get TIME_STATUS_VALID + 16 * s.get TIME_STATUS_HOLDOVER
    + 8 * s.get FAULT_STATUS_COVER_ACTIVE + 4 * s.get FAULT_STATUS_UNSERVED + s.get SEC_STATUS_LIFECYCLE

/-- Command 0x03; with no die in service a free value. [log 2: DESIGN CHOICE] -/
def Chip.smbDensity (s : Chip) : Nat :=
  match s.inServiceDies with
  | [] => s.free % 256
  | d :: r => r.foldl (fun m e => min m (s.density e)) (s.density d)

/-- Command 0x04; with no die in service a free value. [log 2: DESIGN CHOICE] -/
def Chip.smbTemp (s : Chip) : Nat :=
  match s.inServiceDies with
  | [] => s.free % 65536
  | d :: r => unsignedOf 16 (r.foldl (fun m e => max m (s.getI (CAL_T_NOW_TEMP e))) (s.getI (CAL_T_NOW_TEMP d)))

/-- Command 0x10. [log 82: PRESUMED] -/
def Chip.smbHealth (s : Chip) : List Nat :=
  s.serialBytes ++ bytesLE 4 (s.get IMG_VERSION_VERSION)
    ++ [s.get IMG_STATUS_SEC_VERSION, s.get IMG_STATUS_STATE, s.get PKG_DIES_IN_SERVICE, s.get FAULT_STATUS_SIDELINED,
        (s.reg FAULT_F0_EVENTS).toNat % 256, s.smbStatus]
    ++ bytesLE 2 s.smbTemp ++ bytesLE 4 (s.get FAULT_UPTIME_SEC) ++ bytesLE 2 (min 65535 (s.get (FAULT_CNT_COUNT 1)))
    ++ bytesLE 2 (min 65535 (s.get (FAULT_CNT_COUNT 2))) ++ bytesLE 4 (s.tick % 2 ^ 32)

/-- The data of a command code (Table 14.6); a block read sends its length first. -/
def Chip.smbData (s : Chip) (code : Nat) : Option (List Nat) :=
  if code = 0x00 then some [s.smbStatus]
  else if code = 0x01 then some [s.get PKG_DIES_IN_SERVICE]
  else if code = 0x02 then some [s.get FAULT_STATUS_SIDELINED]
  else if code = 0x03 then some [s.smbDensity]
  else if code = 0x04 then some (bytesLE 2 s.smbTemp)
  else if code = 0x10 then some (32 :: s.smbHealth)
  else none

/-- The target answers: RESET_N is high, the target enabled, and once roles are settled there is a captain. [log 82: PRESUMED] -/
def Chip.smbUp (s : Chip) : Bool :=
  !s.resetLow && s.on HOST_SMB_CFG_EN && (s.hasCaptain || !s.on PKG_ROLE_NEG_DONE)

/-- A read transaction at 7-bit address `addr`: acknowledged with the data and a PEC byte, or not at all. [log 82: PRESUMED] -/
def Chip.smbRead (s : Chip) (addr code : Nat) : Chip :=
  if s.smbUp ∧ addr = s.get HOST_SMB_CFG_ADDR then
    let r := (s.smbData code).map (fun l => l ++ [(2 * addr :: code :: (2 * addr + 1) :: l).foldl pecByte 0])
    { s with smbus := r }.took
  else { s with smbus := none }

def execSmbStatusByte (addr : BitVec 7) (s : State) : Host.Outcome State Fault Refusal :=
  s.act fun c => c.smbRead addr.toNat 0x00
def execSmbInService (addr : BitVec 7) (s : State) : Host.Outcome State Fault Refusal :=
  s.act fun c => c.smbRead addr.toNat 0x01
def execSmbSidelined (addr : BitVec 7) (s : State) : Host.Outcome State Fault Refusal :=
  s.act fun c => c.smbRead addr.toNat 0x02
def execSmbLockDensity (addr : BitVec 7) (s : State) : Host.Outcome State Fault Refusal :=
  s.act fun c => c.smbRead addr.toNat 0x03
def execSmbTemperature (addr : BitVec 7) (s : State) : Host.Outcome State Fault Refusal :=
  s.act fun c => c.smbRead addr.toNat 0x04
def execSmbHealthRecord (addr : BitVec 7) (s : State) : Host.Outcome State Fault Refusal :=
  s.act fun c => c.smbRead addr.toNat 0x10

/-- A command code outside Table 14.6 is not acknowledged. -/
def execSmbOtherCommand (addr : BitVec 7) (code : BitVec 8) (s : State) : Host.Outcome State Fault Refusal :=
  s.act fun c => if [0, 1, 2, 3, 4, 16].contains code.toNat then c else c.smbRead addr.toNat code.toNat

end Sys2Proof.Machine
end

