-- ==== Sys2Proof/Machine/Dispatch.lean ====
section
/-!
DEFINITION. Machine/Dispatch.lean: one arm per command, each a direct call of its meaning.
-/

namespace Sys2Proof.Machine

def exec (i : Instr) (s : State) : Host.Outcome State Fault Refusal :=
  match i with
  | .pairLowWrite p a v t cyc => Sys2Proof.Machine.execPairLowWrite p a v t cyc s
  | .pairHighWrite p a v t cyc => Sys2Proof.Machine.execPairHighWrite p a v t cyc s
  | .pairLowRead p a t => Sys2Proof.Machine.execPairLowRead p a t s
  | .pairHighRead p a t => Sys2Proof.Machine.execPairHighRead p a t s
  | .registerWrite p a v t cyc => Sys2Proof.Machine.execRegisterWrite p a v t cyc s
  | .sidelinedDieAccess p d read => Sys2Proof.Machine.execSidelinedDieAccess p d read s
  | .diePeakClr d v => Sys2Proof.Machine.execDiePeakClr d v s
  | .railBelowReset d r => Sys2Proof.Machine.execRailBelowReset d r s
  | .resetNAssert => Sys2Proof.Machine.execResetNAssert s
  | .resetNRelease => Sys2Proof.Machine.execResetNRelease s
  | .supplyWarning => Sys2Proof.Machine.execSupplyWarning s
  | .negotiationStart d selfTestOk key => Sys2Proof.Machine.execNegotiationStart d selfTestOk key s
  | .rollMessage d e => Sys2Proof.Machine.execRollMessage d e s
  | .negotiationEnd d => Sys2Proof.Machine.execNegotiationEnd d s
  | .fuseLevelling found => Sys2Proof.Machine.execFuseLevelling found s
  | .auditChainCheck d hit => Sys2Proof.Machine.execAuditChainCheck d hit s
  | .flashDiscovery found => Sys2Proof.Machine.execFlashDiscovery found s
  | .imageBlock ok => Sys2Proof.Machine.execImageBlock ok s
  | .imageContentCheck d => Sys2Proof.Machine.execImageContentCheck d s
  | .enterService => Sys2Proof.Machine.execEnterService s
  | .retainedRestore => Sys2Proof.Machine.execRetainedRestore s
  | .startStateChange d p => Sys2Proof.Machine.execStartStateChange d p s
  | .serviceOkRise => Sys2Proof.Machine.execServiceOkRise s
  | .imgRestart v t => Sys2Proof.Machine.execImgRestart v t s
  | .tickBoundary env => Sys2Proof.Machine.execTickBoundary env s
  | .tickOverrun d k begun => Sys2Proof.Machine.execTickOverrun d k begun s
  | .commitGo v => Sys2Proof.Machine.execCommitGo v s
  | .freezeFlit d => Sys2Proof.Machine.execFreezeFlit d s
  | .freezeAck d t => Sys2Proof.Machine.execFreezeAck d t s
  | .commitConfirm d => Sys2Proof.Machine.execCommitConfirm d s
  | .freezeConfirmTimeout d => Sys2Proof.Machine.execFreezeConfirmTimeout d s
  | .commitLoad off => Sys2Proof.Machine.execCommitLoad off s
  | .commitSegmentLoad => Sys2Proof.Machine.execCommitSegmentLoad s
  | .refQualWindow d x ppm off => Sys2Proof.Machine.execRefQualWindow d x ppm off s
  | .revertTimer d off => Sys2Proof.Machine.execRevertTimer d off s
  | .lossOfReference d tdc off => Sys2Proof.Machine.execLossOfReference d tdc off s
  | .lockDeclared m => Sys2Proof.Machine.execLockDeclared m s
  | .lossOfLock m => Sys2Proof.Machine.execLossOfLock m s
  | .holdoverWindow d agree => Sys2Proof.Machine.execHoldoverWindow d agree s
  | .holdoverClockTimeout d => Sys2Proof.Machine.execHoldoverClockTimeout d s
  | .relockTimeout d => Sys2Proof.Machine.execRelockTimeout d s
  | .bandHop d fine => Sys2Proof.Machine.execBandHop d fine s
  | .realignEnd d => Sys2Proof.Machine.execRealignEnd d s
  | .surveyStart d => Sys2Proof.Machine.execSurveyStart d s
  | .surveyDone d ms => Sys2Proof.Machine.execSurveyDone d ms s
  | .pstepRequest d v t => Sys2Proof.Machine.execPstepRequest d v t s
  | .pstepBegin d => Sys2Proof.Machine.execPstepBegin d s
  | .rampStart d v t c => Sys2Proof.Machine.execRampStart d v t c s
  | .rampBegin d => Sys2Proof.Machine.execRampBegin d s
  | .rampSegmentEnd d c => Sys2Proof.Machine.execRampSegmentEnd d c s
  | .rampAbort d v t c => Sys2Proof.Machine.execRampAbort d v t c s
  | .rampDisable d v t c => Sys2Proof.Machine.execRampDisable d v t c s
  | .rampFold d v t c => Sys2Proof.Machine.execRampFold d v t c s
  | .rampClamp d c cause => Sys2Proof.Machine.execRampClamp d c cause s
  | .xoDetectWindow d n => Sys2Proof.Machine.execXoDetectWindow d n s
  | .xoJudgeWindow d n iosc off => Sys2Proof.Machine.execXoJudgeWindow d n iosc off s
  | .xoJudgeTimeout d => Sys2Proof.Machine.execXoJudgeTimeout d s
  | .xoFailure d off => Sys2Proof.Machine.execXoFailure d off s
  | .ioscFailure d => Sys2Proof.Machine.execIoscFailure d s
  | .bpllUnlock d => Sys2Proof.Machine.execBpllUnlock d s
  | .bpllRelock d => Sys2Proof.Machine.execBpllRelock d s
  | .clkoutSelect d v => Sys2Proof.Machine.execClkoutSelect d v s
  | .crossingFarReset d b items => Sys2Proof.Machine.execCrossingFarReset d b items s
  | .crossingResync d b => Sys2Proof.Machine.execCrossingResync d b s
  | .tempStale d sl => Sys2Proof.Machine.execTempStale d sl s
  | .loopWindowEnd d sl => Sys2Proof.Machine.execLoopWindowEnd d sl s
  | .loopClear d sl => Sys2Proof.Machine.execLoopClear d sl s
  | .kickEnd d sl => Sys2Proof.Machine.execKickEnd d sl s
  | .loopRecord c => Sys2Proof.Machine.execLoopRecord c s
  | .libWrite d sl q v => Sys2Proof.Machine.execLibWrite d sl q v s
  | .libWriteApply d => Sys2Proof.Machine.execLibWriteApply d s
  | .libScrubPass d l => Sys2Proof.Machine.execLibScrubPass d l s
  | .mirrorFetch d sl q => Sys2Proof.Machine.execMirrorFetch d sl q s
  | .mirrorWrite d => Sys2Proof.Machine.execMirrorWrite d s
  | .standbyRecord c => Sys2Proof.Machine.execStandbyRecord c s
  | .volOpen p q v => Sys2Proof.Machine.execVolOpen p q v s
  | .volStagingWrite p a v => Sys2Proof.Machine.execVolStagingWrite p a v s
  | .volStage p q v t => Sys2Proof.Machine.execVolStage p q v t s
  | .volTagVerified q t => Sys2Proof.Machine.execVolTagVerified q t s
  | .volAbort p q v t => Sys2Proof.Machine.execVolAbort p q v t s
  | .volRelease p q v => Sys2Proof.Machine.execVolRelease p q v s
  | .volEntries d q => Sys2Proof.Machine.execVolEntries d q s
  | .volArmedReport d q => Sys2Proof.Machine.execVolArmedReport d q s
  | .volArmDeadline q t => Sys2Proof.Machine.execVolArmDeadline q t s
  | .volGo d q => Sys2Proof.Machine.execVolGo d q s
  | .volAbortMsg d q => Sys2Proof.Machine.execVolAbortMsg d q s
  | .volGoAckTimeout d q => Sys2Proof.Machine.execVolGoAckTimeout d q s
  | .volLoadBoundary q => Sys2Proof.Machine.execVolLoadBoundary q s
  | .volReport q => Sys2Proof.Machine.execVolReport q s
  | .volDeferredApply q => Sys2Proof.Machine.execVolDeferredApply q s
  | .schedOccurrence armed t => Sys2Proof.Machine.execSchedOccurrence armed t s
  | .schedCatchup => Sys2Proof.Machine.execSchedCatchup s
  | .ptpAnnounce h d => Sys2Proof.Machine.execPtpAnnounce h d s
  | .ptpSync h twoStep origin raw t => Sys2Proof.Machine.execPtpSync h twoStep origin raw t s
  | .ptpFollowUp h origin => Sys2Proof.Machine.execPtpFollowUp h origin s
  | .delayReqSend x j raw => Sys2Proof.Machine.execDelayReqSend x j raw s
  | .ptpDelayResp h req t4 t => Sys2Proof.Machine.execPtpDelayResp h req t4 t s
  | .ptpOtherMessage h => Sys2Proof.Machine.execPtpOtherMessage h s
  | .syncTimeout x j => Sys2Proof.Machine.execSyncTimeout x j s
  | .announceTimeout x j => Sys2Proof.Machine.execAnnounceTimeout x j s
  | .timeWord d skew => Sys2Proof.Machine.execTimeWord d skew s
  | .firstStep env => Sys2Proof.Machine.execFirstStep env s
  | .timeRestep v t => Sys2Proof.Machine.execTimeRestep v t s
  | .ethAttemptTimeout j => Sys2Proof.Machine.execEthAttemptTimeout j s
  | .ethLinkUp j => Sys2Proof.Machine.execEthLinkUp j s
  | .ethLinkDown j => Sys2Proof.Machine.execEthLinkDown j s
  | .ethFrameDiscard j fcs => Sys2Proof.Machine.execEthFrameDiscard j fcs s
  | .launchOpen j v => Sys2Proof.Machine.execLaunchOpen j v s
  | .launchArm j v t => Sys2Proof.Machine.execLaunchArm j v t s
  | .launchAbort j v t => Sys2Proof.Machine.execLaunchAbort j v t s
  | .launchRelease j v => Sys2Proof.Machine.execLaunchRelease j v s
  | .launchTime j t raw => Sys2Proof.Machine.execLaunchTime j t raw s
  | .telemetryLaunch t => Sys2Proof.Machine.execTelemetryLaunch t s
  | .timeNowRead p t => Sys2Proof.Machine.execTimeNowRead p t s
  | .blockLock d p => Sys2Proof.Machine.execBlockLock d p s
  | .capsFrame d p cap ack ok status => Sys2Proof.Machine.execCapsFrame d p cap ack ok status s
  | .capsTimeout d p => Sys2Proof.Machine.execCapsTimeout d p s
  | .trainFrame d p x => Sys2Proof.Machine.execTrainFrame d p x s
  | .prbsCheckEnd d p errors => Sys2Proof.Machine.execPrbsCheckEnd d p errors s
  | .resultFrame d p pass x => Sys2Proof.Machine.execResultFrame d p pass x s
  | .trainTimeout d p => Sys2Proof.Machine.execTrainTimeout d p s
  | .failedRetry d p => Sys2Proof.Machine.execFailedRetry d p s
  | .elinkRetrain d p => Sys2Proof.Machine.execElinkRetrain d p s
  | .uplinkFrame d p f => Sys2Proof.Machine.execUplinkFrame d p f s
  | .uplinkDeadline d p => Sys2Proof.Machine.execUplinkDeadline d p s
  | .linkLoss d p => Sys2Proof.Machine.execLinkLoss d p s
  | .efeCmdNop d p v => Sys2Proof.Machine.execEfeCmdNop d p v s
  | .efeCmdRead d p v => Sys2Proof.Machine.execEfeCmdRead d p v s
  | .efeCmdWrite d p v => Sys2Proof.Machine.execEfeCmdWrite d p v s
  | .efeCmdSpot d p v => Sys2Proof.Machine.execEfeCmdSpot d p v s
  | .efeCmdEcho d p v => Sys2Proof.Machine.execEfeCmdEcho d p v s
  | .efeCmdOther d p v => Sys2Proof.Machine.execEfeCmdOther d p v s
  | .efeCmdRetry d p => Sys2Proof.Machine.execEfeCmdRetry d p s
  | .spotHoldTimeout d p => Sys2Proof.Machine.execSpotHoldTimeout d p s
  | .efeUnorderedPark d p => Sys2Proof.Machine.execEfeUnorderedPark d p s
  | .efeWinPop p d => Sys2Proof.Machine.execEfeWinPop p d s
  | .coverStart => Sys2Proof.Machine.execCoverStart s
  | .coverReturn => Sys2Proof.Machine.execCoverReturn s
  | .calRequest d v => Sys2Proof.Machine.execCalRequest d v s
  | .calAbort d v => Sys2Proof.Machine.execCalAbort d v s
  | .calLoadTdc d v => Sys2Proof.Machine.execCalLoadTdc d v s
  | .calLoadEq d v => Sys2Proof.Machine.execCalLoadEq d v s
  | .calTempTrigger d k => Sys2Proof.Machine.execCalTempTrigger d k s
  | .calRetryTimer d k => Sys2Proof.Machine.execCalRetryTimer d k s
  | .calRunStart d ok => Sys2Proof.Machine.execCalRunStart d ok s
  | .calMeasurementDone d m => Sys2Proof.Machine.execCalMeasurementDone d m s
  | .snapshotPeriod t => Sys2Proof.Machine.execSnapshotPeriod t s
  | .snapNow v t => Sys2Proof.Machine.execSnapNow v t s
  | .snapshotCapture => Sys2Proof.Machine.execSnapshotCapture s
  | .snapshotWriteDone d fail => Sys2Proof.Machine.execSnapshotWriteDone d fail s
  | .retForget v t => Sys2Proof.Machine.execRetForget v t s
  | .flashRead v => Sys2Proof.Machine.execFlashRead v s
  | .flashErase v => Sys2Proof.Machine.execFlashErase v s
  | .flashProgram v => Sys2Proof.Machine.execFlashProgram v s
  | .flashOpDone err => Sys2Proof.Machine.execFlashOpDone err s
  | .sessionOpen p => Sys2Proof.Machine.execSessionOpen p s
  | .sessionProve p => Sys2Proof.Machine.execSessionProve p s
  | .sessionClose p => Sys2Proof.Machine.execSessionClose p s
  | .challengeLapse => Sys2Proof.Machine.execChallengeLapse s
  | .sessionIdleTimeout => Sys2Proof.Machine.execSessionIdleTimeout s
  | .heldWrite p lib a v be t cyc => Sys2Proof.Machine.execHeldWrite p lib a v be t cyc s
  | .heldGroupCommit p v t cyc => Sys2Proof.Machine.execHeldGroupCommit p v t cyc s
  | .heldGroupDiscard p v t cyc => Sys2Proof.Machine.execHeldGroupDiscard p v t cyc s
  | .lockoutEnd => Sys2Proof.Machine.execLockoutEnd s
  | .ownerKeyProgram v => Sys2Proof.Machine.execOwnerKeyProgram v s
  | .ownerKeyRevoke v => Sys2Proof.Machine.execOwnerKeyRevoke v s
  | .lifecycleAdvance v => Sys2Proof.Machine.execLifecycleAdvance v s
  | .rollbackCommit v => Sys2Proof.Machine.execRollbackCommit v s
  | .dieDisableBurn v => Sys2Proof.Machine.execDieDisableBurn v s
  | .hp1Disable v => Sys2Proof.Machine.execHp1Disable v s
  | .debugLock v => Sys2Proof.Machine.execDebugLock v s
  | .fuseBurnDone bad => Sys2Proof.Machine.execFuseBurnDone bad s
  | .ptpKeyWrite v => Sys2Proof.Machine.execPtpKeyWrite v s
  | .telKeyWrite v => Sys2Proof.Machine.execTelKeyWrite v s
  | .attestGo v => Sys2Proof.Machine.execAttestGo v s
  | .attestDone t => Sys2Proof.Machine.execAttestDone t s
  | .logSelect v => Sys2Proof.Machine.execLogSelect v s
  | .entropyHealthFail => Sys2Proof.Machine.execEntropyHealthFail s
  | .debugInstruction plain => Sys2Proof.Machine.execDebugInstruction plain s
  | .heartbeatMissed d => Sys2Proof.Machine.execHeartbeatMissed d s
  | .dieSideline d => Sys2Proof.Machine.execDieSideline d s
  | .coverOrder ns => Sys2Proof.Machine.execCoverOrder ns s
  | .faultDieSideline v t => Sys2Proof.Machine.execFaultDieSideline v t s
  | .faultDieReload v t => Sys2Proof.Machine.execFaultDieReload v t s
  | .faultDieRejoin v t => Sys2Proof.Machine.execFaultDieRejoin v t s
  | .rejoinStart d t => Sys2Proof.Machine.execRejoinStart d t s
  | .rejoinReady d t => Sys2Proof.Machine.execRejoinReady d t s
  | .rejoinFailed d => Sys2Proof.Machine.execRejoinFailed d s
  | .plannedHandover => Sys2Proof.Machine.execPlannedHandover s
  | .leaseRenewal k t => Sys2Proof.Machine.execLeaseRenewal k t s
  | .leaseLapse k t => Sys2Proof.Machine.execLeaseLapse k t s
  | .leaseHolderStop k t => Sys2Proof.Machine.execLeaseHolderStop k t s
  | .flitCrcFail r => Sys2Proof.Machine.execFlitCrcFail r s
  | .hopFailure h => Sys2Proof.Machine.execHopFailure h s
  | .hopRetrain h errors => Sys2Proof.Machine.execHopRetrain h errors s
  | .updVerify v t => Sys2Proof.Machine.execUpdVerify v t s
  | .updVerifyDone ok => Sys2Proof.Machine.execUpdVerifyDone ok s
  | .updGo v t => Sys2Proof.Machine.execUpdGo v t s
  | .updCommit v t => Sys2Proof.Machine.execUpdCommit v t s
  | .updAbort v t => Sys2Proof.Machine.execUpdAbort v t s
  | .faultLogPop p => Sys2Proof.Machine.execFaultLogPop p s
  | .pcieMemRead p lib a n fbe lbe bad perr t => Sys2Proof.Machine.execPcieMemRead p lib a n fbe lbe bad perr t s
  | .pcieMemWrite p lib a vs fbe lbe bad perr t cyc => Sys2Proof.Machine.execPcieMemWrite p lib a vs fbe lbe bad perr t cyc s
  | .pcieConfigRead p r => Sys2Proof.Machine.execPcieConfigRead p r s
  | .pcieConfigWrite p r v => Sys2Proof.Machine.execPcieConfigWrite p r v s
  | .pcieUnsupportedRequest p => Sys2Proof.Machine.execPcieUnsupportedRequest p s
  | .perstAssert p tlps => Sys2Proof.Machine.execPerstAssert p tlps s
  | .pcieLinkDown p tlps => Sys2Proof.Machine.execPcieLinkDown p tlps s
  | .functionLevelReset p tlps => Sys2Proof.Machine.execFunctionLevelReset p tlps s
  | .d3hotEntry p => Sys2Proof.Machine.execD3hotEntry p s
  | .d0Return p => Sys2Proof.Machine.execD0Return p s
  | .hostGroupOpen p v t cyc => Sys2Proof.Machine.execHostGroupOpen p v t cyc s
  | .hostGroupCommit p v t cyc => Sys2Proof.Machine.execHostGroupCommit p v t cyc s
  | .hostGroupDiscard p v t cyc => Sys2Proof.Machine.execHostGroupDiscard p v t cyc s
  | .msixMessage k => Sys2Proof.Machine.execMsixMessage k s
  | .msixPendingRelease p k => Sys2Proof.Machine.execMsixPendingRelease p k s
  | .smbStatusByte addr => Sys2Proof.Machine.execSmbStatusByte addr s
  | .smbInService addr => Sys2Proof.Machine.execSmbInService addr s
  | .smbSidelined addr => Sys2Proof.Machine.execSmbSidelined addr s
  | .smbLockDensity addr => Sys2Proof.Machine.execSmbLockDensity addr s
  | .smbTemperature addr => Sys2Proof.Machine.execSmbTemperature addr s
  | .smbHealthRecord addr => Sys2Proof.Machine.execSmbHealthRecord addr s
  | .smbOtherCommand addr code => Sys2Proof.Machine.execSmbOtherCommand addr code s
  | .hostLinkUp p speed lanes => Sys2Proof.Machine.execHostLinkUp p speed lanes s
  | .railAboveReset d r => Sys2Proof.Machine.execRailAboveReset d r s
  | .ppsOut t => Sys2Proof.Machine.execPpsOut t s
  | .phaseStepDone d => Sys2Proof.Machine.execPhaseStepDone d s
  | .startPortTimeout d p => Sys2Proof.Machine.execStartPortTimeout d p s
  | .skewWaitTimeout d => Sys2Proof.Machine.execSkewWaitTimeout d s
  | .flrComplete p => Sys2Proof.Machine.execFlrComplete p s

end Sys2Proof.Machine
end

