-- ==== Sys2Proof/Safety.lean ====
section
/-!
DEFINITION. Safety.lean: what holds of every state that a run can reach: the tables of the package stand in their one
canonical form, the fault log keeps its bound, the variant never changes.
-/

namespace Sys2Proof.Machine

/-- The registers, shadows and staged values are in canonical form. -/
def Chip.regsWf (s : Chip) : Prop :=
  tabWf resetOf s.regs = true ∧ tabWf (fun _ => none) s.shadow = true ∧ tabWf (fun _ => none) s.staged = true

/-- The addressed memories are in canonical form: the library with its poison marks and write buffers, volley staging. -/
def Chip.memWf (s : Chip) : Prop :=
  tabWf libBlank s.lib = true ∧ tabWf (fun _ => false) s.poison = true ∧ tabWf (fun _ => none) s.libLive = true
    ∧ tabWf (fun _ => none) s.libStaged = true ∧ tabWf (fun _ => 0) s.volStage = true

/-- The records of dies, slots, ports, calibration engines, volley slots, retained stores and host ports are in canonical
form. -/
def Chip.unitsWf (s : Chip) : Prop :=
  tabWf (fun _ => {}) s.dies = true ∧ tabWf (fun _ => {}) s.cals = true ∧ tabWf (fun _ => {}) s.slots = true
    ∧ tabWf (fun _ => {}) s.ports = true ∧ tabWf (fun _ => {}) s.vols = true ∧ tabWf (fun _ => {}) s.rets = true
    ∧ tabWf (fun _ => {}) s.hosts = true

/-- A package of `n` dies in good order; the fault log holds at most 512 entries (spec/13_in_service_operation.md, R347). -/
def Chip.Ok (n : Nat) (s : Chip) : Prop :=
  s.dieCount = n ∧ s.faultLog.length ≤ 512 ∧ s.regsWf ∧ s.memWf ∧ s.unitsWf

/-- A state in good order: one of the four variants (spec/00_scope.md, R1). -/
def Inv (s : State) : Prop := s.chip.dieCount ∈ [2, 4, 6, 8] ∧ s.chip.Ok s.chip.dieCount

/-! ### Frames -/

/-- Every register outside `l` reads as before. -/
def Chip.SameRegs (s u : Chip) (l : List Nat) : Prop := ∀ a, a ∉ l → u.reg a = s.reg a

/-- Every register outside the blocks of die `d` and outside `l` reads as before. -/
def Chip.SameOutside (s u : Chip) (d : Nat) (l : List Nat) : Prop :=
  ∀ a, a ∉ l → (a < dieBase d ∨ dieBase (d + 1) ≤ a) → u.reg a = s.reg a

/-- Nothing but registers and due messages differs. -/
def Chip.RegsOnly (s u : Chip) : Prop := u = { s with regs := u.regs, due := u.due }

/-- Nothing but registers, due messages and the hidden record of die `d` differs. -/
def Chip.DieOnly (s u : Chip) (d : Nat) : Prop :=
  u = { s with regs := u.regs, due := u.due, dies := u.dies } ∧ ∀ e, e ≠ d → u.die e = s.die e

/-- Nothing but registers, due messages and the hidden record of slot `sl` of die `d` differs. -/
def Chip.SlotOnly (s u : Chip) (d sl : Nat) : Prop :=
  u = { s with regs := u.regs, due := u.due, slots := u.slots } ∧
    ∀ k, k ≠ d * 4096 + sl → tabGet (fun _ => {}) u.slots k = tabGet (fun _ => {}) s.slots k

/-- Nothing but registers, due messages and the hidden record of element link port `p` of die `d` differs. -/
def Chip.PortOnly (s u : Chip) (d p : Nat) : Prop :=
  u = { s with regs := u.regs, due := u.due, ports := u.ports } ∧
    ∀ k, k ≠ d * 16 + p → tabGet (fun _ => {}) u.ports k = tabGet (fun _ => {}) s.ports k

/-- The addressed memories read as before: the library and its poison marks, volley staging, the flash devices. -/
def Chip.SameMem (s u : Chip) : Prop :=
  u.lib = s.lib ∧ u.poison = s.poison ∧ u.volStage = s.volStage ∧ u.image.flash = s.image.flash

/-- The units that a command of one die's clocks does not touch read as before: slots, ports, volleys, retained stores, host
ports, security, schedule, commit, time, image. -/
def Chip.SameUnits (s u : Chip) : Prop :=
  u.slots = s.slots ∧ u.ports = s.ports ∧ u.vols = s.vols ∧ u.rets = s.rets ∧ u.hosts = s.hosts ∧ u.sec = s.sec
    ∧ u.sched = s.sched ∧ u.commit = s.commit ∧ u.time = s.time ∧ u.image = s.image

/-- The registers of the Ethernet port at site `d` whose link a change of the die's clocks takes down
(spec/03_clocks_and_crossings.md, R96). -/
def ethRegs (d : Nat) : List Nat := if d < 2 then [ETH_STATUS d, ETH_EVENTS d] else []

/-- What a command of one die's core or clocks does not touch, the attempt of the die's Ethernet port aside: slots and ports of the
other dies, volleys, retained stores, host ports, security, schedule, commit, time, image. -/
def Chip.SameOthers (s u : Chip) (d : Nat) : Prop :=
  (∀ k, k / 4096 ≠ d → tabGet (fun _ => {}) u.slots k = tabGet (fun _ => {}) s.slots k) ∧
    (∀ k, k / 16 ≠ d → tabGet (fun _ => {}) u.ports k = tabGet (fun _ => {}) s.ports k) ∧
    u.vols = s.vols ∧ u.rets = s.rets ∧ u.hosts = s.hosts ∧ u.sec = s.sec ∧ u.sched = s.sched ∧ u.commit = s.commit ∧
    u.image = s.image ∧ u.time = { s.time with ethMode := u.time.ethMode }

/-- The package registers that the report of a fault of die `d` writes: PKG_DIES, FAULT_EVENTS, FAULT_F0_EVENTS, the fault log
and counts, the die's word, status and events of its Ethernet port. -/
def faultRegs (d : Nat) : List Nat :=
  [PKG_DIES, FAULT_EVENTS, FAULT_F0_EVENTS, FAULT_LOG_STATUS, FAULT_LOG_LOST, FAULT_CNT 0, FAULT_CNT 1, FAULT_CNT 2,
    FAULT_CNT 3, FAULT_DIE d, ETH_STATUS d, ETH_EVENTS d]

end Sys2Proof.Machine
end

