-- ==== Sys2Proof/Certificates/Slice0/Obligations.lean ====
section
/-!
DEFINITION. Certificates/Slice0/Obligations.lean: what the provers are to prove of the model, from the rules of spec/.
-/

open Sys2Proof Sys2Proof.Machine

/-- A write of CLK_MON_CTRL of a die whose blocks are open: a selection whose code is valid on that die and whose divided
frequency is at most 250 MHz is held, the die drives the trace exactly when EN is set, and EN on one die clears EN on every
other die of the package; any other selection only sets CLK_EVENTS.MON_REFUSED and keeps the previous one. -/
def Obligations.MonitorClockSelection : Prop :=
  ∀ (s : State) (d : Fin 8) (v : Word), s.chip.open d = true →
    (∀ f, s.chip.monFreq d (bitsOf v.toNat 16 8) = some f → f.1 ≤ 250000000 * monDiv (bitsOf v.toNat 0 16) * f.2 →
      ∃ u, exec (.clkoutSelect d v) s = .next { s with chip := u } ∧
        u.reg (CLK_MON_CTRL d) = v &&& 0x80FFFFFF ∧
        u.get (CLK_MON_STATUS_DRIVING d) = (if v.toNat.testBit 31 then 1 else 0) ∧
        (v.toNat.testBit 31 = true → ∀ e < s.chip.dieCount, e ≠ d.val →
          u.get (CLK_MON_CTRL_EN e) = 0 ∧ u.get (CLK_MON_STATUS_DRIVING e) = 0) ∧
        s.chip.RegsOnly u ∧
        s.chip.SameRegs u (s.chip.dieList.flatMap fun e => [CLK_MON_CTRL e, CLK_MON_STATUS e])) ∧
    ((∀ f, s.chip.monFreq d (bitsOf v.toNat 16 8) = some f → 250000000 * monDiv (bitsOf v.toNat 0 16) * f.2 < f.1) →
      ∃ u, exec (.clkoutSelect d v) s = .next { s with chip := u } ∧
        u.get (CLK_EVENTS_MON_REFUSED d) = 1 ∧ s.chip.RegsOnly u ∧
        s.chip.SameRegs u [CLK_EVENTS d])

/-- Where CLK_XING_STATUS names a crossing of a die that runs, the reset of its far side sets the crossing's bit, with
CLK_EVENTS.FAR_RESET when it was not set, and adds the items in flight to CLK_XING_DISCARD, which saturates; a die in reset counts
nothing; the return of the far side clears the bit and changes nothing else. -/
def Obligations.CrossingResets : Prop :=
  ∀ (s : State) (d : Fin 8) (b : Fin 32) (n : Nat), d.val < s.chip.dieCount → b.val < 4 ∨ 16 ≤ b.val →
    (s.chip.runs d = false → exec (.crossingFarReset d b n) s = .next s) ∧
    (s.chip.runs d = true → ∃ u, exec (.crossingFarReset d b n) s = .next { s with chip := u } ∧
      u.get ⟨CLK_XING_STATUS d, b, 1⟩ = 1 ∧
      u.get (CLK_EVENTS_FAR_RESET d) =
        (if s.chip.get ⟨CLK_XING_STATUS d, b, 1⟩ = 0 then 1 else s.chip.get (CLK_EVENTS_FAR_RESET d)) ∧
      u.get (CLK_XING_DISCARD_COUNT d) = min (s.chip.get (CLK_XING_DISCARD_COUNT d) + n) (2 ^ 32 - 1) ∧
      s.chip.RegsOnly u ∧
      s.chip.SameRegs u [CLK_XING_STATUS d, CLK_EVENTS d, CLK_XING_DISCARD d]) ∧
    (∃ u, exec (.crossingResync d b) s = .next { s with chip := u } ∧
      u.get ⟨CLK_XING_STATUS d, b, 1⟩ = 0 ∧ s.chip.RegsOnly u ∧
      s.chip.SameRegs u [CLK_XING_STATUS d])

/-- A detection window identifies 25 MHz or 50 MHz by its count and any other count changes nothing. While judging, a window in
step with a first one in range joins its group; a window out of range or out of step ends the group, and the next one begins a
new group; the eighth window of a group judges the oscillator stable. Once stable, a window within 20 counts of the mean joins
it. Without a stable oscillator the timeout sets XO_TIMEOUT and JUDGE = TIMEOUT. -/
def Obligations.StabilityJudge : Prop :=
  ∀ (s : State) (d : Fin 8) (n : Nat) (iosc : Bool) (off : Int), s.chip.runs d = true →
    ((s.chip.die d).judgeFound = false → (9850 ≤ n ∧ n ≤ 10150) ∨ (4925 ≤ n ∧ n ≤ 5075) →
      ∃ u, exec (.xoDetectWindow d n) s = .next { s with chip := u } ∧
        u.get (CLK_STATUS_XO_FREQ d) = (if n ≤ 5075 then 1 else 0) ∧ (u.die d).judgeFound = true ∧
        (u.die d).judgeRun = 0 ∧ ((s.chip.die d).xoBroke = false → u.get (CLK_STATUS_JUDGE d) = judgeCounting) ∧
        s.chip.DieOnly u d ∧ s.chip.SameRegs u [CLK_STATUS d]) ∧
    ((s.chip.die d).judgeFound = false → ¬ ((9850 ≤ n ∧ n ≤ 10150) ∨ (4925 ≤ n ∧ n ≤ 5075)) →
      exec (.xoDetectWindow d n) s = .next s) ∧
    ((s.chip.die d).judgeFound = true → s.chip.get (CLK_STATUS_XO_STABLE d) = 0 → (s.chip.die d).judgeRun ≤ 7 →
      let first := if (s.chip.die d).judgeRun = 0 then n else (s.chip.die d).judgeFirst
      ((s.chip.die d).judgeRun < 7 → 9850 ≤ first → first ≤ 10150 → first ≤ n + 5 → n ≤ first + 5 →
        ∃ u, exec (.xoJudgeWindow d n iosc off) s = .next { s with chip := u } ∧
          (u.die d).judgeFirst = first ∧ (u.die d).judgeRun = (s.chip.die d).judgeRun + 1 ∧
          (u.die d).xoCounts = n :: (s.chip.die d).xoCounts ∧ u.get (CLK_XO_COUNT_LAST d) = n % 2 ^ 16 ∧
          s.chip.DieOnly u d ∧ s.chip.SameRegs u [CLK_XO_COUNT d]) ∧
      (first < 9850 ∨ 10150 < first ∨ n + 5 < first ∨ first + 5 < n →
        ∃ u, exec (.xoJudgeWindow d n iosc off) s = .next { s with chip := u } ∧
          (u.die d).judgeRun = 0 ∧ (u.die d).xoCounts = [] ∧ u.get (CLK_XO_COUNT_LAST d) = n % 2 ^ 16 ∧
          s.chip.DieOnly u d ∧ s.chip.SameRegs u [CLK_XO_COUNT d])) ∧
    ((s.chip.die d).judgeFound = true → s.chip.get (CLK_STATUS_XO_STABLE d) = 0 → (s.chip.die d).judgeRun = 7 →
      (s.chip.die d).judgeFirst ≤ n + 5 → n ≤ (s.chip.die d).judgeFirst + 5 →
      9850 ≤ (s.chip.die d).judgeFirst → (s.chip.die d).judgeFirst ≤ 10150 →
      ∃ u, exec (.xoJudgeWindow d n iosc off) s = .next { s with chip := u } ∧
        u.get (CLK_STATUS_XO_STABLE d) = 1 ∧ u.get (CLK_EVENTS_XO_STABLE d) = 1 ∧ u.get (CLK_STATUS_XO_FAIL d) = 0 ∧
        u.get (CLK_STATUS_JUDGE d) = judgeStable ∧
        ((s.chip.die d).xoBroke = false → u.get (CLK_STATUS_BASE_SRC d) = 1) ∧
        ((s.chip.die d).xoBroke = true → s.chip.get (CLK_FAIL_POLICY_XO_RETURN d) = 1 →
          u.get (CLK_STATUS_BASE_SRC d) = 1 ∧ u.get (CLK_EVENTS_XO_RETURNED d) = 1) ∧
        ((s.chip.die d).xoBroke = true → s.chip.get (CLK_FAIL_POLICY_XO_RETURN d) = 0 →
          u.get (CLK_STATUS_BASE_SRC d) = s.chip.get (CLK_STATUS_BASE_SRC d)) ∧ s.chip.SameMem u) ∧
    ((s.chip.die d).judgeFound = true → s.chip.get (CLK_STATUS_XO_STABLE d) = 1 →
      n ≤ s.chip.get (CLK_XO_COUNT_REF d) + 20 → s.chip.get (CLK_XO_COUNT_REF d) ≤ n + 20 →
      ∃ u, exec (.xoJudgeWindow d n iosc off) s = .next { s with chip := u } ∧
        (u.die d).xoCounts = (n :: (s.chip.die d).xoCounts).take 64 ∧ u.get (CLK_XO_COUNT_LAST d) = n % 2 ^ 16 ∧
        u.get (CLK_XO_COUNT_REF d) = meanOf (u.die d).xoCounts % 2 ^ 16 ∧
        s.chip.DieOnly u d ∧ s.chip.SameRegs u [CLK_XO_COUNT d]) ∧
    (s.chip.get (CLK_STATUS_XO_STABLE d) = 0 →
      ∃ u, exec (.xoJudgeTimeout d) s = .next { s with chip := u } ∧
        u.get (CLK_EVENTS_XO_TIMEOUT d) = 1 ∧ u.get (CLK_STATUS_JUDGE d) = judgeTimeout ∧ (u.die d).xoBroke = true ∧
        s.chip.DieOnly u d ∧
        s.chip.SameRegs u [CLK_STATUS d, CLK_EVENTS d])

/-- A first failure of a stable crystal oscillator sets XO_FAIL in status and events, counts it and raises the F0 bit; BASE_CLK
leaves it, unless the internal oscillator has failed too; then, and under POLICY = RESET, the die is sidelined. A first failure of
the internal oscillator sets its bits and counts it; with the XO failed too it is the die's F1 fault, else F3 is counted, the die
stays in service and BASE_CLK runs from the XO where that is stable. A backup PLL that loses lock sets BPLL_UNLOCK, an F1 fault on
bypass, F3 otherwise; a relock sets its lock bit alone. -/
def Obligations.ClockFailures : Prop :=
  ∀ (s : State) (d : Fin 8) (off : Int), s.chip.runs d = true →
    (s.chip.get (CLK_STATUS_XO_FAIL d) = 0 → s.chip.get (CLK_STATUS_XO_STABLE d) = 1 →
      ∃ u, exec (.xoFailure d off) s = .next { s with chip := u } ∧
        u.get (CLK_STATUS_XO_FAIL d) = 1 ∧ u.get (CLK_EVENTS_XO_FAIL d) = 1 ∧
        u.get (CLK_STATUS_BASE_SRC d) = (if s.chip.get (CLK_STATUS_IOSC_FAIL d) = 0 then 0 else s.chip.get (CLK_STATUS_BASE_SRC d)) ∧
        u.get (CLK_FAIL_CNT_XO d) = min (s.chip.get (CLK_FAIL_CNT_XO d) + 1) (2 ^ 16 - 1) ∧
        u.get FAULT_F0_EVENTS_XO_FAIL = 1 ∧
        (s.chip.get (CLK_FAIL_POLICY_POLICY d) = 1 ∨ s.chip.get (CLK_STATUS_IOSC_FAIL d) = 1 →
          u.service d = svcSidelined) ∧ s.chip.SameMem u) ∧
    (s.chip.get (CLK_STATUS_IOSC_FAIL d) = 0 →
      ∃ u, exec (.ioscFailure d) s = .next { s with chip := u } ∧
        u.get (CLK_STATUS_IOSC_FAIL d) = 1 ∧ u.get (CLK_EVENTS_IOSC_FAIL d) = 1 ∧
        u.get (CLK_FAIL_CNT_IOSC d) = min (s.chip.get (CLK_FAIL_CNT_IOSC d) + 1) (2 ^ 16 - 1) ∧
        (s.chip.get (CLK_STATUS_XO_FAIL d) = 1 → u.service d = svcSidelined ∧ u.get (FAULT_DIE_CAUSE d) = 0x14) ∧
        (s.chip.get (CLK_STATUS_XO_FAIL d) = 0 → u.get (FAULT_CNT_COUNT 3) = min (s.chip.get (FAULT_CNT_COUNT 3) + 1) (2 ^ 32 - 1)
          ∧ u.service d = s.chip.service d ∧ (s.chip.get (CLK_STATUS_XO_STABLE d) = 1 → u.get (CLK_STATUS_BASE_SRC d) = 1)) ∧
        s.chip.SameMem u) ∧
    (∃ u, exec (.bpllUnlock d) s = .next { s with chip := u } ∧
      u.get (CLK_STATUS_BPLL_LOCK d) = 0 ∧ u.get (CLK_EVENTS_BPLL_UNLOCK d) = 1 ∧
      (s.chip.onBypass d = true → u.service d = svcSidelined ∧ u.get (FAULT_DIE_CAUSE d) = 0x13) ∧
      (s.chip.onBypass d = false → u.service d = s.chip.service d ∧
        u.get (FAULT_CNT_COUNT 3) = min (s.chip.get (FAULT_CNT_COUNT 3) + 1) (2 ^ 32 - 1)) ∧ s.chip.SameMem u) ∧
    (∃ u, exec (.bpllRelock d) s = .next { s with chip := u } ∧
      u.get (CLK_STATUS_BPLL_LOCK d) = 1 ∧ s.chip.RegsOnly u ∧ s.chip.SameRegs u [CLK_STATUS d])

/-- A good window of REFA or REFB that completes SYN_REF_QUAL.WINDOWS good ones qualifies the source, fine or coarse as BASE_CLK
runs; a bad one withdraws its qualification and clears its run. With REVERT set and REF_SEL qualified while another source is
active, the revert timer makes a changeover: a visit to HOLDOVER, then ACQUIRE on REF_SEL with the wrapped phase offset in
SYN_BUILDOUT, the clocks off bypass and CHANGEOVER set. -/
def Obligations.ReferenceQualification : Prop :=
  ∀ (s : State) (d : Fin 8) (x : Fin 2) (ppm : Nat) (off : Int), Inv s → s.chip.runs d = true →
    (ppm ≤ (if s.chip.get (CLK_STATUS_BASE_SRC d) = 0 then 20000 else s.chip.get (SYN_REF_QUAL_TOL_PPM d)) →
      s.chip.get (SYN_REF_QUAL_WINDOWS d) ≤ s.chip.qualRun d x + 1 →
      ∃ u, exec (.refQualWindow d x (some ppm) off) s = .next { s with chip := u } ∧
        (u.get (SYN_STATUS_QUALIFIED d)).testBit x = true ∧
        u.get (SYN_STATUS_QUAL_COARSE d) = 1 - s.chip.get (CLK_STATUS_BASE_SRC d) ∧
        u.qualRun d x = min 255 (s.chip.qualRun d x + 1) ∧ s.chip.SameOutside u d (ethRegs d) ∧ s.chip.SameMem u ∧
        s.chip.SameOthers u d) ∧
    ((if s.chip.get (CLK_STATUS_BASE_SRC d) = 0 then 20000 else s.chip.get (SYN_REF_QUAL_TOL_PPM d)) < ppm →
      ∃ u, exec (.refQualWindow d x (some ppm) off) s = .next { s with chip := u } ∧
        (u.get (SYN_STATUS_QUALIFIED d)).testBit x = false ∧ u.qualRun d x = 0 ∧
        s.chip.SameOutside u d (ethRegs d) ∧ s.chip.SameMem u ∧ s.chip.SameOthers u d) ∧
    (s.chip.get (SYN_CTRL_REVERT d) = 1 → s.chip.qualified d (s.chip.get (SYN_CTRL_REF_SEL d)) = true →
      s.chip.get (SYN_STATUS_REF_ACTIVE d) ≠ s.chip.get (SYN_CTRL_REF_SEL d) → s.chip.get (SYN_STATUS_REF_ACTIVE d) ≠ 3 →
      s.chip.syn d = synLocked ∨ s.chip.syn d = synAcquire → (s.chip.die d).retuneDue = false →
      ∃ u, exec (.revertTimer d off) s = .next { s with chip := u } ∧
        u.get (SYN_STATUS_REF_ACTIVE d) = s.chip.get (SYN_CTRL_REF_SEL d) ∧ u.syn d = synAcquire ∧
        u.get (SYN_STATUS_BYPASS d) = 0 ∧ u.get (SYN_EVENTS_HOLDOVER d) = 1 ∧
        u.get (SYN_BUILDOUT_OFFSET d) =
          unsignedOf 32 (wrapBuildout ((s.chip.get (srcFb d (s.chip.get (SYN_CTRL_REF_SEL d))) : Int) +
            s.chip.getI (RAMP_ACC_A d)) (s.chip.getI (SYN_DISC_D d)) off) ∧
        ((s.chip.die d).lastSrc ≠ s.chip.get (SYN_CTRL_REF_SEL d) → u.get (SYN_EVENTS_CHANGEOVER d) = 1) ∧
        s.chip.SameOutside u d (ethRegs d) ∧ s.chip.SameMem u ∧ s.chip.SameOthers u d)

/-- In HOLDOVER on bypass the second agreeing window in a row clears BYPASS and brings outputs on bypass back, any other window
is only remembered, and a timeout without such a pair sidelines the die with cause 0x12. A relock timeout in ACQUIRE sets
RELOCK_TIMEOUT and sidelines the die with cause 0x11. The end of a realign leaves a zero build-out and REALIGN = 0. -/
def Obligations.HoldoverAndRelock : Prop :=
  ∀ (s : State) (d : Fin 8) (agree : Bool), s.chip.runs d = true →
    (s.chip.syn d = synHoldover → s.chip.bypassed d = true →
      ((s.chip.die d).hoAgreed = true →
        ∃ u, exec (.holdoverWindow d true) s = .next { s with chip := u } ∧
          u.get (SYN_STATUS_BYPASS d) = 0 ∧ u.syn d = synHoldover ∧
          (∀ k < 16, s.chip.ckoState d k = ckoByp → u.ckoState d k = ckoRun) ∧ s.chip.DieOnly u d ∧
          s.chip.SameRegs u (SYN_STATUS d :: (List.range 16).map fun k => CKO_STATUS d k)) ∧
      (agree = false ∨ (s.chip.die d).hoAgreed = false →
        ∃ u, exec (.holdoverWindow d agree) s = .next { s with chip := u } ∧
          (u.die d).hoAgreed = agree ∧ u.bypassed d = true ∧ s.chip.DieOnly u d ∧ s.chip.SameRegs u []) ∧
      ∃ u, exec (.holdoverClockTimeout d) s = .next { s with chip := u } ∧
        u.service d = svcSidelined ∧ u.get (FAULT_DIE_CAUSE d) = 0x12 ∧
        u.get (FAULT_CNT_COUNT 1) = min (s.chip.get (FAULT_CNT_COUNT 1) + 1) (2 ^ 32 - 1) ∧
        s.chip.SameOutside u d (faultRegs d) ∧ s.chip.SameMem u ∧ s.chip.SameUnits u) ∧
    (s.chip.syn d = synAcquire →
      ∃ u, exec (.relockTimeout d) s = .next { s with chip := u } ∧
        u.get (SYN_EVENTS_RELOCK_TIMEOUT d) = 1 ∧ u.service d = svcSidelined ∧ u.get (FAULT_DIE_CAUSE d) = 0x11 ∧
        s.chip.SameOutside u d (faultRegs d) ∧ s.chip.SameMem u ∧ s.chip.SameUnits u) ∧
    (s.chip.get (SYN_STATUS_REALIGN d) = 1 →
      ∃ u, exec (.realignEnd d) s = .next { s with chip := u } ∧
        u.get (SYN_BUILDOUT_OFFSET d) = 0 ∧ u.get (SYN_STATUS_REALIGN d) = 0 ∧ s.chip.RegsOnly u ∧
        s.chip.SameRegs u [SYN_BUILDOUT d, SYN_STATUS d])

/-- A survey request puts a core that is in STARTING into SURVEY on bypass with no active source; on a sidelined die in another
state it waits for STARTING, and on any other die it only sets SURVEY_REFUSED. The completed survey writes all 128 band entries
from the measurements, valid where the band measured monotonically, and sets SURVEY_DONE and BAND_SRC. -/
def Obligations.BandSurvey : Prop :=
  ∀ (s : State) (d : Fin 8) (ms : List (Option (Nat × Nat))), Inv s → s.chip.runs d = true →
    (s.chip.syn d = synStarting →
      ∃ u, exec (.surveyStart d) s = .next { s with chip := u } ∧
        u.syn d = synSurvey ∧ u.get (SYN_STATUS_BYPASS d) = 1 ∧ u.get (SYN_STATUS_REF_ACTIVE d) = 3 ∧
        s.chip.SameOutside u d (ethRegs d) ∧ s.chip.SameMem u ∧ s.chip.SameOthers u d) ∧
    (s.chip.service d = svcSidelined → s.chip.syn d ≠ synStarting → s.chip.syn d ≠ synSurvey →
      ∃ u, exec (.surveyStart d) s = .next { s with chip := u } ∧
        (u.die d).surveyDue = true ∧ s.chip.DieOnly u d ∧ s.chip.SameRegs u []) ∧
    (s.chip.service d ≠ svcSidelined → s.chip.syn d ≠ synStarting →
      ∃ u, exec (.surveyStart d) s = .next { s with chip := u } ∧
        u.get (SYN_EVENTS_SURVEY_REFUSED d) = 1 ∧ s.chip.RegsOnly u ∧ s.chip.SameRegs u [SYN_EVENTS d]) ∧
    (s.chip.syn d = synSurvey → (s.chip.die d).surveyDue = false →
      ∃ u, exec (.surveyDone d ms) s = .next { s with chip := u } ∧
        u.get (SYN_EVENTS_SURVEY_DONE d) = 1 ∧ u.get (SYN_STATUS_BAND_SRC d) = 1 ∧
        (∀ k < 128, u.get ⟨SYN_BAND d k, 0, 64⟩ = surveyEntry k (ms.getD k none) % 2 ^ 64) ∧
        u.syn d ≠ synSurvey ∧ s.chip.SameOutside u d (ethRegs d) ∧ s.chip.SameMem u ∧ s.chip.SameOthers u d)

/-- A phase step request is refused, with PSTEP_REFUSED alone set, when the grid follows the network, steps are pending, a
realign runs or the core is not LOCKED, of the die or, for a package request, of any die in service. A request that is taken
leaves the signed count in SYN_PSTEP_PEND of its dies and waits for the first boundary at least 20 µs ahead; at that boundary
stepping begins; when the last step is made PEND is zero and SYN_PHASE_ACC has grown by the steps. -/
def Obligations.PhaseSteps : Prop :=
  ∀ (s : State) (d : Fin 8) (v : Word) (t : Nat),
    (s.chip.open d = true →
      (s.chip.get PKG_TICK_CFG_GRID_NET = 1 ∨ s.chip.get (SYN_PSTEP_PEND_PEND d) ≠ 0 ∨ s.chip.get (SYN_STATUS_REALIGN d) = 1 ∨
        s.chip.syn d ≠ synLocked →
        ∃ u, exec (.pstepRequest d v t) s = .next { s with chip := u } ∧
          u.get (SYN_EVENTS_PSTEP_REFUSED d) = 1 ∧ (s.chip.at t).RegsOnly u ∧ s.chip.SameRegs u [SYN_EVENTS d]) ∧
      (v.toNat.testBit 16 = false → (∃ e ∈ s.chip.inServiceDies, s.chip.pstepBusy e = true) →
        ∃ u, exec (.pstepRequest d v t) s = .next { s with chip := u } ∧
          u.get (SYN_EVENTS_PSTEP_REFUSED d) = 1 ∧ (s.chip.at t).RegsOnly u ∧ s.chip.SameRegs u [SYN_EVENTS d]) ∧
      (v.toNat.testBit 16 = false → s.chip.get PKG_TICK_CFG_GRID_NET = 0 → s.chip.pstepBusy d = false →
        (∀ e ∈ s.chip.inServiceDies, s.chip.pstepBusy e = false) → v.toNat % 65536 ≠ 0 →
        ∃ u, exec (.pstepRequest d v t) s = .next { s with chip := u } ∧
          (∀ e ∈ s.chip.inServiceDies, u.getI (SYN_PSTEP_PEND_PEND e) = signedOf 16 v.toNat ∧
            (u.die e).pstepAt = some (s.chip.at t).boundary20) ∧
          u = { s.chip.at t with regs := u.regs, dies := u.dies } ∧
          s.chip.SameRegs u (s.chip.inServiceDies.map fun e => SYN_PSTEP_PEND e)) ∧
      (s.chip.get PKG_TICK_CFG_GRID_NET = 0 → s.chip.get (SYN_PSTEP_PEND_PEND d) = 0 → s.chip.get (SYN_STATUS_REALIGN d) = 0 →
        s.chip.syn d = synLocked → v.toNat.testBit 16 = true → v.toNat % 65536 ≠ 0 →
        ∃ u, exec (.pstepRequest d v t) s = .next { s with chip := u } ∧
          u.getI (SYN_PSTEP_PEND_PEND d) = signedOf 16 v.toNat ∧ (u.die d).pstepAt = some (s.chip.at t).boundary20 ∧
          (u.die d).pstepOn = false ∧ (s.chip.at t).DieOnly u d ∧ s.chip.SameRegs u [SYN_PSTEP_PEND d])) ∧
    (s.chip.runs d = true →
      (∀ b, (s.chip.die d).pstepAt = some b → b ≤ s.chip.tick →
        ∃ u, exec (.pstepBegin d) s = .next { s with chip := u } ∧
          (u.die d).pstepAt = none ∧ (u.die d).pstepOn = true ∧ s.chip.DieOnly u d ∧ s.chip.SameRegs u []) ∧
      ((s.chip.die d).pstepOn = true → (s.chip.getI (SYN_PSTEP_PEND_PEND d)).natAbs ≤ 65536 →
        (s.chip.getI (SYN_PHASE_ACC_ACC d)).natAbs ≤ 2 ^ 30 →
        ∃ u, exec (.phaseStepDone d) s = .next { s with chip := u } ∧
          u.get (SYN_PSTEP_PEND_PEND d) = 0 ∧
          u.getI (SYN_PHASE_ACC_ACC d) = s.chip.getI (SYN_PHASE_ACC_ACC d) + s.chip.getI (SYN_PSTEP_PEND_PEND d) ∧
          (u.die d).pstepOn = false ∧ s.chip.DieOnly u d ∧ s.chip.SameRegs u [SYN_PSTEP_PEND d, SYN_PHASE_ACC d]))

/-- RAMP_CTRL written with exactly one of START, ABORT and FOLD. On one die (SCOPE = 0) a start whose trajectory and boundary
pass the checks arms the profile for its boundary; one that does not pass only sets REFUSED and leaves RAMP_STATUS. An abort, or
ENABLE = 0, stops an armed ramp at once; an abort within a segment stops a running one with A moved by the cycles of this tick,
and one on the very cycle of the natural end completes the ramp with ABORT_LATE (both where D carries A past no limit on the
way). A fold while no ramp is armed or running whose word keeps R45 waits for the next boundary, and is refused otherwise. With
SCOPE = 1 a start arms or refuses every die in service, and an abort waits for the next boundary on all of them. -/
def Obligations.RampCommands : Prop :=
  ∀ (s : State) (d : Fin 8) (v : Word) (t c : Nat), Inv s → s.chip.open d = true →
    let w := (s.chip.at t).setReg (RAMP_CTRL d) (v &&& 0x8003000F)
    let b := if v.toNat.testBit 16 then s.chip.get (RAMP_START_TICK_TICK d) else (s.chip.at t).boundary20
    (v.toNat.testBit 17 = false → v.toNat.testBit 31 = true → v.toNat.testBit 30 = true → v.toNat.testBit 29 = false →
      v.toNat.testBit 28 = false →
      ((s.chip.at t).boundary20 ≤ b → w.rampOk d (v.toNat % 16) = true →
        ∃ u, exec (.rampStart d v t c) s = .next { s with chip := u } ∧
          u.get (RAMP_STATUS_STATE d) = rampArmed ∧ u.get (RAMP_STATUS_PROFILE d) = v.toNat % 16 ∧
          (u.die d).rampAt = some b ∧ s.chip.SameOutside u d [] ∧ s.chip.SameMem u ∧ s.chip.SameOthers u d) ∧
      (b < (s.chip.at t).boundary20 ∨ w.rampOk d (v.toNat % 16) = false →
        ∃ u, exec (.rampStart d v t c) s = .next { s with chip := u } ∧
          u.get (RAMP_EVENTS_REFUSED d) = 1 ∧ (s.chip.at t).RegsOnly u ∧
          s.chip.SameRegs u [RAMP_CTRL d, RAMP_EVENTS d])) ∧
    (v.toNat.testBit 17 = true → v.toNat.testBit 31 = true → v.toNat.testBit 30 = true → v.toNat.testBit 29 = false →
      v.toNat.testBit 28 = false →
      ((s.chip.at t).boundary20 ≤ b → w.rampOk d (v.toNat % 16) = true →
        (∀ e ∈ s.chip.inServiceDies, w.rampOk e (v.toNat % 16) = true) →
        ∃ u, exec (.rampStart d v t c) s = .next { s with chip := u } ∧
          (∀ e ∈ s.chip.inServiceDies, u.ramp e = rampArmed ∧ (u.die e).rampAt = some b) ∧ s.chip.SameMem u) ∧
      ((∃ e ∈ s.chip.inServiceDies, w.rampOk e (v.toNat % 16) = false) →
        ∃ u, exec (.rampStart d v t c) s = .next { s with chip := u } ∧
          (∀ e ∈ s.chip.inServiceDies, u.get (RAMP_EVENTS_REFUSED e) = 1) ∧ (s.chip.at t).RegsOnly u ∧
          s.chip.SameRegs u (RAMP_CTRL d :: RAMP_EVENTS d :: s.chip.inServiceDies.map fun e => RAMP_EVENTS e))) ∧
    (v.toNat.testBit 17 = true → v.toNat.testBit 31 = true → v.toNat.testBit 30 = false → v.toNat.testBit 29 = true →
      v.toNat.testBit 28 = false →
      ∃ u, exec (.rampAbort d v t c) s = .next { s with chip := u } ∧
        (∀ e ∈ s.chip.inServiceDies, (u.die e).rampAbortAt = some (s.chip.tick + 1)) ∧
        u = { s.chip.at t with regs := u.regs, dies := u.dies } ∧ s.chip.SameRegs u [RAMP_CTRL d]) ∧
    (v.toNat.testBit 17 = false → v.toNat.testBit 31 = true → v.toNat.testBit 30 = false → v.toNat.testBit 29 = true →
      v.toNat.testBit 28 = false →
      (s.chip.ramp d = rampArmed →
        ∃ u, exec (.rampAbort d v t c) s = .next { s with chip := u } ∧
          u.ramp d = rampAborted ∧ u.get (RAMP_STATUS_CAUSE d) = 1 ∧ u.get (RAMP_EVENTS_ABORTED d) = 1 ∧
          (u.die d).rampAt = none ∧ (s.chip.at t).DieOnly u d ∧
          s.chip.SameRegs u [RAMP_CTRL d, RAMP_STATUS d, RAMP_EVENTS d]) ∧
      (s.chip.ramp d = rampRunning → c - (s.chip.die d).rampUsed < s.chip.get (RAMP_SEG_LEFT_CYCLES d) →
        w.rampFree d (s.chip.getI (RAMP_ACC_A d)) (s.chip.rampInc d) (c - (s.chip.die d).rampUsed) = c - (s.chip.die d).rampUsed →
        (s.chip.getI (RAMP_ACC_A d) + segInc s.chip.get d (s.chip.get (RAMP_STATUS_PROFILE d))
          (s.chip.get (RAMP_STATUS_SEGMENT d)) * ((c - (s.chip.die d).rampUsed : Nat) : Int)).natAbs < 2 ^ 63 →
        ∃ u, exec (.rampAbort d v t c) s = .next { s with chip := u } ∧
          u.ramp d = rampAborted ∧ u.get (RAMP_STATUS_CAUSE d) = 1 ∧ u.get (RAMP_EVENTS_ABORTED d) = 1 ∧
          u.getI (RAMP_ACC_A d) = s.chip.getI (RAMP_ACC_A d) + segInc s.chip.get d (s.chip.get (RAMP_STATUS_PROFILE d))
            (s.chip.get (RAMP_STATUS_SEGMENT d)) * ((c - (s.chip.die d).rampUsed : Nat) : Int) ∧
          (s.chip.at t).DieOnly u d ∧
          s.chip.SameRegs u [RAMP_CTRL d, RAMP_STATUS d, RAMP_EVENTS d, RAMP_ACC d, RAMP_ACC d + 4, RAMP_SEG_LEFT d]) ∧
      (s.chip.ramp d = rampRunning → s.chip.rampLast d = true →
        s.chip.get (RAMP_SEG_LEFT_CYCLES d) = c - (s.chip.die d).rampUsed →
        w.rampFree d (s.chip.getI (RAMP_ACC_A d)) (s.chip.rampInc d) (c - (s.chip.die d).rampUsed) = c - (s.chip.die d).rampUsed →
        ∃ u, exec (.rampAbort d v t c) s = .next { s with chip := u } ∧
          u.ramp d = rampDone ∧ u.get (RAMP_STATUS_ABORT_LATE d) = 1 ∧ u.get (RAMP_EVENTS_DONE d) = 1 ∧
          (s.chip.at t).DieOnly u d ∧
          s.chip.SameRegs u [RAMP_CTRL d, RAMP_STATUS d, RAMP_EVENTS d, RAMP_ACC d, RAMP_ACC d + 4, RAMP_SEG_LEFT d])) ∧
    (v.toNat.testBit 17 = false → v.toNat.testBit 31 = false → v.toNat.testBit 30 = false → v.toNat.testBit 29 = false → v.toNat.testBit 28 = false →
      s.chip.ramp d = rampArmed →
      ∃ u, exec (.rampDisable d v t c) s = .next { s with chip := u } ∧
        u.ramp d = rampAborted ∧ u.get (RAMP_STATUS_CAUSE d) = 1 ∧ u.get (RAMP_CTRL_ENABLE d) = 0 ∧
        (u.die d).rampAt = none ∧ (s.chip.at t).DieOnly u d ∧
        s.chip.SameRegs u [RAMP_CTRL d, RAMP_STATUS d, RAMP_EVENTS d]) ∧
    (v.toNat.testBit 31 = true → v.toNat.testBit 30 = false → v.toNat.testBit 29 = false → v.toNat.testBit 28 = true →
      (s.chip.rampBusy d = false → s.chip.foldOk d = true →
        ∃ u, exec (.rampFold d v t c) s = .next { s with chip := u } ∧
          (u.die d).rampFoldAt = some (s.chip.tick + 1) ∧ (s.chip.at t).DieOnly u d ∧ s.chip.SameRegs u [RAMP_CTRL d]) ∧
      (s.chip.rampBusy d = true ∨ s.chip.foldOk d = false →
        ∃ u, exec (.rampFold d v t c) s = .next { s with chip := u } ∧
          u.get (RAMP_EVENTS_REFUSED d) = 1 ∧ (s.chip.at t).RegsOnly u ∧
          s.chip.SameRegs u [RAMP_CTRL d, RAMP_EVENTS d]))

/-- At its boundary an armed ramp whose segment 0 has a duration runs with SEGMENT 0, its duration and the COUNT of a profile
that loops. A running segment that ends, D carrying A past no limit, has moved A by its increment for every cycle left, and the
next segment with a duration follows; without one, END = STOP ends the ramp in DONE, CHAIN goes on with the NEXT profile, LOOP
begins its profile again while passes are left and ends the ramp after the last. A clamp at a cycle of the segment after which
the next one would carry A past the limit that it names freezes A there, with STATE = CLAMPED, its cause and its event; where
the next cycle breaks no such limit the ramp runs on. -/
def Obligations.RampMotion : Prop :=
  ∀ (s : State) (d : Fin 8) (c : Nat) (cause : Fin 3), s.chip.runs d = true →
    let p := s.chip.get (RAMP_STATUS_PROFILE d)
    let i := s.chip.get (RAMP_STATUS_SEGMENT d)
    let left := s.chip.get (RAMP_SEG_LEFT_CYCLES d)
    let a := s.chip.getI (RAMP_ACC_A d) + segInc s.chip.get d p i * (left : Int)
    (∀ b, (s.chip.die d).rampAt = some b → b ≤ s.chip.tick → s.chip.ramp d = rampArmed → segDur s.chip.get d p 0 ≠ 0 →
      ∃ u, exec (.rampBegin d) s = .next { s with chip := u } ∧
        u.ramp d = rampRunning ∧ u.get (RAMP_STATUS_PROFILE d) = p ∧ u.get (RAMP_STATUS_SEGMENT d) = 0 ∧
        u.get (RAMP_SEG_LEFT_CYCLES d) = segDur s.chip.get d p 0 ∧
        u.get (RAMP_STATUS_LOOPS_LEFT d) =
          (if s.chip.get (RAMP_PROF_CTRL_END d p) = 2 then s.chip.get (RAMP_PROF_CTRL_COUNT d p) else 0) ∧ (u.die d).rampAt = none ∧
        s.chip.DieOnly u d ∧ s.chip.SameRegs u [RAMP_STATUS d, RAMP_SEG_LEFT d]) ∧
    (s.chip.ramp d = rampRunning → a.natAbs < 2 ^ 63 → s.chip.rampFree d (s.chip.getI (RAMP_ACC_A d)) (s.chip.rampInc d) left = left →
      (i < 15 → segDur s.chip.get d p (i + 1) ≠ 0 →
        ∃ u, exec (.rampSegmentEnd d c) s = .next { s with chip := u } ∧
          u.ramp d = rampRunning ∧ u.get (RAMP_STATUS_SEGMENT d) = i + 1 ∧
          u.get (RAMP_SEG_LEFT_CYCLES d) = segDur s.chip.get d p (i + 1) ∧ u.getI (RAMP_ACC_A d) = a ∧
          s.chip.DieOnly u d ∧ s.chip.SameRegs u [RAMP_STATUS d, RAMP_SEG_LEFT d, RAMP_ACC d, RAMP_ACC d + 4]) ∧
      (i = 15 ∨ segDur s.chip.get d p (i + 1) = 0 → s.chip.get (RAMP_PROF_CTRL_END d p) = 0 →
        ∃ u, exec (.rampSegmentEnd d c) s = .next { s with chip := u } ∧
          u.ramp d = rampDone ∧ u.get (RAMP_EVENTS_DONE d) = 1 ∧ u.getI (RAMP_ACC_A d) = a ∧
          s.chip.DieOnly u d ∧
          s.chip.SameRegs u [RAMP_STATUS d, RAMP_SEG_LEFT d, RAMP_ACC d, RAMP_ACC d + 4, RAMP_EVENTS d]) ∧
      (i = 15 ∨ segDur s.chip.get d p (i + 1) = 0 → s.chip.get (RAMP_PROF_CTRL_END d p) = 1 →
        let q := s.chip.get (RAMP_PROF_CTRL_NEXT d p)
        segDur s.chip.get d q 0 ≠ 0 →
        ∃ u, exec (.rampSegmentEnd d c) s = .next { s with chip := u } ∧
          u.ramp d = rampRunning ∧ u.get (RAMP_STATUS_PROFILE d) = q ∧ u.get (RAMP_STATUS_SEGMENT d) = 0 ∧
          u.get (RAMP_SEG_LEFT_CYCLES d) = segDur s.chip.get d q 0 ∧ u.getI (RAMP_ACC_A d) = a ∧
          s.chip.DieOnly u d ∧ s.chip.SameRegs u [RAMP_STATUS d, RAMP_SEG_LEFT d, RAMP_ACC d, RAMP_ACC d + 4]) ∧
      (i = 15 ∨ segDur s.chip.get d p (i + 1) = 0 → s.chip.get (RAMP_PROF_CTRL_END d p) = 2 →
        s.chip.get (RAMP_PROF_CTRL_COUNT d p) ≠ 0 →
        (s.chip.get (RAMP_STATUS_LOOPS_LEFT d) ≠ 0 → segDur s.chip.get d p 0 ≠ 0 →
          ∃ u, exec (.rampSegmentEnd d c) s = .next { s with chip := u } ∧
            u.ramp d = rampRunning ∧ u.get (RAMP_STATUS_SEGMENT d) = 0 ∧
            u.get (RAMP_STATUS_LOOPS_LEFT d) = s.chip.get (RAMP_STATUS_LOOPS_LEFT d) - 1 ∧
            u.get (RAMP_SEG_LEFT_CYCLES d) = segDur s.chip.get d p 0 ∧ u.getI (RAMP_ACC_A d) = a ∧
            s.chip.DieOnly u d ∧ s.chip.SameRegs u [RAMP_STATUS d, RAMP_SEG_LEFT d, RAMP_ACC d, RAMP_ACC d + 4]) ∧
        (s.chip.get (RAMP_STATUS_LOOPS_LEFT d) = 0 →
          ∃ u, exec (.rampSegmentEnd d c) s = .next { s with chip := u } ∧
            u.ramp d = rampDone ∧ u.get (RAMP_EVENTS_DONE d) = 1 ∧ u.getI (RAMP_ACC_A d) = a ∧
            s.chip.DieOnly u d ∧
            s.chip.SameRegs u [RAMP_STATUS d, RAMP_SEG_LEFT d, RAMP_ACC d, RAMP_ACC d + 4, RAMP_EVENTS d]))) ∧
    (let k := c - (s.chip.die d).rampUsed
      let x := s.chip.getI (RAMP_ACC_A d) + s.chip.rampInc d * (k : Int);
      s.chip.ramp d = rampRunning → k ≤ left → x.natAbs < 2 ^ 63 →
      s.chip.rampFree d (s.chip.getI (RAMP_ACC_A d)) (s.chip.rampInc d) k = k →
      (s.chip.rampLimit d (x + s.chip.rampInc d) = cause.val + 4 →
        ∃ u, exec (.rampClamp d c cause) s = .next { s with chip := u } ∧
          u.ramp d = rampClamped ∧ u.get (RAMP_STATUS_CAUSE d) = cause.val + 4 ∧ u.get (RAMP_EVENTS_CLAMPED d) = 1 ∧
          u.getI (RAMP_ACC_A d) = x ∧ s.chip.DieOnly u d ∧
          s.chip.SameRegs u [RAMP_STATUS d, RAMP_SEG_LEFT d, RAMP_ACC d, RAMP_ACC d + 4, RAMP_EVENTS d]) ∧
      (s.chip.rampLimit d (x + s.chip.rampInc d) ≠ cause.val + 4 →
        ∃ u, exec (.rampClamp d c cause) s = .next { s with chip := u } ∧
          u.ramp d = rampRunning ∧ u.getI (RAMP_ACC_A d) = x ∧ s.chip.DieOnly u d ∧
          s.chip.SameRegs u [RAMP_SEG_LEFT d, RAMP_ACC d, RAMP_ACC d + 4]))

/-- With no ramp running, a reference cycle of a core in ACQUIRE whose phase error is within WIN and is the CNT-th such in a row
makes it LOCKED off bypass, sets RELOCKED if it had been locked before, and puts a starting die in service; one outside WIN
leaves it in ACQUIRE. In LOCKED the fourth cycle in a row beyond 4 × WIN, or a coarse count outside its range, returns it to
ACQUIRE on bypass, counted as a loss and as F3. Loss of the active reference, after the cycles before it, withdraws its
qualification and sets REF_LOST: with a holdover value and without AUTO the core enters HOLDOVER on bypass with the fine code
frozen at the mean of its history, a ramp aborted with cause 2. A hop changes the band to the valid neighbour and the fine code
to the present frequency there, from which the loop filter starts again, or sets BAND_EDGE where there is none. -/
def Obligations.CoreLockAndLoss : Prop :=
  ∀ (s : State) (d : Fin 8) (fine : Nat) (m : TdcReading) (tdc : List TdcReading) (off : Int), Inv s → s.chip.runs d = true →
    (let r := (s.chip.die d).core
      let win := s.chip.get (SYN_LOCK_CFG_WIN d)
      let e := s.chip.phaseErr d (s.chip.getI (SYN_BUILDOUT_OFFSET d)) m;
      s.chip.ramp d ≠ rampRunning → r.used = tdc.length →
      (s.chip.syn d = synAcquire → e.natAbs ≤ win → s.chip.get (SYN_LOCK_CFG_CNT d) ≤ r.lockRun + 1 →
      ∃ u, exec (.lockDeclared ⟨d, tdc ++ [m]⟩) s = .next { s with chip := u } ∧
        u.syn d = synLocked ∧ u.get (SYN_STATUS_BYPASS d) = 0 ∧ (u.die d).everLocked = true ∧
        ((s.chip.die d).everLocked = true → u.get (SYN_EVENTS_RELOCKED d) = 1) ∧
        (s.chip.service d = svcStarting → u.service d = svcIn) ∧ s.chip.SameMem u) ∧
      (s.chip.syn d = synAcquire → win < e.natAbs → 0 < s.chip.get (SYN_LOCK_CFG_CNT d) →
      ∃ u, exec (.lockDeclared ⟨d, tdc ++ [m]⟩) s = .next { s with chip := u } ∧
        u.syn d = synAcquire ∧ (u.die d).core.lockRun = 0 ∧ s.chip.SameOutside u d [] ∧ s.chip.SameMem u ∧ s.chip.SameOthers u d) ∧
      (s.chip.syn d = synLocked → (4 * win < e.natAbs ∧ 3 ≤ r.badRun) ∨ m.out = true →
      ∃ u, exec (.lossOfLock ⟨d, tdc ++ [m]⟩) s = .next { s with chip := u } ∧
        u.syn d = synAcquire ∧ u.get (SYN_STATUS_BYPASS d) = 1 ∧ u.get (SYN_EVENTS_LOCK_LOST d) = 1 ∧
        u.get (SYN_LOSS_CNT_LOCK d) = min (s.chip.get (SYN_LOSS_CNT_LOCK d) + 1) (2 ^ 16 - 1) ∧
        u.get (FAULT_CNT_COUNT 3) = min (s.chip.get (FAULT_CNT_COUNT 3) + 1) (2 ^ 32 - 1) ∧
        s.chip.SameOutside u d (faultRegs d) ∧ s.chip.SameMem u ∧ s.chip.SameOthers u d)) ∧
    (let w := s.chip.coreUpTo d tdc;
      w.syn d = synLocked ∨ w.syn d = synAcquire → w.get (SYN_STATUS_REF_ACTIVE d) ≠ 3 →
      ∃ u, exec (.lossOfReference d tdc off) s = .next { s with chip := u } ∧
        u.get (SYN_EVENTS_REF_LOST d) = 1 ∧
        (u.get (SYN_STATUS_QUALIFIED d)).testBit (w.get (SYN_STATUS_REF_ACTIVE d)) = false ∧
        (w.get (SYN_STATUS_HO_VALID d) = 1 → w.get (SYN_CTRL_AUTO d) = 0 →
          u.syn d = synHoldover ∧ u.get (SYN_DCO_FINE d) = w.holdMean d % 2 ^ 16 ∧
          u.get (SYN_STATUS_BYPASS d) = 1 ∧
          u.get (SYN_STATUS_REF_ACTIVE d) = 3 ∧ u.get (SYN_EVENTS_HOLDOVER d) = 1 ∧
          u.get (SYN_LOSS_CNT_HOLDOVER d) = min (w.get (SYN_LOSS_CNT_HOLDOVER d) + 1) (2 ^ 16 - 1) ∧
          (w.rampBusy d = true → u.ramp d = rampAborted ∧ u.get (RAMP_STATUS_CAUSE d) = 2)) ∧
        w.SameOutside u d (faultRegs d) ∧ w.SameMem u ∧ w.SameOthers u d) ∧
    (s.chip.syn d = synLocked → fine < 4096 ∨ 61439 < fine →
      (∀ e, (if fine < 4096 then bandBelow (bandsOf s.chip.get d) (s.chip.get (SYN_DCO_BAND d))
          else bandAbove (bandsOf s.chip.get d) (s.chip.get (SYN_DCO_BAND d))) = some e →
        let k := band s.chip.get d (s.chip.get (SYN_DCO_BAND d))
        let f := min (fineFor (256 * bandHz (bandLow k) + fine * bandGain k) 256 e.2) (fineGuard s.chip.get d e.2)
        ∃ u, exec (.bandHop d fine) s = .next { s with chip := u } ∧
          u.get (SYN_DCO_BAND d) = e.1 % 2 ^ 7 ∧ u.get (SYN_DCO_FINE d) = f % 2 ^ 16 ∧
          (u.die d).core.fine0 = f ∧ (u.die d).core.integ = 0 ∧ (u.die d).core.filt = 0 ∧
          s.chip.SameOutside u d [] ∧ s.chip.SameMem u ∧ s.chip.SameOthers u d) ∧
      ((if fine < 4096 then bandBelow (bandsOf s.chip.get d) (s.chip.get (SYN_DCO_BAND d))
          else bandAbove (bandsOf s.chip.get d) (s.chip.get (SYN_DCO_BAND d))) = none →
        ∃ u, exec (.bandHop d fine) s = .next { s with chip := u } ∧
          u.get (SYN_EVENTS_BAND_EDGE d) = 1 ∧ u.get (SYN_DCO_BAND d) = s.chip.get (SYN_DCO_BAND d) ∧
          s.chip.RegsOnly u ∧ s.chip.SameRegs u [SYN_DCO d, SYN_EVENTS d]))

/-- An entry stored with its check bits reads as stored; with any one of its 64 bits flipped it reads corrected; with any two
different bits flipped it is uncorrectable. -/
def Obligations.LibraryCode : Prop :=
  ∀ e : Nat, secded (withCheck e) = some (withCheck e, false) ∧
    (∀ i < 64, secded (withCheck e ^^^ 2 ^ i) = some (withCheck e, true)) ∧
    (∀ i < 64, ∀ j < 64, i ≠ j → secded (withCheck e ^^^ 2 ^ i ^^^ 2 ^ j) = none)

/-- A host write of a primary entry that is not live waits for the end of the tick, and one of a live entry goes to the
live-write buffer, each in place of what waits for that entry in the other of the two; one that would clear PARK_SAFE in state
0, and one to the mirror region, is discarded and counted with its event. At the end of the tick the last write scheduled for an
entry that is not live, and the live write of one that is live no longer, is stored with its check bits and clears its poison;
one whose entry has become live goes to the buffer. No entry without such a write changes, and no register but of that die. -/
def Obligations.LibraryWrites : Prop :=
  ∀ (s : State) (d : Fin 8) (sl : Fin 2560) (q : Fin 1024) (v : BitVec 64),
    let k := entKey d sl q
    (s.chip.open d = true →
      (sl.val < 2048 → (q.val = 0 → v.toNat.testBit 47 = true) → s.chip.isLive k = false →
        ∃ u, exec (.libWrite d sl q v) s = .next { s with chip := u } ∧
          u.libQueue = s.chip.libQueue ++ [(k, v.toNat % 2 ^ 48)] ∧ u.liveOf k = none ∧
          (∀ j, j ≠ k → u.liveOf j = s.chip.liveOf j) ∧
          u = { s.chip with regs := u.regs, libQueue := u.libQueue, libLive := u.libLive, libSince := u.libSince } ∧
          s.chip.SameRegs u [LIB_STATUS d]) ∧
      (sl.val < 2048 → (q.val = 0 → v.toNat.testBit 47 = true) → s.chip.isLive k = true →
        ∃ u, exec (.libWrite d sl q v) s = .next { s with chip := u } ∧
          u.liveOf k = some (v.toNat % 2 ^ 48) ∧ (∀ j, j ≠ k → u.liveOf j = s.chip.liveOf j) ∧
          u.libQueue = s.chip.libQueue.filter (fun p => p.1 != k) ∧
          u = { s.chip with regs := u.regs, libQueue := u.libQueue, libLive := u.libLive, libSince := u.libSince } ∧
          s.chip.SameRegs u [LIB_STATUS d]) ∧
      (sl.val < 2048 → q.val = 0 → v.toNat.testBit 47 = false →
        ∃ u, exec (.libWrite d sl q v) s = .next { s with chip := u } ∧
          u.get (LIB_EVENTS_PARK_REFUSED d) = 1 ∧ u.get (LIB_EVENTS_DISCARD d) = 1 ∧
          u.get (LIB_DISCARD_CNT_COUNT d) = min (s.chip.get (LIB_DISCARD_CNT_COUNT d) + 1) (2 ^ 32 - 1) ∧
          s.chip.RegsOnly u ∧ s.chip.SameRegs u [LIB_EVENTS d, LIB_DISCARD_CNT d]) ∧
      (2048 ≤ sl.val →
        ∃ u, exec (.libWrite d sl q v) s = .next { s with chip := u } ∧
          u.get (LIB_EVENTS_MIRROR_WRITE d) = 1 ∧ u.get (LIB_EVENTS_DISCARD d) = 1 ∧
          u.get (LIB_DISCARD_CNT_COUNT d) = min (s.chip.get (LIB_DISCARD_CNT_COUNT d) + 1) (2 ^ 32 - 1) ∧
          s.chip.RegsOnly u ∧ s.chip.SameRegs u [LIB_EVENTS d, LIB_DISCARD_CNT d])) ∧
    (s.chip.runs d = true → sl.val < 2048 →
      ∃ u, exec (.libWriteApply d) s = .next { s with chip := u } ∧
        u.libQueue = s.chip.libQueue.filter (fun p => keyDie p.1 != d.val) ∧
        ((s.chip.libQueue.filter (fun p => p.1 == k)).getLast? = some (k, v.toNat % 2 ^ 48) →
          (s.chip.isLive k = true → u.liveOf k = some (v.toNat % 2 ^ 48) ∧ u.libRaw k = s.chip.libRaw k) ∧
          (s.chip.isLive k = false → s.chip.liveOf k = none → u.libRaw k = withCheck (v.toNat % 2 ^ 48) ∧ u.isPoison k = false)) ∧
        (s.chip.isLive k = false → s.chip.liveOf k = some (v.toNat % 2 ^ 48) →
          u.libRaw k = withCheck (v.toNat % 2 ^ 48) ∧ u.isPoison k = false ∧ u.liveOf k = none) ∧
        (∀ j, keyDie j ≠ d.val ∨ (∀ p ∈ s.chip.libQueue, p.1 ≠ j) ∧ (s.chip.liveOf j = none ∨ s.chip.isLive j = true) →
          u.libRaw j = s.chip.libRaw j ∧ u.isPoison j = s.chip.isPoison j) ∧
        s.chip.SameOutside u d [] ∧ u.volStage = s.chip.volStage)

/-- A mirror write stores the oldest waiting change of the die in its mirror entry, unpoisoned, and changes nothing else but the
queue that it leaves. A scrub pass without new upsets writes back every entry of the die that is correctable corrected, with
LIB_EVENTS.CE, and poisons every uncorrectable one, with UE. A poisoned entry whose other copy its die holds and can correct
takes that copy, unpoisoned, with REPAIRED and counted; the read corrects the copy too, or poisons one that is uncorrectable;
from a die that holds no library nothing comes, and the entry stays poisoned. -/
def Obligations.LibraryRepair : Prop :=
  ∀ (s : State) (d : Fin 8) (sl : Fin 2560) (q : Fin 1024),
    let k := entKey d sl q
    (d.val < s.chip.dieCount → ∀ p, s.chip.mirrorQueue.find? (fun p => keyDie p.1 == d.val) = some p →
      ∀ m, s.chip.mirrorOf p.1 = some m →
        ∃ u, exec (.mirrorWrite d) s = .next { s with chip := u } ∧
          u.libRaw m = p.2 ∧ u.isPoison m = false ∧
          (∀ j, j ≠ m → u.libRaw j = s.chip.libRaw j ∧ u.isPoison j = s.chip.isPoison j) ∧
          u = { s.chip with lib := u.lib, poison := u.poison, mirrorQueue := s.chip.mirrorQueue.erase p }) ∧
    (s.chip.runs d = true → s.chip.get (LIB_CTRL_SCRUB_EN d) = 1 → s.chip.isPoison k = false →
      (∃ w, (k, w) ∈ s.chip.lib) →
      (∀ e, secded (s.chip.libRaw k) = some (e, true) →
        ∃ u, exec (.libScrubPass d []) s = .next { s with chip := u } ∧
          u.libRaw k = e ∧ u.isPoison k = false ∧ u.get (LIB_EVENTS_CE d) = 1 ∧
          s.chip.SameRegs u [LIB_EVENTS d, LIB_CE_CNT d, LIB_UE_CNT d, LIB_UE_LOC d, LIB_STATUS d] ∧ u.volStage = s.chip.volStage) ∧
      (secded (s.chip.libRaw k) = none →
        ∃ u, exec (.libScrubPass d []) s = .next { s with chip := u } ∧
          u.libRaw k = s.chip.libRaw k ∧ u.isPoison k = true ∧ u.get (LIB_EVENTS_UE d) = 1 ∧
          s.chip.SameRegs u [LIB_EVENTS d, LIB_CE_CNT d, LIB_UE_CNT d, LIB_UE_LOC d, LIB_STATUS d] ∧ u.volStage = s.chip.volStage)) ∧
    (s.chip.runs d = true → s.chip.isPoison k = true → ∀ o, s.chip.otherCopy k = some o →
      (s.chip.holdsLib (keyDie o) = false →
        ∃ u, exec (.mirrorFetch d sl q) s = .next { s with chip := u } ∧
          u = { s.chip with regs := u.regs, dies := u.dies } ∧ s.chip.SameRegs u [LIB_STATUS d]) ∧
      (s.chip.holdsLib (keyDie o) = true → s.chip.isPoison o = false →
      (∀ e fixed, secded (s.chip.libRaw o) = some (e, fixed) →
        ∃ u, exec (.mirrorFetch d sl q) s = .next { s with chip := u } ∧
          u.libRaw k = e ∧ u.isPoison k = false ∧ u.get (LIB_EVENTS_REPAIRED d) = 1 ∧
          u.get (LIB_REPAIR_CNT_COUNT d) = min (s.chip.get (LIB_REPAIR_CNT_COUNT d) + 1) (2 ^ 32 - 1) ∧
          (fixed = true → u.libRaw o = e ∧ u.get (LIB_EVENTS_CE (keyDie o)) = 1) ∧
          (fixed = false → u.libRaw o = s.chip.libRaw o) ∧
          (∀ j, j ≠ k → u.isPoison j = s.chip.isPoison j ∧ (j ≠ o → u.libRaw j = s.chip.libRaw j)) ∧
          u = { s.chip with
            regs := u.regs, due := u.due, dies := u.dies, lib := u.lib, poison := u.poison, mirrorQueue := u.mirrorQueue } ∧
          s.chip.SameRegs u [LIB_EVENTS d, LIB_REPAIR_CNT d, LIB_STATUS d, LIB_EVENTS (keyDie o), LIB_CE_CNT (keyDie o)]) ∧
      (secded (s.chip.libRaw o) = none →
        ∃ u, exec (.mirrorFetch d sl q) s = .next { s with chip := u } ∧
          u.isPoison k = true ∧ u.isPoison o = true ∧ u.get (LIB_EVENTS_UE (keyDie o)) = 1 ∧
          (∀ j, u.libRaw j = s.chip.libRaw j ∧ (j ≠ o → u.isPoison j = s.chip.isPoison j)) ∧
          s.chip.SameRegs u [LIB_STATUS d, LIB_EVENTS (keyDie o), LIB_UE_CNT (keyDie o), LIB_UE_LOC (keyDie o)])))

/-- At boundary B + X a slot in KICK enters ACQUIRE with RUN = 0. CLEAR of a slot in FAULT waits for step 5 of its tick, which takes
the slot out of FAULT with a zero integrator, into ACQUIRE where its loop is closed and into PARKED where it is not; it does nothing
in any other state. The records of an active slot of a protected
EFE replace the ones that its backup die holds. 256 ticks without a reading set TEMP_STALE in status and events. -/
def Obligations.LoopTransitions : Prop :=
  ∀ (s : State) (d : Fin 8) (sl : Fin 2560) (c : Fin 16384),
    (s.chip.runs d = true → (s.chip.slot d sl).st = lpKick →
      (s.chip.slot d sl).kickAt + (s.chip.slot d sl).kickX ≤ s.chip.tick →
      ∃ u, exec (.kickEnd d sl) s = .next { s with chip := u } ∧
        u.slot d sl = { s.chip.slot d sl with st := lpAcquire, run := 0 } ∧
        u.get (LP_STATUS_STATE d sl) = lpAcquire ∧ s.chip.SlotOnly u d sl ∧ s.chip.SameRegs u [LP_STATUS d sl]) ∧
    (s.chip.open d = true → (s.chip.slot d sl).st = lpFault →
      ∃ u, exec (.loopClear d sl) s = .next { s with chip := u } ∧
        u.slot d sl = { s.chip.slot d sl with clearDue := true } ∧ s.chip.SlotOnly u d sl ∧ s.chip.SameRegs u []) ∧
    ((s.chip.slot d sl).st = lpFault → (s.chip.slot d sl).clearDue = true →
      let u := s.chip.clearNow d sl
      (u.slot d sl).st = (if s.chip.get (LP_CTRL_EN d sl) = 1 ∧ entLoop (s.chip.slot d sl).entry then lpAcquire else lpParked) ∧
        (u.slot d sl).integ = 0 ∧ (u.slot d sl).wVoid = true ∧ (u.slot d sl).run = 0 ∧ (u.slot d sl).faultRun = 0 ∧
        (u.slot d sl).heldRun = 0 ∧ (u.slot d sl).ovrRun = 0 ∧ (u.slot d sl).clearDue = false ∧ s.chip.SlotOnly u d sl ∧
        s.chip.SameRegs u [LP_ERR d sl, LP_INTEG d sl, LP_STATUS d sl]) ∧
    (s.chip.open d = true → (s.chip.slot d sl).st ≠ lpFault → exec (.loopClear d sl) s = .next s) ∧
    (s.chip.inService (chanDie c) = true → s.chip.isProt (chanDie c) (chanSlot c / 256) = true →
      (s.chip.slot (chanDie c) (chanSlot c)).active = true →
      (∃ u, exec (.loopRecord c) s = .next { s with chip := u } ∧
        tabGet (fun _ => none) u.loopRecs c = some (s.chip.loopRecordOf (chanDie c) (chanSlot c)) ∧
        u = { s.chip with loopRecs := u.loopRecs }) ∧
      (∃ u, exec (.standbyRecord c) s = .next { s with chip := u } ∧
        tabGet (fun _ => none) u.standbyRecs c = some (s.chip.standbyRecordOf (chanDie c) (chanSlot c)) ∧
        u = { s.chip with standbyRecs := u.standbyRecs })) ∧
    (s.chip.runs d = true → (s.chip.slot d sl).active = true → 256 ≤ (s.chip.slot d sl).tempAge →
      s.chip.get (CH_DRIVE_TEMP_STALE d sl) = 0 →
      ∃ u, exec (.tempStale d sl) s = .next { s with chip := u } ∧
        u.get (CH_DRIVE_TEMP_STALE d sl) = 1 ∧ u.get (CH_EVENTS_TEMP_STALE d sl) = 1 ∧ s.chip.RegsOnly u ∧
        s.chip.SameRegs u [CH_DRIVE d sl, CH_EVENTS d sl])

/-- The window of an active slot that ends on the present tick. A clean one in ACQUIRE or LOCKED, or in HOLD, from which the
slot first goes back to the state that it held, with RUN = 0 in ACQUIRE, runs the filter: the integrator moves by KI × e within
its clamp and corr follows; the lock detector acquires after CNT windows within WIN and stays locked within 2 × WIN; CNT windows
at the clamp are a FAULT. A held one leaves integrator and correction, counts in HELD_RUN, and is a FAULT when HELD_RUN reaches
HOLD_MAX, or when windows with OVR in a row pass their limit. -/
def Obligations.LoopWindows : Prop :=
  ∀ (s : State) (d : Fin 8) (sl : Fin 2560), s.chip.inService d = true →
    (s.chip.slot d sl).active = true → s.chip.endsOn d sl s.chip.tick = true →
    (s.chip.slot d sl).endedAt ≠ some s.chip.tick → (s.chip.slot d sl).calPhase = none →
    (s.chip.slot d sl).lastOk = false ∨ (s.chip.die d).bypSeen = false →
    let r := s.chip.slot d sl
    let e := s.chip.windowErr d sl r
    let lim : Int := s.chip.get (LP_ILIM_ILIM d sl) * 65536
    let i := clampInt (-lim) lim (r.integ + s.chip.getI (LP_KI_KI d sl) * e)
    let st := if r.st = lpHold then (if r.holdFrom = 1 then lpLocked else lpAcquire) else r.st
    let run := if r.st = lpHold ∧ r.holdFrom ≠ 1 then 0 else r.run
    (r.wHeld = 0 → r.wVoid = false → r.st = lpAcquire ∨ r.st = lpLocked ∨ r.st = lpHold →
      (i ≠ lim → i ≠ -lim →
        ∃ u, exec (.loopWindowEnd d sl) s = .next { s with chip := u } ∧
          (u.slot d sl).integ = i ∧ (u.slot d sl).lastErr = e ∧
          (u.slot d sl).corr = clampInt (-32767) 32767 (roundDiv (s.chip.getI (LP_KP_KP d sl) * e + i) 65536) ∧
          (u.slot d sl).iAcc = 0 ∧ (u.slot d sl).qAcc = 0 ∧ (u.slot d sl).heldRun = 0 ∧ (u.slot d sl).faultRun = 0 ∧
          (st = lpAcquire → e.natAbs ≤ s.chip.get (LP_WIN_WIN d sl) → s.chip.get (LP_LOCKCNT_CNT d sl) ≤ run + 1 →
            (u.slot d sl).st = lpLocked ∧ (u.slot d sl).run = 0 ∧ u.get (LP_EVENTS_LOCKED d sl) = 1) ∧
          (st = lpAcquire → e.natAbs ≤ s.chip.get (LP_WIN_WIN d sl) → run + 1 < s.chip.get (LP_LOCKCNT_CNT d sl) →
            (u.slot d sl).st = lpAcquire ∧ (u.slot d sl).run = run + 1) ∧
          (st = lpAcquire → s.chip.get (LP_WIN_WIN d sl) < e.natAbs → (u.slot d sl).st = lpAcquire ∧ (u.slot d sl).run = 0) ∧
          (st = lpLocked → e.natAbs ≤ 2 * s.chip.get (LP_WIN_WIN d sl) →
            (u.slot d sl).st = lpLocked ∧ (u.slot d sl).run = 0) ∧
          (st = lpLocked → 2 * s.chip.get (LP_WIN_WIN d sl) < e.natAbs → s.chip.get (LP_LOSSCNT_CNT d sl) ≤ run + 1 →
            (u.slot d sl).st = lpAcquire ∧ (u.slot d sl).run = 0 ∧ u.get (LP_EVENTS_LOCK_LOST d sl) = 1) ∧
          ({ s.chip with dies := u.dies } : Chip).SlotOnly u d sl ∧ s.chip.DieOnly { s.chip with dies := u.dies } d ∧
          s.chip.SameRegs u [LP_I d sl, LP_Q d sl, LP_ERR d sl, LP_INTEG d sl, LP_STATUS d sl, LP_EVENTS d sl]) ∧
      (i = lim ∨ i = -lim → s.chip.get (LP_FAULTCNT_CNT d sl) ≤ min 127 (r.faultRun + 1) → s.chip.get (LP_CTRL_FAULT_ACT d sl) = 1 →
        ∃ u, exec (.loopWindowEnd d sl) s = .next { s with chip := u } ∧
          (u.slot d sl).st = lpFault ∧ (u.slot d sl).faultCause = 1 ∧ u.get (LP_EVENTS_FAULT d sl) = 1 ∧
          (u.slot d sl).integ = i ∧
          u.get (FAULT_CNT_COUNT 2) = min (s.chip.get (FAULT_CNT_COUNT 2) + 1) (2 ^ 32 - 1) ∧ s.chip.SameMem u)) ∧
    (r.wHeld ≠ 0 → r.st = lpAcquire ∨ r.st = lpLocked ∨ r.st = lpHold →
      ((r.wOvr = true → r.ovrRun < s.chip.get (LP_OVRCNT_OVR d sl)) →
        (s.chip.get (LP_OVRCNT_HOLD_MAX d sl) = 0 ∨ min 127 (r.heldRun + 1) < s.chip.get (LP_OVRCNT_HOLD_MAX d sl)) →
        ∃ u, exec (.loopWindowEnd d sl) s = .next { s with chip := u } ∧
          (u.slot d sl).integ = r.integ ∧ (u.slot d sl).corr = r.corr ∧ (u.slot d sl).st = r.st ∧
          (u.slot d sl).run = r.run ∧ (u.slot d sl).heldRun = min 127 (r.heldRun + 1) ∧ (u.slot d sl).iAcc = 0 ∧
          (u.slot d sl).qAcc = 0 ∧ s.chip.SlotOnly u d sl ∧
          s.chip.SameRegs u [LP_I d sl, LP_Q d sl, LP_ERR d sl, LP_INTEG d sl, LP_STATUS d sl]) ∧
      (r.wOvr = true → s.chip.get (LP_OVRCNT_OVR d sl) ≤ r.ovrRun → s.chip.get (LP_CTRL_FAULT_ACT d sl) = 1 →
        ∃ u, exec (.loopWindowEnd d sl) s = .next { s with chip := u } ∧
          (u.slot d sl).st = lpFault ∧ (u.slot d sl).faultCause = 2 ∧ u.get (LP_EVENTS_FAULT d sl) = 1 ∧
          (u.slot d sl).integ = r.integ ∧ (u.slot d sl).corr = r.corr ∧ s.chip.SameMem u) ∧
      ((r.wOvr = true → r.ovrRun < s.chip.get (LP_OVRCNT_OVR d sl)) → s.chip.get (LP_OVRCNT_HOLD_MAX d sl) ≠ 0 →
        s.chip.get (LP_OVRCNT_HOLD_MAX d sl) ≤ min 127 (r.heldRun + 1) → s.chip.get (LP_CTRL_FAULT_ACT d sl) = 1 →
        ∃ u, exec (.loopWindowEnd d sl) s = .next { s with chip := u } ∧
          (u.slot d sl).st = lpFault ∧ (u.slot d sl).faultCause = 3 ∧ u.get (LP_EVENTS_FAULT d sl) = 1 ∧
          (u.slot d sl).integ = r.integ ∧ (u.slot d sl).corr = r.corr ∧ s.chip.SameMem u))

/-- GO on a port that is ACTIVE or WARM and not BUSY: the command, with the port's ADDR and DATA, waits as the host's next one
and BUSY is set, for every opcode; a WRITE of a PARK register completes at once with PROTECTED instead, and a SPOT while
calibration measures the port starts its hold. A GO while BUSY only sets CMD_REFUSED; on a port that is not up the command
completes with LINK_DOWN. -/
def Obligations.ProxyCommands : Prop :=
  ∀ (s : State) (d : Fin 8) (p : Fin 16) (v : Word), s.chip.open d = true →
    let op := v.toNat % 64
    let a := s.chip.get (EFE_ADDR_ADDR d p)
    let taken : Instr → Prop := fun i =>
      s.chip.get (EFE_RSP_BUSY d p) = 0 → s.chip.elUp d p = true →
        ∃ u, exec i s = .next { s with chip := u } ∧
          u.get (EFE_RSP_BUSY d p) = 1 ∧ u.get (EFE_CMD_OPCODE d p) = op ∧
          (u.port d p).host = some ⟨op, a, s.chip.get (EFE_DATA_DATA d p)⟩ ∧
          (u.port d p).spotSince = (if op = 3 ∧ (s.chip.port d p).calHold = true then some s.chip.tick else none) ∧
          s.chip.PortOnly u d p ∧ s.chip.SameRegs u [EFE_CMD d p, EFE_RSP d p]
    let turnedAway : Instr → Prop := fun i =>
      (s.chip.get (EFE_RSP_BUSY d p) = 1 →
        ∃ u, exec i s = .next { s with chip := u } ∧
          u.get (EFE_EVENTS_CMD_REFUSED d) = 1 ∧ s.chip.RegsOnly u ∧ s.chip.SameRegs u [EFE_EVENTS d]) ∧
      (s.chip.get (EFE_RSP_BUSY d p) = 0 → s.chip.elUp d p = false →
        ∃ u, exec i s = .next { s with chip := u } ∧
          u.get (EFE_RSP_RESULT d p) = 0x82 ∧ u.get (EFE_RSP_DONE d p) = 1 ∧ u.get (EFE_RSP_BUSY d p) = 0 ∧
          u.get (EFE_EVENTS_CMD_REFUSED d) = 1 ∧ u.get (EFE_EVENTS_CMD_DONE d) = 1 ∧ s.chip.PortOnly u d p ∧
          s.chip.SameRegs u [EFE_CMD d p, EFE_RSP d p, EFE_RSP_DATA d p, EFE_EVENTS d])
    (op = 0 → taken (.efeCmdNop d p v) ∧ turnedAway (.efeCmdNop d p v)) ∧
    (op = 1 → taken (.efeCmdRead d p v) ∧ turnedAway (.efeCmdRead d p v)) ∧
    (op = 2 → (a < 0x100 ∨ 0x200 ≤ a → taken (.efeCmdWrite d p v)) ∧ turnedAway (.efeCmdWrite d p v) ∧
      (0x100 ≤ a → a < 0x200 → s.chip.get (EFE_RSP_BUSY d p) = 0 → s.chip.elUp d p = true →
        ∃ u, exec (.efeCmdWrite d p v) s = .next { s with chip := u } ∧
          u.get (EFE_RSP_RESULT d p) = 0x83 ∧ u.get (EFE_RSP_DONE d p) = 1 ∧ u.get (EFE_RSP_BUSY d p) = 0 ∧
          u.get (EFE_EVENTS_CMD_REFUSED d) = 1 ∧ s.chip.PortOnly u d p ∧
          s.chip.SameRegs u [EFE_CMD d p, EFE_RSP d p, EFE_RSP_DATA d p, EFE_EVENTS d])) ∧
    (op = 3 → taken (.efeCmdSpot d p v) ∧ turnedAway (.efeCmdSpot d p v)) ∧
    (op = 4 → taken (.efeCmdEcho d p v) ∧ turnedAway (.efeCmdEcho d p v)) ∧
    (5 ≤ op → taken (.efeCmdOther d p v) ∧ turnedAway (.efeCmdOther d p v))

/-- Four ticks without a response a command goes out again at the coming boundary while it has been sent fewer than three times.
After that a host command ends with TIMEOUT, and a conversion of the settling check takes the slots on its monitor input out of
the run. A SPOT held for more than 64 ticks ends with BUSY_CAL. A read of EFE_WIN_POP_LO takes the oldest entry out of the FIFO,
shows it and counts the rest; on an empty FIFO it shows zeros; a port that claims no memory requests answers Unsupported
Request. -/
def Obligations.ProxyTimeouts : Prop :=
  ∀ (s : State) (d : Fin 8) (p : Fin 16) (h : Fin 2),
    (s.chip.runs d = true →
      (∀ o, (s.chip.port d p).out = some o → o.sent + 4 ≤ s.chip.tick →
        (o.tries < 3 →
          ∃ u, exec (.efeCmdRetry d p) s = .next { s with chip := u } ∧
            (u.port d p).out = some { o with sent := s.chip.comingB, tries := o.tries + 1 } ∧
            s.chip.PortOnly u d p ∧ s.chip.SameRegs u []) ∧
        (3 ≤ o.tries → o.host = true →
          ∃ u, exec (.efeCmdRetry d p) s = .next { s with chip := u } ∧
            (u.port d p).out = none ∧ (u.port d p).host = none ∧ u.get (EFE_RSP_RESULT d p) = 0x80 ∧
            u.get (EFE_RSP_TAG d p) = o.tag % 256 ∧ u.get (EFE_RSP_DONE d p) = 1 ∧ u.get (EFE_RSP_BUSY d p) = 0 ∧
            u.get (EFE_EVENTS_CMD_DONE d) = 1 ∧ s.chip.PortOnly u d p ∧
            s.chip.SameRegs u [EFE_RSP d p, EFE_RSP_DATA d p, EFE_EVENTS d]) ∧
        (3 ≤ o.tries → o.host = false → o.cmd.op = 3 →
          ∃ u, exec (.efeCmdRetry d p) s = .next { s with chip := u } ∧
            (u.port d p).out = none ∧
            (∀ sl ∈ s.chip.activeSlots d, s.chip.slotPort d sl = p.val → s.chip.get (CH_MON_SEL_POS d sl) = o.cmd.addr →
              (u.slot d sl).calOk = false) ∧
            u = { s.chip with slots := u.slots, ports := u.ports })) ∧
      (∀ n, (s.chip.port d p).spotSince = some n → n + 64 < s.chip.tick →
        ∃ u, exec (.spotHoldTimeout d p) s = .next { s with chip := u } ∧
          (u.port d p).host = none ∧ (u.port d p).spotSince = none ∧ u.get (EFE_RSP_RESULT d p) = 0x81 ∧
          u.get (EFE_RSP_DONE d p) = 1 ∧ u.get (EFE_RSP_BUSY d p) = 0 ∧ u.get (CAL_EVENTS_BUSY_CAL d) = 1 ∧
          s.chip.PortOnly u d p ∧
          s.chip.SameRegs u [EFE_RSP d p, EFE_RSP_DATA d p, EFE_EVENTS d, CAL_EVENTS d])) ∧
    (s.chip.hostUp h = true → s.chip.memOn h = false →
      exec (.efeWinPop h d) s = .next { s with chip := s.chip.unsupported h }) ∧
    (s.chip.hostUp h = true → s.chip.memOn h = true → s.chip.open d = true →
      (∀ e q, tabGet (fun _ => []) s.chip.winFifo d = e :: q → q.length < 512 →
        ∃ u, exec (.efeWinPop h d) s = .next { s with chip := u } ∧
          u.reg (EFE_WIN_POP_LO d) = BitVec.ofNat 32 e.1 ∧ u.reg (EFE_WIN_POP_HI d) = BitVec.ofNat 32 e.2 ∧
          tabGet (fun _ => []) u.winFifo d = q ∧ u.get (EFE_WIN_STATUS_COUNT d) = q.length ∧
          (u.host h).cpl = [BitVec.ofNat 32 e.1] ∧ (u.host h).cplStatus = 0 ∧
          u = { s.chip with regs := u.regs, winFifo := u.winFifo, hosts := u.hosts, latency := u.latency, freeCnt := u.freeCnt } ∧
          s.chip.SameRegs u [EFE_WIN_POP_LO d, EFE_WIN_POP_HI d, EFE_WIN_STATUS d]) ∧
      (tabGet (fun _ => []) s.chip.winFifo d = [] →
        ∃ u, exec (.efeWinPop h d) s = .next { s with chip := u } ∧
          u.reg (EFE_WIN_POP_LO d) = 0 ∧ u.reg (EFE_WIN_POP_HI d) = 0 ∧ (u.host h).cpl = [0] ∧
          u = { s.chip with regs := u.regs, hosts := u.hosts, latency := u.latency, freeCnt := u.freeCnt } ∧
          s.chip.SameRegs u [EFE_WIN_POP_LO d, EFE_WIN_POP_HI d]))

/-- Block lock takes SYNC to CAPS, where the die sends its CAPS frame. In CAPS the status byte and UNTIMED of a valid frame are
shown and a first acknowledged capability word remembered; the same word again is recorded in ELINK_CAP and either refused, with
FAILED and a cause, or accepted, with TRAIN at a rate that both sides have and a TRAIN frame with that rate; without an exchange
the port fails with CAUSE 7. In TRAIN the answer is followed by GO and the rate, the end of the count by the wait for RESULT, and
a passed RESULT by ACTIVE where the die serves the EFE, with ADOPT frames from the boundary after next, and by WARM where it does
not; a RESULT that has not passed, or a timeout, takes the port to SYNC or, with CAUSE 8, to FAILED. An invalid frame is only
counted as UL_CRC. FAILED is left for SYNC. -/
def Obligations.LinkNegotiation : Prop :=
  ∀ (s : State) (d : Fin 8) (p : Fin 16) (cap : BitVec 64) (ack pass : Bool) (h : UpHead) (rate : Fin 4) (n : Nat),
    s.chip.runs d = true →
    let frame : Chip → Prop := fun u =>
      s.chip.SameOutside u d (faultRegs d) ∧ s.chip.SameMem u ∧
        ∀ k, k ≠ d.val * 16 + p.val → tabGet (fun _ => {}) u.ports k = tabGet (fun _ => {}) s.chip.ports k
    let told : List Nat := [ELINK_EFE d p, ELINK_EVENTS d p, ELINK_DL_CRC_CNT d p, ELINK_STATUS d p]
    let shown : Chip → Prop := fun u =>
      u.get (ELINK_EFE_STATUS d p) = h.status.toNat ∧ u.get (ELINK_EFE_UNTIMED d p) = (if h.untimed then 1 else 0) ∧
        (h.untimed = true → u.get (ELINK_EVENTS_UNTIMED d p) = 1) ∧
        u.get (ELINK_STATUS_EFE_ACTIVE d p) = (if h.status.toNat.testBit 6 then 1 else 0) ∧
        (h.status.toNat.testBit 6 = true → s.chip.get (ELINK_STATUS_EFE_ACTIVE d p) = 0 → u.get (ELINK_EVENTS_ADOPTED d p) = 1) ∧
        (h.status.toNat.testBit 2 = true → u.get (ELINK_EVENTS_DL_CRC d p) = 1 ∧
          u.get (ELINK_DL_CRC_CNT_COUNT d p) = min (s.chip.get (ELINK_DL_CRC_CNT_COUNT d p) + 1) (2 ^ 32 - 1))
    let crc : Instr → Prop := fun i =>
      ∃ u, exec i s = .next { s with chip := u } ∧
        u.get (ELINK_EVENTS_UL_CRC d p) = 1 ∧
        u.get (ELINK_UL_CRC_CNT_COUNT d p) = min (s.chip.get (ELINK_UL_CRC_CNT_COUNT d p) + 1) (2 ^ 32 - 1) ∧ s.chip.RegsOnly u ∧
        s.chip.SameRegs u [ELINK_EVENTS d p, ELINK_UL_CRC_CNT d p]
    let ended : Chip → Prop := fun u =>
      (u.el d p = elSync ∧ u.get (ELINK_STATUS_RATE d p) = 1 ∧
          (u.port d p).failed = maskSet (s.chip.port d p).failed ((s.chip.port d p).rate - 1) ∨
        u.el d p = elFailed ∧ u.get (ELINK_STATUS_CAUSE d p) = 8 ∧ u.get (ELINK_EVENTS_FAILED d p) = 1) ∧ frame u
    (s.chip.el d p = elSync →
      ∃ u, exec (.blockLock d p) s = .next { s with chip := u } ∧
        u.el d p = elCaps ∧ u.get (ELINK_STATUS_LOCK d p) = 1 ∧
        (u.port d p).sent = some ⟨2, s.chip.get (ELINK_CTRL_WIDTH d p), (s.chip.port d p).capsSeen, s.chip.dieCap d p⟩ ∧
        s.chip.PortOnly u d p ∧
        s.chip.SameRegs u [ELINK_STATUS d p, ELINK_SUMMARY d]) ∧
    (s.chip.el d p = elCaps →
      crc (.capsFrame d p cap ack false h) ∧
      (∃ u, exec (.capsFrame d p cap false true h) s = .next { s with chip := u } ∧
        u.port d p = { s.chip.port d p with capsStatus := h.status.toNat, capsSeen := true } ∧ shown u ∧ s.chip.PortOnly u d p ∧
        s.chip.SameRegs u told) ∧
      ((s.chip.port d p).caps ≠ some cap.toNat →
        ∃ u, exec (.capsFrame d p cap true true h) s = .next { s with chip := u } ∧
          u.port d p = { s.chip.port d p with caps := some cap.toNat, capsStatus := h.status.toNat, capsSeen := true } ∧ shown u ∧
          s.chip.PortOnly u d p ∧ s.chip.SameRegs u told) ∧
      ((s.chip.port d p).caps = some cap.toNat →
        ∃ u, exec (.capsFrame d p cap true true h) s = .next { s with chip := u } ∧
          u.get (ELINK_CAP_CAP d p) = cap.toNat ∧ shown u ∧
          (capVersion cap.toNat ≠ 1 → u.el d p = elFailed ∧ u.get (ELINK_STATUS_CAUSE d p) = 1 ∧
            u.get (ELINK_EVENTS_FAILED d p) = 1 ∧
            u.get (FAULT_CNT_COUNT 2) = min (s.chip.get (FAULT_CNT_COUNT 2) + 1) (2 ^ 32 - 1)) ∧
          (capVersion cap.toNat = 1 → capHold cap.toNat = 0 →
            u.el d p = elFailed ∧ u.get (ELINK_STATUS_CAUSE d p) = 10) ∧
          (u.el d p = elTrain ∨ u.el d p = elFailed) ∧
          (u.el d p = elTrain → (u.port d p).rate ∈ [1, 2, 3] ∧ (u.port d p).phase = 0 ∧
            (u.port d p).sent = some ⟨3, s.chip.get (ELINK_CTRL_WIDTH d p), false, (u.port d p).rate * 2 ^ 61⟩ ∧
            maskBit (s.chip.get (ELINK_CTRL_RATE_EN d p)) ((u.port d p).rate - 1) = true ∧
            maskBit (capRates cap.toNat) ((u.port d p).rate - 1) = true) ∧ frame u) ∧
      (∃ u, exec (.capsTimeout d p) s = .next { s with chip := u } ∧
        u.el d p = elFailed ∧ u.get (ELINK_STATUS_CAUSE d p) = 7 ∧ u.get (ELINK_EVENTS_FAILED d p) = 1 ∧ frame u)) ∧
    (s.chip.el d p = elTrain →
      crc (.trainFrame d p ⟨rate, h, false⟩) ∧
      ((s.chip.port d p).phase = 2 → crc (.resultFrame d p pass ⟨n, h, false⟩)) ∧
      ((s.chip.port d p).phase = 0 → (s.chip.port d p).rate = rate.val →
        ∃ u, exec (.trainFrame d p ⟨rate, h, true⟩) s = .next { s with chip := u } ∧
          (u.port d p).sent = some ⟨3, s.chip.get (ELINK_CTRL_WIDTH d p), false, rate.val * 2 ^ 61 + 2 ^ 60⟩ ∧
          (u.port d p).phase = 1 ∧ u.get (ELINK_STATUS_RATE d p) = rate.val ∧ u.get (ELINK_STATUS_LOCK d p) = 0 ∧
          shown u ∧ s.chip.PortOnly u d p ∧ s.chip.SameRegs u told) ∧
      ((s.chip.port d p).phase = 1 →
        ∃ u, exec (.prbsCheckEnd d p n) s = .next { s with chip := u } ∧
          (u.port d p).phase = 2 ∧ (u.port d p).errors = n ∧ s.chip.PortOnly u d p ∧ s.chip.SameRegs u []) ∧
      ((s.chip.port d p).phase = 2 → (s.chip.port d p).errors = 0 →
        ∃ u, exec (.resultFrame d p true ⟨n, h, true⟩) s = .next { s with chip := u } ∧
          u.el d p = (if s.chip.portServes d p = true then elActive else elWarm) ∧
          (s.chip.portServes d p = true → u.get (ELINK_STATUS_ADOPTING d p) = 1 ∧ (u.port d p).adoptLeft = 9 ∧
            ((s.chip.port d p).firstA = none → (u.port d p).firstA = some (s.chip.tick + 2))) ∧
          u.get (ELINK_EVENTS_UP d p) = 1 ∧ u.get (ELINK_TRAIN_ERRORS d p) = min n 65535 ∧ shown u ∧
          u.get (ELINK_STATUS_WIDTH d p) = s.chip.get (ELINK_CTRL_WIDTH d p) ∧
          s.chip.SameOutside u d (faultRegs d) ∧
          ∀ k, k ≠ d.val * 16 + p.val → tabGet (fun _ => {}) u.ports k = tabGet (fun _ => {}) s.chip.ports k) ∧
      ((s.chip.port d p).rate ∈ [1, 2, 3] →
        (∃ u, exec (.trainTimeout d p) s = .next { s with chip := u } ∧ ended u) ∧
        ((s.chip.port d p).phase = 2 → pass = false ∨ (s.chip.port d p).errors ≠ 0 →
          ∃ u, exec (.resultFrame d p pass ⟨n, h, true⟩) s = .next { s with chip := u } ∧ ended u ∧ shown u ∧
            u.get (ELINK_TRAIN_ERRORS d p) = min n 65535))) ∧
    (s.chip.el d p = elFailed →
      ∃ u, exec (.failedRetry d p) s = .next { s with chip := u } ∧
        u.el d p = elSync ∧ u.get (ELINK_STATUS_RATE d p) = 1 ∧ u.get (ELINK_STATUS_LOCK d p) = 0 ∧ s.chip.PortOnly u d p ∧
        s.chip.SameRegs u [ELINK_STATUS d p, ELINK_SUMMARY d])

/-- An invalid uplink frame sets UL_CRC and is counted, a missing one UL_MISS, and both count in the measurement of the port that
calibration makes; the sixteenth bad frame in a row loses the link.
A good frame ends the run of bad ones, shows the EFE's status, counts a wrong echo and, as a TICK frame on an ACTIVE port,
leaves its samples for the tick. Loss of the link, and RETRAIN without the event, retrain the port in SYNC, counted, and reset
the far side of its crossing. An unordered park that is due moves every active slot of the EFE to state 0, sends ADOPT again and
raises both events and an F2 fault. -/
def Obligations.UplinkAndLoss : Prop :=
  ∀ (s : State) (d : Fin 8) (p : Fin 16) (f : UpFrame), Inv s →
    let frame : Chip → Prop := fun u =>
      s.chip.SameOutside u d (faultRegs d) ∧ s.chip.SameMem u ∧ s.chip.SameOthers u d
    let spared : Chip → Prop := fun u =>
      u = { s.chip with regs := u.regs, ports := u.ports, cals := u.cals } ∧
        (∀ k, k ≠ d.val * 16 + p.val → tabGet (fun _ => {}) u.ports k = tabGet (fun _ => {}) s.chip.ports k) ∧
        (u.cal d).portBad = (s.chip.cal d).portBad +
          (if s.chip.calRuns d calLink = true ∧ (s.chip.cal d).port = p.val then 1 else 0)
    let down : Chip → Prop := fun u =>
      u.el d p = elSync ∧ u.get (ELINK_RETRAIN_CNT_COUNT d p) = min (s.chip.get (ELINK_RETRAIN_CNT_COUNT d p) + 1) (2 ^ 32 - 1) ∧
        (u.port d p).badRun = 0 ∧ (u.port d p).out = none ∧ (u.port d p).host = none ∧ u.get (ELINK_STATUS_ADOPTING d p) = 0 ∧
        (s.chip.runs d = true → u.get ⟨CLK_XING_STATUS d, 16 + p, 1⟩ = 1)
    (s.chip.runs d = true → s.chip.elUp d p = true →
      (f.ok = false → (s.chip.port d p).badRun < 15 →
        ∃ u, exec (.uplinkFrame d p f) s = .next { s with chip := u } ∧
          u.get (ELINK_EVENTS_UL_CRC d p) = 1 ∧
          u.get (ELINK_UL_CRC_CNT_COUNT d p) = min (s.chip.get (ELINK_UL_CRC_CNT_COUNT d p) + 1) (2 ^ 32 - 1) ∧
          (u.port d p).badRun = (s.chip.port d p).badRun + 1 ∧ spared u ∧
          s.chip.SameRegs u [ELINK_EVENTS d p, ELINK_UL_CRC_CNT d p]) ∧
      (f.ok = true →
        ∃ u, exec (.uplinkFrame d p f) s = .next { s with chip := u } ∧
          (u.port d p).badRun = 0 ∧ u.get (ELINK_EFE_STATUS d p) = f.status.toNat ∧
          u.get (ELINK_EFE_UNTIMED d p) = (if f.untimed then 1 else 0) ∧
          (f.echo.toNat ≠ s.chip.tick % 2 ^ 32 → u.get (ELINK_EVENTS_UL_MISS d p) = 1 ∧
            u.get (ELINK_UL_MISS_CNT_COUNT d p) = min (s.chip.get (ELINK_UL_MISS_CNT_COUNT d p) + 1) (2 ^ 32 - 1)) ∧
          (f.tick = true → s.chip.el d p = elActive →
            ∃ x, tabGet (fun _ => none) u.frames (d.val * 16 + p.val) = some x ∧ x.samples.length = f.samples.length ∧
              x.cause = (if f.echo.toNat ≠ s.chip.tick % 2 ^ 32 then causeStale else if f.untimed then causeUntimed else 0) ∧
              x.samples.map (·.x) = f.samples.map (·.x.toNat)) ∧
          frame u) ∧
      ((s.chip.port d p).badRun < 15 →
        ∃ u, exec (.uplinkDeadline d p) s = .next { s with chip := u } ∧
          u.get (ELINK_EVENTS_UL_MISS d p) = 1 ∧
          u.get (ELINK_UL_MISS_CNT_COUNT d p) = min (s.chip.get (ELINK_UL_MISS_CNT_COUNT d p) + 1) (2 ^ 32 - 1) ∧
          (u.port d p).badRun = (s.chip.port d p).badRun + 1 ∧ spared u ∧
          s.chip.SameRegs u [ELINK_EVENTS d p, ELINK_UL_MISS_CNT d p]) ∧
      (15 ≤ (s.chip.port d p).badRun → f.ok = false →
        ∃ u, exec (.uplinkFrame d p f) s = .next { s with chip := u } ∧
          u.get (ELINK_EVENTS_UL_CRC d p) = 1 ∧ u.get (ELINK_EVENTS_DOWN d p) = 1 ∧ down u ∧ frame u) ∧
      (15 ≤ (s.chip.port d p).badRun →
        ∃ u, exec (.uplinkDeadline d p) s = .next { s with chip := u } ∧
          u.get (ELINK_EVENTS_UL_MISS d p) = 1 ∧ u.get (ELINK_EVENTS_DOWN d p) = 1 ∧ down u ∧ frame u) ∧
      (∃ u, exec (.linkLoss d p) s = .next { s with chip := u } ∧
        u.get (ELINK_EVENTS_DOWN d p) = 1 ∧ u.get (ELINK_STATUS_CAUSE d p) = 9 ∧
        u.get (FAULT_CNT_COUNT 3) = min (s.chip.get (FAULT_CNT_COUNT 3) + 1) (2 ^ 32 - 1) ∧ down u ∧ frame u)) ∧
    (s.chip.open d = true → s.chip.elUp d p = true →
      ∃ u, exec (.elinkRetrain d p) s = .next { s with chip := u } ∧
        u.get (ELINK_EVENTS_DOWN d p) = s.chip.get (ELINK_EVENTS_DOWN d p) ∧ down u ∧ frame u) ∧
    (s.chip.runs d = true → ∀ b, (s.chip.port d p).parkDue = some b → b ≤ s.chip.tick + 1 →
      ∃ u, exec (.efeUnorderedPark d p) s = .next { s with chip := u } ∧
        (u.port d p).parkDue = none ∧ (u.port d p).adoptLeft = 8 ∧ u.get (ELINK_STATUS_ADOPTING d p) = 1 ∧
        u.get (ELINK_EVENTS_EFE_PARKED d p) = 1 ∧ u.get (EFE_EVENTS_EFE_PARKED d) = 1 ∧
        min (s.chip.get (FAULT_CNT_COUNT 2) + 1) (2 ^ 32 - 1) ≤ u.get (FAULT_CNT_COUNT 2) ∧
        ∀ sl ∈ s.chip.portSlots d p, u.get (CH_STATE_CURRENT d sl) = 0 ∧ (u.slot d sl).integ = 0 ∧ (u.slot d sl).corr = 0)

/-- A write of CAL_CTRL that keeps what runs enabled brings EN and ITEM_EN into force and makes the requested enabled items
pending. An abort of the running item is noted for the end of the tick; one in the tick of acceptance, after it, raises ABORT_LATE.
LOAD_TDC and LOAD_EQ start a blend to the host's values: the item is valid, its result HOST, its temperature the present one.
The temperature trigger makes an enabled item pending once the temperature has moved by more than DT and the interval has passed;
the retry timer lets a failed item run again. -/
def Obligations.CalRequests : Prop :=
  ∀ (s : State) (d : Fin 8) (k : Fin 5) (v : Word),
    let x := v.toNat
    let only : Chip → List Nat → Prop := fun u l =>
      u = { s.chip with regs := u.regs, due := u.due, cals := u.cals, slots := u.slots, ports := u.ports } ∧
        (∀ e : Fin 8, e ≠ d → u.cal e = s.chip.cal e) ∧ s.chip.SameRegs u l
    let written : Chip → Prop := fun u =>
      u.get (CAL_CTRL_EN d) = x / 2 ^ 31 ∧ u.get (CAL_CTRL_ITEM_EN d) = x % 32
    let loads : Chip → Nat → Prop := fun u i =>
      maskBit (u.get (CAL_STATUS_BLENDING d)) i = true ∧ maskBit (u.get (CAL_STATUS_VALID d)) i = true ∧
        u.get (CAL_ITEM_STATUS_RESULT d i) = 6 ∧ u.get (CAL_ITEM_STATUS_CAUSE d i) = 0 ∧
        u.get (CAL_ITEM_STATUS_T_LAST d i) = s.chip.get (CAL_T_NOW_TEMP d) ∧ u.get (CAL_ITEM_AGE_SEC d i) = 0 ∧
        only u [CAL_CTRL d, CAL_STATUS d, CAL_ITEM_STATUS d i, CAL_ITEM_AGE d i]
    (s.chip.open d = true → s.chip.get (CAL_STATUS_RUNNING d) = 0 → x / 2 ^ 24 % 4 = 0 → x / 2 ^ 8 % 32 = 0 →
      ∃ u, exec (.calRequest d v) s = .next { s with chip := u } ∧ written u ∧
        (∀ j : Fin 5, maskBit (u.get (CAL_STATUS_PENDING d)) j =
          (maskBit (s.chip.get (CAL_STATUS_PENDING d)) j || maskBit x 31 && maskBit x j && maskBit x (16 + j))) ∧
        (∀ j : Fin 5, maskBit (u.cal d).retry j =
          (maskBit (s.chip.cal d).retry j && !(maskBit x 31 && maskBit x j && maskBit x (16 + j)))) ∧
        u.slots = s.chip.slots ∧ u.ports = s.chip.ports ∧ only u [CAL_CTRL d, CAL_STATUS d]) ∧
    (s.chip.open d = true → maskBit x 31 = true → maskBit x k = true → x / 2 ^ 24 % 4 = 0 → x / 2 ^ 8 % 32 = 2 ^ k.val →
      x / 2 ^ 16 % 32 = 0 →
      (s.chip.get (CAL_STATUS_RUNNING d) = k + 1 →
        ∃ u, exec (.calAbort d v) s = .next { s with chip := u } ∧ written u ∧
          u.cal d = { s.chip.cal d with abortDue := maskSet (s.chip.cal d).abortDue k } ∧
          u.slots = s.chip.slots ∧ u.ports = s.chip.ports ∧ only u [CAL_CTRL d]) ∧
      (s.chip.get (CAL_STATUS_RUNNING d) = 0 → s.chip.upTicks ≠ 0 →
        tabGet (fun _ => 0) (s.chip.cal d).accepted k = s.chip.upTicks →
        ∃ u, exec (.calAbort d v) s = .next { s with chip := u } ∧ written u ∧ u.get (CAL_EVENTS_ABORT_LATE d) = 1 ∧
          s.chip.RegsOnly u ∧ s.chip.SameRegs u [CAL_CTRL d, CAL_EVENTS d])) ∧
    (s.chip.open d = true → s.chip.get (CAL_STATUS_RUNNING d) = 0 → x / 2 ^ 8 % 32 = 0 → x / 2 ^ 16 % 32 = 0 →
      (x / 2 ^ 24 % 4 = 1 →
        ∃ u, exec (.calLoadTdc d v) s = .next { s with chip := u } ∧ written u ∧
          u.cal d = { s.chip.cal d with
            tapStep := 0
            taps := (List.range 64).map (fun i => (s.chip.get (CAL_TDC_TAP_DELAY d i), s.chip.get (CAL_TDC_SET_DELAY d i))) } ∧
          loads u calTdc) ∧
      (x / 2 ^ 24 % 4 = 2 →
        ∃ u, exec (.calLoadEq d v) s = .next { s with chip := u } ∧ written u ∧
          u.cal d = { s.chip.cal d with eqs := ports16.map (fun p =>
            (p, s.chip.getI (CAL_EQ_SET_VTH d p), s.chip.getI (CAL_EQ_SET_DFE1 d p), s.chip.getI (CAL_EQ_SET_DFE2 d p))) } ∧
          loads u calLink)) ∧
    (s.chip.inService d = true → s.chip.on (CAL_CTRL_EN d) = true → maskBit (s.chip.get (CAL_CTRL_ITEM_EN d)) k = true →
      16 * max 1 (s.chip.get (CAL_CFG_DT d)) < (s.chip.getI (CAL_T_NOW_TEMP d) - s.chip.getI (CAL_ITEM_STATUS_T_LAST d k)).natAbs →
      tabGet (fun _ => 0) (s.chip.cal d).began k + s.chip.calInterval d ≤ s.chip.upTicks →
      ∃ u, exec (.calTempTrigger d k) s = .next { s with chip := u } ∧
        u.get (CAL_STATUS_PENDING d) = maskSet (s.chip.get (CAL_STATUS_PENDING d)) k ∧ only u [CAL_STATUS d]) ∧
    (s.chip.calOn d = true → maskBit (s.chip.cal d).retry k = true →
      tabGet (fun _ => 0) (s.chip.cal d).began k + s.chip.calInterval d ≤ s.chip.upTicks →
      ∃ u, exec (.calRetryTimer d k) s = .next { s with chip := u } ∧
        u.cal d = { s.chip.cal d with retry := maskClear (s.chip.cal d).retry k } ∧ only u [])

/-- The lowest pending enabled item starts when none runs; one whose inputs are unsuitable ends at once. A suitable first
measurement is kept; a second one that agrees is accepted: RESULT ACCEPTED, the item valid and blending to the mean, DONE, and the
count of accepted runs one up. One that does not agree ends in CAL_DISAGREE, an unsuitable one and a SKEW run that has waited too
long in INPUT_UNSUITABLE: the item stays pending, and waits for its retry unless it was asked for during the run. TDC and GAIN
measure what the core has counted, SKEW the sum over the hops to the captain, LINK each port's eye in turn, DEMOD the phases that
the slots' own vectors give. -/
def Obligations.CalRuns : Prop :=
  ∀ (s : State) (d : Fin 8) (k : Fin 5) (m : CalMeas) (mk : Bool), s.chip.calOn d = true →
    let r := s.chip.cal d
    let c := (s.chip.die d).core.meas
    let only : Chip → List Nat → Prop := fun u l =>
      u = { s.chip with
        regs := u.regs, due := u.due, cals := u.cals, slots := u.slots, ports := u.ports, dies := u.dies, freeCnt := u.freeCnt } ∧
        (∀ e : Fin 8, e ≠ d → u.cal e = s.chip.cal e ∧ u.die e = s.chip.die e) ∧
        u.die d = { s.chip.die d with core := { (s.chip.die d).core with meas := (u.die d).core.meas } } ∧ s.chip.SameRegs u l
    let lists := [CAL_STATUS d, CAL_ITEM_STATUS d k, CAL_ITEM_AGE d k, CAL_ITEM_CNT d k, CAL_EVENTS d]
    let ended : Chip → Nat → Prop := fun u e =>
      u.get (CAL_STATUS_RUNNING d) = 0 ∧ u.get (CAL_STATUS_STALE d) = 0 ∧ u.get (CAL_ITEM_STATUS_RESULT d k) = e ∧
        (u.die d).core.meas = {}
    let accepted : Chip → Prop := fun u =>
      ended u 1 ∧ u.get (CAL_ITEM_STATUS_T_LAST d k) = unsignedOf 16 r.tempStart ∧ u.get (CAL_ITEM_AGE_SEC d k) = 0 ∧
        maskBit (u.get (CAL_STATUS_BLENDING d)) k = true ∧ maskBit (u.get (CAL_STATUS_VALID d)) k = true ∧
        u.get (CAL_EVENTS_DONE d) = 1 ∧
        u.get (CAL_ITEM_CNT_ACCEPTED d k) = min (s.chip.get (CAL_ITEM_CNT_ACCEPTED d k) + 1) (2 ^ 16 - 1)
    let refused : Chip → Nat → Prop := fun u e =>
      ended u e ∧ u.get (CAL_STATUS_PENDING d) = maskSet (s.chip.get (CAL_STATUS_PENDING d)) k ∧
        u.get (if e = 2 then CAL_EVENTS_CAL_DISAGREE d else CAL_EVENTS_INPUT_UNSUITABLE d) = 1 ∧
        (k.val ≠ calDemod →
          u.get (CAL_ITEM_CNT_FAILED d k) = min (s.chip.get (CAL_ITEM_CNT_FAILED d k) + 1) (2 ^ 16 - 1)) ∧
        only u lists
    let waits : CalRec → CalRec := fun r =>
      if maskBit (s.chip.get (CAL_STATUS_PENDING d)) k = true then r else { r with retry := maskSet r.retry k }
    let done : (Chip → Prop) → Prop := fun q => ∃ u, exec (.calMeasurementDone d m) s = .next { s with chip := u } ∧ q u
    (s.chip.get (CAL_STATUS_RUNNING d) = 0 → s.chip.on (CAL_CTRL_EN d) = true →
      calItems.find? (fun j => maskBit (s.chip.get (CAL_STATUS_PENDING d)) j && maskBit (s.chip.get (CAL_CTRL_ITEM_EN d)) j &&
        !maskBit r.retry j && !maskBit (s.chip.get (CAL_STATUS_BLENDING d)) j) = some k.val →
      (k.val ≠ calDemod → s.chip.calSuits d k = true → (k.val = calSkew → mk = true) →
        ∃ u, exec (.calRunStart d mk) s = .next { s with chip := u } ∧
          u.get (CAL_STATUS_RUNNING d) = k + 1 ∧
          u.get (CAL_STATUS_PENDING d) = maskClear (s.chip.get (CAL_STATUS_PENDING d)) k ∧
          u.get (CAL_STATUS_STALE d) =
            (if k.val = calGain ∨ k.val = calSkew then 2 ^ k.val else s.chip.get (CAL_STATUS_STALE d)) ∧
          (u.cal d).second = false ∧ (u.cal d).tempStart = s.chip.getI (CAL_T_NOW_TEMP d) ∧
          tabGet (fun _ => 0) (u.cal d).began k = s.chip.upTicks ∧
          (k.val = calLink → (u.cal d).linkPorts = s.chip.calPorts d ∧ some (u.cal d).port = (s.chip.calPorts d).head?) ∧
          (k.val ≤ calGain → (u.die d).core.meas.item = k + 1 ∧ (u.die d).core.meas.n = 0) ∧
          (k.val = calGain → (u.die d).core.meas.probe = max 8 (s.chip.get (CAL_GAIN_CFG_PROBE d))) ∧
          u.slots = s.chip.slots ∧ u.ports = s.chip.ports ∧ only u [CAL_STATUS d]) ∧
      (k.val = calDemod → s.chip.calSuits d k = true →
        ∃ u, exec (.calRunStart d mk) s = .next { s with chip := u } ∧ u.get (CAL_STATUS_RUNNING d) = k + 1 ∧
          u.get (CAL_STATUS_PENDING d) = maskClear (s.chip.get (CAL_STATUS_PENDING d)) k ∧
          (u.cal d).part = s.chip.demodSlots d ∧ (u.cal d).second = false ∧
          (∀ sl ∈ s.chip.demodSlots d, (u.slot d sl).calOk = true ∧ (u.slot d sl).dem = {}) ∧ only u [CAL_STATUS d]) ∧
      (s.chip.calSuits d k = false ∨ k.val = calSkew ∧ mk = false →
        ∃ u, exec (.calRunStart d mk) s = .next { s with chip := u } ∧ refused u 3 ∧ (u.cal d).retry = maskSet r.retry k)) ∧
    (s.chip.get (CAL_STATUS_RUNNING d) = k + 1 →
      (k.val = calTdc → 2 ^ 20 ≤ c.n →
        (s.chip.calSuits d calTdc = false ∨ c.spread = false → done fun u => refused u 3 ∧ u.cal d = waits r) ∧
        (s.chip.calSuits d calTdc = true → c.spread = true →
          (r.second = false →
            done fun u => u.cal d = { r with second := true, hitsA := c.hits } ∧ (u.die d).core.meas.n = 0 ∧ only u []) ∧
          (r.second = true →
            let f := s.chip.synthFreq d
            let t := tapResults f.1 f.2 (s.chip.get (CAL_TOL_A_TDC d)) r.hitsA c.hits
            (t.1 = true → done fun u => accepted u ∧ (u.cal d).tapStep = 0 ∧
              (u.cal d).taps.map (·.2) = (List.range 64).map (fun i =>
                ((t.2.find? (fun p => p.1 == i)).map (·.2)).getD (s.chip.get (CAL_TDC_TAP_DELAY d i))) ∧ only u lists) ∧
            (t.1 = false → done fun u => refused u 2 ∧ u.cal d = waits r)))) ∧
      (k.val = calGain → 64 * 4096 + 5 ≤ c.n →
        let v := s.chip.gainOf d c
        (s.chip.calSuits d calGain = false → done fun u => refused u 3 ∧ u.cal d = waits r) ∧
        (s.chip.calSuits d calGain = true →
          (r.second = false →
            done fun u => u.cal d = { r with second := true, valA := v } ∧ (u.die d).core.meas.n = 0 ∧ only u []) ∧
          (r.second = true → (r.valA - v).natAbs * 65536 ≤ s.chip.get (CAL_TOL_A_GAIN d) * r.valA.natAbs →
            done fun u => accepted u ∧ (u.cal d).gainStep = 0 ∧
              (u.cal d).gain = some (s.chip.get (SYN_DCO_BAND d), s.chip.get ⟨SYN_BAND d (s.chip.get (SYN_DCO_BAND d)) + 4, 16, 16⟩,
                min 65535 (midOf r.valA v).toNat) ∧ only u lists) ∧
          (r.second = true → s.chip.get (CAL_TOL_A_GAIN d) * r.valA.natAbs < (r.valA - v).natAbs * 65536 →
            done fun u => refused u 2 ∧ u.cal d = waits r))) ∧
      (k.val = calSkew → s.chip.skewWaits d = false →
        (s.chip.skewOf d m = none → done fun u => refused u 3 ∧ u.cal d = waits r) ∧
        (∀ v, s.chip.skewOf d m = some v →
          (r.second = false → done fun u => u.cal d = { r with second := true, valA := v } ∧ only u []) ∧
          (r.second = true → (r.valA - v).natAbs ≤ 16 * s.chip.get (CAL_TOL_B_SKEW d) →
            done fun u => accepted u ∧ u.get (CAL_SKEW_MEAS d) = unsignedOf 16 (midOf r.valA v) ∧
              (u.cal d).skewLeft = -(roundDiv (midOf r.valA v) 16) ∧ only u (CAL_SKEW d :: lists)) ∧
          (r.second = true → 16 * s.chip.get (CAL_TOL_B_SKEW d) < (r.valA - v).natAbs →
            done fun u => refused u 2 ∧ u.cal d = waits r))) ∧
      (k.val = calLink →
        let lost := decide (s.chip.upTicks - r.portSince < 1000 * r.portBad)
        let bad := s.chip.elUp d r.port = false ∨ lost = true ∨ m.sweep.any (fun l => l.any eyeOpen) = false
        (bad → done fun u => refused u 3 ∧ u.cal d = waits r) ∧
        (¬bad → ∀ x l, eyeLevels m m.inst = x :: l →
          let e := (r.port, midOf (l.foldl min x) (l.foldl max x), m.dfe1, m.dfe2)
          (∀ p, r.linkPorts.find? (fun p => decide (r.port < p)) = some p → s.chip.elUp d p = true →
            done fun u => (u.cal d).port = p ∧ (u.cal d).second = r.second ∧
              (u.cal d).eqA = (if r.second = true then r.eqA else r.eqA ++ [e]) ∧
              (u.cal d).eqB = (if r.second = true then r.eqB ++ [e] else r.eqB) ∧ only u []) ∧
          (r.linkPorts.find? (fun p => decide (r.port < p)) = none → r.second = false →
            s.chip.elUp d (r.linkPorts.headD 16) = true →
            done fun u => (u.cal d).port = r.linkPorts.headD 16 ∧ (u.cal d).second = true ∧ (u.cal d).eqA = r.eqA ++ [e] ∧
              only u []) ∧
          (r.linkPorts.find? (fun p => decide (r.port < p)) = none → r.second = true →
            let both := r.eqA.zip (r.eqB ++ [e])
            let tol := s.chip.get (CAL_TOL_B_LINK d)
            let agree := both.all (fun v =>
              within v.1.2.1 v.2.2.1 tol && within v.1.2.2.1 v.2.2.2.1 tol && within v.1.2.2.2 v.2.2.2.2 tol)
            (agree = true → done fun u => accepted u ∧
              (u.cal d).eqs = both.map (fun v => (v.1.1, eqMean v.1.2 v.2.2)) ∧ only u lists) ∧
            (agree = false → done fun u => refused u 2)))) ∧
      (k.val = calDemod → s.chip.settling d = false → s.chip.demodFull d = true →
        (r.second = false → done fun u => u.cal d = { r with second := true, phA := s.chip.demodPhases d } ∧ only u []) ∧
        (r.second = true →
          (∀ sl a b, r.part = [sl] → r.phA = [(sl, a)] → s.chip.demodPhases d = [(sl, b)] →
            (phaseDist a b).natAbs ≤ s.chip.get (CAL_TOL_B_DEMOD d) →
            done fun u => accepted u ∧ (u.slot d sl).calPhase = some (phaseMean a b) ∧ only u lists) ∧
          (s.chip.demodPhases d = [] → done fun u => refused u 3))) ∧
      (k.val = calSkew → s.chip.skewWaits d = true →
        ∃ u, exec (.skewWaitTimeout d) s = .next { s with chip := u } ∧ refused u 3 ∧ u.cal d = waits r))

/-- OPEN takes a free slot to WRITING. A STAGE that a check refuses leaves the slot in WRITING with the cause; an accepted one
sets BUSY and takes the entries, their order and the verdict on tag and sequence, which is counted at once as a failure or taken as
the last accepted sequence (that it is, log 52). ABORT ends a slot in WRITING, whose content is
discarded (that its header reads reset values is log 93), and one in STAGED or ARMED before the cutoff, as ABORTED; after the
cutoff it is only remembered, on a final slot it sets ABORT_LATE. RELEASE frees a slot in WRITING or a final one; the entries
that it left to a covering die are kept. In any other state these commands set CAUSE to BAD_CMD. FREE counts the free slots. -/
def Obligations.VolleyCommands : Prop :=
  ∀ (s : State) (p : Fin 2) (q : Fin 64) (t : Nat),
    let st := s.chip.get (VOL_Q_STATUS_STATE q)
    let busy := s.chip.get (VOL_Q_STATUS_BUSY q)
    let only : Chip → List Nat → Prop := fun u l =>
      u = { s.chip with regs := u.regs, due := u.due, vols := u.vols, moment := u.moment } ∧
        (∀ j, j ≠ q.val → tabGet (fun _ => {}) u.vols j = tabGet (fun _ => {}) s.chip.vols j) ∧ s.chip.SameRegs u l
    let free : Chip → Prop := fun u =>
      u.get VOL_STATUS_FREE = ((List.range 64).filter (fun k => u.get (VOL_Q_STATUS_STATE k) == 0)).length
    let bad : Instr → Prop := fun i =>
      ∃ u, exec i s = .next { s with chip := u } ∧ u.get (VOL_Q_STATUS_CAUSE q) = 6 ∧
        u.get (VOL_Q_STATUS_STATE q) = st ∧ u.vols = s.chip.vols ∧ only u [VOL_Q_STATUS q]
    let cutoff := (s.chip.get (VOL_Q_APPLY_TICK_TICK q) - 1) * s.chip.tickNs
    let now := s.chip.get PKG_TICK_NUM_TICK * s.chip.tickNs + t
    (st = 0 → ∃ u, exec (.volOpen p q 1) s = .next { s with chip := u } ∧
      u.get (VOL_Q_STATUS_STATE q) = 1 ∧ u.get (VOL_Q_STATUS_CAUSE q) = 0 ∧ u.vol q = {} ∧ free u ∧
      only u [VOL_Q_STATUS q, VOL_STATUS]) ∧
    (st ≠ 0 → bad (.volOpen p q 1)) ∧
    (st = 1 → busy = 0 →
      let c := s.chip.at t
      let es := s.chip.stageEntries q (s.chip.get (VOL_Q_HDR_COUNT q))
      let seq := s.chip.get (VOL_Q_SEQ_SEQ q)
      let verdict := if s.chip.volTag q ≠ hmacSha256 s.chip.sec.volKey (s.chip.volMessage q es) then 8
        else if seq ≤ s.chip.sec.seqLast then 9 else 0
      (c.stageCause p q ≠ 0 →
        ∃ u, exec (.volStage p q 0x80000000 t) s = .next { s with chip := u } ∧
          u.get (VOL_Q_STATUS_CAUSE q) = c.stageCause p q ∧ u.get (VOL_Q_STATUS_STATE q) = 1 ∧
          u.get (VOL_Q_STATUS_BUSY q) = 0 ∧ u.get VOL_EVENTS_STAGE_REFUSED = 1 ∧ u.vols = s.chip.vols ∧
          only u [VOL_Q_STATUS q, VOL_EVENTS]) ∧
      (c.stageCause p q = 0 →
        ∃ u, exec (.volStage p q 0x80000000 t) s = .next { s with chip := u } ∧
          u.get (VOL_Q_STATUS_BUSY q) = 1 ∧ u.get (VOL_Q_STATUS_STATE q) = 1 ∧
          (u.vol q).entries = es ∧ (u.vol q).accepted = now ∧ (u.vol q).order = s.chip.volOrder + 1 ∧
          u.volOrder = s.chip.volOrder + 1 ∧
          (u.vol q).verdict = verdict ∧ u.moment = t ∧
          (∀ j, j ≠ q.val → tabGet (fun _ => {}) u.vols j = tabGet (fun _ => {}) s.chip.vols j) ∧
          (verdict = 0 → u.get SEC_SEQ_LAST_SEQ = seq ∧ u.get VOL_SEQ_LAST_SEQ = seq ∧ u.get SEC_FAIL_CNT_CONSEC = 0 ∧
            u = { s.chip with
              regs := u.regs, vols := u.vols, volOrder := u.volOrder, moment := u.moment, sec := { s.chip.sec with seqLast := seq } } ∧
            s.chip.SameRegs u [VOL_Q_STATUS q, SEC_SEQ_LAST, SEC_SEQ_LAST + 4, VOL_SEQ_LAST, VOL_SEQ_LAST + 4, SEC_FAIL_CNT]) ∧
          (verdict ≠ 0 → u.get SEC_EVENTS_AUTH_FAIL = 1 ∧
            u.get SEC_FAIL_CNT_TOTAL = min (s.chip.get SEC_FAIL_CNT_TOTAL + 1) (2 ^ 16 - 1) ∧
            u.sec.seqLast = s.chip.sec.seqLast ∧ s.chip.SameMem u ∧ u.slots = s.chip.slots ∧ u.sched = s.chip.sched))) ∧
    (st ≠ 1 ∨ busy = 1 → bad (.volStage p q 0x80000000 t)) ∧
    (st = 1 →
      ∃ u, exec (.volAbort p q 2 t) s = .next { s with chip := u } ∧
        u.get (VOL_Q_STATUS_STATE q) = 9 ∧ u.get (VOL_Q_STATUS_CAUSE q) = 0 ∧ u.get (VOL_Q_STATUS_BUSY q) = 0 ∧
        u.get VOL_EVENTS_ABORTED = 1 ∧ free u ∧ u.vol q = {} ∧
        (∀ j, tabGet (fun _ => 0) u.volStage j =
          if q.val * 16384 ≤ j ∧ j < (q.val + 1) * 16384 then 0 else tabGet (fun _ => 0) s.chip.volStage j) ∧
        (∀ a, VOL_Q_ID q ≤ a → a < VOL_Q_STATUS q → u.reg a = resetOf a) ∧
        (∀ a, ¬ (VOL_Q_ID q ≤ a ∧ a ≤ VOL_Q_STATUS q) → a ∉ [VOL_STATUS, VOL_EVENTS] → u.reg a = s.chip.reg a) ∧
        (∀ j, j ≠ q.val → tabGet (fun _ => {}) u.vols j = tabGet (fun _ => {}) s.chip.vols j) ∧
        u = { s.chip with regs := u.regs, due := u.due, vols := u.vols, volStage := u.volStage, moment := u.moment }) ∧
    ((st = 2 ∨ st = 3) → now + 4000 < cutoff →
      ∃ u, exec (.volAbort p q 2 t) s = .next { s with chip := u } ∧
        u.get (VOL_Q_STATUS_STATE q) = 9 ∧ u.get (VOL_Q_STATUS_CAUSE q) = 0 ∧ u.get (VOL_Q_STATUS_BUSY q) = 0 ∧
        u.get VOL_EVENTS_ABORTED = 1 ∧ free u ∧
        u.vol q = { s.chip.vol q with abortSent := (s.chip.vol q).goSent, acks := 0 } ∧
        only u [VOL_Q_STATUS q, VOL_STATUS, VOL_EVENTS]) ∧
    ((st = 2 ∨ st = 3) → cutoff ≤ now + 4000 →
      ∃ u, exec (.volAbort p q 2 t) s = .next { s with chip := u } ∧
        u.vol q = { s.chip.vol q with tooLate := true } ∧ u.get VOL_EVENTS_ABORT_LATE = 1 ∧ only u [VOL_EVENTS]) ∧
    (4 ≤ st →
      ∃ u, exec (.volAbort p q 2 t) s = .next { s with chip := u } ∧
        u.get (VOL_Q_STATUS_ABORT_LATE q) = 1 ∧ u.get (VOL_Q_STATUS_STATE q) = st ∧
        u.get (VOL_Q_STATUS_CAUSE q) = s.chip.get (VOL_Q_STATUS_CAUSE q) ∧
        u.get VOL_EVENTS_ABORT_LATE = 1 ∧ u.vols = s.chip.vols ∧ only u [VOL_Q_STATUS q, VOL_EVENTS]) ∧
    (st = 0 → bad (.volAbort p q 2 t)) ∧
    (st = 1 ∨ 4 ≤ st →
      ∃ u, exec (.volRelease p q 4) s = .next { s with chip := u } ∧
        u.get (VOL_Q_STATUS_STATE q) = 0 ∧ u.get (VOL_Q_STATUS_CAUSE q) = 0 ∧ u.get (VOL_Q_STATUS_ABORT_LATE q) = 0 ∧
        u.get (VOL_Q_APPLY_TICK_TICK q) = 0 ∧ u.reg (VOL_Q_REPORT_A q) = 0 ∧ u.vol q = {} ∧ free u ∧
        u.sched = { s.chip.sched with
          left := s.chip.sched.left ++ (s.chip.vol q).left.map (fun e =>
            ⟨e, s.chip.get (VOL_Q_HDR_INTEG q), s.chip.on (VOL_Q_HDR_HOP q), (s.chip.vol q).order⟩) } ∧
        (∀ j, j ≠ q.val → tabGet (fun _ => {}) u.vols j = tabGet (fun _ => {}) s.chip.vols j) ∧
        (∀ a, ¬ (VOL_Q_STATUS q ≤ a ∧ a ≤ VOL_Q_REPORT_D q + 3) → a ≠ VOL_STATUS → u.reg a = s.chip.reg a) ∧
        u = { s.chip with regs := u.regs, vols := u.vols, sched := u.sched }) ∧
    (st = 0 ∨ st = 2 ∨ st = 3 → bad (.volRelease p q 4))

/-- A write of the staging region, or of a slot's HDR, stores its word in a slot in WRITING and is discarded and counted otherwise.
The volleys are verified in the order of their STAGE: one verified becomes STAGED at its boundary or, too near, meets its late
policy; one past its arm deadline by then becomes FAILED_NOT_ARMED, one whose tag or sequence has failed FAILED_AUTH. Each
in-service die takes the entries in that order and reports ARMED; the last report before the arm deadline makes the slot ARMED. At
the arm deadline a captain in service sends GO if every die in service has reported, else the slot becomes FAILED_NOT_ARMED; a
deadline missed by more than a tick gives cause 14 (log 124). A die that receives GO or ABORT acknowledges it; one that does not is
sidelined. -/
def Obligations.VolleyArming : Prop :=
  ∀ (s : State) (p : Fin 2) (d : Fin 8) (q : Fin 64) (a : BitVec 26) (v : Word) (t : Nat),
    let st := s.chip.get (VOL_Q_STATUS_STATE q)
    let r := s.chip.vol q
    let only : Chip → List Nat → Prop := fun u l =>
      u = { s.chip with regs := u.regs, due := u.due, vols := u.vols, moment := u.moment } ∧
        (∀ j, j ≠ q.val → tabGet (fun _ => {}) u.vols j = tabGet (fun _ => {}) s.chip.vols j) ∧ s.chip.SameRegs u l
    let x := a.toNat / 4 * 4
    let i := (x - 0x800000) / 4
    let dies := s.chip.get (VOL_Q_ARM_DIES q)
    let b := s.chip.volResolve q
    let near := decide (b * s.chip.tickNs < r.accepted + s.chip.guardNs)
    let now := s.chip.get PKG_TICK_NUM_TICK * s.chip.tickNs + t
    let past := fun (b : Nat) => decide (b % 2 ^ 64 * s.chip.tickNs < now + 20000)
    let b2 := s.chip.guardAfter r.accepted
    let missed := decide (s.chip.get (VOL_Q_APPLY_TICK_TICK q) * s.chip.tickNs + s.chip.tickNs < now + 20000)
    let closing := [VOL_Q_STATUS q, VOL_STATUS, VOL_EVENTS, VOL_FAILED_CNT]
    (0x800000 ≤ x → x < 0xC00000 →
      (s.chip.get (VOL_Q_STATUS_STATE (i / 16384)) = 1 → s.chip.get (VOL_Q_STATUS_BUSY (i / 16384)) = 0 →
        ∃ u, exec (.volStagingWrite p a v) s = .next { s with chip := u } ∧
          tabGet (fun _ => 0) u.volStage i = v.toNat ∧
          (∀ j, j ≠ i → tabGet (fun _ => 0) u.volStage j = tabGet (fun _ => 0) s.chip.volStage j) ∧
          u = { s.chip with volStage := u.volStage }) ∧
      (s.chip.get (VOL_Q_STATUS_STATE (i / 16384)) ≠ 1 ∨ s.chip.get (VOL_Q_STATUS_BUSY (i / 16384)) = 1 →
        ∃ u, exec (.volStagingWrite p a v) s = .next { s with chip := u } ∧
          u.get VOL_EVENTS_STAGING_DISCARD = 1 ∧
          u.get VOL_STAGING_DISCARD_COUNT = min (s.chip.get VOL_STAGING_DISCARD_COUNT + 1) (2 ^ 32 - 1) ∧
          s.chip.RegsOnly u ∧ s.chip.SameRegs u [VOL_EVENTS, VOL_STAGING_DISCARD])) ∧
    (x = VOL_Q_HDR q →
      (st = 1 → s.chip.get (VOL_Q_STATUS_BUSY q) = 0 →
        ∃ u, exec (.volStagingWrite p a v) s = .next { s with chip := u } ∧
          u.reg x = v &&& 0x1F7FFF ∧ u = { s.chip with regs := u.regs } ∧ s.chip.SameRegs u [x]) ∧
      (st ≠ 1 →
        ∃ u, exec (.volStagingWrite p a v) s = .next { s with chip := u } ∧
          u.get VOL_EVENTS_STAGING_DISCARD = 1 ∧ s.chip.RegsOnly u ∧ s.chip.SameRegs u [VOL_EVENTS, VOL_STAGING_DISCARD])) ∧
    (s.chip.volTurn q = true →
      (r.verdict = 0 → s.chip.segments = none →
        ∃ u, exec (.volTagVerified q t) s = .next { s with chip := u } ∧
          u.get (VOL_Q_STATUS_BUSY q) = 0 ∧ u.get (VOL_Q_ARM_DIES q) = 0 ∧
          (near = false → past b = false → u.get (VOL_Q_STATUS_STATE q) = 2 ∧ u.get (VOL_Q_APPLY_TICK_TICK q) = b % 2 ^ 64 ∧
            u.get (VOL_Q_STATUS_CAUSE q) = 0 ∧ u.vols = s.chip.vols) ∧
          (near = true → s.chip.get (VOL_Q_HDR_LATE q) = 0 →
            u.get (VOL_Q_STATUS_STATE q) = 6 ∧ u.get (VOL_Q_STATUS_CAUSE q) = 10 ∧ u.get VOL_EVENTS_FAILED = 1) ∧
          (near = true → s.chip.get (VOL_Q_HDR_LATE q) = 1 → past b2 = false →
            u.get (VOL_Q_STATUS_STATE q) = 2 ∧ u.vol q = { r with late := true, got := 0 } ∧
            u.get (VOL_Q_APPLY_TICK_TICK q) = b2 % 2 ^ 64) ∧
          (near = false ∧ past b = true ∨ near = true ∧ s.chip.get (VOL_Q_HDR_LATE q) = 1 ∧ past b2 = true →
            u.get (VOL_Q_STATUS_STATE q) = 7 ∧ u.get (VOL_Q_STATUS_CAUSE q) = (if r.moved then 14 else 13) ∧
            u.get VOL_EVENTS_FAILED = 1) ∧
          u = { s.chip with regs := u.regs, due := u.due, vols := u.vols, moment := t } ∧
          (∀ j, j ≠ q.val → tabGet (fun _ => {}) u.vols j = tabGet (fun _ => {}) s.chip.vols j) ∧
          s.chip.SameRegs u (closing ++ [VOL_Q_APPLY_TICK q, VOL_Q_APPLY_TICK q + 4, VOL_Q_ARM q])) ∧
      (r.verdict = 8 ∨ r.verdict = 9 →
        ∃ u, exec (.volTagVerified q t) s = .next { s with chip := u } ∧
          u.get (VOL_Q_STATUS_STATE q) = 8 ∧ u.get (VOL_Q_STATUS_CAUSE q) = r.verdict ∧
          u.get (VOL_Q_STATUS_BUSY q) = 0 ∧ u.get VOL_EVENTS_FAILED = 1 ∧
          u.get VOL_FAILED_CNT_COUNT = min (s.chip.get VOL_FAILED_CNT_COUNT + 1) (2 ^ 32 - 1) ∧
          u.vols = s.chip.vols ∧ only u closing)) ∧
    (s.chip.inService d = true →
      (st = 2 ∨ st = 3 → s.chip.volNext d q = true →
        ∃ u, exec (.volEntries d q) s = .next { s with chip := u } ∧
          u.vol q = { r with got := maskSet r.got d } ∧ only u []) ∧
      (st = 2 ∨ st = 3 → maskBit r.got d = true → s.chip.armPast q = false →
        ∃ u, exec (.volArmedReport d q) s = .next { s with chip := u } ∧
          u.get (VOL_Q_ARM_DIES q) = maskSet dies d ∧
          u.get (VOL_Q_STATUS_STATE q) =
            (if st = 3 ∨ s.chip.inServiceDies.all (fun e => maskBit (maskSet dies d) e) = true then 3 else 2) ∧
          u.vols = s.chip.vols ∧ only u [VOL_Q_ARM q, VOL_Q_STATUS q, VOL_STATUS]) ∧
      (r.goSent = true →
        ∃ u, exec (.volGo d q) s = .next { s with chip := u } ∧
          u.vol q = { r with go := maskSet r.go d, acks := maskSet r.acks d } ∧ only u []) ∧
      (r.abortSent = true →
        ∃ u, exec (.volAbortMsg d q) s = .next { s with chip := u } ∧
          u.vol q = { r with abort := maskSet r.abort d, acks := maskSet r.acks d } ∧ only u []) ∧
      (r.goSent = true ∨ r.abortSent = true → maskBit r.acks d = false →
        ∃ u, exec (.volGoAckTimeout d q) s = .next { s with chip := u } ∧
          u.get (DIE_STATUS_SERVICE d) = 2 ∧ u.get (FAULT_DIE_CAUSE d) = 0x17 ∧ (u.die d).sidelineDue = true ∧
          u.vols = s.chip.vols ∧ s.chip.SameMem u ∧ s.chip.SameRegs u (DIE_STATUS d :: faultRegs d))) ∧
    (st = 2 ∨ st = 3 → r.goSent = false → s.chip.leaseStopped 0 = false → s.chip.inService s.chip.captain = true →
      s.chip.get (VOL_Q_APPLY_TICK_TICK q) * s.chip.tickNs ≤ now + 20000 →
      (s.chip.inServiceDies.all (fun e => maskBit dies e) = true → missed = false →
        ∃ u, exec (.volArmDeadline q t) s = .next { s with chip := u } ∧
          u.get (VOL_Q_STATUS_STATE q) = 3 ∧ u.vol q = { r with goSent := true, acks := 0 } ∧
          only u [VOL_Q_STATUS q, VOL_STATUS]) ∧
      (s.chip.inServiceDies.all (fun e => maskBit dies e) = false ∨ missed = true →
        ∃ u, exec (.volArmDeadline q t) s = .next { s with chip := u } ∧
          u.get (VOL_Q_STATUS_STATE q) = 7 ∧ u.get (VOL_Q_STATUS_CAUSE q) = (if r.moved = true ∨ missed = true then 14 else 13) ∧
          u.get VOL_EVENTS_FAILED = 1 ∧ u.vols = s.chip.vols ∧ only u closing))

/-- At the load boundary a volley is loaded and every entry of it counted once or left to a covering die; a volley of one entry whose channel a die with GO serves acts by the entry, after a due commit, the
windows and the parks of the same tick: on an inactive slot it sets TARGET only; a state equal to the present one without FORCE
changes nothing; another readable state becomes the present and the target state, with its library entry in force. The report of
tick B writes the counts and makes the slot APPLIED, or APPLIED_LATE when B was moved. Of the entries left to covering dies those go
whose channel one serves now. Such an entry left by its home die, once a
covering die serves its channel, is applied and counted DEFERRED, or counted OVERRIDDEN where a later host volley takes the channel
at that boundary. -/
def Obligations.VolleyApply : Prop :=
  ∀ (s : State) (q : Fin 64) (d : Fin 8) (sl : Fin 2048) (n : BitVec 30),
    let r := s.chip.vol q
    let h := d.val * 2048 + sl.val
    let e := (n.toNat / 2 ^ 15 * 2 ^ 15 + h) % 2 ^ 30
    let tgt := e / 2 ^ 15 % 2 ^ 10
    let same : Chip → Chip → Prop := fun c u => ∀ j, j ≠ q.val → tabGet (fun _ => {}) u.vols j = tabGet (fun _ => {}) c.vols j
    (s.chip.volDue q = true →
      let c := s.chip.openFive
      let rc := c.vol q
      -- a covering die no longer applies what was left to it for the channel
      let x := c.leftForget [h]
      (c.volDue q = true → rc.loaded = false →
        ∃ u, exec (.volLoadBoundary q) s = .next { s with chip := u } ∧
          u.vol q = { rc with loaded := true, counts := (u.vol q).counts, left := (u.vol q).left } ∧
          (u.vol q).counts.sum + (u.vol q).left.length = rc.entries.length ∧ u.volStage = c.volStage ∧
          u.commit = c.commit ∧ u.time = c.time) ∧
      (c.volDue q = true → rc.loaded = false → rc.entries = [e] → c.volOver q = [] → c.servedAt h = some (d.val, sl.val) →
      c.volHolds q d = true → e / 2 ^ 25 % 4 ≠ 3 →
      ((c.slot d sl).active = false →
        ∃ u, exec (.volLoadBoundary q) s = .next { s with chip := u } ∧
          u.get (CH_STATE_TARGET d sl) = tgt ∧
          u.vol q = { rc with loaded := true, counts := [0, 0, 1, 0, 0, 0, 0], left := [] } ∧ same x u ∧
          u = { x with regs := u.regs, vols := u.vols } ∧ c.SameRegs u [CH_STATE d sl]) ∧
      ((c.slot d sl).active = true → c.get (CH_STATE_CURRENT d sl) = tgt →
        ∃ u, exec (.volLoadBoundary q) s = .next { s with chip := u } ∧
          u.vol q = { rc with loaded := true, counts := [0, 1, 0, 0, 0, 0, 0], left := [] } ∧ same x u ∧
          u = { x with vols := u.vols }) ∧
      ((c.slot d sl).active = true → c.get (CH_STATE_CURRENT d sl) ≠ tgt →
        c.isPoison (entKey d sl tgt) = false → ∀ y, secded (c.libRaw (entKey d sl tgt)) = some (y, false) →
        ∃ u, exec (.volLoadBoundary q) s = .next { s with chip := u } ∧
          u.get (CH_STATE_TARGET d sl) = tgt ∧ u.get (CH_STATE_CURRENT d sl) = tgt ∧
          (u.slot d sl).active = true ∧ (u.slot d sl).entry = y ∧ (u.slot d sl).stepAt = some c.nextB ∧
          ((u.slot d sl).st = lpKick ∨ (u.slot d sl).st = lpParked) ∧
          u.vol q = { rc with loaded := true, counts := [1, 0, 0, 0, 0, 0, 0], left := [] } ∧ same x u ∧
          (∀ k, k ≠ d.val * 4096 + sl.val → tabGet (fun _ => {}) u.slots k = tabGet (fun _ => {}) c.slots k) ∧
          u.volStage = c.volStage ∧ u.sched = x.sched ∧ c.SameOutside u d []))) ∧
    (s.chip.get (VOL_Q_STATUS_STATE q) = 3 → r.loaded = true →
      s.chip.get (VOL_Q_APPLY_TICK_TICK q) ≤ s.chip.get PKG_TICK_NUM_TICK → (∀ i, r.counts.getD i 0 < 2 ^ 15) →
      ∃ u, exec (.volReport q) s = .next { s with chip := u } ∧
        u.get (VOL_Q_STATUS_STATE q) = (if r.late then 5 else 4) ∧
        u.get (VOL_Q_STATUS_CAUSE q) = s.chip.get (VOL_Q_STATUS_CAUSE q) ∧
        u.get (if r.late then VOL_EVENTS_APPLIED_LATE else VOL_EVENTS_APPLIED) = 1 ∧
        (r.tooLate = true → u.get (VOL_Q_STATUS_ABORT_LATE q) = 1) ∧
        u.get (VOL_Q_REPORT_A_APPLIED q) = r.counts.getD 0 0 ∧ u.get (VOL_Q_REPORT_A_UNCHANGED q) = r.counts.getD 1 0 ∧
        u.get (VOL_Q_REPORT_B_INACTIVE q) = r.counts.getD 2 0 ∧ u.get (VOL_Q_REPORT_B_UNSERVED q) = r.counts.getD 3 0 ∧
        u.get (VOL_Q_REPORT_C_OVERRIDDEN q) = r.counts.getD 4 0 ∧ u.get (VOL_Q_REPORT_C_PARKED q) = r.counts.getD 5 0 ∧
        u.get (VOL_Q_REPORT_D_DEFERRED q) = r.counts.getD 6 0 ∧
        u.get VOL_APPLIED_CNT_COUNT = min (s.chip.get VOL_APPLIED_CNT_COUNT + 1) (2 ^ 32 - 1) ∧
        s.chip.RegsOnly u ∧
        s.chip.SameRegs u [VOL_Q_REPORT_A q, VOL_Q_REPORT_B q, VOL_Q_REPORT_C q, VOL_Q_REPORT_D q, VOL_Q_STATUS q, VOL_STATUS,
          VOL_EVENTS, VOL_APPLIED_CNT]) ∧
    (∃ u, exec (.volDeferredApply q) s = .next { s with chip := u } ∧
      (u.vol q).left = r.left.filter (fun e => !s.chip.coveredNow (e % 2 ^ 14)) ∧ same s.chip u ∧
      u.volStage = s.chip.volStage ∧ u.sched = s.chip.sched ∧ u.commit = s.chip.commit ∧ u.time = s.chip.time) ∧
    (r.left = [e] → ∀ b bs, s.chip.servedAt h = some (b, bs) → 2048 ≤ bs → e / 2 ^ 25 % 4 ≠ 3 →
      (h ∈ s.chip.volOver q →
        ∃ u, exec (.volDeferredApply q) s = .next { s with chip := u } ∧
          (u.vol q).left = [] ∧ same s.chip u ∧
          (4 ≤ s.chip.get (VOL_Q_STATUS_STATE q) → s.chip.get (VOL_Q_REPORT_C_OVERRIDDEN q) < 2 ^ 14 →
            u.get (VOL_Q_REPORT_C_OVERRIDDEN q) = s.chip.get (VOL_Q_REPORT_C_OVERRIDDEN q) + 1) ∧
          (s.chip.get (VOL_Q_STATUS_STATE q) < 4 → (u.vol q).counts.getD 4 0 = r.counts.getD 4 0 + 1) ∧
          u = { s.chip with regs := u.regs, vols := u.vols } ∧ s.chip.SameRegs u [VOL_Q_REPORT_C q, VOL_Q_REPORT_D q]) ∧
      (h ∉ s.chip.volOver q →
      ∃ u, exec (.volDeferredApply q) s = .next { s with chip := u } ∧
        (u.vol q).left = [] ∧ u.get VOL_EVENTS_DEFERRED = 1 ∧ same s.chip u ∧
        ((s.chip.slot b bs).active = false → u.get (CH_STATE_TARGET b bs) = tgt) ∧
        (4 ≤ s.chip.get (VOL_Q_STATUS_STATE q) → s.chip.get (VOL_Q_REPORT_D_DEFERRED q) < 2 ^ 14 →
          u.get (VOL_Q_REPORT_D_DEFERRED q) = s.chip.get (VOL_Q_REPORT_D_DEFERRED q) + 1) ∧
        (s.chip.get (VOL_Q_STATUS_STATE q) < 4 → (u.vol q).counts.getD 6 0 = r.counts.getD 6 0 + 1) ∧
        (∀ k, k ≠ b * 4096 + bs → tabGet (fun _ => {}) u.slots k = tabGet (fun _ => {}) s.chip.slots k) ∧
        s.chip.SameOutside u b (VOL_EVENTS :: VOL_Q_REPORT_C q :: VOL_Q_REPORT_D q :: faultRegs b) ∧
        u.volStage = s.chip.volStage ∧ u.sched = s.chip.sched))

/-- At the arm deadline of the next occurrence the dies in service get its GO when every one of them has reported with the
captain's digest; otherwise, and at a deadline missed by more than a tick (log 124), the occurrence fails and is counted, and either
way the next one is due. An occurrence with GO is loaded at the tick before its boundary and shown as LAST, its entries on inactive
slots of dies that hold the GO setting TARGET, and its channels are noted against a catch-up of the same boundary. At its boundary
the catch-up of a skipped occurrence is no longer pending, and applies its entries where neither a host volley nor a regular occurrence names the channel. -/
def Obligations.ScheduleOccurrences : Prop :=
  ∀ (s : State) (d : Fin 8) (sl : Fin 2048) (n : BitVec 30) (armed : BitVec 8) (t : Nat),
    let h := d.val * 2048 + sl.val
    let e := (n.toNat / 2 ^ 15 * 2 ^ 15 + h) % 2 ^ 30
    let tgt := e / 2 ^ 15 % 2 ^ 10
    let now := s.chip.get PKG_TICK_NUM_TICK * s.chip.tickNs + t
    let dig := fun k => tabGet (fun _ => []) s.chip.sched.digests k
    let shown := [SCHED_STATUS, SCHED_NEXT, SCHED_NEXT + 4]
    (s.chip.schedOn = true → s.chip.sched.go = [] → ∀ x, s.chip.nextOcc s.chip.sched.from_ = some x →
      s.chip.inService s.chip.captain = true → x.1 * s.chip.tickNs ≤ now + 20000 → s.chip.segments = none → x.1 ≠ s.chip.nextB →
      let missed := decide (x.1 * s.chip.tickNs + s.chip.tickNs < now + 20000)
      let agree := !s.chip.leaseStopped 0 && s.chip.inServiceDies.all (fun k => maskBit armed.toNat k && dig k == dig s.chip.captain)
      (agree = true → missed = false →
        ∃ u, exec (.schedOccurrence armed t) s = .next { s with chip := u } ∧
          u.sched = { s.chip.sched with from_ := x.1 + 1, go := [⟨x.1, x.2, s.chip.inServiceDies.foldl maskSet 0⟩] } ∧
          u = { s.chip with regs := u.regs, sched := u.sched, moment := t } ∧ s.chip.SameRegs u shown) ∧
      (agree = false ∨ missed = true →
        ∃ u, exec (.schedOccurrence armed t) s = .next { s with chip := u } ∧
          u.sched = { s.chip.sched with from_ := x.1 + 1 } ∧ u.get VOL_EVENTS_SCHED_FAIL = 1 ∧
          u.get SCHED_FAIL_CNT_COUNT = min (s.chip.get SCHED_FAIL_CNT_COUNT + 1) (2 ^ 32 - 1) ∧
          u = { s.chip with regs := u.regs, due := u.due, sched := u.sched, moment := t } ∧
          s.chip.SameRegs u ([VOL_EVENTS, SCHED_FAIL_CNT] ++ shown))) ∧
    (s.chip.schedOn = false → s.chip.schedDue ≠ [] →
      let c := (s.chip.at t).openFive
      ∀ k m v, c.sched.go = [⟨c.nextB, k, m⟩] → c.sched.vols[k]? = some v → k < 256 → v.entries = [e] → c.hostOver = [] →
      c.servedAt h = some (d.val, sl.val) → (c.slot d sl).active = false →
      (maskBit m d = true →
        let y := c.leftForget [h]
        ∃ u, exec (.schedOccurrence armed t) s = .next { s with chip := u } ∧
          u.get (CH_STATE_TARGET d sl) = tgt ∧ u.get SCHED_STATUS_LAST = k ∧
          u.sched = { y.sched with go := [], ran := u.sched.ran } ∧ u.sched.ran.1 = c.nextB ∧ h ∈ u.sched.ran.2 ∧
          u = { y with regs := u.regs, sched := u.sched } ∧ c.SameRegs u (CH_STATE d sl :: shown)) ∧
      (maskBit m d = false →
        ∃ u, exec (.schedOccurrence armed t) s = .next { s with chip := u } ∧ u.get SCHED_STATUS_LAST = k ∧
          u.sched.go = [] ∧ u = { c with regs := u.regs, sched := u.sched } ∧ c.SameRegs u shown)) ∧
    (s.chip.sched.skipped.any (fun y => decide (y.1 ≤ s.chip.nextB)) = true →
      let c := s.chip.openFive
      (∃ u, exec .schedCatchup s = .next { s with chip := u } ∧
        u.sched = { c.sched with skipped := c.sched.skipped.filter (fun y => decide (c.nextB < y.1)), left := u.sched.left } ∧
        u.volStage = c.volStage ∧ u.commit = c.commit ∧ u.time = c.time) ∧
      ∀ b k v, c.sched.skipped = [(b, [k])] → b ≤ c.nextB → c.schedDue = [] → c.sched.vols[k]? = some v → v.entries = [e] →
      c.hostOver = [] → c.leftTakes (fun o => o == 0) = [] → c.servedAt h = some (d.val, sl.val) → (c.slot d sl).active = false →
      (c.sched.ran.1 ≠ c.nextB →
        let y := c.leftForget [h]
        ∃ u, exec .schedCatchup s = .next { s with chip := u } ∧
          u.get (CH_STATE_TARGET d sl) = tgt ∧ u.sched = { y.sched with skipped := [] } ∧
          u = { y with regs := u.regs, sched := u.sched } ∧ c.SameRegs u [CH_STATE d sl]) ∧
      (c.sched.ran = (c.nextB, [h]) →
        ∃ u, exec .schedCatchup s = .next { s with chip := u } ∧
          u.get SCHED_OVERRIDE_CNT_COUNT = min (c.get SCHED_OVERRIDE_CNT_COUNT + 1) (2 ^ 32 - 1) ∧
          u.sched = { c.sched with skipped := [] } ∧
          u = { c with regs := u.regs, sched := u.sched } ∧ c.SameRegs u [SCHED_OVERRIDE_CNT]))

/-- A GO in a started package starts a freeze of the dies in service and keeps the boundary it names; while a commit is under
way it only sets OVERLAP; before S0 it is LATE. A die that receives the freeze flit moves its shadows and buffered live writes
into its part of the staged set. The last acknowledgement of a commit of one segment accepts it for the named boundary, or for
the first one at least 20 us away, and it is LATE when the named one is nearer; the captain then holds the confirmation. The
vice-captain takes the confirmation first, then the other dies; a die without it returns its part to its shadows. -/
def Obligations.CommitHandshake : Prop :=
  ∀ (s : State) (d : Fin 8) (v : Word) (t : Nat), Sys2Proof.Machine.Inv s →
    let st := s.chip.get PKG_COMMIT_STATUS_STATE
    let r := s.chip.commit
    let dies := s.chip.inServiceDies.foldl maskSet 0
    let named := if v.toNat % 2 = 1 then some (s.chip.get PKG_COMMIT_TICK_TICK) else none
    (s.chip.started = true → v.toNat.testBit 31 = true →
      (st ≠ coPending → st ≠ coSegmented → r.freezing = false →
        ∃ u, exec (.commitGo v) s = .next { s with chip := u } ∧
          u.get PKG_COMMIT_CTRL_AT_TICK = v.toNat % 2 ∧
          u.commit = { freezing := true, asked := dies, named := named } ∧
          u = { s.chip with regs := u.regs, commit := u.commit } ∧ s.chip.SameRegs u [PKG_COMMIT_CTRL]) ∧
      (st = coPending ∨ st = coSegmented ∨ r.freezing = true →
        ∃ u, exec (.commitGo v) s = .next { s with chip := u } ∧
          u.get PKG_COMMIT_STATUS_OVERLAP = 1 ∧ u.get PKG_COMMIT_STATUS_STATE = st ∧
          u = { s.chip with regs := u.regs } ∧ s.chip.SameRegs u [PKG_COMMIT_CTRL, PKG_COMMIT_STATUS])) ∧
    (s.chip.started = false → v.toNat.testBit 31 = true →
      ∃ u, exec (.commitGo v) s = .next { s with chip := u } ∧
        u.get PKG_COMMIT_STATUS_STATE = coLate ∧
        u = { s.chip with regs := u.regs } ∧ s.chip.SameRegs u [PKG_COMMIT_CTRL, PKG_COMMIT_STATUS]) ∧
    (s.chip.inService d = true → r.freezing = true → maskBit r.asked d = true → maskBit r.frozen d = false →
      ∃ u, exec (.freezeFlit d) s = .next { s with chip := u } ∧
        u.commit = { r with frozen := maskSet r.frozen d } ∧
        (∀ a, u.stagedOf a = (if s.chip.partOf a = d.val ∧ (s.chip.shadowOf a).isSome then s.chip.shadowOf a
          else s.chip.stagedOf a)) ∧
        (∀ a, u.shadowOf a = (if s.chip.partOf a = d.val then none else s.chip.shadowOf a)) ∧
        (∀ k, tabGet (fun _ => none) u.libStaged k = (if keyDie k = d.val ∧ (s.chip.liveOf k).isSome then s.chip.liveOf k
          else tabGet (fun _ => none) s.chip.libStaged k)) ∧
        (∀ k, u.liveOf k = (if keyDie k = d.val then none else s.chip.liveOf k)) ∧
        u = { s.chip with regs := u.regs, shadow := u.shadow, staged := u.staged, libLive := u.libLive,
                          libStaged := u.libStaged, commit := u.commit } ∧ s.chip.SameRegs u [LIB_STATUS d]) ∧
    (s.chip.inService d = true → r.freezing = true → maskBit r.frozen d = true →
      let acked := maskSet r.acked d
      let all := s.chip.inServiceDies.all (fun e => maskBit acked e)
      let c20 := (s.chip.at t).boundary20
      (all = false →
        ∃ u, exec (.freezeAck d t) s = .next { s with chip := u } ∧ u = { s.chip with moment := t, commit := { r with acked := acked } }) ∧
      (all = true → s.chip.segmentPlan.length = 1 →
        (∀ c, r.named = none ∧ c = c20 ∨ r.named = some c ∧ c20 ≤ c →
          ∃ u, exec (.freezeAck d t) s = .next { s with chip := u } ∧
            u.get PKG_COMMIT_STATUS_STATE = coPending ∧
            u.commit = { r with
              acked := acked, freezing := false, at_ := some c, plan := s.chip.segmentPlan, loaded := 0
              chans := s.chip.changedChans, acceptedNs := s.chip.get PKG_TICK_NUM_TICK * s.chip.tickNs + t
              confirmed := 2 ^ s.chip.captain } ∧
            u = { s.chip with regs := u.regs, commit := u.commit, moment := t } ∧ s.chip.SameRegs u [PKG_COMMIT_STATUS]) ∧
        (∀ c, r.named = some c → c < c20 → r.frozen = dies →
          ∃ u, exec (.freezeAck d t) s = .next { s with chip := u } ∧
            u.get PKG_COMMIT_STATUS_STATE = coLate ∧ u.commit = {} ∧
            (∀ a, s.chip.partOf a < 8 → maskBit dies (s.chip.partOf a) = true → u.stagedOf a = none ∧
              u.shadowOf a = (if (s.chip.shadowOf a).isSome then s.chip.shadowOf a else s.chip.stagedOf a)) ∧
            s.chip.SameMem u ∧ u.slots = s.chip.slots))) ∧
    (s.chip.inService d = true → maskBit r.frozen d = true →
      (r.at_.isSome = true →
        let first : Prop := s.chip.hasVice = false ∨ d.val = s.chip.vice ∨ maskBit r.confirmed s.chip.vice = true ∨
          s.chip.inService s.chip.vice = false
        (first →
          ∃ u, exec (.commitConfirm d) s = .next { s with chip := u } ∧
            u = { s.chip with commit := { r with confirmed := maskSet r.confirmed d } }) ∧
        (¬ first → exec (.commitConfirm d) s = .next s)) ∧
      (maskBit r.confirmed d = false →
        ∃ u, exec (.freezeConfirmTimeout d) s = .next { s with chip := u } ∧
          u.commit = { r with frozen := maskClear r.frozen d, freezing := false } ∧
          (∀ a, u.stagedOf a = (if s.chip.partOf a = d.val then none else s.chip.stagedOf a)) ∧
          (∀ a, u.shadowOf a = (if s.chip.partOf a = d.val ∧ s.chip.shadowOf a = none then s.chip.stagedOf a
            else s.chip.shadowOf a)) ∧
          u = { s.chip with regs := u.regs, shadow := u.shadow, staged := u.staged, libLive := u.libLive,
                            libStaged := u.libStaged, commit := u.commit } ∧ s.chip.SameRegs u [LIB_STATUS d]))

/-- At boundary C - 1 a confirmed commit of one segment brings its staged set into force and is done, and the first segment of a
segmented one loads: the staged value of VOL_ARM_GUARD if
it is legal, REG_REFUSED otherwise; the staged tone word of an inactive slot of a confirmed die in service. STATE becomes DONE
and SEQ one up. A commit with more active slots than a die may have is refused (that it ends LATE, its set back in the shadows,
is log 92). A later segment loads the staged values of its own EFEs only; the last one makes SEQ one up, and STATE becomes DONE
once it has switched. -/
def Obligations.CommitLoading : Prop :=
  ∀ (s : State) (d : Fin 8) (sl : Fin 2048) (v : Word) (j : Nat), Sys2Proof.Machine.Inv s →
    let r := s.chip.commit
    let g := v.toNat % 1024
    let amp := CH_PHASE_AMP d sl
    let quiet := [PKG_COMMIT_STATUS, SCHED_STATUS, SCHED_NEXT, SCHED_NEXT + 4, SCHED_SKIP_CNT, VOL_EVENTS, TIME_DOM_STATUS 0,
      TIME_DOM_STATUS 1, ETH_STATUS 0, ETH_STATUS 1, ETH_EVENTS 0, ETH_EVENTS 1]
    let done : Chip → Prop := fun u =>
      u.get PKG_COMMIT_STATUS_STATE = coDone ∧ u.commit = {} ∧
        u.get PKG_COMMIT_STATUS_SEQ = (s.chip.get PKG_COMMIT_STATUS_SEQ + 1) % 2 ^ 16
    let idleSlot : Prop := (s.chip.slot d sl).active = false ∧ s.chip.get (CH_CTRL_EN d sl) = 0 ∧
      s.chip.inService d = true ∧ maskBit r.confirmed d = true ∧ s.chip.staged = [(amp, some v)] ∧ s.chip.libStaged = []
    let fits : Prop := ∀ e : Fin 8, s.chip.inService e = true → maskBit r.confirmed e = true → s.chip.tooMany e = false
    (r.loaded = 0 → r.at_ = some (s.chip.get PKG_TICK_NUM_TICK + 1) → r.plan.length = 1 → fits →
      (∀ e : Fin 8, s.chip.inService e = true → maskBit r.confirmed e = true → s.chip.syn e ≠ synStarting) →
      (∃ u, exec (.commitLoad []) s = .next { s with chip := u } ∧ u.get PKG_COMMIT_STATUS_STATE = coDone ∧ u.commit = {}) ∧
      (s.chip.staged = [(VOL_ARM_GUARD, some v)] → s.chip.libStaged = [] →
        (50 ≤ g → g ≤ 1000 → ∃ u, exec (.commitLoad []) s = .next { s with chip := u } ∧ done u ∧
          u.reg VOL_ARM_GUARD = v ∧ u.staged = [] ∧ s.chip.SameRegs u (VOL_ARM_GUARD :: quiet) ∧ s.chip.SameMem u ∧
          u.slots = s.chip.slots) ∧
        (g < 50 ∨ 1000 < g → ∃ u, exec (.commitLoad []) s = .next { s with chip := u } ∧ done u ∧
          u.reg VOL_ARM_GUARD = s.chip.reg VOL_ARM_GUARD ∧ u.get PKG_COMMIT_STATUS_REG_REFUSED = 1 ∧ u.staged = [] ∧
          s.chip.SameMem u ∧ u.slots = s.chip.slots)) ∧
      (idleSlot → s.chip.planOk s.chip.next (s.chip.serves d) d sl = true →
        ∃ u, exec (.commitLoad []) s = .next { s with chip := u } ∧ done u ∧
          u.reg amp = v ∧ u.staged = [] ∧ s.chip.SameRegs u (amp :: quiet) ∧ s.chip.SameMem u ∧ u.slots = s.chip.slots)) ∧
    (r.loaded = 0 → r.at_ = some (s.chip.get PKG_TICK_NUM_TICK + 1) → 0 < r.plan.length → ¬ fits →
      ∃ u, exec (.commitLoad []) s = .next { s with chip := u } ∧
        u.get PKG_COMMIT_STATUS_STATE = coLate ∧ u.commit = {} ∧
        (∀ a, s.chip.partOf a < 8 → maskBit r.frozen (s.chip.partOf a) = true → u.stagedOf a = none ∧
          u.shadowOf a = (if (s.chip.shadowOf a).isSome then s.chip.shadowOf a else s.chip.stagedOf a)) ∧
        u = { s.chip with regs := u.regs, shadow := u.shadow, staged := u.staged, libLive := u.libLive,
                          libStaged := u.libStaged, commit := {} } ∧
        s.chip.SameRegs u (PKG_COMMIT_STATUS :: (List.range 8).map LIB_STATUS)) ∧
    (r.loaded = 0 → r.at_ = some (s.chip.get PKG_TICK_NUM_TICK + 1) → 1 < r.plan.length → fits →
      ∃ u, exec (.commitLoad []) s = .next { s with chip := u } ∧
        u.get PKG_COMMIT_STATUS_STATE = coSegmented ∧ u.commit.loaded = 1) ∧
    (r.loaded = j → 0 < j → 1 < r.plan.length →
      (∀ c, r.at_ = some c → s.chip.get PKG_TICK_NUM_TICK + 1 = c + j → j < r.plan.length →
        ∃ u, exec .commitSegmentLoad s = .next { s with chip := u } ∧
          u.commit.loaded = j + 1 ∧ u.get PKG_COMMIT_STATUS_STATE = coSegmented ∧
          u.get PKG_COMMIT_STATUS_SEQ = (s.chip.get PKG_COMMIT_STATUS_SEQ + (if j + 1 = r.plan.length then 1 else 0)) % 2 ^ 16) ∧
      (∀ c, r.at_ = some c → s.chip.get PKG_TICK_NUM_TICK + 1 = c + j → j < r.plan.length → idleSlot →
        ((r.plan.getD j []).contains (d.val * 8 + sl.val / 256) = true →
          ∃ u, exec .commitSegmentLoad s = .next { s with chip := u } ∧
            u.reg amp = v ∧ u.staged = [] ∧ u.commit = { r with loaded := j + 1 } ∧
            u.get PKG_COMMIT_STATUS_STATE = coSegmented ∧
            u.get PKG_COMMIT_STATUS_SEQ = (s.chip.get PKG_COMMIT_STATUS_SEQ + (if j + 1 = r.plan.length then 1 else 0)) % 2 ^ 16 ∧
            u = { s.chip with regs := u.regs, staged := [], commit := u.commit } ∧
            s.chip.SameRegs u [amp, PKG_COMMIT_STATUS]) ∧
        ((r.plan.getD j []).contains (d.val * 8 + sl.val / 256) = false → j + 1 < r.plan.length →
          ∃ u, exec .commitSegmentLoad s = .next { s with chip := u } ∧
            u.commit = { r with loaded := j + 1 } ∧ u.get PKG_COMMIT_STATUS_STATE = coSegmented ∧
            u = { s.chip with regs := u.regs, commit := u.commit } ∧ s.chip.SameRegs u [PKG_COMMIT_STATUS])) ∧
      (∀ c, r.at_ = some c → j = r.plan.length → c + j ≤ s.chip.get PKG_TICK_NUM_TICK + 1 →
        ∃ u, exec .commitSegmentLoad s = .next { s with chip := u } ∧
          u.get PKG_COMMIT_STATUS_STATE = coDone ∧ u.commit = {} ∧
          u = { s.chip with regs := u.regs, commit := {} } ∧ s.chip.SameRegs u [PKG_COMMIT_STATUS]))

/-- In automatic mode an attempt that times out without a link changes to the other rate. A link that comes up shows LINK, the
rate of the attempt and, for 1000BASE-X, AN_DONE, with its event, and its crossing is no longer in reset; one that goes down
clears them and starts with the first attempt again. A frame that is no accepted PTP frame, a bad FCS, and the other PTP
messages are discarded and counted. -/
def Obligations.EthernetPorts : Prop :=
  ∀ (s : State) (j : Fin 2) (h : PtpHdr) (fcs : Bool),
    let m := s.chip.ethTry j
    (s.chip.ethReady j = true → s.chip.get (ETH_STATUS_LINK j) = 0 →
      (s.chip.get (ETH_CTRL_MODE j) = 0 →
        ∃ u, exec (.ethAttemptTimeout j) s = .next { s with chip := u } ∧
          tabGet (fun _ => 0) u.time.ethMode j = 1 - tabGet (fun _ => 0) s.chip.time.ethMode j ∧
          (∀ k, k ≠ j.val → tabGet (fun _ => 0) u.time.ethMode k = tabGet (fun _ => 0) s.chip.time.ethMode k) ∧
          u = { s.chip with time := { s.chip.time with ethMode := u.time.ethMode } }) ∧
      (m < 2 →
        ∃ u, exec (.ethLinkUp j) s = .next { s with chip := u } ∧
          u.get (ETH_STATUS_LINK j) = 1 ∧ u.get (ETH_STATUS_RATE j) = m ∧ u.get (ETH_STATUS_AN_DONE j) = m ∧
          u.get (ETH_EVENTS_LINK_UP j) = 1 ∧ u.get ⟨CLK_XING_STATUS j, 1, 1⟩ = 0 ∧ s.chip.RegsOnly u ∧
          s.chip.SameRegs u [ETH_STATUS j, ETH_EVENTS j, CLK_XING_STATUS j])) ∧
    (s.chip.get (ETH_STATUS_LINK j) = 1 →
      ∃ u, exec (.ethLinkDown j) s = .next { s with chip := u } ∧
        u.get (ETH_STATUS_LINK j) = 0 ∧ u.get (ETH_STATUS_AN_DONE j) = 0 ∧ u.get (ETH_EVENTS_LINK_DOWN j) = 1 ∧
        tabGet (fun _ => 0) u.time.ethMode j = 0 ∧
        u = { s.chip with regs := u.regs, due := u.due, time := { s.chip.time with ethMode := u.time.ethMode } } ∧
        s.chip.SameRegs u [ETH_STATUS j, ETH_EVENTS j]) ∧
    (s.chip.ethUp j = true →
      ∃ u, exec (.ethFrameDiscard j fcs) s = .next { s with chip := u } ∧
        u.get (ETH_EVENTS_DISCARD j) = 1 ∧ (fcs = true → u.get (ETH_EVENTS_FCS_ERR j) = 1) ∧
        u.get (ETH_DISCARD_CNT_COUNT j) = min (s.chip.get (ETH_DISCARD_CNT_COUNT j) + 1) (2 ^ 32 - 1) ∧
        s.chip.RegsOnly u ∧ s.chip.SameRegs u [ETH_EVENTS j, ETH_DISCARD_CNT j]) ∧
    (s.chip.ethUp h.port = true →
      ∃ u, exec (.ptpOtherMessage h) s = .next { s with chip := u } ∧
        u.get (ETH_EVENTS_DISCARD h.port) = 1 ∧
        u.get (ETH_DISCARD_CNT_COUNT h.port) = min (s.chip.get (ETH_DISCARD_CNT_COUNT h.port) + 1) (2 ^ 32 - 1) ∧
        s.chip.RegsOnly u ∧ s.chip.SameRegs u [ETH_EVENTS h.port, ETH_DISCARD_CNT h.port])

/-- A fitting authentic message of one domain is counted, and the port selects its master as it then stands. An Announce of
another clock within 255 steps records its sender's dataset and the moment it was heard, and a LOST domain listens again. A Sync
of the selected master gives ingress and origin time, or waits for its Follow_Up, which supplies the origin. A Delay_Req that
meets no launch is sent, stamped, counted and numbered; one that finds a frame on the wire or would delay a launch is not sent
yet. A Delay_Resp that names this port makes an exchange: it joins the group, and the exchange of the full group with the
smallest path delay becomes the domain's update. A message that fails authentication, and one that does not fit, is only
counted. (The BMCA's detail is log 55, the frame's log 109.) -/
def Obligations.PtpMessages : Prop :=
  ∀ (s : State) (h : PtpHdr) (d : PtpDataset) (x : Fin 2) (k : Fin 2) (two : Bool) (origin raw : Int) (t : Nat) (req : BitVec 80),
    let j : Nat := h.port
    let src := h.source.toNat
    let p := s.chip.reselect x j
    let c := (s.chip.at t).reselect x j
    let r := c.ptp x j
    let q := p.ptp x j
    let mine := s.chip.ethUp j && s.chip.ptpFits h && s.chip.ptpDomains h == [x.val]
    let auth := !s.chip.on (TIME_DOM_CFG_AUTH x) || s.chip.ptpAuth h
    let cnt : Chip → Prop := fun u => u.get (ETH_RX_PTP_CNT_COUNT j) = min (s.chip.get (ETH_RX_PTP_CNT_COUNT j) + 1) (2 ^ 32 - 1)
    let only : Chip → List Nat → Prop := fun u l =>
      u = { s.chip with regs := u.regs, time := u.time, moment := u.moment } ∧
        u.time = { s.chip.time with ptp := u.time.ptp, doms := u.time.doms } ∧ u.dom (1 - x) = s.chip.dom (1 - x) ∧
        (∀ i, i ≠ x.val * 2 + j → tabGet (fun _ => {}) u.time.ptp i = tabGet (fun _ => {}) s.chip.time.ptp i) ∧
        s.chip.SameRegs u (ETH_RX_PTP_CNT j :: TIME_DOM_STATUS x :: l)
    let ds := [d.prio1.toNat, d.clockClass.toNat, d.accuracy.toNat, d.variance.toNat, d.prio2.toNat, d.gm.toNat]
    let heard := ((q.masters.find? (fun m => m.src == src)).map (·.heard)).getD []
    (mine = true → auth = true → -7 ≤ h.logInt → h.logInt ≤ 3 → d.steps.toNat < 255 → src / 2 ^ 16 ≠ s.chip.clockId j →
      ∃ u, exec (.ptpAnnounce h d) s = .next { s with chip := u } ∧ cnt u ∧
        (u.ptp x j).masters = q.masters.filter (fun m => m.src != src) ++
          [{ src := src, ds := ds, steps := d.steps.toNat, heard := (s.chip.upNs :: heard).take 2, logInt := h.logInt }] ∧
        (u.ptp x j).noAnn = false ∧ (u.ptp x j).sel = ((u.ptp x j).best s.chip.upNs).map (·.src) ∧
        u.get (TIME_DOM_STATUS_STATE x) =
          (if s.chip.get (TIME_DOM_STATUS_STATE x) = domLost then domListen else s.chip.get (TIME_DOM_STATUS_STATE x)) ∧
        only u []) ∧
    (mine = true → auth = true → -7 ≤ h.logInt → h.logInt ≤ 3 → r.sel = some src →
      (∀ o, tabGet (fun _ => none) r.origins src = some o → o ≤ origin) →
      ∃ u, exec (.ptpSync h two origin raw t) s = .next { s with chip := u } ∧ cnt u ∧
        u.ptp x j = { r with
          origins := tabPut (fun _ => none) r.origins src (some origin)
          noSync := false, twoStep := two, logSync := h.logInt
          t2 := some (s.chip.stampIn j raw - h.corr - s.chip.getI (ETH_ASYM_PS j))
          t1 := if two then none else some origin
          waitSeq := if two then some h.seq.toNat else none } ∧
        u.time.doms = c.time.doms ∧
        (c.inUse x j = true → u.get (TIME_DOM_STATUS_TWO_STEP x) = (if two then 1 else 0)) ∧ only u []) ∧
    (mine = true → auth = true → q.sel = some src → q.waitSeq = some h.seq.toNat →
      ∃ u, exec (.ptpFollowUp h origin) s = .next { s with chip := u } ∧ cnt u ∧
        u.ptp x j = { q with t1 := some (origin + h.corr), waitSeq := none } ∧ u.time.doms = p.time.doms ∧ only u []) ∧
    (s.chip.ethUp k = true → s.chip.on TIME_CTRL_EN = true → s.chip.on (TIME_DOM_CFG_EN x) = true →
      maskBit (s.chip.get (TIME_DOM_CFG_PORTS x)) k = true → (s.chip.ptp x k).sel.isSome = true →
      let seq := ((s.chip.ptp x k).reqSeq + 1) % 2 ^ 16
      let f := s.chip.delayReqFrame k (s.chip.delayReqMsg x k seq (-(s.chip.getI (ETH_ASYM_PS k))))
      ((s.chip.at t).wireBusy k f.length = false → (s.chip.at t).wireHeld k = false →
        ∃ u, exec (.delayReqSend x k ⟨raw, t⟩) s = .next { s with chip := u } ∧
          (u.ptp x k).t3 = some (s.chip.stampOut k raw) ∧ (u.ptp x k).reqSeq = seq ∧
          tabGet (fun _ => []) u.time.lastFrame k = f ∧
          u.get (ETH_TX_PTP_CNT_COUNT k) = min (s.chip.get (ETH_TX_PTP_CNT_COUNT k) + 1) (2 ^ 32 - 1) ∧
          u.time = { s.chip.time with ptp := u.time.ptp, lastFrame := u.time.lastFrame, wireEnd := u.time.wireEnd } ∧
          u = { s.chip with regs := u.regs, time := u.time, moment := t } ∧ s.chip.SameRegs u [ETH_TX_PTP_CNT k]) ∧
      ((s.chip.at t).wireBusy k f.length = true ∨ (s.chip.at t).wireHeld k = true →
        exec (.delayReqSend x k ⟨raw, t⟩) s = .next { s with chip := s.chip.at t })) ∧
    (mine = true → auth = true → r.sel = some src → r.reqSeq = h.seq.toNat → req.toNat = s.chip.portId j →
      (r.t3 = none →
        ∃ u, exec (.ptpDelayResp h req raw t) s = .next { s with chip := u } ∧ cnt u ∧ u.time.doms = c.time.doms ∧
          only u []) ∧
      (c.inUse x j = true → ∀ t1, r.t1 = some t1 → ∀ t2, r.t2 = some t2 → ∀ t3, r.t3 = some t3 →
        let ms := t2 - t1
        let sm := raw - h.corr - t3
        let g := (c.dom x).group ++ [(roundDiv (ms - sm) 2, roundDiv (ms + sm) 2)]
        (g.length < s.chip.get TIME_SERVO_CFG_FILTER →
          ∃ u, exec (.ptpDelayResp h req raw t) s = .next { s with chip := u } ∧ cnt u ∧
            u.dom x = { c.dom x with group := g } ∧ (u.ptp x j).t3 = none ∧ only u []) ∧
        (s.chip.get TIME_SERVO_CFG_FILTER ≤ g.length →
          ∃ u, exec (.ptpDelayResp h req raw t) s = .next { s with chip := u } ∧
            (∃ e ∈ g, (∀ f ∈ g, e.2 ≤ f.2) ∧ (u.dom x).theta = some e.1 ∧
              u.getI (TIME_DOM_OFFSET_PS x) = clampInt (-(2 ^ 31 : Nat)) (2 ^ 31 - 1 : Nat) e.1) ∧
            (u.dom x).group = [] ∧
            u.get (TIME_DOM_UPDATE_CNT_COUNT x) = min (s.chip.get (TIME_DOM_UPDATE_CNT_COUNT x) + 1) (2 ^ 32 - 1) ∧
            s.chip.SameMem u ∧ u.slots = s.chip.slots ∧ u.vols = s.chip.vols))) ∧
    (mine = true → auth = false →
      ∃ u, exec (.ptpFollowUp h origin) s = .next { s with chip := u } ∧
        u.get (ETH_AUTH_FAIL_CNT_COUNT j) = min (s.chip.get (ETH_AUTH_FAIL_CNT_COUNT j) + 1) (2 ^ 32 - 1) ∧
        u.get TIME_EVENTS_AUTH_FAIL = 1 ∧ s.chip.RegsOnly u ∧ s.chip.SameRegs u [ETH_AUTH_FAIL_CNT j, TIME_EVENTS]) ∧
    (s.chip.ethUp j = true → s.chip.ptpFits h = false →
      ∃ u, exec (.ptpFollowUp h origin) s = .next { s with chip := u } ∧
        u.get (ETH_DISCARD_CNT_COUNT j) = min (s.chip.get (ETH_DISCARD_CNT_COUNT j) + 1) (2 ^ 32 - 1) ∧
        u.get (ETH_EVENTS_DISCARD j) = 1 ∧ s.chip.RegsOnly u ∧ s.chip.SameRegs u [ETH_DISCARD_CNT j, ETH_EVENTS j])

/-- A Sync or Announce timeout is remembered for its port, which after an Announce timeout has no master; once a timeout of
either kind, or no link, stands on every port of the domain the domain is LOST. A time word brings a die the frequency D two
boundaries later, and raises DIE_SKEW when the die's time differs by more than a nanosecond and no SKEW calibration holds the
check stale. A due telemetry frame goes out on an enabled port with a link, numbered by SEQ and marked where a host frame delays
it; where it would delay an armed launch it waits. PPS_OUT rises on a whole second and falls after its width. -/
def Obligations.TimeoutsAndTelemetry : Prop :=
  ∀ (s : State) (d : Fin 8) (x j : Fin 2) (skew : Int) (t : Nat),
    let o : Nat := 1 - j
    let st := s.chip.get (TIME_DOM_STATUS_STATE x)
    let c := s.chip.at t
    let live := decide (domListen ≤ st) && decide (st ≤ domAnomaly)
    let only : Chip → List Nat → Prop := fun u l =>
      u = { s.chip with regs := u.regs, due := u.due, time := u.time, moment := u.moment, faultLog := u.faultLog } ∧ s.chip.SameRegs u l
    (s.chip.ptpAbsent x o = false → (s.chip.ptp x o).noSync = false → (s.chip.ptp x o).noAnn = false →
      (∃ u, exec (.syncTimeout x j) s = .next { s with chip := u } ∧
        u.ptp x j = { s.chip.ptp x j with noSync := true } ∧ u.ptp x o = s.chip.ptp x o ∧
        u.time = { s.chip.time with ptp := u.time.ptp } ∧ only u []) ∧
      (∃ u, exec (.announceTimeout x j) s = .next { s with chip := u } ∧
        (u.ptp x j).noAnn = true ∧ (u.ptp x j).masters = [] ∧ (u.ptp x j).sel = none ∧ u.ptp x o = s.chip.ptp x o ∧
        (∀ k m g, (u.dom x).master = some (k, m, g) → k = o) ∧
        only u [TIME_DOM_STATUS x])) ∧
    (live = true → (s.chip.ptpAbsent x o = true ∨ (s.chip.ptp x o).noSync = true ∨ (s.chip.ptp x o).noAnn = true) →
      (∃ u, exec (.syncTimeout x j) s = .next { s with chip := u } ∧
        u.get (TIME_DOM_STATUS_STATE x) = domLost ∧ (u.ptp x j).noSync = true ∧ (u.dom x).run = 0 ∧
        only u [TIME_DOM_STATUS x, TIME_STATUS, TIME_EVENTS, TIME_HO_SEC]) ∧
      (∃ u, exec (.announceTimeout x j) s = .next { s with chip := u } ∧
        u.get (TIME_DOM_STATUS_STATE x) = domLost ∧ (u.ptp x j).noAnn = true ∧ (u.ptp x j).masters = [] ∧
        only u [TIME_DOM_STATUS x, TIME_STATUS, TIME_EVENTS, TIME_HO_SEC])) ∧
    (s.chip.inService d = true → s.chip.started = true → s.chip.leaseStopped 2 = false →
      ∃ u, exec (.timeWord d skew) s = .next { s with chip := u } ∧
        u.time = { s.chip.time with
          dPend := s.chip.time.dPend ++ [(d.val, s.chip.get PKG_TICK_NUM_TICK + 2, s.chip.time.d)]
          dSent := s.chip.time.d } ∧
        (skew.natAbs ≤ 1000 ∨ s.chip.calStale d calSkew = true → only u []) ∧
        (1000 < skew.natAbs → s.chip.calStale d calSkew = false → u.get TIME_EVENTS_DIE_SKEW = 1 ∧
          u.get (FAULT_CNT_COUNT 3) = min (s.chip.get (FAULT_CNT_COUNT 3) + 1) (2 ^ 32 - 1) ∧
          only u [TIME_EVENTS, FAULT_CNT 3, FAULT_LOG_STATUS, FAULT_LOG_LOST, FAULT_EVENTS])) ∧
    (c.telDue = true → s.chip.get ETH_TEL_CFG_PORTS = 2 ^ j.val → s.chip.ethUp j = true →
      (c.wireBusy j 126 = false →
        ∃ u, exec (.telemetryLaunch t) s = .next { s with chip := u } ∧
          tabGet (fun _ => []) u.time.lastFrame j =
            c.telFrame j c.pkgNs (max c.pkgNs (ceilDiv (tabGet (fun _ => 0) s.chip.time.wireEnd j) 1000)) (c.wireHeld j) ∧
          (tabGet (fun _ => []) u.time.lastFrame j).take 12 =
            bytesBE 6 (s.chip.get ETH_TEL_DST_MAC) ++ bytesBE 6 (s.chip.get (ETH_MAC_MAC j)) ∧
          ((tabGet (fun _ => []) u.time.lastFrame j).getD 15 0).testBit 4 = c.wireHeld j ∧
          u.get ETH_TEL_SEQ_SEQ = (s.chip.get ETH_TEL_SEQ_SEQ + 1) % 2 ^ 64 ∧
          u.get ETH_TEL_DELAYED_CNT_COUNT =
            min (s.chip.get ETH_TEL_DELAYED_CNT_COUNT + (if c.wireHeld j then 1 else 0)) (2 ^ 32 - 1) ∧
          u = { s.chip with regs := u.regs, time := u.time, freeCnt := u.freeCnt, moment := t } ∧
          u.time = { s.chip.time with
            lastFrame := u.time.lastFrame, wireEnd := u.time.wireEnd, telWait := u.time.telWait, telSeen := u.time.telSeen } ∧
          s.chip.SameRegs u [ETH_TEL_SEQ, ETH_TEL_SEQ + 4, ETH_TEL_DELAYED_CNT]) ∧
      (c.wireBusy j 126 = true →
        ∃ u, exec (.telemetryLaunch t) s = .next { s with chip := u } ∧
          tabGet (fun _ => none) u.time.telWait j = some c.pkgNs ∧
          u = { s.chip with time := { s.chip.time with telWait := u.time.telWait }, moment := t })) ∧
    (c.pkgNs % 1000000000 = 0 → s.chip.on TIME_PPS_OUT_EN = true → s.chip.started = true →
      s.chip.inService s.chip.captain = true → (s.chip.on TIME_STATUS_VALID = true ∨ s.chip.on TIME_PPS_OUT_LOCAL = true) →
      ∃ u, exec (.ppsOut t) s = .next { s with chip := u } ∧
        u = { s.chip with moment := t, time := { s.chip.time with ppsOut := some (s.chip.time.now + t) } }) ∧
    (c.pkgNs % 1000000000 ≠ 0 → ∀ n, s.chip.time.ppsOut = some n → n + 1000 * s.chip.get TIME_PPS_OUT_WIDTH_US ≤ c.pkgNs →
      ∃ u, exec (.ppsOut t) s = .next { s with chip := u } ∧
        u = { s.chip with moment := t, time := { s.chip.time with ppsOut := none } })

/-- OPEN takes a free launch slot to WRITING. ARM is refused without valid time, with a length outside 60 to 1514 and without a
link, with the cause; else the slot is ARMED or, less than 10 us ahead, meets its late policy. ABORT of an armed slot 2 us ahead
ends it as ABORTED, a later one is remembered, one on a final slot sets ABORT_LATE. RELEASE frees a slot in WRITING or a final
one. At its time an armed slot sends its frame and shows the egress time, and a telemetry frame that waited follows; one sent late
first waits for the wire; without a link the slot is dropped. In other states a command sets CAUSE 6. -/
def Obligations.LaunchSlots : Prop :=
  ∀ (s : State) (j : Fin 16) (t : Nat) (raw : Int),
    let st := s.chip.get (ETH_L_STATUS_STATE j)
    let p := s.chip.get (ETH_L_CFG_PORT j)
    let len := s.chip.get (ETH_L_CFG_LEN j)
    let at_ := (s.chip.get (ETH_L_TIME_SEC_LO_SEC j) + 2 ^ 32 * s.chip.get (ETH_L_TIME_SEC_HI_SEC j)) * 1000000000
      + s.chip.get (ETH_L_TIME_NS_NS j)
    let now := s.chip.time.now + t
    let late := maskBit s.chip.time.launchLate j
    let held := (s.chip.at t).wireHeld p || (s.chip.at t).wireBusy p len
    let mine : Chip → Prop := fun u =>
      u.time = { s.chip.time with
        launchLate := u.time.launchLate, launchAbort := u.time.launchAbort, lastFrame := u.time.lastFrame
        wireEnd := u.time.wireEnd }
    let only : Chip → List Nat → Prop := fun u l =>
      u = { s.chip with regs := u.regs, due := u.due, time := u.time, moment := u.moment } ∧ mine u ∧ s.chip.SameRegs u l
    let turned : Instr → Nat → Prop := fun i k =>
      ∃ u, exec i s = .next { s with chip := u } ∧ u.get (ETH_L_STATUS_CAUSE j) = k ∧ u.get (ETH_L_STATUS_STATE j) = st ∧
        u.time = s.chip.time ∧ only u [ETH_L_STATUS j]
    let final : Chip → Nat → Nat → Prop := fun u k a =>
      u.get (ETH_L_STATUS_STATE j) = k ∧ u.get (ETH_L_STATUS_CAUSE j) = a ∧
        u.get (ETH_L_STATUS_ABORT_LATE j) = (if maskBit s.chip.time.launchAbort j then 1 else 0) ∧
        maskBit u.time.launchLate j = false ∧ maskBit u.time.launchAbort j = false
    (st = 0 → ∃ u, exec (.launchOpen j 1) s = .next { s with chip := u } ∧
      u.get (ETH_L_STATUS_STATE j) = 1 ∧ u.get (ETH_L_STATUS_CAUSE j) = 0 ∧ u.get (ETH_L_STATUS_ABORT_LATE j) = 0 ∧
      u.time = s.chip.time ∧ only u [ETH_L_STATUS j]) ∧
    (st ≠ 0 → turned (.launchOpen j 1) 6) ∧ (st ≠ 1 → turned (.launchArm j 2 t) 6) ∧
    (st = 0 ∨ st = 1 → turned (.launchAbort j 4 t) 6) ∧ (st = 0 ∨ st = 2 → turned (.launchRelease j 8) 6) ∧
    (st = 1 →
      (s.chip.get TIME_STATUS_VALID = 0 → turned (.launchArm j 2 t) 1) ∧
      (s.chip.get TIME_STATUS_VALID = 1 →
        (len < 60 ∨ 1514 < len → turned (.launchArm j 2 t) 2) ∧
        (60 ≤ len → len ≤ 1514 →
          (s.chip.ethUp p = false → turned (.launchArm j 2 t) 3) ∧
          (s.chip.ethUp p = true →
            (s.chip.lOverlap j = true → turned (.launchArm j 2 t) 4) ∧
            (s.chip.lOverlap j = false →
              (now + 10000 ≤ at_ →
                ∃ u, exec (.launchArm j 2 t) s = .next { s with chip := u } ∧
                  u.get (ETH_L_STATUS_STATE j) = 2 ∧ u.get (ETH_L_STATUS_CAUSE j) = 0 ∧ u.time = s.chip.time ∧
                  only u [ETH_L_STATUS j]) ∧
              (at_ < now + 10000 → s.chip.get (ETH_L_CFG_LATE j) = 1 →
                ∃ u, exec (.launchArm j 2 t) s = .next { s with chip := u } ∧
                  u.get (ETH_L_STATUS_STATE j) = 2 ∧ u.time.launchLate = maskSet s.chip.time.launchLate j ∧
                  only u [ETH_L_STATUS j]) ∧
              (at_ < now + 10000 → s.chip.get (ETH_L_CFG_LATE j) = 0 →
                ∃ u, exec (.launchArm j 2 t) s = .next { s with chip := u } ∧ final u 5 5 ∧
                  u.get ETH_LAUNCH_DROP_CNT_COUNT = min (s.chip.get ETH_LAUNCH_DROP_CNT_COUNT + 1) (2 ^ 32 - 1) ∧
                  u.get TIME_EVENTS_LAUNCH_DROP = 1 ∧ only u [ETH_L_STATUS j, ETH_LAUNCH_DROP_CNT, TIME_EVENTS])))))) ∧
    (st = 2 →
      (now + 2000 ≤ at_ → late = false →
        ∃ u, exec (.launchAbort j 4 t) s = .next { s with chip := u } ∧ final u 6 0 ∧ only u [ETH_L_STATUS j]) ∧
      (at_ < now + 2000 ∨ late = true →
        ∃ u, exec (.launchAbort j 4 t) s = .next { s with chip := u } ∧
          u.time = { s.chip.time with launchAbort := maskSet s.chip.time.launchAbort j } ∧ only u []) ∧
      (late = true ∨ at_ ≤ now →
        (s.chip.ethUp p = true → late = true → held = true → tabGet (fun _ => none) s.chip.time.telWait p = none →
          exec (.launchTime j t raw) s = .next { s with chip := s.chip.at t }) ∧
        (s.chip.ethUp p = true → late = false ∨ held = false → ∀ ns, tabGet (fun _ => none) s.chip.time.telWait p = some ns →
          (∀ k : Fin 16, k ≠ j → s.chip.get (ETH_L_STATUS_STATE k) ≠ 2) →
          ∃ u, exec (.launchTime j t raw) s = .next { s with chip := u } ∧ final u (if late then 4 else 3) 0 ∧
            tabGet (fun _ => none) u.time.telWait p = none ∧
            (tabGet (fun _ => []) u.time.lastFrame p).take 6 = bytesBE 6 (s.chip.get ETH_TEL_DST_MAC) ∧
            u.get ETH_TEL_SEQ_SEQ = (s.chip.get ETH_TEL_SEQ_SEQ + 1) % 2 ^ 64 ∧
            u.get ETH_TEL_DELAYED_CNT_COUNT = min (s.chip.get ETH_TEL_DELAYED_CNT_COUNT + 1) (2 ^ 32 - 1) ∧
            s.chip.SameMem u ∧ u.slots = s.chip.slots ∧ u.vols = s.chip.vols) ∧
        (s.chip.ethUp p = true → late = false ∨ held = false → tabGet (fun _ => none) s.chip.time.telWait p = none →
          ∃ u, exec (.launchTime j t raw) s = .next { s with chip := u } ∧ final u (if late then 4 else 3) 0 ∧
            tabGet (fun _ => []) u.time.lastFrame p = s.chip.lFrame j ∧
            u.get (if late then TIME_EVENTS_LAUNCH_LATE else TIME_EVENTS_LAUNCH_SENT) = 1 ∧
            u.get (ETH_L_TX_NS_NS j) = (s.chip.stampNative p raw / 1000).toNat % 1000000000 ∧
            only u [ETH_L_STATUS j, TIME_EVENTS, ETH_L_TX_NS j, ETH_L_TX_SEC_LO j, ETH_L_TX_SEC_HI j]) ∧
        (s.chip.ethUp p = false → tabGet (fun _ => none) s.chip.time.telWait p = none →
          ∃ u, exec (.launchTime j t raw) s = .next { s with chip := u } ∧ final u 5 3 ∧
            u.get TIME_EVENTS_LAUNCH_DROP = 1 ∧ only u [ETH_L_STATUS j, ETH_LAUNCH_DROP_CNT, TIME_EVENTS]))) ∧
    (3 ≤ st → ∃ u, exec (.launchAbort j 4 t) s = .next { s with chip := u } ∧
      u.get (ETH_L_STATUS_ABORT_LATE j) = 1 ∧ u.get (ETH_L_STATUS_STATE j) = st ∧ u.time = s.chip.time ∧ only u [ETH_L_STATUS j]) ∧
    (st = 1 ∨ 3 ≤ st → ∃ u, exec (.launchRelease j 8) s = .next { s with chip := u } ∧
      u.get (ETH_L_STATUS_STATE j) = 0 ∧ u.get (ETH_L_STATUS_CAUSE j) = 0 ∧ u.get (ETH_L_STATUS_ABORT_LATE j) = 0 ∧
      u.time = s.chip.time ∧ only u [ETH_L_STATUS j])

/-- A boundary starts the next tick: in a started package where no step is due there the tick number is one up and package time
one period on, received frames are used up, and every running die shows the temperature and its load: the stall cycles and, when
started, at least the cycles of its active slots on 64 lanes, which are fewer in bypass mode. A step due at the next boundary
makes the tick number N' and package time its place on the network grid; network time becomes valid, with its events. -/
def Obligations.TickBoundary : Prop :=
  ∀ (s : State) (env : List DieTick) (d : Fin 8),
    let n := s.chip.get PKG_TICK_NUM_TICK
    (s.chip.resetLow = false → s.chip.stepDue = false →
      ∃ u, exec (.tickBoundary env) s = .next { s with chip := u } ∧
        u.upTicks = s.chip.upTicks + 1 ∧ u.moment = 0 ∧ u.started = s.chip.started ∧
        (s.chip.started = true →
          u.get PKG_TICK_NUM_TICK = (n + 1) % 2 ^ 64 ∧ u.time.now = s.chip.time.now + s.chip.tickNs ∧ u.frames = []) ∧
        (s.chip.started = false → u.get PKG_TICK_NUM_TICK = n ∧ u.time.now = s.chip.time.now) ∧
        (∀ m, env[d.val]? = some m → s.chip.inService d = true → u.runs d = true →
          (s.chip.started = false → u.get (DIE_LOAD_LAST d) = min 65535 m.load) ∧
          (s.chip.started = true → u.inService d = true →
            min 65535 (ceilDiv (512 + (if (s.chip.die d).bypSeen then 4 else 6) * u.get (DIE_ACTIVE_SLOTS d)) 64 + m.load) ≤ u.get (DIE_LOAD_LAST d)) ∧
          u.get (DIE_LOAD_LAST d) ≤ u.get (DIE_LOAD_PEAK d) ∧ u.get (CAL_T_NOW_TEMP d) = unsignedOf 16 m.temp)) ∧
    (s.chip.started = true → s.chip.time.prefDue = false → ∀ ns m x re, s.chip.time.stepAt = some (ns, m, x, re) → ns = n + 1 →
      m < 2 ^ 64 → x < 2 →
      ∃ u, exec (.firstStep env) s = .next { s with chip := u } ∧
        u.get PKG_TICK_NUM_TICK = m ∧ u.time.now = s.chip.originNs + m * s.chip.tickNs ∧ u.time.stepAt = none ∧
        u.get TIME_STATUS_VALID = 1 ∧ u.get VOL_STATUS_TIME_VALID = 1 ∧ u.get PKG_TICK_CFG_GRID_NET = 1 ∧ u.get TIME_STATUS_ACTIVE = x ∧
        u.get TIME_EVENTS_REMAP = 1 ∧ (s.chip.get TIME_STATUS_VALID = 0 → u.get TIME_EVENTS_STEPPED = 1) ∧
        (re = true → u.get TIME_EVENTS_RESTEPPED = 1) ∧ u.upTicks = s.chip.upTicks + 1)

/-- An overrun is counted and shown, repeats the frames of the die's ACTIVE and WARM ports, those begun in short form and
counted, and at the third in a row sidelines the die. PEAK_CLR clears the peak load. An access to the blocks of a die out of
service is counted and reads zero. A read of package time answers its nanoseconds at that moment (that they are the captain's,
log 61) and keeps the seconds for its port, unless the port claims no memory requests; the latency it shows is a free value
within its bound (log 21). -/
def Obligations.OverrunsAndAccesses : Prop :=
  ∀ (s : State) (h : Fin 2) (d : Fin 8) (k : Nat) (begun : BitVec 16) (v : Word) (t : Nat) (read : Bool),
    let host : Chip → Prop := fun u =>
      ∀ p : Fin 2, p ≠ h → u.host p = s.chip.host p
    (s.chip.inService d = true → s.chip.started = true → (s.chip.die d).overrun = false → s.chip.bypassed d = false →
      ∃ u, exec (.tickOverrun d k begun) s = .next { s with chip := u } ∧
        (u.die d).overrun = true ∧ (u.die d).reached = k ∧ u.get (DIE_EVENTS_OVERRUN d) = 1 ∧
        u.get (DIE_OVERRUN_CNT_TOTAL d) = min (s.chip.get (DIE_OVERRUN_CNT_TOTAL d) + 1) (2 ^ 30 - 1) ∧
        u.get (DIE_OVERRUN_CNT_CONSEC d) = min (s.chip.get (DIE_OVERRUN_CNT_CONSEC d) + 1) (2 ^ 2 - 1) ∧
        (∀ p : Fin 16, s.chip.elUp d p = true →
          tabGet (fun _ => 0) u.repeatNext (d.val * 16 + p.val) = (if begun.toNat.testBit p then 2 else 1) ∧
          (begun.toNat.testBit p = true → u.get (ELINK_EVENTS_REPEAT_SHORT d p) = 1 ∧
            u.get (ELINK_REPEAT_CNT_COUNT d p) = min (s.chip.get (ELINK_REPEAT_CNT_COUNT d p) + 1) (2 ^ 32 - 1))) ∧
        (s.chip.get (DIE_OVERRUN_CNT_CONSEC d) = 2 → u.get (DIE_EVENTS_OVERRUN_FAULT d) = 1 ∧
          u.get (DIE_STATUS_SERVICE d) = svcSidelined ∧ u.get (FAULT_DIE_CAUSE d) = 0x10) ∧
        s.chip.SameOutside u d (faultRegs d) ∧ u.volStage = s.chip.volStage ∧ u.vols = s.chip.vols ∧ u.time = s.chip.time) ∧
    (d.val < s.chip.dieCount →
      (v.toNat % 2 = 1 →
        ∃ u, exec (.diePeakClr d v) s = .next { s with chip := u } ∧
          u.get (DIE_LOAD_PEAK d) = 0 ∧ u.get (DIE_LOAD_LAST d) = s.chip.get (DIE_LOAD_LAST d) ∧ u = { s.chip with regs := u.regs } ∧
          s.chip.SameRegs u [DIE_LOAD d]) ∧
      (svcSidelined ≤ s.chip.get (DIE_STATUS_SERVICE d) →
        ∃ u, exec (.sidelinedDieAccess h d read) s = .next { s with chip := u } ∧
          u.get (DIE_SIDELINE_ACC_COUNT d) = min (s.chip.get (DIE_SIDELINE_ACC_COUNT d) + 1) (2 ^ 32 - 1) ∧
          u.get (DIE_EVENTS_SIDELINE_ACC d) = 1 ∧ (read = true → (u.host h).cpl = [0] ∧ (u.host h).cplStatus = 0) ∧
          (read = false → u.hosts = s.chip.hosts) ∧ host u ∧
          u = { s.chip with regs := u.regs, due := u.due, hosts := u.hosts } ∧
          s.chip.SameRegs u [DIE_SIDELINE_ACC d, DIE_EVENTS d])) ∧
    (s.chip.hostUp h = true →
      (s.chip.memOn h = true →
        ∃ u, exec (.timeNowRead h t) s = .next { s with chip := u } ∧
          (u.host h).cpl = [BitVec.ofNat 32 ((s.chip.at t).timeShown % 1000000000)] ∧ (u.host h).cplStatus = 0 ∧
          (u.host h).timeHigh = some ((s.chip.at t).timeShown / 1000000000) ∧ host u ∧
          u.latOf h = (max (s.chip.latOf h).1 (s.chip.free % 1501), (s.chip.latOf h).2) ∧
          u = { s.chip with hosts := u.hosts, latency := u.latency, freeCnt := s.chip.freeCnt + 1, moment := t }) ∧
      (s.chip.memOn h = false →
        ∃ u, exec (.timeNowRead h t) s = .next { s with chip := u } ∧
          (u.host h).cpl = [] ∧ (u.host h).cplStatus = 1 ∧ host u ∧
          u.get (HOST_UR_CNT_COUNT h) = min (s.chip.get (HOST_UR_CNT_COUNT h) + 1) (2 ^ 32 - 1) ∧
          u = { s.chip with regs := u.regs, hosts := u.hosts } ∧ s.chip.SameRegs u [HOST_UR_CNT h]))

/-- With every die in service and no burn in progress, an admissible write of a limited-count register sets BURNING, begins its
burn, keeps the written owner key hash for it and appends an RWL entry with RESULT INTENT, of which every die that keeps the log
stores a copy; a debug lock also closes the port, a re-step ends holdover and makes its domain active. A write during a burn is
refused as BUSY, one without every die as NOT_ALL_DIES, a second program of an owner slot as EXHAUSTED with an entry, each with the
event. The end of a burn other than a revoke gives every die that is not rejected the new fuses, clears BURNING and appends the
entry with RESULT DONE. -/
def Obligations.LimitedCounts : Prop :=
  ∀ (s : State) (v : Word) (t : Nat),
    let x := v.toNat
    let f := s.chip.fuses s.chip.captain
    let entry : Chip → Nat → Nat → List Nat → Prop := fun u ty res det =>
      u.auditNext = s.chip.auditNext + 1 ∧
        (u.audit.getLast?).map (fun a => (a.index, a.type, a.site, a.result, a.detail)) =
          some (s.chip.auditNext, ty, s.chip.captain, res, det) ∧
        ∀ e : Fin 8, s.chip.keepsLog e = true → (u.log e).entries.getLast? = u.audit.getLast?
    let begun : Chip → Nat → Nat → List Nat → Prop := fun u kind arg det =>
      u.get SEC_STATUS_BURNING = 1 ∧ u.sec.burn = some (kind, arg, det) ∧ entry u 1 1 det ∧
        u.sec = { s.chip.sec with
          burn := u.sec.burn, burnHash := s.chip.ownerHash, logs := u.sec.logs }
    let burns : Instr → Nat → Nat → List Nat → Prop := fun i kind arg det =>
      (s.chip.get SEC_STATUS_BURNING = 0 → s.chip.allServing = true →
        ∃ u, exec i s = .next { s with chip := u } ∧ begun u kind arg det ∧
          u = { s.chip with regs := u.regs, sec := u.sec } ∧ s.chip.SameRegs u [SEC_STATUS, SEC_LOG_HEAD]) ∧
      (s.chip.get SEC_STATUS_BURNING = 1 ∨ s.chip.allServing = false →
        ∃ u, exec i s = .next { s with chip := u } ∧
          u.get SEC_RWL_STATUS_CAUSE = (if s.chip.get SEC_STATUS_BURNING = 1 then 3 else 2) ∧
          u.get SEC_EVENTS_RWL_REFUSED = 1 ∧ s.chip.RegsOnly u ∧ s.chip.SameRegs u [SEC_RWL_STATUS, SEC_EVENTS])
    let k := x % 4
    (x / 2 ^ 31 % 2 = 0 → f.owner k = 0 → maskBit f.programmed k = false →
      (∀ o, s.chip.sec.sess = some o → o.2.2.1 = false ∨ o.2.2.2 = s.chip.ownerHash) →
      burns (.ownerKeyProgram v) 0 k (rwlDetail SEC_OWNER_CTRL x 0)) ∧
    (x / 2 ^ 31 % 2 = 0 → maskBit f.programmed k = true →
      ∃ u, exec (.ownerKeyProgram v) s = .next { s with chip := u } ∧
        u.get SEC_RWL_STATUS_CAUSE = 1 ∧ u.get SEC_EVENTS_RWL_REFUSED = 1 ∧ entry u 2 2 (rwlDetail SEC_OWNER_CTRL x 0) ∧
        u = { s.chip with regs := u.regs, due := u.due, sec := u.sec } ∧ u.sec = { s.chip.sec with logs := u.sec.logs } ∧
        s.chip.SameRegs u [SEC_RWL_STATUS, SEC_EVENTS, SEC_LOG_HEAD]) ∧
    (x / 2 ^ 31 % 2 = 1 → f.owner k = 1 → (∃ j : Fin 4, j.val ≠ k ∧ f.owner j = 1) →
      burns (.ownerKeyRevoke v) 1 k (rwlDetail SEC_OWNER_CTRL x 0)) ∧
    (f.lifecycle < 3 → k = f.lifecycle + 1 → (k = 2 → ∃ j : Fin 4, f.owner j = 1) →
      burns (.lifecycleAdvance v) 3 k (rwlDetail SEC_LIFECYCLE x (2 - f.lifecycle))) ∧
    (x % 2 = 1 → f.rollback ≠ s.chip.get IMG_STATUS_SEC_VERSION → f.rollback < 255 →
      burns (.rollbackCommit v) 2 0 (rwlDetail SEC_ROLLBACK x (254 - f.rollback))) ∧
    (x % 2 = 0 → f.hp1Off = false → burns (.hp1Disable v) 5 0 (rwlDetail SEC_HP1 x 0)) ∧
    (x % 256 ≠ 0 → f.disabled ||| x % 256 ≠ f.disabled → (f.disabled ||| x % 256) % 4 ≠ 3 → s.chip.get SEC_STATUS_BURNING = 0 →
      s.chip.inService 0 = true → s.chip.inService 1 = true →
      ∃ u, exec (.dieDisableBurn v) s = .next { s with chip := u } ∧
        begun u 4 (x % 256) (rwlDetail SEC_DIE_DISABLE x (8 - maskCount 8 (f.disabled ||| x % 256))) ∧
        u = { s.chip with regs := u.regs, sec := u.sec } ∧ s.chip.SameRegs u [SEC_STATUS, SEC_LOG_HEAD]) ∧
    (s.chip.get SEC_STATUS_BURNING = 0 → s.chip.allServing = true → s.chip.sec.burn = none →
      (x % 2 = 1 → f.debug = false →
        ∃ u, exec (.debugLock v) s = .next { s with chip := u } ∧
          begun u 6 0 (rwlDetail SEC_DEBUG x 0) ∧ u.get SEC_STATUS_DEBUG_LOCKED = 1 ∧
          u = { s.chip with regs := u.regs, sec := u.sec } ∧ s.chip.SameRegs u [SEC_STATUS, SEC_LOG_HEAD]) ∧
      (∀ th, (s.chip.dom (x % 2)).theta = some th → th < 0 → x / 2 ^ 31 % 2 = 1 → 0 < f.restep →
        (s.chip.get (TIME_DOM_STATUS_STATE (x % 2)) = domTracking ∨ s.chip.get (TIME_DOM_STATUS_STATE (x % 2)) = domAnomaly) →
        ∃ u, exec (.timeRestep v t) s = .next { s with chip := u } ∧
          begun u 7 (x % 2) (rwlDetail TIME_RESTEP x (f.restep - 1)) ∧ u.get TIME_STATUS_ACTIVE = x % 2 ∧
          u.get TIME_STATUS_HOLDOVER = 0 ∧
          u = { s.chip with regs := u.regs, due := u.due, sec := u.sec, time := u.time, moment := t } ∧
          u.time = { s.chip.time with stepAt := u.time.stepAt } ∧
          s.chip.SameRegs u [SEC_STATUS, SEC_LOG_HEAD, TIME_STATUS, TIME_HO_SEC, TIME_EVENTS])) ∧
    (∀ b, s.chip.sec.burn = some b → b.1 ≠ 1 →
      ∃ u, exec (.fuseBurnDone 0) s = .next { s with chip := u } ∧
        u.get SEC_STATUS_BURNING = 0 ∧ u.sec.burn = none ∧ entry u 1 0 b.2.2 ∧
        (∀ e : Fin 8, u.fuses e = (if e.val < s.chip.dieCount ∧ s.chip.get (DIE_STATUS_SERVICE e) ≤ svcSidelined then
          (s.chip.fuses e).burnt b.1 b.2.1 s.chip.sec.burnHash else s.chip.fuses e)) ∧
        u = { s.chip with regs := u.regs, sec := u.sec } ∧
        u.sec = { s.chip.sec with
          fuses := u.sec.fuses, burn := none, burnHash := [], logs := u.sec.logs
          retiring := s.chip.sec.retiring || (b.1 == 3 && b.2.1 == 3) } ∧
        s.chip.SameRegs u [SEC_STATUS, SEC_LOG_HEAD, SEC_OWNER_STATE, SEC_OWNER_LEFT, SEC_DIE_DISABLE, SEC_HP1, SEC_DEBUG,
          SEC_LEFT, TIME_RESTEP_LEFT])

/-- OPEN in PROVISIONED or OWNED, outside a lockout and with good entropy, makes a challenge for its port, its first 160 bytes
in SESS_BUF; in BLANK, RETIRED and a lockout it only sets CAUSE. A PROVE that passes opens the session with keys and ID derived
from the shared value, the sequence floor zero, and a SESSION_OPEN entry; one without a challenge fails authentication. CLOSE
and the idle timeout end the session: keys erased, both held groups discarded, a SESSION_END entry with the reason. A lapse
discards the challenge. A lockout ends. -/
def Obligations.Sessions : Prop :=
  ∀ (s : State) (p : Fin 2),
    let c := s.chip
    let lc := c.get SEC_STATUS_LIFECYCLE
    let shown := [portReg 0 SEC_SESS_STATUS, portReg 1 SEC_SESS_STATUS, HOST_STATUS 0, HOST_STATUS 1]
    let state : Chip → Fin 2 → Nat := fun u h => u.get (onPort h SEC_SESS_STATUS_STATE)
    let last : Chip → Option (Nat × Nat × List Nat) := fun u => u.audit.getLast?.map (fun a => (a.type, a.result, a.detail))
    let ended : Chip → Nat → Prop := fun u reason =>
      u.sec = { c.sec with
        sess := none, ctrlKey := [], volKey := [], held := u.sec.held, logs := u.sec.logs } ∧
      u.heldOf 0 = [] ∧ u.heldOf 1 = [] ∧ last u = some (6, 0, [reason]) ∧ u.get SEC_SESS_ID_ID = 0 ∧
      u.get SEC_EVENTS_SESSION = 1 ∧ (c.sec.lockout = false → c.sec.chal = none → state u 0 = 0 ∧ state u 1 = 0) ∧
      u = { c with regs := u.regs, due := u.due, sec := u.sec } ∧
      c.SameRegs u ([SEC_LOG_HEAD, portReg 0 SEC_AW_STATUS, portReg 1 SEC_AW_STATUS, SEC_SESS_ID, SEC_SESS_ID + 4, SEC_EVENTS]
        ++ shown)
    (lc = 1 ∨ lc = 2 → c.sec.lockout = false → c.get SEC_STATUS_ENTROPY_OK = 1 →
      ∃ u, exec (.sessionOpen p) s = .next { s with chip := u } ∧
        (∃ head x, u.sec = { c.sec with chal := some (p.val, head, x) } ∧ u.areaBytes (fun i => portReg p (SEC_SESS_BUF i)) 160 = head) ∧
        u.freeCnt = c.freeCnt + 3 ∧ (c.sec.sess = none → state u p = 1) ∧
        u = { c with regs := u.regs, sec := u.sec, freeCnt := u.freeCnt } ∧
        (∀ a, (a < portReg p (SEC_SESS_BUF 0) ∨ portReg p (SEC_SESS_BUF 64) ≤ a) → a ∉ shown → u.reg a = c.reg a)) ∧
    (lc = 0 ∨ lc = 3 ∨ c.sec.lockout = true →
      ∃ u, exec (.sessionOpen p) s = .next { s with chip := u } ∧
        u.get (onPort p SEC_SESS_STATUS_CAUSE) = (if lc = 0 then 8 else if lc = 3 then 7 else 6) ∧
        u = { c with regs := u.regs } ∧ c.SameRegs u [portReg p SEC_SESS_STATUS]) ∧
    (∀ head x, c.sec.chal = some (p.val, head, x) → ∀ k first, c.ownerOf c.sessReq = some (k, first) → k < 4 →
      c.proveCause c.sessReq head = 0 →
      let okm := hkdfSha384 (sub head 0 48) (ecdh x (sub c.sessReq 300 97))
        ([66, 85, 82, 84, 65, 78, 45, 83, 69, 83, 83, 73, 79, 78, 45, 49] ++ c.serialBytes) 72
      ∃ u, exec (.sessionProve p) s = .next { s with chip := u } ∧
        u.sec.sess = some (p.val, k, first, sha384 (sub c.sessReq 0 97)) ∧ u.sec.chal = none ∧
        u.sec.ctrlKey = sub okm 0 32 ∧ u.sec.volKey = sub okm 32 32 ∧ u.sec.seqLast = 0 ∧
        u.get SEC_SESS_ID_ID = natLE (sub okm 64 8) % 2 ^ 64 ∧ u.get SEC_SEQ_LAST_SEQ = 0 ∧ u.get VOL_SEQ_LAST_SEQ = 0 ∧
        u.get SEC_FAIL_CNT_CONSEC = 0 ∧ last u = some (5, 0, [p.val, k]) ∧
        (c.sec.lockout = false → state u p = 2) ∧ c.SameMem u ∧ u.vols = c.vols) ∧
    ((∀ ch, c.sec.chal = some ch → ch.1 ≠ p.val) →
      ∃ u, exec (.sessionProve p) s = .next { s with chip := u } ∧
        u.get (onPort p SEC_SESS_STATUS_CAUSE) = 1 ∧ u.get SEC_EVENTS_AUTH_FAIL = 1 ∧
        u.get SEC_FAIL_CNT_TOTAL = min (c.get SEC_FAIL_CNT_TOTAL + 1) (2 ^ 24 - 1) ∧
        (c.get SEC_FAIL_CNT_CONSEC + 1 < max 2 (c.get SEC_SESS_CFG_FAIL_LIMIT) →
          u.get SEC_FAIL_CNT_CONSEC = c.get SEC_FAIL_CNT_CONSEC + 1 ∧ u.sec = c.sec) ∧
        (max 2 (c.get SEC_SESS_CFG_FAIL_LIMIT) ≤ min (c.get SEC_FAIL_CNT_CONSEC + 1) 255 →
          u.sec.lockout = true ∧ u.sec.sess = none ∧ u.sec.chal = none ∧ u.get SEC_FAIL_CNT_CONSEC = 0 ∧
          u.get SEC_EVENTS_LOCKOUT = 1 ∧ last u = some (7, 0, []) ∧ state u 0 = 3 ∧ state u 1 = 3) ∧
        c.SameMem u ∧ u.vols = c.vols) ∧
    (∀ o, c.sec.sess = some o → o.1 = p.val →
      (∃ u, exec (.sessionClose p) s = .next { s with chip := u } ∧ ended u endClose) ∧
      (∃ u, exec .sessionIdleTimeout s = .next { s with chip := u } ∧ ended u endIdle)) ∧
    (∃ u, exec .challengeLapse s = .next { s with chip := u } ∧
      u.sec = { c.sec with chal := none } ∧ u = { c with regs := u.regs, sec := u.sec } ∧ c.SameRegs u shown) ∧
    (∃ u, exec .lockoutEnd s = .next { s with chip := u } ∧
      u.sec = { c.sec with lockout := false } ∧ u = { c with regs := u.regs, sec := u.sec } ∧ c.SameRegs u shown)

/-- A key write waits for the next boundary and is recorded, without the key. An attestation GO sets BUSY; when it is done the
report stands in its area and DONE is set. LOG_SEL shows the entry, or zero with GONE. A die that starts or rejoins and whose
chain is whole takes the entries that it lacks; a torn head is dropped first; a break elsewhere is recorded as LOG_BROKEN of that
die with an F0 fault. An entropy failure clears ENTROPY_OK with an F0 fault. A closed debug port counts every instruction but IDCODE
and BYPASS. -/
def Obligations.KeysAndAudit : Prop :=
  ∀ (s : State) (v : Word) (d : Fin 8) (t : Nat) (hit : Option Nat) (plain : Bool),
    let c := s.chip
    let x := v.toNat
    let last : Chip → Option (Nat × Nat × Nat × List Nat) := fun u =>
      u.audit.getLast?.map (fun a => (a.index, a.type, a.result, a.detail))
    let f0 : Chip → Prop := fun u =>
      u.get FAULT_F0_EVENTS_SECURITY = 1 ∧ u.get (FAULT_CNT_COUNT 0) = min (c.get (FAULT_CNT_COUNT 0) + 1) (2 ^ 32 - 1)
    let faults := [FAULT_F0_EVENTS, FAULT_LOG_STATUS, FAULT_LOG_LOST, FAULT_CNT 0, FAULT_EVENTS]
    let key : Nat → Nat → PtpKey := fun a b => if x / 2 ^ 31 % 2 = 1 then ⟨true, a, b, c.keyBytes⟩ else {}
    let l := match hit with
      | some i => (c.log d).damaged i
      | none => c.log d
    let cap := if c.captain = d.val then l else c.log c.captain
    let others : Chip → Prop := fun u => ∀ e : Fin 8, e ≠ d → u.log e = c.log e
    (∃ u, exec (.ptpKeyWrite v) s = .next { s with chip := u } ∧
      u.sec.keyDue = c.sec.keyDue ++ [(x / 2 ^ 24 % 8, key (x % 256) (x / 2 ^ 16 % 256))] ∧
      last u = some (c.auditNext, 8, 0, [x / 2 ^ 24 % 8, x % 256, x / 2 ^ 16 % 256]) ∧
      u.sec = { c.sec with keyDue := u.sec.keyDue, logs := u.sec.logs } ∧
      u = { c with regs := u.regs, sec := u.sec } ∧ c.SameRegs u [SEC_LOG_HEAD]) ∧
    (∃ u, exec (.telKeyWrite v) s = .next { s with chip := u } ∧
      u.sec.keyDue = c.sec.keyDue ++ [(8, key 0 0)] ∧ last u = some (c.auditNext, 8, 0, [8]) ∧
      u.sec = { c.sec with keyDue := u.sec.keyDue, logs := u.sec.logs } ∧
      u = { c with regs := u.regs, sec := u.sec } ∧ c.SameRegs u [SEC_LOG_HEAD]) ∧
    (x / 2 ^ 31 % 2 = 1 → c.get SEC_ATT_STATUS_BUSY = 0 → c.get SEC_STATUS_ENTROPY_OK = 1 →
      ∃ u, exec (.attestGo v) s = .next { s with chip := u } ∧ u.get SEC_ATT_STATUS_BUSY = 1 ∧
        u = { c with regs := u.regs } ∧ c.SameRegs u [SEC_ATT_STATUS]) ∧
    (c.get SEC_ATT_STATUS_BUSY = 1 →
      ∃ u, exec (.attestDone t) s = .next { s with chip := u } ∧
        u.get SEC_ATT_STATUS_BUSY = 0 ∧ u.get SEC_ATT_STATUS_DONE = 1 ∧ u.areaBytes SEC_ATT_REPORT 208 = (c.at t).attHead ∧
        u = { c with regs := u.regs, freeCnt := c.freeCnt + 1, moment := t } ∧
        (∀ a, (a < SEC_ATT_REPORT 0 ∨ SEC_ATT_REPORT 76 ≤ a) → a ≠ SEC_ATT_STATUS → u.reg a = c.reg a)) ∧
    (∃ u, exec (.logSelect v) s = .next { s with chip := u } ∧ u.get SEC_LOG_SEL_INDEX = x ∧
      (∀ e, c.audit.find? (fun a => a.index == x) = some e → e.detail.length ≤ 32 → e.hash.length = 48 →
        (∀ b ∈ e.bytes, b < 256) →
        u.areaBytes SEC_LOG_ENTRY 112 = e.bytes ∧ u.get SEC_LOG_STATUS_GONE = 0) ∧
      (c.audit.find? (fun a => a.index == x) = none →
        u.areaBytes SEC_LOG_ENTRY 112 = List.replicate 112 0 ∧ u.get SEC_LOG_STATUS_GONE = 1) ∧
      u = { c with regs := u.regs } ∧
      (∀ a, (a < SEC_LOG_ENTRY 0 ∨ SEC_LOG_ENTRY 28 ≤ a) → a ∉ [SEC_LOG_SEL, SEC_LOG_STATUS] → u.reg a = c.reg a)) ∧
    (c.runs d = true → c.started = false ∨ c.rejoining d = true →
      (c.logFail l = none →
        ∃ u, exec (.auditChainCheck d hit) s = .next { s with chip := u } ∧
          u.log d = l.follow cap ∧ others u ∧ u = { c with sec := { c.sec with logs := u.sec.logs } }) ∧
      (∀ i, c.logFail l = some i →
        ((l.entries.getLast?).map (·.index) = some i →
          ∃ u, exec (.auditChainCheck d hit) s = .next { s with chip := u } ∧
            (c.captain = d.val → u.log d = { l with entries := l.entries.dropLast, next := i }) ∧
            (c.captain ≠ d.val → u.log d = { l with entries := l.entries.dropLast, next := i : AuditLog }.follow cap) ∧ others u ∧
            u = { c with regs := u.regs, sec := { c.sec with logs := u.sec.logs } } ∧ c.SameRegs u [SEC_LOG_HEAD]) ∧
        ((l.entries.getLast?).map (·.index) ≠ some i →
          ∃ u, exec (.auditChainCheck d hit) s = .next { s with chip := u } ∧
            last u = some (cap.next, 12, 0, bytesLE 4 i) ∧ (u.audit.getLast?).map (·.site) = some d.val ∧
            u.get SEC_EVENTS_LOG_BROKEN = 1 ∧ f0 u ∧ u.sec = { c.sec with logs := u.sec.logs } ∧
            c.SameRegs u ([SEC_LOG_HEAD, SEC_EVENTS] ++ faults) ∧ c.SameMem u))) ∧
    (∃ u, exec .entropyHealthFail s = .next { s with chip := u } ∧ u.get SEC_STATUS_ENTROPY_OK = 0 ∧ f0 u ∧
      u.sec = c.sec ∧ c.SameMem u ∧ c.SameRegs u (SEC_STATUS :: faults)) ∧
    (c.get SEC_STATUS_DEBUG_LOCKED = 1 → plain = false →
      ∃ u, exec (.debugInstruction plain) s = .next { s with chip := u } ∧
        u.get SEC_DEBUG_DENY_CNT_COUNT = min (c.get SEC_DEBUG_DENY_CNT_COUNT + 1) (2 ^ 32 - 1) ∧
        u = { c with regs := u.regs } ∧ c.SameRegs u [SEC_DEBUG_DENY_CNT]) ∧
    (c.get SEC_STATUS_DEBUG_LOCKED = 0 ∨ plain = true → exec (.debugInstruction plain) s = .next s)

/-- RESET_N low puts every die in reset: slots, ports, library and records are gone, every register but identity and fuse
settings reads its reset value, while fuses, audit log, flash contents and supplies stay. Its release ends the reset of every
die whose rails are up. A rail below its threshold puts its die in reset: its slots, ports, library entries and parts of volleys are
gone; of the other dies only the crossings to it change, which its neighbours show in reset. The last rail back ends that reset
while RESET_N is high. -/
def Obligations.ResetAndRails : Prop :=
  ∀ (s : State) (d : Fin 8) (r : Fin 6) (sl : Fin 2560) (p : Fin 16) (q : Fin 1024),
    let c := s.chip
    let identity := [PKG_ID, IMG_PIN, SEC_STATUS, SEC_OWNER_STATE, SEC_OWNER_LEFT, SEC_DIE_DISABLE, SEC_HP1, SEC_DEBUG, SEC_LEFT,
      TIME_RESTEP_LEFT, SEC_PTP_KEY_STATUS, SEC_TEL_KEY_CTRL, SEC_LOG_HEAD]
    let low := (c.die d).railsLow
    let xing : List Nat → List Nat := fun l => l.flatMap (fun k => [CLK_XING_STATUS k, CLK_EVENTS k])
    (∃ u, exec .resetNAssert s = .next { s with chip := u } ∧
      u.resetLow = true ∧ u.started = false ∧ u.dieCount = c.dieCount ∧ u.slots = [] ∧ u.ports = [] ∧ u.lib = [] ∧
      u.vols = [] ∧ u.faultLog = [] ∧ u.staged = [] ∧ u.shadow = [] ∧ u.time = {} ∧ u.fault = {} ∧ u.commit = {} ∧ u.sched = {} ∧
      u.get PKG_ID_DIES = c.dieCount % 16 ∧ u.image.flash = c.image.flash ∧
      u.image.pin = (if (c.ret 0).headerBad = true ∧ (c.ret 1).headerBad = true then 0 else c.image.pin) ∧
      u.sec.fuses = c.sec.fuses ∧ u.sec.logs = c.sec.logs ∧ u.sec.sess = none ∧ u.sec.ctrlKey = [] ∧
      (u.die d).railsLow = low ∧ (u.die d).inReset = true ∧ (∀ a, a ∉ identity → u.reg a = resetOf a)) ∧
    (c.resetLow = true → d.val < c.dieCount →
      ∃ u, exec .resetNRelease s = .next { s with chip := u } ∧
        u.resetLow = false ∧ u.die d = { c.die d with inReset := decide (low ≠ 0) } ∧
        u = { c with dies := u.dies, resetLow := false, regs := u.regs, due := u.due } ∧ c.SameRegs u (xing c.dieList)) ∧
    (d.val < c.dieCount → (c.die d).inReset = false →
      ∃ u, exec (.railBelowReset d r) s = .next { s with chip := u } ∧
        u.die d = { railsLow := maskSet low r, sidelineDue := (c.die d).sidelineDue } ∧
        (∀ e : Fin 8, e ≠ d → u.die e = c.die e) ∧ u.slot d sl = {} ∧ u.port d p = {} ∧
        u.libRaw (entKey d sl q) = libBlank (entKey d sl q) ∧
        (∀ e : Fin 8, e ≠ d → u.slot e sl = c.slot e sl ∧ u.port e p = c.port e p ∧
          u.libRaw (entKey e sl q) = c.libRaw (entKey e sl q)) ∧
        (sl.val < 2048 → c.isProt d (sl.val / 256) = false → u.get (CH_CTRL_EN d sl) = 0) ∧
        u.get (DIE_STATUS_SERVICE d) = c.get (DIE_STATUS_SERVICE d) ∧
        c.SameOutside u d (xing ((c.neighbours d).map (·.1)) ++ (List.range 64).map VOL_Q_ARM) ∧
        (∀ x ∈ c.neighbours d, c.runs x.1 = true → x.1 ≠ d.val → u.get ⟨CLK_XING_STATUS x.1, x.2, 1⟩ = 1) ∧ u.image = c.image ∧ u.sec = c.sec ∧
        (∀ k : Fin 64, u.vol k = { c.vol k with
          got := maskClear (c.vol k).got d, go := maskClear (c.vol k).go d, abort := maskClear (c.vol k).abort d
          left := (u.vol k).left }) ∧ u.volStage = c.volStage) ∧
    (d.val < c.dieCount →
      ∃ u, exec (.railAboveReset d r) s = .next { s with chip := u } ∧
        u.die d = { c.die d with
          railsLow := maskClear low r
          inReset := (c.die d).inReset && (c.resetLow || maskClear low r != 0) } ∧
        (∀ e : Fin 8, e ≠ d → u.die e = c.die e) ∧ u = { c with dies := u.dies, regs := u.regs, due := u.due } ∧
        c.SameRegs u (xing (d.val :: (c.neighbours d).map (·.1))))

/-- Once its XO is judged, a die sends its roll message, signed with its identity key; a die keeps the message of a site that has
sent one. The die that ends
its negotiation as captain settles the roles: each die absent, rejected or starting as its message says, POPULATED those heard,
the captain at site 0, else 1, the vice-captain at site 1 beside a captain at 0. A die that hears no captain settles them
without one when neither site 0 nor site 1 may still end (log 30). Levelling rejects a starting die whose fuses fail their ECC, with
an F0 fault, and one that cannot be burned forward, and brings every other to the most advanced fuses of all, recorded for each die
that changes. -/
def Obligations.Negotiation : Prop :=
  ∀ (s : State) (d e : Fin 8) (ok : Bool) (key : Option Nat) (found : FuseCheck),
    let c := s.chip
    let only : Chip → Prop := fun u => u = { c with dies := u.dies } ∧ ∀ k : Fin 8, k ≠ d → u.die k = c.die k
    (d.val < c.dieCount → (c.die d).inReset = false → (c.die d).negStarted = false →
      (c.get (CLK_STATUS_JUDGE d) = judgeStable ∨ c.get (CLK_STATUS_JUDGE d) = Sys2Proof.Machine.judgeTimeout) →
      let r : Roll := { selfTestOk := ok, lifecycle := (c.fuses d).lifecycle, key := key }
      let v := ecdsaSign (key.getD (Config.identityKey d)) (c.free % p384N) (sha384 (r.bytes d))
      ∃ u, exec (.negotiationStart d ok key) s = .next { s with chip := u } ∧
        (u.die d).negStarted = true ∧ (u.die d).rollOf d = some { r with sig := bytesLE 48 v.1 ++ bytesLE 48 v.2 } ∧
        (∀ k : Fin 8, k ≠ d → (u.die d).rollOf k = (c.die d).rollOf k) ∧
        u = { c with dies := u.dies, freeCnt := c.freeCnt + 1 } ∧ ∀ k : Fin 8, k ≠ d → u.die k = c.die k) ∧
    (d.val < c.dieCount → e.val < c.dieCount → (c.die d).inReset = false → (c.die d).negDone = false →
      (c.die e).negStarted = true →
      ∃ u, exec (.rollMessage d e) s = .next { s with chip := u } ∧
        (u.die d).rollOf e = (c.die e).rollOf e ∧
        u.die d = { c.die d with rolls := (u.die d).rolls } ∧ (∀ k : Fin 8, k ≠ e → (u.die d).rollOf k = (c.die d).rollOf k) ∧ only u) ∧
    (d.val < c.dieCount → (c.die d).negStarted = true → (c.die d).negDone = false →
      (c.hasCaptain = true ∨ (∃ k : Fin 8, (c.rolesSeen d).1 = some k.val ∧ k ≠ d) →
        ∃ u, exec (.negotiationEnd d) s = .next { s with chip := u } ∧ u.die d = { c.die d with negDone := true } ∧ only u) ∧
      ((c.rolesSeen d).1 = none → c.get PKG_ROLE_NEG_DONE = 0 → c.dieCount ≤ 8 → (d.val = 0 ∨ c.negOpen 0 = false) →
        (d.val = 1 ∨ c.negOpen 1 = false) →
        ∃ u, exec (.negotiationEnd d) s = .next { s with chip := u } ∧
          (u.die d).negDone = true ∧ u.get PKG_ROLE_NEG_DONE = 1 ∧
          (e.val < c.dieCount → u.get (DIE_STATUS_SERVICE e) = c.verdict d e) ∧
          c.SameMem u ∧ u.slots = c.slots ∧ u.ports = c.ports ∧ u.vols = c.vols) ∧
      (c.hasCaptain = false → (c.rolesSeen d).1 = some d.val → c.dieCount ≤ 8 →
        ∃ u, exec (.negotiationEnd d) s = .next { s with chip := u } ∧
          (u.die d).negDone = true ∧ u.get PKG_ROLE_NEG_DONE = 1 ∧ u.get PKG_ROLE_CAPTAIN = d.val ∧
          u.get PKG_ROLE_VICE_VALID = (if d.val = 0 ∧ c.verdict d 1 = svcStarting then 1 else 0) ∧
          (e.val < c.dieCount → u.get (DIE_STATUS_SERVICE e) = c.verdict d e ∧
            maskBit (u.get PKG_DIES_POPULATED) e = ((c.die d).rollOf e).isSome ∧
            maskBit (u.get PKG_DIES_REJECTED) e = (c.verdict d e == svcRejected) ∧
            u.get (DIE_STATUS_ROLE e) = (if e = d then 1 else if d.val = 0 ∧ e.val = 1 ∧ c.verdict d 1 = svcStarting then 2 else 0)) ∧
          c.SameMem u ∧ u.slots = c.slots ∧ u.ports = c.ports ∧ u.vols = c.vols)) ∧
    (c.hasCaptain = true → c.started = false → c.get IMG_STATUS_STATE = 0 → c.image.slot = none →
      let bad := found.bad.toNat
      let behind := found.behind.toNat
      let ds := c.dieList.filter (fun k => c.service k == svcStarting && !maskBit bad k)
      c.service c.captain = svcStarting → c.captain < c.dieCount → maskBit bad c.captain = false →
      maskBit behind c.captain = false → (c.levelOf ds).lifecycle ≠ 3 →
      ∃ u, exec (.fuseLevelling found) s = .next { s with chip := u } ∧
        (e.val < c.dieCount →
          u.fuses e = (if c.service e = svcStarting ∧ maskBit bad e = false ∧ maskBit behind e = false then c.levelOf ds else c.fuses e) ∧
          u.get (DIE_STATUS_SERVICE e) =
            (if c.service e = svcStarting ∧ (maskBit bad e = true ∨ maskBit behind e = true ∧ c.fuses e ≠ c.levelOf ds) then svcRejected
              else c.service e) ∧
          (c.service e = svcStarting → maskBit bad e = true → u.get FAULT_F0_EVENTS_SECURITY = 1 ∧
            ∃ a ∈ u.audit, a.type = 10 ∧ a.site = e.val) ∧
          (c.service e = svcStarting → maskBit bad e = false → maskBit behind e = false → c.fuses e ≠ c.levelOf ds →
            ∃ a ∈ u.audit, a.type = 9 ∧ a.site = e.val)) ∧
        u.get SEC_STATUS_LIFECYCLE = (if c.sec.retiring then 2 else (c.levelOf ds).lifecycle % 4) ∧
        c.SameMem u ∧ u.slots = c.slots ∧ u.ports = c.ports ∧ u.vols = c.vols)

/-- Without a pin the newer of two good slots is loaded, slot A on a tie, or the only good one; with none there is no image. While
the captain holds the lease of the port, a good block is followed by the next; the last one, with key and signature right, begins
the content check, and with one of them wrong the slot is refused with CAUSE 3 or 7, which is recorded; a bad block is read again
three times, then the slot is refused with CAUSE 5. After a refusal the other candidate is loaded, or none. A flash operation begins
when none is in progress, or is refused as BAD_ADDR, IN_USE or BAD_CRC; done, a read fills the buffer, an erase leaves 64 KiB of
0xFF, a program writes the block. -/
def Obligations.ImageAndFlash : Prop :=
  ∀ (s : State) (v : Word) (present : BitVec 2) (ok : Bool) (sa sb : Nat),
    let c := s.chip
    let here := { c with image := { c.image with
      present := present.toNat, cands := 0, sizes := (min sa 65536, min sb 65536) } }
    let good : Nat → Bool := fun j => here.slotReach j && here.headerCause j == 0
    let pick : Option Nat := if good 0 && good 1 then some (if c.imgVersion 0 < c.imgVersion 1 then 1 else 0)
      else if good 0 then some 0 else if good 1 then some 1 else none
    let rest : Chip → Prop := fun u =>
      c.SameMem u ∧ u.slots = c.slots ∧ u.ports = c.ports ∧ u.vols = c.vols ∧ u.dies = c.dies ∧ u.hosts = c.hosts
    let life := c.lifecycle
    let refuse : Chip → Fin 2 → Nat → Prop := fun u j cause =>
      let o := 1 - j.val
      let more := maskBit c.image.cands o && !maskBit c.image.tried o
      u.get IMG_STATUS_CAUSE = cause ∧ u.get IMG_FAIL_VALID = 1 ∧ u.get IMG_FAIL_SLOT = j ∧ u.get IMG_EVENTS_REFUSED = 1 ∧
        u.image.slot = (if more then some o else none) ∧ u.get IMG_STATUS_STATE = (if more then imgLoading else imgNone) ∧
        (more = true → u.get IMG_STATUS_FALLBACK = 1 ∧ u.get IMG_EVENTS_FALLBACK = 1) ∧
        (more = false → u.get IMG_EVENTS_NO_IMAGE = 1) ∧ rest u
    (c.hasCaptain = true → c.started = false → c.get IMG_STATUS_STATE = imgHeaders → c.image.slot = none → c.image.tried = 0 →
      c.image.pin = 0 → (life = 1 ∨ life = 2) →
      ∃ u, exec (.flashDiscovery ⟨present, sa, sb⟩) s = .next { s with chip := u } ∧
        u.image.slot = pick ∧ u.get IMG_STATUS_STATE = (if pick = none then imgNone else imgLoading) ∧
        u.get IMG_SLOTS_A_STATE = (if good 0 then 1 else if here.slotReach 0 then 3 else 0) ∧
        u.get IMG_SLOTS_B_STATE = (if good 1 then 1 else if here.slotReach 1 then 3 else 0) ∧
        (∀ j, pick = some j → maskBit u.image.tried j = true ∧ u.image.block = 0 ∧ u.image.tries = 0) ∧
        (pick = none → u.get IMG_EVENTS_NO_IMAGE = 1) ∧ rest u) ∧
    (∀ j : Fin 2, c.hasCaptain = true → c.get IMG_STATUS_STATE = imgLoading → c.image.slot = some j.val →
      c.imgBlocks j ≤ c.slotBlocks j → c.flashHeld j = true →
      let b := c.image.block
      (ok = true → c.blockCrcOk j b = true →
        (b + 1 < c.imgBlocks j →
          ∃ u, exec (.imageBlock ok) s = .next { s with chip := u } ∧
            u = { c with image := { c.image with block := b + 1, tries := 0 } }) ∧
        (c.imgBlocks j ≤ b + 1 → c.imgKeyOk j = false ∨ c.imgSigned j = false →
          ∃ u, exec (.imageBlock ok) s = .next { s with chip := u } ∧ refuse u j (if c.imgKeyOk j = false then 3 else 7) ∧
            u.get SEC_EVENTS_IMAGE_REFUSED = 1 ∧ (u.audit.getLast?).map (fun a => (a.type, a.result, a.detail)) =
              some (4, 2, j.val :: (if c.imgKeyOk j = false then 3 else 7) :: (c.imgDigest j).take 32)) ∧
        (c.imgBlocks j ≤ b + 1 → c.imgKeyOk j = true → c.imgSigned j = true →
          ∃ u, exec (.imageBlock ok) s = .next { s with chip := u } ∧
            u.get IMG_STATUS_STATE = imgChecking ∧ u.image.digest = c.imgDigest j ∧ u.image.checked = 0 ∧ rest u ∧
            c.SameRegs u [IMG_STATUS])) ∧
      (ok = false → c.image.tries < 3 →
        ∃ u, exec (.imageBlock ok) s = .next { s with chip := u } ∧
          u = { c with image := { c.image with tries := c.image.tries + 1 } }) ∧
      (ok = false → 3 ≤ c.image.tries →
        ∃ u, exec (.imageBlock ok) s = .next { s with chip := u } ∧ refuse u j 5)) ∧
    (v.toNat / 2 ^ 31 = 1 → c.get IMG_FL_STATUS_BUSY = 0 →
      let op := v.toNat % 4
      let j := v.toNat / 2 ^ 8 % 2
      let b := c.get IMG_FL_ADDR_BLOCK
      let bad := (op = 1 ∧ b % 16 ≠ 0) ∨ c.slotBlocks j ≤ b
      let used := op ≠ 0 ∧ c.slotInUse j = true
      let crc := op = 2 ∧ crc32c (c.flBuf.take 4092) ≠ natLE (c.flBuf.drop 4092)
      let starts : Instr → Prop := fun i =>
        (¬ bad → ¬ used → ¬ crc →
          ∃ u, exec i s = .next { s with chip := u } ∧ u.get IMG_FL_STATUS_BUSY = 1 ∧ u.image.op = some (op, j, b) ∧ rest u ∧
            c.SameRegs u [IMG_FL_CTRL, IMG_FL_STATUS]) ∧
        (bad ∨ used ∨ crc →
          ∃ u, exec i s = .next { s with chip := u } ∧ u.get IMG_FL_STATUS_BUSY = 0 ∧ u.get IMG_FL_STATUS_DONE = 1 ∧
            u.get IMG_FL_STATUS_RESULT = (if bad then flBadAddr else if used then flInUse else flBadCrc) ∧
            u.get IMG_EVENTS_FL_DONE = 1 ∧ u.image.op = none ∧ rest u)
      (op = 0 → starts (.flashRead v)) ∧ (op = 1 → starts (.flashErase v)) ∧ (op = 2 → starts (.flashProgram v))) ∧
    (c.hasCaptain = true → ∀ op j b, c.image.op = some (op, j, b) → op < 3 → j < 2 → b < 2 ^ 16 → c.flashHeld j = true →
      ∃ u, exec (.flashOpDone 0) s = .next { s with chip := u } ∧
        u.get IMG_FL_STATUS_BUSY = 0 ∧ u.get IMG_FL_STATUS_DONE = 1 ∧ u.get IMG_FL_STATUS_RESULT = flOk ∧
        u.get IMG_EVENTS_FL_DONE = 1 ∧ u.image.op = none ∧
        (∀ i : Fin 4096, op = 0 → u.flBuf.getD i 0 = c.flashByte j (b * 4096 + i) % 256) ∧
        (∀ i : Fin 65536, op = 1 → u.flashByte j (b * 4096 + i) = 255) ∧
        (∀ i : Fin 4096, op = 2 → u.flashByte j (b * 4096 + i) = c.flBuf.getD i 0) ∧
        u.lib = c.lib ∧ u.slots = c.slots ∧ u.ports = c.ports ∧ u.vols = c.vols ∧ u.dies = c.dies)

/-- With none named, the snapshot period, SNAP_NOW, or RESTART after S0 names a snapshot at the first boundary at least 20 us
later with the next sequence number; RESTART before S0 restarts the package at once. At the tick before that boundary every
in-service die captures its active channels, package time, tick and frequencies, and begins a write. A write that ends well
fills the slot after the last, one that fails leaves that slot torn and sets WRITE_FAIL. FORGET blanks every store. A supply
warning writes each running die's older emergency slot. -/
def Obligations.Snapshots : Prop :=
  ∀ (s : State) (d : Fin 8) (v : Word) (t : Nat) (fail : Bool),
    let c := s.chip
    let named : SnapRec := { at_ := some (c.tick + ceilDiv (t + 20000) c.tickNs, c.snap.seq + 1), seq := c.snap.seq + 1 }
    let chansOf : Nat → List (Nat × Nat × Nat × Int) := fun k =>
      (c.activeSlots k).map (fun sl => (c.chanOf k sl, c.get (CH_STATE_CURRENT k sl), (c.slot k sl).st, (c.slot k sl).integ))
    let frame : Chip → Prop := fun u =>
      c.SameMem u ∧ u.slots = c.slots ∧ u.ports = c.ports ∧ u.vols = c.vols ∧ u.dies = c.dies ∧ u.sec = c.sec ∧ u.time = c.time
    (c.started = true → c.snap.at_ = none →
      (c.get RET_CFG_EN = 1 →
        exec (.snapshotPeriod t) s = .next { s with chip := { c with moment := t, snap := named } }) ∧
      (v.toNat % 4 = 1 → exec (.snapNow v t) s = .next { s with chip := { c with moment := t, snap := named } }) ∧
      (v.toNat / 2 ^ 31 = 1 →
        exec (.imgRestart v t) s = .next { s with chip := { c with
          moment := t
          snap := named
          image := { c.image with restart := true } } })) ∧
    (c.started = false → v.toNat / 2 ^ 31 = 1 →
      ∃ u, exec (.imgRestart v t) s = .next { s with chip := u } ∧
        u.resetLow = false ∧ u.started = false ∧ u.slots = [] ∧ u.ports = [] ∧ u.lib = [] ∧ u.vols = [] ∧ u.faultLog = [] ∧
        u.get PKG_ROLE_NEG_DONE = 0 ∧ u.get IMG_STATUS_STATE = 0 ∧ u.image.flash = c.image.flash ∧ u.image.pin = c.image.pin ∧
        u.sec.fuses = c.sec.fuses ∧ u.sec.logs = c.sec.logs ∧ u.sec.sess = none ∧ u.dieCount = c.dieCount ∧
        (d.val < c.dieCount → (u.die d).inReset = decide ((c.die d).railsLow ≠ 0) ∧ (u.die d).negStarted = false) ∧
        (u.ret d).slots = (c.ret d).tear.slots ∧ (u.ret d).trims = (c.ret d).trims ∧ (u.ret d).emerg = (c.ret d).emerg) ∧
    (∀ n q, c.snap.at_ = some (n, q) → n = c.tick + 1 →
      ∃ u, exec .snapshotCapture s = .next { s with chip := u } ∧
        u.snap = { seq := c.snap.seq } ∧
        (c.inService d = true → ∃ x, (u.ret d).writing = some x ∧ x.seq = q ∧ x.ok = true ∧ x.tick = n ∧
          x.time = c.time.now + c.tickNs ∧ x.d = c.time.d ∧ x.fA = (c.dom 0).fEst ∧ x.fB = (c.dom 1).fEst ∧ x.chans = chansOf d ∧
          x.cover = (c.reg (DIE_COVER d)).toNat) ∧
        (c.inService d = true → u.get RET_STATUS_WRITING = 1 ∧ (u.ret d).trims = (c.ret d).trims) ∧
        (c.inService d = false → u.ret d = c.ret d) ∧ frame u) ∧
    (∀ x, (c.ret d).writing = some x → c.image.restart = false →
      let k := ((c.ret d).last + 1) % 64
      ∃ u, exec (.snapshotWriteDone d fail) s = .next { s with chip := u } ∧
        (u.ret d).writing = none ∧ (u.ret d).last = (if fail then (c.ret d).last else k) ∧
        tabGet (fun _ => {}) (u.ret d).slots k = (if fail then { torn := true } else x) ∧
        (∀ j, j ≠ k → tabGet (fun _ => {}) (u.ret d).slots j = tabGet (fun _ => {}) (c.ret d).slots j) ∧
        (fail = true → u.get RET_EVENTS_WRITE_FAIL = 1) ∧
        u.get RET_SEQ_SEQ = (if fail = false ∧ d.val = c.captain then x.seq % 2 ^ 32 else c.get RET_SEQ_SEQ) ∧
        (∀ e : Fin 8, e ≠ d → u.ret e = c.ret e) ∧ frame u) ∧
    (v.toNat % 4 = 2 →
      ∃ u, exec (.retForget v t) s = .next { s with chip := u } ∧
        (d.val < c.dieCount → u.ret d = { c.ret d with
          slots := [], emerg := [{}, {}], trims := [], gen := 1, writing := none, forgotten := true }) ∧
        u.get RET_STATUS_WRITING = 0 ∧ u.get RET_TRIM_COUNT = 0 ∧ c.SameRegs u [RET_STATUS, RET_TRIM] ∧ frame u) ∧
    (c.resetLow = false →
      let a := (c.ret d).emerg.getD 0 {}
      let b := (c.ret d).emerg.getD 1 {}
      ∃ u, exec .supplyWarning s = .next { s with chip := u } ∧
        u.get RET_EVENTS_SUPPLY_WARN = 1 ∧ (c.started = false → u.rets = c.rets) ∧
        (c.started = true → u.get RET_EVENTS_EMERGENCY = 1 ∧
          (c.runs d = true → ∃ x, (u.ret d).emerg = (if a.seq ≤ b.seq then [x, b] else [a, x]) ∧ x.ok = true ∧
            x.seq = max a.seq b.seq + 1 ∧ x.tick = c.tick ∧ x.time = c.time.now ∧
            x.chans = (chansOf d).map (fun r => (r.1, r.2.1, 0, 0)) ∧ (u.ret d).writing = none) ∧
          (c.runs d = false → u.ret d = c.ret d)) ∧ frame u)

/-- When every die that takes part is in service and `LOCKED`, or sidelined, S0 comes: package time resumes one tick after the
used snapshot's, or at TICK_ORIGIN, on the grid; enabled domains listen and the captain holds the servo lease. The restore takes
D, the estimates and the channels' states of a matching snapshot (D within its limit, and not in a core in HOLDOVER) and reports
SOURCE, CAUSE, the sequence number and the torn slots; else time stays. At boundary A every enabled slot of the EFE that is not
active and whose TARGET entry reads without error starts at TARGET, with its restored integrator if it has one, and no other
slot changes; a port still in SYNC or CAPS 50 ms after S0 is an F2 fault, once. -/
def Obligations.EntryAndRestore : Prop :=
  ∀ (s : State) (d p : Fin 8) (sl : Fin 2048) (p' : Fin 16) (x' : Fin 2),
    let c := s.chip
    let origin := c.get PKG_ORIGIN_SEC_SEC * 1000000000 + c.get PKG_ORIGIN_NS_NS
    (c.resetLow = false → c.hasCaptain = true → c.get IMG_STATUS_STATE = imgLoaded → c.started = false →
      c.inService c.captain = true → c.dieCount ≤ 8 →
      (∀ e : Fin 8, e.val < c.dieCount → (c.get (DIE_STATUS_SERVICE e) = svcIn ∧ c.syn e = synLocked) ∨
        c.get (DIE_STATUS_SERVICE e) ∈ [svcSidelined, svcRejected, svcAbsent]) →
      ∃ u n, exec .enterService s = .next { s with chip := u } ∧
        u.started = true ∧ u.moment = 0 ∧ u.get PKG_TICK_NUM_TICK = n % 2 ^ 64 ∧ u.time.now = origin + n * c.tickNs ∧
        (c.usedSnap = none → n = 0) ∧
        (∀ x, c.usedSnap = some x → n = ceilDiv (max origin (x.time + c.tickNs) - origin) c.tickNs) ∧
        u.sched.from_ = n + c.ticksOf 20000 ∧
        u.get (TIME_DOM_STATUS_STATE x') = (if c.get (TIME_DOM_CFG_EN x') = 1 then domListen else domOff) ∧
        u.get TIME_STATUS_SERVO = c.captain ∧
        (∀ k ∈ captainLeases, (u.fault.leases.getD k {}).held = true ∧ (u.fault.leases.getD k {}).holder = c.captain) ∧ u.slots = c.slots ∧ u.vols = c.vols ∧ u.rets = c.rets ∧ c.SameMem u) ∧
    (c.started = true → c.image.restored = false →
      let used := c.usedSnap
      let chan := d.val * 2048 + sl.val
      let torn := (c.loadDies.map (fun e => ((c.ret e).slots.filter (fun x => x.2.torn)).length)).sum
      ∃ u, exec .retainedRestore s = .next { s with chip := u } ∧
        u.image.restored = true ∧
        u.get RET_STATUS_SOURCE = (match c.bestPeriodic, c.usedEmerg with
          | some _, none => 1 | some _, some _ => 2 | none, some _ => 3 | none, none => 0) ∧
        (used = none → u.get RET_STATUS_CAUSE = (if c.dieList.any (fun e => (c.ret e).forgotten) then 4 else 2)) ∧
        (∀ x, used = some x →
          (c.get RET_CFG_RESTORE = 0 → u.get RET_STATUS_CAUSE = 1) ∧
          (c.get RET_CFG_RESTORE = 1 → x.digest ≠ c.image.booted → u.get RET_STATUS_CAUSE = 3) ∧
          (c.get RET_CFG_RESTORE = 1 → x.digest = c.image.booted →
            u.get RET_STATUS_CAUSE = 0 ∧ u.time.d = x.d ∧ (u.dom 0).fEst = x.fA ∧ (u.dom 1).fEst = x.fB ∧
            (c.inService d = true → u.getI (SYN_DISC_D d) =
              (if c.syn d = synHoldover then c.getI (SYN_DISC_D d) else clampInt (-discMax) discMax x.d)) ∧
            (∀ r, (match c.usedEmerg with
                | some _ => recordOf c.emergencies (·.tick) chan
                | none => recordOf c.periodics (·.seq) chan) = some r →
              u.get (CH_STATE_TARGET d sl) = r.1 % 2 ^ 10))) ∧
        ((∀ x, used = some x → c.get RET_CFG_RESTORE = 0 ∨ x.digest ≠ c.image.booted) →
          u.time = c.time ∧ u.lib = c.lib ∧ u.get (CH_STATE_TARGET d sl) = c.get (CH_STATE_TARGET d sl)) ∧
        u.get RET_TRIM_COUNT = (c.ret c.captain).trims.length % 2 ^ (RET_TRIM_COUNT).w ∧
        u.get RET_RESTORED_SEQ_SEQ = ((c.bestPeriodic.map (·.seq)).getD 0) % 2 ^ 32 ∧
        u.get RET_TORN_CNT_COUNT = (if torn = 0 then c.get RET_TORN_CNT_COUNT
          else min (c.get RET_TORN_CNT_COUNT + torn) (2 ^ (RET_TORN_CNT_COUNT).w - 1)) ∧
        u.get RET_EVENTS_TORN = (if torn = 0 then c.get RET_EVENTS_TORN else 1) ∧
        u.slots = c.slots ∧ u.ports = c.ports ∧ u.vols = c.vols) ∧
    (c.inService d = true → (c.port d p).firstA = some (c.tick + 1) →
      let key := entKey d sl (c.get (CH_STATE_TARGET d sl))
      ∀ e, sl.val / 256 = p.val → c.get (CH_CTRL_EN d sl) = 1 → (c.slot d sl).active = false →
        c.isPoison key = false → secded (c.libRaw key) = some (e, false) →
        let lim := c.ilim d sl
        let start := match (c.ret d).back.find? (fun b => b.1 == sl.val) with
          | none => 0
          | some b => b.2.2
        ∃ u, exec (.startStateChange d p) s = .next { s with chip := u } ∧
          (u.slot d sl).active = true ∧ (u.slot d sl).entry = e ∧ (u.slot d sl).stepAt = some (c.tick + 1) ∧
          (u.slot d sl).integ = clampInt (-lim) lim start ∧
          u.get (CH_STATE_CURRENT d sl) = c.get (CH_STATE_TARGET d sl) ∧
          u.get (CH_STATE_TARGET d sl) = c.get (CH_STATE_TARGET d sl) ∧
          (∀ k : Fin 2560, k.val / 256 ≠ p.val ∨ c.get (CH_CTRL_EN d k) = 0 ∨ (c.slot d k).active = true → u.slot d k = c.slot d k) ∧
          u.ports = c.ports ∧ u.vols = c.vols) ∧
    (c.started = true → c.inService d = true →
      let st := c.get (ELINK_STATUS_STATE d p')
      ((st = elSync ∨ st = elCaps) → (c.port d p').lateStart = false → c.faultLog.length < 512 →
        ∃ u, exec (.startPortTimeout d p') s = .next { s with chip := u } ∧
          (u.port d p').lateStart = true ∧
          u.faultLog = c.faultLog ++ [(c.tick % 2 ^ 32, 0x23, d.val * 256 + p'.val)] ∧
          u.get (FAULT_CNT_COUNT 2) = min (c.get (FAULT_CNT_COUNT 2) + 1) (2 ^ 32 - 1) ∧
          u = { c with regs := u.regs, due := u.due, faultLog := u.faultLog, ports := u.ports } ∧
          (∀ k, k ≠ d.val * 16 + p'.val → tabGet (fun _ => {}) u.ports k = tabGet (fun _ => {}) c.ports k)) ∧
      (st = elActive ∨ st = elWarm ∨ st = elFailed ∨ st = elOff ∨ (c.port d p').lateStart = true →
        exec (.startPortTimeout d p') s = .next s))

/-- The link of an available port comes up with its speed and lanes. PERST, a link-down and a function level reset each end that
port's session, held group, host group, 64-bit halves, base addresses, MSI-X table and pending bits, clear the command register,
masks, MSI-X enable and the other registers of configuration space that are not sticky, count the discarded TLPs, set PORT_RESET
and put the port's crossing in reset until the link is up or the FLR completes; the first two take the link down and count a
reset, PERST alone clears the sticky registers, and an FLR keeps the link. The other port keeps its own. D3hot and D0 set and
clear D3HOT. PERST while RESET_N is low is only remembered. -/
def Obligations.HostLinksAndResets : Prop :=
  ∀ (s : State) (p : Fin 2) (speed : Fin 4) (lanes : Fin 3) (tlps : Nat),
    let c := s.chip
    let h := c.host p
    let frame : Chip → Prop := fun u =>
      c.SameMem u ∧ u.slots = c.slots ∧ u.ports = c.ports ∧ u.vols = c.vols ∧ u.dies = c.dies ∧ u.sec.fuses = c.sec.fuses ∧
        u.time = c.time ∧ u.commit = c.commit ∧ (∀ q : Fin 2, q ≠ p → u.host q = c.host q)
    let gone : Chip → Prop := fun u =>
      (c.holdsSession p = true → u.sec.sess = none ∧ u.sec.ctrlKey = []) ∧
        (c.holdsSession p = false → u.sec.sess = c.sec.sess ∧ u.sec.ctrlKey = c.sec.ctrlKey) ∧
        u.heldOf p = [] ∧ (c.groupOpen p = true → u.groupOpen p = false ∧ (u.host p).group = [] ∧ u.get HOST_EVENTS_GROUP_LOST = 1) ∧
        (u.host p).low = [] ∧ (u.host p).high = [] ∧ (u.host p).bars = [] ∧ (u.host p).msix = [] ∧ (u.host p).pba = [] ∧
        (u.host p).d3 = false ∧ (u.host p).ecrcCheck = false ∧ (u.host p).ecrcGen = false ∧ (u.host p).cmd = 0 ∧
        (c.runs p = true → u.get ⟨CLK_XING_STATUS p, 0, 1⟩ = 1) ∧
        u.get (HOST_STATUS_BME p) = 0 ∧ u.get (HOST_STATUS_FN_MASK p) = 0 ∧ u.get (HOST_STATUS_MSIX_EN p) = 0 ∧
        u.get (HOST_STATUS_D3HOT p) = 0 ∧ u.reg (portReg p HOST_VIEW) = 0 ∧ u.get HOST_EVENTS_PORT_RESET = 1 ∧
        u.get (HOST_DISCARD_CNT_COUNT p) = min (c.get (HOST_DISCARD_CNT_COUNT p) + tlps) (2 ^ 32 - 1) ∧ frame u
    let kept : Chip → Prop := fun u =>
      (u.host p).aer = h.aer ∧ (u.host p).aerFirst = h.aerFirst ∧
        (u.host p).cfg = h.cfg.filter (fun x => cfgSticky.contains x.1)
    let down : Chip → Prop := fun u =>
      gone u ∧ u.get (HOST_STATUS_LINK p) = 0 ∧ u.get (HOST_STATUS_SPEED p) = 0 ∧ u.get (HOST_STATUS_WIDTH p) = 0 ∧
        (u.host p).flr = false ∧
        u.get (HOST_RESET_CNT_LINK p) = min (c.get (HOST_RESET_CNT_LINK p) + 1) (2 ^ 16 - 1) ∧
        u.get (HOST_RESET_CNT_FLR p) = c.get (HOST_RESET_CNT_FLR p)
    (c.portAvail p = true → c.get (HOST_STATUS_LINK p) = 0 →
      ∃ u, exec (.hostLinkUp p speed lanes) s = .next { s with chip := u } ∧
        u.get (HOST_STATUS_LINK p) = 1 ∧ u.get (HOST_STATUS_SPEED p) = speed + 1 ∧ u.get (HOST_STATUS_WIDTH p) = 2 ^ lanes.val ∧
        u.get (HOST_STATUS_AVAILABLE p) = 1 ∧ u.host p = { h with perst := false } ∧
        u.get ⟨CLK_XING_STATUS p, 0, 1⟩ = 0 ∧ u = { c with regs := u.regs, hosts := u.hosts } ∧
        c.SameRegs u [HOST_STATUS 0, HOST_STATUS 1, CLK_XING_STATUS p] ∧ frame u) ∧
    (c.resetLow = false →
      ∃ u, exec (.perstAssert p tlps) s = .next { s with chip := u } ∧
        down u ∧ (u.host p).perst = true ∧ (u.host p).aer = 0 ∧ (u.host p).aerFirst = 0 ∧ (u.host p).cfg = []) ∧
    (c.resetLow = true →
      ∃ u, exec (.perstAssert p tlps) s = .next { s with chip := u } ∧
        u.host p = { h with perst := true } ∧ u = { c with hosts := u.hosts } ∧ frame u) ∧
    (c.get (HOST_STATUS_LINK p) = 1 →
      ∃ u, exec (.pcieLinkDown p tlps) s = .next { s with chip := u } ∧ down u ∧ kept u) ∧
    (c.portAvail p = true → c.get (HOST_STATUS_LINK p) = 1 → h.flr = false →
      (∃ u, exec (.functionLevelReset p tlps) s = .next { s with chip := u } ∧
        gone u ∧ (u.host p).flr = true ∧ kept u ∧ u.get (HOST_STATUS_LINK p) = 1 ∧
        u.get (HOST_STATUS_SPEED p) = c.get (HOST_STATUS_SPEED p) ∧
        u.get (HOST_RESET_CNT_FLR p) = min (c.get (HOST_RESET_CNT_FLR p) + 1) (2 ^ 16 - 1) ∧
        u.get (HOST_RESET_CNT_LINK p) = c.get (HOST_RESET_CNT_LINK p)) ∧
      (∃ u, exec (.d3hotEntry p) s = .next { s with chip := u } ∧
        u.get (HOST_STATUS_D3HOT p) = 1 ∧ u.host p = { h with d3 := true } ∧
        u = { c with regs := u.regs, hosts := u.hosts } ∧ c.SameRegs u [HOST_STATUS p] ∧ frame u) ∧
      ∃ u, exec (.d0Return p) s = .next { s with chip := u } ∧
        u.get (HOST_STATUS_D3HOT p) = 0 ∧ u.host p = { h with d3 := false } ∧
        u = { c with regs := u.regs, hosts := u.hosts } ∧ c.SameRegs u [HOST_STATUS p] ∧ frame u) ∧
    (h.flr = true →
      ∃ u, exec (.flrComplete p) s = .next { s with chip := u } ∧
        u.host p = { h with flr := false } ∧ u.get ⟨CLK_XING_STATUS p, 0, 1⟩ = 0 ∧
        u = { c with regs := u.regs, hosts := u.hosts } ∧ c.SameRegs u [CLK_XING_STATUS p] ∧ frame u)

/-- A due vector gives one message at each available port: sent and counted when bus mastering and MSI-X are on, neither
function nor vector is masked and the port serves in D0, else pending; a pending one leaves once that holds. A configuration
read completes with what the register holds, the constants the spec gives, or what Config leaves open; a write changes the
command register's enables (log 16), the base addresses, the power state, the MSI-X bits, the AER bits written 1, the ECRC enables
and, in a register with a rule (log 9), the bits that a host writes or clears by writing 1, and nothing else. An unsupported
request completes so, sets its bits of AER and Device Status (PRESUMED places, log entry 9), and is counted. -/
def Obligations.MessagesAndConfiguration : Prop :=
  ∀ (s : State) (p : Fin 2) (k : Fin 64) (b : Fin 6) (o : Fin 1024) (v : Word) (r r' : CfgReg) (i : Fin 32),
    let c := s.chip
    let h := c.host p
    let x := v.toNat
    let may : Prop := c.get (HOST_STATUS_LINK p) = 1 ∧ h.flr = false ∧ c.get (HOST_STATUS_BME p) = 1 ∧ c.get (HOST_STATUS_MSIX_EN p) = 1 ∧
      c.get (HOST_STATUS_FN_MASK p) = 0 ∧ h.d3 = false ∧ (c.msixWord p (4 * k.val + 3)).toNat % 2 = 0
    let sends : Chip → Prop := fun u =>
      u.host p = { h with pba := h.pba.filter (· != k.val), sent := h.sent ++ [k.val] } ∧
        u.get (HOST_MSG_CNT_COUNT p) = min (c.get (HOST_MSG_CNT_COUNT p) + 1) (2 ^ 32 - 1)
    (c.due.contains k = true →
      ∃ u, exec (.msixMessage k) s = .next { s with chip := u } ∧
        u.due = c.due.filter (· != k.val) ∧
        (c.portAvail p = true → may → sends u) ∧
        (c.portAvail p = true → ¬ may → u.get (HOST_MSG_CNT_COUNT p) = c.get (HOST_MSG_CNT_COUNT p) ∧
          u.host p = { h with pba := if h.pba.contains k then h.pba else h.pba ++ [k.val] }) ∧
        (c.portAvail p = false → u.host p = h ∧ u.get (HOST_MSG_CNT_COUNT p) = c.get (HOST_MSG_CNT_COUNT p)) ∧
        u = { c with regs := u.regs, due := u.due, hosts := u.hosts } ∧ c.SameRegs u [HOST_MSG_CNT 0, HOST_MSG_CNT 1]) ∧
    (h.pba.contains k = true → c.portAvail p = true →
      (may →
        ∃ u, exec (.msixPendingRelease p k) s = .next { s with chip := u } ∧
          sends u ∧ (∀ q : Fin 2, q ≠ p → u.host q = c.host q) ∧
          u = { c with regs := u.regs, hosts := u.hosts } ∧ c.SameRegs u [HOST_MSG_CNT p]) ∧
      (¬ may → exec (.msixPendingRelease p k) s = .next s)) ∧
    (c.portAvail p = true → c.get (HOST_STATUS_LINK p) = 1 → h.flr = false →
      let reads : CfgReg → (Word → Prop) → Prop := fun r f =>
        ∃ u, exec (.pcieConfigRead p r) s = .next { s with chip := u } ∧
          (u.host p).cplStatus = 0 ∧ (u.host p).cpl.length = 1 ∧ f ((u.host p).cpl.headD 0) ∧
          u.host p = { h with cplStatus := 0, cpl := (u.host p).cpl } ∧ (∀ q : Fin 2, q ≠ p → u.host q = c.host q) ∧
          u = { c with hosts := u.hosts, freeCnt := u.freeCnt }
      let writes : CfgReg → HostRec → (Chip → Prop) → Prop := fun r g f =>
        ∃ u, exec (.pcieConfigWrite p r v) s = .next { s with chip := u } ∧
          u.host p = { g with cplStatus := 0, cpl := [] } ∧ f u ∧ (∀ q : Fin 2, q ≠ p → u.host q = c.host q) ∧
          u = { c with regs := u.regs, hosts := u.hosts } ∧ c.SameRegs u [HOST_STATUS p]
      let same : Chip → Prop := fun u => u.reg (HOST_STATUS p) = c.reg (HOST_STATUS p)
      let ecrc := c.get HOST_PCIE_CFG_ECRC
      reads .ids (· = c.reg HOST_PCI_ID) ∧
      (h.cmd &&& 0x142 = h.cmd → reads .command (fun w => w.toNat = h.cmd + 4 * c.get (HOST_STATUS_BME p) + 0x100000)) ∧
      reads .classCode (fun w => w.toNat / 2 ^ 8 = 0x118000) ∧
      (∀ w, h.bars = [(b.val, w)] → w.toNat % 16 = 0 → reads (.bar b) (fun y => y.toNat / 16 = w.toNat / 16)) ∧
      reads .power (fun w => w.toNat % 4 = if h.d3 then 3 else 0) ∧
      reads .msixControl (fun w => w.toNat / 2 ^ 16 % 2 ^ 11 = 63 ∧ w.toNat / 2 ^ 30 % 2 = c.get (HOST_STATUS_FN_MASK p) ∧
        w.toNat / 2 ^ 31 = c.get (HOST_STATUS_MSIX_EN p)) ∧
      reads .msixTable (· = 0x61000) ∧ reads .msixPba (· = 0x62000) ∧
      reads .serialLow (fun w => w.toNat = c.get PKG_SERIAL_SERIAL % 2 ^ 32) ∧
      reads .serialHigh (fun w => w.toNat = c.get PKG_SERIAL_SERIAL / 2 ^ 32) ∧
      (h.aer < 2 ^ 32 → reads .aerStatus (fun w => w.toNat = h.aer)) ∧
      reads .aerControl (fun w => w.toNat / 2 ^ 8 % 2 = (if h.ecrcCheck then 1 else 0) ∧ w.toNat / 2 ^ 7 % 2 = ecrc) ∧
      reads (.other o) (fun w => w = BitVec.ofNat 32 (Config.cfgBits p (1024 + o.val) % 2 ^ 32)) ∧
      (r ∈ [.cacheLine, .interruptLine, .deviceControl, .aerMask, .aerSeverity, .aerCorrStatus, .aerCorrMask, .laneErrors] →
        reads r (fun w => w.toNat = h.cfgAt r % 2 ^ 32)) ∧
      (r ∈ [.linkControl, .linkControl2] → reads r (fun w => w.toNat % 2 ^ 16 = h.cfgAt r % 2 ^ 16)) ∧
      writes .command { h with cmd := x &&& 0x142 } (fun u => u.get (HOST_STATUS_BME p) = x / 4 % 2) ∧
      (writes (.bar b) { h with bars := tabPut (fun _ => 0) h.bars b.val (v &&& BitVec.ofNat 32 (barMask b)) } same) ∧
      (x % 4 = 3 → writes .power { h with d3 := true } (fun u => u.get (HOST_STATUS_D3HOT p) = 1)) ∧
      (x % 4 = 0 → writes .power { h with d3 := false } (fun u => u.get (HOST_STATUS_D3HOT p) = 0)) ∧
      writes .msixControl h (fun u =>
        u.get (HOST_STATUS_FN_MASK p) = x / 2 ^ 30 % 2 ∧ u.get (HOST_STATUS_MSIX_EN p) = x / 2 ^ 31) ∧
      writes .aerStatus { h with aer := (BitVec.ofNat 32 h.aer &&& ~~~v).toNat } same ∧
      writes .aerControl { h with ecrcGen := ecrc = 1 && maskBit x 6, ecrcCheck := ecrc = 1 && maskBit x 8 }
        (fun u => u.get (HOST_STATUS_ECRC_ON p) = if ecrc = 1 then x / 2 ^ 8 % 2 else 0) ∧
      ((cfgRule r).rw ≠ 0 ∨ (cfgRule r).w1c ≠ 0 → r ≠ .deviceControl ∨ maskBit x 15 = false →
        ∃ u, exec (.pcieConfigWrite p r v) s = .next { s with chip := u } ∧
          u.host p = { h with cplStatus := 0, cpl := [], cfg := (u.host p).cfg } ∧
          maskBit ((u.host p).cfgAt r) i = (if maskBit (cfgRule r).rw i = true then maskBit x i
            else if maskBit (cfgRule r).w1c i = true then maskBit (h.cfgAt r) i && !maskBit x i else maskBit (h.cfgAt r) i) ∧
          (cfgKey r' ≠ cfgKey r → (u.host p).cfgAt r' = h.cfgAt r') ∧ (∀ q : Fin 2, q ≠ p → u.host q = c.host q) ∧
          u = { c with hosts := u.hosts }) ∧
      writes .ids h same ∧ writes .classCode h same ∧ writes .msixTable h same ∧ writes .msixPba h same ∧
      writes .serialLow h same ∧ writes .serialHigh h same ∧ writes (.other o) h same ∧
      ∃ u, exec (.pcieUnsupportedRequest p) s = .next { s with chip := u } ∧
        u.host p = { h with
          cplStatus := 1, cpl := [], aer := maskSet h.aer aerUnsupported, aerFirst := (u.host p).aerFirst, cfg := (u.host p).cfg } ∧
        maskBit ((u.host p).cfgAt .deviceControl) 19 = true ∧
        maskBit ((u.host p).cfgAt .deviceControl) (if maskBit (h.cfgAt .aerSeverity) aerUnsupported then 18 else 17) = true ∧
        u.get (HOST_UR_CNT_COUNT p) = min (c.get (HOST_UR_CNT_COUNT p) + 1) (2 ^ 32 - 1) ∧
        (∀ q : Fin 2, q ≠ p → u.host q = c.host q) ∧
        u = { c with regs := u.regs, hosts := u.hosts } ∧ c.SameRegs u [HOST_UR_CNT p])

/-- A flit that fails its CRC is counted on its hop and replayed, or fails the hop when it has been replayed RETRY_MAX times in a
row. A failed hop wraps the rings; with every die in reach nothing else changes, and a hop that cuts dies off is a partition: a
captain with quorum sidelines those outside; one without releases its leases and every part is sidelined but one that the
vice-captain goes on with. A retrained hop joins at the next boundary only if clean and AUTO_UNWRAP is set. While the lease has an
arbiter, a renewal, a stop after 45 us and a lapse after 50 us change it, and the sixth lapsing ends a session not held on HP1; the
last captain lease lapsing hands the role to a vice-captain with a majority (the last D distributed goes on, a commit being frozen
is dropped), as does an ordered sideline of the captain; before S0 the lapse of the flash port that loads does, and loading starts
again. Without an arbiter time changes no lease. A missed heartbeat loses its die, and the leases it arbitrated hold themselves. -/
def Obligations.FabricAndLeases : Prop :=
  ∀ (s : State) (h d : Fin 8) (k : Fin 6) (t errors : Nat) (r : FlitRx),
    let c := s.chip
    let f := c.fault
    let l := f.leases.getD k {}
    let up := c.upTicks * c.tickNs + t
    let cut : Chip := { c with fault := { f with hopFail := maskSet f.hopFail h } }
    let part := cut.partFrom c.captain
    let leaseOnly : Chip → Lease → Prop := fun u x =>
      u = { c with moment := t, fault := { f with leases := f.leases.set k x } }
    let frame : Chip → Prop := fun u =>
      c.SameMem u ∧ u.slots = c.slots ∧ u.ports = c.ports ∧ u.image = c.image ∧ u.hosts = c.hosts ∧ u.sched = c.sched
    let kept : Chip → Prop := fun u => frame u ∧ u.commit = c.commit ∧ u.sec = c.sec
    let takes : Chip → Prop := fun u =>
      u.get PKG_ROLE_CAPTAIN = c.vice ∧ u.get PKG_ROLE_VICE_VALID = 0 ∧ u.get TIME_STATUS_SERVO = c.vice ∧
        u.get (DIE_STATUS_ROLE d) = (if d.val < c.dieCount then (if d.val = c.vice then 1 else 0) else c.get (DIE_STATUS_ROLE d)) ∧
        u.time.d = c.time.dSent ∧ u.get FAULT_EVENTS_TAKEOVER = 1 ∧
         u.get FAULT_TAKEOVER_CNT_COUNT = min (c.get FAULT_TAKEOVER_CNT_COUNT + 1) (2 ^ 32 - 1) ∧
        (c.started = true → f.leases.length = 6 →
          ∀ j ∈ captainLeases, (u.fault.leases.getD j {}).held = true ∧ (u.fault.leases.getD j {}).holder = c.vice) ∧ frame u
    (let h := r.hop
      let ring := 2 * h.val + (if r.up then 1 else 0)
      let n := c.replayed ring r.next.toNat
      let counted : Chip → Prop := fun u =>
        u.get FAB_CRC_CNT_COUNT = min (c.get FAB_CRC_CNT_COUNT + 1) (2 ^ 32 - 1) ∧
          u.get (FAB_HOP_CRC_CNT_COUNT h) = min (c.get (FAB_HOP_CRC_CNT_COUNT h) + 1) (2 ^ 32 - 1)
      (crc16 (flitBytes r.flit) = r.flit.crc.toNat → exec (.flitCrcFail r) s = .next s) ∧
      (crc16 (flitBytes r.flit) ≠ r.flit.crc.toNat → h.val < c.dieCount → maskBit f.hopFail h = false →
        ∃ u, exec (.flitCrcFail r) s = .next { s with chip := u } ∧ counted u ∧
          (n < c.get FAB_CFG_RETRY_MAX →
            u.get FAB_RETRY_CNT_COUNT = min (c.get FAB_RETRY_CNT_COUNT + 1) (2 ^ 32 - 1) ∧
            u.get (FAB_HOP_RETRY_CNT_COUNT h) = min (c.get (FAB_HOP_RETRY_CNT_COUNT h) + 1) (2 ^ 32 - 1) ∧
            u.get FAB_EVENTS_RETRY = 1 ∧ u.replayed ring r.next.toNat = n + 1 ∧
            u = { c with regs := u.regs, due := u.due, fault := { f with replays := u.fault.replays } } ∧
            c.SameRegs u [FAB_CRC_CNT, FAB_RETRY_CNT, FAB_HOP_CRC_CNT h, FAB_HOP_RETRY_CNT h, FAB_EVENTS]) ∧
          (c.get FAB_CFG_RETRY_MAX ≤ n → f.hopFail < 2 ^ 8 →
            u.get FAB_RETRY_CNT_COUNT = c.get FAB_RETRY_CNT_COUNT ∧ u.fault.hopFail = maskSet f.hopFail h ∧
            u.get FAB_HOP_FAIL_CNT_COUNT = min (c.get FAB_HOP_FAIL_CNT_COUNT + 1) (2 ^ 32 - 1) ∧
            u.get FAB_STATUS_HOP_FAIL = maskSet f.hopFail h ∧ u.get FAB_STATUS_WRAPPED = 1 ∧ u.get FAB_EVENTS_HOP_FAILED = 1 ∧
            u.replayed ring r.next.toNat = 0 ∧ kept u ∧ u.vols = c.vols))) ∧
    (h.val < c.dieCount →
      (maskBit f.hopFail h = false → f.hopFail < 2 ^ 8 → c.live c.captain = true →
        ∃ u, exec (.hopFailure h) s = .next { s with chip := u } ∧
          u.fault.hopFail = maskSet f.hopFail h ∧ u.get FAB_STATUS_HOP_FAIL = maskSet f.hopFail h ∧ u.get FAB_STATUS_WRAPPED = 1 ∧
          u.get FAB_STATUS_REACH = part % 2 ^ 8 ∧
          u.get FAB_EVENTS_HOP_FAILED = 1 ∧ u.get FAB_EVENTS_WRAP = 1 ∧ kept u ∧ u.vols = c.vols ∧
          ((∀ e ∈ c.dieList, cut.live e = true → maskBit part e = true) →
            u.get FAB_STATUS_PARTITION = 0 ∧ u.get (DIE_STATUS_SERVICE d) = c.get (DIE_STATUS_SERVICE d) ∧
              u.fault = { f with hopFail := u.fault.hopFail } ∧ u.dies = c.dies) ∧
          (cut.quorum = true → d.val ∈ cut.voters → maskBit part d = false →
            u.get FAB_STATUS_PARTITION = 1 ∧
              (c.open d = true → u.get (DIE_STATUS_SERVICE d) = svcSidelined ∧ u.get (FAULT_DIE_CAUSE d) = 0x17 ∧
                (u.die d).sidelineDue = true)) ∧
          (cut.quorum = true → maskBit part d = true → u.get (DIE_STATUS_SERVICE d) = c.get (DIE_STATUS_SERVICE d)) ∧
          (cut.quorum = false → c.open c.captain = true →
            u.get FAULT_F0_EVENTS_PARTITION = 1 ∧ (∀ j ∈ captainLeases, (u.fault.leases.getD j {}).held = false) ∧
              (d.val ∈ cut.voters → maskBit cut.vicePart d = false → u.get (DIE_STATUS_SERVICE d) = svcSidelined) ∧
              (maskBit cut.vicePart d = true → u.get (DIE_STATUS_SERVICE d) = c.get (DIE_STATUS_SERVICE d)))) ∧
      (maskBit f.hopFail h = true →
        (errors = 0 → c.get FAB_CFG_AUTO_UNWRAP = 1 →
          exec (.hopRetrain h errors) s = .next { s with chip := { c with
            fault := { f with unwrapAt := some (maskSet ((f.unwrapAt.map (·.1)).getD 0) h, c.tick + 1) } } }) ∧
        (errors ≠ 0 ∨ c.get FAB_CFG_AUTO_UNWRAP = 0 → exec (.hopRetrain h errors) s = .next s))) ∧
    (l.held = true →
      (c.arbiter k = true →
        (∃ u, exec (.leaseRenewal k t) s = .next { s with chip := u } ∧ leaseOnly u { l with renewed := up, stopped := false }) ∧
        (l.renewed + 45000 ≤ up →
          ∃ u, exec (.leaseHolderStop k t) s = .next { s with chip := u } ∧ leaseOnly u { l with stopped := true }) ∧
        (up < l.renewed + 45000 → exec (.leaseHolderStop k t) s = .next { s with chip := { c with moment := t } })) ∧
      (c.arbiter k = false →
        exec (.leaseRenewal k t) s = .next { s with chip := { c with moment := t } } ∧
        exec (.leaseHolderStop k t) s = .next { s with chip := { c with moment := t } } ∧
        (c.isLost l.holder = false → c.service l.holder ≠ svcSidelined →
          exec (.leaseLapse k t) s = .next { s with chip := { c with moment := t } })) ∧
      (c.arbiter k = true → l.renewed + 50000 ≤ up →
        ∃ u, exec (.leaseLapse k t) s = .next { s with chip := u } ∧
          u.get FAULT_LEASE_LAPSE_CNT_COUNT = min (c.get FAULT_LEASE_LAPSE_CNT_COUNT + 1) (2 ^ 32 - 1) ∧
          u.get FAULT_EVENTS_LEASE_LAPSE = 1 ∧ (c.started = true → frame u) ∧
          (k.val ≠ 5 ∨ c.holdsSession 1 = true → u.sec = c.sec) ∧ (k.val = 5 → c.holdsSession 1 = false → u.sec.sess = none) ∧
          (c.started = false → c.get IMG_STATUS_STATE < imgLoaded → c.image.slot = some (k.val - 3) → 3 ≤ k.val → k.val < 5 →
            c.hasVice = true → c.open c.vice = true → c.voters.length < 2 * c.votes (c.partFrom c.vice) →
            u.get PKG_ROLE_CAPTAIN = c.vice ∧ u.get IMG_STATUS_STATE = imgHeaders ∧ u.image.slot = none ∧ u.image.tried = 0) ∧
          (c.hasVice = false → u = { c with regs := u.regs, due := u.due, moment := t, fault := u.fault } ∧
            u.fault = { f with leases := f.leases.set k {} } ∧ c.SameRegs u [FAULT_LEASE_LAPSE_CNT, FAULT_EVENTS]) ∧
          (c.started = true → c.hasVice = true → c.inService c.vice = true → c.vice < c.dieCount →
            (∀ j ∈ captainLeases, j ≠ k.val → (f.leases.getD j {}).held = false) → k.val ∈ captainLeases →
            c.voters.length < 2 * c.votes (c.partFrom c.vice) → takes u ∧
              (c.commit.freezing = true → u.commit = {} ∧ u.get PKG_COMMIT_STATUS_STATE = coIdle)))) ∧
    (l.held = false → c.arbiter k = true → 3 ≤ k.val → k.val < 5 → c.flashUse (k.val - 3) = true →
      ∃ u, exec (.leaseRenewal k t) s = .next { s with chip := u } ∧ leaseOnly u { held := true, holder := c.captain, renewed := up }) ∧
    (∀ e a op, f.sideAt = some (e, a, op) → e = c.captain → a ≤ c.tick + 1 → c.hasVice = true → c.inService c.vice = true →
      ∃ u, exec .plannedHandover s = .next { s with chip := u } ∧ takes u ∧ kept u ∧ u.vols = c.vols ∧ u.dies = c.dies) ∧
    (c.get PKG_ROLE_NEG_DONE = 1 → c.live d = true ∨ (d.val < c.dieCount ∧ (c.die d).inReset = true ∧ c.isLost d = false) →
      c.open d = true →
      ∃ u, exec (.heartbeatMissed d) s = .next { s with chip := u } ∧
        u.fault.lost = maskSet f.lost d ∧ u.get FAB_EVENTS_HB_LOST = 1 ∧ u.get (DIE_STATUS_SERVICE d) = svcSidelined ∧
        maskBit (u.get PKG_DIES_IN_SERVICE) d = false ∧ (u.die d).sidelineDue = true ∧ u.get (FAULT_DIE_CAUSE d) = 0x16 ∧
        u.get (FAULT_DIE_F1_CNT d) = min (c.get (FAULT_DIE_F1_CNT d) + 1) (2 ^ 8 - 1) ∧
        tabGet (fun _ => 0) u.fault.holdFrom d = c.tick + 1 ∧ kept u ∧ u.vols = c.vols ∧
        ((k.val = 3 ∧ d.val = 0) ∨ (k.val = 4 ∧ d.val = 1) ∨ (k.val ≠ 3 ∧ k.val ≠ 4 ∧ c.hasVice = true ∧ c.vice = d.val) →
          (u.fault.leases.getD k {}).stopped = false))

/-- A die other than the captain that is sidelined by a fault loses its slots; its ports are OFF; it covers nothing, and the cover
order is sent if it has protected elements and no other die is covered. An ordered sideline at its boundary ends the operation with
OK and leaves a protected ACTIVE port WARM. The captain sidelined by a fault loses its slots too, and a vice-captain with enough
live dies takes its role; without one the package has no captain's pins. The order sets boundary A three ticks ahead. At A every
backup die covers: its bench half is in use, its CH enables are the channel's, a channel with loop and standby records continues
from them, and the WARM backup port becomes ACTIVE. Primary slots and the slots of dies out of service stay. -/
def Obligations.SidelineAndCover : Prop :=
  ∀ (s : State) (d : Fin 8) (e p' : Fin 8) (q : Fin 256) (sl : Fin 2560) (ns : Nat),
    let c := s.chip
    let f := c.fault
    let gone : Chip → Prop := fun u =>
      u.slot d sl = {} ∧ u.get (DIE_ACTIVE_SLOTS d) = 0 ∧ u.get (DIE_STATUS_BENCH_USE d) = 0 ∧ u.get (DIE_COVER_H0_ACTIVE d) = 0 ∧
        u.get (DIE_COVER_H1_ACTIVE d) = 0 ∧ u.get (ELINK_STATUS_STATE d (8 + p'.val)) = elOff ∧ (u.die d).sidelineDue = false ∧
        (c.vice = d.val → u.get PKG_ROLE_VICE_VALID = 0) ∧
        (∀ x : Fin 8, x ≠ d → u.slot x sl = c.slot x sl ∧ u.port x p' = c.port x p') ∧ c.SameMem u
    (d.val < c.dieCount → d.val ≠ c.captain →
      ((c.die d).sidelineDue = true → (∀ x, f.sideAt = some x → x.1 ≠ d.val) →
        ∃ u, exec (.dieSideline d) s = .next { s with chip := u } ∧
          gone u ∧ u.get (ELINK_STATUS_STATE d p') = elOff ∧ u.get (DIE_STATUS_SERVICE d) = c.get (DIE_STATUS_SERVICE d) ∧
          (c.coverEfes d ≠ [] → f.order = none → f.coverAt = none → f.covered = none → u.fault.order = some d.val) ∧
          (f.order.isSome = true → u.fault.order = f.order) ∧ (f.covered.isSome = true → u.fault.order = f.order)) ∧
      ((c.die d).sidelineDue = false → ∀ x a op, f.sideAt = some (x, a, op) → x = d.val → a ≤ c.tick + 1 →
        ∃ u, exec (.dieSideline d) s = .next { s with chip := u } ∧
          gone u ∧ u.get (DIE_STATUS_SERVICE d) = svcSidelined ∧ maskBit (u.get PKG_DIES_IN_SERVICE) d = false ∧ u.fault.sideAt = none ∧
          u.get (ELINK_STATUS_STATE d p') =
            (if c.isProt d p' = true ∧ c.get (ELINK_STATUS_STATE d p') = elActive then elWarm else elOff) ∧
          (op = 0 → u.get FAULT_DIE_STATUS_BUSY = 0 ∧ u.get FAULT_DIE_STATUS_RESULT = 0))) ∧
    (d.val = c.captain → c.captain < c.dieCount → (c.die d).sidelineDue = true → (∀ x, f.sideAt = some x → x.1 ≠ d.val) →
      ∃ u, exec (.dieSideline d) s = .next { s with chip := u } ∧
        u.slot d sl = {} ∧ u.get (DIE_ACTIVE_SLOTS d) = 0 ∧ u.get (DIE_STATUS_BENCH_USE d) = 0 ∧
        (c.hasVice = true → c.vice ≠ d.val → c.open c.vice = true →
          (if c.isLost d = true then c.voters.length ≤ 2 * c.votes (c.partFrom c.vice)
            else c.voters.length < 2 * c.votes (c.partFrom c.vice)) →
          u.get PKG_ROLE_CAPTAIN = c.vice ∧ u.get PKG_ROLE_VICE_VALID = 0 ∧ u.get FAULT_F0_EVENTS_CAPTAIN_LOST = 1 ∧
            u.get FAULT_EVENTS_TAKEOVER = 1) ∧
        (c.hasVice = false → u.get PKG_ROLE_CAPTAIN = d.val ∧ u.time.tickOut = false ∧ u.time.ppsOut = none)) ∧
    (∀ x, f.order = some x →
      ∃ u, exec (.coverOrder ns) s = .next { s with chip := u } ∧
        u.fault = { f with order := none, coverAt := some (x, c.tick + 3) } ∧
        u.get FAB_PRIO_MAX_NS = min (2 ^ 16 - 1) (max (c.get FAB_PRIO_MAX_NS) ns) ∧
        u = { c with regs := u.regs, fault := u.fault } ∧ c.SameRegs u [FAB_PRIO_MAX]) ∧
    (∀ h a, f.coverAt = some (h, a) → a ≤ c.tick + 1 → h < c.dieCount → c.dieCount ≤ 8 → c.sideDue h = none →
      let b := backupDie c.dieCount h e
      ∃ u, exec .coverStart s = .next { s with chip := u } ∧
        u.fault.covered = some h ∧ u.fault.coverAt = none ∧
        u.get FAULT_COVER_CNT_COUNT = min (c.get FAULT_COVER_CNT_COUNT + 1) (2 ^ 32 - 1) ∧ u.get FAULT_EVENTS_COVER_START = 1 ∧
        (∀ x : Fin 8, sl.val < 2048 ∨ c.inService x = false → u.slot x sl = c.slot x sl) ∧
        u.volStage = c.volStage ∧ u.image = c.image ∧ u.sec = c.sec ∧
        (∀ k : Fin 2, (k.val, e.val) ∈ c.benchPlan b h → (c.benchPlan b h).length ≤ 2 → c.inService b = true → b ≠ h →
          let bs := 2048 + 256 * k.val + q.val
          u.get (if k.val = 0 then DIE_COVER_H0_ACTIVE b else DIE_COVER_H1_ACTIVE b) = 1 ∧
          u.get (if k.val = 0 then DIE_COVER_H0_DIE b else DIE_COVER_H1_DIE b) = h % 8 ∧
          u.get (if k.val = 0 then DIE_COVER_H0_EFE b else DIE_COVER_H1_EFE b) = e.val ∧
          u.get (ELINK_STATUS_COVERING b (8 + e.val)) = 1 ∧
          u.get (CH_CTRL_EN b bs) = c.get (CH_CTRL_EN h (e.val * 256 + q.val)) ∧
          (c.get (ELINK_STATUS_STATE b (8 + e.val)) = elWarm → u.get (ELINK_STATUS_STATE b (8 + e.val)) = elActive) ∧
          (c.get (CH_CTRL_EN h (e.val * 256 + q.val)) = 0 → u.slot b bs = c.slot b bs) ∧
          (c.get (CH_CTRL_EN h (e.val * 256 + q.val)) = 1 →
            ∀ l, tabGet (fun _ => none) c.loopRecs (h * 2048 + e.val * 256 + q.val) = some l →
            ∀ r, tabGet (fun _ => none) c.standbyRecs (h * 2048 + e.val * 256 + q.val) = some r →
              (u.slot b bs).active = true ∧ (u.slot b bs).st = l.st ∧ (u.slot b bs).integ = l.integ ∧ (u.slot b bs).entry = r.entry ∧
                u.get (CH_STATE_CURRENT b bs) = r.state % 2 ^ 10)))

/-- An accepted SIDELINE or RELOAD sets BUSY and orders boundary A at least 20 us ahead; one of a die not in service, or while
another is sidelined, is refused with its cause. A REJOIN, or an allowed automatic one, wipes a sidelined die and begins its
rejoin, counted; of any other die it is refused. A failed rejoin clears it, sets REJOIN_FAILED and ends the operation with
REJOIN_FAILED. A pop takes the oldest log entry, or reads 0, unless the port claims no memory requests (the latency it shows is
a free value within its bound, log 21). Boundary E with every die in service, a captain, quorum and no lockout fuse drives
SERVICE_OK. -/
def Obligations.DieOperations : Prop :=
  ∀ (s : State) (v : Word) (t : Nat) (e : Fin 8) (p : Fin 2) (sl : Fin 2560) (q : Fin 1024),
    let c := s.chip
    let x := v.toNat
    let d := x % 8
    let f := c.fault
    let boundary := c.tick + ceilDiv (t + 20000) c.tickNs
    let free := x / 2 ^ 31 = 1 ∧ c.get FAULT_DIE_STATUS_BUSY = 0
    let unserved := ∃ i : Fin 8, c.get (ELINK_CTRL_EN d i) = 1 ∧ c.isProt d i = false
    let others := ∃ i : Fin 8, i.val < c.dieCount ∧ i.val ≠ d ∧ c.get (DIE_STATUS_SERVICE i) = svcSidelined
    let orders : Instr → Nat → Prop := fun i by_ =>
      (c.inService d = true → ¬ others → f.updState ≠ updReloading → f.updState ≠ updCommitting →
        (c.captain = d → c.hasVice = true ∧ c.inService c.vice = true) → (unserved → x / 2 ^ 30 % 2 = 1) →
        ∃ u, exec i s = .next { s with chip := u } ∧
          u.get FAULT_DIE_STATUS_BUSY = 1 ∧ u.get FAULT_DIE_STATUS_DIE = d ∧ u.get FAULT_DIE_STATUS_RESULT = 0 ∧
          u.fault = { f with
            sideAt := some (d, boundary, by_)
            coverAt := if c.coverEfes d = [] then f.coverAt else some (d, boundary) } ∧
          u = { c with regs := u.regs, moment := t, fault := u.fault } ∧ c.SameRegs u [FAULT_DIE_CTRL, FAULT_DIE_STATUS]) ∧
      (c.inService d = false ∨ others →
        ∃ u, exec i s = .next { s with chip := u } ∧
          u.get FAULT_DIE_STATUS_BUSY = 0 ∧ u.get FAULT_DIE_STATUS_RESULT = (if c.inService d then 1 else 5) ∧
          u = { c with regs := u.regs, moment := t } ∧ c.SameRegs u [FAULT_DIE_CTRL, FAULT_DIE_STATUS])
    let begun : Chip → Nat → Prop := fun u k =>
      (u.rejoin k).on = true ∧ (u.rejoin k).loaded = false ∧ (u.rejoin k).ready = false ∧
        (u.rejoin k).starts.length = (c.rejoin k).starts.length + 1 ∧
        u.get (FAULT_DIE_REJOIN_CNT k) = min (c.get (FAULT_DIE_REJOIN_CNT k) + 1) (2 ^ 8 - 1) ∧
        u.get (DIE_STATUS_SERVICE k) = svcSidelined ∧ u.slot k sl = {} ∧ u.libRaw (entKey k sl q) = libBlank (entKey k sl q) ∧
        u.die k = { railsLow := (c.die k).railsLow, inReset := false, surveyDue := (c.die k).surveyDue } ∧ maskBit u.fault.lost k = false ∧
        (∀ i : Fin 8, i.val ≠ k → u.die i = c.die i ∧ u.slot i sl = c.slot i sl ∧
          u.libRaw (entKey i sl q) = c.libRaw (entKey i sl q)) ∧ u.volStage = c.volStage ∧ u.image = c.image ∧ u.sec = c.sec
    (free → x / 2 ^ 24 % 4 = 0 → orders (.faultDieSideline v t) 0) ∧
    (free → x / 2 ^ 24 % 4 = 2 → orders (.faultDieReload v t) 1) ∧
    (free → x / 2 ^ 24 % 4 = 1 →
      (d < c.dieCount → c.get (DIE_STATUS_SERVICE d) = svcSidelined → (c.rejoin d).on = false → (c.die d).sidelineDue = false →
        (c.die d).inReset = false →
        ∃ u, exec (.faultDieRejoin v t) s = .next { s with chip := u } ∧
          begun u d ∧ u.get FAULT_DIE_STATUS_BUSY = 1 ∧ u.get FAULT_DIE_STATUS_DIE = d) ∧
      (c.get (DIE_STATUS_SERVICE d) ≠ svcSidelined →
        ∃ u, exec (.faultDieRejoin v t) s = .next { s with chip := u } ∧
          u.get FAULT_DIE_STATUS_BUSY = 0 ∧ u.get FAULT_DIE_STATUS_RESULT = 4 ∧
          u = { c with regs := u.regs, moment := t } ∧ c.SameRegs u [FAULT_DIE_CTRL, FAULT_DIE_STATUS])) ∧
    (e.val < c.dieCount → c.get (DIE_STATUS_SERVICE e) = svcSidelined → (c.rejoin e).on = false → (c.die e).sidelineDue = false →
      (c.die e).inReset = false → c.mayRejoin e = true →
      ∃ u, exec (.rejoinStart e t) s = .next { s with chip := u } ∧ begun u e) ∧
    ((c.rejoin e).on = true → (c.rejoin e).byUpdate = false → c.get (DIE_STATUS_SERVICE e) = svcSidelined →
      ∃ u, exec (.rejoinFailed e) s = .next { s with chip := u } ∧
        u.rejoin e = { c.rejoin e with
          on := false, asked := false, byUpdate := false, loaded := false, ready := false } ∧
        u.get FAULT_EVENTS_REJOIN_FAILED = 1 ∧ u.get (FAULT_DIE_CAUSE e) = 0x18 ∧
        u.get (DIE_STATUS_SERVICE e) = svcSidelined ∧ (u.fault.returnAt.map (·.1)) ≠ some e.val ∧
        (c.get FAULT_DIE_STATUS_BUSY = 1 → c.get FAULT_DIE_STATUS_DIE = e.val →
          u.get FAULT_DIE_STATUS_BUSY = 0 ∧ u.get FAULT_DIE_STATUS_RESULT = 6) ∧
        c.SameMem u ∧ u.slots = c.slots ∧ u.ports = c.ports ∧ u.dies = c.dies) ∧
    (c.hostUp p = true → c.memOn p = false →
      ∃ u, exec (.faultLogPop p) s = .next { s with chip := u } ∧
        (u.host p).cplStatus = 1 ∧ (u.host p).cpl = [] ∧ u.get (HOST_UR_CNT_COUNT p) = min (c.get (HOST_UR_CNT_COUNT p) + 1) (2 ^ 32 - 1) ∧
        u = { c with regs := u.regs, hosts := u.hosts } ∧ c.SameRegs u [HOST_UR_CNT p]) ∧
    (c.hostUp p = true → c.memOn p = true →
      ∃ u, exec (.faultLogPop p) s = .next { s with chip := u } ∧
        (u.host p).cplStatus = 0 ∧ u.faultLog = c.faultLog.drop 1 ∧
        (c.faultLog = [] → (u.host p).cpl = [0] ∧ (u.host p).high = tabPut (fun _ => none) (c.host p).high FAULT_LOG_POP_LO (some 0)) ∧
        (∀ y, c.faultLog.head? = some y →
          (u.host p).cpl = [BitVec.ofNat 32 y.1] ∧ u.get FAULT_LOG_STATUS_COUNT = (c.faultLog.length - 1) % 2 ^ 10 ∧
          (u.host p).high = tabPut (fun _ => none) (c.host p).high FAULT_LOG_POP_LO
            (some (BitVec.ofNat 32 (2 ^ 31 + y.2.1 % 128 * 2 ^ 24 + y.2.2)))) ∧
        (∀ o : Fin 2, o ≠ p → u.host o = c.host o) ∧
        u.latOf p = (max (c.latOf p).1 (c.free % 1501), (c.latOf p).2) ∧
        u = { c with regs := u.regs, faultLog := u.faultLog, hosts := u.hosts, latency := u.latency, freeCnt := c.freeCnt + 1 } ∧
        c.SameRegs u [FAULT_LOG_POP_LO, FAULT_LOG_POP_HI, FAULT_LOG_STATUS]) ∧
    (c.boundaryE = true → f.passedE = false → (∀ i : Fin 8, i.val < c.dieCount → c.inService i = true) → c.dieCount ≤ 8 →
      c.get PKG_ROLE_NEG_DONE = 1 → c.captain < c.dieCount → c.quorum = true →
      ∃ u, exec .serviceOkRise s = .next { s with chip := u } ∧
        u.fault.passedE = true ∧ u.get FAULT_STATUS_SOK = 1 ∧ u.get FAULT_STATUS_QUORUM = 1 ∧ u.get FAULT_STATUS_UNSERVED = 0 ∧
        (c.inService 0 = true → u.fault.sok = true) ∧ c.SameMem u ∧ u.slots = c.slots ∧ u.ports = c.ports ∧ u.dies = c.dies)

/-- At the start a die whose part passes is marked; when the last one has passed the image is loaded, shown and recorded. A part
with a fault refuses the slot with its cause and place. A rejoining die whose base clock is judged and whose hops are up, while the
flash port is in use under its lease, takes the library of the image if slot, blocks and digest are right, else its rejoin fails.
When it is loaded, its core LOCKED, its enabled and usable primary ports
trained and its skew calibrated where that is enabled, R' is at least 20 us ahead. At R' the die is in service again, each half
that covers an EFE of it alone is handed back and free, and, but in an update, the home slots continue from the bench slots. -/
def Obligations.RejoinAndReturn : Prop :=
  ∀ (s : State) (d e b : Fin 8) (k' : Fin 2) (q : Fin 256) (i : Fin 1024) (t : Nat),
    let c := s.chip
    let f := c.fault
    let home := e.val * 256 + q.val
    (d.val < c.dieCount → (c.rejoin d).on = false → c.get IMG_STATUS_STATE = imgChecking → ∀ j, c.image.slot = some j → j < 2 →
      let done := maskSet c.image.checked d
      let refused : Chip → Nat → Nat → Prop := fun u cause sect =>
        u.get IMG_STATUS_CAUSE = cause ∧ u.get IMG_FAIL_VALID = 1 ∧ u.get IMG_FAIL_SLOT = j ∧ u.get IMG_FAIL_DIE = d.val ∧
          u.get IMG_FAIL_SECTION = sect % 2 ^ 10 ∧ u.get IMG_EVENTS_REFUSED = 1 ∧
          u.get IMG_STATUS_STATE =
            (if maskBit c.image.cands (1 - j) && !maskBit c.image.tried (1 - j) then imgLoading else imgNone) ∧
          c.SameMem u ∧ u.slots = c.slots ∧ u.ports = c.ports ∧ u.vols = c.vols ∧ u.dies = c.dies
      (c.layoutOk j = false →
        ∃ u, exec (.imageContentCheck d) s = .next { s with chip := u } ∧ refused u 6 (c.layoutAt j).1) ∧
      (c.layoutOk j = true → contentFault c.dieCount d c.captain (c.imgVals j) = none →
        (c.loadDies.all (fun k => maskBit done k) = false →
          exec (.imageContentCheck d) s = .next { s with chip := { c with image := { c.image with checked := done } } }) ∧
        (c.loadDies.all (fun k => maskBit done k) = true →
          ∃ u, exec (.imageContentCheck d) s = .next { s with chip := u } ∧
            u.get IMG_STATUS_STATE = imgLoaded ∧ u.get IMG_STATUS_BOOT_SLOT = j ∧ u.get IMG_VERSION_VERSION = c.imgVersion j ∧
            u.get IMG_EVENTS_LOADED = 1 ∧ u.image.booted = c.imgDigest j ∧ u.image.slot = none ∧
            u.auditNext = c.auditNext + 1 ∧ (u.audit.getLast?).map (·.type) = some 3 ∧ u.image.flash = c.image.flash)) ∧
      (∀ y, c.layoutOk j = true → contentFault c.dieCount d c.captain (c.imgVals j) = some y → y.1 ∈ [8, 9] →
        ∃ u, exec (.imageContentCheck d) s = .next { s with chip := u } ∧ refused u y.1 y.2.1)) ∧
    ((c.rejoin d).on = true → (c.rejoin d).loaded = false → (c.rejoin d).byUpdate = false →
      let go := c.judged d = true ∧ c.hopsUp d = true ∧ c.leaseStopped (3 + c.bootSlot) = false
      let ents := (c.imgVals c.bootSlot).filterMap (fun v => match v.item with
        | .lib x sl j w => if x = d.val ∧ sl = home then some (j, w) else none
        | _ => none)
      (¬ go → exec (.imageContentCheck d) s = .next s) ∧
      (go → c.rejoinCause d = 0 →
        ∃ u, exec (.imageContentCheck d) s = .next { s with chip := u } ∧
          (u.rejoin d).loaded = true ∧ tabGet (fun _ => 0) u.image.running d = c.bootSlot + 1 ∧
          (ents = [] → u.libRaw (entKey d home 0) = withCheck (2 ^ 47)) ∧
          (∀ w, (ents.filter (fun x => x.1 == i.val)).map (·.2) = [w] → u.libRaw (entKey d home i) = withCheck w) ∧
          (∀ k : Fin 8, k ≠ d → u.slot k home = c.slot k home ∧ u.libRaw (entKey k home 0) = c.libRaw (entKey k home 0)) ∧
          u.volStage = c.volStage ∧ u.image.flash = c.image.flash) ∧
      (go → c.rejoinCause d ≠ 0 →
        ∃ u, exec (.imageContentCheck d) s = .next { s with chip := u } ∧
          (u.rejoin d).on = false ∧ u.get FAULT_EVENTS_REJOIN_FAILED = 1 ∧ u.get (FAULT_DIE_CAUSE d) = 0x18 ∧
          c.SameMem u ∧ u.slots = c.slots)) ∧
    ((c.rejoin d).on = true → (c.rejoin d).loaded = true → (c.rejoin d).ready = false → c.get (SYN_STATUS_STATE d) = synLocked →
      (∀ i : Fin 8, c.get (ELINK_CTRL_EN d i) = 1 → c.portUsable d i = true → c.elUp d i = true) →
      (maskBit (c.get (CAL_STATUS_VALID d)) calSkew = true ∨ maskBit (c.get (CAL_CTRL_ITEM_EN d)) calSkew = false ∨
        c.get (CAL_CTRL_EN d) = 0) →
      (c.xoSidelined d = true → c.get (CLK_STATUS_XO_STABLE d) = 1) →
      ∃ u, exec (.rejoinReady d t) s = .next { s with chip := u } ∧
        (u.rejoin d).ready = true ∧ u.fault.returnAt = some (d.val, c.tick + ceilDiv (t + 20000) c.tickNs) ∧
        u.slots = c.slots ∧ u.ports = c.ports ∧ u.dies = c.dies ∧ u.volStage = c.volStage ∧ u.image = c.image) ∧
    (∀ x a, f.returnAt = some (x, a) → x = d.val → a ≤ c.tick + 1 → d.val < c.dieCount → c.dieCount ≤ 8 →
      ∃ u, exec .coverReturn s = .next { s with chip := u } ∧
        u.get (DIE_STATUS_SERVICE d) = svcIn ∧ maskBit (u.get PKG_DIES_IN_SERVICE) d = true ∧ u.get FAULT_EVENTS_REJOINED = 1 ∧
        u.rejoin d = { starts := (c.rejoin d).starts } ∧ u.fault.returnAt = none ∧ u.fault.covered ≠ some d.val ∧
        (c.get FAULT_DIE_STATUS_BUSY = 1 → c.get FAULT_DIE_STATUS_DIE = d.val →
          u.get FAULT_DIE_STATUS_BUSY = 0 ∧ u.get FAULT_DIE_STATUS_RESULT = 0) ∧ u.volStage = c.volStage ∧ u.image = c.image ∧
        (b ≠ d → c.inService b = true → (k'.val, e.val) ∈ c.halvesFor b d →
          (∀ k : Fin 8, ∀ x ∈ c.halvesFor k d, x.2 = e.val → k = b ∧ x.1 = k'.val) →
          let bs := 2048 + 256 * k'.val + q.val
          u.get (ELINK_STATUS_COVERING b (8 + e.val)) = 0 ∧
          u.get (if k'.val = 0 then DIE_COVER_H0_ACTIVE b else DIE_COVER_H1_ACTIVE b) = 0 ∧ u.slot b bs = {} ∧
          (c.get (ELINK_STATUS_STATE d e) = elWarm → u.get (ELINK_STATUS_STATE d e) = elActive ∧ (u.port d e).firstA = some a) ∧
          ((c.rejoin d).byUpdate = false → c.get (CH_CTRL_EN b bs) = 1 → (c.slot b bs).active = true →
            (u.slot d home).active = true ∧ (u.slot d home).integ = (c.slot b bs).integ ∧ (u.slot d home).st = (c.slot b bs).st ∧
            u.get (CH_STATE_CURRENT d home) = c.get (CH_STATE_CURRENT b bs))))

/-- VERIFY, unless an update runs, begins to verify the slot under its flash lease; the end of that leaves the slot verified
with its digest, or refused with the first cause and UPD_FAILED, one of key, rollback or signature recorded. GO of a verified
slot, or of the booted one after a stop, with no other die out orders the first die of the reload order aside; with an
unprotected enabled EFE and no FORCE it only records UNPROTECTED. COMMIT of a reloaded package picks its boundary; ABORT stops a
reloaded one at once and a reloading one after the present die. In other states they change nothing but UPD_CTRL. -/
def Obligations.UpdateInService : Prop :=
  ∀ (s : State) (v : Word) (t : Nat) (ok : Bool),
    let c := s.chip
    let f := c.fault
    let x := v.toNat
    let j := x % 2
    let boundary := c.tick + ceilDiv (t + 20000) c.tickNs
    let does : Instr → FaultRec → Prop := fun i g =>
      ∃ u, exec i s = .next { s with chip := u } ∧
        u = { c with regs := u.regs, moment := t, fault := g } ∧ c.SameRegs u [UPD_CTRL] ∧
        u.get UPD_CTRL_SLOT = j ∧ u.get UPD_CTRL_FORCE = x / 4 % 2 ∧ u.get UPD_CTRL_KEEP_TRIMS = x / 2 % 2
    let running := f.updState = updVerifying ∨ f.updState = updReloading ∨ f.updState = updReloaded ∨ f.updState = updCommitting
    let open_ := ∃ d i : Fin 8, c.inService d = true ∧ c.get (ELINK_CTRL_EN d i) = 1 ∧ c.isProt d i = false
    (x / 2 ^ 28 = 8 →
      (¬ running → does (.updVerify v t) { f with
        updState := updVerifying
        updCause := 0
        updSlot := j
        updMask := if f.updState = updDone then 0 else f.updMask
        leases := f.leases.set (3 + j) { held := true, holder := c.captain, renewed := c.upTicks * c.tickNs + t } }) ∧
      (running → does (.updVerify v t) f)) ∧
    (f.updState = updVerifying → c.flashHeld f.updSlot = false → exec (.updVerifyDone ok) s = .next s) ∧
    (f.updState = updVerifying → f.updSlot < 2 → c.flashHeld f.updSlot = true →
      (c.updRefusal f.updSlot ok = 0 →
        ∃ u, exec (.updVerifyDone ok) s = .next { s with chip := u } ∧
          u = { c with fault := u.fault, image := { c.image with verified := c.imgDigest f.updSlot } } ∧
          u.fault.updState = updVerified ∧ u.fault.updCause = 0) ∧
      (c.updRefusal f.updSlot ok ≠ 0 →
        ∃ u, exec (.updVerifyDone ok) s = .next { s with chip := u } ∧
          u.fault.updState = updRefused ∧ u.fault.updCause = c.updRefusal f.updSlot ok ∧ u.get FAULT_EVENTS_UPD_FAILED = 1 ∧
          (c.updRefusal f.updSlot ok ∈ [3, 4, 7] →
            u.get SEC_EVENTS_IMAGE_REFUSED = 1 ∧ (u.audit.getLast?).map (fun a => (a.type, a.result)) = some (4, 2)) ∧
          u = { c with regs := u.regs, due := u.due, fault := u.fault, sec := u.sec }) ∧
      (c.slotReach f.updSlot = false →
        ∃ u, exec (.updVerifyDone ok) s = .next { s with chip := u } ∧
          u.fault.updState = updRefused ∧ u.fault.updCause = 10 ∧ u.get FAULT_EVENTS_UPD_FAILED = 1 ∧
          c.SameRegs u [FAULT_EVENTS] ∧ u = { c with regs := u.regs, due := u.due, fault := u.fault }) ∧
      (c.slotReach f.updSlot = true → c.headerCause f.updSlot = 0 → c.imgBlocks f.updSlot ≤ c.slotBlocks f.updSlot → ok = false →
        ∃ u, exec (.updVerifyDone ok) s = .next { s with chip := u } ∧
          u.fault.updState = updRefused ∧ u.fault.updCause = 5 ∧ u.get FAULT_EVENTS_UPD_FAILED = 1 ∧
          c.SameRegs u [FAULT_EVENTS] ∧ u = { c with regs := u.regs, due := u.due, fault := u.fault })) ∧
    (x / 2 ^ 28 = 4 →
      let fwd := f.updState = updVerified ∧ j = f.updSlot
      let back := f.updState = updStopped ∧ j = c.bootSlot
      (fwd ∨ back → (open_ → x / 4 % 2 = 1) → f.sideAt = none → f.updStop = false →
        (∀ k : Fin 8, k.val < c.dieCount → c.get (DIE_STATUS_SERVICE k) ≠ svcSidelined) → c.dieCount ≤ 8 →
        ∀ y rest, c.updOrder (if f.updState = updVerified then c.inServiceDies else c.inServiceDies.filter (maskBit f.updMask)) = y :: rest →
        (c.captain = y → c.hasVice = true ∧ c.inService c.vice = true) →
        does (.updGo v t) { f with
          updState := updReloading
          updCause := 0
          updSlot := j
          updTodo := rest
          updDie := some y
          sideAt := some (y, boundary, 2)
          coverAt := if c.coverEfes y = [] then f.coverAt else some (y, boundary) }) ∧
      (fwd ∨ back → open_ → x / 4 % 2 = 0 → does (.updGo v t) { f with updCause := 12 }) ∧
      (¬ fwd → ¬ back → does (.updGo v t) f)) ∧
    (x / 2 ^ 28 = 2 →
      (f.updState = updReloaded →
        does (.updCommit v t) { f with
          updState := updCommitting
          updCause := 0
          updAt := some boundary }) ∧
      (f.updState ≠ updReloaded → does (.updCommit v t) f)) ∧
    (x / 2 ^ 28 = 1 →
      (f.updState = updReloaded → does (.updAbort v t) { f with
        updState := updStopped, updCause := 0, updTodo := [], updDie := none, updStop := false }) ∧
      (f.updState = updReloading → does (.updAbort v t) { f with updStop := true }) ∧
      (f.updState ≠ updReloaded → f.updState ≠ updReloading → does (.updAbort v t) f))

/-- A lost TLP does nothing, one with a bad ECRC is only reported in AER, if ECRC is on. In D3hot, with Memory Space Enable clear
(PRESUMED, log entry 16) or outside any block a request is unsupported; too long it is aborted, or malformed. A read that
completes takes a latency within the bound of R385 into HOST_p_LAT (DESIGN CHOICE, log entry 21). A read of one DW completes
with the register's readable bits, or the stored half of a good library entry, poisoned when its data fails parity. A write DW
with partial enables, or failing parity, only counts. Two DWs act as two writes. The AER bit places are PRESUMED (log entry 9).
-/
def Obligations.RequestTlps : Prop :=
  ∀ (s : State) (p : Fin 2) (lib perr : Bool) (a : BitVec 28) (n : Fin 1024) (be : BitVec 4) (v w : Word) (vs : List Word) (t cyc : Nat),
    let c := s.chip
    let h := c.host p
    let x := a.toNat / 4 * 4
    let now := { c with moment := t }
    let ur : Nat := min (c.get (HOST_UR_CNT_COUNT p) + 1) (2 ^ 32 - 1)
    let ca : Nat := min (c.get (HOST_CA_CNT_COUNT p) + 1) (2 ^ 32 - 1)
    let aer : Nat → HostRec := fun b => h.report b
    let read : Fin 3 → Instr := fun bad => .pcieMemRead p lib a n 0xF 0xF bad perr t
    let write : Fin 3 → List Word → Nat → BitVec 4 → Instr := fun bad l m e => .pcieMemWrite p lib a l e 0xF bad m t cyc
    let wide : Chip → HostRec → List Nat → Prop := fun u r l =>
      u.host p = r ∧ (∀ q : Fin 2, q ≠ p → u.host q = c.host q) ∧ c.SameRegs u l ∧
        u = { c with
          regs := u.regs, due := u.due, faultLog := u.faultLog, hosts := u.hosts, moment := t, latency := u.latency, freeCnt := u.freeCnt }
    let only : Chip → HostRec → List Nat → Prop := fun u r l =>
      wide u r l ∧ u.latency = c.latency ∧ u.freeCnt = c.freeCnt
    let seen : Chip → HostRec → Prop := fun u r =>
      wide u r [] ∧ u.freeCnt = c.freeCnt + 1 ∧ (∀ q : Fin 2, q ≠ p → u.latOf q = c.latOf q) ∧
        (lib = false → (u.latOf p).2 = (c.latOf p).2 ∧ (c.latOf p).1 ≤ (u.latOf p).1 ∧ (u.latOf p).1 ≤ max (c.latOf p).1 1500) ∧
        (lib = true → (u.latOf p).1 = (c.latOf p).1 ∧ (c.latOf p).2 ≤ (u.latOf p).2 ∧ (u.latOf p).2 ≤ max (c.latOf p).2 3000)
    c.portAvail p = true → c.get (HOST_STATUS_LINK p) = 1 → h.flr = false →
      (exec (read 1) s = .next { s with chip := now } ∧ exec (write 1 vs 0 0xF) s = .next { s with chip := now }) ∧
      (c.get (HOST_STATUS_ECRC_ON p) = 1 →
        (∃ u, exec (read 2) s = .next { s with chip := u } ∧ only u (aer aerEcrc) []) ∧
        ∃ u, exec (write 2 vs 0 0xF) s = .next { s with chip := u } ∧ only u (aer aerEcrc) []) ∧
      (h.d3 = true ∨ h.cmd.testBit 1 = false →
        (∃ u, exec (read 0) s = .next { s with chip := u } ∧
          only u { aer aerUnsupported with cplStatus := 1, cpl := [] } [HOST_UR_CNT p] ∧ u.get (HOST_UR_CNT_COUNT p) = ur) ∧
        ∃ u, exec (write 0 vs 0 0xF) s = .next { s with chip := u } ∧
          only u (aer aerUnsupported) [HOST_UR_CNT p] ∧ u.get (HOST_UR_CNT_COUNT p) = ur) ∧
      (h.d3 = false → h.cmd.testBit 1 = true →
        ((if lib then 128 else 16) ≤ n.val →
          ∃ u, exec (read 0) s = .next { s with chip := u } ∧
            only u { aer aerAbort with cplStatus := 2, cpl := [] } [HOST_CA_CNT p] ∧ u.get (HOST_CA_CNT_COUNT p) = ca) ∧
        (lib = true → 64 < vs.length → ∃ u, exec (write 0 vs 0 0xF) s = .next { s with chip := u } ∧ only u (aer aerMalformed) []) ∧
        (lib = false → 16 < vs.length →
          ∃ u, exec (write 0 vs 0 0xF) s = .next { s with chip := u } ∧
            only u (aer aerAbort) [HOST_CA_CNT p] ∧ u.get (HOST_CA_CNT_COUNT p) = ca) ∧
        (n.val < 16 → c.outside lib a.toNat (n.val + 1) = true →
          ∃ u, exec (read 0) s = .next { s with chip := u } ∧
            only u { aer aerUnsupported with cplStatus := 1, cpl := [] } [HOST_UR_CNT p, HOST_EVENTS] ∧
            u.get (HOST_UR_CNT_COUNT p) = ur ∧ u.get HOST_EVENTS_DECODE = 1) ∧
        (vs.length ≤ 16 → c.outside lib a.toNat vs.length = true →
          ∃ u, exec (write 0 vs 0 0xF) s = .next { s with chip := u } ∧
            only u (aer aerUnsupported) [HOST_UR_CNT p, HOST_EVENTS] ∧ u.get (HOST_UR_CNT_COUNT p) = ur ∧
            u.get HOST_EVENTS_DECODE = 1) ∧
        (lib = false → n.val = 0 → x < 0x10000 → c.get (onPort p HOST_VIEW_SHADOW) = 0 → ∀ r, findReg x = some r → r.half = .single →
          ∃ u, exec (read 0) s = .next { s with chip := u } ∧
            seen u { (if perr then aer aerPoisoned else h) with
              cplStatus := if perr then 3 else 0
              cpl := [c.reg x &&& ~~~BitVec.ofNat 32 r.wo] }) ∧
        (lib = true → n.val = 0 → perr = false → c.libOutside x = false → c.get (DIE_STATUS_SERVICE (x / 0x2000000)) ≤ svcIn →
          let k := x / 0x2000000 * 2 ^ 22 + x % 0x2000000 / 8
          c.isPoison k = false → ∀ y, secded (c.libRaw k) = some (y, false) →
          ∃ u, exec (read 0) s = .next { s with chip := u } ∧
            seen u { h with cplStatus := 0, cpl := [BitVec.ofNat 32 (y / 2 ^ (8 * (x % 8)))] }) ∧
        (lib = false → c.outside false a.toNat 1 = false →
          (∃ u, exec (write 0 [v] 1 be) s = .next { s with chip := u } ∧
            u.get (HOST_PARITY_CNT_COUNT p) = min (c.get (HOST_PARITY_CNT_COUNT p) + 1) (2 ^ 32 - 1) ∧ u.get HOST_EVENTS_PARITY = 1 ∧
            only u h [HOST_PARITY_CNT p, HOST_EVENTS, FAULT_LOG_STATUS, FAULT_LOG_LOST, FAULT_EVENTS, FAULT_CNT 3]) ∧
          (be ≠ 0xF → needsTag x v = false →
            ∃ u, exec (write 0 [v] 0 be) s = .next { s with chip := u } ∧
              u.get (HOST_WIDTH_CNT_COUNT p) = min (c.get (HOST_WIDTH_CNT_COUNT p) + 1) (2 ^ 32 - 1) ∧ u.get HOST_EVENTS_WIDTH = 1 ∧
              only u h [HOST_WIDTH_CNT p, HOST_EVENTS])) ∧
        (c.outside lib a.toNat 2 = false →
          ∃ u, exec (.pcieMemWrite p lib a [v] 0xF 0xF 0 0 t cyc) s = .next { s with chip := u } ∧
            (u.portAvail p = true → u.get (HOST_STATUS_LINK p) = 1 → (u.host p).flr = false → u.memOn p = true →
              u.outside lib (x + 4) 1 = false →
              exec (.pcieMemWrite p lib (BitVec.ofNat 28 (x + 4)) [w] 0xF 0xF 0 0 t cyc) { s with chip := u } =
                exec (.pcieMemWrite p lib a [v, w] 0xF 0xF 0 0 t cyc) s)))

/-- A write of a PKG or TIME register changes its RW bits, clears W1C bits written 1, and goes to the shadow of its RWT bits;
its read-only bits stay, and so does every other register. A low half of a writable pair is only held; the high half from the
same port then writes both, and without one it is discarded and counted. A read moves HOST_p_LAT (log entry 21); a read of a low
half latches the high one for its port; the high half then reads as latched, once. -/
def Obligations.RegisterAccess : Prop :=
  ∀ (s : State) (p : Fin 2) (a : BitVec 26) (v : Word) (t cyc : Nat),
    let c := s.chip
    let h := c.host p
    let x := a.toNat / 4 * 4
    let mask : Nat → Word := BitVec.ofNat 32
    let merged : Nat → Word → Word → Word := fun m old new => (old &&& ~~~mask m) ||| (new &&& mask m)
    let plain := x < 0x10000 ∧ x ≠ PKG_COMMIT_CTRL ∨ 0x20000 ≤ x ∧ x < 0x30000 ∧ x ≠ TIME_RESTEP
    let others : Chip → Prop := fun u => ∀ q : Fin 2, q ≠ p → u.host q = c.host q
    let read : Chip → Prop := fun u =>
      (u.host p).cplStatus = 0 ∧ others u ∧ u = { c.observe p false with moment := t, hosts := u.hosts }
    c.portAvail p = true → c.get (HOST_STATUS_LINK p) = 1 → h.flr = false → c.memOn p = true →
      (plain → c.groupOpen p = false → ∀ r, findReg x = some r → needsTag x v = false →
        (writeHalf x = .single →
          ∃ u, exec (.registerWrite p a v t cyc) s = .next { s with chip := u } ∧
            u.reg x = (merged r.rw (c.reg x) v &&& ~~~(v &&& mask r.w1c)) ∧
            u.shadowOf x = (if r.rwt = 0 then c.shadowOf x else some (merged r.rwt ((c.shadowOf x).getD (u.reg x)) v)) ∧
            (∀ b, b ≠ x → u.shadowOf b = c.shadowOf b) ∧ c.SameRegs u [x] ∧
            u = { c with moment := t, regs := u.regs, shadow := u.shadow }) ∧
        (writeHalf x = .low →
          ∃ u, exec (.pairLowWrite p a v t cyc) s = .next { s with chip := u } ∧
            u.lowOf p x = some v ∧ u.host p = { h with low := (u.host p).low } ∧ others u ∧
            u = { c with moment := t, hosts := u.hosts }) ∧
        (writeHalf x = .high → 4 ≤ x →
          (∀ w, c.lowOf p (x - 4) = some w → ∀ r', findReg (x - 4) = some r' → r.rwt = 0 → r'.rwt = 0 → r.w1c = 0 → r'.w1c = 0 →
            ∃ u, exec (.pairHighWrite p a v t cyc) s = .next { s with chip := u } ∧
              u.reg (x - 4) = merged r'.rw (c.reg (x - 4)) w ∧ u.reg x = merged r.rw (c.reg x) v ∧ u.lowOf p (x - 4) = none ∧
              c.SameRegs u [x, x - 4] ∧ others u ∧ u = { c with moment := t, regs := u.regs, hosts := u.hosts }) ∧
          (c.lowOf p (x - 4) = none →
            ∃ u, exec (.pairHighWrite p a v t cyc) s = .next { s with chip := u } ∧
              u.get (HOST_WIDTH_CNT_COUNT p) = min (c.get (HOST_WIDTH_CNT_COUNT p) + 1) (2 ^ 32 - 1) ∧ u.get HOST_EVENTS_WIDTH = 1 ∧
              u = { c with moment := t, regs := u.regs, due := u.due } ∧ c.SameRegs u [HOST_WIDTH_CNT p, HOST_EVENTS]))) ∧
      (x < 0x30000 → x ≠ FAULT_LOG_POP_LO → x ≠ FAULT_LOG_POP_HI → ∀ r, findReg x = some r → c.get (onPort p HOST_VIEW_SHADOW) = 0 →
        (r.half = .low → ∀ r', findReg (x + 4) = some r' →
          ∃ u, exec (.pairLowRead p a t) s = .next { s with chip := u } ∧
            (u.host p).cpl = [c.reg x &&& ~~~mask r.wo] ∧ read u ∧
            tabGet (fun _ => none) (u.host p).high x = some (c.reg (x + 4) &&& ~~~mask r'.wo) ∧
            (∀ b, b ≠ x → tabGet (fun _ => none) (u.host p).high b = tabGet (fun _ => none) h.high b)) ∧
        (r.half = .high → 4 ≤ x →
          ∃ u, exec (.pairHighRead p a t) s = .next { s with chip := u } ∧
            read u ∧ (u.host p).cpl = [(tabGet (fun _ => none) h.high (x - 4)).getD (c.reg x &&& ~~~mask r.wo)] ∧
            tabGet (fun _ => none) (u.host p).high (x - 4) = none))

/-- A held write joins its port's held group, or without a session is counted as NO_SESSION; with partial enables it discards
the group. COMMIT with the right tag and a later sequence accepts the group, whose writes take effect in order, and a write of IMG_PIN in it takes effect unless
the session is a first owner's; with another tag or an old sequence it is refused and an authentication failure; DISCARD drops
it; a library write so discarded counts in LIB_DISCARD_CNT of its die (log entry 96). OPEN opens a host group, in which a write
of a register that is not exempt waits, the 257th discarding it; COMMIT without WITH_AW ends it, its writes taking effect in order, of two writes of TIME_IRQ_EN
the later standing; DISCARD drops it; each in the wrong state is BAD_CMD. -/
def Obligations.HeldAndHostGroups : Prop :=
  ∀ (s : State) (p : Fin 2) (lib : Bool) (a : BitVec 28) (b : BitVec 26) (v w : Word) (be : BitVec 4) (t cyc : Nat),
    let c := s.chip
    let h := c.host p
    let x := a.toNat / 4 * 4
    let y := b.toNat / 4 * 4
    let k := if lib then 0x80000000 + x else x
    let l := c.heldOf p
    let result : Chip → Nat := fun u => u.get (onPort p SEC_AW_STATUS_RESULT)
    let group : Chip → Nat := fun u => u.get (onPort p HOST_GROUP_STATUS_RESULT)
    let z := v.toNat
    let tagOk := c.heldTag p = hmacSha256 c.sec.ctrlKey (c.heldMessage p)
    let seq := c.get (onPort p SEC_AW_SEQ_SEQ)
    let rest : Chip → Prop := fun u => c.SameMem u ∧ u.slots = c.slots ∧ u.ports = c.ports ∧ u.vols = c.vols ∧ u.dies = c.dies
    let bad : Instr → Prop := fun i =>
      ∃ u, exec i s = .next { s with chip := u } ∧ group u = 5 ∧ u = { c with moment := t, regs := u.regs } ∧
        c.SameRegs u [portReg p HOST_GROUP_STATUS]
    let libs := c.dieList.flatMap fun d => [LIB_EVENTS d, LIB_DISCARD_CNT d]
    let lost : Chip → List (Nat × Word) → Prop := fun u g =>
      ∀ d < c.dieCount,
        let n := (g.filter fun o => decide (0x80000000 ≤ o.1 ∧ (o.1 - 0x80000000) / 0x2000000 = d)).length
        u.get (LIB_DISCARD_CNT_COUNT d) =
          (if c.runs d then min (c.get (LIB_DISCARD_CNT_COUNT d) + n) (2 ^ 32 - 1) else c.get (LIB_DISCARD_CNT_COUNT d))
    c.portAvail p = true → c.get (HOST_STATUS_LINK p) = 1 → h.flr = false → c.memOn p = true → c.dieCount ≤ 8 →
      (needsTag k v = true → c.outside lib x 1 = false →
        (be = 0xF → c.holdsSession p = true → l.length < 4096 →
          ∃ u, exec (.heldWrite p lib a v be t cyc) s = .next { s with chip := u } ∧
            u.heldOf p = l ++ [(k, v)] ∧ u.get (onPort p SEC_AW_STATUS_COUNT) = l.length + 1 ∧
            u = { c with moment := t, regs := u.regs, sec := u.sec } ∧ u.sec = { c.sec with held := u.sec.held } ∧
            c.SameRegs u [portReg p SEC_AW_STATUS]) ∧
        (be ≠ 0xF → c.holdsSession p = true →
          ∃ u, exec (.heldWrite p lib a v be t cyc) s = .next { s with chip := u } ∧
            u.heldOf p = [] ∧ result u = 4 ∧ u.get HOST_EVENTS_WIDTH = 1 ∧ rest u ∧ lost u (l ++ [(k, v)]) ∧
            c.SameRegs u (libs ++ [portReg p SEC_AW_STATUS, HOST_WIDTH_CNT p, HOST_EVENTS])) ∧
        (be = 0xF → c.holdsSession p = false →
          ∃ u, exec (.heldWrite p lib a v be t cyc) s = .next { s with chip := u } ∧
            u.sec = c.sec ∧ lost u [(k, v)] ∧ u.get SEC_NOSESS_CNT_COUNT = min (c.get SEC_NOSESS_CNT_COUNT + 1) (2 ^ 32 - 1) ∧
            u.get SEC_EVENTS_NO_SESSION = 1 ∧ rest u)) ∧
      (z / 2 ^ 30 = 1 →
        ∃ u, exec (.heldGroupDiscard p v t cyc) s = .next { s with chip := u } ∧
          u.heldOf p = [] ∧ result u = 5 ∧ u = { c with moment := t, regs := u.regs, due := u.due, sec := u.sec } ∧
          u.sec = { c.sec with held := u.sec.held } ∧ lost u l ∧ c.SameRegs u (libs ++ [portReg p SEC_AW_STATUS])) ∧
      (z / 2 ^ 30 = 2 → (c.fault.leases.getD 5 {}).stopped = false → c.groupOpen p = false →
        (c.holdsSession p = true → tagOk → c.sec.seqLast < seq →
          (∃ u, exec (.heldGroupCommit p v t cyc) s = .next { s with chip := u } ∧
            u = ((((c.at t).setHeld p []).awResult p 0).seqAccept seq).heldApply p cyc l) ∧
          (l = [] →
            ∃ u, exec (.heldGroupCommit p v t cyc) s = .next { s with chip := u } ∧
              result u = 0 ∧ u.sec.seqLast = seq ∧ u.get SEC_SEQ_LAST_SEQ = seq ∧ u.get SEC_FAIL_CNT_CONSEC = 0 ∧ u.heldOf p = [] ∧ rest u) ∧
          ((c.sec.sess.map (fun o => o.2.2.1)) = some false → l = [(IMG_PIN, w)] →
            ∃ u, exec (.heldGroupCommit p v t cyc) s = .next { s with chip := u } ∧
              result u = 0 ∧ u.sec.seqLast = seq ∧ u.heldOf p = [] ∧ u.image.pin = w.toNat % 8 ∧ u.get IMG_PIN_SLOT = w.toNat % 4 ∧
              rest u)) ∧
        (c.holdsSession p = true → ¬ tagOk ∨ seq ≤ c.sec.seqLast →
          ∃ u, exec (.heldGroupCommit p v t cyc) s = .next { s with chip := u } ∧
            result u = (if c.heldTag p = hmacSha256 c.sec.ctrlKey (c.heldMessage p) then 2 else 1) ∧ u.heldOf p = [] ∧
            u.get SEC_EVENTS_AUTH_FAIL = 1 ∧
            u.get SEC_FAIL_CNT_TOTAL = min (c.get SEC_FAIL_CNT_TOTAL + 1) (2 ^ 24 - 1) ∧ u.sec.seqLast = c.sec.seqLast ∧ rest u) ∧
        (c.holdsSession p = false →
          ∃ u, exec (.heldGroupCommit p v t cyc) s = .next { s with chip := u } ∧
            result u = 8 ∧ u.sec = c.sec ∧ u.get SEC_EVENTS_NO_SESSION = 1 ∧ rest u)) ∧
      (z / 2 ^ 29 = 4 →
        (c.groupOpen p = false →
          ∃ u, exec (.hostGroupOpen p v t cyc) s = .next { s with chip := u } ∧
            u.groupOpen p = true ∧ u.host p = { h with withAw := maskBit z 28, group := [] } ∧
            u = { c with moment := t, regs := u.regs, hosts := u.hosts } ∧
            c.SameRegs u [portReg p HOST_GROUP_STATUS, portReg p HOST_GROUP_COMMIT]) ∧
        (c.groupOpen p = true → bad (.hostGroupOpen p v t cyc))) ∧
      (z / 2 ^ 29 = 2 →
        (c.groupOpen p = true → h.withAw = false →
          ∃ u, exec (.hostGroupCommit p v t cyc) s = .next { s with chip := u } ∧
            u = (((c.at t).set (onPort p HOST_GROUP_COMMIT_WITH_AW) (z / 2 ^ 28 % 2)).groupEnd p 0).effects p cyc h.group) ∧
        (c.groupOpen p = true → h.withAw = false → h.group = [] →
          ∃ u, exec (.hostGroupCommit p v t cyc) s = .next { s with chip := u } ∧
            u.groupOpen p = false ∧ group u = 0 ∧ u.host p = h ∧
            u = { c with moment := t, regs := u.regs, hosts := u.hosts } ∧
            c.SameRegs u [portReg p HOST_GROUP_STATUS, portReg p HOST_GROUP_COMMIT]) ∧
        (c.groupOpen p = true → h.withAw = false → h.group = [(TIME_IRQ_EN, v), (TIME_IRQ_EN, w)] →
          ∃ u, exec (.hostGroupCommit p v t cyc) s = .next { s with chip := u } ∧
            u.groupOpen p = false ∧ group u = 0 ∧ u.host p = { h with group := [] } ∧ u.get TIME_IRQ_EN_EN = w.toNat % 2 ^ 15 ∧
            c.SameRegs u [portReg p HOST_GROUP_STATUS, portReg p HOST_GROUP_COMMIT, TIME_IRQ_EN] ∧ rest u) ∧
        (c.groupOpen p = false ∨ h.withAw = true → bad (.hostGroupCommit p v t cyc))) ∧
      (z / 2 ^ 29 = 1 →
        (c.groupOpen p = true →
          ∃ u, exec (.hostGroupDiscard p v t cyc) s = .next { s with chip := u } ∧
            u.groupOpen p = false ∧ group u = 2 ∧ u.host p = { h with withAw := false, group := [] } ∧
            u = { c with moment := t, regs := u.regs, hosts := u.hosts } ∧
            c.SameRegs u [portReg p HOST_GROUP_STATUS, portReg p HOST_GROUP_COMMIT]) ∧
        (c.groupOpen p = false → bad (.hostGroupDiscard p v t cyc))) ∧
      (c.groupOpen p = true → needsTag y v = false → hostExempt y = false → c.regOutside y = false →
        (h.group.length < 256 →
          ∃ u, exec (.registerWrite p b v t cyc) s = .next { s with chip := u } ∧
            u.host p = { h with group := h.group ++ [(y, v)] } ∧ u.get (onPort p HOST_GROUP_STATUS_COUNT) = h.group.length + 1 ∧
            u = { c with moment := t, regs := u.regs, hosts := u.hosts } ∧ c.SameRegs u [portReg p HOST_GROUP_STATUS]) ∧
        (256 ≤ h.group.length →
          ∃ u, exec (.registerWrite p b v t cyc) s = .next { s with chip := u } ∧
            u.groupOpen p = false ∧ group u = 1 ∧ u.host p = { h with withAw := false, group := [] } ∧
            u = { c with moment := t, regs := u.regs, hosts := u.hosts } ∧ c.SameRegs u [portReg p HOST_GROUP_STATUS]))

/-- Addressed while it answers, the target answers a read of each command of Table 14.6 with its content and a packet error
code: the status byte, the dies in service, those sidelined, the least lock density and the highest temperature of the
in-service dies, and the 32-byte health record, least significant bytes first, under its length. It does not acknowledge another
command code, nor anything at another address. Nothing else changes. -/
def Obligations.SmbusTarget : Prop :=
  ∀ (s : State) (addr : BitVec 7) (code : BitVec 8),
    let c := s.chip
    let here := c.resetLow = false ∧ c.get HOST_SMB_CFG_EN = 1 ∧ (c.hasCaptain = true ∨ c.get PKG_ROLE_NEG_DONE = 0) ∧
      addr.toNat = c.get HOST_SMB_CFG_ADDR
    let answers : Instr → (List Nat → Prop) → Prop := fun i f =>
      (here →
        ∃ u, exec i s = .next { s with chip := u } ∧
          u = { c with smbus := u.smbus, freeCnt := c.freeCnt + 1 } ∧ ∃ l pec, u.smbus = some (l ++ [pec]) ∧ f l) ∧
      (¬ here → exec i s = .next { s with chip := { c with smbus := none } })
    let status := 128 * c.get FAULT_STATUS_SOK + 64 * c.get FAULT_STATUS_NMI + 32 * c.get TIME_STATUS_VALID +
      16 * c.get TIME_STATUS_HOLDOVER + 8 * c.get FAULT_STATUS_COVER_ACTIVE + 4 * c.get FAULT_STATUS_UNSERVED +
      c.get SEC_STATUS_LIFECYCLE
    let hottest : List Nat → Prop := fun w =>
      c.inServiceDies ≠ [] → (∀ d ∈ c.inServiceDies, c.getI (CAL_T_NOW_TEMP d) ≤ signedOf 16 (natLE w)) ∧
        ∃ d ∈ c.inServiceDies, natLE w = c.get (CAL_T_NOW_TEMP d)
    answers (.smbStatusByte addr) (fun l => l = [status]) ∧
    answers (.smbInService addr) (fun l => l = [c.get PKG_DIES_IN_SERVICE]) ∧
    answers (.smbSidelined addr) (fun l => l = [c.get FAULT_STATUS_SIDELINED]) ∧
    answers (.smbLockDensity addr) (fun l => l.length = 1 ∧
      (c.inServiceDies ≠ [] → (∀ d ∈ c.inServiceDies, l.headD 0 ≤ c.density d) ∧ ∃ d ∈ c.inServiceDies, l = [c.density d])) ∧
    answers (.smbTemperature addr) (fun l => l.length = 2 ∧ hottest l) ∧
    answers (.smbHealthRecord addr) (fun l =>
      l.length = 33 ∧ l.headD 0 = 32 ∧ natLE (sub l 1 8) = c.get PKG_SERIAL_SERIAL ∧ natLE (sub l 9 4) = c.get IMG_VERSION_VERSION ∧
        sub l 13 6 = [c.get IMG_STATUS_SEC_VERSION, c.get IMG_STATUS_STATE, c.get PKG_DIES_IN_SERVICE,
          c.get FAULT_STATUS_SIDELINED, (c.reg FAULT_F0_EVENTS).toNat % 256, status] ∧
        hottest (sub l 19 2) ∧ natLE (sub l 21 4) = c.get FAULT_UPTIME_SEC ∧
        natLE (sub l 25 2) = min 65535 (c.get (FAULT_CNT_COUNT 1)) ∧
        natLE (sub l 27 2) = min 65535 (c.get (FAULT_CNT_COUNT 2)) ∧ natLE (sub l 29 4) = c.tick % 2 ^ 32) ∧
    (code.toNat ∉ [0, 1, 2, 3, 4, 16] →
      ∃ u, exec (.smbOtherCommand addr code) s = .next { s with chip := u } ∧
        u.smbus = none ∧ u = { c with smbus := none, freeCnt := u.freeCnt })

/-- One step takes the command at the front of the queue and carries it out on the package with the rest of the queue; on an empty
queue the package idles (the model's choice, log entry 1). -/
def Obligations.StepRunsFront : Prop :=
  ∀ (s : State) (i : Instr),
    step { s with pending := i :: s.pending } = exec i s ∧ step { s with pending := [] } = .next { s with pending := [] }

/-- If the package is one of the four variants, its fault log holds at most 512 entries, and its registers, memories and records
are in canonical form, then so it is after a step, whatever the command; and a step never ends in a fault or a refusal. -/
def Obligations.StepKeepsOrder : Prop :=
  ∀ s : State, Sys2Proof.Machine.Inv s →
    (∃ t, step s = .next t) ∧
      ∀ t, step s = .next t → Sys2Proof.Machine.Inv t ∧ t.chip.dieCount = s.chip.dieCount ∧ t.pending = s.pending.tail

/-- After reset the package is in good order, no command waits, RESET_N is low, no die serves, and every register reads its
reset value: the tick period code is 1, every tick number 0, each die shows its site. The die count of the package id is the
variant's (eight: the model's choice, log entry 7). -/
def Obligations.ResetState : Prop :=
  let c := State.reset.chip
  Sys2Proof.Machine.Inv State.reset ∧ State.reset.pending = [] ∧ c.resetLow = true ∧ c.started = false ∧ c.faultLog = [] ∧ c.lib = [] ∧
    c.get PKG_ID_PART = 0xB7A1 ∧ c.get PKG_ID_DIES = c.dieCount ∧ c.get PKG_ID_STEPPING = 0xA0 ∧ c.get PKG_DIES_IN_SERVICE = 0 ∧
    c.get PKG_TICK_CFG_PERIOD = 1 ∧ c.get PKG_TICK_NUM_TICK = 0 ∧ c.get PKG_ROLE_NEG_DONE = 0 ∧ c.get HOST_SMB_CFG_ADDR = 0x5A ∧
    ∀ d : Fin 8, c.get (DIE_STATUS_SITE d) = d ∧ c.get (DIE_STATUS_SERVICE d) = svcStarting ∧ (c.die d).inReset = true

/-- The windows have one layout: die d's block at 0x100_0000 + d times 4 MiB, its library region at d times 32 MiB, whatever the
die count. A read or a write of one DW there, of a die beyond the variant's count, is a decode error: an Unsupported Request
with HOST_EVENTS.DECODE, reported in AER; nothing else changes. -/
def Obligations.AbsentDieAccess : Prop :=
  ∀ (s : State) (p : Fin 2) (lib perr : Bool) (a : BitVec 28) (be lbe : BitVec 4) (v : Word) (m t cyc : Nat),
    let c := s.chip
    let h := c.host p
    let d := if lib then a.toNat / 2 ^ 25 else (a.toNat - 0x1000000) / 2 ^ 22
    let gone : Chip → Prop := fun u =>
      u.get HOST_EVENTS_DECODE = 1 ∧ u.get (HOST_UR_CNT_COUNT p) = min (c.get (HOST_UR_CNT_COUNT p) + 1) (2 ^ 32 - 1) ∧
        (∀ q : Fin 2, q ≠ p → u.host q = c.host q) ∧ c.SameRegs u [HOST_UR_CNT p, HOST_EVENTS] ∧
        u = { c with regs := u.regs, due := u.due, hosts := u.hosts, moment := t }
    c.portAvail p = true → c.get (HOST_STATUS_LINK p) = 1 → h.flr = false → c.memOn p = true → c.dieCount ≤ d →
      (lib = false → 0x1000000 ≤ a.toNat) →
      (∃ u, exec (.pcieMemRead p lib a 0 be lbe 0 perr t) s = .next { s with chip := u } ∧
        gone u ∧ u.host p = { h.report aerUnsupported with cplStatus := 1, cpl := [] }) ∧
      ∃ u, exec (.pcieMemWrite p lib a [v] be lbe 0 m t cyc) s = .next { s with chip := u } ∧
        gone u ∧ u.host p = h.report aerUnsupported

/-- While the arbiter of a lease (the vice-captain, for the flash ports the die at site 0 or 1) is not in service (before S0,
where no die is, while its block is not open: the model's choice, log entry 60), its holder, not itself lost or sidelined,
neither stops using the lease nor lets it lapse, however long ago the last renewal was. With an arbiter the time limits hold:
after 45 us unrenewed the holder stops, and after 50 us it holds the lease no longer. -/
def Obligations.SelfHolding : Prop :=
  ∀ (s : State) (k : Fin 6) (t : Nat),
    let c := s.chip
    let l := c.fault.leases.getD k {}
    let up := c.upTicks * c.tickNs + t
    let serves : Nat → Prop := fun d => if c.started = true then c.inService d = true else c.open d = true
    let arbiter : Prop := if k.val = 3 then serves 0 else if k.val = 4 then serves 1
      else c.get PKG_ROLE_VICE_VALID = 1 ∧ serves (c.get PKG_ROLE_VICE)
    l.held = true →
      (¬ arbiter → c.isLost l.holder = false → c.get (DIE_STATUS_SERVICE l.holder) ≠ svcSidelined →
        exec (.leaseHolderStop k t) s = .next { s with chip := { c with moment := t } } ∧
        exec (.leaseLapse k t) s = .next { s with chip := { c with moment := t } }) ∧
      (arbiter →
        (l.renewed + 45000 ≤ up →
          ∃ u, exec (.leaseHolderStop k t) s = .next { s with chip := u } ∧ (u.fault.leases.getD k {}).stopped = true) ∧
        (l.renewed + 50000 ≤ up →
          ∃ u, exec (.leaseLapse k t) s = .next { s with chip := u } ∧
            ((u.fault.leases.getD k {}).held = true → (u.fault.leases.getD k {}).holder = c.get PKG_ROLE_VICE)))

/-- EFE e of die d has its backup port on die (d + 1 + (e mod (n - 1))) mod n, another die; for each index e every die is the
backup of exactly one home die; the offsets are those of Table 1.1, as is the number of EFEs that can be protected, two per
backup die. When covering starts, a port that begins to cover is the one the formula names. The wiring itself is the
integrator's. -/
def Obligations.BackupPorts : Prop :=
  (∀ n ∈ [2, 4, 6, 8], ∀ e < 8,
    (∀ d < n, backupDie n d e = (d + 1 + e % (n - 1)) % n ∧ backupDie n d e ≠ d ∧
      (backupDie n d e + n - d) % n = ((if n = 2 then [1, 1, 1, 1, 1, 1, 1, 1] else if n = 4 then [1, 2, 3, 1, 2, 3, 1, 2]
        else if n = 6 then [1, 2, 3, 4, 5, 1, 2, 3] else [1, 2, 3, 4, 5, 6, 7, 1]).getD e 0) ∧
      min 8 (2 * (n - 1)) = (if n = 2 then 2 else if n = 4 then 6 else 8)) ∧
    ∀ b < n, ∃ d < n, backupDie n d e = b ∧ ∀ d' < n, backupDie n d' e = b → d' = d) ∧
  ∀ (s : State) (b e : Fin 8), ∀ h a, s.chip.fault.coverAt = some (h, a) → a ≤ s.chip.tick + 1 →
    ∃ u, exec .coverStart s = .next { s with chip := u } ∧
      (s.chip.get (ELINK_STATUS_COVERING b (8 + e.val)) = 0 → u.get (ELINK_STATUS_COVERING b (8 + e.val)) = 1 →
        b.val = backupDie s.chip.dieCount h e ∧ s.chip.isProt h e = true)
end

