-- ==== Sys2Proof/Laws/Tab.lean ====
section
/-!
SUPPORT. Laws/Tab.lean: a sparse table in canonical form: what a read gives after a write, and that every operation on
tables keeps the form.
-/

namespace Sys2Proof.Machine

section
variable {α : Type} {dflt : Nat → α}

/-- A key below every listed key reads its default. -/
theorem tabGet_below {t : Tab α} {k : Nat} (h : ∀ p ∈ t, k < p.1) : tabGet dflt t k = dflt k := by
  induction t with
  | nil => rfl
  | cons p r ih =>
    have hp := h p (List.mem_cons_self ..)
    simp only [tabGet]
    rw [if_neg (Nat.ne_of_lt hp)]
    exact ih fun q hq => h q (List.mem_cons_of_mem _ hq)

variable [DecidableEq α]

theorem tabWf_cons {a : Nat} {v : α} {r : Tab α} :
    tabWf dflt ((a, v) :: r) = true ↔ v ≠ dflt a ∧ (∀ p ∈ r, a < p.1) ∧ tabWf dflt r = true := by
  simp [tabWf, List.all_eq_true, and_assoc]

omit [DecidableEq α] in
theorem tabGet_ins_same (t : Tab α) (k : Nat) (v : α) : tabGet dflt (tabIns t k v) k = v := by
  induction t with
  | nil => simp [tabIns, tabGet]
  | cons p r ih =>
    simp only [tabIns]
    split
    · simp [tabGet]
    · split
      · simp [tabGet]
      · next h => simp [tabGet, h, ih]

omit [DecidableEq α] in
theorem tabGet_ins_ne (t : Tab α) {k j : Nat} (v : α) (hj : j ≠ k) :
    tabGet dflt (tabIns t k v) j = tabGet dflt t j := by
  induction t with
  | nil => simp [tabIns, tabGet, hj]
  | cons p r ih =>
    simp only [tabIns]
    split
    · simp [tabGet, hj]
    · split
      · next h => subst h; simp [tabGet, hj]
      · simp [tabGet, ih]

omit [DecidableEq α] in
theorem tabGet_drop_same (t : Tab α) (k : Nat) :
    tabGet dflt (t.filter (fun p => decide (p.1 ≠ k))) k = dflt k := by
  induction t with
  | nil => rfl
  | cons p r ih =>
    by_cases h : p.1 = k
    · simpa [h] using ih
    · have h' : k ≠ p.1 := fun e => h e.symm
      simpa [List.filter_cons, h, tabGet, h'] using ih

omit [DecidableEq α] in
theorem tabGet_drop_ne (t : Tab α) {k j : Nat} (hj : j ≠ k) :
    tabGet dflt (t.filter (fun p => decide (p.1 ≠ k))) j = tabGet dflt t j := by
  induction t with
  | nil => rfl
  | cons p r ih =>
    by_cases h : p.1 = k
    · have h' : j ≠ p.1 := fun e => hj (e.trans h)
      simp only [tabGet, if_neg h']
      simpa [h] using ih
    · by_cases h' : j = p.1 <;> simpa [List.filter_cons, h, tabGet, h'] using ih

theorem tabPut_eq (t : Tab α) (k : Nat) (v : α) :
    tabPut dflt t k v = if v = dflt k then t.filter (fun p => decide (p.1 ≠ k)) else tabIns t k v := by
  cases t <;> rfl

/-- A read after a write to the same key gives the value written. -/
theorem tabGet_put_same (t : Tab α) (k : Nat) (v : α) : tabGet dflt (tabPut dflt t k v) k = v := by
  rw [tabPut_eq]
  split
  · next h => rw [tabGet_drop_same, h]
  · exact tabGet_ins_same t k v

/-- A write leaves every other key alone. -/
theorem tabGet_put_ne (t : Tab α) {k j : Nat} (v : α) (hj : j ≠ k) :
    tabGet dflt (tabPut dflt t k v) j = tabGet dflt t j := by
  rw [tabPut_eq]
  split
  · exact tabGet_drop_ne t hj
  · exact tabGet_ins_ne t v hj

omit [DecidableEq α] in
/-- A key listed after an insertion is an old one or the new one. -/
theorem tabIns_keys {t : Tab α} {k : Nat} {v : α} {p : Nat × α} (h : p ∈ tabIns t k v) : p.1 = k ∨ p ∈ t := by
  induction t with
  | nil =>
    simp only [tabIns, List.mem_singleton] at h
    exact .inl (by rw [h])
  | cons q r ih =>
    simp only [tabIns] at h
    split at h
    · rcases List.mem_cons.1 h with rfl | h
      · exact .inl rfl
      · exact .inr h
    · split at h
      · rcases List.mem_cons.1 h with rfl | h
        · exact .inl rfl
        · exact .inr (List.mem_cons_of_mem _ h)
      · rcases List.mem_cons.1 h with rfl | h
        · exact .inr (List.mem_cons_self ..)
        · exact (ih h).imp id (List.mem_cons_of_mem _)

theorem tabIns_wf {t : Tab α} (h : tabWf dflt t = true) {k : Nat} {v : α} (hv : v ≠ dflt k) :
    tabWf dflt (tabIns t k v) = true := by
  induction t with
  | nil => simp [tabIns, tabWf, hv]
  | cons p r ih =>
    obtain ⟨a, w⟩ := p
    obtain ⟨h0, hr, hw⟩ := tabWf_cons.1 h
    simp only [tabIns]
    split
    · next h1 =>
      refine tabWf_cons.2 ⟨hv, fun p hp => ?_, h⟩
      rcases List.mem_cons.1 hp with rfl | hp
      · exact h1
      · exact Nat.lt_trans h1 (hr p hp)
    · split
      · next h2 =>
        subst h2
        exact tabWf_cons.2 ⟨hv, hr, hw⟩
      · refine tabWf_cons.2 ⟨h0, fun p hp => ?_, ih hw⟩
        rcases tabIns_keys hp with he | hp
        · omega
        · exact hr p hp

/-- Leaving entries out keeps the canonical form. -/
theorem tabFilter_wf {t : Tab α} (h : tabWf dflt t = true) (f : Nat × α → Bool) : tabWf dflt (t.filter f) = true := by
  induction t with
  | nil => rfl
  | cons p r ih =>
    obtain ⟨a, w⟩ := p
    obtain ⟨h0, hr, hw⟩ := tabWf_cons.1 h
    simp only [List.filter_cons]
    split
    · exact tabWf_cons.2 ⟨h0, fun p hp => hr p (List.mem_filter.1 hp).1, ih hw⟩
    · exact ih hw

/-- A write keeps the canonical form. -/
theorem tabPut_wf {t : Tab α} (h : tabWf dflt t = true) (k : Nat) (v : α) : tabWf dflt (tabPut dflt t k v) = true := by
  rw [tabPut_eq]
  split
  · exact tabFilter_wf h _
  · next hv => exact tabIns_wf h hv

theorem tabClear_wf {t : Tab α} (h : tabWf dflt t = true) (lo hi : Nat) : tabWf dflt (tabClear t lo hi) = true :=
  tabFilter_wf h _

omit [DecidableEq α] in
/-- Clearing leaves the keys outside the range as they were. -/
theorem tabGet_clear_out {t : Tab α} {lo hi k : Nat} (hk : k < lo ∨ hi ≤ k) :
    tabGet dflt (tabClear t lo hi) k = tabGet dflt t k := by
  induction t with
  | nil => rfl
  | cons p r ih =>
    obtain ⟨a, w⟩ := p
    by_cases hp : lo ≤ a ∧ a < hi
    · have hne : k ≠ a := by omega
      have hc : tabClear ((a, w) :: r) lo hi = tabClear r lo hi := by simp [tabClear, hp.1, hp.2]
      rw [hc, ih]
      simp [tabGet, hne]
    · have hc : tabClear ((a, w) :: r) lo hi = (a, w) :: tabClear r lo hi := by
        have : ¬ (lo ≤ a ∧ a < hi) := hp
        simp only [tabClear, List.filter_cons]
        rw [if_pos (by simp; omega)]
      rw [hc]
      simp only [tabGet, ih]

/-- Changing every listed value keeps the canonical form. -/
theorem tabMap_wf {t : Tab α} (h : tabWf dflt t = true) (f : Nat → α → α) : tabWf dflt (tabMap dflt f t) = true := by
  induction t with
  | nil => rfl
  | cons p r ih =>
    obtain ⟨a, w⟩ := p
    obtain ⟨-, hr, hw⟩ := tabWf_cons.1 h
    have ih := ih hw
    simp only [tabMap, List.map_cons, List.filter_cons] at ih ⊢
    split
    · next hv =>
      refine tabWf_cons.2 ⟨by simpa using hv, fun p hp => ?_, ih⟩
      obtain ⟨q, hq, rfl⟩ := List.mem_map.1 (List.mem_filter.1 hp).1
      exact hr q hq
    · exact ih

/-- What a key reads after every listed value has changed: the changed value, where `f` leaves the default alone. -/
theorem tabGet_map {t : Tab α} (h : tabWf dflt t = true) {f : Nat → α → α} {k : Nat} (hf : f k (dflt k) = dflt k) :
    tabGet dflt (tabMap dflt f t) k = f k (tabGet dflt t k) := by
  induction t with
  | nil => exact hf.symm
  | cons p r ih =>
    obtain ⟨a, w⟩ := p
    obtain ⟨-, hr, hw⟩ := tabWf_cons.1 h
    have ih := ih hw
    simp only [tabMap, List.map_cons, List.filter_cons] at ih ⊢
    by_cases hk : k = a
    · subst hk
      split
      · simp [tabGet]
      · next hv =>
        have hv : f k w = dflt k := by simpa using hv
        rw [ih, tabGet_below hr, hf]
        simp only [tabGet, if_pos, hv]
    · split
      · simp only [tabGet, if_neg hk, ih]
      · simp only [tabGet, if_neg hk, ih]

end

end Sys2Proof.Machine
end

