-- ==== Sys2Proof/Laws/Ok/Base.lean ====
section
/-!
SUPPORT. Laws/Ok/Base.lean: a package in good order, part by part, and the shapes from which the operations are built.
-/

namespace Sys2Proof.Machine

section
variable {n : Nat} {s : Chip}

theorem Chip.Ok.count (h : s.Ok n) : s.dieCount = n := h.1
theorem Chip.Ok.log (h : s.Ok n) : s.faultLog.length ≤ 512 := h.2.1
theorem Chip.Ok.regs (h : s.Ok n) : tabWf resetOf s.regs = true := h.2.2.1.1
theorem Chip.Ok.shadow (h : s.Ok n) : tabWf (fun _ => none) s.shadow = true := h.2.2.1.2.1
theorem Chip.Ok.staged (h : s.Ok n) : tabWf (fun _ => none) s.staged = true := h.2.2.1.2.2
theorem Chip.Ok.lib (h : s.Ok n) : tabWf libBlank s.lib = true := h.2.2.2.1.1
theorem Chip.Ok.poison (h : s.Ok n) : tabWf (fun _ => false) s.poison = true := h.2.2.2.1.2.1
theorem Chip.Ok.libLive (h : s.Ok n) : tabWf (fun _ => none) s.libLive = true := h.2.2.2.1.2.2.1
theorem Chip.Ok.libStaged (h : s.Ok n) : tabWf (fun _ => none) s.libStaged = true := h.2.2.2.1.2.2.2.1
theorem Chip.Ok.volStage (h : s.Ok n) : tabWf (fun _ => 0) s.volStage = true := h.2.2.2.1.2.2.2.2
theorem Chip.Ok.dies (h : s.Ok n) : tabWf (fun _ => {}) s.dies = true := h.2.2.2.2.1
theorem Chip.Ok.cals (h : s.Ok n) : tabWf (fun _ => {}) s.cals = true := h.2.2.2.2.2.1
theorem Chip.Ok.slots (h : s.Ok n) : tabWf (fun _ => {}) s.slots = true := h.2.2.2.2.2.2.1
theorem Chip.Ok.ports (h : s.Ok n) : tabWf (fun _ => {}) s.ports = true := h.2.2.2.2.2.2.2.1
theorem Chip.Ok.vols (h : s.Ok n) : tabWf (fun _ => {}) s.vols = true := h.2.2.2.2.2.2.2.2.1
theorem Chip.Ok.rets (h : s.Ok n) : tabWf (fun _ => {}) s.rets = true := h.2.2.2.2.2.2.2.2.2.1
theorem Chip.Ok.hosts (h : s.Ok n) : tabWf (fun _ => {}) s.hosts = true := h.2.2.2.2.2.2.2.2.2.2

/-- The parts of good order, to be shown of a package one by one. -/
theorem Chip.Ok.of (h0 : s.dieCount = n) (h1 : s.faultLog.length ≤ 512) (h2 : tabWf resetOf s.regs = true)
    (h3 : tabWf (fun _ => none) s.shadow = true) (h4 : tabWf (fun _ => none) s.staged = true)
    (h5 : tabWf libBlank s.lib = true) (h6 : tabWf (fun _ => false) s.poison = true)
    (h7 : tabWf (fun _ => none) s.libLive = true) (h8 : tabWf (fun _ => none) s.libStaged = true)
    (h9 : tabWf (fun _ => 0) s.volStage = true) (ha : tabWf (fun _ => {}) s.dies = true)
    (hb : tabWf (fun _ => {}) s.cals = true) (hc : tabWf (fun _ => {}) s.slots = true)
    (hd : tabWf (fun _ => {}) s.ports = true) (he : tabWf (fun _ => {}) s.vols = true)
    (hf : tabWf (fun _ => {}) s.rets = true) (hg : tabWf (fun _ => {}) s.hosts = true) : s.Ok n :=
  ⟨h0, h1, ⟨h2, h3, h4⟩, ⟨h5, h6, h7, h8, h9⟩, ha, hb, hc, hd, he, hf, hg⟩

theorem Chip.ite_ok {c : Prop} [Decidable c] {a b : Chip} (ha : a.Ok n) (hb : b.Ok n) : (if c then a else b).Ok n := by
  split <;> assumption

theorem Chip.ite_fst_ok {α : Type} {c : Prop} [Decidable c] {x y : Chip × α} (hx : x.1.Ok n) (hy : y.1.Ok n) :
    (if c then x else y).1.Ok n := by
  split <;> assumption

theorem Chip.foldl_fst_ok {α β : Type} {l : List α} {f : Chip × β → α → Chip × β} {x : Chip × β} (hx : x.1.Ok n)
    (hf : ∀ (y : Chip × β) (a : α), y.1.Ok n → (f y a).1.Ok n) : (l.foldl f x).1.Ok n := by
  induction l generalizing x with
  | nil => exact hx
  | cons a r ih => exact ih (hf x a hx)

/-- The package of a pair that an operation answers. -/
theorem Chip.fst_ok {α : Type} {x : Chip × α} {t : Chip} {e : α} (he : x = (t, e)) (h : x.1.Ok n) : t.Ok n := by
  rw [he] at h
  exact h

theorem Chip.foldl_ok {α : Type} {l : List α} {f : Chip → α → Chip} (h : s.Ok n)
    (hf : ∀ t a, Chip.Ok n t → (f t a).Ok n) : (l.foldl f s).Ok n := by
  induction l generalizing s with
  | nil => exact h
  | cons a r ih => exact ih (hf s a h)

theorem Chip.each_ok {α : Type} {l : List α} {f : α → Chip → Chip} (h : s.Ok n)
    (hf : ∀ k t, Chip.Ok n t → (f k t).Ok n) : (s.each l f).Ok n := foldl_ok h fun t k => hf k t

end

theorem tabWf_nil {α : Type} [DecidableEq α] (dflt : Nat → α) : tabWf dflt [] = true := rfl

theorem emptyLog : ([] : List (Nat × Nat × Nat)).length ≤ 512 := Nat.zero_le _

end Sys2Proof.Machine
end

