-- ==== Sys2Proof/Laws/Ok/Ops.lean ====
section
/-!
SUPPORT. Laws/Ok/Ops.lean: every operation of Machine/Ops.lean keeps a package in good order.
-/

namespace Sys2Proof.Machine

theorem Chip.setReg_ok {N : Nat} {s : Chip} (hk : s.Ok N) (a : Nat) (v : Word) : (s.setReg a v).Ok N := by
  unfold Chip.setReg
  repeat'
    first
    | with_reducible assumption | dsimp only | with_reducible apply tabPut_wf | with_reducible apply tabClear_wf
    | with_reducible apply tabFilter_wf | with_reducible apply tabMap_wf | with_reducible apply tabWf_nil
    | with_reducible apply emptyLog | with_reducible apply Chip.Ok.count | with_reducible apply Chip.Ok.log
    | with_reducible apply Chip.Ok.regs | with_reducible apply Chip.Ok.shadow | with_reducible apply Chip.Ok.staged
    | with_reducible apply Chip.Ok.lib | with_reducible apply Chip.Ok.poison | with_reducible apply Chip.Ok.libLive
    | with_reducible apply Chip.Ok.libStaged | with_reducible apply Chip.Ok.volStage
    | with_reducible apply Chip.Ok.dies | with_reducible apply Chip.Ok.cals | with_reducible apply Chip.Ok.slots
    | with_reducible apply Chip.Ok.ports | with_reducible apply Chip.Ok.vols | with_reducible apply Chip.Ok.rets
    | with_reducible apply Chip.Ok.hosts | with_reducible apply Chip.Ok.of

theorem Chip.set_ok {N : Nat} {s : Chip} (hk : s.Ok N) (f : Fld) (v : Nat) : (s.set f v).Ok N := by
  unfold Chip.set
  extract_lets +onlyGivenNames x
  clear_value x
  repeat'
    first
    | with_reducible assumption | with_reducible apply Chip.setReg_ok | with_reducible apply Chip.ite_ok

theorem Chip.setI_ok {N : Nat} {s : Chip} (hk : s.Ok N) (f : Fld) (v : Int) : (s.setI f v).Ok N := by
  unfold Chip.setI
  repeat'
    first
    | with_reducible assumption | with_reducible apply Chip.set_ok

theorem Chip.setB_ok {N : Nat} {s : Chip} (hk : s.Ok N) (f : Fld) (b : Bool) : (s.setB f b).Ok N := by
  unfold Chip.setB
  repeat'
    first
    | with_reducible assumption | with_reducible apply Chip.set_ok | with_reducible apply Chip.ite_ok

theorem Chip.bump_ok {N : Nat} {s : Chip} (hk : s.Ok N) (f : Fld) (k : Nat) : (s.bump f k).Ok N := by
  unfold Chip.bump
  repeat'
    first
    | with_reducible assumption | with_reducible apply Chip.set_ok

theorem Chip.clearDie_ok {N : Nat} {s : Chip} (hk : s.Ok N) (d : Nat) : (s.clearDie d).Ok N := by
  unfold Chip.clearDie
  repeat'
    first
    | with_reducible assumption | dsimp only | with_reducible apply tabPut_wf | with_reducible apply tabClear_wf
    | with_reducible apply tabFilter_wf | with_reducible apply tabMap_wf | with_reducible apply tabWf_nil
    | with_reducible apply emptyLog | with_reducible apply Chip.Ok.count | with_reducible apply Chip.Ok.log
    | with_reducible apply Chip.Ok.regs | with_reducible apply Chip.Ok.shadow | with_reducible apply Chip.Ok.staged
    | with_reducible apply Chip.Ok.lib | with_reducible apply Chip.Ok.poison | with_reducible apply Chip.Ok.libLive
    | with_reducible apply Chip.Ok.libStaged | with_reducible apply Chip.Ok.volStage
    | with_reducible apply Chip.Ok.dies | with_reducible apply Chip.Ok.cals | with_reducible apply Chip.Ok.slots
    | with_reducible apply Chip.Ok.ports | with_reducible apply Chip.Ok.vols | with_reducible apply Chip.Ok.rets
    | with_reducible apply Chip.Ok.hosts | with_reducible apply Chip.Ok.of

theorem Chip.clearRegs_ok {N : Nat} {s : Chip} (hk : s.Ok N) (lo hi : Nat) : (s.clearRegs lo hi).Ok N := by
  unfold Chip.clearRegs
  repeat'
    first
    | with_reducible assumption | dsimp only | with_reducible apply tabPut_wf | with_reducible apply tabClear_wf
    | with_reducible apply tabFilter_wf | with_reducible apply tabMap_wf | with_reducible apply tabWf_nil
    | with_reducible apply emptyLog | with_reducible apply Chip.Ok.count | with_reducible apply Chip.Ok.log
    | with_reducible apply Chip.Ok.regs | with_reducible apply Chip.Ok.shadow | with_reducible apply Chip.Ok.staged
    | with_reducible apply Chip.Ok.lib | with_reducible apply Chip.Ok.poison | with_reducible apply Chip.Ok.libLive
    | with_reducible apply Chip.Ok.libStaged | with_reducible apply Chip.Ok.volStage
    | with_reducible apply Chip.Ok.dies | with_reducible apply Chip.Ok.cals | with_reducible apply Chip.Ok.slots
    | with_reducible apply Chip.Ok.ports | with_reducible apply Chip.Ok.vols | with_reducible apply Chip.Ok.rets
    | with_reducible apply Chip.Ok.hosts | with_reducible apply Chip.Ok.of

theorem Chip.setShadow_ok {N : Nat} {s : Chip} (hk : s.Ok N)
    (a : Nat) (v : Option Word) :
    (s.setShadow a v).Ok N := by
  unfold Chip.setShadow
  repeat'
    first
    | with_reducible assumption | intro _ _ _ _ | intro _ _ _ | dsimp only | with_reducible apply tabPut_wf
    | with_reducible apply tabClear_wf | with_reducible apply tabFilter_wf | with_reducible apply tabMap_wf
    | with_reducible apply tabWf_nil | with_reducible apply emptyLog | with_reducible apply Chip.Ok.count
    | with_reducible apply Chip.Ok.log | with_reducible apply Chip.Ok.regs | with_reducible apply Chip.Ok.shadow
    | with_reducible apply Chip.Ok.staged | with_reducible apply Chip.Ok.lib | with_reducible apply Chip.Ok.poison
    | with_reducible apply Chip.Ok.libLive | with_reducible apply Chip.Ok.libStaged
    | with_reducible apply Chip.Ok.volStage | with_reducible apply Chip.Ok.dies | with_reducible apply Chip.Ok.cals
    | with_reducible apply Chip.Ok.slots | with_reducible apply Chip.Ok.ports | with_reducible apply Chip.Ok.vols
    | with_reducible apply Chip.Ok.rets | with_reducible apply Chip.Ok.hosts | with_reducible apply Chip.Ok.of

theorem Chip.setStaged_ok {N : Nat} {s : Chip} (hk : s.Ok N)
    (a : Nat) (v : Option Word) :
    (s.setStaged a v).Ok N := by
  unfold Chip.setStaged
  repeat'
    first
    | with_reducible assumption | intro _ _ _ _ | intro _ _ _ | dsimp only | with_reducible apply tabPut_wf
    | with_reducible apply tabClear_wf | with_reducible apply tabFilter_wf | with_reducible apply tabMap_wf
    | with_reducible apply tabWf_nil | with_reducible apply emptyLog | with_reducible apply Chip.Ok.count
    | with_reducible apply Chip.Ok.log | with_reducible apply Chip.Ok.regs | with_reducible apply Chip.Ok.shadow
    | with_reducible apply Chip.Ok.staged | with_reducible apply Chip.Ok.lib | with_reducible apply Chip.Ok.poison
    | with_reducible apply Chip.Ok.libLive | with_reducible apply Chip.Ok.libStaged
    | with_reducible apply Chip.Ok.volStage | with_reducible apply Chip.Ok.dies | with_reducible apply Chip.Ok.cals
    | with_reducible apply Chip.Ok.slots | with_reducible apply Chip.Ok.ports | with_reducible apply Chip.Ok.vols
    | with_reducible apply Chip.Ok.rets | with_reducible apply Chip.Ok.hosts | with_reducible apply Chip.Ok.of

theorem Chip.dropStaged_ok {N : Nat} {s : Chip} (hk : s.Ok N) (lo hi : Nat) : (s.dropStaged lo hi).Ok N := by
  unfold Chip.dropStaged
  repeat'
    first
    | with_reducible assumption | dsimp only | with_reducible apply tabPut_wf | with_reducible apply tabClear_wf
    | with_reducible apply tabFilter_wf | with_reducible apply tabMap_wf | with_reducible apply tabWf_nil
    | with_reducible apply emptyLog | with_reducible apply Chip.Ok.count | with_reducible apply Chip.Ok.log
    | with_reducible apply Chip.Ok.regs | with_reducible apply Chip.Ok.shadow | with_reducible apply Chip.Ok.staged
    | with_reducible apply Chip.Ok.lib | with_reducible apply Chip.Ok.poison | with_reducible apply Chip.Ok.libLive
    | with_reducible apply Chip.Ok.libStaged | with_reducible apply Chip.Ok.volStage
    | with_reducible apply Chip.Ok.dies | with_reducible apply Chip.Ok.cals | with_reducible apply Chip.Ok.slots
    | with_reducible apply Chip.Ok.ports | with_reducible apply Chip.Ok.vols | with_reducible apply Chip.Ok.rets
    | with_reducible apply Chip.Ok.hosts | with_reducible apply Chip.Ok.of

theorem Chip.loadStaged_ok {N : Nat} {s : Chip} (hk : s.Ok N) (lo hi : Nat) : (s.loadStaged lo hi).Ok N := by
  unfold Chip.loadStaged
  repeat'
    first
    | with_reducible assumption | with_reducible apply Chip.setReg_ok | with_reducible apply Chip.dropStaged_ok
    | with_reducible apply Chip.foldl_ok | intro _ _ _ _ | intro _ _ _ | dsimp only

theorem Chip.setBoth_ok {N : Nat} {s : Chip} (hk : s.Ok N) (f : Fld) (v : Nat) : (s.setBoth f v).Ok N := by
  unfold Chip.setBoth
  repeat'
    first
    | with_reducible assumption | with_reducible apply Chip.set_ok

theorem Chip.setDie_ok {N : Nat} {s : Chip} (hk : s.Ok N) (d : Nat) (r : DieRec) : (s.setDie d r).Ok N := by
  unfold Chip.setDie
  repeat'
    first
    | with_reducible assumption | intro _ _ _ _ | intro _ _ _ | dsimp only | with_reducible apply tabPut_wf
    | with_reducible apply tabClear_wf | with_reducible apply tabFilter_wf | with_reducible apply tabMap_wf
    | with_reducible apply tabWf_nil | with_reducible apply emptyLog | with_reducible apply Chip.Ok.count
    | with_reducible apply Chip.Ok.log | with_reducible apply Chip.Ok.regs | with_reducible apply Chip.Ok.shadow
    | with_reducible apply Chip.Ok.staged | with_reducible apply Chip.Ok.lib | with_reducible apply Chip.Ok.poison
    | with_reducible apply Chip.Ok.libLive | with_reducible apply Chip.Ok.libStaged
    | with_reducible apply Chip.Ok.volStage | with_reducible apply Chip.Ok.dies | with_reducible apply Chip.Ok.cals
    | with_reducible apply Chip.Ok.slots | with_reducible apply Chip.Ok.ports | with_reducible apply Chip.Ok.vols
    | with_reducible apply Chip.Ok.rets | with_reducible apply Chip.Ok.hosts | with_reducible apply Chip.Ok.of

theorem Chip.modDie_ok {N : Nat} {s : Chip} (hk : s.Ok N)
    (d : Nat) (f : DieRec → DieRec) :
    (s.modDie d f).Ok N := by
  unfold Chip.modDie
  repeat'
    first
    | with_reducible assumption | with_reducible apply Chip.setDie_ok

theorem Chip.setRet_ok {N : Nat} {s : Chip} (hk : s.Ok N) (d : Nat) (r : RetRec) : (s.setRet d r).Ok N := by
  unfold Chip.setRet
  repeat'
    first
    | with_reducible assumption | intro _ _ _ _ | intro _ _ _ | dsimp only | with_reducible apply tabPut_wf
    | with_reducible apply tabClear_wf | with_reducible apply tabFilter_wf | with_reducible apply tabMap_wf
    | with_reducible apply tabWf_nil | with_reducible apply emptyLog | with_reducible apply Chip.Ok.count
    | with_reducible apply Chip.Ok.log | with_reducible apply Chip.Ok.regs | with_reducible apply Chip.Ok.shadow
    | with_reducible apply Chip.Ok.staged | with_reducible apply Chip.Ok.lib | with_reducible apply Chip.Ok.poison
    | with_reducible apply Chip.Ok.libLive | with_reducible apply Chip.Ok.libStaged
    | with_reducible apply Chip.Ok.volStage | with_reducible apply Chip.Ok.dies | with_reducible apply Chip.Ok.cals
    | with_reducible apply Chip.Ok.slots | with_reducible apply Chip.Ok.ports | with_reducible apply Chip.Ok.vols
    | with_reducible apply Chip.Ok.rets | with_reducible apply Chip.Ok.hosts | with_reducible apply Chip.Ok.of

theorem Chip.modRet_ok {N : Nat} {s : Chip} (hk : s.Ok N)
    (d : Nat) (f : RetRec → RetRec) :
    (s.modRet d f).Ok N := by
  unfold Chip.modRet
  repeat'
    first
    | with_reducible assumption | with_reducible apply Chip.setRet_ok

theorem Chip.setService_ok {N : Nat} {s : Chip} (hk : s.Ok N) (d c : Nat) : (s.setService d c).Ok N := by
  unfold Chip.setService
  extract_lets +onlyGivenNames m
  clear_value m
  extract_lets +onlyGivenNames t
  have ht : Chip.Ok N t := by
    dsimp only [t]
    repeat'
      first
      | with_reducible assumption | with_reducible apply Chip.set_ok | with_reducible apply Chip.ite_ok
      | dsimp only
  clear_value t
  repeat'
    first
    | with_reducible assumption | with_reducible apply Chip.setB_ok | with_reducible apply Chip.ite_ok


theorem Chip.at_ok {N : Nat} {s : Chip} (hk : s.Ok N) (t : Nat) : (s.at t).Ok N := by
  unfold Chip.at
  repeat'
    first
    | with_reducible assumption | dsimp only | with_reducible apply tabPut_wf | with_reducible apply tabClear_wf
    | with_reducible apply tabFilter_wf | with_reducible apply tabMap_wf | with_reducible apply tabWf_nil
    | with_reducible apply emptyLog | with_reducible apply Chip.Ok.count | with_reducible apply Chip.Ok.log
    | with_reducible apply Chip.Ok.regs | with_reducible apply Chip.Ok.shadow | with_reducible apply Chip.Ok.staged
    | with_reducible apply Chip.Ok.lib | with_reducible apply Chip.Ok.poison | with_reducible apply Chip.Ok.libLive
    | with_reducible apply Chip.Ok.libStaged | with_reducible apply Chip.Ok.volStage
    | with_reducible apply Chip.Ok.dies | with_reducible apply Chip.Ok.cals | with_reducible apply Chip.Ok.slots
    | with_reducible apply Chip.Ok.ports | with_reducible apply Chip.Ok.vols | with_reducible apply Chip.Ok.rets
    | with_reducible apply Chip.Ok.hosts | with_reducible apply Chip.Ok.of

theorem Chip.took_ok {N : Nat} {s : Chip} (hk : s.Ok N) : (s.took).Ok N := by
  unfold Chip.took
  repeat'
    first
    | with_reducible assumption | dsimp only | with_reducible apply tabPut_wf | with_reducible apply tabClear_wf
    | with_reducible apply tabFilter_wf | with_reducible apply tabMap_wf | with_reducible apply tabWf_nil
    | with_reducible apply emptyLog | with_reducible apply Chip.Ok.count | with_reducible apply Chip.Ok.log
    | with_reducible apply Chip.Ok.regs | with_reducible apply Chip.Ok.shadow | with_reducible apply Chip.Ok.staged
    | with_reducible apply Chip.Ok.lib | with_reducible apply Chip.Ok.poison | with_reducible apply Chip.Ok.libLive
    | with_reducible apply Chip.Ok.libStaged | with_reducible apply Chip.Ok.volStage
    | with_reducible apply Chip.Ok.dies | with_reducible apply Chip.Ok.cals | with_reducible apply Chip.Ok.slots
    | with_reducible apply Chip.Ok.ports | with_reducible apply Chip.Ok.vols | with_reducible apply Chip.Ok.rets
    | with_reducible apply Chip.Ok.hosts | with_reducible apply Chip.Ok.of

end Sys2Proof.Machine
end

