-- ==== Sys2Proof/Laws/Ok/Flags.lean ====
section
/-!
SUPPORT. Laws/Ok/Flags.lean: every operation of Machine/Flags.lean keeps a package in good order.
-/

namespace Sys2Proof.Machine

theorem Chip.dueVec_ok {N : Nat} {s : Chip} (hk : s.Ok N) (k : Nat) : (s.dueVec k).Ok N := by
  unfold Chip.dueVec
  repeat'
    first
    | with_reducible assumption | with_reducible apply Chip.ite_ok | dsimp only | with_reducible apply tabPut_wf
    | with_reducible apply tabClear_wf | with_reducible apply tabFilter_wf | with_reducible apply tabMap_wf
    | with_reducible apply tabWf_nil | with_reducible apply emptyLog | with_reducible apply Chip.Ok.count
    | with_reducible apply Chip.Ok.log | with_reducible apply Chip.Ok.regs | with_reducible apply Chip.Ok.shadow
    | with_reducible apply Chip.Ok.staged | with_reducible apply Chip.Ok.lib | with_reducible apply Chip.Ok.poison
    | with_reducible apply Chip.Ok.libLive | with_reducible apply Chip.Ok.libStaged
    | with_reducible apply Chip.Ok.volStage | with_reducible apply Chip.Ok.dies | with_reducible apply Chip.Ok.cals
    | with_reducible apply Chip.Ok.slots | with_reducible apply Chip.Ok.ports | with_reducible apply Chip.Ok.vols
    | with_reducible apply Chip.Ok.rets | with_reducible apply Chip.Ok.hosts | with_reducible apply Chip.Ok.of

theorem Chip.raiseBit_ok {N : Nat} {s : Chip} (hk : s.Ok N) (a b : Nat) : (s.raiseBit a b).Ok N := by
  unfold Chip.raiseBit
  repeat'
    first
    | with_reducible assumption | with_reducible apply Chip.dueVec_ok | with_reducible apply Chip.setReg_ok
    | with_reducible apply Chip.ite_ok | with_reducible apply Chip.foldl_ok | intro _ _ _ _ | intro _ _ _

theorem Chip.raise_ok {N : Nat} {s : Chip} (hk : s.Ok N) (f : Fld) : (s.raise f).Ok N := by
  unfold Chip.raise
  repeat'
    first
    | with_reducible assumption | with_reducible apply Chip.raiseBit_ok

theorem Chip.logFault_ok {N : Nat} {s : Chip} (hk : s.Ok N) (src detail : Nat) : (s.logFault src detail).Ok N := by
  unfold Chip.logFault
  by_cases hl : 512 ≤ s.faultLog.length
  · rw [if_pos hl]
    exact raise_ok (bump_ok hk _ _) _
  · rw [if_neg hl]
    have hx : Chip.Ok N { s with faultLog := s.faultLog ++ [(s.tick % 2 ^ 32, src, detail % 2 ^ 24)] } :=
      ⟨hk.1, by simp only [List.length_append, List.length_singleton]; omega, hk.2.2⟩
    exact set_ok (ite_ok (raise_ok hx _) hx) _ _

theorem Chip.raiseF0_ok {N : Nat} {s : Chip} (hk : s.Ok N)
    (f : Fld) (src detail : Nat) :
    (s.raiseF0 f src detail).Ok N := by
  unfold Chip.raiseF0
  extract_lets +onlyGivenNames t
  have ht : Chip.Ok N t := by
    dsimp only [t]
    repeat'
      first
      | with_reducible assumption | with_reducible apply Chip.raise_ok | with_reducible apply Chip.logFault_ok
      | with_reducible apply Chip.bump_ok | dsimp only
  clear_value t
  repeat'
    first
    | with_reducible assumption | dsimp only | with_reducible apply tabPut_wf | with_reducible apply tabClear_wf
    | with_reducible apply tabFilter_wf | with_reducible apply tabMap_wf | with_reducible apply tabWf_nil
    | with_reducible apply emptyLog | with_reducible apply Chip.Ok.count | with_reducible apply Chip.Ok.log
    | with_reducible apply Chip.Ok.regs | with_reducible apply Chip.Ok.shadow | with_reducible apply Chip.Ok.staged
    | with_reducible apply Chip.Ok.lib | with_reducible apply Chip.Ok.poison | with_reducible apply Chip.Ok.libLive
    | with_reducible apply Chip.Ok.libStaged | with_reducible apply Chip.Ok.volStage
    | with_reducible apply Chip.Ok.dies | with_reducible apply Chip.Ok.cals | with_reducible apply Chip.Ok.slots
    | with_reducible apply Chip.Ok.ports | with_reducible apply Chip.Ok.vols | with_reducible apply Chip.Ok.rets
    | with_reducible apply Chip.Ok.hosts | with_reducible apply Chip.Ok.of

theorem Chip.modFault_ok {N : Nat} {s : Chip} (hk : s.Ok N) (f : FaultRec → FaultRec) : (s.modFault f).Ok N := by
  unfold Chip.modFault
  repeat'
    first
    | with_reducible assumption | dsimp only | with_reducible apply tabPut_wf | with_reducible apply tabClear_wf
    | with_reducible apply tabFilter_wf | with_reducible apply tabMap_wf | with_reducible apply tabWf_nil
    | with_reducible apply emptyLog | with_reducible apply Chip.Ok.count | with_reducible apply Chip.Ok.log
    | with_reducible apply Chip.Ok.regs | with_reducible apply Chip.Ok.shadow | with_reducible apply Chip.Ok.staged
    | with_reducible apply Chip.Ok.lib | with_reducible apply Chip.Ok.poison | with_reducible apply Chip.Ok.libLive
    | with_reducible apply Chip.Ok.libStaged | with_reducible apply Chip.Ok.volStage
    | with_reducible apply Chip.Ok.dies | with_reducible apply Chip.Ok.cals | with_reducible apply Chip.Ok.slots
    | with_reducible apply Chip.Ok.ports | with_reducible apply Chip.Ok.vols | with_reducible apply Chip.Ok.rets
    | with_reducible apply Chip.Ok.hosts | with_reducible apply Chip.Ok.of

theorem Chip.raiseF1_ok {N : Nat} {s : Chip} (hk : s.Ok N) (d src : Nat) : (s.raiseF1 d src).Ok N := by
  unfold Chip.raiseF1
  extract_lets +onlyGivenNames t
  have ht : Chip.Ok N t := by
    dsimp only [t]
    repeat'
      first
      | with_reducible assumption | with_reducible apply Chip.logFault_ok | with_reducible apply Chip.bump_ok
      | with_reducible apply Chip.dueVec_ok | dsimp only
  clear_value t
  extract_lets +onlyGivenNames t
  have ht : Chip.Ok N t := by
    dsimp only [t]
    repeat'
      first
      | with_reducible assumption | with_reducible apply Chip.set_ok | with_reducible apply Chip.bump_ok
      | dsimp only
  clear_value t
  repeat'
    first
    | with_reducible assumption | with_reducible apply Chip.setService_ok | with_reducible apply Chip.modDie_ok
    | with_reducible apply Chip.modFault_ok | with_reducible apply Chip.ite_ok | intro _ _ _ _ | intro _ _ _
    | dsimp only

theorem Chip.raiseF2_ok {N : Nat} {s : Chip} (hk : s.Ok N) (src detail : Nat) : (s.raiseF2 src detail).Ok N := by
  unfold Chip.raiseF2
  repeat'
    first
    | with_reducible assumption | with_reducible apply Chip.logFault_ok | with_reducible apply Chip.bump_ok

theorem Chip.logF3_ok {N : Nat} {s : Chip} (hk : s.Ok N) (a : Nat) : (s.logF3 a).Ok N := by
  unfold Chip.logF3
  repeat'
    first
    | with_reducible assumption | with_reducible apply Chip.logFault_ok | with_reducible apply Chip.bump_ok

theorem Chip.raiseF3_ok {N : Nat} {s : Chip} (hk : s.Ok N) (f : Fld) : (s.raiseF3 f).Ok N := by
  unfold Chip.raiseF3
  repeat'
    first
    | with_reducible assumption | with_reducible apply Chip.raise_ok | with_reducible apply Chip.logF3_ok

theorem Chip.libDiscard_ok {N : Nat} {s : Chip} (hk : s.Ok N) (d : Nat) : (s.libDiscard d).Ok N := by
  unfold Chip.libDiscard
  repeat'
    first
    | with_reducible assumption | with_reducible apply Chip.raise_ok | with_reducible apply Chip.bump_ok

theorem Chip.modLease_ok {N : Nat} {s : Chip} (hk : s.Ok N)
    (k : Nat) (f : Lease → Lease) :
    (s.modLease k f).Ok N := by
  unfold Chip.modLease
  repeat'
    first
    | with_reducible assumption | with_reducible apply Chip.modFault_ok | with_reducible apply Chip.set_ok
    | intro _ _ _ _ | intro _ _ _ | dsimp only

theorem Chip.grant_ok {N : Nat} {s : Chip} (hk : s.Ok N) (k d : Nat) : (s.grant k d).Ok N := by
  unfold Chip.grant
  repeat'
    first
    | with_reducible assumption | with_reducible apply Chip.modLease_ok | intro _ _ _ _ | intro _ _ _ | dsimp only

theorem Chip.leaseFree_ok {N : Nat} {s : Chip} (hk : s.Ok N) (k : Nat) : (s.leaseFree k).Ok N := by
  unfold Chip.leaseFree
  repeat'
    first
    | with_reducible assumption | with_reducible apply Chip.modLease_ok | intro _ _ _ _ | intro _ _ _ | dsimp only

end Sys2Proof.Machine
end

