-- ==== Sys2Proof/Laws/Ok/CalRuns.lean ====
section
/-!
SUPPORT. Laws/Ok/CalRuns.lean: every operation of Machine/CalRuns.lean keeps a package in good order.
-/

namespace Sys2Proof.Machine

theorem Chip.setCal_ok {N : Nat} {s : Chip} (hk : s.Ok N) (d : Nat) (r : CalRec) : (s.setCal d r).Ok N := by
  unfold Chip.setCal
  repeat'
    first
    | with_reducible assumption | intro _ _ _ _ | intro _ _ _ | dsimp only | with_reducible apply tabPut_wf
    | with_reducible apply tabClear_wf | with_reducible apply tabFilter_wf | with_reducible apply tabMap_wf
    | with_reducible apply tabWf_nil | with_reducible apply emptyLog | with_reducible apply Chip.Ok.count
    | with_reducible apply Chip.Ok.log | with_reducible apply Chip.Ok.regs | with_reducible apply Chip.Ok.shadow
    | with_reducible apply Chip.Ok.staged | with_reducible apply Chip.Ok.lib | with_reducible apply Chip.Ok.poison
    | with_reducible apply Chip.Ok.libLive | with_reducible apply Chip.Ok.libStaged
    | with_reducible apply Chip.Ok.volStage | with_reducible apply Chip.Ok.dies | with_reducible apply Chip.Ok.cals
    | with_reducible apply Chip.Ok.slots | with_reducible apply Chip.Ok.ports | with_reducible apply Chip.Ok.vols
    | with_reducible apply Chip.Ok.rets | with_reducible apply Chip.Ok.hosts | with_reducible apply Chip.Ok.of

theorem Chip.modCal_ok {N : Nat} {s : Chip} (hk : s.Ok N)
    (d : Nat) (f : CalRec → CalRec) :
    (s.modCal d f).Ok N := by
  unfold Chip.modCal
  repeat'
    first
    | with_reducible assumption | with_reducible apply Chip.setCal_ok

theorem Chip.calPend_ok {N : Nat} {s : Chip} (hk : s.Ok N) (d k : Nat) : (s.calPend d k).Ok N := by
  unfold Chip.calPend
  repeat'
    first
    | with_reducible assumption | with_reducible apply Chip.set_ok

theorem Chip.calWant_ok {N : Nat} {s : Chip} (hk : s.Ok N) (d k : Nat) : (s.calWant d k).Ok N := by
  unfold Chip.calWant
  repeat'
    first
    | with_reducible assumption | with_reducible apply Chip.calPend_ok | with_reducible apply Chip.modCal_ok
    | with_reducible apply Chip.ite_ok | intro _ _ _ _ | intro _ _ _ | dsimp only

theorem Chip.calClose_ok {N : Nat} {s : Chip} (hk : s.Ok N) (d : Nat) : (s.calClose d).Ok N := by
  unfold Chip.calClose
  extract_lets +onlyGivenNames s
  have hs : Chip.Ok N s := by
    dsimp only [s]
    repeat'
      first
      | with_reducible assumption | with_reducible apply Chip.set_ok | with_reducible apply Chip.modDie_ok
      | intro _ _ _ _ | intro _ _ _ | dsimp only
  clear_value s
  repeat'
    first
    | with_reducible assumption | with_reducible apply Chip.ite_ok | intro _ _ _ _ | intro _ _ _ | dsimp only
    | with_reducible apply tabPut_wf | with_reducible apply tabClear_wf | with_reducible apply tabFilter_wf
    | with_reducible apply tabMap_wf | with_reducible apply tabWf_nil | with_reducible apply emptyLog
    | with_reducible apply Chip.Ok.count | with_reducible apply Chip.Ok.log | with_reducible apply Chip.Ok.regs
    | with_reducible apply Chip.Ok.shadow | with_reducible apply Chip.Ok.staged | with_reducible apply Chip.Ok.lib
    | with_reducible apply Chip.Ok.poison | with_reducible apply Chip.Ok.libLive
    | with_reducible apply Chip.Ok.libStaged | with_reducible apply Chip.Ok.volStage
    | with_reducible apply Chip.Ok.dies | with_reducible apply Chip.Ok.cals | with_reducible apply Chip.Ok.slots
    | with_reducible apply Chip.Ok.ports | with_reducible apply Chip.Ok.vols | with_reducible apply Chip.Ok.rets
    | with_reducible apply Chip.Ok.hosts | with_reducible apply Chip.Ok.of

theorem Chip.demodDrop_ok {N : Nat} {s : Chip} (hk : s.Ok N) (d : Nat) : (s.demodDrop d).Ok N := by
  unfold Chip.demodDrop
  extract_lets +onlyGivenNames m
  clear_value m
  repeat'
    first
    | with_reducible assumption | with_reducible apply Chip.ite_ok | intro _ _ _ _ | intro _ _ _ | dsimp only
    | with_reducible apply tabPut_wf | with_reducible apply tabClear_wf | with_reducible apply tabFilter_wf
    | with_reducible apply tabMap_wf | with_reducible apply tabWf_nil | with_reducible apply emptyLog
    | with_reducible apply Chip.Ok.count | with_reducible apply Chip.Ok.log | with_reducible apply Chip.Ok.regs
    | with_reducible apply Chip.Ok.shadow | with_reducible apply Chip.Ok.staged | with_reducible apply Chip.Ok.lib
    | with_reducible apply Chip.Ok.poison | with_reducible apply Chip.Ok.libLive
    | with_reducible apply Chip.Ok.libStaged | with_reducible apply Chip.Ok.volStage
    | with_reducible apply Chip.Ok.dies | with_reducible apply Chip.Ok.cals | with_reducible apply Chip.Ok.slots
    | with_reducible apply Chip.Ok.ports | with_reducible apply Chip.Ok.vols | with_reducible apply Chip.Ok.rets
    | with_reducible apply Chip.Ok.hosts | with_reducible apply Chip.Ok.of

theorem Chip.calAbort_ok {N : Nat} {s : Chip} (hk : s.Ok N) (d k cause : Nat) : (s.calAbort d k cause).Ok N := by
  unfold Chip.calAbort
  repeat'
    first
    | with_reducible assumption | with_reducible apply Chip.calClose_ok | with_reducible apply Chip.set_ok
    | with_reducible apply Chip.raise_ok | with_reducible apply Chip.ite_ok

theorem Chip.calFail_ok {N : Nat} {s : Chip} (hk : s.Ok N) (d k r : Nat) : (s.calFail d k r).Ok N := by
  unfold Chip.calFail
  repeat'
    first
    | with_reducible assumption | with_reducible apply Chip.calClose_ok | with_reducible apply Chip.set_ok
    | with_reducible apply Chip.raise_ok | with_reducible apply Chip.bump_ok | with_reducible apply Chip.calPend_ok
    | with_reducible apply Chip.modCal_ok | with_reducible apply Chip.ite_ok | intro _ _ _ _ | intro _ _ _
    | dsimp only

theorem Chip.calUnlocked_ok {N : Nat} {s : Chip} (hk : s.Ok N) (d : Nat) : (s.calUnlocked d).Ok N := by
  unfold Chip.calUnlocked
  repeat'
    first
    | with_reducible assumption | with_reducible apply Chip.calFail_ok

theorem Chip.calBadFrame_ok {N : Nat} {s : Chip} (hk : s.Ok N) (d p : Nat) : (s.calBadFrame d p).Ok N := by
  unfold Chip.calBadFrame
  repeat'
    first
    | with_reducible assumption | with_reducible apply Chip.modCal_ok | with_reducible apply Chip.ite_ok
    | intro _ _ _ _ | intro _ _ _ | dsimp only

theorem Chip.calPortLost_ok {N : Nat} {s : Chip} (hk : s.Ok N) (d p : Nat) : (s.calPortLost d p).Ok N := by
  unfold Chip.calPortLost
  repeat'
    first
    | with_reducible assumption | with_reducible apply Chip.calAbort_ok | with_reducible apply Chip.ite_ok

end Sys2Proof.Machine
end

