-- ==== Sys2Proof/Laws/Ok/Outputs.lean ====
section
/-!
SUPPORT. Laws/Ok/Outputs.lean: every operation of Machine/Outputs.lean keeps a package in good order.
-/

namespace Sys2Proof.Machine

theorem Chip.setCko_ok {N : Nat} {s : Chip} (hk : s.Ok N) (d k st : Nat) : (s.setCko d k st).Ok N := by
  unfold Chip.setCko
  repeat'
    first
    | with_reducible assumption | with_reducible apply Chip.set_ok

theorem Chip.modCko_ok {N : Nat} {s : Chip} (hk : s.Ok N)
    (d k : Nat) (f : CkoRec → CkoRec) :
    (s.modCko d k f).Ok N := by
  unfold Chip.modCko
  repeat'
    first
    | with_reducible assumption | with_reducible apply Chip.modDie_ok | intro _ _ _ _ | intro _ _ _ | dsimp only

theorem Chip.ckoAway_ok {N : Nat} {s : Chip} (hk : s.Ok N) (d k st : Nat) : (s.ckoAway d k st).Ok N := by
  unfold Chip.ckoAway
  repeat'
    first
    | with_reducible assumption | with_reducible apply Chip.setCko_ok | with_reducible apply Chip.set_ok

theorem Chip.ckoBypass_ok {N : Nat} {s : Chip} (hk : s.Ok N)
    (d : Nat) (acquire : Bool) :
    (s.ckoBypass d acquire).Ok N := by
  unfold Chip.ckoBypass
  repeat'
    first
    | with_reducible assumption | with_reducible apply Chip.each_ok | with_reducible apply Chip.ckoAway_ok
    | with_reducible apply Chip.modCko_ok | with_reducible apply Chip.ite_ok | with_reducible apply Chip.each_ok
    | intro _ _ _ _ | intro _ _ _ | dsimp only

theorem Chip.ckoBack_ok {N : Nat} {s : Chip} (hk : s.Ok N) (d : Nat) : (s.ckoBack d).Ok N := by
  unfold Chip.ckoBack
  repeat'
    first
    | with_reducible assumption | with_reducible apply Chip.each_ok | with_reducible apply Chip.setCko_ok
    | with_reducible apply Chip.modCko_ok | with_reducible apply Chip.ite_ok | with_reducible apply Chip.each_ok
    | intro _ _ _ _ | intro _ _ _ | dsimp only

theorem Chip.ckoReturn_ok {N : Nat} {s : Chip} (hk : s.Ok N) (d : Nat) : (s.ckoReturn d).Ok N := by
  unfold Chip.ckoReturn
  repeat'
    first
    | with_reducible assumption | with_reducible apply Chip.each_ok | with_reducible apply Chip.setCko_ok
    | with_reducible apply Chip.modCko_ok | with_reducible apply Chip.ite_ok | with_reducible apply Chip.each_ok
    | intro _ _ _ _ | intro _ _ _ | dsimp only

theorem Chip.ckoBegin_ok {N : Nat} {s : Chip} (hk : s.Ok N) (d k : Nat) : (s.ckoBegin d k).Ok N := by
  unfold Chip.ckoBegin
  extract_lets +onlyGivenNames s
  have hs : Chip.Ok N s := by
    dsimp only [s]
    repeat'
      first
      | with_reducible assumption | with_reducible apply Chip.modCko_ok | intro _ _ _ _ | intro _ _ _ | dsimp only
  clear_value s
  repeat'
    first
    | with_reducible assumption | with_reducible apply Chip.setCko_ok | with_reducible apply Chip.setI_ok
    | with_reducible apply Chip.modCko_ok | with_reducible apply Chip.ckoAway_ok | with_reducible apply Chip.ite_ok
    | intro _ _ _ _ | intro _ _ _ | dsimp only

theorem Chip.ckoLoadOne_ok {N : Nat} {s : Chip} (hk : s.Ok N) (d k : Nat) : (s.ckoLoadOne d k).Ok N := by
  unfold Chip.ckoLoadOne
  extract_lets +onlyGivenNames lo
  clear_value lo
  repeat'
    first
    | with_reducible assumption | with_reducible apply Chip.dropStaged_ok | with_reducible apply Chip.raiseBit_ok
    | with_reducible apply Chip.loadStaged_ok | with_reducible apply Chip.modDie_ok
    | with_reducible apply Chip.modCko_ok | with_reducible apply Chip.setCko_ok | with_reducible apply Chip.ite_ok
    | intro _ _ _ _ | intro _ _ _ | dsimp only

theorem Chip.ckoLoad_ok {N : Nat} {s : Chip} (hk : s.Ok N) (d : Nat) : (s.ckoLoad d).Ok N := by
  unfold Chip.ckoLoad
  repeat'
    first
    | with_reducible assumption | with_reducible apply Chip.each_ok | with_reducible apply Chip.ckoLoadOne_ok
    | with_reducible apply Chip.each_ok | intro _ _ _ _ | intro _ _ _ | dsimp only

theorem Chip.ckoCycles_ok {N : Nat} {s : Chip} (hk : s.Ok N) (d k : Nat) : (s.ckoCycles d k).Ok N := by
  unfold Chip.ckoCycles
  extract_lets +onlyGivenNames e
  clear_value e
  extract_lets +onlyGivenNames p
  clear_value p
  extract_lets +onlyGivenNames hold
  clear_value hold
  repeat'
    first
    | with_reducible assumption | with_reducible apply Chip.setI_ok | with_reducible apply Chip.modCko_ok
    | with_reducible apply Chip.ite_ok | intro _ _ _ _ | intro _ _ _ | dsimp only | with_reducible apply tabPut_wf
    | with_reducible apply tabClear_wf | with_reducible apply tabFilter_wf | with_reducible apply tabMap_wf
    | with_reducible apply tabWf_nil | with_reducible apply emptyLog | with_reducible apply Chip.Ok.count
    | with_reducible apply Chip.Ok.log | with_reducible apply Chip.Ok.regs | with_reducible apply Chip.Ok.shadow
    | with_reducible apply Chip.Ok.staged | with_reducible apply Chip.Ok.lib | with_reducible apply Chip.Ok.poison
    | with_reducible apply Chip.Ok.libLive | with_reducible apply Chip.Ok.libStaged
    | with_reducible apply Chip.Ok.volStage | with_reducible apply Chip.Ok.dies | with_reducible apply Chip.Ok.cals
    | with_reducible apply Chip.Ok.slots | with_reducible apply Chip.Ok.ports | with_reducible apply Chip.Ok.vols
    | with_reducible apply Chip.Ok.rets | with_reducible apply Chip.Ok.hosts | with_reducible apply Chip.Ok.of

theorem Chip.ckoDue_ok {N : Nat} {s : Chip} (hk : s.Ok N) (d k : Nat) : (s.ckoDue d k).Ok N := by
  unfold Chip.ckoDue
  extract_lets +onlyGivenNames p
  clear_value p
  repeat'
    first
    | with_reducible assumption | with_reducible apply Chip.ckoBegin_ok | with_reducible apply Chip.ckoAway_ok
    | with_reducible apply Chip.modCko_ok | with_reducible apply Chip.ite_ok | intro _ _ _ _ | intro _ _ _
    | dsimp only

theorem Chip.ckoCheck_ok {N : Nat} {s : Chip} (hk : s.Ok N) (d k : Nat) : (s.ckoCheck d k).Ok N := by
  unfold Chip.ckoCheck
  repeat'
    first
    | with_reducible assumption | with_reducible apply Chip.set_ok | with_reducible apply Chip.modCko_ok
    | with_reducible apply Chip.took_ok | with_reducible apply Chip.raiseBit_ok | with_reducible apply Chip.ite_ok
    | intro _ _ _ _ | intro _ _ _ | dsimp only

theorem Chip.ckoTickOne_ok {N : Nat} {s : Chip} (hk : s.Ok N) (d k : Nat) : (s.ckoTickOne d k).Ok N := by
  unfold Chip.ckoTickOne
  repeat'
    first
    | with_reducible assumption | with_reducible apply Chip.ckoCycles_ok | with_reducible apply Chip.ckoDue_ok
    | with_reducible apply Chip.ckoCheck_ok | with_reducible apply Chip.modCko_ok
    | with_reducible apply Chip.ite_ok | intro _ _ _ _ | intro _ _ _ | dsimp only

theorem Chip.ckoTick_ok {N : Nat} {s : Chip} (hk : s.Ok N) (d : Nat) : (s.ckoTick d).Ok N := by
  unfold Chip.ckoTick
  repeat'
    first
    | with_reducible assumption | with_reducible apply Chip.each_ok | with_reducible apply Chip.ckoTickOne_ok
    | with_reducible apply Chip.each_ok | intro _ _ _ _ | intro _ _ _ | dsimp only

theorem Chip.ckoRecheck_ok {N : Nat} {s : Chip} (hk : s.Ok N) (d : Nat) : (s.ckoRecheck d).Ok N := by
  unfold Chip.ckoRecheck
  repeat'
    first
    | with_reducible assumption | with_reducible apply Chip.each_ok | with_reducible apply Chip.modDie_ok
    | with_reducible apply Chip.set_ok | with_reducible apply Chip.raiseBit_ok | with_reducible apply Chip.ite_ok
    | with_reducible apply Chip.each_ok | intro _ _ _ _ | intro _ _ _ | dsimp only

theorem Chip.ckoSideline_ok {N : Nat} {s : Chip} (hk : s.Ok N) (d : Nat) : (s.ckoSideline d).Ok N := by
  unfold Chip.ckoSideline
  repeat'
    first
    | with_reducible assumption | with_reducible apply Chip.each_ok | with_reducible apply Chip.ckoAway_ok
    | with_reducible apply Chip.modCko_ok | with_reducible apply Chip.ite_ok | with_reducible apply Chip.each_ok
    | intro _ _ _ _ | intro _ _ _ | dsimp only

theorem Chip.clkoutSelect_ok {N : Nat} {s : Chip} (hk : s.Ok N)
    (d : Nat) (v : Word) :
    (s.clkoutSelect d v).Ok N := by
  unfold Chip.clkoutSelect
  extract_lets +onlyGivenNames en
  clear_value en
  repeat'
    first
    | with_reducible assumption | with_reducible apply Chip.raise_ok | with_reducible apply Chip.setReg_ok
    | with_reducible apply Chip.each_ok | with_reducible apply Chip.set_ok | with_reducible apply Chip.setB_ok
    | with_reducible apply Chip.ite_ok | with_reducible apply Chip.each_ok | intro _ _ _ _ | intro _ _ _
    | dsimp only

theorem Chip.farReset_ok {N : Nat} {s : Chip} (hk : s.Ok N) (d b n : Nat) : (s.farReset d b n).Ok N := by
  unfold Chip.farReset
  repeat'
    first
    | with_reducible assumption | with_reducible apply Chip.set_ok | with_reducible apply Chip.raise_ok
    | with_reducible apply Chip.bump_ok | with_reducible apply Chip.ite_ok | dsimp only

theorem Chip.resync_ok {N : Nat} {s : Chip} (hk : s.Ok N) (d b : Nat) : (s.resync d b).Ok N := by
  unfold Chip.resync
  repeat'
    first
    | with_reducible assumption | with_reducible apply Chip.set_ok

end Sys2Proof.Machine
end

