-- ==== Sys2Proof/Laws/Ok/Synth.lean ====
section
/-!
SUPPORT. Laws/Ok/Synth.lean: every operation of Machine/Synth.lean keeps a package in good order.
-/

namespace Sys2Proof.Machine

theorem Chip.ethDrop_ok {N : Nat} {s : Chip} (hk : s.Ok N) (j : Nat) : (s.ethDrop j).Ok N := by
  unfold Chip.ethDrop
  repeat'
    first
    | with_reducible assumption | with_reducible apply Chip.set_ok | with_reducible apply Chip.raise_ok
    | with_reducible apply Chip.ite_ok | intro _ _ _ _ | intro _ _ _ | dsimp only | with_reducible apply tabPut_wf
    | with_reducible apply tabClear_wf | with_reducible apply tabFilter_wf | with_reducible apply tabMap_wf
    | with_reducible apply tabWf_nil | with_reducible apply emptyLog | with_reducible apply Chip.Ok.count
    | with_reducible apply Chip.Ok.log | with_reducible apply Chip.Ok.regs | with_reducible apply Chip.Ok.shadow
    | with_reducible apply Chip.Ok.staged | with_reducible apply Chip.Ok.lib | with_reducible apply Chip.Ok.poison
    | with_reducible apply Chip.Ok.libLive | with_reducible apply Chip.Ok.libStaged
    | with_reducible apply Chip.Ok.volStage | with_reducible apply Chip.Ok.dies | with_reducible apply Chip.Ok.cals
    | with_reducible apply Chip.Ok.slots | with_reducible apply Chip.Ok.ports | with_reducible apply Chip.Ok.vols
    | with_reducible apply Chip.Ok.rets | with_reducible apply Chip.Ok.hosts | with_reducible apply Chip.Ok.of

theorem Chip.ethCheck_ok {N : Nat} {s : Chip} (hk : s.Ok N) (d : Nat) : (s.ethCheck d).Ok N := by
  unfold Chip.ethCheck
  repeat'
    first
    | with_reducible assumption | with_reducible apply Chip.ethDrop_ok | with_reducible apply Chip.farReset_ok
    | with_reducible apply Chip.ite_ok

theorem Chip.showDensity_ok {N : Nat} {s : Chip} (hk : s.Ok N) (d : Nat) : (s.showDensity d).Ok N := by
  unfold Chip.showDensity
  extract_lets +onlyGivenNames k
  clear_value k
  repeat'
    first
    | with_reducible assumption | with_reducible apply Chip.set_ok | with_reducible apply Chip.setB_ok
    | with_reducible apply Chip.ite_ok

theorem Chip.setSyn_ok {N : Nat} {s : Chip} (hk : s.Ok N) (d st : Nat) : (s.setSyn d st).Ok N := by
  unfold Chip.setSyn
  extract_lets +onlyGivenNames s
  have hs : Chip.Ok N s := by
    dsimp only [s]
    repeat'
      first
      | with_reducible assumption | with_reducible apply Chip.calUnlocked_ok | with_reducible apply Chip.ite_ok
      | dsimp only
  clear_value s
  repeat'
    first
    | with_reducible assumption | with_reducible apply Chip.set_ok | with_reducible apply Chip.modDie_ok
    | with_reducible apply Chip.showDensity_ok | with_reducible apply Chip.ethCheck_ok | intro _ _ _ _
    | intro _ _ _ | dsimp only | with_reducible apply tabPut_wf | with_reducible apply tabClear_wf
    | with_reducible apply tabFilter_wf | with_reducible apply tabMap_wf | with_reducible apply tabWf_nil
    | with_reducible apply emptyLog | with_reducible apply Chip.Ok.count | with_reducible apply Chip.Ok.log
    | with_reducible apply Chip.Ok.regs | with_reducible apply Chip.Ok.shadow | with_reducible apply Chip.Ok.staged
    | with_reducible apply Chip.Ok.lib | with_reducible apply Chip.Ok.poison | with_reducible apply Chip.Ok.libLive
    | with_reducible apply Chip.Ok.libStaged | with_reducible apply Chip.Ok.volStage
    | with_reducible apply Chip.Ok.dies | with_reducible apply Chip.Ok.cals | with_reducible apply Chip.Ok.slots
    | with_reducible apply Chip.Ok.ports | with_reducible apply Chip.Ok.vols | with_reducible apply Chip.Ok.rets
    | with_reducible apply Chip.Ok.hosts | with_reducible apply Chip.Ok.of

theorem Chip.toBypass_ok {N : Nat} {s : Chip} (hk : s.Ok N) (d : Nat) : (s.toBypass d).Ok N := by
  unfold Chip.toBypass
  repeat'
    first
    | with_reducible assumption | with_reducible apply Chip.set_ok | with_reducible apply Chip.modDie_ok
    | with_reducible apply Chip.showDensity_ok | intro _ _ _ _ | intro _ _ _ | dsimp only

theorem Chip.offBypass_ok {N : Nat} {s : Chip} (hk : s.Ok N) (d : Nat) : (s.offBypass d).Ok N := by
  unfold Chip.offBypass
  repeat'
    first
    | with_reducible assumption | with_reducible apply Chip.set_ok | with_reducible apply Chip.ckoBack_ok
    | with_reducible apply Chip.showDensity_ok

theorem Chip.modCore_ok {N : Nat} {s : Chip} (hk : s.Ok N)
    (d : Nat) (f : CoreRec → CoreRec) :
    (s.modCore d f).Ok N := by
  unfold Chip.modCore
  repeat'
    first
    | with_reducible assumption | with_reducible apply Chip.modDie_ok | intro _ _ _ _ | intro _ _ _ | dsimp only

theorem Chip.rampHalt_ok {N : Nat} {s : Chip} (hk : s.Ok N) (d cause : Nat) : (s.rampHalt d cause).Ok N := by
  unfold Chip.rampHalt
  repeat'
    first
    | with_reducible assumption | with_reducible apply Chip.set_ok | with_reducible apply Chip.raise_ok
    | with_reducible apply Chip.modDie_ok | with_reducible apply Chip.ite_ok | intro _ _ _ _ | intro _ _ _
    | dsimp only

theorem Chip.clockMark_ok {N : Nat} {s : Chip} (hk : s.Ok N) (d : Nat) : (s.clockMark d).Ok N := by
  unfold Chip.clockMark
  extract_lets +onlyGivenNames c
  clear_value c
  repeat'
    first
    | with_reducible assumption | with_reducible apply Chip.ite_ok | intro _ _ _ _ | intro _ _ _ | dsimp only
    | with_reducible apply tabPut_wf | with_reducible apply tabClear_wf | with_reducible apply tabFilter_wf
    | with_reducible apply tabMap_wf | with_reducible apply tabWf_nil | with_reducible apply emptyLog
    | with_reducible apply Chip.Ok.count | with_reducible apply Chip.Ok.log | with_reducible apply Chip.Ok.regs
    | with_reducible apply Chip.Ok.shadow | with_reducible apply Chip.Ok.staged | with_reducible apply Chip.Ok.lib
    | with_reducible apply Chip.Ok.poison | with_reducible apply Chip.Ok.libLive
    | with_reducible apply Chip.Ok.libStaged | with_reducible apply Chip.Ok.volStage
    | with_reducible apply Chip.Ok.dies | with_reducible apply Chip.Ok.cals | with_reducible apply Chip.Ok.slots
    | with_reducible apply Chip.Ok.ports | with_reducible apply Chip.Ok.vols | with_reducible apply Chip.Ok.rets
    | with_reducible apply Chip.Ok.hosts | with_reducible apply Chip.Ok.of

theorem Chip.acquireOn_ok {N : Nat} {s : Chip} (hk : s.Ok N)
    (d x k f : Nat) (cap : Bool) :
    (s.acquireOn d x k f cap).Ok N := by
  unfold Chip.acquireOn
  extract_lets +onlyGivenNames t
  have ht : Chip.Ok N t := by
    dsimp only [t]
    repeat'
      first
      | with_reducible assumption | with_reducible apply Chip.clockMark_ok | with_reducible apply Chip.set_ok
      | dsimp only
  clear_value t
  extract_lets +onlyGivenNames t
  have ht : Chip.Ok N t := by
    dsimp only [t]
    repeat'
      first
      | with_reducible assumption | with_reducible apply Chip.modCore_ok | intro _ _ _ _ | intro _ _ _ | dsimp only
  clear_value t
  repeat'
    first
    | with_reducible assumption | with_reducible apply Chip.modDie_ok | with_reducible apply Chip.setSyn_ok
    | with_reducible apply Chip.ckoBypass_ok | intro _ _ _ _ | intro _ _ _ | dsimp only

theorem Chip.acquire_ok {N : Nat} {s : Chip} (hk : s.Ok N) (d x : Nat) (cap : Bool) : (s.acquire d x cap).Ok N := by
  have ht := Chip.toBypass_ok hk d
  unfold Chip.acquire
  generalize s.toBypass d = t at ht ⊢
  dsimp only
  cases chooseBand t.get d x with
  | none => exact ite_ok (raise_ok ht _) (acquireOn_ok (raise_ok ht _) _ _ _ _ _)
  | some p => exact acquireOn_ok ht _ _ _ _ _

theorem Chip.surveyBegin_ok {N : Nat} {s : Chip} (hk : s.Ok N) (d : Nat) : (s.surveyBegin d).Ok N := by
  unfold Chip.surveyBegin
  repeat'
    first
    | with_reducible assumption | with_reducible apply Chip.toBypass_ok | with_reducible apply Chip.set_ok
    | with_reducible apply Chip.modDie_ok | with_reducible apply Chip.setSyn_ok
    | with_reducible apply Chip.ckoBypass_ok | with_reducible apply Chip.ite_ok | intro _ _ _ _ | intro _ _ _
    | dsimp only

theorem Chip.tryStart_ok {N : Nat} {s : Chip} (hk : s.Ok N) (d : Nat) : (s.tryStart d).Ok N := by
  unfold Chip.tryStart
  repeat'
    first
    | with_reducible assumption | with_reducible apply Chip.surveyBegin_ok | with_reducible apply Chip.acquire_ok
    | with_reducible apply Chip.ite_ok | split

theorem Chip.enterHoldover_ok {N : Nat} {s : Chip} (hk : s.Ok N)
    (d mean : Nat) :
    (s.enterHoldover d mean).Ok N := by
  unfold Chip.enterHoldover
  extract_lets +onlyGivenNames mean
  clear_value mean
  extract_lets +onlyGivenNames t
  have ht : Chip.Ok N t := by
    dsimp only [t]
    repeat'
      first
      | with_reducible assumption | with_reducible apply Chip.rampHalt_ok | with_reducible apply Chip.raise_ok
      | with_reducible apply Chip.bump_ok | dsimp only
  clear_value t
  extract_lets +onlyGivenNames t
  have ht : Chip.Ok N t := by
    dsimp only [t]
    repeat'
      first
      | with_reducible assumption | with_reducible apply Chip.set_ok | dsimp only
  clear_value t
  repeat'
    first
    | with_reducible assumption | with_reducible apply Chip.modDie_ok | with_reducible apply Chip.setSyn_ok
    | intro _ _ _ _ | intro _ _ _ | dsimp only

theorem Chip.resume_ok {N : Nat} {s : Chip} (hk : s.Ok N) (d x : Nat) (off : Int) : (s.resume d x off).Ok N := by
  unfold Chip.resume
  repeat'
    first
    | with_reducible assumption | with_reducible apply Chip.acquire_ok | with_reducible apply Chip.clockMark_ok
    | with_reducible apply Chip.setI_ok | with_reducible apply Chip.set_ok | with_reducible apply Chip.modCore_ok
    | with_reducible apply Chip.raise_ok | with_reducible apply Chip.modDie_ok
    | with_reducible apply Chip.offBypass_ok | with_reducible apply Chip.setSyn_ok
    | with_reducible apply Chip.ite_ok | intro _ _ _ _ | intro _ _ _ | dsimp only

theorem Chip.changeover_ok {N : Nat} {s : Chip} (hk : s.Ok N)
    (d x : Nat) (off : Int) :
    (s.changeover d x off).Ok N := by
  unfold Chip.changeover
  repeat'
    first
    | with_reducible assumption | with_reducible apply Chip.enterHoldover_ok | with_reducible apply Chip.resume_ok

theorem Chip.setQual_ok {N : Nat} {s : Chip} (hk : s.Ok N) (d x : Nat) (b : Bool) : (s.setQual d x b).Ok N := by
  unfold Chip.setQual
  extract_lets +onlyGivenNames m
  clear_value m
  repeat'
    first
    | with_reducible assumption | with_reducible apply Chip.set_ok | with_reducible apply Chip.ite_ok

theorem Chip.setQualRun_ok {N : Nat} {s : Chip} (hk : s.Ok N) (d x n : Nat) : (s.setQualRun d x n).Ok N := by
  unfold Chip.setQualRun
  repeat'
    first
    | with_reducible assumption | with_reducible apply Chip.modDie_ok | with_reducible apply Chip.ite_ok
    | intro _ _ _ _ | intro _ _ _ | dsimp only

theorem Chip.refLost_ok {N : Nat} {s : Chip} (hk : s.Ok N) (d : Nat) (off : Int) : (s.refLost d off).Ok N := by
  unfold Chip.refLost
  extract_lets +onlyGivenNames x
  clear_value x
  repeat'
    first
    | with_reducible assumption | with_reducible apply Chip.setQual_ok | with_reducible apply Chip.setQualRun_ok
    | with_reducible apply Chip.raiseF3_ok | with_reducible apply Chip.toBypass_ok
    | with_reducible apply Chip.enterHoldover_ok | with_reducible apply Chip.resume_ok
    | with_reducible apply Chip.setSyn_ok | with_reducible apply Chip.set_ok
    | with_reducible apply Chip.ckoBypass_ok | with_reducible apply Chip.tryStart_ok
    | with_reducible apply Chip.ite_ok | split | dsimp only

theorem Chip.gainQual_ok {N : Nat} {s : Chip} (hk : s.Ok N)
    (d x : Nat) (off : Int) :
    (s.gainQual d x off).Ok N := by
  unfold Chip.gainQual
  extract_lets +onlyGivenNames t
  have ht : Chip.Ok N t := by
    dsimp only [t]
    repeat'
      first
      | with_reducible assumption | with_reducible apply Chip.setQual_ok | dsimp only
  clear_value t
  repeat'
    first
    | with_reducible assumption | with_reducible apply Chip.tryStart_ok | with_reducible apply Chip.resume_ok
    | with_reducible apply Chip.ite_ok | split

theorem Chip.loseQual_ok {N : Nat} {s : Chip} (hk : s.Ok N)
    (d x : Nat) (off : Int) :
    (s.loseQual d x off).Ok N := by
  unfold Chip.loseQual
  extract_lets +onlyGivenNames t
  have ht : Chip.Ok N t := by
    dsimp only [t]
    repeat'
      first
      | with_reducible assumption | with_reducible apply Chip.setQual_ok | with_reducible apply Chip.setQualRun_ok
      | dsimp only
  clear_value t
  repeat'
    first
    | with_reducible assumption | with_reducible apply Chip.changeover_ok | with_reducible apply Chip.ite_ok
    | split

theorem Chip.qualWindow_ok {N : Nat} {s : Chip} (hk : s.Ok N)
    (d x : Nat) (ppm : Option Nat) (off : Int) :
    (s.qualWindow d x ppm off).Ok N := by
  unfold Chip.qualWindow
  extract_lets +onlyGivenNames coarse
  clear_value coarse
  extract_lets +onlyGivenNames s
  have hs : Chip.Ok N s := by
    dsimp only [s]
    repeat'
      first
      | with_reducible assumption | with_reducible apply Chip.setB_ok | dsimp only
  clear_value s
  extract_lets +onlyGivenNames tol
  clear_value tol
  extract_lets +onlyGivenNames good
  clear_value good
  repeat'
    first
    | with_reducible assumption | with_reducible apply Chip.setQualRun_ok | with_reducible apply Chip.gainQual_ok
    | with_reducible apply Chip.loseQual_ok | with_reducible apply Chip.ite_ok | dsimp only

theorem Chip.revert_ok {N : Nat} {s : Chip} (hk : s.Ok N) (d : Nat) (off : Int) : (s.revert d off).Ok N := by
  unfold Chip.revert
  extract_lets +onlyGivenNames r
  clear_value r
  repeat'
    first
    | with_reducible assumption | with_reducible apply Chip.changeover_ok | with_reducible apply Chip.ite_ok

theorem Chip.lockDeclared_ok {N : Nat} {s : Chip} (hk : s.Ok N) (d : Nat) : (s.lockDeclared d).Ok N := by
  unfold Chip.lockDeclared
  repeat'
    first
    | with_reducible assumption | with_reducible apply Chip.setSyn_ok | with_reducible apply Chip.offBypass_ok
    | with_reducible apply Chip.ckoReturn_ok | with_reducible apply Chip.modCore_ok
    | with_reducible apply Chip.raise_ok | with_reducible apply Chip.set_ok | with_reducible apply Chip.modDie_ok
    | with_reducible apply Chip.setService_ok | with_reducible apply Chip.ite_ok | intro _ _ _ _ | intro _ _ _
    | dsimp only

theorem Chip.lockLost_ok {N : Nat} {s : Chip} (hk : s.Ok N) (d : Nat) : (s.lockLost d).Ok N := by
  unfold Chip.lockLost
  repeat'
    first
    | with_reducible assumption | with_reducible apply Chip.raiseF3_ok | with_reducible apply Chip.bump_ok
    | with_reducible apply Chip.toBypass_ok | with_reducible apply Chip.set_ok
    | with_reducible apply Chip.modCore_ok | with_reducible apply Chip.setSyn_ok
    | with_reducible apply Chip.ckoBypass_ok | with_reducible apply Chip.ite_ok | intro _ _ _ _ | intro _ _ _
    | dsimp only

theorem Chip.hoWindow_ok {N : Nat} {s : Chip} (hk : s.Ok N)
    (d : Nat) (agree : Bool) :
    (s.hoWindow d agree).Ok N := by
  unfold Chip.hoWindow
  repeat'
    first
    | with_reducible assumption | with_reducible apply Chip.offBypass_ok | with_reducible apply Chip.modDie_ok
    | with_reducible apply Chip.ite_ok | intro _ _ _ _ | intro _ _ _ | dsimp only

theorem Chip.hoTimeout_ok {N : Nat} {s : Chip} (hk : s.Ok N) (d : Nat) : (s.hoTimeout d).Ok N := by
  unfold Chip.hoTimeout
  repeat'
    first
    | with_reducible assumption | with_reducible apply Chip.raiseF1_ok | with_reducible apply Chip.ite_ok

theorem Chip.relockTimeout_ok {N : Nat} {s : Chip} (hk : s.Ok N) (d : Nat) : (s.relockTimeout d).Ok N := by
  unfold Chip.relockTimeout
  repeat'
    first
    | with_reducible assumption | with_reducible apply Chip.raise_ok | with_reducible apply Chip.raiseF1_ok
    | with_reducible apply Chip.ite_ok

theorem Chip.bandHop_ok {N : Nat} {s : Chip} (hk : s.Ok N) (d fine : Nat) : (s.bandHop d fine).1.Ok N := by
  unfold Chip.bandHop
  repeat'
    first
    | with_reducible assumption | with_reducible apply Chip.calFail_ok | with_reducible apply Chip.set_ok
    | with_reducible apply Chip.modCore_ok | with_reducible apply Chip.raise_ok | with_reducible apply Chip.ite_ok
    | with_reducible apply Chip.ite_fst_ok | intro _ _ _ _ | intro _ _ _ | dsimp only | split

theorem Chip.realignEnd_ok {N : Nat} {s : Chip} (hk : s.Ok N) (d : Nat) : (s.realignEnd d).Ok N := by
  unfold Chip.realignEnd
  repeat'
    first
    | with_reducible assumption | with_reducible apply Chip.set_ok | with_reducible apply Chip.ite_ok

theorem Chip.surveyStart_ok {N : Nat} {s : Chip} (hk : s.Ok N) (d : Nat) : (s.surveyStart d).Ok N := by
  unfold Chip.surveyStart
  repeat'
    first
    | with_reducible assumption | with_reducible apply Chip.surveyBegin_ok | with_reducible apply Chip.modDie_ok
    | with_reducible apply Chip.raise_ok | with_reducible apply Chip.ite_ok | intro _ _ _ _ | intro _ _ _
    | dsimp only

theorem Chip.surveyDone_ok {N : Nat} {s : Chip} (hk : s.Ok N)
    (d : Nat) (ms : List (Option (Nat × Nat))) :
    (s.surveyDone d ms).Ok N := by
  unfold Chip.surveyDone
  repeat'
    first
    | with_reducible assumption | with_reducible apply Chip.each_ok | with_reducible apply Chip.set_ok
    | with_reducible apply Chip.raise_ok | with_reducible apply Chip.setSyn_ok
    | with_reducible apply Chip.tryStart_ok | with_reducible apply Chip.ite_ok | with_reducible apply Chip.each_ok
    | intro _ _ _ _ | intro _ _ _ | dsimp only

theorem Chip.pstep_ok {N : Nat} {s : Chip} (hk : s.Ok N) (d : Nat) (v : Word) : (s.pstep d v).Ok N := by
  unfold Chip.pstep
  extract_lets +onlyGivenNames ds
  clear_value ds
  repeat'
    first
    | with_reducible assumption | with_reducible apply Chip.raise_ok | with_reducible apply Chip.each_ok
    | with_reducible apply Chip.setI_ok | with_reducible apply Chip.modDie_ok | with_reducible apply Chip.ite_ok
    | with_reducible apply Chip.each_ok | intro _ _ _ _ | intro _ _ _ | dsimp only

theorem Chip.pstepBegin_ok {N : Nat} {s : Chip} (hk : s.Ok N) (d : Nat) : (s.pstepBegin d).Ok N := by
  unfold Chip.pstepBegin
  repeat'
    first
    | with_reducible assumption | with_reducible apply Chip.modDie_ok | with_reducible apply Chip.ite_ok
    | intro _ _ _ _ | intro _ _ _ | split | dsimp only

theorem Chip.pstepMove_ok {N : Nat} {s : Chip} (hk : s.Ok N) (d n : Nat) : (s.pstepMove d n).Ok N := by
  unfold Chip.pstepMove
  repeat'
    first
    | with_reducible assumption | with_reducible apply Chip.setI_ok | with_reducible apply Chip.modDie_ok
    | with_reducible apply Chip.ite_ok | intro _ _ _ _ | intro _ _ _ | dsimp only

theorem Chip.retune_ok {N : Nat} {s : Chip} (hk : s.Ok N) (d x : Nat) : (s.retune d x).Ok N := by
  unfold Chip.retune
  extract_lets +onlyGivenNames s
  have hs : Chip.Ok N s := by
    dsimp only [s]
    repeat'
      first
      | with_reducible assumption | with_reducible apply Chip.rampHalt_ok | with_reducible apply Chip.set_ok
      | dsimp only
  clear_value s
  repeat'
    first
    | with_reducible assumption | with_reducible apply Chip.modDie_ok | with_reducible apply Chip.set_ok
    | with_reducible apply Chip.acquire_ok | with_reducible apply Chip.tryStart_ok
    | with_reducible apply Chip.ite_ok | intro _ _ _ _ | intro _ _ _ | dsimp only

theorem Chip.commanded_ok {N : Nat} {s : Chip} (hk : s.Ok N)
    (d x : Nat) (off : Int) :
    (s.commanded d x off).Ok N := by
  unfold Chip.commanded
  repeat'
    first
    | with_reducible assumption | with_reducible apply Chip.resume_ok | with_reducible apply Chip.changeover_ok
    | with_reducible apply Chip.ite_ok

theorem Chip.synCheck_ok {N : Nat} {s : Chip} (hk : s.Ok N) (d : Nat) : (s.synCheck d).Ok N := by
  unfold Chip.synCheck
  repeat'
    first
    | with_reducible assumption | with_reducible apply Chip.dropStaged_ok | with_reducible apply Chip.raise_ok
    | with_reducible apply Chip.ite_ok

theorem Chip.bandCheck_ok {N : Nat} {s : Chip} (hk : s.Ok N) (d : Nat) : (s.bandCheck d).Ok N := by
  unfold Chip.bandCheck
  repeat'
    first
    | with_reducible assumption | with_reducible apply Chip.dropStaged_ok | with_reducible apply Chip.raise_ok
    | with_reducible apply Chip.ite_ok

theorem Chip.loadSeed_ok {N : Nat} {s : Chip} (hk : s.Ok N)
    (d : Nat) (staged : Bool) :
    (s.loadSeed d staged).Ok N := by
  unfold Chip.loadSeed
  repeat'
    first
    | with_reducible assumption | with_reducible apply Chip.modCore_ok | with_reducible apply Chip.raise_ok
    | with_reducible apply Chip.ite_ok | intro _ _ _ _ | intro _ _ _ | dsimp only

theorem Chip.capFrozen_ok {N : Nat} {s : Chip} (hk : s.Ok N) (d : Nat) : (s.capFrozen d).Ok N := by
  unfold Chip.capFrozen
  repeat'
    first
    | with_reducible assumption | with_reducible apply Chip.set_ok

theorem Chip.synLoad_ok {N : Nat} {s : Chip} (hk : s.Ok N) (d : Nat) (off : Int) : (s.synLoad d off).Ok N := by
  unfold Chip.synLoad
  extract_lets +onlyGivenNames s
  have hs : Chip.Ok N s := by
    dsimp only [s]
    repeat'
      first
      | with_reducible assumption | with_reducible apply Chip.synCheck_ok | with_reducible apply Chip.bandCheck_ok
      | dsimp only
  clear_value s
  extract_lets +onlyGivenNames chg
  clear_value chg
  extract_lets +onlyGivenNames act
  clear_value act
  extract_lets +onlyGivenNames ctrl
  clear_value ctrl
  extract_lets +onlyGivenNames sel
  clear_value sel
  extract_lets +onlyGivenNames was
  clear_value was
  extract_lets +onlyGivenNames old
  clear_value old
  extract_lets +onlyGivenNames capNow
  clear_value capNow
  extract_lets +onlyGivenNames seeded
  clear_value seeded
  repeat'
    first
    | with_reducible assumption | with_reducible apply Chip.calAbort_ok | with_reducible apply Chip.modCal_ok
    | with_reducible apply Chip.loadStaged_ok | with_reducible apply Chip.loadSeed_ok
    | with_reducible apply Chip.set_ok | with_reducible apply Chip.capFrozen_ok
    | with_reducible apply Chip.retune_ok | with_reducible apply Chip.tryStart_ok
    | with_reducible apply Chip.commanded_ok | with_reducible apply Chip.ite_ok | intro _ _ _ _ | intro _ _ _
    | split | dsimp only

theorem Chip.showPherr_ok {N : Nat} {s : Chip} (hk : s.Ok N) (d : Nat) : (s.showPherr d).Ok N := by
  unfold Chip.showPherr
  extract_lets +onlyGivenNames l
  clear_value l
  repeat'
    first
    | with_reducible assumption | with_reducible apply Chip.set_ok | with_reducible apply Chip.ite_ok
    | with_reducible apply Chip.foldl_ok | intro _ _ _ _ | intro _ _ _ | dsimp only

theorem Chip.coreStore_ok {N : Nat} {s : Chip} (hk : s.Ok N) (d : Nat) (c : CoreRun) : (s.coreStore d c).Ok N := by
  unfold Chip.coreStore
  extract_lets +onlyGivenNames s
  have hs : Chip.Ok N s := by
    dsimp only [s]
    repeat'
      first
      | with_reducible assumption | with_reducible apply Chip.raise_ok | with_reducible apply Chip.ite_ok
      | dsimp only
  clear_value s
  extract_lets +onlyGivenNames s
  have hs : Chip.Ok N s := by
    dsimp only [s]
    repeat'
      first
      | with_reducible assumption | with_reducible apply Chip.set_ok | with_reducible apply Chip.setI_ok
      | dsimp only
  clear_value s
  extract_lets +onlyGivenNames s
  have hs : Chip.Ok N s := by
    dsimp only [s]
    repeat'
      first
      | with_reducible assumption | with_reducible apply Chip.set_ok | with_reducible apply Chip.ite_ok
      | dsimp only
  clear_value s
  extract_lets +onlyGivenNames s
  have hs : Chip.Ok N s := by
    dsimp only [s]
    repeat'
      first
      | with_reducible assumption | with_reducible apply Chip.set_ok | with_reducible apply Chip.ite_ok
      | dsimp only
  clear_value s
  extract_lets +onlyGivenNames s
  have hs : Chip.Ok N s := by
    dsimp only [s]
    repeat'
      first
      | with_reducible assumption | with_reducible apply Chip.modDie_ok | intro _ _ _ _ | intro _ _ _ | dsimp only
  clear_value s
  repeat'
    first
    | with_reducible assumption | with_reducible apply Chip.calFail_ok | with_reducible apply Chip.showPherr_ok
    | with_reducible apply Chip.ite_ok

theorem Chip.coreIdle_ok {N : Nat} {s : Chip} (hk : s.Ok N)
    (d : Nat) (l : List (Int × Option Sys2Proof.TdcReading)) :
    (s.coreIdle d l).Ok N := by
  unfold Chip.coreIdle
  repeat'
    first
    | with_reducible assumption | with_reducible apply Chip.modCore_ok | with_reducible apply Chip.foldl_ok
    | intro _ _ _ _ | intro _ _ _ | dsimp only

theorem Chip.coreRun_ok {N : Nat} {locked lost : Chip → Chip} (hl : ∀ t, Chip.Ok N t → (locked t).Ok N)
    (hb : ∀ t, Chip.Ok N t → (lost t).Ok N) {s : Chip} (hk : s.Ok N) (d k : Nat)
    (l : List (Int × Option Sys2Proof.TdcReading)) : (Chip.coreRun locked lost d k l s).Ok N := by
  induction k generalizing s l with
  | zero => exact hk
  | succ k ih =>
    unfold Chip.coreRun
    dsimp only
    refine ite_ok hk (ite_ok ?_ (coreIdle_ok hk _ _))
    have hs := coreStore_ok hk d (s.coreSpan d (s.loopGains d) (s.coreStart d) l).1
    exact ite_ok (ih (hl _ hs) _) (ite_ok (ih (hb _ hs) _) hs)

theorem Chip.loadD_ok {N : Nat} {s : Chip} (hk : s.Ok N) (d : Nat) (v : Int) : (s.loadD d v).Ok N := by
  unfold Chip.loadD
  repeat'
    first
    | with_reducible assumption | with_reducible apply Chip.setI_ok | with_reducible apply Chip.ite_ok

end Sys2Proof.Machine
end

