-- ==== Sys2Proof/Laws/Ok/Ramp.lean ====
section
/-!
SUPPORT. Laws/Ok/Ramp.lean: every operation of Machine/Ramp.lean keeps a package in good order.
-/

namespace Sys2Proof.Machine

theorem Chip.rampArm_ok {N : Nat} {s : Chip} (hk : s.Ok N) (d p b : Nat) : (s.rampArm d p b).Ok N := by
  unfold Chip.rampArm
  repeat'
    first
    | with_reducible assumption | with_reducible apply Chip.calFail_ok | with_reducible apply Chip.setReg_ok
    | with_reducible apply Chip.modDie_ok | intro _ _ _ _ | intro _ _ _ | dsimp only

theorem Chip.rampStart_ok {N : Nat} {s : Chip} (hk : s.Ok N) (d : Nat) : (s.rampStart d).Ok N := by
  unfold Chip.rampStart
  extract_lets +onlyGivenNames p
  clear_value p
  extract_lets +onlyGivenNames ds
  clear_value ds
  extract_lets +onlyGivenNames b
  clear_value b
  repeat'
    first
    | with_reducible assumption | with_reducible apply Chip.each_ok | with_reducible apply Chip.rampArm_ok
    | with_reducible apply Chip.raise_ok | with_reducible apply Chip.ite_ok | with_reducible apply Chip.each_ok
    | intro _ _ _ _ | intro _ _ _ | dsimp only

theorem Chip.rampFreeze_ok {N : Nat} {s : Chip} (hk : s.Ok N) (d cause : Nat) : (s.rampFreeze d cause).Ok N := by
  unfold Chip.rampFreeze
  repeat'
    first
    | with_reducible assumption | with_reducible apply Chip.set_ok | with_reducible apply Chip.raise_ok

theorem Chip.rampMove_ok {N : Nat} {s : Chip} (hk : s.Ok N) (d c : Nat) : (s.rampMove d c).Ok N := by
  unfold Chip.rampMove
  repeat'
    first
    | with_reducible assumption | with_reducible apply Chip.setI_ok | with_reducible apply Chip.set_ok
    | with_reducible apply Chip.modDie_ok | with_reducible apply Chip.rampFreeze_ok
    | with_reducible apply Chip.ite_ok | intro _ _ _ _ | intro _ _ _ | dsimp only

theorem Chip.rampEnter_ok {N : Nat} {s : Chip} (hk : s.Ok N) (d p i : Nat) : (s.rampEnter d p i).Ok N := by
  unfold Chip.rampEnter
  repeat'
    first
    | with_reducible assumption | with_reducible apply Chip.set_ok

theorem Chip.rampProfEnd_ok {N : Nat} {s : Chip} (hk : s.Ok N) (d fuel : Nat) : (s.rampProfEnd d fuel).Ok N := by
  induction fuel generalizing s with
  | zero => exact raise_ok (set_ok hk _ _) _
  | succ fuel ih =>
    have hgo : ∀ (t : Chip) (q : Nat), t.Ok N → (if segDur t.get d q 0 = 0 then t.rampProfEnd d fuel else t).Ok N :=
      fun t q ht => ite_ok (ih ht) ht
    have hdone := raise_ok (set_ok hk (RAMP_STATUS_STATE d) rampDone) (RAMP_EVENTS_DONE d)
    simp only [Chip.rampProfEnd]
    repeat'
      first
      | exact hdone | with_reducible apply hgo | with_reducible apply Chip.set_ok
      | with_reducible apply Chip.rampEnter_ok | with_reducible apply Chip.ite_ok | assumption

theorem Chip.rampNext_ok {N : Nat} {s : Chip} (hk : s.Ok N) (d : Nat) : (s.rampNext d).Ok N := by
  unfold Chip.rampNext
  extract_lets +onlyGivenNames p
  clear_value p
  extract_lets +onlyGivenNames i
  clear_value i
  repeat'
    first
    | with_reducible assumption | with_reducible apply Chip.rampEnter_ok | with_reducible apply Chip.rampProfEnd_ok
    | with_reducible apply Chip.ite_ok

theorem Chip.rampAdvance_ok {N : Nat} {s : Chip} (hk : s.Ok N) (d : Nat) : (s.rampAdvance d).Ok N := by
  unfold Chip.rampAdvance
  repeat'
    first
    | with_reducible assumption | with_reducible apply Chip.rampNext_ok | with_reducible apply Chip.ite_ok

theorem Chip.rampGo_ok {N : Nat} {s : Chip} (hk : s.Ok N) (d c k : Nat) : (Chip.rampGo d c k s).Ok N := by
  induction k generalizing s with
  | zero => exact rampMove_ok hk _ _
  | succ k ih =>
    unfold Chip.rampGo
    dsimp only
    exact ite_ok (ih (rampAdvance_ok (rampMove_ok hk _ _) _)) (rampMove_ok hk _ _)

theorem Chip.rampAbortAt_ok {N : Nat} {s : Chip} (hk : s.Ok N) (d c : Nat) : (s.rampAbortAt d c).Ok N := by
  unfold Chip.rampAbortAt
  repeat'
    first
    | with_reducible assumption | with_reducible apply Chip.rampGo_ok | with_reducible apply Chip.set_ok
    | with_reducible apply Chip.raise_ok | with_reducible apply Chip.modDie_ok
    | with_reducible apply Chip.rampHalt_ok | with_reducible apply Chip.ite_ok | intro _ _ _ _ | intro _ _ _
    | dsimp only

theorem Chip.rampAbort_ok {N : Nat} {s : Chip} (hk : s.Ok N) (d c : Nat) : (s.rampAbort d c).Ok N := by
  unfold Chip.rampAbort
  repeat'
    first
    | with_reducible assumption | with_reducible apply Chip.each_ok | with_reducible apply Chip.modDie_ok
    | with_reducible apply Chip.rampAbortAt_ok | with_reducible apply Chip.ite_ok
    | with_reducible apply Chip.each_ok | intro _ _ _ _ | intro _ _ _ | dsimp only

theorem Chip.rampFold_ok {N : Nat} {s : Chip} (hk : s.Ok N) (d : Nat) : (s.rampFold d).Ok N := by
  unfold Chip.rampFold
  repeat'
    first
    | with_reducible assumption | with_reducible apply Chip.raise_ok | with_reducible apply Chip.modDie_ok
    | with_reducible apply Chip.ite_ok | intro _ _ _ _ | intro _ _ _ | dsimp only

theorem Chip.writeRampCtrl_ok {N : Nat} {s : Chip} (hk : s.Ok N)
    (d : Nat) (v : Word) (c : Nat) :
    (s.writeRampCtrl d v c).Ok N := by
  unfold Chip.writeRampCtrl
  extract_lets +onlyGivenNames b
  clear_value b
  repeat'
    first
    | with_reducible assumption | with_reducible apply Chip.raise_ok | with_reducible apply Chip.setReg_ok
    | with_reducible apply Chip.rampAbort_ok | with_reducible apply Chip.rampStart_ok
    | with_reducible apply Chip.rampFold_ok | with_reducible apply Chip.ite_ok | dsimp only

theorem Chip.rampBegin_ok {N : Nat} {s : Chip} (hk : s.Ok N) (d : Nat) : (s.rampBegin d).Ok N := by
  unfold Chip.rampBegin
  repeat'
    first
    | with_reducible assumption | with_reducible apply Chip.set_ok | with_reducible apply Chip.rampEnter_ok
    | with_reducible apply Chip.modDie_ok | with_reducible apply Chip.rampProfEnd_ok
    | with_reducible apply Chip.ite_ok | intro _ _ _ _ | intro _ _ _ | split | dsimp only

theorem Chip.rampSegmentEnd_ok {N : Nat} {s : Chip} (hk : s.Ok N) (d c : Nat) : (s.rampSegmentEnd d c).Ok N := by
  unfold Chip.rampSegmentEnd
  repeat'
    first
    | with_reducible assumption | with_reducible apply Chip.rampMove_ok | with_reducible apply Chip.modDie_ok
    | with_reducible apply Chip.rampAdvance_ok | with_reducible apply Chip.ite_ok | intro _ _ _ _ | intro _ _ _
    | dsimp only

theorem Chip.rampClamp_ok {N : Nat} {s : Chip} (hk : s.Ok N) (d c cause : Nat) : (s.rampClamp d c cause).Ok N := by
  unfold Chip.rampClamp
  extract_lets +onlyGivenNames t
  have ht : Chip.Ok N t := by
    dsimp only [t]
    repeat'
      first
      | with_reducible assumption | with_reducible apply Chip.rampGo_ok | dsimp only
  clear_value t
  repeat'
    first
    | with_reducible assumption | with_reducible apply Chip.rampFreeze_ok | with_reducible apply Chip.ite_ok

theorem Chip.rampRun_ok {N : Nat} {s : Chip} (hk : s.Ok N) (d n : Nat) : (s.rampRun d n).Ok N := by
  unfold Chip.rampRun
  repeat'
    first
    | with_reducible assumption | with_reducible apply Chip.rampGo_ok | with_reducible apply Chip.rampAdvance_ok

theorem Chip.rampTick_ok {N : Nat} {s : Chip} (hk : s.Ok N) (d : Nat) : (s.rampTick d).Ok N := by
  unfold Chip.rampTick
  extract_lets +onlyGivenNames s
  have hs : Chip.Ok N s := by
    dsimp only [s]
    repeat'
      first
      | with_reducible assumption | with_reducible apply Chip.modDie_ok | intro _ _ _ _ | intro _ _ _ | dsimp only
      | with_reducible apply tabPut_wf | with_reducible apply tabClear_wf | with_reducible apply tabFilter_wf
      | with_reducible apply tabMap_wf | with_reducible apply tabWf_nil | with_reducible apply emptyLog
      | with_reducible apply Chip.Ok.count | with_reducible apply Chip.Ok.log | with_reducible apply Chip.Ok.regs
      | with_reducible apply Chip.Ok.shadow | with_reducible apply Chip.Ok.staged
      | with_reducible apply Chip.Ok.lib | with_reducible apply Chip.Ok.poison
      | with_reducible apply Chip.Ok.libLive | with_reducible apply Chip.Ok.libStaged
      | with_reducible apply Chip.Ok.volStage | with_reducible apply Chip.Ok.dies
      | with_reducible apply Chip.Ok.cals | with_reducible apply Chip.Ok.slots | with_reducible apply Chip.Ok.ports
      | with_reducible apply Chip.Ok.vols | with_reducible apply Chip.Ok.rets | with_reducible apply Chip.Ok.hosts
      | with_reducible apply Chip.Ok.of
  clear_value s
  extract_lets +onlyGivenNames s
  have hs : Chip.Ok N s := by
    dsimp only [s]
    repeat'
      first
      | with_reducible assumption | with_reducible apply Chip.rampAbortAt_ok | with_reducible apply Chip.modDie_ok
      | with_reducible apply Chip.ite_ok | intro _ _ _ _ | intro _ _ _ | split | dsimp only
  clear_value s
  repeat'
    first
    | with_reducible assumption | with_reducible apply Chip.modDie_ok | with_reducible apply Chip.setI_ok
    | with_reducible apply Chip.set_ok | with_reducible apply Chip.setShadow_ok
    | with_reducible apply Chip.ckoRecheck_ok | with_reducible apply Chip.ite_ok | intro _ _ _ _ | intro _ _ _
    | split | dsimp only

end Sys2Proof.Machine
end

