-- ==== Sys2Proof/Laws/Ok/Clocks.lean ====
section
/-!
SUPPORT. Laws/Ok/Clocks.lean: every operation of Machine/Clocks.lean keeps a package in good order.
-/

namespace Sys2Proof.Machine

theorem Chip.showJudge_ok {N : Nat} {s : Chip} (hk : s.Ok N) (d c : Nat) : (s.showJudge d c).Ok N := by
  unfold Chip.showJudge
  repeat'
    first
    | with_reducible assumption | with_reducible apply Chip.set_ok | with_reducible apply Chip.ite_ok

theorem Chip.setBase_ok {N : Nat} {s : Chip} (hk : s.Ok N) (d : Nat) (xo : Bool) : (s.setBase d xo).Ok N := by
  unfold Chip.setBase
  extract_lets +onlyGivenNames t
  have ht : Chip.Ok N t := by
    dsimp only [t]
    repeat'
      first
      | with_reducible assumption | with_reducible apply Chip.setB_ok | dsimp only
  clear_value t
  repeat'
    first
    | with_reducible assumption | with_reducible apply Chip.ethDrop_ok | with_reducible apply Chip.farReset_ok
    | with_reducible apply Chip.ite_ok

theorem Chip.xoStable_ok {N : Nat} {s : Chip} (hk : s.Ok N) (d : Nat) (off : Int) : (s.xoStable d off).Ok N := by
  unfold Chip.xoStable
  extract_lets +onlyGivenNames broke
  clear_value broke
  extract_lets +onlyGivenNames t
  have ht : Chip.Ok N t := by
    dsimp only [t]
    repeat'
      first
      | with_reducible assumption | with_reducible apply Chip.set_ok | with_reducible apply Chip.raise_ok
      | dsimp only
  clear_value t
  extract_lets +onlyGivenNames t
  have ht : Chip.Ok N t := by
    dsimp only [t]
    repeat'
      first
      | with_reducible assumption | with_reducible apply Chip.set_ok | with_reducible apply Chip.modDie_ok
      | intro _ _ _ _ | intro _ _ _ | dsimp only
  clear_value t
  extract_lets +onlyGivenNames t
  have ht : Chip.Ok N t := by
    dsimp only [t]
    repeat'
      first
      | with_reducible assumption | with_reducible apply Chip.set_ok | dsimp only
  clear_value t
  repeat'
    first
    | with_reducible assumption | with_reducible apply Chip.setBase_ok | with_reducible apply Chip.gainQual_ok
    | with_reducible apply Chip.raise_ok | with_reducible apply Chip.set_ok | with_reducible apply Chip.ite_ok

theorem Chip.xoDetect_ok {N : Nat} {s : Chip} (hk : s.Ok N) (d n : Nat) : (s.xoDetect d n).Ok N := by
  unfold Chip.xoDetect
  repeat'
    first
    | with_reducible assumption | with_reducible apply Chip.setB_ok | with_reducible apply Chip.modDie_ok
    | with_reducible apply Chip.showJudge_ok | with_reducible apply Chip.ite_ok | intro _ _ _ _ | intro _ _ _
    | dsimp only

theorem Chip.xoGone_ok {N : Nat} {s : Chip} (hk : s.Ok N) (d : Nat) (off : Int) : (s.xoGone d off).Ok N := by
  unfold Chip.xoGone
  repeat'
    first
    | with_reducible assumption | with_reducible apply Chip.refLost_ok | with_reducible apply Chip.loseQual_ok
    | with_reducible apply Chip.ite_ok

theorem Chip.xoFail_ok {N : Nat} {s : Chip} (hk : s.Ok N) (d : Nat) (off : Int) : (s.xoFail d off).Ok N := by
  unfold Chip.xoFail
  repeat'
    first
    | with_reducible assumption | with_reducible apply Chip.set_ok | with_reducible apply Chip.raise_ok
    | with_reducible apply Chip.bump_ok | with_reducible apply Chip.modDie_ok
    | with_reducible apply Chip.setBase_ok | with_reducible apply Chip.raiseF0_ok
    | with_reducible apply Chip.raiseF1_ok | with_reducible apply Chip.xoGone_ok | with_reducible apply Chip.ite_ok
    | intro _ _ _ _ | intro _ _ _ | dsimp only

theorem Chip.ioscFail_ok {N : Nat} {s : Chip} (hk : s.Ok N) (d : Nat) : (s.ioscFail d).Ok N := by
  unfold Chip.ioscFail
  repeat'
    first
    | with_reducible assumption | with_reducible apply Chip.set_ok | with_reducible apply Chip.raiseF3_ok
    | with_reducible apply Chip.bump_ok | with_reducible apply Chip.raiseF1_ok
    | with_reducible apply Chip.setBase_ok | with_reducible apply Chip.ite_ok | dsimp only

theorem Chip.xoWindow_ok {N : Nat} {s : Chip} (hk : s.Ok N)
    (d n : Nat) (iosc : Bool) (off : Int) :
    (s.xoWindow d n iosc off).Ok N := by
  unfold Chip.xoWindow
  repeat'
    first
    | with_reducible assumption | with_reducible apply Chip.set_ok | with_reducible apply Chip.ioscFail_ok
    | with_reducible apply Chip.xoFail_ok | with_reducible apply Chip.modDie_ok
    | with_reducible apply Chip.xoStable_ok | with_reducible apply Chip.ite_ok | intro _ _ _ _ | intro _ _ _
    | dsimp only

theorem Chip.judgeTimeout_ok {N : Nat} {s : Chip} (hk : s.Ok N) (d : Nat) : (s.judgeTimeout d).Ok N := by
  unfold Chip.judgeTimeout
  repeat'
    first
    | with_reducible assumption | with_reducible apply Chip.raise_ok | with_reducible apply Chip.set_ok
    | with_reducible apply Chip.judgeTimeout_ok | with_reducible apply Chip.modDie_ok
    | with_reducible apply Chip.ite_ok | intro _ _ _ _ | intro _ _ _ | dsimp only

theorem Chip.bpllUnlock_ok {N : Nat} {s : Chip} (hk : s.Ok N) (d : Nat) : (s.bpllUnlock d).Ok N := by
  unfold Chip.bpllUnlock
  extract_lets +onlyGivenNames t
  have ht : Chip.Ok N t := by
    dsimp only [t]
    repeat'
      first
      | with_reducible assumption | with_reducible apply Chip.set_ok | dsimp only
  clear_value t
  repeat'
    first
    | with_reducible assumption | with_reducible apply Chip.raise_ok | with_reducible apply Chip.raiseF1_ok
    | with_reducible apply Chip.raiseF3_ok | with_reducible apply Chip.ite_ok

end Sys2Proof.Machine
end

