-- ==== Sys2Proof/Laws/Ok/Library.lean ====
section
/-!
SUPPORT. Laws/Ok/Library.lean: every operation of Machine/Library.lean keeps a package in good order.
-/

namespace Sys2Proof.Machine

theorem Chip.setRaw_ok {N : Nat} {s : Chip} (hk : s.Ok N) (k v : Nat) : (s.setRaw k v).Ok N := by
  unfold Chip.setRaw
  repeat'
    first
    | with_reducible assumption | dsimp only | with_reducible apply tabPut_wf | with_reducible apply tabClear_wf
    | with_reducible apply tabFilter_wf | with_reducible apply tabMap_wf | with_reducible apply tabWf_nil
    | with_reducible apply emptyLog | with_reducible apply Chip.Ok.count | with_reducible apply Chip.Ok.log
    | with_reducible apply Chip.Ok.regs | with_reducible apply Chip.Ok.shadow | with_reducible apply Chip.Ok.staged
    | with_reducible apply Chip.Ok.lib | with_reducible apply Chip.Ok.poison | with_reducible apply Chip.Ok.libLive
    | with_reducible apply Chip.Ok.libStaged | with_reducible apply Chip.Ok.volStage
    | with_reducible apply Chip.Ok.dies | with_reducible apply Chip.Ok.cals | with_reducible apply Chip.Ok.slots
    | with_reducible apply Chip.Ok.ports | with_reducible apply Chip.Ok.vols | with_reducible apply Chip.Ok.rets
    | with_reducible apply Chip.Ok.hosts | with_reducible apply Chip.Ok.of

theorem Chip.setPoison_ok {N : Nat} {s : Chip} (hk : s.Ok N) (k : Nat) (b : Bool) : (s.setPoison k b).Ok N := by
  unfold Chip.setPoison
  repeat'
    first
    | with_reducible assumption | intro _ _ _ _ | intro _ _ _ | dsimp only | with_reducible apply tabPut_wf
    | with_reducible apply tabClear_wf | with_reducible apply tabFilter_wf | with_reducible apply tabMap_wf
    | with_reducible apply tabWf_nil | with_reducible apply emptyLog | with_reducible apply Chip.Ok.count
    | with_reducible apply Chip.Ok.log | with_reducible apply Chip.Ok.regs | with_reducible apply Chip.Ok.shadow
    | with_reducible apply Chip.Ok.staged | with_reducible apply Chip.Ok.lib | with_reducible apply Chip.Ok.poison
    | with_reducible apply Chip.Ok.libLive | with_reducible apply Chip.Ok.libStaged
    | with_reducible apply Chip.Ok.volStage | with_reducible apply Chip.Ok.dies | with_reducible apply Chip.Ok.cals
    | with_reducible apply Chip.Ok.slots | with_reducible apply Chip.Ok.ports | with_reducible apply Chip.Ok.vols
    | with_reducible apply Chip.Ok.rets | with_reducible apply Chip.Ok.hosts | with_reducible apply Chip.Ok.of

theorem Chip.sendMirror_ok {N : Nat} {s : Chip} (hk : s.Ok N) (k v : Nat) : (s.sendMirror k v).Ok N := by
  unfold Chip.sendMirror
  repeat'
    first
    | with_reducible assumption | with_reducible apply Chip.ite_ok | dsimp only | with_reducible apply tabPut_wf
    | with_reducible apply tabClear_wf | with_reducible apply tabFilter_wf | with_reducible apply tabMap_wf
    | with_reducible apply tabWf_nil | with_reducible apply emptyLog | with_reducible apply Chip.Ok.count
    | with_reducible apply Chip.Ok.log | with_reducible apply Chip.Ok.regs | with_reducible apply Chip.Ok.shadow
    | with_reducible apply Chip.Ok.staged | with_reducible apply Chip.Ok.lib | with_reducible apply Chip.Ok.poison
    | with_reducible apply Chip.Ok.libLive | with_reducible apply Chip.Ok.libStaged
    | with_reducible apply Chip.Ok.volStage | with_reducible apply Chip.Ok.dies | with_reducible apply Chip.Ok.cals
    | with_reducible apply Chip.Ok.slots | with_reducible apply Chip.Ok.ports | with_reducible apply Chip.Ok.vols
    | with_reducible apply Chip.Ok.rets | with_reducible apply Chip.Ok.hosts | with_reducible apply Chip.Ok.of

theorem Chip.putEntry_ok {N : Nat} {s : Chip} (hk : s.Ok N) (k v : Nat) : (s.putEntry k v).Ok N := by
  unfold Chip.putEntry
  repeat'
    first
    | with_reducible assumption | with_reducible apply Chip.setRaw_ok | with_reducible apply Chip.setPoison_ok
    | with_reducible apply Chip.sendMirror_ok

theorem Chip.noteUe_ok {N : Nat} {s : Chip} (hk : s.Ok N) (k : Nat) : (s.noteUe k).Ok N := by
  unfold Chip.noteUe
  extract_lets +onlyGivenNames d
  clear_value d
  extract_lets +onlyGivenNames sl
  clear_value sl
  extract_lets +onlyGivenNames t
  have ht : Chip.Ok N t := by
    dsimp only [t]
    repeat'
      first
      | with_reducible assumption | with_reducible apply Chip.setPoison_ok | with_reducible apply Chip.raise_ok
      | with_reducible apply Chip.bump_ok | dsimp only
  clear_value t
  repeat'
    first
    | with_reducible assumption | with_reducible apply Chip.set_ok | with_reducible apply Chip.setB_ok

theorem Chip.readEntry_ok {N : Nat} {s : Chip} (hk : s.Ok N) (k : Nat) : (s.readEntry k).1.Ok N := by
  unfold Chip.readEntry
  repeat'
    first
    | with_reducible assumption | with_reducible apply Chip.setRaw_ok | with_reducible apply Chip.raise_ok
    | with_reducible apply Chip.bump_ok | with_reducible apply Chip.sendMirror_ok
    | with_reducible apply Chip.noteUe_ok | with_reducible apply Chip.ite_ok | with_reducible apply Chip.ite_fst_ok
    | intro _ _ _ _ | intro _ _ _ | dsimp only | split

theorem Chip.setSlot_ok {N : Nat} {s : Chip} (hk : s.Ok N)
    (d sl : Nat) (r : SlotRec) :
    (s.setSlot d sl r).Ok N := by
  unfold Chip.setSlot
  repeat'
    first
    | with_reducible assumption | intro _ _ _ _ | intro _ _ _ | dsimp only | with_reducible apply tabPut_wf
    | with_reducible apply tabClear_wf | with_reducible apply tabFilter_wf | with_reducible apply tabMap_wf
    | with_reducible apply tabWf_nil | with_reducible apply emptyLog | with_reducible apply Chip.Ok.count
    | with_reducible apply Chip.Ok.log | with_reducible apply Chip.Ok.regs | with_reducible apply Chip.Ok.shadow
    | with_reducible apply Chip.Ok.staged | with_reducible apply Chip.Ok.lib | with_reducible apply Chip.Ok.poison
    | with_reducible apply Chip.Ok.libLive | with_reducible apply Chip.Ok.libStaged
    | with_reducible apply Chip.Ok.volStage | with_reducible apply Chip.Ok.dies | with_reducible apply Chip.Ok.cals
    | with_reducible apply Chip.Ok.slots | with_reducible apply Chip.Ok.ports | with_reducible apply Chip.Ok.vols
    | with_reducible apply Chip.Ok.rets | with_reducible apply Chip.Ok.hosts | with_reducible apply Chip.Ok.of

theorem Chip.modSlot_ok {N : Nat} {s : Chip} (hk : s.Ok N)
    (d sl : Nat) (f : SlotRec → SlotRec) :
    (s.modSlot d sl f).Ok N := by
  unfold Chip.modSlot
  repeat'
    first
    | with_reducible assumption | with_reducible apply Chip.setSlot_ok

theorem Chip.showPark_ok {N : Nat} {s : Chip} (hk : s.Ok N) (d sl v : Nat) : (s.showPark d sl v).Ok N := by
  unfold Chip.showPark
  extract_lets +onlyGivenNames t
  have ht : Chip.Ok N t := by
    dsimp only [t]
    repeat'
      first
      | with_reducible assumption | with_reducible apply Chip.modSlot_ok | intro _ _ _ _ | intro _ _ _ | dsimp only
  clear_value t
  repeat'
    first
    | with_reducible assumption | with_reducible apply Chip.setReg_ok | with_reducible apply Chip.ite_ok

theorem Chip.parkLoad_ok {N : Nat} {s : Chip} (hk : s.Ok N) (d sl : Nat) : (s.parkLoad d sl).Ok N := by
  unfold Chip.parkLoad
  repeat'
    first
    | with_reducible assumption | with_reducible apply Chip.showPark_ok | with_reducible apply Chip.readEntry_ok
    | split | dsimp only | with_reducible refine Chip.fst_ok (by assumption) ?_

theorem Chip.parkAll_ok {N : Nat} {s : Chip} (hk : s.Ok N) (d base : Nat) : (s.parkAll d base).Ok N := by
  unfold Chip.parkAll
  repeat'
    first
    | with_reducible assumption | with_reducible apply Chip.each_ok | with_reducible apply Chip.parkLoad_ok
    | with_reducible apply Chip.ite_ok | with_reducible apply Chip.each_ok | intro _ _ _ _ | intro _ _ _
    | dsimp only

theorem Chip.parkChanged_ok {N : Nat} {s : Chip} (hk : s.Ok N) (d sl : Nat) : (s.parkChanged d sl).Ok N := by
  unfold Chip.parkChanged
  extract_lets +onlyGivenNames p
  clear_value p
  extract_lets +onlyGivenNames t
  have ht : Chip.Ok N t := by
    dsimp only [t]
    repeat'
      first
      | with_reducible assumption | with_reducible apply Chip.parkLoad_ok | dsimp only
  clear_value t
  extract_lets +onlyGivenNames r
  clear_value r
  repeat'
    first
    | with_reducible assumption | with_reducible apply Chip.ite_ok | intro _ _ _ _ | intro _ _ _ | dsimp only
    | with_reducible apply tabPut_wf | with_reducible apply tabClear_wf | with_reducible apply tabFilter_wf
    | with_reducible apply tabMap_wf | with_reducible apply tabWf_nil | with_reducible apply emptyLog
    | with_reducible apply Chip.Ok.count | with_reducible apply Chip.Ok.log | with_reducible apply Chip.Ok.regs
    | with_reducible apply Chip.Ok.shadow | with_reducible apply Chip.Ok.staged | with_reducible apply Chip.Ok.lib
    | with_reducible apply Chip.Ok.poison | with_reducible apply Chip.Ok.libLive
    | with_reducible apply Chip.Ok.libStaged | with_reducible apply Chip.Ok.volStage
    | with_reducible apply Chip.Ok.dies | with_reducible apply Chip.Ok.cals | with_reducible apply Chip.Ok.slots
    | with_reducible apply Chip.Ok.ports | with_reducible apply Chip.Ok.vols | with_reducible apply Chip.Ok.rets
    | with_reducible apply Chip.Ok.hosts | with_reducible apply Chip.Ok.of

theorem Chip.setLive_ok {N : Nat} {s : Chip} (hk : s.Ok N) (k : Nat) (v : Option Nat) : (s.setLive k v).Ok N := by
  unfold Chip.setLive
  repeat'
    first
    | with_reducible assumption | intro _ _ _ _ | intro _ _ _ | dsimp only | with_reducible apply tabPut_wf
    | with_reducible apply tabClear_wf | with_reducible apply tabFilter_wf | with_reducible apply tabMap_wf
    | with_reducible apply tabWf_nil | with_reducible apply emptyLog | with_reducible apply Chip.Ok.count
    | with_reducible apply Chip.Ok.log | with_reducible apply Chip.Ok.regs | with_reducible apply Chip.Ok.shadow
    | with_reducible apply Chip.Ok.staged | with_reducible apply Chip.Ok.lib | with_reducible apply Chip.Ok.poison
    | with_reducible apply Chip.Ok.libLive | with_reducible apply Chip.Ok.libStaged
    | with_reducible apply Chip.Ok.volStage | with_reducible apply Chip.Ok.dies | with_reducible apply Chip.Ok.cals
    | with_reducible apply Chip.Ok.slots | with_reducible apply Chip.Ok.ports | with_reducible apply Chip.Ok.vols
    | with_reducible apply Chip.Ok.rets | with_reducible apply Chip.Ok.hosts | with_reducible apply Chip.Ok.of

theorem Chip.showPend_ok {N : Nat} {s : Chip} (hk : s.Ok N) (d : Nat) : (s.showPend d).Ok N := by
  unfold Chip.showPend
  repeat'
    first
    | with_reducible assumption | with_reducible apply Chip.set_ok | intro _ _ _ _ | intro _ _ _ | dsimp only

theorem Chip.libAgain_ok {N : Nat} {s : Chip} (hk : s.Ok N) (k : Nat) : (s.libAgain k).Ok N := by
  unfold Chip.libAgain
  repeat'
    first
    | with_reducible assumption | with_reducible apply Chip.ite_ok | intro _ _ _ _ | intro _ _ _ | dsimp only
    | with_reducible apply tabPut_wf | with_reducible apply tabClear_wf | with_reducible apply tabFilter_wf
    | with_reducible apply tabMap_wf | with_reducible apply tabWf_nil | with_reducible apply emptyLog
    | with_reducible apply Chip.Ok.count | with_reducible apply Chip.Ok.log | with_reducible apply Chip.Ok.regs
    | with_reducible apply Chip.Ok.shadow | with_reducible apply Chip.Ok.staged | with_reducible apply Chip.Ok.lib
    | with_reducible apply Chip.Ok.poison | with_reducible apply Chip.Ok.libLive
    | with_reducible apply Chip.Ok.libStaged | with_reducible apply Chip.Ok.volStage
    | with_reducible apply Chip.Ok.dies | with_reducible apply Chip.Ok.cals | with_reducible apply Chip.Ok.slots
    | with_reducible apply Chip.Ok.ports | with_reducible apply Chip.Ok.vols | with_reducible apply Chip.Ok.rets
    | with_reducible apply Chip.Ok.hosts | with_reducible apply Chip.Ok.of

theorem Chip.libWrite_ok {N : Nat} {s : Chip} (hk : s.Ok N) (k v : Nat) : (s.libWrite k v).Ok N := by
  unfold Chip.libWrite
  extract_lets +onlyGivenNames d
  clear_value d
  extract_lets +onlyGivenNames v
  clear_value v
  repeat'
    first
    | with_reducible assumption | with_reducible apply Chip.libDiscard_ok | with_reducible apply Chip.raise_ok
    | with_reducible apply Chip.libAgain_ok | with_reducible apply Chip.setLive_ok
    | with_reducible apply Chip.showPend_ok | with_reducible apply Chip.ite_ok | intro _ _ _ _ | intro _ _ _
    | dsimp only | with_reducible apply tabPut_wf | with_reducible apply tabClear_wf
    | with_reducible apply tabFilter_wf | with_reducible apply tabMap_wf | with_reducible apply tabWf_nil
    | with_reducible apply emptyLog | with_reducible apply Chip.Ok.count | with_reducible apply Chip.Ok.log
    | with_reducible apply Chip.Ok.regs | with_reducible apply Chip.Ok.shadow | with_reducible apply Chip.Ok.staged
    | with_reducible apply Chip.Ok.lib | with_reducible apply Chip.Ok.poison | with_reducible apply Chip.Ok.libLive
    | with_reducible apply Chip.Ok.libStaged | with_reducible apply Chip.Ok.volStage
    | with_reducible apply Chip.Ok.dies | with_reducible apply Chip.Ok.cals | with_reducible apply Chip.Ok.slots
    | with_reducible apply Chip.Ok.ports | with_reducible apply Chip.Ok.vols | with_reducible apply Chip.Ok.rets
    | with_reducible apply Chip.Ok.hosts | with_reducible apply Chip.Ok.of

theorem Chip.reloadCopies_ok {N : Nat} {s : Chip} (hk : s.Ok N) (d sl q : Nat) : (s.reloadCopies d sl q).Ok N := by
  unfold Chip.reloadCopies
  extract_lets +onlyGivenNames s
  have hs : Chip.Ok N s := by
    dsimp only [s]
    repeat'
      first
      | with_reducible assumption | with_reducible apply Chip.parkChanged_ok | with_reducible apply Chip.ite_ok
      | dsimp only
  clear_value s
  repeat'
    first
    | with_reducible assumption | with_reducible apply Chip.readEntry_ok | with_reducible apply Chip.modSlot_ok
    | with_reducible apply Chip.ite_ok | intro _ _ _ _ | intro _ _ _ | split | dsimp only
    | with_reducible refine Chip.fst_ok (by assumption) ?_

theorem Chip.libApplyOne_ok {N : Nat} {s : Chip} (hk : s.Ok N) (k v : Nat) : (s.libApplyOne k v).Ok N := by
  unfold Chip.libApplyOne
  extract_lets +onlyGivenNames d
  clear_value d
  repeat'
    first
    | with_reducible assumption | with_reducible apply Chip.setLive_ok | with_reducible apply Chip.showPend_ok
    | with_reducible apply Chip.putEntry_ok | with_reducible apply Chip.reloadCopies_ok
    | with_reducible apply Chip.ite_ok | intro _ _ _ _ | intro _ _ _ | dsimp only | with_reducible apply tabPut_wf
    | with_reducible apply tabClear_wf | with_reducible apply tabFilter_wf | with_reducible apply tabMap_wf
    | with_reducible apply tabWf_nil | with_reducible apply emptyLog | with_reducible apply Chip.Ok.count
    | with_reducible apply Chip.Ok.log | with_reducible apply Chip.Ok.regs | with_reducible apply Chip.Ok.shadow
    | with_reducible apply Chip.Ok.staged | with_reducible apply Chip.Ok.lib | with_reducible apply Chip.Ok.poison
    | with_reducible apply Chip.Ok.libLive | with_reducible apply Chip.Ok.libStaged
    | with_reducible apply Chip.Ok.volStage | with_reducible apply Chip.Ok.dies | with_reducible apply Chip.Ok.cals
    | with_reducible apply Chip.Ok.slots | with_reducible apply Chip.Ok.ports | with_reducible apply Chip.Ok.vols
    | with_reducible apply Chip.Ok.rets | with_reducible apply Chip.Ok.hosts | with_reducible apply Chip.Ok.of

theorem Chip.libApply_ok {N : Nat} {s : Chip} (hk : s.Ok N) (d : Nat) : (s.libApply d).Ok N := by
  unfold Chip.libApply
  extract_lets +onlyGivenNames mine
  clear_value mine
  extract_lets +onlyGivenNames s
  have hs : Chip.Ok N s := by
    dsimp only [s]
    repeat'
      first
      | with_reducible assumption | intro _ _ _ _ | intro _ _ _ | dsimp only | with_reducible apply tabPut_wf
      | with_reducible apply tabClear_wf | with_reducible apply tabFilter_wf | with_reducible apply tabMap_wf
      | with_reducible apply tabWf_nil | with_reducible apply emptyLog | with_reducible apply Chip.Ok.count
      | with_reducible apply Chip.Ok.log | with_reducible apply Chip.Ok.regs | with_reducible apply Chip.Ok.shadow
      | with_reducible apply Chip.Ok.staged | with_reducible apply Chip.Ok.lib
      | with_reducible apply Chip.Ok.poison | with_reducible apply Chip.Ok.libLive
      | with_reducible apply Chip.Ok.libStaged | with_reducible apply Chip.Ok.volStage
      | with_reducible apply Chip.Ok.dies | with_reducible apply Chip.Ok.cals | with_reducible apply Chip.Ok.slots
      | with_reducible apply Chip.Ok.ports | with_reducible apply Chip.Ok.vols | with_reducible apply Chip.Ok.rets
      | with_reducible apply Chip.Ok.hosts | with_reducible apply Chip.Ok.of
  clear_value s
  extract_lets +onlyGivenNames s
  have hs : Chip.Ok N s := by
    dsimp only [s]
    repeat'
      first
      | with_reducible assumption | with_reducible apply Chip.libApplyOne_ok | with_reducible apply Chip.foldl_ok
      | intro _ _ _ _ | intro _ _ _ | dsimp only
  clear_value s
  extract_lets +onlyGivenNames gone
  clear_value gone
  repeat'
    first
    | with_reducible assumption | with_reducible apply Chip.each_ok | with_reducible apply Chip.setLive_ok
    | with_reducible apply Chip.libApplyOne_ok | with_reducible apply Chip.showPend_ok
    | with_reducible apply Chip.each_ok | intro _ _ _ _ | intro _ _ _ | split | dsimp only

theorem Chip.stageLive_ok {N : Nat} {s : Chip} (hk : s.Ok N) (d : Nat) : (s.stageLive d).Ok N := by
  unfold Chip.stageLive
  extract_lets +onlyGivenNames mine
  clear_value mine
  extract_lets +onlyGivenNames s
  have hs : Chip.Ok N s := by
    dsimp only [s]
    repeat'
      first
      | with_reducible assumption | with_reducible apply Chip.foldl_ok | intro _ _ _ _ | intro _ _ _ | dsimp only
      | with_reducible apply tabPut_wf | with_reducible apply tabClear_wf | with_reducible apply tabFilter_wf
      | with_reducible apply tabMap_wf | with_reducible apply tabWf_nil | with_reducible apply emptyLog
      | with_reducible apply Chip.Ok.count | with_reducible apply Chip.Ok.log | with_reducible apply Chip.Ok.regs
      | with_reducible apply Chip.Ok.shadow | with_reducible apply Chip.Ok.staged
      | with_reducible apply Chip.Ok.lib | with_reducible apply Chip.Ok.poison
      | with_reducible apply Chip.Ok.libLive | with_reducible apply Chip.Ok.libStaged
      | with_reducible apply Chip.Ok.volStage | with_reducible apply Chip.Ok.dies
      | with_reducible apply Chip.Ok.cals | with_reducible apply Chip.Ok.slots | with_reducible apply Chip.Ok.ports
      | with_reducible apply Chip.Ok.vols | with_reducible apply Chip.Ok.rets | with_reducible apply Chip.Ok.hosts
      | with_reducible apply Chip.Ok.of
  clear_value s
  repeat'
    first
    | with_reducible assumption | with_reducible apply Chip.showPend_ok | intro _ _ _ _ | intro _ _ _ | dsimp only
    | with_reducible apply tabPut_wf | with_reducible apply tabClear_wf | with_reducible apply tabFilter_wf
    | with_reducible apply tabMap_wf | with_reducible apply tabWf_nil | with_reducible apply emptyLog
    | with_reducible apply Chip.Ok.count | with_reducible apply Chip.Ok.log | with_reducible apply Chip.Ok.regs
    | with_reducible apply Chip.Ok.shadow | with_reducible apply Chip.Ok.staged | with_reducible apply Chip.Ok.lib
    | with_reducible apply Chip.Ok.poison | with_reducible apply Chip.Ok.libLive
    | with_reducible apply Chip.Ok.libStaged | with_reducible apply Chip.Ok.volStage
    | with_reducible apply Chip.Ok.dies | with_reducible apply Chip.Ok.cals | with_reducible apply Chip.Ok.slots
    | with_reducible apply Chip.Ok.ports | with_reducible apply Chip.Ok.vols | with_reducible apply Chip.Ok.rets
    | with_reducible apply Chip.Ok.hosts | with_reducible apply Chip.Ok.of

theorem Chip.unstageLive_ok {N : Nat} {s : Chip} (hk : s.Ok N) (d : Nat) : (s.unstageLive d).Ok N := by
  unfold Chip.unstageLive
  extract_lets +onlyGivenNames mine
  clear_value mine
  extract_lets +onlyGivenNames s
  have hs : Chip.Ok N s := by
    dsimp only [s]
    repeat'
      first
      | with_reducible assumption | with_reducible apply Chip.setLive_ok | with_reducible apply Chip.foldl_ok
      | intro _ _ _ _ | intro _ _ _ | dsimp only
  clear_value s
  repeat'
    first
    | with_reducible assumption | with_reducible apply Chip.showPend_ok | intro _ _ _ _ | intro _ _ _ | dsimp only
    | with_reducible apply tabPut_wf | with_reducible apply tabClear_wf | with_reducible apply tabFilter_wf
    | with_reducible apply tabMap_wf | with_reducible apply tabWf_nil | with_reducible apply emptyLog
    | with_reducible apply Chip.Ok.count | with_reducible apply Chip.Ok.log | with_reducible apply Chip.Ok.regs
    | with_reducible apply Chip.Ok.shadow | with_reducible apply Chip.Ok.staged | with_reducible apply Chip.Ok.lib
    | with_reducible apply Chip.Ok.poison | with_reducible apply Chip.Ok.libLive
    | with_reducible apply Chip.Ok.libStaged | with_reducible apply Chip.Ok.volStage
    | with_reducible apply Chip.Ok.dies | with_reducible apply Chip.Ok.cals | with_reducible apply Chip.Ok.slots
    | with_reducible apply Chip.Ok.ports | with_reducible apply Chip.Ok.vols | with_reducible apply Chip.Ok.rets
    | with_reducible apply Chip.Ok.hosts | with_reducible apply Chip.Ok.of

theorem Chip.dropLive_ok {N : Nat} {s : Chip} (hk : s.Ok N) (d : Nat) : (s.dropLive d).Ok N := by
  unfold Chip.dropLive
  repeat'
    first
    | with_reducible assumption | intro _ _ _ _ | intro _ _ _ | dsimp only | with_reducible apply tabPut_wf
    | with_reducible apply tabClear_wf | with_reducible apply tabFilter_wf | with_reducible apply tabMap_wf
    | with_reducible apply tabWf_nil | with_reducible apply emptyLog | with_reducible apply Chip.Ok.count
    | with_reducible apply Chip.Ok.log | with_reducible apply Chip.Ok.regs | with_reducible apply Chip.Ok.shadow
    | with_reducible apply Chip.Ok.staged | with_reducible apply Chip.Ok.lib | with_reducible apply Chip.Ok.poison
    | with_reducible apply Chip.Ok.libLive | with_reducible apply Chip.Ok.libStaged
    | with_reducible apply Chip.Ok.volStage | with_reducible apply Chip.Ok.dies | with_reducible apply Chip.Ok.cals
    | with_reducible apply Chip.Ok.slots | with_reducible apply Chip.Ok.ports | with_reducible apply Chip.Ok.vols
    | with_reducible apply Chip.Ok.rets | with_reducible apply Chip.Ok.hosts | with_reducible apply Chip.Ok.of

theorem Chip.loadLive_ok {N : Nat} {s : Chip} (hk : s.Ok N) (d : Nat) (f : Nat → Bool) : (s.loadLive d f).Ok N := by
  unfold Chip.loadLive
  extract_lets +onlyGivenNames mine
  clear_value mine
  extract_lets +onlyGivenNames s
  have hs : Chip.Ok N s := by
    dsimp only [s]
    repeat'
      first
      | with_reducible assumption | intro _ _ _ _ | intro _ _ _ | dsimp only | with_reducible apply tabPut_wf
      | with_reducible apply tabClear_wf | with_reducible apply tabFilter_wf | with_reducible apply tabMap_wf
      | with_reducible apply tabWf_nil | with_reducible apply emptyLog | with_reducible apply Chip.Ok.count
      | with_reducible apply Chip.Ok.log | with_reducible apply Chip.Ok.regs | with_reducible apply Chip.Ok.shadow
      | with_reducible apply Chip.Ok.staged | with_reducible apply Chip.Ok.lib
      | with_reducible apply Chip.Ok.poison | with_reducible apply Chip.Ok.libLive
      | with_reducible apply Chip.Ok.libStaged | with_reducible apply Chip.Ok.volStage
      | with_reducible apply Chip.Ok.dies | with_reducible apply Chip.Ok.cals | with_reducible apply Chip.Ok.slots
      | with_reducible apply Chip.Ok.ports | with_reducible apply Chip.Ok.vols | with_reducible apply Chip.Ok.rets
      | with_reducible apply Chip.Ok.hosts | with_reducible apply Chip.Ok.of
  clear_value s
  repeat'
    first
    | with_reducible assumption | with_reducible apply Chip.putEntry_ok | with_reducible apply Chip.reloadCopies_ok
    | with_reducible apply Chip.foldl_ok | intro _ _ _ _ | intro _ _ _ | split | dsimp only
    | with_reducible apply tabPut_wf | with_reducible apply tabClear_wf | with_reducible apply tabFilter_wf
    | with_reducible apply tabMap_wf | with_reducible apply tabWf_nil | with_reducible apply emptyLog
    | with_reducible apply Chip.Ok.count | with_reducible apply Chip.Ok.log | with_reducible apply Chip.Ok.regs
    | with_reducible apply Chip.Ok.shadow | with_reducible apply Chip.Ok.staged | with_reducible apply Chip.Ok.lib
    | with_reducible apply Chip.Ok.poison | with_reducible apply Chip.Ok.libLive
    | with_reducible apply Chip.Ok.libStaged | with_reducible apply Chip.Ok.volStage
    | with_reducible apply Chip.Ok.dies | with_reducible apply Chip.Ok.cals | with_reducible apply Chip.Ok.slots
    | with_reducible apply Chip.Ok.ports | with_reducible apply Chip.Ok.vols | with_reducible apply Chip.Ok.rets
    | with_reducible apply Chip.Ok.hosts | with_reducible apply Chip.Ok.of

theorem Chip.mirrorWrite_ok {N : Nat} {s : Chip} (hk : s.Ok N) (d : Nat) : (s.mirrorWrite d).Ok N := by
  unfold Chip.mirrorWrite
  repeat'
    first
    | with_reducible assumption | with_reducible apply Chip.setRaw_ok | with_reducible apply Chip.setPoison_ok
    | intro _ _ _ _ | intro _ _ _ | split | dsimp only | with_reducible apply tabPut_wf
    | with_reducible apply tabClear_wf | with_reducible apply tabFilter_wf | with_reducible apply tabMap_wf
    | with_reducible apply tabWf_nil | with_reducible apply emptyLog | with_reducible apply Chip.Ok.count
    | with_reducible apply Chip.Ok.log | with_reducible apply Chip.Ok.regs | with_reducible apply Chip.Ok.shadow
    | with_reducible apply Chip.Ok.staged | with_reducible apply Chip.Ok.lib | with_reducible apply Chip.Ok.poison
    | with_reducible apply Chip.Ok.libLive | with_reducible apply Chip.Ok.libStaged
    | with_reducible apply Chip.Ok.volStage | with_reducible apply Chip.Ok.dies | with_reducible apply Chip.Ok.cals
    | with_reducible apply Chip.Ok.slots | with_reducible apply Chip.Ok.ports | with_reducible apply Chip.Ok.vols
    | with_reducible apply Chip.Ok.rets | with_reducible apply Chip.Ok.hosts | with_reducible apply Chip.Ok.of

theorem Chip.homeCopy_ok {N : Nat} {s : Chip} (hk : s.Ok N)
    (o v : Nat) (upd : Bool) :
    (s.homeCopy o v upd).Ok N := by
  unfold Chip.homeCopy
  repeat'
    first
    | with_reducible assumption | with_reducible apply Chip.readEntry_ok | with_reducible apply Chip.setRaw_ok
    | with_reducible apply Chip.setPoison_ok | with_reducible apply Chip.ite_ok | split | dsimp only
    | with_reducible apply tabPut_wf | with_reducible apply tabClear_wf | with_reducible apply tabFilter_wf
    | with_reducible apply tabMap_wf | with_reducible apply tabWf_nil | with_reducible apply emptyLog
    | with_reducible apply Chip.Ok.count | with_reducible apply Chip.Ok.log | with_reducible apply Chip.Ok.regs
    | with_reducible apply Chip.Ok.shadow | with_reducible apply Chip.Ok.staged | with_reducible apply Chip.Ok.lib
    | with_reducible apply Chip.Ok.poison | with_reducible apply Chip.Ok.libLive
    | with_reducible apply Chip.Ok.libStaged | with_reducible apply Chip.Ok.volStage
    | with_reducible apply Chip.Ok.dies | with_reducible apply Chip.Ok.cals | with_reducible apply Chip.Ok.slots
    | with_reducible apply Chip.Ok.ports | with_reducible apply Chip.Ok.vols | with_reducible apply Chip.Ok.rets
    | with_reducible apply Chip.Ok.hosts | with_reducible apply Chip.Ok.of
    | with_reducible refine Chip.fst_ok (by assumption) ?_

theorem Chip.mirrorBack_ok {N : Nat} {s : Chip} (hk : s.Ok N) (k v : Nat) : (s.mirrorBack k v).Ok N := by
  unfold Chip.mirrorBack
  extract_lets +onlyGivenNames t
  have ht : Chip.Ok N t := by
    dsimp only [t]
    repeat'
      first
      | with_reducible assumption | with_reducible apply Chip.setRaw_ok | dsimp only
  clear_value t
  repeat'
    first
    | with_reducible assumption | with_reducible apply Chip.homeCopy_ok | with_reducible apply Chip.ite_ok
    | intro _ _ _ _ | intro _ _ _ | split | dsimp only | with_reducible apply tabPut_wf
    | with_reducible apply tabClear_wf | with_reducible apply tabFilter_wf | with_reducible apply tabMap_wf
    | with_reducible apply tabWf_nil | with_reducible apply emptyLog | with_reducible apply Chip.Ok.count
    | with_reducible apply Chip.Ok.log | with_reducible apply Chip.Ok.regs | with_reducible apply Chip.Ok.shadow
    | with_reducible apply Chip.Ok.staged | with_reducible apply Chip.Ok.lib | with_reducible apply Chip.Ok.poison
    | with_reducible apply Chip.Ok.libLive | with_reducible apply Chip.Ok.libStaged
    | with_reducible apply Chip.Ok.volStage | with_reducible apply Chip.Ok.dies | with_reducible apply Chip.Ok.cals
    | with_reducible apply Chip.Ok.slots | with_reducible apply Chip.Ok.ports | with_reducible apply Chip.Ok.vols
    | with_reducible apply Chip.Ok.rets | with_reducible apply Chip.Ok.hosts | with_reducible apply Chip.Ok.of

theorem Chip.upset_ok {N : Nat} {s : Chip} (hk : s.Ok N) (d : Nat) (l : List (Nat × Nat)) : (s.upset d l).Ok N := by
  unfold Chip.upset
  repeat'
    first
    | with_reducible assumption | with_reducible apply Chip.setRaw_ok | with_reducible apply Chip.foldl_ok
    | intro _ _ _ _ | intro _ _ _ | dsimp only

theorem Chip.scrubShow_ok {N : Nat} {s : Chip} (hk : s.Ok N) (d : Nat) : (s.scrubShow d).Ok N := by
  unfold Chip.scrubShow
  repeat'
    first
    | with_reducible assumption | with_reducible apply Chip.setB_ok | intro _ _ _ _ | intro _ _ _ | dsimp only

theorem Chip.scrub_ok {N : Nat} {s : Chip} (hk : s.Ok N) (d : Nat) (l : List (Nat × Nat)) : (s.scrub d l).Ok N := by
  unfold Chip.scrub
  extract_lets +onlyGivenNames s
  have hs : Chip.Ok N s := by
    dsimp only [s]
    repeat'
      first
      | with_reducible assumption | with_reducible apply Chip.upset_ok | dsimp only
  clear_value s
  repeat'
    first
    | with_reducible assumption | with_reducible apply Chip.each_ok | with_reducible apply Chip.readEntry_ok
    | with_reducible apply Chip.modDie_ok | with_reducible apply Chip.scrubShow_ok
    | with_reducible apply Chip.ite_ok | with_reducible apply Chip.each_ok | intro _ _ _ _ | intro _ _ _
    | dsimp only | with_reducible refine Chip.fst_ok (by assumption) ?_

theorem Chip.mirrorFetch_ok {N : Nat} {s : Chip} (hk : s.Ok N) (k : Nat) : (s.mirrorFetch k).Ok N := by
  unfold Chip.mirrorFetch
  extract_lets +onlyGivenNames d
  clear_value d
  extract_lets +onlyGivenNames s
  have hs : Chip.Ok N s := by
    dsimp only [s]
    repeat'
      first
      | with_reducible assumption | with_reducible apply Chip.modDie_ok | with_reducible apply Chip.scrubShow_ok
      | intro _ _ _ _ | intro _ _ _ | dsimp only
  clear_value s
  repeat'
    first
    | with_reducible assumption | with_reducible apply Chip.readEntry_ok | with_reducible apply Chip.setRaw_ok
    | with_reducible apply Chip.setPoison_ok | with_reducible apply Chip.raise_ok
    | with_reducible apply Chip.bump_ok | with_reducible apply Chip.ite_ok | split | dsimp only
    | with_reducible refine Chip.fst_ok (by assumption) ?_

theorem Chip.kickLoad_ok {N : Nat} {s : Chip} (hk : s.Ok N) (d : Nat) : (s.kickLoad d).Ok N := by
  unfold Chip.kickLoad
  extract_lets +onlyGivenNames lens
  clear_value lens
  repeat'
    first
    | with_reducible assumption | with_reducible apply Chip.dropStaged_ok | with_reducible apply Chip.raiseF3_ok
    | with_reducible apply Chip.loadStaged_ok | with_reducible apply Chip.ite_ok | intro _ _ _ _ | intro _ _ _
    | dsimp only

end Sys2Proof.Machine
end

