-- ==== Sys2Proof/Laws/Ok/Tone.lean ====
section
/-!
SUPPORT. Laws/Ok/Tone.lean: every operation of Machine/Tone.lean keeps a package in good order.
-/

namespace Sys2Proof.Machine

theorem Chip.noteHop_ok {N : Nat} {s : Chip} (hk : s.Ok N) (d sl m : Nat) : (s.noteHop d sl m).Ok N := by
  unfold Chip.noteHop
  repeat'
    first
    | with_reducible assumption | with_reducible apply Chip.modSlot_ok | with_reducible apply Chip.ite_ok
    | intro _ _ _ _ | intro _ _ _ | dsimp only

theorem Chip.hop_ok {N : Nat} {s : Chip} (hk : s.Ok N) (d sl : Nat) (reset : Bool) : (s.hop d sl reset).Ok N := by
  unfold Chip.hop
  extract_lets +onlyGivenNames r
  clear_value r
  repeat'
    first
    | with_reducible assumption | with_reducible apply Chip.setSlot_ok | with_reducible apply Chip.raise_ok
    | with_reducible apply Chip.ite_ok | dsimp only

theorem Chip.hopNow_ok {N : Nat} {s : Chip} (hk : s.Ok N) (d sl : Nat) : (s.hopNow d sl).Ok N := by
  unfold Chip.hopNow
  extract_lets +onlyGivenNames m
  clear_value m
  repeat'
    first
    | with_reducible assumption | with_reducible apply Chip.modSlot_ok | with_reducible apply Chip.hop_ok
    | with_reducible apply Chip.ite_ok | intro _ _ _ _ | intro _ _ _ | dsimp only

theorem Chip.tempReading_ok {N : Nat} {s : Chip} (hk : s.Ok N) (d p k : Nat) : (s.tempReading d p k).Ok N := by
  unfold Chip.tempReading
  repeat'
    first
    | with_reducible assumption | with_reducible apply Chip.each_ok | with_reducible apply Chip.modSlot_ok
    | with_reducible apply Chip.set_ok | with_reducible apply Chip.each_ok | intro _ _ _ _ | intro _ _ _
    | dsimp only

theorem Chip.tempTick_ok {N : Nat} {s : Chip} (hk : s.Ok N) (d sl : Nat) : (s.tempTick d sl).Ok N := by
  unfold Chip.tempTick
  repeat'
    first
    | with_reducible assumption | with_reducible apply Chip.modSlot_ok | with_reducible apply Chip.set_ok
    | with_reducible apply Chip.ite_ok | intro _ _ _ _ | intro _ _ _ | dsimp only

theorem Chip.tempStale_ok {N : Nat} {s : Chip} (hk : s.Ok N) (d sl : Nat) : (s.tempStale d sl).Ok N := by
  unfold Chip.tempStale
  repeat'
    first
    | with_reducible assumption | with_reducible apply Chip.set_ok | with_reducible apply Chip.raise_ok
    | with_reducible apply Chip.ite_ok

theorem Chip.tempFresh_ok {N : Nat} {s : Chip} (hk : s.Ok N) (d sl : Nat) : (s.tempFresh d sl).Ok N := by
  unfold Chip.tempFresh
  extract_lets +onlyGivenNames k
  clear_value k
  extract_lets +onlyGivenNames p
  clear_value p
  extract_lets +onlyGivenNames age
  clear_value age
  extract_lets +onlyGivenNames s
  have hs : Chip.Ok N s := by
    dsimp only [s]
    repeat'
      first
      | with_reducible assumption | with_reducible apply Chip.modSlot_ok | intro _ _ _ _ | intro _ _ _ | dsimp only
  clear_value s
  repeat'
    first
    | with_reducible assumption | with_reducible apply Chip.set_ok | with_reducible apply Chip.tempStale_ok
    | with_reducible apply Chip.ite_ok

theorem Chip.compose_ok {N : Nat} {s : Chip} (hk : s.Ok N) (d sl n : Nat) : (s.compose d sl n).Ok N := by
  unfold Chip.compose
  extract_lets +onlyGivenNames r
  clear_value r
  extract_lets +onlyGivenNames s
  have hs : Chip.Ok N s := by
    dsimp only [s]
    repeat'
      first
      | with_reducible assumption | with_reducible apply Chip.set_ok | with_reducible apply Chip.ite_ok
      | dsimp only
  clear_value s
  extract_lets +onlyGivenNames s
  have hs : Chip.Ok N s := by
    dsimp only [s]
    repeat'
      first
      | with_reducible assumption | with_reducible apply Chip.setB_ok | dsimp only
  clear_value s
  repeat'
    first
    | with_reducible assumption | with_reducible apply Chip.set_ok | with_reducible apply Chip.setB_ok
    | with_reducible apply Chip.raise_ok | with_reducible apply Chip.ite_ok | dsimp only

theorem Chip.planRefuse_ok {N : Nat} {s : Chip} (hk : s.Ok N) (d sl : Nat) : (s.planRefuse d sl).Ok N := by
  unfold Chip.planRefuse
  repeat'
    first
    | with_reducible assumption | with_reducible apply Chip.each_ok | with_reducible apply Chip.dropStaged_ok
    | with_reducible apply Chip.raise_ok | with_reducible apply Chip.logF3_ok | with_reducible apply Chip.ite_ok
    | with_reducible apply Chip.each_ok | with_reducible apply Chip.foldl_ok | intro _ _ _ _ | intro _ _ _
    | dsimp only

theorem Chip.planPass_ok {N : Nat} {s : Chip} (hk : s.Ok N) (d : Nat) : (s.planPass d).Ok N := by
  unfold Chip.planPass
  repeat'
    first
    | with_reducible assumption | with_reducible apply Chip.each_ok | with_reducible apply Chip.planRefuse_ok
    | with_reducible apply Chip.each_ok | intro _ _ _ _ | intro _ _ _ | dsimp only

theorem Chip.planPasses_ok {N : Nat} {s : Chip} (hk : s.Ok N) (d k : Nat) : (Chip.planPasses d k s).Ok N := by
  induction k generalizing s with
  | zero => exact hk
  | succ k ih =>
    unfold Chip.planPasses
    dsimp only
    have ht := planPass_ok hk d
    exact ite_ok ht (ih ht)

theorem Chip.planCheck_ok {N : Nat} {s : Chip} (hk : s.Ok N) (d : Nat) : (s.planCheck d).Ok N := by
  unfold Chip.planCheck
  repeat'
    first
    | with_reducible assumption | with_reducible apply Chip.planPasses_ok

end Sys2Proof.Machine
end

