-- ==== Sys2Proof/Laws/Ok/Loop.lean ====
section
/-!
SUPPORT. Laws/Ok/Loop.lean: every operation of Machine/Loop.lean keeps a package in good order.
-/

namespace Sys2Proof.Machine

theorem Chip.showLoop_ok {N : Nat} {s : Chip} (hk : s.Ok N) (d sl : Nat) : (s.showLoop d sl).Ok N := by
  unfold Chip.showLoop
  extract_lets +onlyGivenNames r
  clear_value r
  repeat'
    first
    | with_reducible assumption | with_reducible apply Chip.setReg_ok | with_reducible apply Chip.ite_ok

theorem Chip.captureLoop_ok {N : Nat} {s : Chip} (hk : s.Ok N)
    (d sl : Nat) (i q : Option Int) :
    (s.captureLoop d sl i q).Ok N := by
  unfold Chip.captureLoop
  extract_lets +onlyGivenNames r
  clear_value r
  extract_lets +onlyGivenNames s
  have hs : Chip.Ok N s := by
    dsimp only [s]
    repeat'
      first
      | with_reducible assumption | with_reducible apply Chip.setI_ok | split | dsimp only
  clear_value s
  extract_lets +onlyGivenNames s
  have hs : Chip.Ok N s := by
    dsimp only [s]
    repeat'
      first
      | with_reducible assumption | with_reducible apply Chip.setI_ok | split | dsimp only
  clear_value s
  repeat'
    first
    | with_reducible assumption | with_reducible apply Chip.setI_ok | with_reducible apply Chip.showLoop_ok

theorem Chip.badSample_ok {N : Nat} {s : Chip} (hk : s.Ok N) (d sl c : Nat) : (s.badSample d sl c).Ok N := by
  unfold Chip.badSample
  extract_lets +onlyGivenNames r
  clear_value r
  extract_lets +onlyGivenNames r
  clear_value r
  repeat'
    first
    | with_reducible assumption | with_reducible apply Chip.setSlot_ok | with_reducible apply Chip.raise_ok
    | with_reducible apply Chip.showLoop_ok | with_reducible apply Chip.ite_ok

theorem Chip.accumulate_ok {N : Nat} {s : Chip} (hk : s.Ok N)
    (d sl m : Nat) (byp : Bool) :
    (s.accumulate d sl m byp).Ok N := by
  unfold Chip.accumulate
  repeat'
    first
    | with_reducible assumption | with_reducible apply Chip.raise_ok | with_reducible apply Chip.setSlot_ok
    | with_reducible apply Chip.showLoop_ok | with_reducible apply Chip.badSample_ok
    | with_reducible apply Chip.ite_ok | split | dsimp only | with_reducible apply tabPut_wf
    | with_reducible apply tabClear_wf | with_reducible apply tabFilter_wf | with_reducible apply tabMap_wf
    | with_reducible apply tabWf_nil | with_reducible apply emptyLog | with_reducible apply Chip.Ok.count
    | with_reducible apply Chip.Ok.log | with_reducible apply Chip.Ok.regs | with_reducible apply Chip.Ok.shadow
    | with_reducible apply Chip.Ok.staged | with_reducible apply Chip.Ok.lib | with_reducible apply Chip.Ok.poison
    | with_reducible apply Chip.Ok.libLive | with_reducible apply Chip.Ok.libStaged
    | with_reducible apply Chip.Ok.volStage | with_reducible apply Chip.Ok.dies | with_reducible apply Chip.Ok.cals
    | with_reducible apply Chip.Ok.slots | with_reducible apply Chip.Ok.ports | with_reducible apply Chip.Ok.vols
    | with_reducible apply Chip.Ok.rets | with_reducible apply Chip.Ok.hosts | with_reducible apply Chip.Ok.of

theorem Chip.discardSample_ok {N : Nat} {s : Chip} (hk : s.Ok N)
    (d sl c : Nat) :
    (s.discardSample d sl c).Ok N := by
  unfold Chip.discardSample
  repeat'
    first
    | with_reducible assumption | with_reducible apply Chip.modSlot_ok | with_reducible apply Chip.badSample_ok
    | intro _ _ _ _ | intro _ _ _ | dsimp only

theorem Chip.excludedBad_ok {N : Nat} {s : Chip} (hk : s.Ok N) (d sl c : Nat) : (s.excludedBad d sl c).Ok N := by
  unfold Chip.excludedBad
  repeat'
    first
    | with_reducible assumption | with_reducible apply Chip.modSlot_ok | with_reducible apply Chip.showLoop_ok
    | intro _ _ _ _ | intro _ _ _ | dsimp only

theorem Chip.bypCheck_ok {N : Nat} {s : Chip} (hk : s.Ok N) (d sl : Nat) : (s.bypCheck d sl).Ok N := by
  unfold Chip.bypCheck
  repeat'
    first
    | with_reducible assumption | with_reducible apply Chip.discardSample_ok
    | with_reducible apply Chip.excludedBad_ok | with_reducible apply Chip.ite_ok

theorem Chip.writeBack_ok {N : Nat} {s : Chip} (hk : s.Ok N)
    (d sl : Nat) (q : Option Nat) :
    (s.writeBack d sl q).Ok N := by
  unfold Chip.writeBack
  extract_lets +onlyGivenNames r
  clear_value r
  repeat'
    first
    | with_reducible assumption | with_reducible apply Chip.readEntry_ok | with_reducible apply Chip.putEntry_ok
    | with_reducible apply Chip.mirrorBack_ok | with_reducible apply Chip.parkChanged_ok
    | with_reducible apply Chip.raise_ok | with_reducible apply Chip.ite_ok | split | dsimp only
    | with_reducible apply tabPut_wf | with_reducible apply tabClear_wf | with_reducible apply tabFilter_wf
    | with_reducible apply tabMap_wf | with_reducible apply tabWf_nil | with_reducible apply emptyLog
    | with_reducible apply Chip.Ok.count | with_reducible apply Chip.Ok.log | with_reducible apply Chip.Ok.regs
    | with_reducible apply Chip.Ok.shadow | with_reducible apply Chip.Ok.staged | with_reducible apply Chip.Ok.lib
    | with_reducible apply Chip.Ok.poison | with_reducible apply Chip.Ok.libLive
    | with_reducible apply Chip.Ok.libStaged | with_reducible apply Chip.Ok.volStage
    | with_reducible apply Chip.Ok.dies | with_reducible apply Chip.Ok.cals | with_reducible apply Chip.Ok.slots
    | with_reducible apply Chip.Ok.ports | with_reducible apply Chip.Ok.vols | with_reducible apply Chip.Ok.rets
    | with_reducible apply Chip.Ok.hosts | with_reducible apply Chip.Ok.of
    | with_reducible refine Chip.fst_ok (by assumption) ?_

theorem Chip.findEntry_ok {N : Nat} {s : Chip} (hk : s.Ok N) (d sl q : Nat) : (s.findEntry d sl q).1.Ok N := by
  unfold Chip.findEntry
  extract_lets +onlyGivenNames park
  subst park
  repeat'
    first
    | with_reducible assumption | with_reducible apply Chip.raise_ok | with_reducible apply Chip.raiseF2_ok
    | with_reducible apply Chip.readEntry_ok | with_reducible apply Chip.ite_fst_ok | intro _ _ _ _ | intro _ _ _
    | dsimp only | split | with_reducible refine Chip.fst_ok (by assumption) ?_

theorem Chip.showState_ok {N : Nat} {s : Chip} (hk : s.Ok N) (d sl q : Nat) : (s.showState d sl q).Ok N := by
  unfold Chip.showState
  repeat'
    first
    | with_reducible assumption | with_reducible apply Chip.set_ok

theorem Chip.changeState_ok {N : Nat} {s : Chip} (hk : s.Ok N)
    (d sl q : Nat) (pol : Policy) (hop : Option Nat) (park edge : Bool) :
    (s.changeState d sl q pol hop park edge).Ok N := by
  unfold Chip.changeState
  extract_lets +onlyGivenNames b
  clear_value b
  extract_lets +onlyGivenNames again
  clear_value again
  extract_lets +onlyGivenNames fresh
  clear_value fresh
  extract_lets +onlyGivenNames s
  have hs : Chip.Ok N s := by
    dsimp only [s]
    repeat'
      first
      | with_reducible assumption | with_reducible apply Chip.writeBack_ok | with_reducible apply Chip.ite_ok
      | dsimp only
  clear_value s
  repeat'
    first
    | with_reducible assumption | with_reducible apply Chip.readEntry_ok | with_reducible apply Chip.findEntry_ok
    | with_reducible apply Chip.setSlot_ok | with_reducible apply Chip.showState_ok
    | with_reducible apply Chip.noteHop_ok | with_reducible apply Chip.captureLoop_ok
    | with_reducible apply Chip.ite_ok | split | dsimp only | with_reducible refine Chip.fst_ok (by assumption) ?_

theorem Chip.parkSlot_ok {N : Nat} {s : Chip} (hk : s.Ok N) (d sl : Nat) : (s.parkSlot d sl).Ok N := by
  unfold Chip.parkSlot
  repeat'
    first
    | with_reducible assumption | with_reducible apply Chip.changeState_ok

theorem Chip.parityPark_ok {N : Nat} {s : Chip} (hk : s.Ok N) (d sl : Nat) : (s.parityPark d sl).Ok N := by
  unfold Chip.parityPark
  repeat'
    first
    | with_reducible assumption | with_reducible apply Chip.raiseF2_ok | with_reducible apply Chip.parkSlot_ok
    | with_reducible apply Chip.ite_ok

theorem Chip.enableWith_ok {N : Nat} {s : Chip} (hk : s.Ok N)
    (d sl : Nat) (pol : Policy) :
    (s.enableWith d sl pol).Ok N := by
  unfold Chip.enableWith
  extract_lets +onlyGivenNames s
  have hs : Chip.Ok N s := by
    dsimp only [s]
    repeat'
      first
      | with_reducible assumption | with_reducible apply Chip.modSlot_ok | intro _ _ _ _ | intro _ _ _ | dsimp only
  clear_value s
  repeat'
    first
    | with_reducible assumption | with_reducible apply Chip.changeState_ok | with_reducible apply Chip.tempFresh_ok

theorem Chip.enableSlot_ok {N : Nat} {s : Chip} (hk : s.Ok N) (d sl : Nat) : (s.enableSlot d sl).Ok N := by
  unfold Chip.enableSlot
  repeat'
    first
    | with_reducible assumption | with_reducible apply Chip.enableWith_ok

theorem Chip.disableSlot_ok {N : Nat} {s : Chip} (hk : s.Ok N) (d sl : Nat) : (s.disableSlot d sl).Ok N := by
  unfold Chip.disableSlot
  repeat'
    first
    | with_reducible assumption | with_reducible apply Chip.writeBack_ok | with_reducible apply Chip.modSlot_ok
    | with_reducible apply Chip.set_ok | with_reducible apply Chip.parkLoad_ok
    | with_reducible apply Chip.captureLoop_ok | with_reducible apply Chip.ite_ok | intro _ _ _ _ | intro _ _ _
    | dsimp only

theorem Chip.loopFault_ok {N : Nat} {s : Chip} (hk : s.Ok N)
    (d sl cause : Nat) :
    (s.loopFault d sl cause).Ok N := by
  unfold Chip.loopFault
  extract_lets +onlyGivenNames s
  have hs : Chip.Ok N s := by
    dsimp only [s]
    repeat'
      first
      | with_reducible assumption | with_reducible apply Chip.modSlot_ok | with_reducible apply Chip.raise_ok
      | intro _ _ _ _ | intro _ _ _ | dsimp only
  clear_value s
  repeat'
    first
    | with_reducible assumption | with_reducible apply Chip.raiseF2_ok

theorem Chip.demodOverrule_ok {N : Nat} {s : Chip} (hk : s.Ok N) (d sl : Nat) : (s.demodOverrule d sl).Ok N := by
  unfold Chip.demodOverrule
  repeat'
    first
    | with_reducible assumption | with_reducible apply Chip.modSlot_ok | with_reducible apply Chip.raise_ok
    | with_reducible apply Chip.ite_ok | intro _ _ _ _ | intro _ _ _ | dsimp only

theorem Chip.demodSlew_ok {N : Nat} {s : Chip} (hk : s.Ok N) (d sl : Nat) : (s.demodSlew d sl).Ok N := by
  unfold Chip.demodSlew
  repeat'
    first
    | with_reducible assumption | with_reducible apply Chip.demodOverrule_ok | with_reducible apply Chip.set_ok
    | with_reducible apply Chip.modSlot_ok | with_reducible apply Chip.ite_ok | intro _ _ _ _ | intro _ _ _ | split
    | dsimp only

theorem Chip.demodCollect_ok {N : Nat} {s : Chip} (hk : s.Ok N) (d sl : Nat) : (s.demodCollect d sl).Ok N := by
  unfold Chip.demodCollect
  repeat'
    first
    | with_reducible assumption | with_reducible apply Chip.modSlot_ok | with_reducible apply Chip.ite_ok
    | intro _ _ _ _ | intro _ _ _ | dsimp only

theorem Chip.windowEnd_ok {N : Nat} {s : Chip} (hk : s.Ok N) (d sl : Nat) : (s.windowEnd d sl).Ok N := by
  unfold Chip.windowEnd
  extract_lets +onlyGivenNames s
  have hs : Chip.Ok N s := by
    dsimp only [s]
    repeat'
      first
      | with_reducible assumption | with_reducible apply Chip.demodSlew_ok
      | with_reducible apply Chip.demodCollect_ok | dsimp only
  clear_value s
  extract_lets +onlyGivenNames r
  clear_value r
  extract_lets +onlyGivenNames i
  clear_value i
  extract_lets +onlyGivenNames q
  clear_value q
  extract_lets +onlyGivenNames held
  extract_lets +onlyGivenNames clean
  extract_lets +onlyGivenNames cleared
  clear_value cleared
  repeat'
    first
    | with_reducible assumption | with_reducible apply Chip.setSlot_ok | with_reducible apply Chip.modDie_ok
    | with_reducible apply Chip.raise_ok | with_reducible apply Chip.loopFault_ok
    | with_reducible apply Chip.captureLoop_ok | with_reducible apply Chip.parkSlot_ok
    | with_reducible apply Chip.ite_ok | intro _ _ _ _ | intro _ _ _ | split | dsimp only

theorem Chip.kickEnd_ok {N : Nat} {s : Chip} (hk : s.Ok N) (d sl : Nat) : (s.kickEnd d sl).Ok N := by
  unfold Chip.kickEnd
  extract_lets +onlyGivenNames r
  clear_value r
  repeat'
    first
    | with_reducible assumption | with_reducible apply Chip.setSlot_ok | with_reducible apply Chip.showLoop_ok
    | with_reducible apply Chip.ite_ok

theorem Chip.loopClear_ok {N : Nat} {s : Chip} (hk : s.Ok N) (d sl : Nat) : (s.loopClear d sl).Ok N := by
  unfold Chip.loopClear
  repeat'
    first
    | with_reducible assumption | with_reducible apply Chip.modSlot_ok | with_reducible apply Chip.ite_ok
    | intro _ _ _ _ | intro _ _ _ | dsimp only

theorem Chip.clearNow_ok {N : Nat} {s : Chip} (hk : s.Ok N) (d sl : Nat) : (s.clearNow d sl).Ok N := by
  unfold Chip.clearNow
  extract_lets +onlyGivenNames r
  clear_value r
  extract_lets +onlyGivenNames closed
  clear_value closed
  repeat'
    first
    | with_reducible assumption | with_reducible apply Chip.setSlot_ok | with_reducible apply Chip.captureLoop_ok
    | with_reducible apply Chip.ite_ok

theorem Chip.loopCheck_ok {N : Nat} {s : Chip} (hk : s.Ok N) (d sl : Nat) : (s.loopCheck d sl).Ok N := by
  unfold Chip.loopCheck
  extract_lets +onlyGivenNames lo
  clear_value lo
  repeat'
    first
    | with_reducible assumption | with_reducible apply Chip.dropStaged_ok | with_reducible apply Chip.raiseF3_ok
    | with_reducible apply Chip.ite_ok

theorem Chip.loopEn_ok {N : Nat} {s : Chip} (hk : s.Ok N) (d sl : Nat) (en0 : Bool) : (s.loopEn d sl en0).Ok N := by
  unfold Chip.loopEn
  extract_lets +onlyGivenNames en
  clear_value en
  repeat'
    first
    | with_reducible assumption | with_reducible apply Chip.modSlot_ok | with_reducible apply Chip.setSlot_ok
    | with_reducible apply Chip.captureLoop_ok | with_reducible apply Chip.ite_ok | intro _ _ _ _ | intro _ _ _
    | dsimp only

theorem Chip.slotLoad_ok {N : Nat} {s : Chip} (hk : s.Ok N) (d sl : Nat) : (s.slotLoad d sl).Ok N := by
  unfold Chip.slotLoad
  extract_lets +onlyGivenNames lo
  clear_value lo
  repeat'
    first
    | with_reducible assumption | with_reducible apply Chip.calAbort_ok
    | with_reducible apply Chip.demodOverrule_ok | with_reducible apply Chip.loadStaged_ok
    | with_reducible apply Chip.set_ok | with_reducible apply Chip.tempFresh_ok
    | with_reducible apply Chip.disableSlot_ok | with_reducible apply Chip.modSlot_ok
    | with_reducible apply Chip.noteHop_ok | with_reducible apply Chip.loopEn_ok | with_reducible apply Chip.ite_ok
    | intro _ _ _ _ | intro _ _ _ | dsimp only

theorem Chip.slotSwitch_ok {N : Nat} {s : Chip} (hk : s.Ok N) (d sl : Nat) : (s.slotSwitch d sl).Ok N := by
  unfold Chip.slotSwitch
  extract_lets +onlyGivenNames r
  clear_value r
  repeat'
    first
    | with_reducible assumption | with_reducible apply Chip.enableSlot_ok | with_reducible apply Chip.modSlot_ok
    | with_reducible apply Chip.changeState_ok | with_reducible apply Chip.ite_ok | intro _ _ _ _ | intro _ _ _
    | split | dsimp only

theorem Chip.commitSwitch_ok {N : Nat} {s : Chip} (hk : s.Ok N) : (s.commitSwitch).Ok N := by
  unfold Chip.commitSwitch
  repeat'
    first
    | with_reducible assumption | with_reducible apply Chip.each_ok | with_reducible apply Chip.slotSwitch_ok
    | with_reducible apply Chip.each_ok | intro _ _ _ _ | intro _ _ _ | dsimp only

theorem Chip.recvLoop_ok {N : Nat} {s : Chip} (hk : s.Ok N) (c : Nat) : (s.recvLoop c).Ok N := by
  unfold Chip.recvLoop
  extract_lets +onlyGivenNames d
  clear_value d
  extract_lets +onlyGivenNames sl
  clear_value sl
  repeat'
    first
    | with_reducible assumption | with_reducible apply Chip.ite_ok | intro _ _ _ _ | intro _ _ _ | dsimp only
    | with_reducible apply tabPut_wf | with_reducible apply tabClear_wf | with_reducible apply tabFilter_wf
    | with_reducible apply tabMap_wf | with_reducible apply tabWf_nil | with_reducible apply emptyLog
    | with_reducible apply Chip.Ok.count | with_reducible apply Chip.Ok.log | with_reducible apply Chip.Ok.regs
    | with_reducible apply Chip.Ok.shadow | with_reducible apply Chip.Ok.staged | with_reducible apply Chip.Ok.lib
    | with_reducible apply Chip.Ok.poison | with_reducible apply Chip.Ok.libLive
    | with_reducible apply Chip.Ok.libStaged | with_reducible apply Chip.Ok.volStage
    | with_reducible apply Chip.Ok.dies | with_reducible apply Chip.Ok.cals | with_reducible apply Chip.Ok.slots
    | with_reducible apply Chip.Ok.ports | with_reducible apply Chip.Ok.vols | with_reducible apply Chip.Ok.rets
    | with_reducible apply Chip.Ok.hosts | with_reducible apply Chip.Ok.of

theorem Chip.recvStandby_ok {N : Nat} {s : Chip} (hk : s.Ok N) (c : Nat) : (s.recvStandby c).Ok N := by
  unfold Chip.recvStandby
  extract_lets +onlyGivenNames d
  clear_value d
  extract_lets +onlyGivenNames sl
  clear_value sl
  repeat'
    first
    | with_reducible assumption | with_reducible apply Chip.ite_ok | intro _ _ _ _ | intro _ _ _ | dsimp only
    | with_reducible apply tabPut_wf | with_reducible apply tabClear_wf | with_reducible apply tabFilter_wf
    | with_reducible apply tabMap_wf | with_reducible apply tabWf_nil | with_reducible apply emptyLog
    | with_reducible apply Chip.Ok.count | with_reducible apply Chip.Ok.log | with_reducible apply Chip.Ok.regs
    | with_reducible apply Chip.Ok.shadow | with_reducible apply Chip.Ok.staged | with_reducible apply Chip.Ok.lib
    | with_reducible apply Chip.Ok.poison | with_reducible apply Chip.Ok.libLive
    | with_reducible apply Chip.Ok.libStaged | with_reducible apply Chip.Ok.volStage
    | with_reducible apply Chip.Ok.dies | with_reducible apply Chip.Ok.cals | with_reducible apply Chip.Ok.slots
    | with_reducible apply Chip.Ok.ports | with_reducible apply Chip.Ok.vols | with_reducible apply Chip.Ok.rets
    | with_reducible apply Chip.Ok.hosts | with_reducible apply Chip.Ok.of

theorem Chip.windowOnce_ok {N : Nat} {s : Chip} (hk : s.Ok N) (d sl : Nat) : (s.windowOnce d sl).Ok N := by
  unfold Chip.windowOnce
  extract_lets +onlyGivenNames s
  have hs : Chip.Ok N s := by
    dsimp only [s]
    repeat'
      first
      | with_reducible assumption | with_reducible apply Chip.bypCheck_ok | dsimp only
  clear_value s
  repeat'
    first
    | with_reducible assumption | with_reducible apply Chip.modSlot_ok | with_reducible apply Chip.windowEnd_ok
    | with_reducible apply Chip.ite_ok | intro _ _ _ _ | intro _ _ _ | dsimp only

end Sys2Proof.Machine
end

