-- ==== Sys2Proof/Laws/Ok/Links.lean ====
section
/-!
SUPPORT. Laws/Ok/Links.lean: every operation of Machine/Links.lean keeps a package in good order.
-/

namespace Sys2Proof.Machine

theorem Chip.setPort_ok {N : Nat} {s : Chip} (hk : s.Ok N) (d p : Nat) (r : PortRec) : (s.setPort d p r).Ok N := by
  unfold Chip.setPort
  repeat'
    first
    | with_reducible assumption | intro _ _ _ _ | intro _ _ _ | dsimp only | with_reducible apply tabPut_wf
    | with_reducible apply tabClear_wf | with_reducible apply tabFilter_wf | with_reducible apply tabMap_wf
    | with_reducible apply tabWf_nil | with_reducible apply emptyLog | with_reducible apply Chip.Ok.count
    | with_reducible apply Chip.Ok.log | with_reducible apply Chip.Ok.regs | with_reducible apply Chip.Ok.shadow
    | with_reducible apply Chip.Ok.staged | with_reducible apply Chip.Ok.lib | with_reducible apply Chip.Ok.poison
    | with_reducible apply Chip.Ok.libLive | with_reducible apply Chip.Ok.libStaged
    | with_reducible apply Chip.Ok.volStage | with_reducible apply Chip.Ok.dies | with_reducible apply Chip.Ok.cals
    | with_reducible apply Chip.Ok.slots | with_reducible apply Chip.Ok.ports | with_reducible apply Chip.Ok.vols
    | with_reducible apply Chip.Ok.rets | with_reducible apply Chip.Ok.hosts | with_reducible apply Chip.Ok.of

theorem Chip.modPort_ok {N : Nat} {s : Chip} (hk : s.Ok N)
    (d p : Nat) (f : PortRec → PortRec) :
    (s.modPort d p f).Ok N := by
  unfold Chip.modPort
  repeat'
    first
    | with_reducible assumption | with_reducible apply Chip.setPort_ok

theorem Chip.setEl_ok {N : Nat} {s : Chip} (hk : s.Ok N) (d p st : Nat) : (s.setEl d p st).Ok N := by
  unfold Chip.setEl
  extract_lets +onlyGivenNames up
  extract_lets +onlyGivenNames m
  clear_value m
  extract_lets +onlyGivenNames t
  have ht : Chip.Ok N t := by
    dsimp only [t]
    repeat'
      first
      | with_reducible assumption | with_reducible apply Chip.set_ok | with_reducible apply Chip.ite_ok
      | dsimp only
  clear_value t
  extract_lets +onlyGivenNames t
  have ht : Chip.Ok N t := by
    dsimp only [t]
    repeat'
      first
      | with_reducible assumption | with_reducible apply Chip.set_ok | with_reducible apply Chip.ite_ok
      | dsimp only
  clear_value t
  repeat'
    first
    | with_reducible assumption | with_reducible apply Chip.raise_ok | with_reducible apply Chip.ite_ok

theorem Chip.efeComplete_ok {N : Nat} {s : Chip} (hk : s.Ok N)
    (d p result data : Nat) (win ovr : Bool) (tag : Nat) :
    (s.efeComplete d p result data win ovr tag).Ok N := by
  unfold Chip.efeComplete
  extract_lets +onlyGivenNames t
  have ht : Chip.Ok N t := by
    dsimp only [t]
    repeat'
      first
      | with_reducible assumption | with_reducible apply Chip.setReg_ok | with_reducible apply Chip.set_ok
      | with_reducible apply Chip.ite_ok | dsimp only
  clear_value t
  repeat'
    first
    | with_reducible assumption | with_reducible apply Chip.modPort_ok | with_reducible apply Chip.raise_ok
    | intro _ _ _ _ | intro _ _ _ | dsimp only

theorem Chip.calDropPort_ok {N : Nat} {s : Chip} (hk : s.Ok N) (d p : Nat) : (s.calDropPort d p).Ok N := by
  unfold Chip.calDropPort
  extract_lets +onlyGivenNames ks
  clear_value ks
  repeat'
    first
    | with_reducible assumption | with_reducible apply Chip.each_ok | with_reducible apply Chip.modSlot_ok
    | with_reducible apply Chip.modPort_ok | with_reducible apply Chip.each_ok | intro _ _ _ _ | intro _ _ _
    | dsimp only

theorem Chip.calSpot_ok {N : Nat} {s : Chip} (hk : s.Ok N)
    (d p k : Nat) (x : Option Nat) :
    (s.calSpot d p k x).Ok N := by
  unfold Chip.calSpot
  extract_lets +onlyGivenNames good
  clear_value good
  extract_lets +onlyGivenNames ks
  clear_value ks
  extract_lets +onlyGivenNames s
  have hs : Chip.Ok N s := by
    dsimp only [s]
    repeat'
      first
      | with_reducible assumption | with_reducible apply Chip.each_ok | with_reducible apply Chip.modSlot_ok
      | with_reducible apply Chip.ite_ok | with_reducible apply Chip.each_ok | intro _ _ _ _ | intro _ _ _
      | dsimp only
  clear_value s
  repeat'
    first
    | with_reducible assumption | with_reducible apply Chip.modPort_ok | with_reducible apply Chip.ite_ok
    | intro _ _ _ _ | intro _ _ _ | dsimp only

theorem Chip.efeFlush_ok {N : Nat} {s : Chip} (hk : s.Ok N) (d p : Nat) : (s.efeFlush d p).Ok N := by
  unfold Chip.efeFlush
  extract_lets +onlyGivenNames r
  clear_value r
  extract_lets +onlyGivenNames hostTag
  clear_value hostTag
  extract_lets +onlyGivenNames t
  have ht : Chip.Ok N t := by
    dsimp only [t]
    repeat'
      first
      | with_reducible assumption | with_reducible apply Chip.setPort_ok | dsimp only
  clear_value t
  extract_lets +onlyGivenNames t
  have ht : Chip.Ok N t := by
    dsimp only [t]
    repeat'
      first
      | with_reducible assumption | with_reducible apply Chip.calDropPort_ok | with_reducible apply Chip.ite_ok
      | dsimp only
  clear_value t
  repeat'
    first
    | with_reducible assumption | with_reducible apply Chip.efeComplete_ok | split

theorem Chip.startPass_ok {N : Nat} {s : Chip} (hk : s.Ok N) (d p : Nat) : (s.startPass d p).Ok N := by
  unfold Chip.startPass
  extract_lets +onlyGivenNames c
  clear_value c
  repeat'
    first
    | with_reducible assumption | with_reducible apply Chip.modPort_ok | intro _ _ _ _ | intro _ _ _ | dsimp only

theorem Chip.efeSend_ok {N : Nat} {s : Chip} (hk : s.Ok N)
    (d p n : Nat) (c : EfeCmd) (host : Bool) :
    (s.efeSend d p n c host).Ok N := by
  unfold Chip.efeSend
  repeat'
    first
    | with_reducible assumption | with_reducible apply Chip.modPort_ok | intro _ _ _ _ | intro _ _ _ | dsimp only

theorem Chip.efeNext_ok {N : Nat} {s : Chip} (hk : s.Ok N) (d p n : Nat) : (s.efeNext d p n).Ok N := by
  unfold Chip.efeNext
  extract_lets +onlyGivenNames r
  clear_value r
  repeat'
    first
    | with_reducible assumption | with_reducible apply Chip.modPort_ok | with_reducible apply Chip.efeSend_ok
    | with_reducible apply Chip.calCount_ok | with_reducible apply Chip.ite_ok | intro _ _ _ _ | intro _ _ _
    | split | dsimp only

theorem Chip.efeRespond_ok {N : Nat} {s : Chip} (hk : s.Ok N)
    (d p tag result data : Nat) (win ovr : Bool) :
    (s.efeRespond d p tag result data win ovr).Ok N := by
  unfold Chip.efeRespond
  repeat'
    first
    | with_reducible assumption | with_reducible apply Chip.modPort_ok | with_reducible apply Chip.efeComplete_ok
    | with_reducible apply Chip.calSpot_ok | with_reducible apply Chip.ite_ok | intro _ _ _ _ | intro _ _ _ | split
    | dsimp only

theorem Chip.efeRetry_ok {N : Nat} {s : Chip} (hk : s.Ok N) (d p : Nat) : (s.efeRetry d p).Ok N := by
  unfold Chip.efeRetry
  repeat'
    first
    | with_reducible assumption | with_reducible apply Chip.modPort_ok | with_reducible apply Chip.efeComplete_ok
    | with_reducible apply Chip.calSpot_ok | with_reducible apply Chip.ite_ok | intro _ _ _ _ | intro _ _ _ | split
    | dsimp only | with_reducible apply tabPut_wf | with_reducible apply tabClear_wf
    | with_reducible apply tabFilter_wf | with_reducible apply tabMap_wf | with_reducible apply tabWf_nil
    | with_reducible apply emptyLog | with_reducible apply Chip.Ok.count | with_reducible apply Chip.Ok.log
    | with_reducible apply Chip.Ok.regs | with_reducible apply Chip.Ok.shadow | with_reducible apply Chip.Ok.staged
    | with_reducible apply Chip.Ok.lib | with_reducible apply Chip.Ok.poison | with_reducible apply Chip.Ok.libLive
    | with_reducible apply Chip.Ok.libStaged | with_reducible apply Chip.Ok.volStage
    | with_reducible apply Chip.Ok.dies | with_reducible apply Chip.Ok.cals | with_reducible apply Chip.Ok.slots
    | with_reducible apply Chip.Ok.ports | with_reducible apply Chip.Ok.vols | with_reducible apply Chip.Ok.rets
    | with_reducible apply Chip.Ok.hosts | with_reducible apply Chip.Ok.of

theorem Chip.efeWrite_ok {N : Nat} {s : Chip} (hk : s.Ok N) (d p : Nat) (v : Word) : (s.efeWrite d p v).Ok N := by
  unfold Chip.efeWrite
  extract_lets +onlyGivenNames op
  clear_value op
  repeat'
    first
    | with_reducible assumption | with_reducible apply Chip.set_ok | with_reducible apply Chip.raise_ok
    | with_reducible apply Chip.efeComplete_ok | with_reducible apply Chip.modPort_ok
    | with_reducible apply Chip.ite_ok | intro _ _ _ _ | intro _ _ _ | dsimp only

theorem Chip.spotTimeout_ok {N : Nat} {s : Chip} (hk : s.Ok N) (d p : Nat) : (s.spotTimeout d p).Ok N := by
  unfold Chip.spotTimeout
  repeat'
    first
    | with_reducible assumption | with_reducible apply Chip.efeComplete_ok | with_reducible apply Chip.raise_ok
    | with_reducible apply Chip.ite_ok | split

theorem Chip.portDrop_ok {N : Nat} {s : Chip} (hk : s.Ok N) (d p n : Nat) : (s.portDrop d p n).Ok N := by
  unfold Chip.portDrop
  extract_lets +onlyGivenNames n
  clear_value n
  extract_lets +onlyGivenNames t
  have ht : Chip.Ok N t := by
    dsimp only [t]
    repeat'
      first
      | with_reducible assumption | with_reducible apply Chip.calPortLost_ok
      | with_reducible apply Chip.efeFlush_ok | with_reducible apply Chip.modPort_ok | intro _ _ _ _ | intro _ _ _
      | dsimp only
  clear_value t
  repeat'
    first
    | with_reducible assumption | with_reducible apply Chip.set_ok | with_reducible apply Chip.farReset_ok

theorem Chip.sendNeg_ok {N : Nat} {s : Chip} (hk : s.Ok N) (d p : Nat) (go : Bool) : (s.sendNeg d p go).Ok N := by
  unfold Chip.sendNeg
  repeat'
    first
    | with_reducible assumption | with_reducible apply Chip.modPort_ok | intro _ _ _ _ | intro _ _ _ | split
    | dsimp only

theorem Chip.portSync_ok {N : Nat} {s : Chip} (hk : s.Ok N) (d p : Nat) : (s.portSync d p).Ok N := by
  unfold Chip.portSync
  extract_lets +onlyGivenNames t
  have ht : Chip.Ok N t := by
    dsimp only [t]
    repeat'
      first
      | with_reducible assumption | with_reducible apply Chip.modPort_ok | intro _ _ _ _ | intro _ _ _ | dsimp only
  clear_value t
  repeat'
    first
    | with_reducible assumption | with_reducible apply Chip.setEl_ok | with_reducible apply Chip.set_ok

theorem Chip.portFail_ok {N : Nat} {s : Chip} (hk : s.Ok N) (d p cause : Nat) : (s.portFail d p cause).Ok N := by
  unfold Chip.portFail
  extract_lets +onlyGivenNames t
  have ht : Chip.Ok N t := by
    dsimp only [t]
    repeat'
      first
      | with_reducible assumption | with_reducible apply Chip.setEl_ok | with_reducible apply Chip.set_ok
      | with_reducible apply Chip.raise_ok | dsimp only
  clear_value t
  repeat'
    first
    | with_reducible assumption | with_reducible apply Chip.raiseF2_ok | with_reducible apply Chip.modPort_ok
    | intro _ _ _ _ | intro _ _ _ | dsimp only

theorem Chip.portOff_ok {N : Nat} {s : Chip} (hk : s.Ok N) (d p : Nat) : (s.portOff d p).Ok N := by
  unfold Chip.portOff
  extract_lets +onlyGivenNames t
  have ht : Chip.Ok N t := by
    dsimp only [t]
    repeat'
      first
      | with_reducible assumption | with_reducible apply Chip.portDrop_ok | with_reducible apply Chip.ite_ok
      | dsimp only
  clear_value t
  repeat'
    first
    | with_reducible assumption | with_reducible apply Chip.setEl_ok | with_reducible apply Chip.set_ok
    | with_reducible apply Chip.modPort_ok | intro _ _ _ _ | intro _ _ _ | dsimp only

theorem Chip.portStart_ok {N : Nat} {s : Chip} (hk : s.Ok N) (d p : Nat) : (s.portStart d p).Ok N := by
  unfold Chip.portStart
  repeat'
    first
    | with_reducible assumption | with_reducible apply Chip.portSync_ok | with_reducible apply Chip.set_ok
    | with_reducible apply Chip.ite_ok

theorem Chip.linkLoss_ok {N : Nat} {s : Chip} (hk : s.Ok N) (d p : Nat) : (s.linkLoss d p).Ok N := by
  unfold Chip.linkLoss
  repeat'
    first
    | with_reducible assumption | with_reducible apply Chip.raiseF3_ok | with_reducible apply Chip.bump_ok
    | with_reducible apply Chip.portDrop_ok | with_reducible apply Chip.portSync_ok
    | with_reducible apply Chip.set_ok | with_reducible apply Chip.ite_ok | dsimp only

theorem Chip.retrain_ok {N : Nat} {s : Chip} (hk : s.Ok N) (d p : Nat) : (s.retrain d p).Ok N := by
  unfold Chip.retrain
  repeat'
    first
    | with_reducible assumption | with_reducible apply Chip.bump_ok | with_reducible apply Chip.portDrop_ok
    | with_reducible apply Chip.portSync_ok | with_reducible apply Chip.ite_ok

theorem Chip.portActive_ok {N : Nat} {s : Chip} (hk : s.Ok N) (d p : Nat) : (s.portActive d p).Ok N := by
  unfold Chip.portActive
  extract_lets +onlyGivenNames r
  clear_value r
  extract_lets +onlyGivenNames parked
  clear_value parked
  extract_lets +onlyGivenNames t
  have ht : Chip.Ok N t := by
    dsimp only [t]
    repeat'
      first
      | with_reducible assumption | with_reducible apply Chip.setEl_ok | with_reducible apply Chip.set_ok
      | dsimp only
  clear_value t
  extract_lets +onlyGivenNames t
  have ht : Chip.Ok N t := by
    dsimp only [t]
    repeat'
      first
      | with_reducible assumption | with_reducible apply Chip.modPort_ok | with_reducible apply Chip.ite_ok
      | intro _ _ _ _ | intro _ _ _ | dsimp only
  clear_value t
  extract_lets +onlyGivenNames t
  have ht : Chip.Ok N t := by
    dsimp only [t]
    repeat'
      first
      | with_reducible assumption | with_reducible apply Chip.parkAll_ok | with_reducible apply Chip.ite_ok
      | dsimp only
  clear_value t
  repeat'
    first
    | with_reducible assumption | with_reducible apply Chip.startPass_ok | with_reducible apply Chip.set_ok

theorem Chip.portWarm_ok {N : Nat} {s : Chip} (hk : s.Ok N) (d p : Nat) : (s.portWarm d p).Ok N := by
  unfold Chip.portWarm
  repeat'
    first
    | with_reducible assumption | with_reducible apply Chip.setEl_ok | with_reducible apply Chip.set_ok
    | with_reducible apply Chip.modPort_ok | intro _ _ _ _ | intro _ _ _ | dsimp only

theorem Chip.blockLock_ok {N : Nat} {s : Chip} (hk : s.Ok N) (d p : Nat) : (s.blockLock d p).Ok N := by
  unfold Chip.blockLock
  repeat'
    first
    | with_reducible assumption | with_reducible apply Chip.setEl_ok | with_reducible apply Chip.set_ok
    | with_reducible apply Chip.sendNeg_ok | with_reducible apply Chip.ite_ok

theorem Chip.takeStatus_ok {N : Nat} {s : Chip} (hk : s.Ok N)
    (d p : Nat) (h : Sys2Proof.UpHead) :
    (s.takeStatus d p h).Ok N := by
  unfold Chip.takeStatus
  extract_lets +onlyGivenNames st
  clear_value st
  extract_lets +onlyGivenNames s
  have hs : Chip.Ok N s := by
    dsimp only [s]
    repeat'
      first
      | with_reducible assumption | with_reducible apply Chip.set_ok | with_reducible apply Chip.setB_ok
      | dsimp only
  clear_value s
  extract_lets +onlyGivenNames s
  have hs : Chip.Ok N s := by
    dsimp only [s]
    repeat'
      first
      | with_reducible assumption | with_reducible apply Chip.raise_ok | with_reducible apply Chip.ite_ok
      | dsimp only
  clear_value s
  extract_lets +onlyGivenNames s
  have hs : Chip.Ok N s := by
    dsimp only [s]
    repeat'
      first
      | with_reducible assumption | with_reducible apply Chip.raise_ok | with_reducible apply Chip.bump_ok
      | with_reducible apply Chip.ite_ok | dsimp only
  clear_value s
  extract_lets +onlyGivenNames s
  have hs : Chip.Ok N s := by
    dsimp only [s]
    repeat'
      first
      | with_reducible assumption | with_reducible apply Chip.raise_ok | with_reducible apply Chip.ite_ok
      | dsimp only
  clear_value s
  repeat'
    first
    | with_reducible assumption | with_reducible apply Chip.setB_ok

theorem Chip.badUplink_ok {N : Nat} {s : Chip} (hk : s.Ok N) (d p : Nat) : (s.badUplink d p).Ok N := by
  unfold Chip.badUplink
  repeat'
    first
    | with_reducible assumption | with_reducible apply Chip.raise_ok | with_reducible apply Chip.bump_ok

theorem Chip.capsFrame_ok {N : Nat} {s : Chip} (hk : s.Ok N)
    (d p cap : Nat) (ack ok : Bool) (h : Sys2Proof.UpHead) :
    (s.capsFrame d p cap ack ok h).Ok N := by
  unfold Chip.capsFrame
  repeat'
    first
    | with_reducible assumption | with_reducible apply Chip.badUplink_ok | with_reducible apply Chip.modPort_ok
    | with_reducible apply Chip.takeStatus_ok | with_reducible apply Chip.set_ok
    | with_reducible apply Chip.raise_ok | with_reducible apply Chip.portFail_ok
    | with_reducible apply Chip.setEl_ok | with_reducible apply Chip.sendNeg_ok | with_reducible apply Chip.ite_ok
    | intro _ _ _ _ | intro _ _ _ | split | dsimp only

theorem Chip.trainFail_ok {N : Nat} {s : Chip} (hk : s.Ok N) (d p : Nat) : (s.trainFail d p).Ok N := by
  unfold Chip.trainFail
  repeat'
    first
    | with_reducible assumption | with_reducible apply Chip.modPort_ok | with_reducible apply Chip.set_ok
    | with_reducible apply Chip.portSync_ok | with_reducible apply Chip.portFail_ok
    | with_reducible apply Chip.ite_ok | intro _ _ _ _ | intro _ _ _ | dsimp only

theorem Chip.trainFrame_ok {N : Nat} {s : Chip} (hk : s.Ok N)
    (d p : Nat) (x : Sys2Proof.TrainAnswer) :
    (s.trainFrame d p x).Ok N := by
  unfold Chip.trainFrame
  repeat'
    first
    | with_reducible assumption | with_reducible apply Chip.badUplink_ok | with_reducible apply Chip.takeStatus_ok
    | with_reducible apply Chip.sendNeg_ok | with_reducible apply Chip.modPort_ok
    | with_reducible apply Chip.set_ok | with_reducible apply Chip.ite_ok | intro _ _ _ _ | intro _ _ _
    | dsimp only

theorem Chip.trainEq_ok {N : Nat} {s : Chip} (hk : s.Ok N) (d p : Nat) : (s.trainEq d p).Ok N := by
  unfold Chip.trainEq
  extract_lets +onlyGivenNames s
  have hs : Chip.Ok N s := by
    dsimp only [s]
    repeat'
      first
      | with_reducible assumption | with_reducible apply Chip.set_ok | with_reducible apply Chip.setReg_ok
      | with_reducible apply Chip.ite_ok | dsimp only
  clear_value s
  repeat'
    first
    | with_reducible assumption | with_reducible apply Chip.setI_ok | with_reducible apply Chip.took_ok
    | with_reducible apply Chip.modCal_ok | intro _ _ _ _ | intro _ _ _ | split | dsimp only

theorem Chip.resultFrame_ok {N : Nat} {s : Chip} (hk : s.Ok N)
    (d p : Nat) (pass : Bool) (x : Sys2Proof.TrainResult) :
    (s.resultFrame d p pass x).Ok N := by
  unfold Chip.resultFrame
  repeat'
    first
    | with_reducible assumption | with_reducible apply Chip.badUplink_ok | with_reducible apply Chip.takeStatus_ok
    | with_reducible apply Chip.set_ok | with_reducible apply Chip.trainEq_ok
    | with_reducible apply Chip.portActive_ok | with_reducible apply Chip.portWarm_ok
    | with_reducible apply Chip.trainFail_ok | with_reducible apply Chip.ite_ok | dsimp only

theorem Chip.badFrame_ok {N : Nat} {s : Chip} (hk : s.Ok N) (d p : Nat) : (s.badFrame d p).Ok N := by
  unfold Chip.badFrame
  extract_lets +onlyGivenNames n
  clear_value n
  extract_lets +onlyGivenNames s
  have hs : Chip.Ok N s := by
    dsimp only [s]
    repeat'
      first
      | with_reducible assumption | with_reducible apply Chip.calBadFrame_ok | with_reducible apply Chip.modPort_ok
      | intro _ _ _ _ | intro _ _ _ | dsimp only
  clear_value s
  repeat'
    first
    | with_reducible assumption | with_reducible apply Chip.linkLoss_ok | with_reducible apply Chip.ite_ok

theorem Chip.winPush_ok {N : Nat} {s : Chip} (hk : s.Ok N) (d p pos x n : Nat) : (s.winPush d p pos x n).Ok N := by
  unfold Chip.winPush
  extract_lets +onlyGivenNames q
  clear_value q
  repeat'
    first
    | with_reducible assumption | with_reducible apply Chip.bump_ok | with_reducible apply Chip.raise_ok
    | with_reducible apply Chip.set_ok | with_reducible apply Chip.ite_ok | intro _ _ _ _ | intro _ _ _
    | dsimp only | with_reducible apply tabPut_wf | with_reducible apply tabClear_wf
    | with_reducible apply tabFilter_wf | with_reducible apply tabMap_wf | with_reducible apply tabWf_nil
    | with_reducible apply emptyLog | with_reducible apply Chip.Ok.count | with_reducible apply Chip.Ok.log
    | with_reducible apply Chip.Ok.regs | with_reducible apply Chip.Ok.shadow | with_reducible apply Chip.Ok.staged
    | with_reducible apply Chip.Ok.lib | with_reducible apply Chip.Ok.poison | with_reducible apply Chip.Ok.libLive
    | with_reducible apply Chip.Ok.libStaged | with_reducible apply Chip.Ok.volStage
    | with_reducible apply Chip.Ok.dies | with_reducible apply Chip.Ok.cals | with_reducible apply Chip.Ok.slots
    | with_reducible apply Chip.Ok.ports | with_reducible apply Chip.Ok.vols | with_reducible apply Chip.Ok.rets
    | with_reducible apply Chip.Ok.hosts | with_reducible apply Chip.Ok.of

theorem Chip.takeSamples_ok {N : Nat} {s : Chip} (hk : s.Ok N)
    (d p n cause : Nat) (l : List Sys2Proof.UpSample) :
    (s.takeSamples d p n cause l).Ok N := by
  unfold Chip.takeSamples
  extract_lets +onlyGivenNames cap
  clear_value cap
  extract_lets +onlyGivenNames g
  clear_value g
  extract_lets +onlyGivenNames xs
  clear_value xs
  extract_lets +onlyGivenNames marks
  clear_value marks
  extract_lets +onlyGivenNames stale
  clear_value stale
  extract_lets +onlyGivenNames sm
  clear_value sm
  extract_lets +onlyGivenNames s
  have hs : Chip.Ok N s := by
    dsimp only [s]
    repeat'
      first
      | with_reducible assumption | with_reducible apply Chip.modPort_ok | with_reducible apply Chip.ite_ok
      | intro _ _ _ _ | intro _ _ _ | split | dsimp only
  clear_value s
  extract_lets +onlyGivenNames s
  have hs : Chip.Ok N s := by
    dsimp only [s]
    repeat'
      first
      | with_reducible assumption | with_reducible apply Chip.bump_ok | dsimp only
  clear_value s
  extract_lets +onlyGivenNames s
  have hs : Chip.Ok N s := by
    dsimp only [s]
    repeat'
      first
      | with_reducible assumption | with_reducible apply Chip.bump_ok | dsimp only
  clear_value s
  extract_lets +onlyGivenNames s
  have hs : Chip.Ok N s := by
    dsimp only [s]
    repeat'
      first
      | with_reducible assumption | with_reducible apply Chip.bump_ok | dsimp only
  clear_value s
  extract_lets +onlyGivenNames again
  clear_value again
  extract_lets +onlyGivenNames s
  have hs : Chip.Ok N s := by
    dsimp only [s]
    repeat'
      first
      | with_reducible assumption | intro _ _ _ _ | intro _ _ _ | dsimp only | with_reducible apply tabPut_wf
      | with_reducible apply tabClear_wf | with_reducible apply tabFilter_wf | with_reducible apply tabMap_wf
      | with_reducible apply tabWf_nil | with_reducible apply emptyLog | with_reducible apply Chip.Ok.count
      | with_reducible apply Chip.Ok.log | with_reducible apply Chip.Ok.regs | with_reducible apply Chip.Ok.shadow
      | with_reducible apply Chip.Ok.staged | with_reducible apply Chip.Ok.lib
      | with_reducible apply Chip.Ok.poison | with_reducible apply Chip.Ok.libLive
      | with_reducible apply Chip.Ok.libStaged | with_reducible apply Chip.Ok.volStage
      | with_reducible apply Chip.Ok.dies | with_reducible apply Chip.Ok.cals | with_reducible apply Chip.Ok.slots
      | with_reducible apply Chip.Ok.ports | with_reducible apply Chip.Ok.vols | with_reducible apply Chip.Ok.rets
      | with_reducible apply Chip.Ok.hosts | with_reducible apply Chip.Ok.of
  clear_value s
  extract_lets +onlyGivenNames byp
  clear_value byp
  repeat'
    first
    | with_reducible assumption | with_reducible apply Chip.winPush_ok | with_reducible apply Chip.ite_ok
    | with_reducible apply Chip.foldl_ok | intro _ _ _ _ | intro _ _ _ | dsimp only

theorem Chip.uplink_ok {N : Nat} {s : Chip} (hk : s.Ok N)
    (d p : Nat) (f : Sys2Proof.UpFrame) :
    (s.uplink d p f).Ok N := by
  unfold Chip.uplink
  repeat'
    first
    | with_reducible assumption | with_reducible apply Chip.badUplink_ok | with_reducible apply Chip.badFrame_ok
    | with_reducible apply Chip.modPort_ok | with_reducible apply Chip.takeStatus_ok
    | with_reducible apply Chip.raise_ok | with_reducible apply Chip.bump_ok | with_reducible apply Chip.setReg_ok
    | with_reducible apply Chip.tempReading_ok | with_reducible apply Chip.takeSamples_ok
    | with_reducible apply Chip.efeRespond_ok | with_reducible apply Chip.ite_ok | intro _ _ _ _ | intro _ _ _
    | dsimp only

theorem Chip.unorderedPark_ok {N : Nat} {s : Chip} (hk : s.Ok N) (d p : Nat) : (s.unorderedPark d p).Ok N := by
  unfold Chip.unorderedPark
  repeat'
    first
    | with_reducible assumption | with_reducible apply Chip.each_ok | with_reducible apply Chip.windowOnce_ok
    | with_reducible apply Chip.parkSlot_ok | with_reducible apply Chip.modPort_ok
    | with_reducible apply Chip.set_ok | with_reducible apply Chip.raise_ok | with_reducible apply Chip.raiseF2_ok
    | with_reducible apply Chip.ite_ok | with_reducible apply Chip.each_ok | intro _ _ _ _ | intro _ _ _ | split
    | dsimp only

theorem Chip.winPop_ok {N : Nat} {s : Chip} (hk : s.Ok N) (d : Nat) : (s.winPop d).Ok N := by
  unfold Chip.winPop
  repeat'
    first
    | with_reducible assumption | with_reducible apply Chip.setReg_ok | with_reducible apply Chip.set_ok
    | intro _ _ _ _ | intro _ _ _ | split | dsimp only | with_reducible apply tabPut_wf
    | with_reducible apply tabClear_wf | with_reducible apply tabFilter_wf | with_reducible apply tabMap_wf
    | with_reducible apply tabWf_nil | with_reducible apply emptyLog | with_reducible apply Chip.Ok.count
    | with_reducible apply Chip.Ok.log | with_reducible apply Chip.Ok.regs | with_reducible apply Chip.Ok.shadow
    | with_reducible apply Chip.Ok.staged | with_reducible apply Chip.Ok.lib | with_reducible apply Chip.Ok.poison
    | with_reducible apply Chip.Ok.libLive | with_reducible apply Chip.Ok.libStaged
    | with_reducible apply Chip.Ok.volStage | with_reducible apply Chip.Ok.dies | with_reducible apply Chip.Ok.cals
    | with_reducible apply Chip.Ok.slots | with_reducible apply Chip.Ok.ports | with_reducible apply Chip.Ok.vols
    | with_reducible apply Chip.Ok.rets | with_reducible apply Chip.Ok.hosts | with_reducible apply Chip.Ok.of

theorem Chip.portCheck_ok {N : Nat} {s : Chip} (hk : s.Ok N) (d p : Nat) : (s.portCheck d p).Ok N := by
  unfold Chip.portCheck
  extract_lets +onlyGivenNames a
  clear_value a
  extract_lets +onlyGivenNames bad
  clear_value bad
  extract_lets +onlyGivenNames t
  have ht : Chip.Ok N t := by
    dsimp only [t]
    repeat'
      first
      | with_reducible assumption | with_reducible apply Chip.setStaged_ok | with_reducible apply Chip.ite_ok
      | dsimp only
  clear_value t
  extract_lets +onlyGivenNames out
  clear_value out
  extract_lets +onlyGivenNames t
  have ht : Chip.Ok N t := by
    dsimp only [t]
    repeat'
      first
      | with_reducible assumption | with_reducible apply Chip.each_ok | with_reducible apply Chip.dropStaged_ok
      | with_reducible apply Chip.each_ok | intro _ _ _ _ | intro _ _ _ | dsimp only
  clear_value t
  repeat'
    first
    | with_reducible assumption | with_reducible apply Chip.raiseF3_ok | with_reducible apply Chip.ite_ok

theorem Chip.ownBands_ok {N : Nat} {s : Chip} (hk : s.Ok N)
    (d p : Nat) (l : List (Nat × Nat)) :
    (s.ownBands d p l).Ok N := by
  unfold Chip.ownBands
  repeat'
    first
    | with_reducible assumption | with_reducible apply Chip.modPort_ok | intro _ _ _ _ | intro _ _ _ | dsimp only

theorem Chip.showWidth_ok {N : Nat} {s : Chip} (hk : s.Ok N) (d p : Nat) : (s.showWidth d p).Ok N := by
  unfold Chip.showWidth
  repeat'
    first
    | with_reducible assumption | with_reducible apply Chip.set_ok | with_reducible apply Chip.ite_ok

theorem Chip.portLoad_ok {N : Nat} {s : Chip} (hk : s.Ok N) (d p : Nat) : (s.portLoad d p).Ok N := by
  unfold Chip.portLoad
  extract_lets +onlyGivenNames a
  clear_value a
  extract_lets +onlyGivenNames bands
  clear_value bands
  extract_lets +onlyGivenNames had
  clear_value had
  extract_lets +onlyGivenNames s
  have hs : Chip.Ok N s := by
    dsimp only [s]
    repeat'
      first
      | with_reducible assumption | with_reducible apply Chip.loadStaged_ok | dsimp only
  clear_value s
  extract_lets +onlyGivenNames vals
  clear_value vals
  extract_lets +onlyGivenNames s
  have hs : Chip.Ok N s := by
    dsimp only [s]
    repeat'
      first
      | with_reducible assumption | with_reducible apply Chip.ownBands_ok | dsimp only
  clear_value s
  repeat'
    first
    | with_reducible assumption | with_reducible apply Chip.set_ok | with_reducible apply Chip.showWidth_ok
    | with_reducible apply Chip.setReg_ok | with_reducible apply Chip.ownBands_ok
    | with_reducible apply Chip.modPort_ok | with_reducible apply Chip.portOff_ok
    | with_reducible apply Chip.portStart_ok | with_reducible apply Chip.ite_ok
    | with_reducible apply Chip.foldl_ok | intro _ _ _ _ | intro _ _ _ | dsimp only

theorem Chip.portPark_ok {N : Nat} {s : Chip} (hk : s.Ok N) (d p : Nat) : (s.portPark d p).Ok N := by
  unfold Chip.portPark
  repeat'
    first
    | with_reducible assumption | with_reducible apply Chip.each_ok | with_reducible apply Chip.parkSlot_ok
    | with_reducible apply Chip.modPort_ok | with_reducible apply Chip.ite_ok | with_reducible apply Chip.each_ok
    | intro _ _ _ _ | intro _ _ _ | dsimp only

theorem Chip.tempAges_ok {N : Nat} {s : Chip} (hk : s.Ok N) (d : Nat) : (s.tempAges d).Ok N := by
  unfold Chip.tempAges
  extract_lets +onlyGivenNames lo
  clear_value lo
  extract_lets +onlyGivenNames l
  clear_value l
  repeat'
    first
    | with_reducible assumption | with_reducible apply Chip.each_ok | with_reducible apply Chip.bump_ok
    | with_reducible apply Chip.ite_ok | with_reducible apply Chip.each_ok | intro _ _ _ _ | intro _ _ _
    | dsimp only

theorem Chip.portTick_ok {N : Nat} {s : Chip} (hk : s.Ok N) (d p : Nat) : (s.portTick d p).Ok N := by
  unfold Chip.portTick
  repeat'
    first
    | with_reducible assumption | with_reducible apply Chip.modPort_ok | with_reducible apply Chip.set_ok
    | with_reducible apply Chip.ite_ok | intro _ _ _ _ | intro _ _ _ | split | dsimp only

theorem Chip.sendDown_ok {N : Nat} {s : Chip} (hk : s.Ok N) (d p n : Nat) : (s.sendDown d p n).Ok N := by
  unfold Chip.sendDown
  extract_lets +onlyGivenNames k
  clear_value k
  extract_lets +onlyGivenNames old
  clear_value old
  extract_lets +onlyGivenNames how
  clear_value how
  extract_lets +onlyGivenNames on
  clear_value on
  extract_lets +onlyGivenNames s
  have hs : Chip.Ok N s := by
    dsimp only [s]
    repeat'
      first
      | with_reducible assumption | with_reducible apply Chip.efeNext_ok | with_reducible apply Chip.sendNeg_ok
      | with_reducible apply Chip.ite_ok | dsimp only
  clear_value s
  extract_lets +onlyGivenNames f
  clear_value f
  repeat'
    first
    | with_reducible assumption | intro _ _ _ _ | intro _ _ _ | dsimp only | with_reducible apply tabPut_wf
    | with_reducible apply tabClear_wf | with_reducible apply tabFilter_wf | with_reducible apply tabMap_wf
    | with_reducible apply tabWf_nil | with_reducible apply emptyLog | with_reducible apply Chip.Ok.count
    | with_reducible apply Chip.Ok.log | with_reducible apply Chip.Ok.regs | with_reducible apply Chip.Ok.shadow
    | with_reducible apply Chip.Ok.staged | with_reducible apply Chip.Ok.lib | with_reducible apply Chip.Ok.poison
    | with_reducible apply Chip.Ok.libLive | with_reducible apply Chip.Ok.libStaged
    | with_reducible apply Chip.Ok.volStage | with_reducible apply Chip.Ok.dies | with_reducible apply Chip.Ok.cals
    | with_reducible apply Chip.Ok.slots | with_reducible apply Chip.Ok.ports | with_reducible apply Chip.Ok.vols
    | with_reducible apply Chip.Ok.rets | with_reducible apply Chip.Ok.hosts | with_reducible apply Chip.Ok.of

end Sys2Proof.Machine
end

