-- ==== Sys2Proof/Laws/Ok/Cal.lean ====
section
/-!
SUPPORT. Laws/Ok/Cal.lean: every operation of Machine/Cal.lean keeps a package in good order.
-/

namespace Sys2Proof.Machine

theorem Chip.calEnter_ok {N : Nat} {s : Chip} (hk : s.Ok N) (d : Nat) : (s.calEnter d).Ok N := by
  unfold Chip.calEnter
  repeat'
    first
    | with_reducible assumption | with_reducible apply Chip.each_ok | with_reducible apply Chip.calWant_ok
    | with_reducible apply Chip.each_ok | intro _ _ _ _ | intro _ _ _ | dsimp only

theorem Chip.calTaken_ok {N : Nat} {s : Chip} (hk : s.Ok N)
    (d k res : Nat) (temp : Int) :
    (s.calTaken d k res temp).Ok N := by
  unfold Chip.calTaken
  extract_lets +onlyGivenNames s
  have hs : Chip.Ok N s := by
    dsimp only [s]
    repeat'
      first
      | with_reducible assumption | with_reducible apply Chip.set_ok | with_reducible apply Chip.setI_ok
      | dsimp only
  clear_value s
  extract_lets +onlyGivenNames s
  have hs : Chip.Ok N s := by
    dsimp only [s]
    repeat'
      first
      | with_reducible assumption | with_reducible apply Chip.modCal_ok | intro _ _ _ _ | intro _ _ _ | dsimp only
  clear_value s
  repeat'
    first
    | with_reducible assumption | with_reducible apply Chip.set_ok

theorem Chip.setBlending_ok {N : Nat} {s : Chip} (hk : s.Ok N)
    (d k : Nat) (b : Bool) :
    (s.setBlending d k b).Ok N := by
  unfold Chip.setBlending
  extract_lets +onlyGivenNames m
  clear_value m
  repeat'
    first
    | with_reducible assumption | with_reducible apply Chip.set_ok | with_reducible apply Chip.ite_ok

theorem Chip.calSettle_ok {N : Nat} {s : Chip} (hk : s.Ok N) (d : Nat) : (s.calSettle d).Ok N := by
  unfold Chip.calSettle
  extract_lets +onlyGivenNames ks
  clear_value ks
  extract_lets +onlyGivenNames s
  have hs : Chip.Ok N s := by
    dsimp only [s]
    repeat'
      first
      | with_reducible assumption | with_reducible apply Chip.each_ok | with_reducible apply Chip.modSlot_ok
      | with_reducible apply Chip.modCal_ok | with_reducible apply Chip.each_ok | intro _ _ _ _ | intro _ _ _
      | dsimp only
  clear_value s
  repeat'
    first
    | with_reducible assumption | with_reducible apply Chip.each_ok | with_reducible apply Chip.modPort_ok
    | with_reducible apply Chip.each_ok | intro _ _ _ _ | intro _ _ _ | dsimp only

theorem Chip.calCount_ok {N : Nat} {s : Chip} (hk : s.Ok N) (d k : Nat) : (s.calCount d k).Ok N := by
  unfold Chip.calCount
  extract_lets +onlyGivenNames m
  clear_value m
  repeat'
    first
    | with_reducible assumption | with_reducible apply Chip.modCore_ok | intro _ _ _ _ | intro _ _ _ | dsimp only

theorem Chip.calPort_ok {N : Nat} {s : Chip} (hk : s.Ok N) (d p : Nat) : (s.calPort d p).Ok N := by
  unfold Chip.calPort
  extract_lets +onlyGivenNames s
  have hs : Chip.Ok N s := by
    dsimp only [s]
    repeat'
      first
      | with_reducible assumption | with_reducible apply Chip.modCal_ok | intro _ _ _ _ | intro _ _ _ | dsimp only
  clear_value s
  repeat'
    first
    | with_reducible assumption | with_reducible apply Chip.calFail_ok | with_reducible apply Chip.ite_ok

theorem Chip.calStart_ok {N : Nat} {s : Chip} (hk : s.Ok N) (d : Nat) (ok : Bool) : (s.calStart d ok).Ok N := by
  unfold Chip.calStart
  repeat'
    first
    | with_reducible assumption | with_reducible apply Chip.set_ok | with_reducible apply Chip.modCal_ok
    | with_reducible apply Chip.calFail_ok | with_reducible apply Chip.calPort_ok
    | with_reducible apply Chip.calSettle_ok | with_reducible apply Chip.calCount_ok
    | with_reducible apply Chip.ite_ok | intro _ _ _ _ | intro _ _ _ | split | dsimp only

theorem Chip.calAccept_ok {N : Nat} {s : Chip} (hk : s.Ok N) (d k : Nat) : (s.calAccept d k).Ok N := by
  unfold Chip.calAccept
  extract_lets +onlyGivenNames s
  have hs : Chip.Ok N s := by
    dsimp only [s]
    repeat'
      first
      | with_reducible assumption | with_reducible apply Chip.calTaken_ok | with_reducible apply Chip.calClose_ok
      | dsimp only
  clear_value s
  extract_lets +onlyGivenNames s
  have hs : Chip.Ok N s := by
    dsimp only [s]
    repeat'
      first
      | with_reducible assumption | with_reducible apply Chip.setBlending_ok | with_reducible apply Chip.raise_ok
      | dsimp only
  clear_value s
  extract_lets +onlyGivenNames s
  have hs : Chip.Ok N s := by
    dsimp only [s]
    repeat'
      first
      | with_reducible assumption | with_reducible apply Chip.bump_ok | with_reducible apply Chip.ite_ok
      | dsimp only
  clear_value s
  repeat'
    first
    | with_reducible assumption | with_reducible apply Chip.modCal_ok | intro _ _ _ _ | intro _ _ _ | dsimp only

theorem Chip.tapBlend_ok {N : Nat} {s : Chip} (hk : s.Ok N)
    (d : Nat) (l : List (Nat × Nat)) :
    (s.tapBlend d l).Ok N := by
  unfold Chip.tapBlend
  repeat'
    first
    | with_reducible assumption | with_reducible apply Chip.modCal_ok | intro _ _ _ _ | intro _ _ _ | dsimp only

theorem Chip.demodNext_ok {N : Nat} {s : Chip} (hk : s.Ok N)
    (d : Nat) (ph : List (Nat × Nat)) :
    (s.demodNext d ph).Ok N := by
  unfold Chip.demodNext
  extract_lets +onlyGivenNames sls
  clear_value sls
  repeat'
    first
    | with_reducible assumption | with_reducible apply Chip.each_ok | with_reducible apply Chip.modSlot_ok
    | with_reducible apply Chip.each_ok | intro _ _ _ _ | intro _ _ _ | dsimp only

theorem Chip.demodEnd_ok {N : Nat} {s : Chip} (hk : s.Ok N)
    (d : Nat) (b : List (Nat × Nat)) :
    (s.demodEnd d b).Ok N := by
  unfold Chip.demodEnd
  extract_lets +onlyGivenNames a
  clear_value a
  extract_lets +onlyGivenNames tol
  clear_value tol
  extract_lets +onlyGivenNames part
  clear_value part
  extract_lets +onlyGivenNames one
  clear_value one
  extract_lets +onlyGivenNames pairs
  clear_value pairs
  extract_lets +onlyGivenNames good
  clear_value good
  extract_lets +onlyGivenNames failed
  clear_value failed
  extract_lets +onlyGivenNames s
  have hs : Chip.Ok N s := by
    dsimp only [s]
    repeat'
      first
      | with_reducible assumption | with_reducible apply Chip.bump_ok | dsimp only
  clear_value s
  repeat'
    first
    | with_reducible assumption | with_reducible apply Chip.calFail_ok | with_reducible apply Chip.raise_ok
    | with_reducible apply Chip.calAccept_ok | with_reducible apply Chip.each_ok
    | with_reducible apply Chip.modSlot_ok | with_reducible apply Chip.ite_ok | with_reducible apply Chip.each_ok
    | intro _ _ _ _ | intro _ _ _ | dsimp only

theorem Chip.tdcMeasured_ok {N : Nat} {s : Chip} (hk : s.Ok N) (d : Nat) : (s.tdcMeasured d).Ok N := by
  unfold Chip.tdcMeasured
  extract_lets +onlyGivenNames c
  clear_value c
  extract_lets +onlyGivenNames r
  clear_value r
  repeat'
    first
    | with_reducible assumption | with_reducible apply Chip.calFail_ok | with_reducible apply Chip.second_ok
    | with_reducible apply Chip.modCal_ok | with_reducible apply Chip.calCount_ok
    | with_reducible apply Chip.calAccept_ok | with_reducible apply Chip.tapBlend_ok
    | with_reducible apply Chip.ite_ok | intro _ _ _ _ | intro _ _ _ | dsimp only

theorem Chip.gainMeasured_ok {N : Nat} {s : Chip} (hk : s.Ok N) (d : Nat) : (s.gainMeasured d).Ok N := by
  unfold Chip.gainMeasured
  extract_lets +onlyGivenNames c
  clear_value c
  extract_lets +onlyGivenNames r
  clear_value r
  repeat'
    first
    | with_reducible assumption | with_reducible apply Chip.calFail_ok | with_reducible apply Chip.second_ok
    | with_reducible apply Chip.modCal_ok | with_reducible apply Chip.calCount_ok
    | with_reducible apply Chip.calAccept_ok | with_reducible apply Chip.ite_ok | intro _ _ _ _ | intro _ _ _
    | dsimp only

theorem Chip.skewMeasured_ok {N : Nat} {s : Chip} (hk : s.Ok N)
    (d : Nat) (m : Sys2Proof.CalMeas) :
    (s.skewMeasured d m).Ok N := by
  unfold Chip.skewMeasured
  extract_lets +onlyGivenNames r
  clear_value r
  repeat'
    first
    | with_reducible assumption | with_reducible apply Chip.calFail_ok | with_reducible apply Chip.second_ok
    | with_reducible apply Chip.modCal_ok | with_reducible apply Chip.calAccept_ok
    | with_reducible apply Chip.setI_ok | with_reducible apply Chip.ite_ok | intro _ _ _ _ | intro _ _ _ | split
    | dsimp only

theorem Chip.linkCompare_ok {N : Nat} {s : Chip} (hk : s.Ok N) (d : Nat) : (s.linkCompare d).Ok N := by
  unfold Chip.linkCompare
  extract_lets +onlyGivenNames c
  clear_value c
  extract_lets +onlyGivenNames tol
  clear_value tol
  extract_lets +onlyGivenNames both
  clear_value both
  repeat'
    first
    | with_reducible assumption | with_reducible apply Chip.calAccept_ok | with_reducible apply Chip.modCal_ok
    | with_reducible apply Chip.calFail_ok | with_reducible apply Chip.ite_ok | intro _ _ _ _ | intro _ _ _
    | dsimp only

theorem Chip.linkMeasured_ok {N : Nat} {s : Chip} (hk : s.Ok N)
    (d : Nat) (m : Sys2Proof.CalMeas) :
    (s.linkMeasured d m).Ok N := by
  unfold Chip.linkMeasured
  extract_lets +onlyGivenNames r
  clear_value r
  extract_lets +onlyGivenNames lost
  clear_value lost
  repeat'
    first
    | with_reducible assumption | with_reducible apply Chip.calFail_ok | with_reducible apply Chip.took_ok
    | with_reducible apply Chip.modCal_ok | with_reducible apply Chip.second_ok
    | with_reducible apply Chip.calPort_ok | with_reducible apply Chip.linkCompare_ok
    | with_reducible apply Chip.ite_ok | with_reducible apply Chip.foldl_ok | intro _ _ _ _ | intro _ _ _ | split
    | dsimp only

theorem Chip.demodMeasured_ok {N : Nat} {s : Chip} (hk : s.Ok N) (d : Nat) : (s.demodMeasured d).Ok N := by
  unfold Chip.demodMeasured
  extract_lets +onlyGivenNames ph
  clear_value ph
  repeat'
    first
    | with_reducible assumption | with_reducible apply Chip.second_ok | with_reducible apply Chip.demodNext_ok
    | with_reducible apply Chip.modCal_ok | with_reducible apply Chip.demodEnd_ok
    | with_reducible apply Chip.ite_ok | intro _ _ _ _ | intro _ _ _ | dsimp only

theorem Chip.calMeasured_ok {N : Nat} {s : Chip} (hk : s.Ok N)
    (d : Nat) (m : Sys2Proof.CalMeas) :
    (s.calMeasured d m).Ok N := by
  unfold Chip.calMeasured
  repeat'
    first
    | with_reducible assumption | with_reducible apply Chip.tdcMeasured_ok
    | with_reducible apply Chip.gainMeasured_ok | with_reducible apply Chip.skewMeasured_ok
    | with_reducible apply Chip.linkMeasured_ok | with_reducible apply Chip.demodMeasured_ok
    | with_reducible apply Chip.ite_ok

theorem Chip.calLoadTdc_ok {N : Nat} {s : Chip} (hk : s.Ok N) (d : Nat) : (s.calLoadTdc d).Ok N := by
  unfold Chip.calLoadTdc
  extract_lets +onlyGivenNames s
  have hs : Chip.Ok N s := by
    dsimp only [s]
    repeat'
      first
      | with_reducible assumption | with_reducible apply Chip.calAbort_ok | with_reducible apply Chip.tapBlend_ok
      | intro _ _ _ _ | intro _ _ _ | dsimp only
  clear_value s
  repeat'
    first
    | with_reducible assumption | with_reducible apply Chip.setBlending_ok | with_reducible apply Chip.calTaken_ok

theorem Chip.calLoadEq_ok {N : Nat} {s : Chip} (hk : s.Ok N) (d : Nat) : (s.calLoadEq d).Ok N := by
  unfold Chip.calLoadEq
  extract_lets +onlyGivenNames s
  have hs : Chip.Ok N s := by
    dsimp only [s]
    repeat'
      first
      | with_reducible assumption | with_reducible apply Chip.calAbort_ok | with_reducible apply Chip.modCal_ok
      | intro _ _ _ _ | intro _ _ _ | dsimp only
  clear_value s
  repeat'
    first
    | with_reducible assumption | with_reducible apply Chip.setBlending_ok | with_reducible apply Chip.calTaken_ok

theorem Chip.abortLate_ok {N : Nat} {s : Chip} (hk : s.Ok N) (d k n : Nat) : (s.abortLate d k n).Ok N := by
  unfold Chip.abortLate
  repeat'
    first
    | with_reducible assumption | with_reducible apply Chip.raise_ok | with_reducible apply Chip.ite_ok
    | intro _ _ _ _ | intro _ _ _ | dsimp only

theorem Chip.writeCalCtrl_ok {N : Nat} {s : Chip} (hk : s.Ok N)
    (d : Nat) (v : Word) :
    (s.writeCalCtrl d v).Ok N := by
  unfold Chip.writeCalCtrl
  extract_lets +onlyGivenNames x
  clear_value x
  extract_lets +onlyGivenNames s
  have hs : Chip.Ok N s := by
    dsimp only [s]
    repeat'
      first
      | with_reducible assumption | with_reducible apply Chip.set_ok | dsimp only
  clear_value s
  extract_lets +onlyGivenNames s
  have hs : Chip.Ok N s := by
    dsimp only [s]
    repeat'
      first
      | with_reducible assumption | with_reducible apply Chip.each_ok | with_reducible apply Chip.calAbort_ok
      | with_reducible apply Chip.ite_ok | with_reducible apply Chip.each_ok | intro _ _ _ _ | intro _ _ _
      | dsimp only
  clear_value s
  extract_lets +onlyGivenNames s
  have hs : Chip.Ok N s := by
    dsimp only [s]
    repeat'
      first
      | with_reducible assumption | with_reducible apply Chip.each_ok | with_reducible apply Chip.modCal_ok
      | with_reducible apply Chip.abortLate_ok | with_reducible apply Chip.ite_ok
      | with_reducible apply Chip.each_ok | intro _ _ _ _ | intro _ _ _ | dsimp only
  clear_value s
  extract_lets +onlyGivenNames s
  have hs : Chip.Ok N s := by
    dsimp only [s]
    repeat'
      first
      | with_reducible assumption | with_reducible apply Chip.calLoadTdc_ok | with_reducible apply Chip.ite_ok
      | dsimp only
  clear_value s
  extract_lets +onlyGivenNames s
  have hs : Chip.Ok N s := by
    dsimp only [s]
    repeat'
      first
      | with_reducible assumption | with_reducible apply Chip.calLoadEq_ok | with_reducible apply Chip.ite_ok
      | dsimp only
  clear_value s
  repeat'
    first
    | with_reducible assumption | with_reducible apply Chip.each_ok | with_reducible apply Chip.calWant_ok
    | with_reducible apply Chip.each_ok | intro _ _ _ _ | intro _ _ _ | dsimp only

theorem Chip.calTemp_ok {N : Nat} {s : Chip} (hk : s.Ok N) (d k : Nat) : (s.calTemp d k).Ok N := by
  unfold Chip.calTemp
  extract_lets +onlyGivenNames dt
  clear_value dt
  extract_lets +onlyGivenNames moved
  clear_value moved
  extract_lets +onlyGivenNames b
  clear_value b
  repeat'
    first
    | with_reducible assumption | with_reducible apply Chip.calWant_ok | with_reducible apply Chip.ite_ok

theorem Chip.calRetry_ok {N : Nat} {s : Chip} (hk : s.Ok N) (d k : Nat) : (s.calRetry d k).Ok N := by
  unfold Chip.calRetry
  repeat'
    first
    | with_reducible assumption | with_reducible apply Chip.modCal_ok | with_reducible apply Chip.ite_ok
    | intro _ _ _ _ | intro _ _ _ | dsimp only

theorem Chip.tapTick_ok {N : Nat} {s : Chip} (hk : s.Ok N) (d : Nat) : (s.tapTick d).Ok N := by
  unfold Chip.tapTick
  extract_lets +onlyGivenNames r
  clear_value r
  repeat'
    first
    | with_reducible assumption | with_reducible apply Chip.each_ok | with_reducible apply Chip.set_ok
    | with_reducible apply Chip.modCal_ok | with_reducible apply Chip.ite_ok | with_reducible apply Chip.each_ok
    | intro _ _ _ _ | intro _ _ _ | dsimp only

theorem Chip.gainTick_ok {N : Nat} {s : Chip} (hk : s.Ok N) (d : Nat) : (s.gainTick d).Ok N := by
  unfold Chip.gainTick
  repeat'
    first
    | with_reducible assumption | with_reducible apply Chip.modCal_ok | with_reducible apply Chip.raise_ok
    | with_reducible apply Chip.set_ok | with_reducible apply Chip.ite_ok | intro _ _ _ _ | intro _ _ _ | split
    | dsimp only

theorem Chip.abortTick_ok {N : Nat} {s : Chip} (hk : s.Ok N) (d : Nat) : (s.abortTick d).Ok N := by
  unfold Chip.abortTick
  extract_lets +onlyGivenNames l
  clear_value l
  extract_lets +onlyGivenNames s
  have hs : Chip.Ok N s := by
    dsimp only [s]
    repeat'
      first
      | with_reducible assumption | with_reducible apply Chip.modCal_ok | intro _ _ _ _ | intro _ _ _ | dsimp only
  clear_value s
  repeat'
    first
    | with_reducible assumption | with_reducible apply Chip.each_ok | with_reducible apply Chip.calAbort_ok
    | with_reducible apply Chip.abortLate_ok | with_reducible apply Chip.ite_ok | with_reducible apply Chip.each_ok
    | intro _ _ _ _ | intro _ _ _ | dsimp only

theorem Chip.eqTick_ok {N : Nat} {s : Chip} (hk : s.Ok N) (d : Nat) : (s.eqTick d).Ok N := by
  unfold Chip.eqTick
  extract_lets +onlyGivenNames step
  clear_value step
  extract_lets +onlyGivenNames s
  have hs : Chip.Ok N s := by
    dsimp only [s]
    repeat'
      first
      | with_reducible assumption | with_reducible apply Chip.each_ok | with_reducible apply Chip.setI_ok
      | with_reducible apply Chip.each_ok | intro _ _ _ _ | intro _ _ _ | dsimp only
  clear_value s
  repeat'
    first
    | with_reducible assumption | with_reducible apply Chip.modCal_ok | intro _ _ _ _ | intro _ _ _ | dsimp only

theorem Chip.skewTick_ok {N : Nat} {s : Chip} (hk : s.Ok N) (d n : Nat) : (s.skewTick d n).Ok N := by
  unfold Chip.skewTick
  extract_lets +onlyGivenNames q
  clear_value q
  repeat'
    first
    | with_reducible assumption | with_reducible apply Chip.setI_ok | with_reducible apply Chip.modCal_ok
    | with_reducible apply Chip.ite_ok | intro _ _ _ _ | intro _ _ _ | dsimp only | with_reducible apply tabPut_wf
    | with_reducible apply tabClear_wf | with_reducible apply tabFilter_wf | with_reducible apply tabMap_wf
    | with_reducible apply tabWf_nil | with_reducible apply emptyLog | with_reducible apply Chip.Ok.count
    | with_reducible apply Chip.Ok.log | with_reducible apply Chip.Ok.regs | with_reducible apply Chip.Ok.shadow
    | with_reducible apply Chip.Ok.staged | with_reducible apply Chip.Ok.lib | with_reducible apply Chip.Ok.poison
    | with_reducible apply Chip.Ok.libLive | with_reducible apply Chip.Ok.libStaged
    | with_reducible apply Chip.Ok.volStage | with_reducible apply Chip.Ok.dies | with_reducible apply Chip.Ok.cals
    | with_reducible apply Chip.Ok.slots | with_reducible apply Chip.Ok.ports | with_reducible apply Chip.Ok.vols
    | with_reducible apply Chip.Ok.rets | with_reducible apply Chip.Ok.hosts | with_reducible apply Chip.Ok.of

theorem Chip.blendEnds_ok {N : Nat} {s : Chip} (hk : s.Ok N) (d : Nat) : (s.blendEnds d).Ok N := by
  unfold Chip.blendEnds
  repeat'
    first
    | with_reducible assumption | with_reducible apply Chip.each_ok | with_reducible apply Chip.setBlending_ok
    | with_reducible apply Chip.modCal_ok | with_reducible apply Chip.ite_ok | with_reducible apply Chip.each_ok
    | intro _ _ _ _ | intro _ _ _ | dsimp only

theorem Chip.showSave_ok {N : Nat} {s : Chip} (hk : s.Ok N) (d : Nat) : (s.showSave d).Ok N := by
  unfold Chip.showSave
  repeat'
    first
    | with_reducible assumption | with_reducible apply Chip.set_ok | split

theorem Chip.calSave_ok {N : Nat} {s : Chip} (hk : s.Ok N) (d : Nat) : (s.calSave d).Ok N := by
  unfold Chip.calSave
  extract_lets +onlyGivenNames r
  clear_value r
  extract_lets +onlyGivenNames a
  clear_value a
  extract_lets +onlyGivenNames b
  clear_value b
  extract_lets +onlyGivenNames i
  clear_value i
  extract_lets +onlyGivenNames v
  clear_value v
  extract_lets +onlyGivenNames s
  have hs : Chip.Ok N s := by
    dsimp only [s]
    repeat'
      first
      | with_reducible assumption | with_reducible apply Chip.modCal_ok | with_reducible apply Chip.set_ok
      | intro _ _ _ _ | intro _ _ _ | dsimp only | with_reducible apply tabPut_wf
      | with_reducible apply tabClear_wf | with_reducible apply tabFilter_wf | with_reducible apply tabMap_wf
      | with_reducible apply tabWf_nil | with_reducible apply emptyLog | with_reducible apply Chip.Ok.count
      | with_reducible apply Chip.Ok.log | with_reducible apply Chip.Ok.regs | with_reducible apply Chip.Ok.shadow
      | with_reducible apply Chip.Ok.staged | with_reducible apply Chip.Ok.lib
      | with_reducible apply Chip.Ok.poison | with_reducible apply Chip.Ok.libLive
      | with_reducible apply Chip.Ok.libStaged | with_reducible apply Chip.Ok.volStage
      | with_reducible apply Chip.Ok.dies | with_reducible apply Chip.Ok.cals | with_reducible apply Chip.Ok.slots
      | with_reducible apply Chip.Ok.ports | with_reducible apply Chip.Ok.vols | with_reducible apply Chip.Ok.rets
      | with_reducible apply Chip.Ok.hosts | with_reducible apply Chip.Ok.of
  clear_value s
  repeat'
    first
    | with_reducible assumption | with_reducible apply Chip.set_ok | with_reducible apply Chip.showSave_ok

theorem Chip.calSaved_ok {N : Nat} {s : Chip} (hk : s.Ok N)
    (d i crc : Nat) (bad : Bool) :
    (s.calSaved d i crc bad).Ok N := by
  unfold Chip.calSaved
  extract_lets +onlyGivenNames s
  have hs : Chip.Ok N s := by
    dsimp only [s]
    repeat'
      first
      | with_reducible assumption | with_reducible apply Chip.modCal_ok | with_reducible apply Chip.set_ok
      | with_reducible apply Chip.ite_ok | intro _ _ _ _ | intro _ _ _ | dsimp only
  clear_value s
  repeat'
    first
    | with_reducible assumption | with_reducible apply Chip.showSave_ok | with_reducible apply Chip.raise_ok
    | with_reducible apply Chip.ite_ok

theorem Chip.saveTick_ok {N : Nat} {s : Chip} (hk : s.Ok N) (d : Nat) (bad : Bool) : (s.saveTick d bad).Ok N := by
  unfold Chip.saveTick
  extract_lets +onlyGivenNames r
  clear_value r
  extract_lets +onlyGivenNames free
  clear_value free
  repeat'
    first
    | with_reducible assumption | with_reducible apply Chip.calSaved_ok | with_reducible apply Chip.calSave_ok
    | with_reducible apply Chip.ite_ok | split

theorem Chip.calTick_ok {N : Nat} {s : Chip} (hk : s.Ok N)
    (d n : Nat) (bad sec : Bool) :
    (s.calTick d n bad sec).Ok N := by
  unfold Chip.calTick
  extract_lets +onlyGivenNames s
  have hs : Chip.Ok N s := by
    dsimp only [s]
    repeat'
      first
      | with_reducible assumption | with_reducible apply Chip.demodDrop_ok | with_reducible apply Chip.abortTick_ok
      | dsimp only
  clear_value s
  extract_lets +onlyGivenNames s
  have hs : Chip.Ok N s := by
    dsimp only [s]
    repeat'
      first
      | with_reducible assumption | with_reducible apply Chip.tapTick_ok | with_reducible apply Chip.gainTick_ok
      | with_reducible apply Chip.eqTick_ok | with_reducible apply Chip.skewTick_ok | dsimp only
  clear_value s
  extract_lets +onlyGivenNames s
  have hs : Chip.Ok N s := by
    dsimp only [s]
    repeat'
      first
      | with_reducible assumption | with_reducible apply Chip.blendEnds_ok | with_reducible apply Chip.saveTick_ok
      | dsimp only
  clear_value s
  repeat'
    first
    | with_reducible assumption | with_reducible apply Chip.each_ok | with_reducible apply Chip.bump_ok
    | with_reducible apply Chip.ite_ok | with_reducible apply Chip.each_ok | intro _ _ _ _ | intro _ _ _
    | dsimp only

theorem Chip.calRestore_ok {N : Nat} {s : Chip} (hk : s.Ok N)
    (d : Nat) (met : Bool) :
    (s.calRestore d met).Ok N := by
  unfold Chip.calRestore
  extract_lets +onlyGivenNames r
  clear_value r
  extract_lets +onlyGivenNames top
  clear_value top
  repeat'
    first
    | with_reducible assumption | with_reducible apply Chip.each_ok | with_reducible apply Chip.set_ok
    | with_reducible apply Chip.calTaken_ok | with_reducible apply Chip.showSave_ok
    | with_reducible apply Chip.raise_ok | with_reducible apply Chip.ite_ok | with_reducible apply Chip.each_ok
    | with_reducible apply Chip.foldl_ok | intro _ _ _ _ | intro _ _ _ | split | dsimp only

end Sys2Proof.Machine
end

