-- ==== Sys2Proof/Laws/Ok/Secure.lean ====
section
/-!
SUPPORT. Laws/Ok/Secure.lean: every operation of Machine/Secure.lean keeps a package in good order.
-/

namespace Sys2Proof.Machine

theorem Chip.modSec_ok {N : Nat} {s : Chip} (hk : s.Ok N) (f : SecRec → SecRec) : (s.modSec f).Ok N := by
  unfold Chip.modSec
  repeat'
    first
    | with_reducible assumption | dsimp only | with_reducible apply tabPut_wf | with_reducible apply tabClear_wf
    | with_reducible apply tabFilter_wf | with_reducible apply tabMap_wf | with_reducible apply tabWf_nil
    | with_reducible apply emptyLog | with_reducible apply Chip.Ok.count | with_reducible apply Chip.Ok.log
    | with_reducible apply Chip.Ok.regs | with_reducible apply Chip.Ok.shadow | with_reducible apply Chip.Ok.staged
    | with_reducible apply Chip.Ok.lib | with_reducible apply Chip.Ok.poison | with_reducible apply Chip.Ok.libLive
    | with_reducible apply Chip.Ok.libStaged | with_reducible apply Chip.Ok.volStage
    | with_reducible apply Chip.Ok.dies | with_reducible apply Chip.Ok.cals | with_reducible apply Chip.Ok.slots
    | with_reducible apply Chip.Ok.ports | with_reducible apply Chip.Ok.vols | with_reducible apply Chip.Ok.rets
    | with_reducible apply Chip.Ok.hosts | with_reducible apply Chip.Ok.of

theorem Chip.setLog_ok {N : Nat} {s : Chip} (hk : s.Ok N) (d : Nat) (l : AuditLog) : (s.setLog d l).Ok N := by
  unfold Chip.setLog
  repeat'
    first
    | with_reducible assumption | with_reducible apply Chip.modSec_ok | intro _ _ _ _ | intro _ _ _ | dsimp only

theorem Chip.showHead_ok {N : Nat} {s : Chip} (hk : s.Ok N) : (s.showHead).Ok N := by
  unfold Chip.showHead
  repeat'
    first
    | with_reducible assumption | with_reducible apply Chip.set_ok

theorem Chip.auditFrom_ok {N : Nat} {s : Chip} (hk : s.Ok N)
    (d type result : Nat) (detail : List Nat) :
    (s.auditFrom d type result detail).Ok N := by
  unfold Chip.auditFrom
  extract_lets +onlyGivenNames a
  clear_value a
  extract_lets +onlyGivenNames a
  clear_value a
  extract_lets +onlyGivenNames cap
  clear_value cap
  repeat'
    first
    | with_reducible assumption | with_reducible apply Chip.each_ok | with_reducible apply Chip.setLog_ok
    | with_reducible apply Chip.showHead_ok | with_reducible apply Chip.each_ok | intro _ _ _ _ | intro _ _ _
    | dsimp only

theorem Chip.auditAdd_ok {N : Nat} {s : Chip} (hk : s.Ok N)
    (type result : Nat) (detail : List Nat) :
    (s.auditAdd type result detail).Ok N := by
  unfold Chip.auditAdd
  repeat'
    first
    | with_reducible assumption | with_reducible apply Chip.auditFrom_ok

theorem Chip.secF0_ok {N : Nat} {s : Chip} (hk : s.Ok N) (type : Nat) : (s.secF0 type).Ok N := by
  unfold Chip.secF0
  repeat'
    first
    | with_reducible assumption | with_reducible apply Chip.raiseF0_ok

theorem Chip.showSess_ok {N : Nat} {s : Chip} (hk : s.Ok N) : (s.showSess).Ok N := by
  unfold Chip.showSess
  repeat'
    first
    | with_reducible assumption | with_reducible apply Chip.each_ok | with_reducible apply Chip.set_ok
    | with_reducible apply Chip.setB_ok | with_reducible apply Chip.ite_ok | with_reducible apply Chip.each_ok
    | intro _ _ _ _ | intro _ _ _ | split | dsimp only

theorem Chip.setHeld_ok {N : Nat} {s : Chip} (hk : s.Ok N)
    (p : Nat) (l : List (Nat × Word)) :
    (s.setHeld p l).Ok N := by
  unfold Chip.setHeld
  repeat'
    first
    | with_reducible assumption | with_reducible apply Chip.modSec_ok | with_reducible apply Chip.set_ok
    | intro _ _ _ _ | intro _ _ _ | dsimp only

theorem Chip.libLost_ok {N : Nat} {s : Chip} (hk : s.Ok N) (l : List (Nat × Word)) : (s.libLost l).Ok N := by
  unfold Chip.libLost
  repeat'
    first
    | with_reducible assumption | with_reducible apply Chip.each_ok | with_reducible apply Chip.libDiscard_ok
    | with_reducible apply Chip.ite_ok | with_reducible apply Chip.each_ok | intro _ _ _ _ | intro _ _ _
    | dsimp only

theorem Chip.heldDrop_ok {N : Nat} {s : Chip} (hk : s.Ok N) (p : Nat) : (s.heldDrop p).Ok N := by
  unfold Chip.heldDrop
  repeat'
    first
    | with_reducible assumption | with_reducible apply Chip.libLost_ok | with_reducible apply Chip.setHeld_ok

theorem Chip.awResult_ok {N : Nat} {s : Chip} (hk : s.Ok N) (p r : Nat) : (s.awResult p r).Ok N := by
  unfold Chip.awResult
  repeat'
    first
    | with_reducible assumption | with_reducible apply Chip.set_ok

theorem Chip.sessEnd_ok {N : Nat} {s : Chip} (hk : s.Ok N) (reason : Nat) : (s.sessEnd reason).Ok N := by
  unfold Chip.sessEnd
  repeat'
    first
    | with_reducible assumption | with_reducible apply Chip.auditAdd_ok | with_reducible apply Chip.modSec_ok
    | with_reducible apply Chip.heldDrop_ok | with_reducible apply Chip.set_ok | with_reducible apply Chip.raise_ok
    | with_reducible apply Chip.showSess_ok | intro _ _ _ _ | intro _ _ _ | split | dsimp only

theorem Chip.lockOut_ok {N : Nat} {s : Chip} (hk : s.Ok N) : (s.lockOut).Ok N := by
  unfold Chip.lockOut
  extract_lets +onlyGivenNames s
  have hs : Chip.Ok N s := by
    dsimp only [s]
    repeat'
      first
      | with_reducible assumption | with_reducible apply Chip.sessEnd_ok | with_reducible apply Chip.modSec_ok
      | intro _ _ _ _ | intro _ _ _ | dsimp only
  clear_value s
  extract_lets +onlyGivenNames s
  have hs : Chip.Ok N s := by
    dsimp only [s]
    repeat'
      first
      | with_reducible assumption | with_reducible apply Chip.set_ok | with_reducible apply Chip.raise_ok
      | with_reducible apply Chip.auditAdd_ok | dsimp only
  clear_value s
  repeat'
    first
    | with_reducible assumption | with_reducible apply Chip.secF0_ok | with_reducible apply Chip.showSess_ok

theorem Chip.authFail_ok {N : Nat} {s : Chip} (hk : s.Ok N) : (s.authFail).Ok N := by
  unfold Chip.authFail
  extract_lets +onlyGivenNames s
  have hs : Chip.Ok N s := by
    dsimp only [s]
    repeat'
      first
      | with_reducible assumption | with_reducible apply Chip.bump_ok | dsimp only
  clear_value s
  extract_lets +onlyGivenNames s
  have hs : Chip.Ok N s := by
    dsimp only [s]
    repeat'
      first
      | with_reducible assumption | with_reducible apply Chip.raiseF3_ok | dsimp only
  clear_value s
  repeat'
    first
    | with_reducible assumption | with_reducible apply Chip.lockOut_ok | with_reducible apply Chip.ite_ok

theorem Chip.seqAccept_ok {N : Nat} {s : Chip} (hk : s.Ok N) (q : Nat) : (s.seqAccept q).Ok N := by
  unfold Chip.seqAccept
  repeat'
    first
    | with_reducible assumption | with_reducible apply Chip.modSec_ok | with_reducible apply Chip.set_ok
    | intro _ _ _ _ | intro _ _ _ | dsimp only

end Sys2Proof.Machine
end

