-- ==== Sys2Proof/Laws/Ok/Volley.lean ====
section
/-!
SUPPORT. Laws/Ok/Volley.lean: every operation of Machine/Volley.lean keeps a package in good order.
-/

namespace Sys2Proof.Machine

theorem Chip.setVol_ok {N : Nat} {s : Chip} (hk : s.Ok N) (q : Nat) (r : VolRec) : (s.setVol q r).Ok N := by
  unfold Chip.setVol
  repeat'
    first
    | with_reducible assumption | intro _ _ _ _ | intro _ _ _ | dsimp only | with_reducible apply tabPut_wf
    | with_reducible apply tabClear_wf | with_reducible apply tabFilter_wf | with_reducible apply tabMap_wf
    | with_reducible apply tabWf_nil | with_reducible apply emptyLog | with_reducible apply Chip.Ok.count
    | with_reducible apply Chip.Ok.log | with_reducible apply Chip.Ok.regs | with_reducible apply Chip.Ok.shadow
    | with_reducible apply Chip.Ok.staged | with_reducible apply Chip.Ok.lib | with_reducible apply Chip.Ok.poison
    | with_reducible apply Chip.Ok.libLive | with_reducible apply Chip.Ok.libStaged
    | with_reducible apply Chip.Ok.volStage | with_reducible apply Chip.Ok.dies | with_reducible apply Chip.Ok.cals
    | with_reducible apply Chip.Ok.slots | with_reducible apply Chip.Ok.ports | with_reducible apply Chip.Ok.vols
    | with_reducible apply Chip.Ok.rets | with_reducible apply Chip.Ok.hosts | with_reducible apply Chip.Ok.of

theorem Chip.modVol_ok {N : Nat} {s : Chip} (hk : s.Ok N)
    (q : Nat) (f : VolRec → VolRec) :
    (s.modVol q f).Ok N := by
  unfold Chip.modVol
  repeat'
    first
    | with_reducible assumption | with_reducible apply Chip.setVol_ok

theorem Chip.setVst_ok {N : Nat} {s : Chip} (hk : s.Ok N) (q st : Nat) : (s.setVst q st).Ok N := by
  unfold Chip.setVst
  extract_lets +onlyGivenNames t
  have ht : Chip.Ok N t := by
    dsimp only [t]
    repeat'
      first
      | with_reducible assumption | with_reducible apply Chip.set_ok | dsimp only
  clear_value t
  repeat'
    first
    | with_reducible assumption | with_reducible apply Chip.set_ok | intro _ _ _ _ | intro _ _ _ | dsimp only

theorem Chip.volCause_ok {N : Nat} {s : Chip} (hk : s.Ok N) (q c : Nat) : (s.volCause q c).Ok N := by
  unfold Chip.volCause
  repeat'
    first
    | with_reducible assumption | with_reducible apply Chip.set_ok

theorem Chip.volFail_ok {N : Nat} {s : Chip} (hk : s.Ok N) (q st c : Nat) : (s.volFail q st c).Ok N := by
  unfold Chip.volFail
  extract_lets +onlyGivenNames t
  have ht : Chip.Ok N t := by
    dsimp only [t]
    repeat'
      first
      | with_reducible assumption | with_reducible apply Chip.setVst_ok | with_reducible apply Chip.volCause_ok
      | with_reducible apply Chip.set_ok | dsimp only
  clear_value t
  extract_lets +onlyGivenNames t
  have ht : Chip.Ok N t := by
    dsimp only [t]
    repeat'
      first
      | with_reducible assumption | with_reducible apply Chip.set_ok | with_reducible apply Chip.ite_ok
      | dsimp only
  clear_value t
  repeat'
    first
    | with_reducible assumption | with_reducible apply Chip.raise_ok | with_reducible apply Chip.bump_ok

theorem Chip.applyEntry_ok {N : Nat} {s : Chip} (hk : s.Ok N)
    (d sl e : Nat) (pol : Policy) (reset : Bool) :
    (s.applyEntry d sl e pol reset).1.Ok N := by
  unfold Chip.applyEntry
  extract_lets +onlyGivenNames q
  clear_value q
  repeat'
    first
    | with_reducible assumption | with_reducible apply Chip.set_ok | with_reducible apply Chip.changeState_ok
    | with_reducible apply Chip.modDie_ok | with_reducible apply Chip.modSlot_ok | with_reducible apply Chip.ite_ok
    | with_reducible apply Chip.ite_fst_ok | intro _ _ _ _ | intro _ _ _ | dsimp only

theorem Chip.outcome_ok {N : Nat} {s : Chip} (hk : s.Ok N)
    (f : Nat → Bool) (e : Nat) (pol : Policy) (reset : Bool) :
    (s.outcome f e pol reset).1.Ok N := by
  unfold Chip.outcome
  repeat'
    first
    | with_reducible assumption | with_reducible apply Chip.applyEntry_ok | with_reducible apply Chip.ite_ok
    | with_reducible apply Chip.ite_fst_ok | intro _ _ _ _ | intro _ _ _ | dsimp only | split
    | with_reducible refine Chip.fst_ok (by assumption) ?_

theorem Chip.volDiscard_ok {N : Nat} {s : Chip} (hk : s.Ok N) : (s.volDiscard).Ok N := by
  unfold Chip.volDiscard
  repeat'
    first
    | with_reducible assumption | with_reducible apply Chip.bump_ok | with_reducible apply Chip.raise_ok

theorem Chip.volWrite_ok {N : Nat} {s : Chip} (hk : s.Ok N) (a : Nat) (v : Word) : (s.volWrite a v).Ok N := by
  unfold Chip.volWrite
  repeat'
    first
    | with_reducible assumption | with_reducible apply Chip.volDiscard_ok | with_reducible apply Chip.setReg_ok
    | with_reducible apply Chip.ite_ok | intro _ _ _ _ | intro _ _ _ | split | dsimp only
    | with_reducible apply tabPut_wf | with_reducible apply tabClear_wf | with_reducible apply tabFilter_wf
    | with_reducible apply tabMap_wf | with_reducible apply tabWf_nil | with_reducible apply emptyLog
    | with_reducible apply Chip.Ok.count | with_reducible apply Chip.Ok.log | with_reducible apply Chip.Ok.regs
    | with_reducible apply Chip.Ok.shadow | with_reducible apply Chip.Ok.staged | with_reducible apply Chip.Ok.lib
    | with_reducible apply Chip.Ok.poison | with_reducible apply Chip.Ok.libLive
    | with_reducible apply Chip.Ok.libStaged | with_reducible apply Chip.Ok.volStage
    | with_reducible apply Chip.Ok.dies | with_reducible apply Chip.Ok.cals | with_reducible apply Chip.Ok.slots
    | with_reducible apply Chip.Ok.ports | with_reducible apply Chip.Ok.vols | with_reducible apply Chip.Ok.rets
    | with_reducible apply Chip.Ok.hosts | with_reducible apply Chip.Ok.of

theorem Chip.volStart_ok {N : Nat} {s : Chip} (hk : s.Ok N) (p q : Nat) : (s.volStart p q).Ok N := by
  unfold Chip.volStart
  extract_lets +onlyGivenNames c
  clear_value c
  repeat'
    first
    | with_reducible assumption | with_reducible apply Chip.volCause_ok | with_reducible apply Chip.raise_ok
    | with_reducible apply Chip.seqAccept_ok | with_reducible apply Chip.authFail_ok
    | with_reducible apply Chip.set_ok | with_reducible apply Chip.setVol_ok | with_reducible apply Chip.ite_ok
    | dsimp only | with_reducible apply tabPut_wf | with_reducible apply tabClear_wf
    | with_reducible apply tabFilter_wf | with_reducible apply tabMap_wf | with_reducible apply tabWf_nil
    | with_reducible apply emptyLog | with_reducible apply Chip.Ok.count | with_reducible apply Chip.Ok.log
    | with_reducible apply Chip.Ok.regs | with_reducible apply Chip.Ok.shadow | with_reducible apply Chip.Ok.staged
    | with_reducible apply Chip.Ok.lib | with_reducible apply Chip.Ok.poison | with_reducible apply Chip.Ok.libLive
    | with_reducible apply Chip.Ok.libStaged | with_reducible apply Chip.Ok.volStage
    | with_reducible apply Chip.Ok.dies | with_reducible apply Chip.Ok.cals | with_reducible apply Chip.Ok.slots
    | with_reducible apply Chip.Ok.ports | with_reducible apply Chip.Ok.vols | with_reducible apply Chip.Ok.rets
    | with_reducible apply Chip.Ok.hosts | with_reducible apply Chip.Ok.of

theorem Chip.volLate_ok {N : Nat} {s : Chip} (hk : s.Ok N) (q b c : Nat) : (s.volLate q b c).Ok N := by
  unfold Chip.volLate
  repeat'
    first
    | with_reducible assumption | with_reducible apply Chip.volCause_ok | with_reducible apply Chip.setVst_ok
    | with_reducible apply Chip.set_ok | with_reducible apply Chip.modVol_ok | with_reducible apply Chip.volFail_ok
    | with_reducible apply Chip.ite_ok | intro _ _ _ _ | intro _ _ _ | dsimp only

theorem Chip.volWait_ok {N : Nat} {s : Chip} (hk : s.Ok N) (q : Nat) : (s.volWait q).Ok N := by
  unfold Chip.volWait
  repeat'
    first
    | with_reducible assumption | with_reducible apply Chip.volLate_ok | with_reducible apply Chip.ite_ok | split

theorem Chip.volVerified_ok {N : Nat} {s : Chip} (hk : s.Ok N) (q : Nat) : (s.volVerified q).Ok N := by
  unfold Chip.volVerified
  repeat'
    first
    | with_reducible assumption | with_reducible apply Chip.set_ok | with_reducible apply Chip.volFail_ok
    | with_reducible apply Chip.volCause_ok | with_reducible apply Chip.volLate_ok
    | with_reducible apply Chip.setVst_ok | with_reducible apply Chip.volWait_ok | with_reducible apply Chip.ite_ok
    | dsimp only

theorem Chip.volForget_ok {N : Nat} {s : Chip} (hk : s.Ok N) (q : Nat) : (s.volForget q).Ok N := by
  unfold Chip.volForget
  extract_lets +onlyGivenNames s
  have hs : Chip.Ok N s := by
    dsimp only [s]
    repeat'
      first
      | with_reducible assumption | dsimp only | with_reducible apply tabPut_wf | with_reducible apply tabClear_wf
      | with_reducible apply tabFilter_wf | with_reducible apply tabMap_wf | with_reducible apply tabWf_nil
      | with_reducible apply emptyLog | with_reducible apply Chip.Ok.count | with_reducible apply Chip.Ok.log
      | with_reducible apply Chip.Ok.regs | with_reducible apply Chip.Ok.shadow
      | with_reducible apply Chip.Ok.staged | with_reducible apply Chip.Ok.lib
      | with_reducible apply Chip.Ok.poison | with_reducible apply Chip.Ok.libLive
      | with_reducible apply Chip.Ok.libStaged | with_reducible apply Chip.Ok.volStage
      | with_reducible apply Chip.Ok.dies | with_reducible apply Chip.Ok.cals | with_reducible apply Chip.Ok.slots
      | with_reducible apply Chip.Ok.ports | with_reducible apply Chip.Ok.vols | with_reducible apply Chip.Ok.rets
      | with_reducible apply Chip.Ok.hosts | with_reducible apply Chip.Ok.of
  clear_value s
  repeat'
    first
    | with_reducible assumption | with_reducible apply Chip.clearRegs_ok | with_reducible apply Chip.setVol_ok

theorem Chip.volAbort_ok {N : Nat} {s : Chip} (hk : s.Ok N) (q : Nat) : (s.volAbort q).Ok N := by
  unfold Chip.volAbort
  extract_lets +onlyGivenNames st
  clear_value st
  extract_lets +onlyGivenNames toAborted
  subst toAborted
  repeat'
    first
    | with_reducible assumption | with_reducible apply Chip.volForget_ok | with_reducible apply Chip.modVol_ok
    | with_reducible apply Chip.raise_ok | with_reducible apply Chip.set_ok | with_reducible apply Chip.volCause_ok
    | with_reducible apply Chip.setVst_ok | with_reducible apply Chip.ite_ok | intro _ _ _ _ | intro _ _ _
    | dsimp only

theorem Chip.volRelease_ok {N : Nat} {s : Chip} (hk : s.Ok N) (q : Nat) : (s.volRelease q).Ok N := by
  unfold Chip.volRelease
  extract_lets +onlyGivenNames src s
  clear_value src
  have hs : Chip.Ok N s := by
    dsimp only [s]
    repeat'
      first
      | with_reducible assumption | dsimp only | with_reducible apply tabPut_wf | with_reducible apply tabClear_wf
      | with_reducible apply tabFilter_wf | with_reducible apply tabMap_wf | with_reducible apply tabWf_nil
      | with_reducible apply emptyLog | with_reducible apply Chip.Ok.count | with_reducible apply Chip.Ok.log
      | with_reducible apply Chip.Ok.regs | with_reducible apply Chip.Ok.shadow
      | with_reducible apply Chip.Ok.staged | with_reducible apply Chip.Ok.lib
      | with_reducible apply Chip.Ok.poison | with_reducible apply Chip.Ok.libLive
      | with_reducible apply Chip.Ok.libStaged | with_reducible apply Chip.Ok.volStage
      | with_reducible apply Chip.Ok.dies | with_reducible apply Chip.Ok.cals | with_reducible apply Chip.Ok.slots
      | with_reducible apply Chip.Ok.ports | with_reducible apply Chip.Ok.vols | with_reducible apply Chip.Ok.rets
      | with_reducible apply Chip.Ok.hosts | with_reducible apply Chip.Ok.of
  clear_value s
  extract_lets +onlyGivenNames s
  have hs : Chip.Ok N s := by
    dsimp only [s]
    repeat'
      first
      | with_reducible assumption | with_reducible apply Chip.clearRegs_ok | with_reducible apply Chip.setVol_ok
      | dsimp only
  clear_value s
  repeat'
    first
    | with_reducible assumption | with_reducible apply Chip.setVst_ok

theorem Chip.volCtrl_ok {N : Nat} {s : Chip} (hk : s.Ok N) (p q : Nat) (v : Word) : (s.volCtrl p q v).Ok N := by
  unfold Chip.volCtrl
  extract_lets +onlyGivenNames x
  clear_value x
  extract_lets +onlyGivenNames n
  clear_value n
  extract_lets +onlyGivenNames st
  clear_value st
  repeat'
    first
    | with_reducible assumption | with_reducible apply Chip.volCause_ok | with_reducible apply Chip.setVol_ok
    | with_reducible apply Chip.setVst_ok | with_reducible apply Chip.volAbort_ok
    | with_reducible apply Chip.volRelease_ok | with_reducible apply Chip.volStart_ok
    | with_reducible apply Chip.ite_ok

theorem Chip.volEntries_ok {N : Nat} {s : Chip} (hk : s.Ok N) (d q : Nat) : (s.volEntries d q).Ok N := by
  unfold Chip.volEntries
  repeat'
    first
    | with_reducible assumption | with_reducible apply Chip.modVol_ok | with_reducible apply Chip.ite_ok
    | intro _ _ _ _ | intro _ _ _ | dsimp only

theorem Chip.volReport1_ok {N : Nat} {s : Chip} (hk : s.Ok N) (d q : Nat) : (s.volReport1 d q).Ok N := by
  unfold Chip.volReport1
  repeat'
    first
    | with_reducible assumption | with_reducible apply Chip.set_ok | with_reducible apply Chip.setVst_ok
    | with_reducible apply Chip.ite_ok | dsimp only

theorem Chip.volDeadline_ok {N : Nat} {s : Chip} (hk : s.Ok N) (q : Nat) : (s.volDeadline q).Ok N := by
  unfold Chip.volDeadline
  repeat'
    first
    | with_reducible assumption | with_reducible apply Chip.setVst_ok | with_reducible apply Chip.modVol_ok
    | with_reducible apply Chip.volFail_ok | with_reducible apply Chip.ite_ok | intro _ _ _ _ | intro _ _ _
    | dsimp only

theorem Chip.volDeadlines_ok {N : Nat} {s : Chip} (hk : s.Ok N) : (s.volDeadlines).Ok N := by
  unfold Chip.volDeadlines
  extract_lets +onlyGivenNames s
  have hs : Chip.Ok N s := by
    dsimp only [s]
    repeat'
      first
      | with_reducible assumption | with_reducible apply Chip.at_ok | dsimp only
  clear_value s
  repeat'
    first
    | with_reducible assumption | with_reducible apply Chip.each_ok | with_reducible apply Chip.volDeadline_ok
    | with_reducible apply Chip.each_ok | intro _ _ _ _ | intro _ _ _ | dsimp only

theorem Chip.leftForget_ok {N : Nat} {s : Chip} (hk : s.Ok N) (cs : List Nat) : (s.leftForget cs).Ok N := by
  unfold Chip.leftForget
  repeat'
    first
    | with_reducible assumption | intro _ _ _ _ | intro _ _ _ | dsimp only | with_reducible apply tabPut_wf
    | with_reducible apply tabClear_wf | with_reducible apply tabFilter_wf | with_reducible apply tabMap_wf
    | with_reducible apply tabWf_nil | with_reducible apply emptyLog | with_reducible apply Chip.Ok.count
    | with_reducible apply Chip.Ok.log | with_reducible apply Chip.Ok.regs | with_reducible apply Chip.Ok.shadow
    | with_reducible apply Chip.Ok.staged | with_reducible apply Chip.Ok.lib | with_reducible apply Chip.Ok.poison
    | with_reducible apply Chip.Ok.libLive | with_reducible apply Chip.Ok.libStaged
    | with_reducible apply Chip.Ok.volStage | with_reducible apply Chip.Ok.dies | with_reducible apply Chip.Ok.cals
    | with_reducible apply Chip.Ok.slots | with_reducible apply Chip.Ok.ports | with_reducible apply Chip.Ok.vols
    | with_reducible apply Chip.Ok.rets | with_reducible apply Chip.Ok.hosts | with_reducible apply Chip.Ok.of

theorem Chip.applyAll_ok {N : Nat} {s : Chip} (hk : s.Ok N)
    (f : Nat → Bool) (hdr : Nat) (hop : Bool) (taken : List Nat) (es : List Nat) :
    (s.applyAll f hdr hop taken es).1.Ok N := by
  unfold Chip.applyAll
  repeat'
    first
    | with_reducible assumption | with_reducible apply Chip.outcome_ok | with_reducible apply Chip.ite_ok
    | with_reducible apply Chip.foldl_fst_ok | with_reducible apply Chip.ite_fst_ok | intro _ _ _ _ | intro _ _ _
    | dsimp only | with_reducible apply Chip.foldl_ok | with_reducible refine Chip.fst_ok (by assumption) ?_

theorem Chip.volLoad_ok {N : Nat} {s : Chip} (hk : s.Ok N) (q : Nat) : (s.volLoad q).Ok N := by
  unfold Chip.volLoad
  repeat'
    first
    | with_reducible assumption | with_reducible apply Chip.leftForget_ok | with_reducible apply Chip.applyAll_ok
    | with_reducible apply Chip.modVol_ok | with_reducible apply Chip.ite_ok | intro _ _ _ _ | intro _ _ _
    | dsimp only | with_reducible refine Chip.fst_ok (by assumption) ?_

theorem Chip.volReport_ok {N : Nat} {s : Chip} (hk : s.Ok N) (q : Nat) : (s.volReport q).Ok N := by
  unfold Chip.volReport
  extract_lets +onlyGivenNames r
  clear_value r
  repeat'
    first
    | with_reducible assumption | with_reducible apply Chip.setReg_ok | with_reducible apply Chip.set_ok
    | with_reducible apply Chip.bump_ok | with_reducible apply Chip.setVst_ok | with_reducible apply Chip.raise_ok
    | with_reducible apply Chip.ite_ok | intro _ _ _ _ | intro _ _ _ | dsimp only

theorem Chip.leftApply_ok {N : Nat} {s : Chip} (hk : s.Ok N) (x : LeftEntry) : (s.leftApply x).Ok N := by
  unfold Chip.leftApply
  repeat'
    first
    | with_reducible assumption | with_reducible apply Chip.applyEntry_ok | with_reducible apply Chip.hop_ok
    | split | with_reducible refine Chip.fst_ok (by assumption) ?_

theorem Chip.volCount_ok {N : Nat} {s : Chip} (hk : s.Ok N) (q n m : Nat) : (s.volCount q n m).Ok N := by
  unfold Chip.volCount
  repeat'
    first
    | with_reducible assumption | with_reducible apply Chip.set_ok | with_reducible apply Chip.modVol_ok
    | with_reducible apply Chip.ite_ok | intro _ _ _ _ | intro _ _ _ | dsimp only

theorem Chip.volDeferred_ok {N : Nat} {s : Chip} (hk : s.Ok N)
    (newer : List Nat) (q : Nat) :
    (s.volDeferred newer q).Ok N := by
  unfold Chip.volDeferred
  extract_lets +onlyGivenNames now
  clear_value now
  repeat'
    first
    | with_reducible assumption | with_reducible apply Chip.each_ok | with_reducible apply Chip.leftApply_ok
    | with_reducible apply Chip.modVol_ok | with_reducible apply Chip.volCount_ok
    | with_reducible apply Chip.raise_ok | with_reducible apply Chip.ite_ok | with_reducible apply Chip.each_ok
    | intro _ _ _ _ | intro _ _ _ | dsimp only

theorem Chip.volWipe_ok {N : Nat} {s : Chip} (hk : s.Ok N) (d : Nat) : (s.volWipe d).Ok N := by
  unfold Chip.volWipe
  extract_lets +onlyGivenNames mine
  clear_value mine
  extract_lets +onlyGivenNames src s
  clear_value src
  have hs : Chip.Ok N s := by
    dsimp only [s]
    repeat'
      first
      | with_reducible assumption | intro _ _ _ _ | intro _ _ _ | dsimp only | with_reducible apply tabPut_wf
      | with_reducible apply tabClear_wf | with_reducible apply tabFilter_wf | with_reducible apply tabMap_wf
      | with_reducible apply tabWf_nil | with_reducible apply emptyLog | with_reducible apply Chip.Ok.count
      | with_reducible apply Chip.Ok.log | with_reducible apply Chip.Ok.regs | with_reducible apply Chip.Ok.shadow
      | with_reducible apply Chip.Ok.staged | with_reducible apply Chip.Ok.lib
      | with_reducible apply Chip.Ok.poison | with_reducible apply Chip.Ok.libLive
      | with_reducible apply Chip.Ok.libStaged | with_reducible apply Chip.Ok.volStage
      | with_reducible apply Chip.Ok.dies | with_reducible apply Chip.Ok.cals | with_reducible apply Chip.Ok.slots
      | with_reducible apply Chip.Ok.ports | with_reducible apply Chip.Ok.vols | with_reducible apply Chip.Ok.rets
      | with_reducible apply Chip.Ok.hosts | with_reducible apply Chip.Ok.of
  clear_value s
  repeat'
    first
    | with_reducible assumption | with_reducible apply Chip.each_ok | with_reducible apply Chip.set_ok
    | with_reducible apply Chip.each_ok | intro _ _ _ _ | intro _ _ _ | dsimp only

theorem Chip.volRemap_ok {N : Nat} {s : Chip} (hk : s.Ok N) : (s.volRemap).Ok N := by
  unfold Chip.volRemap
  extract_lets +onlyGivenNames qs
  clear_value qs
  extract_lets +onlyGivenNames s
  have hs : Chip.Ok N s := by
    dsimp only [s]
    repeat'
      first
      | with_reducible assumption | with_reducible apply Chip.each_ok | with_reducible apply Chip.set_ok
      | with_reducible apply Chip.setVst_ok | with_reducible apply Chip.modVol_ok
      | with_reducible apply Chip.volLate_ok | with_reducible apply Chip.ite_ok | with_reducible apply Chip.each_ok
      | intro _ _ _ _ | intro _ _ _ | dsimp only
  clear_value s
  repeat'
    first
    | with_reducible assumption | with_reducible apply Chip.raise_ok | with_reducible apply Chip.ite_ok

theorem Chip.volTakeover_ok {N : Nat} {s : Chip} (hk : s.Ok N) : (s.volTakeover).Ok N := by
  unfold Chip.volTakeover
  repeat'
    first
    | with_reducible assumption | with_reducible apply Chip.each_ok | with_reducible apply Chip.modVol_ok
    | with_reducible apply Chip.volFail_ok | with_reducible apply Chip.setVst_ok | with_reducible apply Chip.set_ok
    | with_reducible apply Chip.ite_ok | with_reducible apply Chip.each_ok | intro _ _ _ _ | intro _ _ _
    | dsimp only

end Sys2Proof.Machine
end

