-- ==== Sys2Proof/Laws/Ok/Sched.lean ====
section
/-!
SUPPORT. Laws/Ok/Sched.lean: every operation of Machine/Sched.lean keeps a package in good order.
-/

namespace Sys2Proof.Machine

theorem Chip.modSched_ok {N : Nat} {s : Chip} (hk : s.Ok N) (f : SchedRec → SchedRec) : (s.modSched f).Ok N := by
  unfold Chip.modSched
  repeat'
    first
    | with_reducible assumption | dsimp only | with_reducible apply tabPut_wf | with_reducible apply tabClear_wf
    | with_reducible apply tabFilter_wf | with_reducible apply tabMap_wf | with_reducible apply tabWf_nil
    | with_reducible apply emptyLog | with_reducible apply Chip.Ok.count | with_reducible apply Chip.Ok.log
    | with_reducible apply Chip.Ok.regs | with_reducible apply Chip.Ok.shadow | with_reducible apply Chip.Ok.staged
    | with_reducible apply Chip.Ok.lib | with_reducible apply Chip.Ok.poison | with_reducible apply Chip.Ok.libLive
    | with_reducible apply Chip.Ok.libStaged | with_reducible apply Chip.Ok.volStage
    | with_reducible apply Chip.Ok.dies | with_reducible apply Chip.Ok.cals | with_reducible apply Chip.Ok.slots
    | with_reducible apply Chip.Ok.ports | with_reducible apply Chip.Ok.vols | with_reducible apply Chip.Ok.rets
    | with_reducible apply Chip.Ok.hosts | with_reducible apply Chip.Ok.of

theorem Chip.showSched_ok {N : Nat} {s : Chip} (hk : s.Ok N) : (s.showSched).Ok N := by
  unfold Chip.showSched
  extract_lets +onlyGivenNames s
  have hs : Chip.Ok N s := by
    dsimp only [s]
    repeat'
      first
      | with_reducible assumption | with_reducible apply Chip.setB_ok | dsimp only
  clear_value s
  extract_lets +onlyGivenNames s
  have hs : Chip.Ok N s := by
    dsimp only [s]
    repeat'
      first
      | with_reducible assumption | with_reducible apply Chip.set_ok | dsimp only
  clear_value s
  repeat'
    first
    | with_reducible assumption | with_reducible apply Chip.set_ok | with_reducible apply Chip.ite_ok | split

theorem Chip.schedSkip_ok {N : Nat} {s : Chip} (hk : s.Ok N)
    (n : Nat) (vs : List Nat) :
    (s.schedSkip n vs).Ok N := by
  unfold Chip.schedSkip
  repeat'
    first
    | with_reducible assumption | with_reducible apply Chip.bump_ok | with_reducible apply Chip.raise_ok
    | with_reducible apply Chip.modSched_ok | with_reducible apply Chip.ite_ok | intro _ _ _ _ | intro _ _ _
    | dsimp only

theorem Chip.schedJump_ok {N : Nat} {s : Chip} (hk : s.Ok N)
    (was : Bool) (gone : List Nat) (n : Nat) :
    (s.schedJump was gone n).Ok N := by
  unfold Chip.schedJump
  repeat'
    first
    | with_reducible assumption | with_reducible apply Chip.schedSkip_ok | with_reducible apply Chip.modSched_ok
    | with_reducible apply Chip.ite_ok | intro _ _ _ _ | intro _ _ _ | dsimp only

theorem Chip.schedStart_ok {N : Nat} {s : Chip} (hk : s.Ok N) (c : Nat) : (s.schedStart c).Ok N := by
  unfold Chip.schedStart
  extract_lets +onlyGivenNames first
  clear_value first
  extract_lets +onlyGivenNames o
  clear_value o
  repeat'
    first
    | with_reducible assumption | with_reducible apply Chip.schedSkip_ok | with_reducible apply Chip.modSched_ok
    | with_reducible apply Chip.ite_ok | intro _ _ _ _ | intro _ _ _ | dsimp only

theorem Chip.schedArm_ok {N : Nat} {s : Chip} (hk : s.Ok N) (armed : Nat) : (s.schedArm armed).Ok N := by
  unfold Chip.schedArm
  repeat'
    first
    | with_reducible assumption | with_reducible apply Chip.modSched_ok | with_reducible apply Chip.schedSkip_ok
    | with_reducible apply Chip.bump_ok | with_reducible apply Chip.raise_ok | with_reducible apply Chip.ite_ok
    | with_reducible apply Chip.foldl_ok | intro _ _ _ _ | intro _ _ _ | split | dsimp only

theorem Chip.schedLoad_ok {N : Nat} {s : Chip} (hk : s.Ok N) : (s.schedLoad).Ok N := by
  unfold Chip.schedLoad
  extract_lets +onlyGivenNames b
  clear_value b
  extract_lets +onlyGivenNames due
  clear_value due
  extract_lets +onlyGivenNames s
  have hs : Chip.Ok N s := by
    dsimp only [s]
    repeat'
      first
      | with_reducible assumption | with_reducible apply Chip.modSched_ok | with_reducible apply Chip.ite_ok
      | intro _ _ _ _ | intro _ _ _ | dsimp only
  clear_value s
  repeat'
    first
    | with_reducible assumption | with_reducible apply Chip.each_ok | with_reducible apply Chip.leftForget_ok
    | with_reducible apply Chip.applyAll_ok | with_reducible apply Chip.hop_ok
    | with_reducible apply Chip.modSched_ok | with_reducible apply Chip.bump_ok | with_reducible apply Chip.set_ok
    | with_reducible apply Chip.each_ok | intro _ _ _ _ | intro _ _ _ | split | dsimp only
    | with_reducible refine Chip.fst_ok (by assumption) ?_

theorem Chip.schedCatchup_ok {N : Nat} {s : Chip} (hk : s.Ok N) : (s.schedCatchup).Ok N := by
  unfold Chip.schedCatchup
  extract_lets +onlyGivenNames b
  clear_value b
  extract_lets +onlyGivenNames vs
  clear_value vs
  extract_lets +onlyGivenNames merged
  clear_value merged
  extract_lets +onlyGivenNames taken
  clear_value taken
  extract_lets +onlyGivenNames s
  have hs : Chip.Ok N s := by
    dsimp only [s]
    repeat'
      first
      | with_reducible assumption | with_reducible apply Chip.modSched_ok | intro _ _ _ _ | intro _ _ _
      | dsimp only
  clear_value s
  extract_lets +onlyGivenNames hit
  clear_value hit
  extract_lets +onlyGivenNames s
  have hs : Chip.Ok N s := by
    dsimp only [s]
    repeat'
      first
      | with_reducible assumption | with_reducible apply Chip.bump_ok | dsimp only
  clear_value s
  extract_lets +onlyGivenNames act
  clear_value act
  extract_lets +onlyGivenNames s
  have hs : Chip.Ok N s := by
    dsimp only [s]
    repeat'
      first
      | with_reducible assumption | with_reducible apply Chip.leftForget_ok | intro _ _ _ _ | intro _ _ _
      | dsimp only
  clear_value s
  repeat'
    first
    | with_reducible assumption | with_reducible apply Chip.each_ok | with_reducible apply Chip.outcome_ok
    | with_reducible apply Chip.hop_ok | with_reducible apply Chip.modSched_ok | with_reducible apply Chip.ite_ok
    | with_reducible apply Chip.each_ok | intro _ _ _ _ | intro _ _ _ | dsimp only
    | with_reducible refine Chip.fst_ok (by assumption) ?_

theorem Chip.schedDeferred_ok {N : Nat} {s : Chip} (hk : s.Ok N)
    (newer : Nat → List Nat) :
    (s.schedDeferred newer).Ok N := by
  unfold Chip.schedDeferred
  extract_lets +onlyGivenNames now
  clear_value now
  repeat'
    first
    | with_reducible assumption | with_reducible apply Chip.modSched_ok | with_reducible apply Chip.each_ok
    | with_reducible apply Chip.leftApply_ok | with_reducible apply Chip.bump_ok
    | with_reducible apply Chip.raise_ok | with_reducible apply Chip.ite_ok | with_reducible apply Chip.each_ok
    | intro _ _ _ _ | intro _ _ _ | dsimp only

theorem Chip.deferred_ok {N : Nat} {s : Chip} (hk : s.Ok N) : (s.deferred).Ok N := by
  unfold Chip.deferred
  extract_lets +onlyGivenNames qs
  clear_value qs
  extract_lets +onlyGivenNames ran
  clear_value ran
  extract_lets +onlyGivenNames later
  clear_value later
  extract_lets +onlyGivenNames newer
  clear_value newer
  repeat'
    first
    | with_reducible assumption | with_reducible apply Chip.each_ok | with_reducible apply Chip.volDeferred_ok
    | with_reducible apply Chip.schedDeferred_ok | with_reducible apply Chip.each_ok | intro _ _ _ _ | intro _ _ _
    | dsimp only

end Sys2Proof.Machine
end

