-- ==== Sys2Proof/Laws/Ok/Commit.lean ====
section
/-!
SUPPORT. Laws/Ok/Commit.lean: every operation of Machine/Commit.lean keeps a package in good order.
-/

namespace Sys2Proof.Machine

theorem Chip.modCommit_ok {N : Nat} {s : Chip} (hk : s.Ok N)
    (f : CommitRec → CommitRec) :
    (s.modCommit f).Ok N := by
  unfold Chip.modCommit
  repeat'
    first
    | with_reducible assumption | dsimp only | with_reducible apply tabPut_wf | with_reducible apply tabClear_wf
    | with_reducible apply tabFilter_wf | with_reducible apply tabMap_wf | with_reducible apply tabWf_nil
    | with_reducible apply emptyLog | with_reducible apply Chip.Ok.count | with_reducible apply Chip.Ok.log
    | with_reducible apply Chip.Ok.regs | with_reducible apply Chip.Ok.shadow | with_reducible apply Chip.Ok.staged
    | with_reducible apply Chip.Ok.lib | with_reducible apply Chip.Ok.poison | with_reducible apply Chip.Ok.libLive
    | with_reducible apply Chip.Ok.libStaged | with_reducible apply Chip.Ok.volStage
    | with_reducible apply Chip.Ok.dies | with_reducible apply Chip.Ok.cals | with_reducible apply Chip.Ok.slots
    | with_reducible apply Chip.Ok.ports | with_reducible apply Chip.Ok.vols | with_reducible apply Chip.Ok.rets
    | with_reducible apply Chip.Ok.hosts | with_reducible apply Chip.Ok.of

theorem Chip.coState_ok {N : Nat} {s : Chip} (hk : s.Ok N) (v : Nat) : (s.coState v).Ok N := by
  unfold Chip.coState
  repeat'
    first
    | with_reducible assumption | with_reducible apply Chip.set_ok

theorem Chip.freeze_ok {N : Nat} {s : Chip} (hk : s.Ok N) (d : Nat) : (s.freeze d).Ok N := by
  unfold Chip.freeze
  extract_lets +onlyGivenNames mine
  clear_value mine
  extract_lets +onlyGivenNames t
  have ht : Chip.Ok N t := by
    dsimp only [t]
    repeat'
      first
      | with_reducible assumption | with_reducible apply Chip.setStaged_ok | with_reducible apply Chip.foldl_ok
      | intro _ _ _ _ | intro _ _ _ | dsimp only
  clear_value t
  repeat'
    first
    | with_reducible assumption | with_reducible apply Chip.setShadow_ok | with_reducible apply Chip.stageLive_ok
    | with_reducible apply Chip.foldl_ok | intro _ _ _ _ | intro _ _ _ | dsimp only

theorem Chip.unfreeze_ok {N : Nat} {s : Chip} (hk : s.Ok N) (d : Nat) : (s.unfreeze d).Ok N := by
  unfold Chip.unfreeze
  extract_lets +onlyGivenNames mine
  clear_value mine
  extract_lets +onlyGivenNames t
  have ht : Chip.Ok N t := by
    dsimp only [t]
    repeat'
      first
      | with_reducible assumption | with_reducible apply Chip.setShadow_ok | with_reducible apply Chip.ite_ok
      | with_reducible apply Chip.foldl_ok | intro _ _ _ _ | intro _ _ _ | dsimp only
  clear_value t
  repeat'
    first
    | with_reducible assumption | with_reducible apply Chip.setStaged_ok | with_reducible apply Chip.unstageLive_ok
    | with_reducible apply Chip.foldl_ok | intro _ _ _ _ | intro _ _ _ | dsimp only

theorem Chip.dropPart_ok {N : Nat} {s : Chip} (hk : s.Ok N) (d : Nat) : (s.dropPart d).Ok N := by
  unfold Chip.dropPart
  extract_lets +onlyGivenNames mine
  clear_value mine
  extract_lets +onlyGivenNames t
  have ht : Chip.Ok N t := by
    dsimp only [t]
    repeat'
      first
      | with_reducible assumption | with_reducible apply Chip.setStaged_ok | with_reducible apply Chip.foldl_ok
      | intro _ _ _ _ | intro _ _ _ | dsimp only
  clear_value t
  repeat'
    first
    | with_reducible assumption | with_reducible apply Chip.dropLive_ok

theorem Chip.unfreezeAll_ok {N : Nat} {s : Chip} (hk : s.Ok N) : (s.unfreezeAll).Ok N := by
  unfold Chip.unfreezeAll
  repeat'
    first
    | with_reducible assumption | with_reducible apply Chip.each_ok | with_reducible apply Chip.unfreeze_ok
    | with_reducible apply Chip.each_ok | intro _ _ _ _ | intro _ _ _ | dsimp only

theorem Chip.commitGo_ok {N : Nat} {s : Chip} (hk : s.Ok N) (v : Word) : (s.commitGo v).Ok N := by
  unfold Chip.commitGo
  extract_lets +onlyGivenNames s
  have hs : Chip.Ok N s := by
    dsimp only [s]
    repeat'
      first
      | with_reducible assumption | with_reducible apply Chip.set_ok | dsimp only
  clear_value s
  repeat'
    first
    | with_reducible assumption | with_reducible apply Chip.coState_ok | with_reducible apply Chip.set_ok
    | with_reducible apply Chip.modCommit_ok | with_reducible apply Chip.ite_ok
    | with_reducible apply Chip.foldl_ok | intro _ _ _ _ | intro _ _ _ | dsimp only

theorem Chip.freezeFlit_ok {N : Nat} {s : Chip} (hk : s.Ok N) (d : Nat) : (s.freezeFlit d).Ok N := by
  unfold Chip.freezeFlit
  repeat'
    first
    | with_reducible assumption | with_reducible apply Chip.freeze_ok | with_reducible apply Chip.modCommit_ok
    | with_reducible apply Chip.ite_ok | intro _ _ _ _ | intro _ _ _ | dsimp only

theorem Chip.commitAccept_ok {N : Nat} {s : Chip} (hk : s.Ok N) : (s.commitAccept).Ok N := by
  unfold Chip.commitAccept
  extract_lets +onlyGivenNames s
  have hs : Chip.Ok N s := by
    dsimp only [s]
    repeat'
      first
      | with_reducible assumption | with_reducible apply Chip.modCommit_ok | intro _ _ _ _ | intro _ _ _
      | dsimp only
  clear_value s
  extract_lets +onlyGivenNames plan
  clear_value plan
  extract_lets +onlyGivenNames n
  clear_value n
  extract_lets +onlyGivenNames c20
  clear_value c20
  extract_lets +onlyGivenNames late
  subst late
  extract_lets +onlyGivenNames go
  subst go
  repeat'
    first
    | with_reducible assumption | with_reducible apply Chip.unfreezeAll_ok | with_reducible apply Chip.modCommit_ok
    | with_reducible apply Chip.coState_ok | with_reducible apply Chip.each_ok
    | with_reducible apply Chip.volWait_ok | with_reducible apply Chip.ite_ok | with_reducible apply Chip.each_ok
    | intro _ _ _ _ | intro _ _ _ | split | dsimp only

theorem Chip.freezeAck_ok {N : Nat} {s : Chip} (hk : s.Ok N) (d : Nat) : (s.freezeAck d).Ok N := by
  unfold Chip.freezeAck
  repeat'
    first
    | with_reducible assumption | with_reducible apply Chip.modCommit_ok
    | with_reducible apply Chip.commitAccept_ok | with_reducible apply Chip.ite_ok | intro _ _ _ _ | intro _ _ _
    | dsimp only

theorem Chip.freezeTimeout_ok {N : Nat} {s : Chip} (hk : s.Ok N) (d : Nat) : (s.freezeTimeout d).Ok N := by
  unfold Chip.freezeTimeout
  repeat'
    first
    | with_reducible assumption | with_reducible apply Chip.unfreeze_ok | with_reducible apply Chip.modCommit_ok
    | with_reducible apply Chip.ite_ok | intro _ _ _ _ | intro _ _ _ | dsimp only

theorem Chip.commitLost_ok {N : Nat} {s : Chip} (hk : s.Ok N) : (s.commitLost).Ok N := by
  unfold Chip.commitLost
  repeat'
    first
    | with_reducible assumption | with_reducible apply Chip.unfreezeAll_ok | with_reducible apply Chip.modCommit_ok
    | with_reducible apply Chip.coState_ok | with_reducible apply Chip.ite_ok | intro _ _ _ _ | intro _ _ _
    | dsimp only

theorem Chip.pkgLoad_ok {N : Nat} {s : Chip} (hk : s.Ok N) : (s.pkgLoad).Ok N := by
  unfold Chip.pkgLoad
  repeat'
    first
    | with_reducible assumption | with_reducible apply Chip.each_ok | with_reducible apply Chip.setStaged_ok
    | with_reducible apply Chip.setReg_ok | with_reducible apply Chip.set_ok | with_reducible apply Chip.logF3_ok
    | with_reducible apply Chip.ite_ok | with_reducible apply Chip.each_ok | intro _ _ _ _ | intro _ _ _ | split
    | dsimp only

theorem Chip.pkgEffects_ok {N : Nat} {s : Chip} (hk : s.Ok N)
    (old : Chip) (c : Nat) :
    (s.pkgEffects old c).Ok N := by
  unfold Chip.pkgEffects
  extract_lets +onlyGivenNames s
  have hs : Chip.Ok N s := by
    dsimp only [s]
    repeat'
      first
      | with_reducible assumption | with_reducible apply Chip.schedStart_ok | with_reducible apply Chip.ite_ok
      | dsimp only
  clear_value s
  extract_lets +onlyGivenNames s
  have hs : Chip.Ok N s := by
    dsimp only [s]
    repeat'
      first
      | with_reducible assumption | with_reducible apply Chip.each_ok | with_reducible apply Chip.set_ok
      | with_reducible apply Chip.ite_ok | with_reducible apply Chip.each_ok | intro _ _ _ _ | intro _ _ _
      | dsimp only | with_reducible apply tabPut_wf | with_reducible apply tabClear_wf
      | with_reducible apply tabFilter_wf | with_reducible apply tabMap_wf | with_reducible apply tabWf_nil
      | with_reducible apply emptyLog | with_reducible apply Chip.Ok.count | with_reducible apply Chip.Ok.log
      | with_reducible apply Chip.Ok.regs | with_reducible apply Chip.Ok.shadow
      | with_reducible apply Chip.Ok.staged | with_reducible apply Chip.Ok.lib
      | with_reducible apply Chip.Ok.poison | with_reducible apply Chip.Ok.libLive
      | with_reducible apply Chip.Ok.libStaged | with_reducible apply Chip.Ok.volStage
      | with_reducible apply Chip.Ok.dies | with_reducible apply Chip.Ok.cals | with_reducible apply Chip.Ok.slots
      | with_reducible apply Chip.Ok.ports | with_reducible apply Chip.Ok.vols | with_reducible apply Chip.Ok.rets
      | with_reducible apply Chip.Ok.hosts | with_reducible apply Chip.Ok.of
  clear_value s
  extract_lets +onlyGivenNames s
  have hs : Chip.Ok N s := by
    dsimp only [s]
    repeat'
      first
      | with_reducible assumption | with_reducible apply Chip.each_ok | with_reducible apply Chip.ethDrop_ok
      | with_reducible apply Chip.ite_ok | with_reducible apply Chip.each_ok | intro _ _ _ _ | intro _ _ _
      | dsimp only
  clear_value s
  extract_lets +onlyGivenNames src s
  clear_value src
  have hs : Chip.Ok N s := by
    dsimp only [s]
    repeat'
      first
      | with_reducible assumption | with_reducible apply Chip.ite_ok | dsimp only | with_reducible apply tabPut_wf
      | with_reducible apply tabClear_wf | with_reducible apply tabFilter_wf | with_reducible apply tabMap_wf
      | with_reducible apply tabWf_nil | with_reducible apply emptyLog | with_reducible apply Chip.Ok.count
      | with_reducible apply Chip.Ok.log | with_reducible apply Chip.Ok.regs | with_reducible apply Chip.Ok.shadow
      | with_reducible apply Chip.Ok.staged | with_reducible apply Chip.Ok.lib
      | with_reducible apply Chip.Ok.poison | with_reducible apply Chip.Ok.libLive
      | with_reducible apply Chip.Ok.libStaged | with_reducible apply Chip.Ok.volStage
      | with_reducible apply Chip.Ok.dies | with_reducible apply Chip.Ok.cals | with_reducible apply Chip.Ok.slots
      | with_reducible apply Chip.Ok.ports | with_reducible apply Chip.Ok.vols | with_reducible apply Chip.Ok.rets
      | with_reducible apply Chip.Ok.hosts | with_reducible apply Chip.Ok.of
  clear_value s
  repeat'
    first
    | with_reducible assumption | with_reducible apply Chip.showSched_ok

theorem Chip.chanChecks_ok {N : Nat} {s : Chip} (hk : s.Ok N) (d : Nat) : (s.chanChecks d).Ok N := by
  unfold Chip.chanChecks
  repeat'
    first
    | with_reducible assumption | with_reducible apply Chip.each_ok | with_reducible apply Chip.loopCheck_ok
    | with_reducible apply Chip.planCheck_ok | with_reducible apply Chip.each_ok | intro _ _ _ _ | intro _ _ _
    | dsimp only

theorem Chip.chanLoad_ok {N : Nat} {s : Chip} (hk : s.Ok N) (d j : Nat) : (s.chanLoad d j).Ok N := by
  unfold Chip.chanLoad
  extract_lets +onlyGivenNames sls
  clear_value sls
  extract_lets +onlyGivenNames s
  have hs : Chip.Ok N s := by
    dsimp only [s]
    repeat'
      first
      | with_reducible assumption | with_reducible apply Chip.loadLive_ok | intro _ _ _ _ | intro _ _ _
      | dsimp only
  clear_value s
  repeat'
    first
    | with_reducible assumption | with_reducible apply Chip.each_ok | with_reducible apply Chip.slotLoad_ok
    | with_reducible apply Chip.each_ok | intro _ _ _ _ | intro _ _ _ | dsimp only

theorem Chip.mirrorLoad_ok {N : Nat} {s : Chip} (hk : s.Ok N) (d j : Nat) : (s.mirrorLoad d j).Ok N := by
  unfold Chip.mirrorLoad
  extract_lets +onlyGivenNames s
  have hs : Chip.Ok N s := by
    dsimp only [s]
    repeat'
      first
      | with_reducible assumption | with_reducible apply Chip.chanChecks_ok | with_reducible apply Chip.ite_ok
      | dsimp only
  clear_value s
  repeat'
    first
    | with_reducible assumption | with_reducible apply Chip.each_ok | with_reducible apply Chip.loadStaged_ok
    | with_reducible apply Chip.each_ok | intro _ _ _ _ | intro _ _ _ | dsimp only

theorem Chip.dieLoad_ok {N : Nat} {s : Chip} (hk : s.Ok N) (d : Nat) (off : Int) : (s.dieLoad d off).Ok N := by
  unfold Chip.dieLoad
  extract_lets +onlyGivenNames s
  have hs : Chip.Ok N s := by
    dsimp only [s]
    repeat'
      first
      | with_reducible assumption | with_reducible apply Chip.synLoad_ok | with_reducible apply Chip.ckoLoad_ok
      | with_reducible apply Chip.kickLoad_ok | dsimp only
  clear_value s
  extract_lets +onlyGivenNames s
  have hs : Chip.Ok N s := by
    dsimp only [s]
    repeat'
      first
      | with_reducible assumption | with_reducible apply Chip.each_ok | with_reducible apply Chip.portCheck_ok
      | with_reducible apply Chip.each_ok | intro _ _ _ _ | intro _ _ _ | dsimp only
  clear_value s
  extract_lets +onlyGivenNames s
  have hs : Chip.Ok N s := by
    dsimp only [s]
    repeat'
      first
      | with_reducible assumption | with_reducible apply Chip.each_ok | with_reducible apply Chip.portLoad_ok
      | with_reducible apply Chip.each_ok | intro _ _ _ _ | intro _ _ _ | dsimp only
  clear_value s
  repeat'
    first
    | with_reducible assumption | with_reducible apply Chip.each_ok | with_reducible apply Chip.setStaged_ok
    | with_reducible apply Chip.setReg_ok | with_reducible apply Chip.set_ok | with_reducible apply Chip.logF3_ok
    | with_reducible apply Chip.ite_ok | with_reducible apply Chip.each_ok | intro _ _ _ _ | intro _ _ _
    | dsimp only

theorem Chip.commitRefuse_ok {N : Nat} {s : Chip} (hk : s.Ok N) : (s.commitRefuse).Ok N := by
  unfold Chip.commitRefuse
  repeat'
    first
    | with_reducible assumption | with_reducible apply Chip.unfreezeAll_ok | with_reducible apply Chip.modCommit_ok
    | with_reducible apply Chip.coState_ok | intro _ _ _ _ | intro _ _ _ | dsimp only

theorem Chip.commitLoad_ok {N : Nat} {s : Chip} (hk : s.Ok N) (off : List Int) : (s.commitLoad off).Ok N := by
  unfold Chip.commitLoad
  repeat'
    first
    | with_reducible assumption | with_reducible apply Chip.commitRefuse_ok | with_reducible apply Chip.pkgLoad_ok
    | with_reducible apply Chip.pkgEffects_ok | with_reducible apply Chip.each_ok
    | with_reducible apply Chip.chanChecks_ok | with_reducible apply Chip.dieLoad_ok
    | with_reducible apply Chip.chanLoad_ok | with_reducible apply Chip.mirrorLoad_ok
    | with_reducible apply Chip.modCommit_ok | with_reducible apply Chip.coState_ok
    | with_reducible apply Chip.dropPart_ok | with_reducible apply Chip.set_ok | with_reducible apply Chip.ite_ok
    | with_reducible apply Chip.each_ok | intro _ _ _ _ | intro _ _ _ | split | dsimp only

theorem Chip.commitEnd_ok {N : Nat} {s : Chip} (hk : s.Ok N) : (s.commitEnd).Ok N := by
  unfold Chip.commitEnd
  repeat'
    first
    | with_reducible assumption | with_reducible apply Chip.coState_ok | with_reducible apply Chip.modCommit_ok
    | with_reducible apply Chip.ite_ok | intro _ _ _ _ | intro _ _ _ | split | dsimp only

theorem Chip.commitTick_ok {N : Nat} {s : Chip} (hk : s.Ok N) (off : List Int) : (s.commitTick off).Ok N := by
  unfold Chip.commitTick
  repeat'
    first
    | with_reducible assumption | with_reducible apply Chip.commitEnd_ok | with_reducible apply Chip.commitLoad_ok

end Sys2Proof.Machine
end

