-- ==== Sys2Proof/Laws/Ok/Time.lean ====
section
/-!
SUPPORT. Laws/Ok/Time.lean: every operation of Machine/Time.lean keeps a package in good order.
-/

namespace Sys2Proof.Machine

theorem Chip.modTime_ok {N : Nat} {s : Chip} (hk : s.Ok N) (f : TimeRec → TimeRec) : (s.modTime f).Ok N := by
  unfold Chip.modTime
  repeat'
    first
    | with_reducible assumption | dsimp only | with_reducible apply tabPut_wf | with_reducible apply tabClear_wf
    | with_reducible apply tabFilter_wf | with_reducible apply tabMap_wf | with_reducible apply tabWf_nil
    | with_reducible apply emptyLog | with_reducible apply Chip.Ok.count | with_reducible apply Chip.Ok.log
    | with_reducible apply Chip.Ok.regs | with_reducible apply Chip.Ok.shadow | with_reducible apply Chip.Ok.staged
    | with_reducible apply Chip.Ok.lib | with_reducible apply Chip.Ok.poison | with_reducible apply Chip.Ok.libLive
    | with_reducible apply Chip.Ok.libStaged | with_reducible apply Chip.Ok.volStage
    | with_reducible apply Chip.Ok.dies | with_reducible apply Chip.Ok.cals | with_reducible apply Chip.Ok.slots
    | with_reducible apply Chip.Ok.ports | with_reducible apply Chip.Ok.vols | with_reducible apply Chip.Ok.rets
    | with_reducible apply Chip.Ok.hosts | with_reducible apply Chip.Ok.of

theorem Chip.setEthMode_ok {N : Nat} {s : Chip} (hk : s.Ok N) (j m : Nat) : (s.setEthMode j m).Ok N := by
  unfold Chip.setEthMode
  repeat'
    first
    | with_reducible assumption | with_reducible apply Chip.modTime_ok | intro _ _ _ _ | intro _ _ _ | dsimp only

theorem Chip.ethAttempt_ok {N : Nat} {s : Chip} (hk : s.Ok N) (j : Nat) : (s.ethAttempt j).Ok N := by
  unfold Chip.ethAttempt
  repeat'
    first
    | with_reducible assumption | with_reducible apply Chip.setEthMode_ok | with_reducible apply Chip.ite_ok

theorem Chip.ethLinkUp_ok {N : Nat} {s : Chip} (hk : s.Ok N) (j : Nat) : (s.ethLinkUp j).Ok N := by
  unfold Chip.ethLinkUp
  repeat'
    first
    | with_reducible assumption | with_reducible apply Chip.set_ok | with_reducible apply Chip.raise_ok
    | with_reducible apply Chip.resync_ok | with_reducible apply Chip.ite_ok | dsimp only

theorem Chip.ethLinkDown_ok {N : Nat} {s : Chip} (hk : s.Ok N) (j : Nat) : (s.ethLinkDown j).Ok N := by
  unfold Chip.ethLinkDown
  repeat'
    first
    | with_reducible assumption | with_reducible apply Chip.ethDrop_ok

theorem Chip.ethDiscard_ok {N : Nat} {s : Chip} (hk : s.Ok N) (j : Nat) : (s.ethDiscard j).Ok N := by
  unfold Chip.ethDiscard
  repeat'
    first
    | with_reducible assumption | with_reducible apply Chip.bump_ok | with_reducible apply Chip.raise_ok

theorem Chip.placeClocks_ok {N : Nat} {s : Chip} (hk : s.Ok N) (jump : Bool) : (s.placeClocks jump).Ok N := by
  unfold Chip.placeClocks
  extract_lets +onlyGivenNames l
  clear_value l
  repeat'
    first
    | with_reducible assumption | with_reducible apply Chip.modTime_ok | with_reducible apply Chip.foldl_ok
    | intro _ _ _ _ | intro _ _ _ | dsimp only

theorem Chip.showHoSec_ok {N : Nat} {s : Chip} (hk : s.Ok N) : (s.showHoSec).Ok N := by
  unfold Chip.showHoSec
  repeat'
    first
    | with_reducible assumption | with_reducible apply Chip.set_ok | with_reducible apply Chip.ite_ok

theorem Chip.modDom_ok {N : Nat} {s : Chip} (hk : s.Ok N)
    (x : Nat) (f : DomRec → DomRec) :
    (s.modDom x f).Ok N := by
  unfold Chip.modDom
  repeat'
    first
    | with_reducible assumption | with_reducible apply Chip.modTime_ok | intro _ _ _ _ | intro _ _ _ | dsimp only

theorem Chip.modPtp_ok {N : Nat} {s : Chip} (hk : s.Ok N)
    (x j : Nat) (f : PtpRec → PtpRec) :
    (s.modPtp x j f).Ok N := by
  unfold Chip.modPtp
  repeat'
    first
    | with_reducible assumption | with_reducible apply Chip.modTime_ok | intro _ _ _ _ | intro _ _ _ | dsimp only

theorem Chip.remaster_ok {N : Nat} {s : Chip} (hk : s.Ok N) (x : Nat) : (s.remaster x).Ok N := by
  unfold Chip.remaster
  extract_lets +onlyGivenNames m
  clear_value m
  repeat'
    first
    | with_reducible assumption | with_reducible apply Chip.modDom_ok | with_reducible apply Chip.set_ok
    | with_reducible apply Chip.ite_ok | intro _ _ _ _ | intro _ _ _ | split | dsimp only

theorem Chip.reselect_ok {N : Nat} {s : Chip} (hk : s.Ok N) (x j : Nat) : (s.reselect x j).Ok N := by
  unfold Chip.reselect
  extract_lets +onlyGivenNames m
  clear_value m
  extract_lets +onlyGivenNames t
  have ht : Chip.Ok N t := by
    dsimp only [t]
    repeat'
      first
      | with_reducible assumption | with_reducible apply Chip.modPtp_ok | with_reducible apply Chip.ite_ok
      | intro _ _ _ _ | intro _ _ _ | dsimp only
  clear_value t
  repeat'
    first
    | with_reducible assumption | with_reducible apply Chip.remaster_ok

theorem Chip.ptpAuthFail_ok {N : Nat} {s : Chip} (hk : s.Ok N) (j : Nat) : (s.ptpAuthFail j).Ok N := by
  unfold Chip.ptpAuthFail
  repeat'
    first
    | with_reducible assumption | with_reducible apply Chip.bump_ok | with_reducible apply Chip.raise_ok

theorem Chip.ptpTake_ok {N : Nat} {s : Chip} (hk : s.Ok N)
    (h : PtpHdr) (lim : Bool) (f : Nat → Chip → Chip)
    (hf : ∀ x t, Chip.Ok N t → (f x t).Ok N) :
    (s.ptpTake h lim f).Ok N := by
  unfold Chip.ptpTake
  repeat'
    first
    | with_reducible assumption | with_reducible apply Chip.ethDiscard_ok
    | with_reducible apply Chip.ptpAuthFail_ok | with_reducible apply Chip.bump_ok
    | with_reducible apply Chip.each_ok | with_reducible apply Chip.reselect_ok | with_reducible apply hf
    | with_reducible apply Chip.ite_ok | with_reducible apply Chip.each_ok | intro _ _ _ _ | intro _ _ _
    | dsimp only

theorem Chip.announce_ok {N : Nat} {s : Chip} (hk : s.Ok N)
    (h : PtpHdr) (d : PtpDataset) (x : Nat) :
    (s.announce h d x).Ok N := by
  unfold Chip.announce
  extract_lets +onlyGivenNames src
  clear_value src
  extract_lets +onlyGivenNames ds
  clear_value ds
  extract_lets +onlyGivenNames t
  have ht : Chip.Ok N t := by
    dsimp only [t]
    repeat'
      first
      | with_reducible assumption | with_reducible apply Chip.modPtp_ok | with_reducible apply Chip.ite_ok
      | intro _ _ _ _ | intro _ _ _ | dsimp only
  clear_value t
  extract_lets +onlyGivenNames t
  have ht : Chip.Ok N t := by
    dsimp only [t]
    repeat'
      first
      | with_reducible assumption | with_reducible apply Chip.set_ok | with_reducible apply Chip.modDom_ok
      | with_reducible apply Chip.ite_ok | intro _ _ _ _ | intro _ _ _ | dsimp only
  clear_value t
  repeat'
    first
    | with_reducible assumption | with_reducible apply Chip.reselect_ok

theorem Chip.makeActive_ok {N : Nat} {s : Chip} (hk : s.Ok N) (x : Nat) : (s.makeActive x).Ok N := by
  unfold Chip.makeActive
  repeat'
    first
    | with_reducible assumption | with_reducible apply Chip.set_ok | with_reducible apply Chip.raise_ok
    | with_reducible apply Chip.ite_ok

theorem Chip.activeLost_ok {N : Nat} {s : Chip} (hk : s.Ok N) : (s.activeLost).Ok N := by
  unfold Chip.activeLost
  extract_lets +onlyGivenNames o
  clear_value o
  repeat'
    first
    | with_reducible assumption | with_reducible apply Chip.makeActive_ok | with_reducible apply Chip.set_ok
    | with_reducible apply Chip.modTime_ok | with_reducible apply Chip.raise_ok | with_reducible apply Chip.ite_ok
    | intro _ _ _ _ | intro _ _ _ | dsimp only

theorem Chip.domBad_ok {N : Nat} {s : Chip} (hk : s.Ok N) (x st : Nat) : (s.domBad x st).Ok N := by
  unfold Chip.domBad
  extract_lets +onlyGivenNames t
  have ht : Chip.Ok N t := by
    dsimp only [t]
    repeat'
      first
      | with_reducible assumption | with_reducible apply Chip.set_ok | with_reducible apply Chip.modDom_ok
      | intro _ _ _ _ | intro _ _ _ | dsimp only
  clear_value t
  extract_lets +onlyGivenNames t
  have ht : Chip.Ok N t := by
    dsimp only [t]
    repeat'
      first
      | with_reducible assumption | with_reducible apply Chip.bump_ok | with_reducible apply Chip.raiseF3_ok
      | with_reducible apply Chip.ite_ok | dsimp only
  clear_value t
  repeat'
    first
    | with_reducible assumption | with_reducible apply Chip.activeLost_ok | with_reducible apply Chip.ite_ok

theorem Chip.prefTry_ok {N : Nat} {s : Chip} (hk : s.Ok N) : (s.prefTry).Ok N := by
  unfold Chip.prefTry
  extract_lets +onlyGivenNames x
  clear_value x
  repeat'
    first
    | with_reducible assumption | with_reducible apply Chip.makeActive_ok | with_reducible apply Chip.modTime_ok
    | with_reducible apply Chip.ite_ok | intro _ _ _ _ | intro _ _ _ | dsimp only

theorem Chip.holdoverExit_ok {N : Nat} {s : Chip} (hk : s.Ok N) (x : Nat) : (s.holdoverExit x).Ok N := by
  unfold Chip.holdoverExit
  repeat'
    first
    | with_reducible assumption | with_reducible apply Chip.set_ok | with_reducible apply Chip.raise_ok
    | with_reducible apply Chip.makeActive_ok | with_reducible apply Chip.ite_ok

theorem Chip.servo_ok {N : Nat} {s : Chip} (hk : s.Ok N)
    (x : Nat) (th : Int) (ns : Nat) :
    (s.servo x th ns).Ok N := by
  unfold Chip.servo
  repeat'
    first
    | with_reducible assumption | with_reducible apply Chip.modDom_ok | with_reducible apply Chip.modTime_ok
    | with_reducible apply Chip.setB_ok | with_reducible apply Chip.took_ok | with_reducible apply Chip.ite_ok
    | intro _ _ _ _ | intro _ _ _ | dsimp only

theorem Chip.chooseStep_ok {N : Nat} {s : Chip} (hk : s.Ok N)
    (x : Nat) (restep : Bool) :
    (s.chooseStep x restep).Ok N := by
  unfold Chip.chooseStep
  extract_lets +onlyGivenNames ns
  clear_value ns
  extract_lets +onlyGivenNames th
  clear_value th
  repeat'
    first
    | with_reducible assumption | with_reducible apply Chip.raise_ok | with_reducible apply Chip.set_ok
    | with_reducible apply Chip.modTime_ok | with_reducible apply Chip.ite_ok | intro _ _ _ _ | intro _ _ _
    | dsimp only

theorem Chip.tryFirst_ok {N : Nat} {s : Chip} (hk : s.Ok N) : (s.tryFirst).Ok N := by
  unfold Chip.tryFirst
  extract_lets +onlyGivenNames x
  clear_value x
  repeat'
    first
    | with_reducible assumption | with_reducible apply Chip.chooseStep_ok | with_reducible apply Chip.ite_ok

theorem Chip.domUpdate_ok {N : Nat} {s : Chip} (hk : s.Ok N)
    (x : Nat) (th mpd : Int) :
    (s.domUpdate x th mpd).Ok N := by
  unfold Chip.domUpdate
  extract_lets +onlyGivenNames r
  clear_value r
  extract_lets +onlyGivenNames ns
  clear_value ns
  extract_lets +onlyGivenNames jump
  clear_value jump
  extract_lets +onlyGivenNames small
  clear_value small
  extract_lets +onlyGivenNames near
  clear_value near
  extract_lets +onlyGivenNames st
  clear_value st
  extract_lets +onlyGivenNames ok
  clear_value ok
  extract_lets +onlyGivenNames first
  clear_value first
  extract_lets +onlyGivenNames run
  clear_value run
  extract_lets +onlyGivenNames s
  have hs : Chip.Ok N s := by
    dsimp only [s]
    repeat'
      first
      | with_reducible assumption | with_reducible apply Chip.modDom_ok | intro _ _ _ _ | intro _ _ _ | dsimp only
  clear_value s
  extract_lets +onlyGivenNames s
  have hs : Chip.Ok N s := by
    dsimp only [s]
    repeat'
      first
      | with_reducible assumption | with_reducible apply Chip.set_ok | with_reducible apply Chip.domBad_ok
      | with_reducible apply Chip.ite_ok | dsimp only
  clear_value s
  extract_lets +onlyGivenNames s
  have hs : Chip.Ok N s := by
    dsimp only [s]
    repeat'
      first
      | with_reducible assumption | with_reducible apply Chip.holdoverExit_ok
      | with_reducible apply Chip.prefTry_ok | dsimp only
  clear_value s
  extract_lets +onlyGivenNames s
  have hs : Chip.Ok N s := by
    dsimp only [s]
    repeat'
      first
      | with_reducible assumption | with_reducible apply Chip.servo_ok | dsimp only
  clear_value s
  extract_lets +onlyGivenNames s
  have hs : Chip.Ok N s := by
    dsimp only [s]
    repeat'
      first
      | with_reducible assumption | with_reducible apply Chip.setI_ok | dsimp only
  clear_value s
  extract_lets +onlyGivenNames s
  have hs : Chip.Ok N s := by
    dsimp only [s]
    repeat'
      first
      | with_reducible assumption | with_reducible apply Chip.set_ok | dsimp only
  clear_value s
  extract_lets +onlyGivenNames s
  have hs : Chip.Ok N s := by
    dsimp only [s]
    repeat'
      first
      | with_reducible assumption | with_reducible apply Chip.setI_ok | dsimp only
  clear_value s
  extract_lets +onlyGivenNames s
  have hs : Chip.Ok N s := by
    dsimp only [s]
    repeat'
      first
      | with_reducible assumption | with_reducible apply Chip.set_ok | split | dsimp only
  clear_value s
  repeat'
    first
    | with_reducible assumption | with_reducible apply Chip.bump_ok | with_reducible apply Chip.tryFirst_ok

theorem Chip.exchange_ok {N : Nat} {s : Chip} (hk : s.Ok N)
    (x : Nat) (th mpd : Int) :
    (s.exchange x th mpd).Ok N := by
  unfold Chip.exchange
  extract_lets +onlyGivenNames g
  clear_value g
  repeat'
    first
    | with_reducible assumption | with_reducible apply Chip.domUpdate_ok | with_reducible apply Chip.modDom_ok
    | with_reducible apply Chip.ite_ok | with_reducible apply Chip.foldl_ok | intro _ _ _ _ | intro _ _ _
    | dsimp only

theorem Chip.sync_ok {N : Nat} {s : Chip} (hk : s.Ok N)
    (h : PtpHdr) (twoStep : Bool) (origin raw : Int) (x : Nat) :
    (s.sync h twoStep origin raw x).Ok N := by
  unfold Chip.sync
  extract_lets +onlyGivenNames j
  clear_value j
  repeat'
    first
    | with_reducible assumption | with_reducible apply Chip.modPtp_ok | with_reducible apply Chip.set_ok
    | with_reducible apply Chip.setB_ok | with_reducible apply Chip.raise_ok | with_reducible apply Chip.domBad_ok
    | with_reducible apply Chip.ite_ok | intro _ _ _ _ | intro _ _ _ | split | dsimp only

theorem Chip.followUp_ok {N : Nat} {s : Chip} (hk : s.Ok N)
    (h : PtpHdr) (origin : Int) (x : Nat) :
    (s.followUp h origin x).Ok N := by
  unfold Chip.followUp
  repeat'
    first
    | with_reducible assumption | with_reducible apply Chip.modPtp_ok | with_reducible apply Chip.ite_ok
    | intro _ _ _ _ | intro _ _ _ | dsimp only

theorem Chip.delayResp_ok {N : Nat} {s : Chip} (hk : s.Ok N)
    (h : PtpHdr) (req : Nat) (t4 : Int) (x : Nat) :
    (s.delayResp h req t4 x).Ok N := by
  unfold Chip.delayResp
  extract_lets +onlyGivenNames j
  clear_value j
  extract_lets +onlyGivenNames r
  clear_value r
  repeat'
    first
    | with_reducible assumption | with_reducible apply Chip.modPtp_ok | with_reducible apply Chip.exchange_ok
    | with_reducible apply Chip.ite_ok | intro _ _ _ _ | intro _ _ _ | split | dsimp only

theorem Chip.domLostTry_ok {N : Nat} {s : Chip} (hk : s.Ok N) (x : Nat) : (s.domLostTry x).Ok N := by
  unfold Chip.domLostTry
  extract_lets +onlyGivenNames gone
  clear_value gone
  repeat'
    first
    | with_reducible assumption | with_reducible apply Chip.domBad_ok | with_reducible apply Chip.ite_ok

theorem Chip.timeWord_ok {N : Nat} {s : Chip} (hk : s.Ok N) (d : Nat) (skew : Int) : (s.timeWord d skew).Ok N := by
  unfold Chip.timeWord
  extract_lets +onlyGivenNames t
  have ht : Chip.Ok N t := by
    dsimp only [t]
    repeat'
      first
      | with_reducible assumption | with_reducible apply Chip.raiseF3_ok | with_reducible apply Chip.ite_ok
      | dsimp only
  clear_value t
  repeat'
    first
    | with_reducible assumption | with_reducible apply Chip.modTime_ok | intro _ _ _ _ | intro _ _ _ | dsimp only

theorem Chip.dTick_ok {N : Nat} {s : Chip} (hk : s.Ok N) : (s.dTick).Ok N := by
  unfold Chip.dTick
  extract_lets +onlyGivenNames due
  clear_value due
  extract_lets +onlyGivenNames s
  have hs : Chip.Ok N s := by
    dsimp only [s]
    repeat'
      first
      | with_reducible assumption | with_reducible apply Chip.modTime_ok | intro _ _ _ _ | intro _ _ _ | dsimp only
  clear_value s
  repeat'
    first
    | with_reducible assumption | with_reducible apply Chip.each_ok | with_reducible apply Chip.loadD_ok
    | with_reducible apply Chip.each_ok | intro _ _ _ _ | intro _ _ _ | dsimp only

theorem Chip.setLst_ok {N : Nat} {s : Chip} (hk : s.Ok N) (j st : Nat) : (s.setLst j st).Ok N := by
  unfold Chip.setLst
  repeat'
    first
    | with_reducible assumption | with_reducible apply Chip.set_ok

theorem Chip.lCause_ok {N : Nat} {s : Chip} (hk : s.Ok N) (j c : Nat) : (s.lCause j c).Ok N := by
  unfold Chip.lCause
  repeat'
    first
    | with_reducible assumption | with_reducible apply Chip.set_ok

theorem Chip.lFinal_ok {N : Nat} {s : Chip} (hk : s.Ok N) (j st c : Nat) : (s.lFinal j st c).Ok N := by
  unfold Chip.lFinal
  extract_lets +onlyGivenNames late
  clear_value late
  extract_lets +onlyGivenNames t
  have ht : Chip.Ok N t := by
    dsimp only [t]
    repeat'
      first
      | with_reducible assumption | with_reducible apply Chip.setLst_ok | with_reducible apply Chip.lCause_ok
      | with_reducible apply Chip.modTime_ok | intro _ _ _ _ | intro _ _ _ | dsimp only
  clear_value t
  repeat'
    first
    | with_reducible assumption | with_reducible apply Chip.setB_ok

theorem Chip.lDrop_ok {N : Nat} {s : Chip} (hk : s.Ok N) (j c : Nat) : (s.lDrop j c).Ok N := by
  unfold Chip.lDrop
  repeat'
    first
    | with_reducible assumption | with_reducible apply Chip.lFinal_ok | with_reducible apply Chip.bump_ok
    | with_reducible apply Chip.raise_ok

theorem Chip.lLate_ok {N : Nat} {s : Chip} (hk : s.Ok N) (j : Nat) : (s.lLate j).Ok N := by
  unfold Chip.lLate
  repeat'
    first
    | with_reducible assumption | with_reducible apply Chip.setLst_ok | with_reducible apply Chip.modTime_ok
    | with_reducible apply Chip.lDrop_ok | with_reducible apply Chip.ite_ok | intro _ _ _ _ | intro _ _ _
    | dsimp only

theorem Chip.lArm_ok {N : Nat} {s : Chip} (hk : s.Ok N) (j : Nat) : (s.lArm j).Ok N := by
  unfold Chip.lArm
  extract_lets +onlyGivenNames n
  clear_value n
  repeat'
    first
    | with_reducible assumption | with_reducible apply Chip.lCause_ok | with_reducible apply Chip.lLate_ok
    | with_reducible apply Chip.setLst_ok | with_reducible apply Chip.ite_ok | dsimp only

theorem Chip.launchCtrl_ok {N : Nat} {s : Chip} (hk : s.Ok N) (j : Nat) (v : Word) : (s.launchCtrl j v).Ok N := by
  unfold Chip.launchCtrl
  extract_lets +onlyGivenNames x
  clear_value x
  extract_lets +onlyGivenNames st
  clear_value st
  repeat'
    first
    | with_reducible assumption | with_reducible apply Chip.lCause_ok | with_reducible apply Chip.setLst_ok
    | with_reducible apply Chip.set_ok | with_reducible apply Chip.lArm_ok | with_reducible apply Chip.lFinal_ok
    | with_reducible apply Chip.modTime_ok | with_reducible apply Chip.ite_ok | intro _ _ _ _ | intro _ _ _
    | dsimp only

theorem Chip.launchWrite_ok {N : Nat} {s : Chip} (hk : s.Ok N)
    (j a : Nat) (v : Word) :
    (s.launchWrite j a v).Ok N := by
  unfold Chip.launchWrite
  extract_lets +onlyGivenNames m
  clear_value m
  repeat'
    first
    | with_reducible assumption | with_reducible apply Chip.setReg_ok | with_reducible apply Chip.lCause_ok
    | with_reducible apply Chip.ite_ok

theorem Chip.sendFrame_ok {N : Nat} {s : Chip} (hk : s.Ok N)
    (p : Nat) (bs : List Nat) :
    (s.sendFrame p bs).Ok N := by
  unfold Chip.sendFrame
  repeat'
    first
    | with_reducible assumption | with_reducible apply Chip.modTime_ok | intro _ _ _ _ | intro _ _ _ | dsimp only

theorem Chip.launch_ok {N : Nat} {s : Chip} (hk : s.Ok N) (j : Nat) (raw : Int) : (s.launch j raw).Ok N := by
  unfold Chip.launch
  extract_lets +onlyGivenNames late
  clear_value late
  repeat'
    first
    | with_reducible assumption | with_reducible apply Chip.lDrop_ok | with_reducible apply Chip.sendFrame_ok
    | with_reducible apply Chip.lFinal_ok | with_reducible apply Chip.raise_ok | with_reducible apply Chip.set_ok
    | with_reducible apply Chip.ite_ok | dsimp only

theorem Chip.launchPassed_ok {N : Nat} {s : Chip} (hk : s.Ok N) (ns : Nat) : (s.launchPassed ns).Ok N := by
  unfold Chip.launchPassed
  repeat'
    first
    | with_reducible assumption | with_reducible apply Chip.each_ok | with_reducible apply Chip.lLate_ok
    | with_reducible apply Chip.ite_ok | with_reducible apply Chip.each_ok | intro _ _ _ _ | intro _ _ _
    | dsimp only

theorem Chip.delayReq_ok {N : Nat} {s : Chip} (hk : s.Ok N)
    (x j : Nat) (raw : Int) :
    (s.delayReq x j raw).Ok N := by
  unfold Chip.delayReq
  repeat'
    first
    | with_reducible assumption | with_reducible apply Chip.modPtp_ok | with_reducible apply Chip.sendFrame_ok
    | with_reducible apply Chip.bump_ok | with_reducible apply Chip.ite_ok | intro _ _ _ _ | intro _ _ _
    | dsimp only

theorem Chip.telSend_ok {N : Nat} {s : Chip} (hk : s.Ok N)
    (p ns : Nat) (delayed : Bool) :
    (s.telSend p ns delayed).Ok N := by
  unfold Chip.telSend
  extract_lets +onlyGivenNames start
  clear_value start
  extract_lets +onlyGivenNames t
  have ht : Chip.Ok N t := by
    dsimp only [t]
    repeat'
      first
      | with_reducible assumption | with_reducible apply Chip.sendFrame_ok | with_reducible apply Chip.took_ok
      | with_reducible apply Chip.set_ok | dsimp only
  clear_value t
  extract_lets +onlyGivenNames t
  have ht : Chip.Ok N t := by
    dsimp only [t]
    repeat'
      first
      | with_reducible assumption | with_reducible apply Chip.bump_ok | with_reducible apply Chip.ite_ok
      | dsimp only
  clear_value t
  repeat'
    first
    | with_reducible assumption | with_reducible apply Chip.modTime_ok | intro _ _ _ _ | intro _ _ _ | dsimp only

theorem Chip.telFollow_ok {N : Nat} {s : Chip} (hk : s.Ok N) (p : Nat) : (s.telFollow p).Ok N := by
  unfold Chip.telFollow
  repeat'
    first
    | with_reducible assumption | with_reducible apply Chip.telSend_ok | with_reducible apply Chip.modTime_ok
    | with_reducible apply Chip.ite_ok | intro _ _ _ _ | intro _ _ _ | split | dsimp only

theorem Chip.telemetry_ok {N : Nat} {s : Chip} (hk : s.Ok N) : (s.telemetry).Ok N := by
  unfold Chip.telemetry
  repeat'
    first
    | with_reducible assumption | with_reducible apply Chip.each_ok | with_reducible apply Chip.modTime_ok
    | with_reducible apply Chip.telSend_ok | with_reducible apply Chip.ite_ok | with_reducible apply Chip.each_ok
    | intro _ _ _ _ | intro _ _ _ | dsimp only

theorem Chip.pinsLow_ok {N : Nat} {s : Chip} (hk : s.Ok N) : (s.pinsLow).Ok N := by
  unfold Chip.pinsLow
  repeat'
    first
    | with_reducible assumption | with_reducible apply Chip.modTime_ok | intro _ _ _ _ | intro _ _ _ | dsimp only

theorem Chip.tickPin_ok {N : Nat} {s : Chip} (hk : s.Ok N) : (s.tickPin).Ok N := by
  unfold Chip.tickPin
  extract_lets +onlyGivenNames v
  clear_value v
  extract_lets +onlyGivenNames div
  clear_value div
  extract_lets +onlyGivenNames k
  clear_value k
  extract_lets +onlyGivenNames hi
  clear_value hi
  repeat'
    first
    | with_reducible assumption | with_reducible apply Chip.modTime_ok | intro _ _ _ _ | intro _ _ _ | dsimp only

theorem Chip.ppsFall_ok {N : Nat} {s : Chip} (hk : s.Ok N) : (s.ppsFall).Ok N := by
  unfold Chip.ppsFall
  repeat'
    first
    | with_reducible assumption | with_reducible apply Chip.modTime_ok | with_reducible apply Chip.ite_ok
    | intro _ _ _ _ | intro _ _ _ | split | dsimp only

theorem Chip.pps_ok {N : Nat} {s : Chip} (hk : s.Ok N) : (s.pps).Ok N := by
  unfold Chip.pps
  repeat'
    first
    | with_reducible assumption | with_reducible apply Chip.modTime_ok | with_reducible apply Chip.ite_ok
    | intro _ _ _ _ | intro _ _ _ | dsimp only

end Sys2Proof.Machine
end

