-- ==== Sys2Proof/Laws/Ok/Security.lean ====
section
/-!
SUPPORT. Laws/Ok/Security.lean: every operation of Machine/Security.lean keeps a package in good order.
-/

namespace Sys2Proof.Machine

theorem Chip.setFuses_ok {N : Nat} {s : Chip} (hk : s.Ok N) (d : Nat) (f : Fuses) : (s.setFuses d f).Ok N := by
  unfold Chip.setFuses
  repeat'
    first
    | with_reducible assumption | with_reducible apply Chip.modSec_ok | intro _ _ _ _ | intro _ _ _ | dsimp only

theorem Chip.showFuses_ok {N : Nat} {s : Chip} (hk : s.Ok N) : (s.showFuses).Ok N := by
  unfold Chip.showFuses
  extract_lets +onlyGivenNames f
  clear_value f
  extract_lets +onlyGivenNames s
  have hs : Chip.Ok N s := by
    dsimp only [s]
    repeat'
      first
      | with_reducible assumption | with_reducible apply Chip.set_ok | dsimp only
  clear_value s
  extract_lets +onlyGivenNames s
  have hs : Chip.Ok N s := by
    dsimp only [s]
    repeat'
      first
      | with_reducible assumption | with_reducible apply Chip.setB_ok | dsimp only
  clear_value s
  extract_lets +onlyGivenNames s
  have hs : Chip.Ok N s := by
    dsimp only [s]
    repeat'
      first
      | with_reducible assumption | with_reducible apply Chip.set_ok | intro _ _ _ _ | intro _ _ _ | dsimp only
  clear_value s
  extract_lets +onlyGivenNames s
  have hs : Chip.Ok N s := by
    dsimp only [s]
    repeat'
      first
      | with_reducible assumption | with_reducible apply Chip.set_ok | dsimp only
  clear_value s
  extract_lets +onlyGivenNames s
  have hs : Chip.Ok N s := by
    dsimp only [s]
    repeat'
      first
      | with_reducible assumption | with_reducible apply Chip.set_ok | dsimp only
  clear_value s
  extract_lets +onlyGivenNames s
  have hs : Chip.Ok N s := by
    dsimp only [s]
    repeat'
      first
      | with_reducible assumption | with_reducible apply Chip.set_ok | with_reducible apply Chip.setB_ok
      | dsimp only
  clear_value s
  extract_lets +onlyGivenNames s
  have hs : Chip.Ok N s := by
    dsimp only [s]
    repeat'
      first
      | with_reducible assumption | with_reducible apply Chip.setB_ok | with_reducible apply Chip.set_ok
      | dsimp only
  clear_value s
  extract_lets +onlyGivenNames s
  have hs : Chip.Ok N s := by
    dsimp only [s]
    repeat'
      first
      | with_reducible assumption | with_reducible apply Chip.set_ok | dsimp only
  clear_value s
  extract_lets +onlyGivenNames s
  have hs : Chip.Ok N s := by
    dsimp only [s]
    repeat'
      first
      | with_reducible assumption | with_reducible apply Chip.setB_ok | dsimp only
  clear_value s
  repeat'
    first
    | with_reducible assumption | with_reducible apply Chip.set_ok

theorem Chip.rwlRefuse_ok {N : Nat} {s : Chip} (hk : s.Ok N)
    (cause : Nat) (detail : List Nat) :
    (s.rwlRefuse cause detail).Ok N := by
  unfold Chip.rwlRefuse
  extract_lets +onlyGivenNames t
  have ht : Chip.Ok N t := by
    dsimp only [t]
    repeat'
      first
      | with_reducible assumption | with_reducible apply Chip.set_ok | with_reducible apply Chip.raise_ok
      | dsimp only
  clear_value t
  repeat'
    first
    | with_reducible assumption | with_reducible apply Chip.auditAdd_ok | with_reducible apply Chip.ite_ok

theorem Chip.rwlBurn_ok {N : Nat} {s : Chip} (hk : s.Ok N)
    (need : Bool) (kind arg : Nat) (detail : List Nat) :
    (s.rwlBurn need kind arg detail).Ok N := by
  unfold Chip.rwlBurn
  repeat'
    first
    | with_reducible assumption | with_reducible apply Chip.rwlRefuse_ok | with_reducible apply Chip.auditAdd_ok
    | with_reducible apply Chip.set_ok | with_reducible apply Chip.modSec_ok | with_reducible apply Chip.ite_ok
    | intro _ _ _ _ | intro _ _ _ | dsimp only

theorem Chip.ownerCtrl_ok {N : Nat} {s : Chip} (hk : s.Ok N) (v : Word) : (s.ownerCtrl v).Ok N := by
  unfold Chip.ownerCtrl
  extract_lets +onlyGivenNames k
  clear_value k
  extract_lets +onlyGivenNames f
  clear_value f
  extract_lets +onlyGivenNames left
  clear_value left
  extract_lets +onlyGivenNames det
  clear_value det
  repeat'
    first
    | with_reducible assumption | with_reducible apply Chip.rwlRefuse_ok | with_reducible apply Chip.rwlBurn_ok
    | with_reducible apply Chip.ite_ok | intro _ _ _ _ | intro _ _ _ | split | dsimp only

theorem Chip.lifecycleWrite_ok {N : Nat} {s : Chip} (hk : s.Ok N) (v : Word) : (s.lifecycleWrite v).Ok N := by
  unfold Chip.lifecycleWrite
  extract_lets +onlyGivenNames f
  clear_value f
  extract_lets +onlyGivenNames x
  clear_value x
  extract_lets +onlyGivenNames det
  clear_value det
  repeat'
    first
    | with_reducible assumption | with_reducible apply Chip.rwlRefuse_ok | with_reducible apply Chip.rwlBurn_ok
    | with_reducible apply Chip.ite_ok

theorem Chip.rollbackWrite_ok {N : Nat} {s : Chip} (hk : s.Ok N) (v : Word) : (s.rollbackWrite v).Ok N := by
  unfold Chip.rollbackWrite
  extract_lets +onlyGivenNames f
  clear_value f
  repeat'
    first
    | with_reducible assumption | with_reducible apply Chip.rwlRefuse_ok | with_reducible apply Chip.rwlBurn_ok
    | with_reducible apply Chip.ite_ok

theorem Chip.disableWrite_ok {N : Nat} {s : Chip} (hk : s.Ok N) (v : Word) : (s.disableWrite v).Ok N := by
  unfold Chip.disableWrite
  extract_lets +onlyGivenNames f
  clear_value f
  extract_lets +onlyGivenNames x
  clear_value x
  extract_lets +onlyGivenNames all
  clear_value all
  extract_lets +onlyGivenNames det
  clear_value det
  repeat'
    first
    | with_reducible assumption | with_reducible apply Chip.rwlRefuse_ok | with_reducible apply Chip.rwlBurn_ok
    | with_reducible apply Chip.ite_ok

theorem Chip.hp1Write_ok {N : Nat} {s : Chip} (hk : s.Ok N) (v : Word) : (s.hp1Write v).Ok N := by
  unfold Chip.hp1Write
  extract_lets +onlyGivenNames det
  clear_value det
  repeat'
    first
    | with_reducible assumption | with_reducible apply Chip.rwlRefuse_ok | with_reducible apply Chip.rwlBurn_ok
    | with_reducible apply Chip.ite_ok

theorem Chip.debugWrite_ok {N : Nat} {s : Chip} (hk : s.Ok N) (v : Word) : (s.debugWrite v).Ok N := by
  unfold Chip.debugWrite
  extract_lets +onlyGivenNames det
  clear_value det
  repeat'
    first
    | with_reducible assumption | with_reducible apply Chip.rwlRefuse_ok | with_reducible apply Chip.rwlBurn_ok
    | with_reducible apply Chip.set_ok | with_reducible apply Chip.ite_ok | dsimp only

theorem Chip.restepWrite_ok {N : Nat} {s : Chip} (hk : s.Ok N) (v : Word) : (s.restepWrite v).Ok N := by
  unfold Chip.restepWrite
  extract_lets +onlyGivenNames x
  clear_value x
  extract_lets +onlyGivenNames f
  clear_value f
  extract_lets +onlyGivenNames ahead
  clear_value ahead
  repeat'
    first
    | with_reducible assumption | with_reducible apply Chip.raise_ok | with_reducible apply Chip.rwlRefuse_ok
    | with_reducible apply Chip.rwlBurn_ok | with_reducible apply Chip.set_ok
    | with_reducible apply Chip.makeActive_ok | with_reducible apply Chip.chooseStep_ok
    | with_reducible apply Chip.ite_ok | dsimp only

theorem Chip.rejectDie_ok {N : Nat} {s : Chip} (hk : s.Ok N) (d : Nat) : (s.rejectDie d).Ok N := by
  unfold Chip.rejectDie
  extract_lets +onlyGivenNames was
  clear_value was
  extract_lets +onlyGivenNames t
  have ht : Chip.Ok N t := by
    dsimp only [t]
    repeat'
      first
      | with_reducible assumption | with_reducible apply Chip.setService_ok | with_reducible apply Chip.set_ok
      | dsimp only
  clear_value t
  repeat'
    first
    | with_reducible assumption | with_reducible apply Chip.modDie_ok | with_reducible apply Chip.ite_ok
    | intro _ _ _ _ | intro _ _ _ | dsimp only

theorem Chip.fuseFault_ok {N : Nat} {s : Chip} (hk : s.Ok N) (d : Nat) : (s.fuseFault d).Ok N := by
  unfold Chip.fuseFault
  repeat'
    first
    | with_reducible assumption | with_reducible apply Chip.auditFrom_ok | with_reducible apply Chip.secF0_ok
    | with_reducible apply Chip.rejectDie_ok

theorem Chip.burnDone_ok {N : Nat} {s : Chip} (hk : s.Ok N) (bad : Nat) : (s.burnDone bad).Ok N := by
  unfold Chip.burnDone
  repeat'
    first
    | with_reducible assumption | with_reducible apply Chip.each_ok | with_reducible apply Chip.fuseFault_ok
    | with_reducible apply Chip.setFuses_ok | with_reducible apply Chip.modSec_ok
    | with_reducible apply Chip.set_ok | with_reducible apply Chip.auditAdd_ok
    | with_reducible apply Chip.showFuses_ok | with_reducible apply Chip.sessEnd_ok
    | with_reducible apply Chip.ite_ok | with_reducible apply Chip.each_ok | intro _ _ _ _ | intro _ _ _ | split
    | dsimp only

theorem Chip.showKeys_ok {N : Nat} {s : Chip} (hk : s.Ok N) : (s.showKeys).Ok N := by
  unfold Chip.showKeys
  repeat'
    first
    | with_reducible assumption | with_reducible apply Chip.set_ok | with_reducible apply Chip.setB_ok
    | with_reducible apply Chip.ite_ok | with_reducible apply Chip.foldl_ok | intro _ _ _ _ | intro _ _ _
    | dsimp only

theorem Chip.retire_ok {N : Nat} {s : Chip} (hk : s.Ok N) : (s.retire).Ok N := by
  unfold Chip.retire
  repeat'
    first
    | with_reducible assumption | with_reducible apply Chip.set_ok | with_reducible apply Chip.modSec_ok
    | with_reducible apply Chip.showKeys_ok | with_reducible apply Chip.auditAdd_ok
    | with_reducible apply Chip.ite_ok | intro _ _ _ _ | intro _ _ _ | dsimp only | with_reducible apply tabPut_wf
    | with_reducible apply tabClear_wf | with_reducible apply tabFilter_wf | with_reducible apply tabMap_wf
    | with_reducible apply tabWf_nil | with_reducible apply emptyLog | with_reducible apply Chip.Ok.count
    | with_reducible apply Chip.Ok.log | with_reducible apply Chip.Ok.regs | with_reducible apply Chip.Ok.shadow
    | with_reducible apply Chip.Ok.staged | with_reducible apply Chip.Ok.lib | with_reducible apply Chip.Ok.poison
    | with_reducible apply Chip.Ok.libLive | with_reducible apply Chip.Ok.libStaged
    | with_reducible apply Chip.Ok.volStage | with_reducible apply Chip.Ok.dies | with_reducible apply Chip.Ok.cals
    | with_reducible apply Chip.Ok.slots | with_reducible apply Chip.Ok.ports | with_reducible apply Chip.Ok.vols
    | with_reducible apply Chip.Ok.rets | with_reducible apply Chip.Ok.hosts | with_reducible apply Chip.Ok.of

theorem Chip.fuseLevel_ok {N : Nat} {s : Chip} (hk : s.Ok N) (bad fail : Nat) : (s.fuseLevel bad fail).Ok N := by
  unfold Chip.fuseLevel
  extract_lets +onlyGivenNames s
  have hs : Chip.Ok N s := by
    dsimp only [s]
    repeat'
      first
      | with_reducible assumption | with_reducible apply Chip.each_ok | with_reducible apply Chip.fuseFault_ok
      | with_reducible apply Chip.each_ok | intro _ _ _ _ | intro _ _ _ | dsimp only
  clear_value s
  extract_lets +onlyGivenNames ds
  clear_value ds
  extract_lets +onlyGivenNames lv
  clear_value lv
  extract_lets +onlyGivenNames s
  have hs : Chip.Ok N s := by
    dsimp only [s]
    repeat'
      first
      | with_reducible assumption | with_reducible apply Chip.each_ok | with_reducible apply Chip.auditAdd_ok
      | with_reducible apply Chip.rejectDie_ok | with_reducible apply Chip.setFuses_ok
      | with_reducible apply Chip.auditFrom_ok | with_reducible apply Chip.ite_ok
      | with_reducible apply Chip.each_ok | intro _ _ _ _ | intro _ _ _ | dsimp only
  clear_value s
  extract_lets +onlyGivenNames s
  have hs : Chip.Ok N s := by
    dsimp only [s]
    repeat'
      first
      | with_reducible assumption | with_reducible apply Chip.retire_ok | with_reducible apply Chip.showFuses_ok
      | dsimp only
  clear_value s
  repeat'
    first
    | with_reducible assumption | with_reducible apply Chip.setB_ok

theorem Chip.putBytes_ok {N : Nat} {s : Chip} (hk : s.Ok N)
    (f : Nat → Nat) (bs : List Nat) :
    (s.putBytes f bs).Ok N := by
  unfold Chip.putBytes
  repeat'
    first
    | with_reducible assumption | with_reducible apply Chip.each_ok | with_reducible apply Chip.setReg_ok
    | with_reducible apply Chip.each_ok | intro _ _ _ _ | intro _ _ _ | dsimp only

theorem Chip.sessCause_ok {N : Nat} {s : Chip} (hk : s.Ok N) (p c : Nat) : (s.sessCause p c).Ok N := by
  unfold Chip.sessCause
  repeat'
    first
    | with_reducible assumption | with_reducible apply Chip.set_ok

theorem Chip.sessOpen_ok {N : Nat} {s : Chip} (hk : s.Ok N) (p : Nat) : (s.sessOpen p).Ok N := by
  unfold Chip.sessOpen
  extract_lets +onlyGivenNames lc
  clear_value lc
  repeat'
    first
    | with_reducible assumption | with_reducible apply Chip.sessCause_ok | with_reducible apply Chip.took_ok
    | with_reducible apply Chip.putBytes_ok | with_reducible apply Chip.modSec_ok
    | with_reducible apply Chip.showSess_ok | with_reducible apply Chip.ite_ok | intro _ _ _ _ | intro _ _ _
    | dsimp only

theorem Chip.proveFail_ok {N : Nat} {s : Chip} (hk : s.Ok N) (p c : Nat) : (s.proveFail p c).Ok N := by
  unfold Chip.proveFail
  repeat'
    first
    | with_reducible assumption | with_reducible apply Chip.sessCause_ok | with_reducible apply Chip.modSec_ok
    | with_reducible apply Chip.showSess_ok | with_reducible apply Chip.authFail_ok
    | with_reducible apply Chip.ite_ok | intro _ _ _ _ | intro _ _ _ | dsimp only

theorem Chip.prove_ok {N : Nat} {s : Chip} (hk : s.Ok N) (p : Nat) : (s.prove p).Ok N := by
  unfold Chip.prove
  repeat'
    first
    | with_reducible assumption | with_reducible apply Chip.proveFail_ok | with_reducible apply Chip.sessEnd_ok
    | with_reducible apply Chip.modSec_ok | with_reducible apply Chip.set_ok
    | with_reducible apply Chip.seqAccept_ok | with_reducible apply Chip.auditAdd_ok
    | with_reducible apply Chip.raise_ok | with_reducible apply Chip.showSess_ok | with_reducible apply Chip.ite_ok
    | intro _ _ _ _ | intro _ _ _ | split | dsimp only

theorem Chip.sessCtrl_ok {N : Nat} {s : Chip} (hk : s.Ok N) (p : Nat) (v : Word) : (s.sessCtrl p v).Ok N := by
  unfold Chip.sessCtrl
  repeat'
    first
    | with_reducible assumption | with_reducible apply Chip.sessOpen_ok | with_reducible apply Chip.prove_ok
    | with_reducible apply Chip.ite_ok | dsimp only

theorem Chip.noSession_ok {N : Nat} {s : Chip} (hk : s.Ok N) : (s.noSession).Ok N := by
  unfold Chip.noSession
  repeat'
    first
    | with_reducible assumption | with_reducible apply Chip.bump_ok | with_reducible apply Chip.raiseF3_ok

theorem Chip.heldWrite_ok {N : Nat} {s : Chip} (hk : s.Ok N) (p a : Nat) (v : Word) : (s.heldWrite p a v).Ok N := by
  unfold Chip.heldWrite
  repeat'
    first
    | with_reducible assumption | with_reducible apply Chip.noSession_ok | with_reducible apply Chip.libLost_ok
    | with_reducible apply Chip.heldDrop_ok | with_reducible apply Chip.awResult_ok
    | with_reducible apply Chip.setHeld_ok | with_reducible apply Chip.ite_ok | dsimp only

theorem Chip.heldBad_ok {N : Nat} {s : Chip} (hk : s.Ok N) (p : Nat) : (s.heldBad p).Ok N := by
  unfold Chip.heldBad
  repeat'
    first
    | with_reducible assumption | with_reducible apply Chip.noSession_ok | with_reducible apply Chip.heldDrop_ok
    | with_reducible apply Chip.awResult_ok | with_reducible apply Chip.ite_ok

theorem Chip.heldVerify_ok {N : Nat} {s : Chip} (hk : s.Ok N) (p : Nat) : (s.heldVerify p).1.Ok N := by
  unfold Chip.heldVerify
  repeat'
    first
    | with_reducible assumption | with_reducible apply Chip.bump_ok | with_reducible apply Chip.raise_ok
    | with_reducible apply Chip.awResult_ok | with_reducible apply Chip.heldDrop_ok
    | with_reducible apply Chip.authFail_ok | with_reducible apply Chip.setHeld_ok
    | with_reducible apply Chip.seqAccept_ok | with_reducible apply Chip.ite_ok
    | with_reducible apply Chip.ite_fst_ok | intro _ _ _ _ | intro _ _ _ | dsimp only

theorem Chip.heldDiscard_ok {N : Nat} {s : Chip} (hk : s.Ok N) (p : Nat) : (s.heldDiscard p).Ok N := by
  unfold Chip.heldDiscard
  repeat'
    first
    | with_reducible assumption | with_reducible apply Chip.heldDrop_ok | with_reducible apply Chip.awResult_ok

theorem Chip.keyDataWrite_ok {N : Nat} {s : Chip} (hk : s.Ok N)
    (i : Nat) (v : Word) :
    (s.keyDataWrite i v).Ok N := by
  unfold Chip.keyDataWrite
  repeat'
    first
    | with_reducible assumption | with_reducible apply Chip.modSec_ok | intro _ _ _ _ | intro _ _ _ | dsimp only

theorem Chip.ptpKeyWrite_ok {N : Nat} {s : Chip} (hk : s.Ok N) (v : Word) : (s.ptpKeyWrite v).Ok N := by
  unfold Chip.ptpKeyWrite
  extract_lets +onlyGivenNames x
  clear_value x
  extract_lets +onlyGivenNames k
  clear_value k
  extract_lets +onlyGivenNames e
  clear_value e
  repeat'
    first
    | with_reducible assumption | with_reducible apply Chip.modSec_ok | with_reducible apply Chip.auditAdd_ok
    | intro _ _ _ _ | intro _ _ _ | dsimp only

theorem Chip.telKeyWrite_ok {N : Nat} {s : Chip} (hk : s.Ok N) (v : Word) : (s.telKeyWrite v).Ok N := by
  unfold Chip.telKeyWrite
  extract_lets +onlyGivenNames e
  clear_value e
  repeat'
    first
    | with_reducible assumption | with_reducible apply Chip.modSec_ok | with_reducible apply Chip.auditAdd_ok
    | intro _ _ _ _ | intro _ _ _ | dsimp only

theorem Chip.keyTick_ok {N : Nat} {s : Chip} (hk : s.Ok N) : (s.keyTick).Ok N := by
  unfold Chip.keyTick
  repeat'
    first
    | with_reducible assumption | with_reducible apply Chip.each_ok | with_reducible apply Chip.modRet_ok
    | with_reducible apply Chip.modSec_ok | with_reducible apply Chip.showKeys_ok
    | with_reducible apply Chip.ite_ok | with_reducible apply Chip.each_ok | with_reducible apply Chip.foldl_ok
    | intro _ _ _ _ | intro _ _ _ | dsimp only

theorem Chip.keysBack_ok {N : Nat} {s : Chip} (hk : s.Ok N) : (s.keysBack).Ok N := by
  unfold Chip.keysBack
  extract_lets +onlyGivenNames m
  clear_value m
  repeat'
    first
    | with_reducible assumption | with_reducible apply Chip.modSec_ok | with_reducible apply Chip.showKeys_ok
    | with_reducible apply Chip.ite_ok | intro _ _ _ _ | intro _ _ _ | dsimp only

theorem Chip.attGo_ok {N : Nat} {s : Chip} (hk : s.Ok N) (v : Word) : (s.attGo v).Ok N := by
  unfold Chip.attGo
  repeat'
    first
    | with_reducible assumption | with_reducible apply Chip.set_ok | with_reducible apply Chip.ite_ok

theorem Chip.attDone_ok {N : Nat} {s : Chip} (hk : s.Ok N) : (s.attDone).Ok N := by
  unfold Chip.attDone
  repeat'
    first
    | with_reducible assumption | with_reducible apply Chip.putBytes_ok | with_reducible apply Chip.took_ok
    | with_reducible apply Chip.set_ok | with_reducible apply Chip.ite_ok | dsimp only

theorem Chip.logSelect_ok {N : Nat} {s : Chip} (hk : s.Ok N) (v : Word) : (s.logSelect v).Ok N := by
  unfold Chip.logSelect
  extract_lets +onlyGivenNames t
  have ht : Chip.Ok N t := by
    dsimp only [t]
    repeat'
      first
      | with_reducible assumption | with_reducible apply Chip.set_ok | dsimp only
  clear_value t
  repeat'
    first
    | with_reducible assumption | with_reducible apply Chip.putBytes_ok | with_reducible apply Chip.set_ok
    | intro _ _ _ _ | intro _ _ _ | split | dsimp only

theorem Chip.logCatchUp_ok {N : Nat} {s : Chip} (hk : s.Ok N) (d : Nat) : (s.logCatchUp d).Ok N := by
  unfold Chip.logCatchUp
  repeat'
    first
    | with_reducible assumption | with_reducible apply Chip.setLog_ok

theorem Chip.chainCheck_ok {N : Nat} {s : Chip} (hk : s.Ok N)
    (d : Nat) (hit : Option Nat) :
    (s.chainCheck d hit).Ok N := by
  unfold Chip.chainCheck
  extract_lets +onlyGivenNames s
  have hs : Chip.Ok N s := by
    dsimp only [s]
    repeat'
      first
      | with_reducible assumption | with_reducible apply Chip.setLog_ok | split | dsimp only
  clear_value s
  extract_lets +onlyGivenNames l
  clear_value l
  repeat'
    first
    | with_reducible assumption | with_reducible apply Chip.logCatchUp_ok | with_reducible apply Chip.setLog_ok
    | with_reducible apply Chip.showHead_ok | with_reducible apply Chip.auditFrom_ok
    | with_reducible apply Chip.raise_ok | with_reducible apply Chip.secF0_ok | with_reducible apply Chip.ite_ok
    | split

end Sys2Proof.Machine
end

