-- ==== Sys2Proof/Laws/Ok/Start.lean ====
section
/-!
SUPPORT. Laws/Ok/Start.lean: every operation of Machine/Start.lean keeps a package in good order.
-/

namespace Sys2Proof.Machine

theorem Chip.showIdentity_ok {N : Nat} {s : Chip} (hk : s.Ok N) : (s.showIdentity).Ok N := by
  unfold Chip.showIdentity
  extract_lets +onlyGivenNames s
  have hs : Chip.Ok N s := by
    dsimp only [s]
    repeat'
      first
      | with_reducible assumption | with_reducible apply Chip.showFuses_ok | with_reducible apply Chip.setB_ok
      | dsimp only
  clear_value s
  repeat'
    first
    | with_reducible assumption | with_reducible apply Chip.set_ok

theorem Chip.afterReset_ok {N : Nat} {s : Chip} (hk : s.Ok N) : (s.afterReset).Ok N := by
  unfold Chip.afterReset
  extract_lets +onlyGivenNames t
  have ht : Chip.Ok N t := by
    dsimp only [t]
    repeat'
      first
      | with_reducible assumption | with_reducible apply Chip.ite_ok | intro _ _ _ _ | intro _ _ _ | dsimp only
      | with_reducible apply tabPut_wf | with_reducible apply tabClear_wf | with_reducible apply tabFilter_wf
      | with_reducible apply tabMap_wf | with_reducible apply tabWf_nil | with_reducible apply emptyLog
      | with_reducible apply Chip.Ok.count | with_reducible apply Chip.Ok.log | with_reducible apply Chip.Ok.regs
      | with_reducible apply Chip.Ok.shadow | with_reducible apply Chip.Ok.staged
      | with_reducible apply Chip.Ok.lib | with_reducible apply Chip.Ok.poison
      | with_reducible apply Chip.Ok.libLive | with_reducible apply Chip.Ok.libStaged
      | with_reducible apply Chip.Ok.volStage | with_reducible apply Chip.Ok.dies
      | with_reducible apply Chip.Ok.cals | with_reducible apply Chip.Ok.slots | with_reducible apply Chip.Ok.ports
      | with_reducible apply Chip.Ok.vols | with_reducible apply Chip.Ok.rets | with_reducible apply Chip.Ok.hosts
      | with_reducible apply Chip.Ok.of
  clear_value t
  repeat'
    first
    | with_reducible assumption | with_reducible apply Chip.showIdentity_ok | with_reducible apply Chip.showKeys_ok
    | with_reducible apply Chip.showHead_ok

theorem Chip.fabReset_ok {N : Nat} {s : Chip} (hk : s.Ok N) (d : Nat) : (s.fabReset d).Ok N := by
  unfold Chip.fabReset
  repeat'
    first
    | with_reducible assumption | with_reducible apply Chip.each_ok | with_reducible apply Chip.farReset_ok
    | with_reducible apply Chip.each_ok | intro _ _ _ _ | intro _ _ _ | dsimp only

theorem Chip.fabBack_ok {N : Nat} {s : Chip} (hk : s.Ok N) (d : Nat) : (s.fabBack d).Ok N := by
  unfold Chip.fabBack
  extract_lets +onlyGivenNames s
  have hs : Chip.Ok N s := by
    dsimp only [s]
    repeat'
      first
      | with_reducible assumption | with_reducible apply Chip.each_ok | with_reducible apply Chip.resync_ok
      | with_reducible apply Chip.farReset_ok | with_reducible apply Chip.ite_ok
      | with_reducible apply Chip.each_ok | intro _ _ _ _ | intro _ _ _ | dsimp only
  clear_value s
  repeat'
    first
    | with_reducible assumption | with_reducible apply Chip.farReset_ok | with_reducible apply Chip.ite_ok
    | intro _ _ _ _ | intro _ _ _ | dsimp only

theorem Chip.release_ok {N : Nat} {s : Chip} (hk : s.Ok N) : (s.release).Ok N := by
  unfold Chip.release
  repeat'
    first
    | with_reducible assumption | with_reducible apply Chip.each_ok | with_reducible apply Chip.modDie_ok
    | with_reducible apply Chip.fabBack_ok | with_reducible apply Chip.ite_ok | with_reducible apply Chip.each_ok
    | intro _ _ _ _ | intro _ _ _ | dsimp only | with_reducible apply tabPut_wf | with_reducible apply tabClear_wf
    | with_reducible apply tabFilter_wf | with_reducible apply tabMap_wf | with_reducible apply tabWf_nil
    | with_reducible apply emptyLog | with_reducible apply Chip.Ok.count | with_reducible apply Chip.Ok.log
    | with_reducible apply Chip.Ok.regs | with_reducible apply Chip.Ok.shadow | with_reducible apply Chip.Ok.staged
    | with_reducible apply Chip.Ok.lib | with_reducible apply Chip.Ok.poison | with_reducible apply Chip.Ok.libLive
    | with_reducible apply Chip.Ok.libStaged | with_reducible apply Chip.Ok.volStage
    | with_reducible apply Chip.Ok.dies | with_reducible apply Chip.Ok.cals | with_reducible apply Chip.Ok.slots
    | with_reducible apply Chip.Ok.ports | with_reducible apply Chip.Ok.vols | with_reducible apply Chip.Ok.rets
    | with_reducible apply Chip.Ok.hosts | with_reducible apply Chip.Ok.of

theorem Chip.wipeDie_ok {N : Nat} {s : Chip} (hk : s.Ok N)
    (d : Nat) (mirror : Bool) :
    (s.wipeDie d mirror).Ok N := by
  unfold Chip.wipeDie
  extract_lets +onlyGivenNames lo
  clear_value lo
  extract_lets +onlyGivenNames hi
  clear_value hi
  extract_lets +onlyGivenNames block
  clear_value block
  extract_lets +onlyGivenNames mirrored
  clear_value mirrored
  extract_lets +onlyGivenNames t
  have ht : Chip.Ok N t := by
    dsimp only [t]
    repeat'
      first
      | with_reducible assumption | with_reducible apply Chip.clearDie_ok | dsimp only
  clear_value t
  extract_lets +onlyGivenNames t
  have ht : Chip.Ok N t := by
    dsimp only [t]
    repeat'
      first
      | with_reducible assumption | with_reducible apply Chip.setReg_ok | with_reducible apply Chip.foldl_ok
      | intro _ _ _ _ | intro _ _ _ | dsimp only
  clear_value t
  extract_lets +onlyGivenNames t
  have ht : Chip.Ok N t := by
    dsimp only [t]
    repeat'
      first
      | with_reducible assumption | with_reducible apply Chip.setStaged_ok | with_reducible apply Chip.foldl_ok
      | intro _ _ _ _ | intro _ _ _ | dsimp only
  clear_value t
  extract_lets +onlyGivenNames t
  have ht : Chip.Ok N t := by
    dsimp only [t]
    repeat'
      first
      | with_reducible assumption | with_reducible apply Chip.setReg_ok | with_reducible apply Chip.ite_ok
      | with_reducible apply Chip.foldl_ok | intro _ _ _ _ | intro _ _ _ | dsimp only
  clear_value t
  extract_lets +onlyGivenNames backs
  clear_value backs
  repeat'
    first
    | with_reducible assumption | with_reducible apply Chip.volWipe_ok | with_reducible apply Chip.ite_ok
    | intro _ _ _ _ | intro _ _ _ | dsimp only | with_reducible apply tabPut_wf | with_reducible apply tabClear_wf
    | with_reducible apply tabFilter_wf | with_reducible apply tabMap_wf | with_reducible apply tabWf_nil
    | with_reducible apply emptyLog | with_reducible apply Chip.Ok.count | with_reducible apply Chip.Ok.log
    | with_reducible apply Chip.Ok.regs | with_reducible apply Chip.Ok.shadow | with_reducible apply Chip.Ok.staged
    | with_reducible apply Chip.Ok.lib | with_reducible apply Chip.Ok.poison | with_reducible apply Chip.Ok.libLive
    | with_reducible apply Chip.Ok.libStaged | with_reducible apply Chip.Ok.volStage
    | with_reducible apply Chip.Ok.dies | with_reducible apply Chip.Ok.cals | with_reducible apply Chip.Ok.slots
    | with_reducible apply Chip.Ok.ports | with_reducible apply Chip.Ok.vols | with_reducible apply Chip.Ok.rets
    | with_reducible apply Chip.Ok.hosts | with_reducible apply Chip.Ok.of

theorem Chip.railDown_ok {N : Nat} {s : Chip} (hk : s.Ok N) (d r : Nat) : (s.railDown d r).Ok N := by
  unfold Chip.railDown
  extract_lets +onlyGivenNames was
  clear_value was
  extract_lets +onlyGivenNames t
  have ht : Chip.Ok N t := by
    dsimp only [t]
    repeat'
      first
      | with_reducible assumption | with_reducible apply Chip.wipeDie_ok | with_reducible apply Chip.ite_ok
      | dsimp only
  clear_value t
  extract_lets +onlyGivenNames t
  have ht : Chip.Ok N t := by
    dsimp only [t]
    repeat'
      first
      | with_reducible assumption | with_reducible apply Chip.setDie_ok | with_reducible apply Chip.sidelineDue_ok
      | dsimp only
  clear_value t
  repeat'
    first
    | with_reducible assumption | with_reducible apply Chip.fabReset_ok | with_reducible apply Chip.ite_ok

theorem Chip.railUp_ok {N : Nat} {s : Chip} (hk : s.Ok N) (d r : Nat) : (s.railUp d r).Ok N := by
  unfold Chip.railUp
  extract_lets +onlyGivenNames m
  clear_value m
  extract_lets +onlyGivenNames t
  have ht : Chip.Ok N t := by
    dsimp only [t]
    repeat'
      first
      | with_reducible assumption | with_reducible apply Chip.modDie_ok | intro _ _ _ _ | intro _ _ _ | dsimp only
  clear_value t
  repeat'
    first
    | with_reducible assumption | with_reducible apply Chip.fabBack_ok | with_reducible apply Chip.ite_ok

theorem Chip.setRoles_ok {N : Nat} {s : Chip} (hk : s.Ok N)
    (cap : Nat) (vice : Option Nat) :
    (s.setRoles cap vice).Ok N := by
  unfold Chip.setRoles
  extract_lets +onlyGivenNames t
  have ht : Chip.Ok N t := by
    dsimp only [t]
    repeat'
      first
      | with_reducible assumption | with_reducible apply Chip.set_ok | with_reducible apply Chip.setB_ok
      | dsimp only
  clear_value t
  repeat'
    first
    | with_reducible assumption | with_reducible apply Chip.each_ok | with_reducible apply Chip.set_ok
    | with_reducible apply Chip.ite_ok | with_reducible apply Chip.each_ok | intro _ _ _ _ | intro _ _ _
    | dsimp only

theorem Chip.negStart_ok {N : Nat} {s : Chip} (hk : s.Ok N)
    (d : Nat) (ok : Bool) (key : Option Nat) :
    (s.negStart d ok key).Ok N := by
  unfold Chip.negStart
  repeat'
    first
    | with_reducible assumption | with_reducible apply Chip.took_ok | with_reducible apply Chip.modDie_ok
    | with_reducible apply Chip.ite_ok | intro _ _ _ _ | intro _ _ _ | dsimp only

theorem Chip.rollMessage_ok {N : Nat} {s : Chip} (hk : s.Ok N) (d e : Nat) : (s.rollMessage d e).Ok N := by
  unfold Chip.rollMessage
  repeat'
    first
    | with_reducible assumption | with_reducible apply Chip.modDie_ok | with_reducible apply Chip.ite_ok
    | intro _ _ _ _ | intro _ _ _ | dsimp only

theorem Chip.settleRoles_ok {N : Nat} {s : Chip} (hk : s.Ok N) (d : Nat) : (s.settleRoles d).Ok N := by
  unfold Chip.settleRoles
  extract_lets +onlyGivenNames heard
  clear_value heard
  extract_lets +onlyGivenNames rej
  clear_value rej
  extract_lets +onlyGivenNames unbound
  clear_value unbound
  extract_lets +onlyGivenNames t
  have ht : Chip.Ok N t := by
    dsimp only [t]
    repeat'
      first
      | with_reducible assumption | with_reducible apply Chip.each_ok | with_reducible apply Chip.setService_ok
      | with_reducible apply Chip.each_ok | intro _ _ _ _ | intro _ _ _ | dsimp only
  clear_value t
  extract_lets +onlyGivenNames t
  have ht : Chip.Ok N t := by
    dsimp only [t]
    repeat'
      first
      | with_reducible assumption | with_reducible apply Chip.set_ok | with_reducible apply Chip.foldl_ok
      | intro _ _ _ _ | intro _ _ _ | dsimp only
  clear_value t
  extract_lets +onlyGivenNames t
  have ht : Chip.Ok N t := by
    dsimp only [t]
    repeat'
      first
      | with_reducible assumption | with_reducible apply Chip.set_ok | intro _ _ _ _ | intro _ _ _ | dsimp only
  clear_value t
  extract_lets +onlyGivenNames t
  have ht : Chip.Ok N t := by
    dsimp only [t]
    repeat'
      first
      | with_reducible assumption | with_reducible apply Chip.set_ok | dsimp only
  clear_value t
  repeat'
    first
    | with_reducible assumption | with_reducible apply Chip.setRoles_ok | with_reducible apply Chip.showFuses_ok
    | with_reducible apply Chip.keysBack_ok | with_reducible apply Chip.showHead_ok
    | with_reducible apply Chip.each_ok | with_reducible apply Chip.auditAdd_ok | with_reducible apply Chip.each_ok
    | intro _ _ _ _ | intro _ _ _ | split | dsimp only

theorem Chip.negEnd_ok {N : Nat} {s : Chip} (hk : s.Ok N) (d : Nat) : (s.negEnd d).Ok N := by
  unfold Chip.negEnd
  repeat'
    first
    | with_reducible assumption | with_reducible apply Chip.modDie_ok | with_reducible apply Chip.settleRoles_ok
    | with_reducible apply Chip.ite_ok | intro _ _ _ _ | intro _ _ _ | dsimp only

theorem Chip.levelDies_ok {N : Nat} {s : Chip} (hk : s.Ok N) (bad fail : Nat) : (s.levelDies bad fail).Ok N := by
  unfold Chip.levelDies
  extract_lets +onlyGivenNames t
  have ht : Chip.Ok N t := by
    dsimp only [t]
    repeat'
      first
      | with_reducible assumption | with_reducible apply Chip.fuseLevel_ok | dsimp only
  clear_value t
  extract_lets +onlyGivenNames alive
  clear_value alive
  extract_lets +onlyGivenNames t
  have ht : Chip.Ok N t := by
    dsimp only [t]
    repeat'
      first
      | with_reducible assumption | with_reducible apply Chip.setRoles_ok | with_reducible apply Chip.ite_ok
      | dsimp only
  clear_value t
  repeat'
    first
    | with_reducible assumption | with_reducible apply Chip.showFuses_ok

end Sys2Proof.Machine
end

