-- ==== Sys2Proof/Laws/Ok/Eloalet.lean ====
section
/-!
SUPPORT. Laws/Ok/Eloalet.lean: every operation of Machine/Eloalet.lean keeps a package in good order.
-/

namespace Sys2Proof.Machine

theorem Chip.recPut_ok {N : Nat} {s : Chip} (hk : s.Ok N) (a v : Nat) : (s.recPut a v).Ok N := by
  unfold Chip.recPut
  extract_lets +onlyGivenNames m
  clear_value m
  repeat'
    first
    | with_reducible assumption | with_reducible apply Chip.setReg_ok | with_reducible apply Chip.setShadow_ok

theorem Chip.imgPut_ok {N : Nat} {s : Chip} (hk : s.Ok N) (x : ImgItem) : (s.imgPut x).Ok N := by
  unfold Chip.imgPut
  repeat'
    first
    | with_reducible assumption | with_reducible apply Chip.each_ok | with_reducible apply Chip.recPut_ok
    | with_reducible apply Chip.set_ok | with_reducible apply Chip.modSched_ok | with_reducible apply Chip.ite_ok
    | with_reducible apply Chip.each_ok | intro _ _ _ _ | intro _ _ _ | split | dsimp only
    | with_reducible apply tabPut_wf | with_reducible apply tabClear_wf | with_reducible apply tabFilter_wf
    | with_reducible apply tabMap_wf | with_reducible apply tabWf_nil | with_reducible apply emptyLog
    | with_reducible apply Chip.Ok.count | with_reducible apply Chip.Ok.log | with_reducible apply Chip.Ok.regs
    | with_reducible apply Chip.Ok.shadow | with_reducible apply Chip.Ok.staged | with_reducible apply Chip.Ok.lib
    | with_reducible apply Chip.Ok.poison | with_reducible apply Chip.Ok.libLive
    | with_reducible apply Chip.Ok.libStaged | with_reducible apply Chip.Ok.volStage
    | with_reducible apply Chip.Ok.dies | with_reducible apply Chip.Ok.cals | with_reducible apply Chip.Ok.slots
    | with_reducible apply Chip.Ok.ports | with_reducible apply Chip.Ok.vols | with_reducible apply Chip.Ok.rets
    | with_reducible apply Chip.Ok.hosts | with_reducible apply Chip.Ok.of

end Sys2Proof.Machine
end

