-- ==== Sys2Proof/Laws/Ok/Image.lean ====
section
/-!
SUPPORT. Laws/Ok/Image.lean: every operation of Machine/Image.lean keeps a package in good order.
-/

namespace Sys2Proof.Machine

theorem Chip.modImage_ok {N : Nat} {s : Chip} (hk : s.Ok N) (f : ImageRec → ImageRec) : (s.modImage f).Ok N := by
  unfold Chip.modImage
  repeat'
    first
    | with_reducible assumption | dsimp only | with_reducible apply tabPut_wf | with_reducible apply tabClear_wf
    | with_reducible apply tabFilter_wf | with_reducible apply tabMap_wf | with_reducible apply tabWf_nil
    | with_reducible apply emptyLog | with_reducible apply Chip.Ok.count | with_reducible apply Chip.Ok.log
    | with_reducible apply Chip.Ok.regs | with_reducible apply Chip.Ok.shadow | with_reducible apply Chip.Ok.staged
    | with_reducible apply Chip.Ok.lib | with_reducible apply Chip.Ok.poison | with_reducible apply Chip.Ok.libLive
    | with_reducible apply Chip.Ok.libStaged | with_reducible apply Chip.Ok.volStage
    | with_reducible apply Chip.Ok.dies | with_reducible apply Chip.Ok.cals | with_reducible apply Chip.Ok.slots
    | with_reducible apply Chip.Ok.ports | with_reducible apply Chip.Ok.vols | with_reducible apply Chip.Ok.rets
    | with_reducible apply Chip.Ok.hosts | with_reducible apply Chip.Ok.of

theorem Chip.slotShow_ok {N : Nat} {s : Chip} (hk : s.Ok N)
    (slot st cause : Nat) :
    (s.slotShow slot st cause).Ok N := by
  unfold Chip.slotShow
  repeat'
    first
    | with_reducible assumption | with_reducible apply Chip.set_ok | with_reducible apply Chip.ite_ok

theorem Chip.slotRefuse_ok {N : Nat} {s : Chip} (hk : s.Ok N)
    (slot cause die sect addr : Nat) (dig : List Nat) :
    (s.slotRefuse slot cause die sect addr dig).Ok N := by
  unfold Chip.slotRefuse
  extract_lets +onlyGivenNames t
  have ht : Chip.Ok N t := by
    dsimp only [t]
    repeat'
      first
      | with_reducible assumption | with_reducible apply Chip.slotShow_ok | with_reducible apply Chip.set_ok
      | dsimp only
  clear_value t
  extract_lets +onlyGivenNames t
  have ht : Chip.Ok N t := by
    dsimp only [t]
    repeat'
      first
      | with_reducible assumption | with_reducible apply Chip.set_ok | with_reducible apply Chip.raise_ok
      | dsimp only
  clear_value t
  repeat'
    first
    | with_reducible assumption | with_reducible apply Chip.auditAdd_ok | with_reducible apply Chip.raise_ok
    | with_reducible apply Chip.ite_ok

theorem Chip.noImage_ok {N : Nat} {s : Chip} (hk : s.Ok N) : (s.noImage).Ok N := by
  unfold Chip.noImage
  repeat'
    first
    | with_reducible assumption | with_reducible apply Chip.set_ok | with_reducible apply Chip.raise_ok
    | with_reducible apply Chip.modImage_ok | intro _ _ _ _ | intro _ _ _ | dsimp only

theorem Chip.loadSlot_ok {N : Nat} {s : Chip} (hk : s.Ok N) (slot : Nat) : (s.loadSlot slot).Ok N := by
  unfold Chip.loadSlot
  repeat'
    first
    | with_reducible assumption | with_reducible apply Chip.grant_ok | with_reducible apply Chip.set_ok
    | with_reducible apply Chip.modImage_ok | intro _ _ _ _ | intro _ _ _ | dsimp only

theorem Chip.readHeader_ok {N : Nat} {s : Chip} (hk : s.Ok N) (slot : Nat) : (s.readHeader slot).Ok N := by
  unfold Chip.readHeader
  extract_lets +onlyGivenNames ver
  clear_value ver
  repeat'
    first
    | with_reducible assumption | with_reducible apply Chip.slotShow_ok | with_reducible apply Chip.set_ok
    | with_reducible apply Chip.modImage_ok | with_reducible apply Chip.slotRefuse_ok
    | with_reducible apply Chip.ite_ok | intro _ _ _ _ | intro _ _ _ | dsimp only

theorem Chip.pinRead_ok {N : Nat} {s : Chip} (hk : s.Ok N) : (s.pinRead).Ok N := by
  unfold Chip.pinRead
  repeat'
    first
    | with_reducible assumption | with_reducible apply Chip.set_ok | with_reducible apply Chip.modImage_ok
    | with_reducible apply Chip.ite_ok | intro _ _ _ _ | intro _ _ _ | dsimp only

theorem Chip.discover_ok {N : Nat} {s : Chip} (hk : s.Ok N)
    (present a b : Nat) :
    (s.discover present a b).Ok N := by
  unfold Chip.discover
  extract_lets +onlyGivenNames s
  have hs : Chip.Ok N s := by
    dsimp only [s]
    repeat'
      first
      | with_reducible assumption | with_reducible apply Chip.modImage_ok | intro _ _ _ _ | intro _ _ _
      | dsimp only
  clear_value s
  extract_lets +onlyGivenNames life
  clear_value life
  extract_lets +onlyGivenNames s
  have hs : Chip.Ok N s := by
    dsimp only [s]
    repeat'
      first
      | with_reducible assumption | with_reducible apply Chip.readHeader_ok | dsimp only
  clear_value s
  extract_lets +onlyGivenNames missed
  clear_value missed
  extract_lets +onlyGivenNames s
  have hs : Chip.Ok N s := by
    dsimp only [s]
    repeat'
      first
      | with_reducible assumption | with_reducible apply Chip.set_ok | with_reducible apply Chip.raise_ok
      | with_reducible apply Chip.ite_ok | dsimp only
  clear_value s
  extract_lets +onlyGivenNames pick
  clear_value pick
  extract_lets +onlyGivenNames s
  have hs : Chip.Ok N s := by
    dsimp only [s]
    repeat'
      first
      | with_reducible assumption | with_reducible apply Chip.pinRead_ok | dsimp only
  clear_value s
  repeat'
    first
    | with_reducible assumption | with_reducible apply Chip.loadSlot_ok | with_reducible apply Chip.noImage_ok
    | with_reducible apply Chip.ite_ok | split

theorem Chip.loadRefuse_ok {N : Nat} {s : Chip} (hk : s.Ok N)
    (slot cause die sect addr : Nat) (dig : List Nat) :
    (s.loadRefuse slot cause die sect addr dig).Ok N := by
  unfold Chip.loadRefuse
  extract_lets +onlyGivenNames t
  have ht : Chip.Ok N t := by
    dsimp only [t]
    repeat'
      first
      | with_reducible assumption | with_reducible apply Chip.slotRefuse_ok
      | with_reducible apply Chip.leaseFree_ok | dsimp only
  clear_value t
  extract_lets +onlyGivenNames o
  clear_value o
  repeat'
    first
    | with_reducible assumption | with_reducible apply Chip.loadSlot_ok | with_reducible apply Chip.set_ok
    | with_reducible apply Chip.raise_ok | with_reducible apply Chip.noImage_ok | with_reducible apply Chip.ite_ok

theorem Chip.imageEnd_ok {N : Nat} {s : Chip} (hk : s.Ok N) (slot : Nat) : (s.imageEnd slot).Ok N := by
  unfold Chip.imageEnd
  extract_lets +onlyGivenNames dig
  clear_value dig
  repeat'
    first
    | with_reducible assumption | with_reducible apply Chip.loadRefuse_ok | with_reducible apply Chip.leaseFree_ok
    | with_reducible apply Chip.set_ok | with_reducible apply Chip.modImage_ok | with_reducible apply Chip.ite_ok
    | intro _ _ _ _ | intro _ _ _ | dsimp only

theorem Chip.imageBlock_ok {N : Nat} {s : Chip} (hk : s.Ok N) (ok : Bool) : (s.imageBlock ok).Ok N := by
  unfold Chip.imageBlock
  repeat'
    first
    | with_reducible assumption | with_reducible apply Chip.loadRefuse_ok | with_reducible apply Chip.modImage_ok
    | with_reducible apply Chip.imageEnd_ok | with_reducible apply Chip.ite_ok | intro _ _ _ _ | intro _ _ _
    | split | dsimp only

theorem Chip.loadLib_ok {N : Nat} {s : Chip} (hk : s.Ok N) (d : Nat) (l : List ImgVal) : (s.loadLib d l).Ok N := by
  unfold Chip.loadLib
  extract_lets +onlyGivenNames ents
  clear_value ents
  extract_lets +onlyGivenNames covered
  clear_value covered
  extract_lets +onlyGivenNames s
  have hs : Chip.Ok N s := by
    dsimp only [s]
    repeat'
      first
      | with_reducible assumption | with_reducible apply Chip.each_ok | with_reducible apply Chip.setRaw_ok
      | with_reducible apply Chip.each_ok | intro _ _ _ _ | intro _ _ _ | dsimp only
  clear_value s
  repeat'
    first
    | with_reducible assumption | with_reducible apply Chip.each_ok | with_reducible apply Chip.setRaw_ok
    | with_reducible apply Chip.each_ok | intro _ _ _ _ | intro _ _ _ | dsimp only

theorem Chip.fillEntry_ok {N : Nat} {s : Chip} (hk : s.Ok N) (m k : Nat) : (s.fillEntry m k).Ok N := by
  unfold Chip.fillEntry
  extract_lets +onlyGivenNames f
  have hf : Chip.Ok N f.1 := by
    dsimp only [f]
    repeat'
      first
      | with_reducible assumption | with_reducible apply Chip.readEntry_ok | with_reducible apply Chip.ite_fst_ok
      | intro _ _ _ _ | intro _ _ _ | dsimp only | with_reducible refine Chip.fst_ok (by assumption) ?_
  clear_value f
  repeat'
    first
    | with_reducible assumption | with_reducible apply Chip.setRaw_ok | with_reducible apply Chip.setPoison_ok
    | with_reducible apply Chip.ite_ok | split

theorem Chip.fillMirror_ok {N : Nat} {s : Chip} (hk : s.Ok N) (b e : Nat) : (s.fillMirror b e).Ok N := by
  unfold Chip.fillMirror
  extract_lets +onlyGivenNames h
  clear_value h
  repeat'
    first
    | with_reducible assumption | with_reducible apply Chip.each_ok | with_reducible apply Chip.fillEntry_ok
    | with_reducible apply Chip.each_ok | intro _ _ _ _ | intro _ _ _ | dsimp only

theorem Chip.fillMirrors_ok {N : Nat} {s : Chip} (hk : s.Ok N) (b : Nat) : (s.fillMirrors b).Ok N := by
  unfold Chip.fillMirrors
  repeat'
    first
    | with_reducible assumption | with_reducible apply Chip.each_ok | with_reducible apply Chip.fillMirror_ok
    | with_reducible apply Chip.ite_ok | with_reducible apply Chip.each_ok | intro _ _ _ _ | intro _ _ _
    | dsimp only

theorem Chip.imgEffects_ok {N : Nat} {s : Chip} (hk : s.Ok N)
    (d : Nat) (ts : List Nat) :
    (s.imgEffects d ts).Ok N := by
  unfold Chip.imgEffects
  extract_lets +onlyGivenNames s
  have hs : Chip.Ok N s := by
    dsimp only [s]
    repeat'
      first
      | with_reducible assumption | with_reducible apply Chip.each_ok | with_reducible apply Chip.setCko_ok
      | with_reducible apply Chip.ite_ok | with_reducible apply Chip.each_ok | intro _ _ _ _ | intro _ _ _
      | dsimp only
  clear_value s
  extract_lets +onlyGivenNames s
  have hs : Chip.Ok N s := by
    dsimp only [s]
    repeat'
      first
      | with_reducible assumption | with_reducible apply Chip.loadSeed_ok | dsimp only
  clear_value s
  extract_lets +onlyGivenNames s
  have hs : Chip.Ok N s := by
    dsimp only [s]
    repeat'
      first
      | with_reducible assumption | with_reducible apply Chip.clearRegs_ok
      | with_reducible apply Chip.clkoutSelect_ok | with_reducible apply Chip.ite_ok | dsimp only
  clear_value s
  extract_lets +onlyGivenNames s
  have hs : Chip.Ok N s := by
    dsimp only [s]
    repeat'
      first
      | with_reducible assumption | with_reducible apply Chip.modDie_ok | intro _ _ _ _ | intro _ _ _ | dsimp only
  clear_value s
  extract_lets +onlyGivenNames bands
  clear_value bands
  repeat'
    first
    | with_reducible assumption | with_reducible apply Chip.tryStart_ok | with_reducible apply Chip.surveyBegin_ok
    | with_reducible apply Chip.ite_ok

theorem Chip.tookImage_ok {N : Nat} {s : Chip} (hk : s.Ok N) (d slot : Nat) : (s.tookImage d slot).Ok N := by
  unfold Chip.tookImage
  repeat'
    first
    | with_reducible assumption | with_reducible apply Chip.modSched_ok | with_reducible apply Chip.modImage_ok
    | intro _ _ _ _ | intro _ _ _ | dsimp only

theorem Chip.showBooted_ok {N : Nat} {s : Chip} (hk : s.Ok N) (slot : Nat) : (s.showBooted slot).Ok N := by
  unfold Chip.showBooted
  extract_lets +onlyGivenNames dig
  clear_value dig
  extract_lets +onlyGivenNames t
  have ht : Chip.Ok N t := by
    dsimp only [t]
    repeat'
      first
      | with_reducible assumption | with_reducible apply Chip.set_ok | dsimp only
  clear_value t
  extract_lets +onlyGivenNames t
  have ht : Chip.Ok N t := by
    dsimp only [t]
    repeat'
      first
      | with_reducible assumption | with_reducible apply Chip.each_ok | with_reducible apply Chip.set_ok
      | with_reducible apply Chip.each_ok | intro _ _ _ _ | intro _ _ _ | dsimp only
  clear_value t
  repeat'
    first
    | with_reducible assumption | with_reducible apply Chip.modImage_ok | intro _ _ _ _ | intro _ _ _ | dsimp only

theorem Chip.showSchedDigest_ok {N : Nat} {s : Chip} (hk : s.Ok N) : (s.showSchedDigest).Ok N := by
  unfold Chip.showSchedDigest
  repeat'
    first
    | with_reducible assumption | with_reducible apply Chip.set_ok | intro _ _ _ _ | intro _ _ _ | dsimp only

theorem Chip.imageLoad_ok {N : Nat} {s : Chip} (hk : s.Ok N) (slot : Nat) : (s.imageLoad slot).Ok N := by
  unfold Chip.imageLoad
  extract_lets +onlyGivenNames l
  clear_value l
  extract_lets +onlyGivenNames ts
  clear_value ts
  extract_lets +onlyGivenNames s
  have hs : Chip.Ok N s := by
    dsimp only [s]
    repeat'
      first
      | with_reducible assumption | with_reducible apply Chip.imgPut_ok | with_reducible apply Chip.modSched_ok
      | with_reducible apply Chip.foldl_ok | intro _ _ _ _ | intro _ _ _ | dsimp only
  clear_value s
  extract_lets +onlyGivenNames ds
  clear_value ds
  extract_lets +onlyGivenNames s
  have hs : Chip.Ok N s := by
    dsimp only [s]
    repeat'
      first
      | with_reducible assumption | with_reducible apply Chip.each_ok | with_reducible apply Chip.loadLib_ok
      | with_reducible apply Chip.each_ok | intro _ _ _ _ | intro _ _ _ | dsimp only
  clear_value s
  extract_lets +onlyGivenNames s
  have hs : Chip.Ok N s := by
    dsimp only [s]
    repeat'
      first
      | with_reducible assumption | with_reducible apply Chip.each_ok | with_reducible apply Chip.fillMirrors_ok
      | with_reducible apply Chip.tookImage_ok | with_reducible apply Chip.each_ok | intro _ _ _ _ | intro _ _ _
      | dsimp only
  clear_value s
  extract_lets +onlyGivenNames s
  have hs : Chip.Ok N s := by
    dsimp only [s]
    repeat'
      first
      | with_reducible assumption | with_reducible apply Chip.showBooted_ok
      | with_reducible apply Chip.showSchedDigest_ok | with_reducible apply Chip.set_ok
      | with_reducible apply Chip.slotShow_ok | dsimp only
  clear_value s
  extract_lets +onlyGivenNames s
  have hs : Chip.Ok N s := by
    dsimp only [s]
    repeat'
      first
      | with_reducible assumption | with_reducible apply Chip.auditAdd_ok | with_reducible apply Chip.raise_ok
      | dsimp only
  clear_value s
  extract_lets +onlyGivenNames s
  have hs : Chip.Ok N s := by
    dsimp only [s]
    repeat'
      first
      | with_reducible assumption | with_reducible apply Chip.set_ok | with_reducible apply Chip.modImage_ok
      | intro _ _ _ _ | intro _ _ _ | dsimp only
  clear_value s
  repeat'
    first
    | with_reducible assumption | with_reducible apply Chip.each_ok | with_reducible apply Chip.imgEffects_ok
    | with_reducible apply Chip.each_ok | intro _ _ _ _ | intro _ _ _ | dsimp only

theorem Chip.contentCheck_ok {N : Nat} {s : Chip} (hk : s.Ok N) (d : Nat) : (s.contentCheck d).Ok N := by
  unfold Chip.contentCheck
  repeat'
    first
    | with_reducible assumption | with_reducible apply Chip.loadRefuse_ok | with_reducible apply Chip.modImage_ok
    | with_reducible apply Chip.imageLoad_ok | with_reducible apply Chip.ite_ok | intro _ _ _ _ | intro _ _ _
    | split | dsimp only

theorem Chip.flEnd_ok {N : Nat} {s : Chip} (hk : s.Ok N) (result : Nat) : (s.flEnd result).Ok N := by
  unfold Chip.flEnd
  extract_lets +onlyGivenNames s
  have hs : Chip.Ok N s := by
    dsimp only [s]
    repeat'
      first
      | with_reducible assumption | with_reducible apply Chip.leaseFree_ok | split | dsimp only
  clear_value s
  repeat'
    first
    | with_reducible assumption | with_reducible apply Chip.set_ok | with_reducible apply Chip.raise_ok
    | with_reducible apply Chip.modImage_ok | intro _ _ _ _ | intro _ _ _ | dsimp only

theorem Chip.flCtrl_ok {N : Nat} {s : Chip} (hk : s.Ok N) (v : Word) : (s.flCtrl v).Ok N := by
  unfold Chip.flCtrl
  extract_lets +onlyGivenNames s
  have hs : Chip.Ok N s := by
    dsimp only [s]
    repeat'
      first
      | with_reducible assumption | with_reducible apply Chip.set_ok | dsimp only
  clear_value s
  repeat'
    first
    | with_reducible assumption | with_reducible apply Chip.flEnd_ok | with_reducible apply Chip.grant_ok
    | with_reducible apply Chip.set_ok | with_reducible apply Chip.modImage_ok | with_reducible apply Chip.ite_ok
    | intro _ _ _ _ | intro _ _ _ | dsimp only

theorem Chip.flOp_ok {N : Nat} {s : Chip} (hk : s.Ok N) (op : Nat) (v : Word) : (s.flOp op v).Ok N := by
  unfold Chip.flOp
  repeat'
    first
    | with_reducible assumption | with_reducible apply Chip.flCtrl_ok | with_reducible apply Chip.ite_ok

theorem Chip.putFlash_ok {N : Nat} {s : Chip} (hk : s.Ok N) (k : Nat) (bs : List Nat) : (s.putFlash k bs).Ok N := by
  unfold Chip.putFlash
  extract_lets +onlyGivenNames put
  clear_value put
  repeat'
    first
    | with_reducible assumption | with_reducible apply Chip.modImage_ok | with_reducible apply Chip.foldl_ok
    | intro _ _ _ _ | intro _ _ _ | dsimp only

theorem Chip.flDone_ok {N : Nat} {s : Chip} (hk : s.Ok N) (err : Nat) : (s.flDone err).Ok N := by
  unfold Chip.flDone
  repeat'
    first
    | with_reducible assumption | with_reducible apply Chip.each_ok | with_reducible apply Chip.setReg_ok
    | with_reducible apply Chip.flEnd_ok | with_reducible apply Chip.took_ok
    | with_reducible apply Chip.modImage_ok | with_reducible apply Chip.putFlash_ok
    | with_reducible apply Chip.ite_ok | with_reducible apply Chip.each_ok | intro _ _ _ _ | intro _ _ _ | split
    | dsimp only

theorem Chip.pinWrite_ok {N : Nat} {s : Chip} (hk : s.Ok N) (v : Word) : (s.pinWrite v).Ok N := by
  unfold Chip.pinWrite
  extract_lets +onlyGivenNames s
  have hs : Chip.Ok N s := by
    dsimp only [s]
    repeat'
      first
      | with_reducible assumption | with_reducible apply Chip.each_ok | with_reducible apply Chip.modRet_ok
      | with_reducible apply Chip.each_ok | intro _ _ _ _ | intro _ _ _ | dsimp only
  clear_value s
  repeat'
    first
    | with_reducible assumption | with_reducible apply Chip.set_ok | with_reducible apply Chip.modImage_ok
    | intro _ _ _ _ | intro _ _ _ | dsimp only

end Sys2Proof.Machine
end

