-- ==== Sys2Proof/Laws/Ok/Retain.lean ====
section
/-!
SUPPORT. Laws/Ok/Retain.lean: every operation of Machine/Retain.lean keeps a package in good order.
-/

namespace Sys2Proof.Machine

theorem Chip.domStart_ok {N : Nat} {s : Chip} (hk : s.Ok N) (x : Nat) : (s.domStart x).Ok N := by
  unfold Chip.domStart
  repeat'
    first
    | with_reducible assumption | with_reducible apply Chip.set_ok | with_reducible apply Chip.modDom_ok
    | with_reducible apply Chip.ite_ok | intro _ _ _ _ | intro _ _ _ | dsimp only

theorem Chip.enterService_ok {N : Nat} {s : Chip} (hk : s.Ok N) : (s.enterService).Ok N := by
  unfold Chip.enterService
  extract_lets +onlyGivenNames n
  clear_value n
  extract_lets +onlyGivenNames s
  have hs : Chip.Ok N s := by
    dsimp only [s]
    repeat'
      first
      | with_reducible assumption | dsimp only | with_reducible apply tabPut_wf | with_reducible apply tabClear_wf
      | with_reducible apply tabFilter_wf | with_reducible apply tabMap_wf | with_reducible apply tabWf_nil
      | with_reducible apply emptyLog | with_reducible apply Chip.Ok.count | with_reducible apply Chip.Ok.log
      | with_reducible apply Chip.Ok.regs | with_reducible apply Chip.Ok.shadow
      | with_reducible apply Chip.Ok.staged | with_reducible apply Chip.Ok.lib
      | with_reducible apply Chip.Ok.poison | with_reducible apply Chip.Ok.libLive
      | with_reducible apply Chip.Ok.libStaged | with_reducible apply Chip.Ok.volStage
      | with_reducible apply Chip.Ok.dies | with_reducible apply Chip.Ok.cals | with_reducible apply Chip.Ok.slots
      | with_reducible apply Chip.Ok.ports | with_reducible apply Chip.Ok.vols | with_reducible apply Chip.Ok.rets
      | with_reducible apply Chip.Ok.hosts | with_reducible apply Chip.Ok.of
  clear_value s
  extract_lets +onlyGivenNames s
  have hs : Chip.Ok N s := by
    dsimp only [s]
    repeat'
      first
      | with_reducible assumption | with_reducible apply Chip.set_ok | with_reducible apply Chip.modTime_ok
      | intro _ _ _ _ | intro _ _ _ | dsimp only
  clear_value s
  extract_lets +onlyGivenNames s
  have hs : Chip.Ok N s := by
    dsimp only [s]
    repeat'
      first
      | with_reducible assumption | with_reducible apply Chip.each_ok | with_reducible apply Chip.portStart_ok
      | with_reducible apply Chip.each_ok | intro _ _ _ _ | intro _ _ _ | dsimp only
  clear_value s
  extract_lets +onlyGivenNames s
  have hs : Chip.Ok N s := by
    dsimp only [s]
    repeat'
      first
      | with_reducible assumption | with_reducible apply Chip.each_ok | with_reducible apply Chip.domStart_ok
      | with_reducible apply Chip.each_ok | intro _ _ _ _ | intro _ _ _ | dsimp only
  clear_value s
  extract_lets +onlyGivenNames s
  have hs : Chip.Ok N s := by
    dsimp only [s]
    repeat'
      first
      | with_reducible assumption | with_reducible apply Chip.modSched_ok | with_reducible apply Chip.showSched_ok
      | intro _ _ _ _ | intro _ _ _ | dsimp only
  clear_value s
  extract_lets +onlyGivenNames s
  have hs : Chip.Ok N s := by
    dsimp only [s]
    repeat'
      first
      | with_reducible assumption | with_reducible apply Chip.each_ok | with_reducible apply Chip.grant_ok
      | with_reducible apply Chip.set_ok | with_reducible apply Chip.each_ok | intro _ _ _ _ | intro _ _ _
      | dsimp only
  clear_value s
  extract_lets +onlyGivenNames top
  clear_value top
  repeat'
    first
    | with_reducible assumption | with_reducible apply Chip.tickPin_ok | dsimp only
    | with_reducible apply tabPut_wf | with_reducible apply tabClear_wf | with_reducible apply tabFilter_wf
    | with_reducible apply tabMap_wf | with_reducible apply tabWf_nil | with_reducible apply emptyLog
    | with_reducible apply Chip.Ok.count | with_reducible apply Chip.Ok.log | with_reducible apply Chip.Ok.regs
    | with_reducible apply Chip.Ok.shadow | with_reducible apply Chip.Ok.staged | with_reducible apply Chip.Ok.lib
    | with_reducible apply Chip.Ok.poison | with_reducible apply Chip.Ok.libLive
    | with_reducible apply Chip.Ok.libStaged | with_reducible apply Chip.Ok.volStage
    | with_reducible apply Chip.Ok.dies | with_reducible apply Chip.Ok.cals | with_reducible apply Chip.Ok.slots
    | with_reducible apply Chip.Ok.ports | with_reducible apply Chip.Ok.vols | with_reducible apply Chip.Ok.rets
    | with_reducible apply Chip.Ok.hosts | with_reducible apply Chip.Ok.of

theorem Chip.restoreChan_ok {N : Nat} {s : Chip} (hk : s.Ok N) (c : Nat) : (s.restoreChan c).Ok N := by
  unfold Chip.restoreChan
  extract_lets +onlyGivenNames per
  clear_value per
  extract_lets +onlyGivenNames state
  clear_value state
  extract_lets +onlyGivenNames d
  clear_value d
  extract_lets +onlyGivenNames sl
  clear_value sl
  repeat'
    first
    | with_reducible assumption | with_reducible apply Chip.set_ok | with_reducible apply Chip.modRet_ok
    | with_reducible apply Chip.ite_ok | intro _ _ _ _ | intro _ _ _ | split | dsimp only

theorem Chip.replayTrims_ok {N : Nat} {s : Chip} (hk : s.Ok N) (d : Nat) : (s.replayTrims d).Ok N := by
  unfold Chip.replayTrims
  repeat'
    first
    | with_reducible assumption | with_reducible apply Chip.each_ok | with_reducible apply Chip.readEntry_ok
    | with_reducible apply Chip.putEntry_ok | with_reducible apply Chip.each_ok | intro _ _ _ _ | intro _ _ _
    | split | dsimp only | with_reducible refine Chip.fst_ok (by assumption) ?_

theorem Chip.restore_ok {N : Nat} {s : Chip} (hk : s.Ok N) : (s.restore).Ok N := by
  unfold Chip.restore
  extract_lets +onlyGivenNames ok
  clear_value ok
  extract_lets +onlyGivenNames old
  clear_value old
  extract_lets +onlyGivenNames ds
  clear_value ds
  extract_lets +onlyGivenNames torn
  clear_value torn
  extract_lets +onlyGivenNames s
  have hs : Chip.Ok N s := by
    dsimp only [s]
    repeat'
      first
      | with_reducible assumption | with_reducible apply Chip.modImage_ok | intro _ _ _ _ | intro _ _ _
      | dsimp only
  clear_value s
  extract_lets +onlyGivenNames s
  have hs : Chip.Ok N s := by
    dsimp only [s]
    repeat'
      first
      | with_reducible assumption | with_reducible apply Chip.restoreChan_ok | with_reducible apply Chip.ite_ok
      | with_reducible apply Chip.foldl_ok | intro _ _ _ _ | intro _ _ _ | dsimp only
  clear_value s
  extract_lets +onlyGivenNames s
  have hs : Chip.Ok N s := by
    dsimp only [s]
    repeat'
      first
      | with_reducible assumption | with_reducible apply Chip.each_ok | with_reducible apply Chip.replayTrims_ok
      | with_reducible apply Chip.ite_ok | with_reducible apply Chip.each_ok | intro _ _ _ _ | intro _ _ _
      | dsimp only
  clear_value s
  extract_lets +onlyGivenNames s
  have hs : Chip.Ok N s := by
    dsimp only [s]
    repeat'
      first
      | with_reducible assumption | with_reducible apply Chip.modTime_ok | with_reducible apply Chip.modDom_ok
      | with_reducible apply Chip.each_ok | with_reducible apply Chip.loadD_ok | with_reducible apply Chip.ite_ok
      | with_reducible apply Chip.each_ok | intro _ _ _ _ | intro _ _ _ | split | dsimp only
  clear_value s
  extract_lets +onlyGivenNames s
  have hs : Chip.Ok N s := by
    dsimp only [s]
    repeat'
      first
      | with_reducible assumption | with_reducible apply Chip.each_ok | with_reducible apply Chip.calRestore_ok
      | with_reducible apply Chip.each_ok | intro _ _ _ _ | intro _ _ _ | dsimp only
  clear_value s
  extract_lets +onlyGivenNames bits
  clear_value bits
  extract_lets +onlyGivenNames s
  have hs : Chip.Ok N s := by
    dsimp only [s]
    repeat'
      first
      | with_reducible assumption | with_reducible apply Chip.set_ok | dsimp only
  clear_value s
  extract_lets +onlyGivenNames s
  have hs : Chip.Ok N s := by
    dsimp only [s]
    repeat'
      first
      | with_reducible assumption | with_reducible apply Chip.set_ok | dsimp only
  clear_value s
  extract_lets +onlyGivenNames s
  have hs : Chip.Ok N s := by
    dsimp only [s]
    repeat'
      first
      | with_reducible assumption | with_reducible apply Chip.set_ok | dsimp only
  clear_value s
  repeat'
    first
    | with_reducible assumption | with_reducible apply Chip.bump_ok | with_reducible apply Chip.raise_ok
    | with_reducible apply Chip.ite_ok

theorem Chip.startSlot_ok {N : Nat} {s : Chip} (hk : s.Ok N) (d sl : Nat) : (s.startSlot d sl).Ok N := by
  unfold Chip.startSlot
  repeat'
    first
    | with_reducible assumption | with_reducible apply Chip.enableSlot_ok | with_reducible apply Chip.modRet_ok
    | with_reducible apply Chip.enableWith_ok | with_reducible apply Chip.modSlot_ok
    | with_reducible apply Chip.ite_ok | intro _ _ _ _ | intro _ _ _ | split | dsimp only

theorem Chip.startEfe_ok {N : Nat} {s : Chip} (hk : s.Ok N) (d p : Nat) : (s.startEfe d p).Ok N := by
  unfold Chip.startEfe
  repeat'
    first
    | with_reducible assumption | with_reducible apply Chip.each_ok | with_reducible apply Chip.startSlot_ok
    | with_reducible apply Chip.each_ok | intro _ _ _ _ | intro _ _ _ | dsimp only

theorem Chip.portLate_ok {N : Nat} {s : Chip} (hk : s.Ok N) (d p : Nat) : (s.portLate d p).Ok N := by
  unfold Chip.portLate
  extract_lets +onlyGivenNames st
  clear_value st
  repeat'
    first
    | with_reducible assumption | with_reducible apply Chip.raiseF2_ok | with_reducible apply Chip.modPort_ok
    | with_reducible apply Chip.ite_ok | intro _ _ _ _ | intro _ _ _ | dsimp only

theorem Chip.snapName_ok {N : Nat} {s : Chip} (hk : s.Ok N) : (s.snapName).Ok N := by
  unfold Chip.snapName
  repeat'
    first
    | with_reducible assumption | with_reducible apply Chip.ite_ok | dsimp only | with_reducible apply tabPut_wf
    | with_reducible apply tabClear_wf | with_reducible apply tabFilter_wf | with_reducible apply tabMap_wf
    | with_reducible apply tabWf_nil | with_reducible apply emptyLog | with_reducible apply Chip.Ok.count
    | with_reducible apply Chip.Ok.log | with_reducible apply Chip.Ok.regs | with_reducible apply Chip.Ok.shadow
    | with_reducible apply Chip.Ok.staged | with_reducible apply Chip.Ok.lib | with_reducible apply Chip.Ok.poison
    | with_reducible apply Chip.Ok.libLive | with_reducible apply Chip.Ok.libStaged
    | with_reducible apply Chip.Ok.volStage | with_reducible apply Chip.Ok.dies | with_reducible apply Chip.Ok.cals
    | with_reducible apply Chip.Ok.slots | with_reducible apply Chip.Ok.ports | with_reducible apply Chip.Ok.vols
    | with_reducible apply Chip.Ok.rets | with_reducible apply Chip.Ok.hosts | with_reducible apply Chip.Ok.of

theorem Chip.showWriting_ok {N : Nat} {s : Chip} (hk : s.Ok N) : (s.showWriting).Ok N := by
  unfold Chip.showWriting
  repeat'
    first
    | with_reducible assumption | with_reducible apply Chip.setB_ok | intro _ _ _ _ | intro _ _ _ | dsimp only

theorem Chip.snapDone_ok {N : Nat} {s : Chip} (hk : s.Ok N) (d : Nat) (fail : Bool) : (s.snapDone d fail).Ok N := by
  unfold Chip.snapDone
  repeat'
    first
    | with_reducible assumption | with_reducible apply Chip.modRet_ok | with_reducible apply Chip.raise_ok
    | with_reducible apply Chip.showWriting_ok | with_reducible apply Chip.set_ok
    | with_reducible apply Chip.ite_ok | intro _ _ _ _ | intro _ _ _ | split | dsimp only

theorem Chip.snapCapture_ok {N : Nat} {s : Chip} (hk : s.Ok N) : (s.snapCapture).Ok N := by
  unfold Chip.snapCapture
  repeat'
    first
    | with_reducible assumption | with_reducible apply Chip.each_ok | with_reducible apply Chip.snapDone_ok
    | with_reducible apply Chip.modRet_ok | with_reducible apply Chip.showWriting_ok
    | with_reducible apply Chip.ite_ok | with_reducible apply Chip.each_ok | intro _ _ _ _ | intro _ _ _ | split
    | dsimp only | with_reducible apply tabPut_wf | with_reducible apply tabClear_wf
    | with_reducible apply tabFilter_wf | with_reducible apply tabMap_wf | with_reducible apply tabWf_nil
    | with_reducible apply emptyLog | with_reducible apply Chip.Ok.count | with_reducible apply Chip.Ok.log
    | with_reducible apply Chip.Ok.regs | with_reducible apply Chip.Ok.shadow | with_reducible apply Chip.Ok.staged
    | with_reducible apply Chip.Ok.lib | with_reducible apply Chip.Ok.poison | with_reducible apply Chip.Ok.libLive
    | with_reducible apply Chip.Ok.libStaged | with_reducible apply Chip.Ok.volStage
    | with_reducible apply Chip.Ok.dies | with_reducible apply Chip.Ok.cals | with_reducible apply Chip.Ok.slots
    | with_reducible apply Chip.Ok.ports | with_reducible apply Chip.Ok.vols | with_reducible apply Chip.Ok.rets
    | with_reducible apply Chip.Ok.hosts | with_reducible apply Chip.Ok.of

theorem Chip.restart_ok {N : Nat} {s : Chip} (hk : s.Ok N) : (s.restart).Ok N := by
  unfold Chip.restart
  repeat'
    first
    | with_reducible assumption | with_reducible apply Chip.afterReset_ok | with_reducible apply Chip.release_ok

theorem Chip.imgCtrl_ok {N : Nat} {s : Chip} (hk : s.Ok N) (v : Word) : (s.imgCtrl v).Ok N := by
  unfold Chip.imgCtrl
  repeat'
    first
    | with_reducible assumption | with_reducible apply Chip.snapName_ok | with_reducible apply Chip.modImage_ok
    | with_reducible apply Chip.restart_ok | with_reducible apply Chip.ite_ok | intro _ _ _ _ | intro _ _ _
    | dsimp only

theorem Chip.forget_ok {N : Nat} {s : Chip} (hk : s.Ok N) : (s.forget).Ok N := by
  unfold Chip.forget
  extract_lets +onlyGivenNames blank
  clear_value blank
  repeat'
    first
    | with_reducible assumption | with_reducible apply Chip.each_ok | with_reducible apply Chip.modRet_ok
    | with_reducible apply Chip.showWriting_ok | with_reducible apply Chip.set_ok
    | with_reducible apply Chip.each_ok | intro _ _ _ _ | intro _ _ _ | dsimp only

theorem Chip.retCtrl_ok {N : Nat} {s : Chip} (hk : s.Ok N) (v : Word) : (s.retCtrl v).Ok N := by
  unfold Chip.retCtrl
  extract_lets +onlyGivenNames s
  have hs : Chip.Ok N s := by
    dsimp only [s]
    repeat'
      first
      | with_reducible assumption | with_reducible apply Chip.forget_ok | with_reducible apply Chip.ite_ok
      | dsimp only
  clear_value s
  repeat'
    first
    | with_reducible assumption | with_reducible apply Chip.snapName_ok | with_reducible apply Chip.ite_ok

theorem Chip.trimAdd_ok {N : Nat} {s : Chip} (hk : s.Ok N) (d : Nat) (p : Nat × Nat) : (s.trimAdd d p).Ok N := by
  unfold Chip.trimAdd
  extract_lets +onlyGivenNames r
  clear_value r
  repeat'
    first
    | with_reducible assumption | with_reducible apply Chip.setRet_ok | with_reducible apply Chip.set_ok
    | with_reducible apply Chip.raise_ok | with_reducible apply Chip.ite_ok | dsimp only

theorem Chip.trimTick_ok {N : Nat} {s : Chip} (hk : s.Ok N)
    (env : List Sys2Proof.DieTick) :
    (s.trimTick env).Ok N := by
  unfold Chip.trimTick
  repeat'
    first
    | with_reducible assumption | with_reducible apply Chip.each_ok | with_reducible apply Chip.raise_ok
    | with_reducible apply Chip.trimAdd_ok | with_reducible apply Chip.set_ok | with_reducible apply Chip.ite_ok
    | with_reducible apply Chip.each_ok | intro _ _ _ _ | intro _ _ _ | dsimp only | with_reducible apply tabPut_wf
    | with_reducible apply tabClear_wf | with_reducible apply tabFilter_wf | with_reducible apply tabMap_wf
    | with_reducible apply tabWf_nil | with_reducible apply emptyLog | with_reducible apply Chip.Ok.count
    | with_reducible apply Chip.Ok.log | with_reducible apply Chip.Ok.regs | with_reducible apply Chip.Ok.shadow
    | with_reducible apply Chip.Ok.staged | with_reducible apply Chip.Ok.lib | with_reducible apply Chip.Ok.poison
    | with_reducible apply Chip.Ok.libLive | with_reducible apply Chip.Ok.libStaged
    | with_reducible apply Chip.Ok.volStage | with_reducible apply Chip.Ok.dies | with_reducible apply Chip.Ok.cals
    | with_reducible apply Chip.Ok.slots | with_reducible apply Chip.Ok.ports | with_reducible apply Chip.Ok.vols
    | with_reducible apply Chip.Ok.rets | with_reducible apply Chip.Ok.hosts | with_reducible apply Chip.Ok.of

theorem Chip.emergency_ok {N : Nat} {s : Chip} (hk : s.Ok N) (d : Nat) : (s.emergency d).Ok N := by
  unfold Chip.emergency
  extract_lets +onlyGivenNames a
  clear_value a
  extract_lets +onlyGivenNames b
  clear_value b
  extract_lets +onlyGivenNames src x
  clear_value src
  clear_value x
  repeat'
    first
    | with_reducible assumption | with_reducible apply Chip.modRet_ok | with_reducible apply Chip.ite_ok
    | intro _ _ _ _ | intro _ _ _ | dsimp only | with_reducible apply tabPut_wf | with_reducible apply tabClear_wf
    | with_reducible apply tabFilter_wf | with_reducible apply tabMap_wf | with_reducible apply tabWf_nil
    | with_reducible apply emptyLog | with_reducible apply Chip.Ok.count | with_reducible apply Chip.Ok.log
    | with_reducible apply Chip.Ok.regs | with_reducible apply Chip.Ok.shadow | with_reducible apply Chip.Ok.staged
    | with_reducible apply Chip.Ok.lib | with_reducible apply Chip.Ok.poison | with_reducible apply Chip.Ok.libLive
    | with_reducible apply Chip.Ok.libStaged | with_reducible apply Chip.Ok.volStage
    | with_reducible apply Chip.Ok.dies | with_reducible apply Chip.Ok.cals | with_reducible apply Chip.Ok.slots
    | with_reducible apply Chip.Ok.ports | with_reducible apply Chip.Ok.vols | with_reducible apply Chip.Ok.rets
    | with_reducible apply Chip.Ok.hosts | with_reducible apply Chip.Ok.of

theorem Chip.supplyWarning_ok {N : Nat} {s : Chip} (hk : s.Ok N) : (s.supplyWarning).Ok N := by
  unfold Chip.supplyWarning
  extract_lets +onlyGivenNames s
  have hs : Chip.Ok N s := by
    dsimp only [s]
    repeat'
      first
      | with_reducible assumption | with_reducible apply Chip.raise_ok | dsimp only
  clear_value s
  repeat'
    first
    | with_reducible assumption | with_reducible apply Chip.each_ok | with_reducible apply Chip.emergency_ok
    | with_reducible apply Chip.showWriting_ok | with_reducible apply Chip.raise_ok
    | with_reducible apply Chip.ite_ok | with_reducible apply Chip.each_ok | intro _ _ _ _ | intro _ _ _
    | dsimp only

theorem Chip.storeTick_ok {N : Nat} {s : Chip} (hk : s.Ok N) (d : Nat) (bad : Bool) : (s.storeTick d bad).Ok N := by
  unfold Chip.storeTick
  dsimp only
  repeat'
    first
    | with_reducible assumption | with_reducible apply Chip.modRet_ok | with_reducible apply Chip.set_ok
    | with_reducible apply Chip.raise_ok | with_reducible apply Chip.snapDone_ok | with_reducible apply Chip.ite_ok
    | intro _ _ _ _ | intro _ _ _ | split | dsimp only

theorem Chip.storeLoses_ok {N : Nat} {s : Chip} (hk : s.Ok N)
    (d : Nat) (x : Sys2Proof.StorePart) :
    (s.storeLoses d x).Ok N := by
  unfold Chip.storeLoses
  repeat'
    first
    | with_reducible assumption | with_reducible apply Chip.modRet_ok | with_reducible apply Chip.emergency_ok
    | with_reducible apply Chip.set_ok | with_reducible apply Chip.modCal_ok | with_reducible apply Chip.setLog_ok
    | intro _ _ _ _ | intro _ _ _ | split | dsimp only

end Sys2Proof.Machine
end

