-- ==== Sys2Proof/Laws/Ok/HostPort.lean ====
section
/-!
SUPPORT. Laws/Ok/HostPort.lean: every operation of Machine/HostPort.lean keeps a package in good order.
-/

namespace Sys2Proof.Machine

theorem Chip.setHost_ok {N : Nat} {s : Chip} (hk : s.Ok N) (p : Nat) (r : HostRec) : (s.setHost p r).Ok N := by
  unfold Chip.setHost
  repeat'
    first
    | with_reducible assumption | intro _ _ _ _ | intro _ _ _ | dsimp only | with_reducible apply tabPut_wf
    | with_reducible apply tabClear_wf | with_reducible apply tabFilter_wf | with_reducible apply tabMap_wf
    | with_reducible apply tabWf_nil | with_reducible apply emptyLog | with_reducible apply Chip.Ok.count
    | with_reducible apply Chip.Ok.log | with_reducible apply Chip.Ok.regs | with_reducible apply Chip.Ok.shadow
    | with_reducible apply Chip.Ok.staged | with_reducible apply Chip.Ok.lib | with_reducible apply Chip.Ok.poison
    | with_reducible apply Chip.Ok.libLive | with_reducible apply Chip.Ok.libStaged
    | with_reducible apply Chip.Ok.volStage | with_reducible apply Chip.Ok.dies | with_reducible apply Chip.Ok.cals
    | with_reducible apply Chip.Ok.slots | with_reducible apply Chip.Ok.ports | with_reducible apply Chip.Ok.vols
    | with_reducible apply Chip.Ok.rets | with_reducible apply Chip.Ok.hosts | with_reducible apply Chip.Ok.of

theorem Chip.modHost_ok {N : Nat} {s : Chip} (hk : s.Ok N)
    (p : Nat) (f : HostRec → HostRec) :
    (s.modHost p f).Ok N := by
  unfold Chip.modHost
  repeat'
    first
    | with_reducible assumption | with_reducible apply Chip.setHost_ok

theorem Chip.linkDown_ok {N : Nat} {s : Chip} (hk : s.Ok N) (p : Nat) : (s.linkDown p).Ok N := by
  unfold Chip.linkDown
  repeat'
    first
    | with_reducible assumption | with_reducible apply Chip.set_ok

theorem Chip.showHosts_ok {N : Nat} {s : Chip} (hk : s.Ok N) : (s.showHosts).Ok N := by
  unfold Chip.showHosts
  repeat'
    first
    | with_reducible assumption | with_reducible apply Chip.each_ok | with_reducible apply Chip.setB_ok
    | with_reducible apply Chip.linkDown_ok | with_reducible apply Chip.ite_ok | with_reducible apply Chip.each_ok
    | intro _ _ _ _ | intro _ _ _ | dsimp only

theorem Chip.showEcrc_ok {N : Nat} {s : Chip} (hk : s.Ok N) (p : Nat) : (s.showEcrc p).Ok N := by
  unfold Chip.showEcrc
  repeat'
    first
    | with_reducible assumption | with_reducible apply Chip.setB_ok

theorem Chip.hostLinkUp_ok {N : Nat} {s : Chip} (hk : s.Ok N)
    (p speed lanes : Nat) :
    (s.hostLinkUp p speed lanes).Ok N := by
  unfold Chip.hostLinkUp
  repeat'
    first
    | with_reducible assumption | with_reducible apply Chip.modHost_ok | with_reducible apply Chip.set_ok
    | with_reducible apply Chip.showHosts_ok | with_reducible apply Chip.resync_ok
    | with_reducible apply Chip.ite_ok | intro _ _ _ _ | intro _ _ _ | dsimp only

theorem Chip.groupEnd_ok {N : Nat} {s : Chip} (hk : s.Ok N) (p result : Nat) : (s.groupEnd p result).Ok N := by
  unfold Chip.groupEnd
  repeat'
    first
    | with_reducible assumption | with_reducible apply Chip.modHost_ok | with_reducible apply Chip.setReg_ok
    | intro _ _ _ _ | intro _ _ _ | dsimp only

theorem Chip.hostReset_ok {N : Nat} {s : Chip} (hk : s.Ok N)
    (p tlps reason : Nat) :
    (s.hostReset p tlps reason).Ok N := by
  unfold Chip.hostReset
  extract_lets +onlyGivenNames s
  have hs : Chip.Ok N s := by
    dsimp only [s]
    repeat'
      first
      | with_reducible assumption | with_reducible apply Chip.sessEnd_ok | with_reducible apply Chip.ite_ok
      | dsimp only
  clear_value s
  extract_lets +onlyGivenNames s
  have hs : Chip.Ok N s := by
    dsimp only [s]
    repeat'
      first
      | with_reducible assumption | with_reducible apply Chip.heldDrop_ok | dsimp only
  clear_value s
  extract_lets +onlyGivenNames s
  have hs : Chip.Ok N s := by
    dsimp only [s]
    repeat'
      first
      | with_reducible assumption | with_reducible apply Chip.groupEnd_ok | with_reducible apply Chip.raise_ok
      | with_reducible apply Chip.ite_ok | dsimp only
  clear_value s
  extract_lets +onlyGivenNames s
  have hs : Chip.Ok N s := by
    dsimp only [s]
    repeat'
      first
      | with_reducible assumption | with_reducible apply Chip.modHost_ok | intro _ _ _ _ | intro _ _ _ | dsimp only
  clear_value s
  extract_lets +onlyGivenNames s
  have hs : Chip.Ok N s := by
    dsimp only [s]
    repeat'
      first
      | with_reducible assumption | with_reducible apply Chip.set_ok | dsimp only
  clear_value s
  extract_lets +onlyGivenNames s
  have hs : Chip.Ok N s := by
    dsimp only [s]
    repeat'
      first
      | with_reducible assumption | with_reducible apply Chip.showEcrc_ok | with_reducible apply Chip.setReg_ok
      | dsimp only
  clear_value s
  repeat'
    first
    | with_reducible assumption | with_reducible apply Chip.bump_ok | with_reducible apply Chip.raise_ok
    | with_reducible apply Chip.farReset_ok

theorem Chip.hostDown_ok {N : Nat} {s : Chip} (hk : s.Ok N)
    (p tlps reason : Nat) :
    (s.hostDown p tlps reason).Ok N := by
  unfold Chip.hostDown
  repeat'
    first
    | with_reducible assumption | with_reducible apply Chip.hostReset_ok | with_reducible apply Chip.linkDown_ok
    | with_reducible apply Chip.bump_ok | with_reducible apply Chip.showHosts_ok

theorem Chip.flrBegin_ok {N : Nat} {s : Chip} (hk : s.Ok N) (p tlps : Nat) : (s.flrBegin p tlps).Ok N := by
  unfold Chip.flrBegin
  repeat'
    first
    | with_reducible assumption | with_reducible apply Chip.hostReset_ok | with_reducible apply Chip.bump_ok
    | with_reducible apply Chip.modHost_ok | intro _ _ _ _ | intro _ _ _ | dsimp only

theorem Chip.hostPower_ok {N : Nat} {s : Chip} (hk : s.Ok N) (p : Nat) (d3 : Bool) : (s.hostPower p d3).Ok N := by
  unfold Chip.hostPower
  repeat'
    first
    | with_reducible assumption | with_reducible apply Chip.modHost_ok | with_reducible apply Chip.setB_ok
    | intro _ _ _ _ | intro _ _ _ | dsimp only

theorem Chip.msixSend_ok {N : Nat} {s : Chip} (hk : s.Ok N) (p k : Nat) : (s.msixSend p k).Ok N := by
  unfold Chip.msixSend
  repeat'
    first
    | with_reducible assumption | with_reducible apply Chip.modHost_ok | with_reducible apply Chip.bump_ok
    | intro _ _ _ _ | intro _ _ _ | dsimp only

theorem Chip.msixDue_ok {N : Nat} {s : Chip} (hk : s.Ok N) (p k : Nat) : (s.msixDue p k).Ok N := by
  unfold Chip.msixDue
  repeat'
    first
    | with_reducible assumption | with_reducible apply Chip.msixSend_ok | with_reducible apply Chip.modHost_ok
    | with_reducible apply Chip.ite_ok | intro _ _ _ _ | intro _ _ _ | dsimp only

theorem Chip.msixMessage_ok {N : Nat} {s : Chip} (hk : s.Ok N) (k : Nat) : (s.msixMessage k).Ok N := by
  unfold Chip.msixMessage
  repeat'
    first
    | with_reducible assumption | with_reducible apply Chip.msixDue_ok | with_reducible apply Chip.ite_ok
    | dsimp only | with_reducible apply tabPut_wf | with_reducible apply tabClear_wf
    | with_reducible apply tabFilter_wf | with_reducible apply tabMap_wf | with_reducible apply tabWf_nil
    | with_reducible apply emptyLog | with_reducible apply Chip.Ok.count | with_reducible apply Chip.Ok.log
    | with_reducible apply Chip.Ok.regs | with_reducible apply Chip.Ok.shadow | with_reducible apply Chip.Ok.staged
    | with_reducible apply Chip.Ok.lib | with_reducible apply Chip.Ok.poison | with_reducible apply Chip.Ok.libLive
    | with_reducible apply Chip.Ok.libStaged | with_reducible apply Chip.Ok.volStage
    | with_reducible apply Chip.Ok.dies | with_reducible apply Chip.Ok.cals | with_reducible apply Chip.Ok.slots
    | with_reducible apply Chip.Ok.ports | with_reducible apply Chip.Ok.vols | with_reducible apply Chip.Ok.rets
    | with_reducible apply Chip.Ok.hosts | with_reducible apply Chip.Ok.of

theorem Chip.complete_ok {N : Nat} {s : Chip} (hk : s.Ok N)
    (p status : Nat) (data : List Word) :
    (s.complete p status data).Ok N := by
  unfold Chip.complete
  repeat'
    first
    | with_reducible assumption | with_reducible apply Chip.modHost_ok | intro _ _ _ _ | intro _ _ _ | dsimp only

theorem Chip.aerSet_ok {N : Nat} {s : Chip} (hk : s.Ok N) (p b : Nat) : (s.aerSet p b).Ok N := by
  unfold Chip.aerSet
  repeat'
    first
    | with_reducible assumption | with_reducible apply Chip.modHost_ok | intro _ _ _ _ | intro _ _ _ | dsimp only

theorem Chip.observe_ok {N : Nat} {s : Chip} (hk : s.Ok N) (p : Nat) (lib : Bool) : (s.observe p lib).Ok N := by
  unfold Chip.observe
  extract_lets +onlyGivenNames x
  clear_value x
  extract_lets +onlyGivenNames y
  clear_value y
  repeat'
    first
    | with_reducible assumption | with_reducible apply Chip.took_ok | intro _ _ _ _ | intro _ _ _ | dsimp only
    | with_reducible apply tabPut_wf | with_reducible apply tabClear_wf | with_reducible apply tabFilter_wf
    | with_reducible apply tabMap_wf | with_reducible apply tabWf_nil | with_reducible apply emptyLog
    | with_reducible apply Chip.Ok.count | with_reducible apply Chip.Ok.log | with_reducible apply Chip.Ok.regs
    | with_reducible apply Chip.Ok.shadow | with_reducible apply Chip.Ok.staged | with_reducible apply Chip.Ok.lib
    | with_reducible apply Chip.Ok.poison | with_reducible apply Chip.Ok.libLive
    | with_reducible apply Chip.Ok.libStaged | with_reducible apply Chip.Ok.volStage
    | with_reducible apply Chip.Ok.dies | with_reducible apply Chip.Ok.cals | with_reducible apply Chip.Ok.slots
    | with_reducible apply Chip.Ok.ports | with_reducible apply Chip.Ok.vols | with_reducible apply Chip.Ok.rets
    | with_reducible apply Chip.Ok.hosts | with_reducible apply Chip.Ok.of

theorem Chip.cfgWrite_ok {N : Nat} {s : Chip} (hk : s.Ok N)
    (p : Nat) (r : Sys2Proof.CfgReg) (v : Word) :
    (s.cfgWrite p r v).Ok N := by
  unfold Chip.cfgWrite
  extract_lets +onlyGivenNames x
  clear_value x
  repeat'
    first
    | with_reducible assumption | with_reducible apply Chip.modHost_ok | with_reducible apply Chip.setB_ok
    | with_reducible apply Chip.hostPower_ok | with_reducible apply Chip.showEcrc_ok
    | with_reducible apply Chip.flrBegin_ok | with_reducible apply Chip.ite_ok | intro _ _ _ _ | intro _ _ _
    | split | dsimp only

theorem Chip.unsupported_ok {N : Nat} {s : Chip} (hk : s.Ok N) (p : Nat) : (s.unsupported p).Ok N := by
  unfold Chip.unsupported
  repeat'
    first
    | with_reducible assumption | with_reducible apply Chip.complete_ok | with_reducible apply Chip.aerSet_ok
    | with_reducible apply Chip.bump_ok

end Sys2Proof.Machine
end

