-- ==== Sys2Proof/Laws/Ok/Fault.lean ====
section
/-!
SUPPORT. Laws/Ok/Fault.lean: every operation of Machine/Fault.lean keeps a package in good order.
-/

namespace Sys2Proof.Machine

theorem Chip.modRejoin_ok {N : Nat} {s : Chip} (hk : s.Ok N)
    (d : Nat) (f : RejoinRec → RejoinRec) :
    (s.modRejoin d f).Ok N := by
  unfold Chip.modRejoin
  repeat'
    first
    | with_reducible assumption | with_reducible apply Chip.modFault_ok | intro _ _ _ _ | intro _ _ _ | dsimp only

theorem Chip.f1All_ok {N : Nat} {s : Chip} (hk : s.Ok N) (l : List Nat) (src : Nat) : (s.f1All l src).Ok N := by
  unfold Chip.f1All
  repeat'
    first
    | with_reducible assumption | with_reducible apply Chip.each_ok | with_reducible apply Chip.raiseF1_ok
    | with_reducible apply Chip.each_ok | intro _ _ _ _ | intro _ _ _ | dsimp only

theorem Chip.releaseRole_ok {N : Nat} {s : Chip} (hk : s.Ok N) : (s.releaseRole).Ok N := by
  unfold Chip.releaseRole
  repeat'
    first
    | with_reducible assumption | with_reducible apply Chip.each_ok | with_reducible apply Chip.leaseFree_ok
    | with_reducible apply Chip.each_ok | intro _ _ _ _ | intro _ _ _ | dsimp only

theorem Chip.partCheck_ok {N : Nat} {s : Chip} (hk : s.Ok N) : (s.partCheck).Ok N := by
  unfold Chip.partCheck
  extract_lets +onlyGivenNames part
  clear_value part
  extract_lets +onlyGivenNames s
  have hs : Chip.Ok N s := by
    dsimp only [s]
    repeat'
      first
      | with_reducible assumption | with_reducible apply Chip.set_ok | dsimp only
  clear_value s
  repeat'
    first
    | with_reducible assumption | with_reducible apply Chip.set_ok | with_reducible apply Chip.raise_ok
    | with_reducible apply Chip.raiseF0_ok | with_reducible apply Chip.f1All_ok
    | with_reducible apply Chip.releaseRole_ok | with_reducible apply Chip.ite_ok | intro _ _ _ _ | intro _ _ _
    | dsimp only

theorem Chip.showFabric_ok {N : Nat} {s : Chip} (hk : s.Ok N) : (s.showFabric).Ok N := by
  unfold Chip.showFabric
  extract_lets +onlyGivenNames m
  clear_value m
  extract_lets +onlyGivenNames s
  have hs : Chip.Ok N s := by
    dsimp only [s]
    repeat'
      first
      | with_reducible assumption | with_reducible apply Chip.set_ok | with_reducible apply Chip.setB_ok
      | dsimp only
  clear_value s
  repeat'
    first
    | with_reducible assumption | with_reducible apply Chip.set_ok | with_reducible apply Chip.ite_ok

theorem Chip.hopFails_ok {N : Nat} {s : Chip} (hk : s.Ok N) (h : Nat) : (s.hopFails h).Ok N := by
  unfold Chip.hopFails
  repeat'
    first
    | with_reducible assumption | with_reducible apply Chip.raise_ok | with_reducible apply Chip.bump_ok
    | with_reducible apply Chip.logF3_ok | with_reducible apply Chip.modFault_ok
    | with_reducible apply Chip.showFabric_ok | with_reducible apply Chip.partCheck_ok
    | with_reducible apply Chip.ite_ok | intro _ _ _ _ | intro _ _ _ | dsimp only

theorem Chip.flitFail_ok {N : Nat} {s : Chip} (hk : s.Ok N) (r : Sys2Proof.FlitRx) : (s.flitFail r).Ok N := by
  unfold Chip.flitFail
  extract_lets +onlyGivenNames k
  clear_value k
  extract_lets +onlyGivenNames n
  clear_value n
  extract_lets +onlyGivenNames s
  have hs : Chip.Ok N s := by
    dsimp only [s]
    repeat'
      first
      | with_reducible assumption | with_reducible apply Chip.bump_ok | with_reducible apply Chip.hop_ok
      | dsimp only
  clear_value s
  extract_lets +onlyGivenNames note
  subst note
  repeat'
    first
    | with_reducible assumption | with_reducible apply Chip.hopFails_ok | with_reducible apply Chip.hop_ok
    | with_reducible apply Chip.bump_ok | with_reducible apply Chip.raise_ok
    | with_reducible apply Chip.modFault_ok | with_reducible apply Chip.ite_ok | intro _ _ _ _ | intro _ _ _
    | dsimp only

theorem Chip.hopRetrained_ok {N : Nat} {s : Chip} (hk : s.Ok N)
    (h errors : Nat) :
    (s.hopRetrained h errors).Ok N := by
  unfold Chip.hopRetrained
  repeat'
    first
    | with_reducible assumption | with_reducible apply Chip.modFault_ok | with_reducible apply Chip.ite_ok
    | intro _ _ _ _ | intro _ _ _ | dsimp only

theorem Chip.unwrap_ok {N : Nat} {s : Chip} (hk : s.Ok N) : (s.unwrap).Ok N := by
  unfold Chip.unwrap
  repeat'
    first
    | with_reducible assumption | with_reducible apply Chip.modFault_ok | with_reducible apply Chip.showFabric_ok
    | with_reducible apply Chip.raise_ok | with_reducible apply Chip.partCheck_ok
    | with_reducible apply Chip.ite_ok | intro _ _ _ _ | intro _ _ _ | split | dsimp only

theorem Chip.sessLapse_ok {N : Nat} {s : Chip} (hk : s.Ok N) : (s.sessLapse).Ok N := by
  unfold Chip.sessLapse
  repeat'
    first
    | with_reducible assumption | with_reducible apply Chip.sessEnd_ok | with_reducible apply Chip.ite_ok

theorem Chip.lapse_ok {N : Nat} {s : Chip} (hk : s.Ok N) (k : Nat) : (s.lapse k).Ok N := by
  unfold Chip.lapse
  repeat'
    first
    | with_reducible assumption | with_reducible apply Chip.leaseFree_ok | with_reducible apply Chip.bump_ok
    | with_reducible apply Chip.raise_ok | with_reducible apply Chip.sessLapse_ok
    | with_reducible apply Chip.ite_ok | dsimp only

theorem Chip.renew_ok {N : Nat} {s : Chip} (hk : s.Ok N) (k : Nat) : (s.renew k).Ok N := by
  unfold Chip.renew
  repeat'
    first
    | with_reducible assumption | with_reducible apply Chip.modLease_ok | with_reducible apply Chip.grant_ok
    | with_reducible apply Chip.ite_ok | intro _ _ _ _ | intro _ _ _ | dsimp only

theorem Chip.selfHold_ok {N : Nat} {s : Chip} (hk : s.Ok N) : (s.selfHold).Ok N := by
  unfold Chip.selfHold
  repeat'
    first
    | with_reducible assumption | with_reducible apply Chip.each_ok | with_reducible apply Chip.modLease_ok
    | with_reducible apply Chip.ite_ok | with_reducible apply Chip.each_ok | intro _ _ _ _ | intro _ _ _
    | dsimp only

theorem Chip.arbiterBack_ok {N : Nat} {s : Chip} (hk : s.Ok N) (was : List Nat) : (s.arbiterBack was).Ok N := by
  unfold Chip.arbiterBack
  repeat'
    first
    | with_reducible assumption | with_reducible apply Chip.each_ok | with_reducible apply Chip.modLease_ok
    | with_reducible apply Chip.each_ok | intro _ _ _ _ | intro _ _ _ | dsimp only

theorem Chip.leaseStop_ok {N : Nat} {s : Chip} (hk : s.Ok N) (k : Nat) : (s.leaseStop k).Ok N := by
  unfold Chip.leaseStop
  extract_lets +onlyGivenNames l
  clear_value l
  repeat'
    first
    | with_reducible assumption | with_reducible apply Chip.modLease_ok | with_reducible apply Chip.ite_ok
    | intro _ _ _ _ | intro _ _ _ | dsimp only

theorem Chip.takeRole_ok {N : Nat} {s : Chip} (hk : s.Ok N) (v : Nat) : (s.takeRole v).Ok N := by
  unfold Chip.takeRole
  extract_lets +onlyGivenNames old
  clear_value old
  extract_lets +onlyGivenNames s
  have hs : Chip.Ok N s := by
    dsimp only [s]
    repeat'
      first
      | with_reducible assumption | with_reducible apply Chip.setRoles_ok | with_reducible apply Chip.set_ok
      | dsimp only
  clear_value s
  extract_lets +onlyGivenNames s
  have hs : Chip.Ok N s := by
    dsimp only [s]
    repeat'
      first
      | with_reducible assumption | with_reducible apply Chip.each_ok | with_reducible apply Chip.grant_ok
      | with_reducible apply Chip.ite_ok | with_reducible apply Chip.each_ok | intro _ _ _ _ | intro _ _ _
      | dsimp only
  clear_value s
  extract_lets +onlyGivenNames s
  have hs : Chip.Ok N s := by
    dsimp only [s]
    repeat'
      first
      | with_reducible assumption | with_reducible apply Chip.each_ok | with_reducible apply Chip.grant_ok
      | with_reducible apply Chip.ite_ok | with_reducible apply Chip.each_ok | intro _ _ _ _ | intro _ _ _
      | dsimp only
  clear_value s
  extract_lets +onlyGivenNames s
  have hs : Chip.Ok N s := by
    dsimp only [s]
    repeat'
      first
      | with_reducible assumption | with_reducible apply Chip.raise_ok | with_reducible apply Chip.bump_ok
      | dsimp only
  clear_value s
  repeat'
    first
    | with_reducible assumption | with_reducible apply Chip.modTime_ok | with_reducible apply Chip.showFuses_ok
    | intro _ _ _ _ | intro _ _ _ | dsimp only

theorem Chip.imageAgain_ok {N : Nat} {s : Chip} (hk : s.Ok N) : (s.imageAgain).Ok N := by
  unfold Chip.imageAgain
  repeat'
    first
    | with_reducible assumption | with_reducible apply Chip.leaseFree_ok | with_reducible apply Chip.set_ok
    | with_reducible apply Chip.modImage_ok | with_reducible apply Chip.ite_ok | intro _ _ _ _ | intro _ _ _
    | split | dsimp only

theorem Chip.captainLoss_ok {N : Nat} {s : Chip} (hk : s.Ok N) (lost : Bool) : (s.captainLoss lost).Ok N := by
  unfold Chip.captainLoss
  extract_lets +onlyGivenNames old
  clear_value old
  extract_lets +onlyGivenNames s
  have hs : Chip.Ok N s := by
    dsimp only [s]
    repeat'
      first
      | with_reducible assumption | with_reducible apply Chip.commitLost_ok | dsimp only
  clear_value s
  extract_lets +onlyGivenNames s
  have hs : Chip.Ok N s := by
    dsimp only [s]
    repeat'
      first
      | with_reducible assumption | with_reducible apply Chip.each_ok | with_reducible apply Chip.lapse_ok
      | with_reducible apply Chip.each_ok | intro _ _ _ _ | intro _ _ _ | dsimp only
  clear_value s
  extract_lets +onlyGivenNames s
  have hs : Chip.Ok N s := by
    dsimp only [s]
    repeat'
      first
      | with_reducible assumption | with_reducible apply Chip.sessLapse_ok | dsimp only
  clear_value s
  extract_lets +onlyGivenNames v
  clear_value v
  extract_lets +onlyGivenNames own
  clear_value own
  extract_lets +onlyGivenNames all
  clear_value all
  repeat'
    first
    | with_reducible assumption | with_reducible apply Chip.raiseF0_ok | with_reducible apply Chip.takeRole_ok
    | with_reducible apply Chip.volTakeover_ok | with_reducible apply Chip.imageAgain_ok
    | with_reducible apply Chip.partCheck_ok | with_reducible apply Chip.pinsLow_ok
    | with_reducible apply Chip.ite_ok | dsimp only

theorem Chip.handover_ok {N : Nat} {s : Chip} (hk : s.Ok N) : (s.handover).Ok N := by
  unfold Chip.handover
  repeat'
    first
    | with_reducible assumption | with_reducible apply Chip.takeRole_ok | with_reducible apply Chip.ite_ok

theorem Chip.leaseLapse_ok {N : Nat} {s : Chip} (hk : s.Ok N) (k : Nat) : (s.leaseLapse k).Ok N := by
  unfold Chip.leaseLapse
  extract_lets +onlyGivenNames l
  clear_value l
  repeat'
    first
    | with_reducible assumption | with_reducible apply Chip.lapse_ok | with_reducible apply Chip.commitLost_ok
    | with_reducible apply Chip.takeRole_ok | with_reducible apply Chip.volTakeover_ok
    | with_reducible apply Chip.imageAgain_ok | with_reducible apply Chip.ite_ok | dsimp only

theorem Chip.dropBench_ok {N : Nat} {s : Chip} (hk : s.Ok N) (d : Nat) : (s.dropBench d).Ok N := by
  unfold Chip.dropBench
  extract_lets +onlyGivenNames s
  have hs : Chip.Ok N s := by
    dsimp only [s]
    repeat'
      first
      | with_reducible assumption | with_reducible apply Chip.set_ok | dsimp only
  clear_value s
  repeat'
    first
    | with_reducible assumption | with_reducible apply Chip.each_ok | with_reducible apply Chip.set_ok
    | with_reducible apply Chip.each_ok | intro _ _ _ _ | intro _ _ _ | dsimp only

theorem Chip.dropPorts_ok {N : Nat} {s : Chip} (hk : s.Ok N)
    (d : Nat) (ordered : Bool) :
    (s.dropPorts d ordered).Ok N := by
  unfold Chip.dropPorts
  repeat'
    first
    | with_reducible assumption | with_reducible apply Chip.each_ok | with_reducible apply Chip.portWarm_ok
    | with_reducible apply Chip.portOff_ok | with_reducible apply Chip.ite_ok | with_reducible apply Chip.each_ok
    | intro _ _ _ _ | intro _ _ _ | dsimp only

theorem Chip.dropStagedPart_ok {N : Nat} {s : Chip} (hk : s.Ok N) (d : Nat) : (s.dropStagedPart d).Ok N := by
  unfold Chip.dropStagedPart
  extract_lets +onlyGivenNames mine
  clear_value mine
  extract_lets +onlyGivenNames s
  have hs : Chip.Ok N s := by
    dsimp only [s]
    repeat'
      first
      | with_reducible assumption | with_reducible apply Chip.setStaged_ok | with_reducible apply Chip.foldl_ok
      | intro _ _ _ _ | intro _ _ _ | dsimp only
  clear_value s
  repeat'
    first
    | with_reducible assumption | with_reducible apply Chip.dropLive_ok

theorem Chip.volsRecheck_ok {N : Nat} {s : Chip} (hk : s.Ok N) : (s.volsRecheck).Ok N := by
  unfold Chip.volsRecheck
  repeat'
    first
    | with_reducible assumption | with_reducible apply Chip.each_ok | with_reducible apply Chip.setVst_ok
    | with_reducible apply Chip.ite_ok | with_reducible apply Chip.each_ok | intro _ _ _ _ | intro _ _ _
    | dsimp only

theorem Chip.leave_ok {N : Nat} {s : Chip} (hk : s.Ok N) (d : Nat) (ordered : Bool) : (s.leave d ordered).Ok N := by
  unfold Chip.leave
  extract_lets +onlyGivenNames s
  have hs : Chip.Ok N s := by
    dsimp only [s]
    repeat'
      first
      | with_reducible assumption | with_reducible apply Chip.each_ok | with_reducible apply Chip.calAbort_ok
      | with_reducible apply Chip.each_ok | intro _ _ _ _ | intro _ _ _ | dsimp only
  clear_value s
  extract_lets +onlyGivenNames src s
  have hsrc : Chip.Ok N src := by
    dsimp only [src]
    repeat'
      first
      | with_reducible assumption | with_reducible apply Chip.dropBench_ok | dsimp only
  clear_value src
  have hs : Chip.Ok N s := by
    dsimp only [s]
    repeat'
      first
      | with_reducible assumption | with_reducible apply Chip.dropBench_ok | dsimp only
      | with_reducible apply tabPut_wf | with_reducible apply tabClear_wf | with_reducible apply tabFilter_wf
      | with_reducible apply tabMap_wf | with_reducible apply tabWf_nil | with_reducible apply emptyLog
      | with_reducible apply Chip.Ok.count | with_reducible apply Chip.Ok.log | with_reducible apply Chip.Ok.regs
      | with_reducible apply Chip.Ok.shadow | with_reducible apply Chip.Ok.staged
      | with_reducible apply Chip.Ok.lib | with_reducible apply Chip.Ok.poison
      | with_reducible apply Chip.Ok.libLive | with_reducible apply Chip.Ok.libStaged
      | with_reducible apply Chip.Ok.volStage | with_reducible apply Chip.Ok.dies
      | with_reducible apply Chip.Ok.cals | with_reducible apply Chip.Ok.slots | with_reducible apply Chip.Ok.ports
      | with_reducible apply Chip.Ok.vols | with_reducible apply Chip.Ok.rets | with_reducible apply Chip.Ok.hosts
      | with_reducible apply Chip.Ok.of
  clear_value s
  extract_lets +onlyGivenNames s
  have hs : Chip.Ok N s := by
    dsimp only [s]
    repeat'
      first
      | with_reducible assumption | with_reducible apply Chip.dropPorts_ok
      | with_reducible apply Chip.ckoSideline_ok | with_reducible apply Chip.set_ok | dsimp only
  clear_value s
  extract_lets +onlyGivenNames s
  have hs : Chip.Ok N s := by
    dsimp only [s]
    repeat'
      first
      | with_reducible assumption | with_reducible apply Chip.ethDrop_ok | with_reducible apply Chip.hostDown_ok
      | with_reducible apply Chip.ite_ok | dsimp only
  clear_value s
  extract_lets +onlyGivenNames s
  have hs : Chip.Ok N s := by
    dsimp only [s]
    repeat'
      first
      | with_reducible assumption | with_reducible apply Chip.dropStagedPart_ok | with_reducible apply Chip.each_ok
      | with_reducible apply Chip.lapse_ok | with_reducible apply Chip.ite_ok | with_reducible apply Chip.each_ok
      | intro _ _ _ _ | intro _ _ _ | dsimp only
  clear_value s
  extract_lets +onlyGivenNames s
  have hs : Chip.Ok N s := by
    dsimp only [s]
    repeat'
      first
      | with_reducible assumption | with_reducible apply Chip.commitAccept_ok | with_reducible apply Chip.ite_ok
      | intro _ _ _ _ | intro _ _ _ | dsimp only
  clear_value s
  extract_lets +onlyGivenNames s
  have hs : Chip.Ok N s := by
    dsimp only [s]
    repeat'
      first
      | with_reducible assumption | with_reducible apply Chip.volsRecheck_ok | dsimp only
  clear_value s
  repeat'
    first
    | with_reducible assumption | with_reducible apply Chip.setRoles_ok | with_reducible apply Chip.selfHold_ok
    | with_reducible apply Chip.ite_ok

theorem Chip.updHit_ok {N : Nat} {s : Chip} (hk : s.Ok N) (d : Nat) : (s.updHit d).Ok N := by
  unfold Chip.updHit
  repeat'
    first
    | with_reducible assumption | with_reducible apply Chip.modFault_ok | with_reducible apply Chip.ite_ok
    | intro _ _ _ _ | intro _ _ _ | dsimp only

theorem Chip.sendOrder_ok {N : Nat} {s : Chip} (hk : s.Ok N) (d : Nat) : (s.sendOrder d).Ok N := by
  unfold Chip.sendOrder
  extract_lets +onlyGivenNames f
  clear_value f
  repeat'
    first
    | with_reducible assumption | with_reducible apply Chip.modFault_ok | with_reducible apply Chip.ite_ok
    | intro _ _ _ _ | intro _ _ _ | dsimp only

theorem Chip.sideFlags_ok {N : Nat} {s : Chip} (hk : s.Ok N)
    (d : Nat) (op : Option Nat) :
    (s.sideFlags d op).Ok N := by
  unfold Chip.sideFlags
  repeat'
    first
    | with_reducible assumption | with_reducible apply Chip.modRejoin_ok | intro _ _ _ _ | intro _ _ _ | dsimp only

theorem Chip.opDone_ok {N : Nat} {s : Chip} (hk : s.Ok N) (result : Nat) : (s.opDone result).Ok N := by
  unfold Chip.opDone
  repeat'
    first
    | with_reducible assumption | with_reducible apply Chip.set_ok

theorem Chip.sideline_ok {N : Nat} {s : Chip} (hk : s.Ok N)
    (d : Nat) (ordered : Bool) :
    (s.sideline d ordered).Ok N := by
  unfold Chip.sideline
  extract_lets +onlyGivenNames op
  clear_value op
  extract_lets +onlyGivenNames s
  have hs : Chip.Ok N s := by
    dsimp only [s]
    repeat'
      first
      | with_reducible assumption | with_reducible apply Chip.handover_ok | with_reducible apply Chip.setService_ok
      | with_reducible apply Chip.ite_ok | dsimp only
  clear_value s
  extract_lets +onlyGivenNames s
  have hs : Chip.Ok N s := by
    dsimp only [s]
    repeat'
      first
      | with_reducible assumption | with_reducible apply Chip.modDie_ok | with_reducible apply Chip.sideFlags_ok
      | intro _ _ _ _ | intro _ _ _ | dsimp only
  clear_value s
  extract_lets +onlyGivenNames s
  have hs : Chip.Ok N s := by
    dsimp only [s]
    repeat'
      first
      | with_reducible assumption | with_reducible apply Chip.modFault_ok | with_reducible apply Chip.ite_ok
      | intro _ _ _ _ | intro _ _ _ | dsimp only
  clear_value s
  extract_lets +onlyGivenNames s
  have hs : Chip.Ok N s := by
    dsimp only [s]
    repeat'
      first
      | with_reducible assumption | with_reducible apply Chip.leave_ok | dsimp only
  clear_value s
  extract_lets +onlyGivenNames s
  have hs : Chip.Ok N s := by
    dsimp only [s]
    repeat'
      first
      | with_reducible assumption | with_reducible apply Chip.captainLoss_ok | with_reducible apply Chip.ite_ok
      | dsimp only
  clear_value s
  extract_lets +onlyGivenNames s
  have hs : Chip.Ok N s := by
    dsimp only [s]
    repeat'
      first
      | with_reducible assumption | with_reducible apply Chip.updHit_ok | with_reducible apply Chip.sendOrder_ok
      | with_reducible apply Chip.ite_ok | dsimp only
  clear_value s
  repeat'
    first
    | with_reducible assumption | with_reducible apply Chip.opDone_ok | with_reducible apply Chip.ite_ok

theorem Chip.sidelineDue_ok {N : Nat} {s : Chip} (hk : s.Ok N) (d : Nat) : (s.sidelineDue d).Ok N := by
  unfold Chip.sidelineDue
  repeat'
    first
    | with_reducible assumption | with_reducible apply Chip.sideline_ok | split

theorem Chip.heartbeat_ok {N : Nat} {s : Chip} (hk : s.Ok N) (d : Nat) : (s.heartbeat d).Ok N := by
  unfold Chip.heartbeat
  repeat'
    first
    | with_reducible assumption | with_reducible apply Chip.modFault_ok | with_reducible apply Chip.raise_ok
    | with_reducible apply Chip.raiseF1_ok | with_reducible apply Chip.selfHold_ok
    | with_reducible apply Chip.partCheck_ok | with_reducible apply Chip.ite_ok | intro _ _ _ _ | intro _ _ _
    | dsimp only

theorem Chip.ownLine_ok {N : Nat} {s : Chip} (hk : s.Ok N) (d : Nat) (bad : Bool) : (s.ownLine d bad).Ok N := by
  unfold Chip.ownLine
  repeat'
    first
    | with_reducible assumption | with_reducible apply Chip.raiseF1_ok | with_reducible apply Chip.ite_ok

theorem Chip.coverOrder_ok {N : Nat} {s : Chip} (hk : s.Ok N) (ns : Nat) : (s.coverOrder ns).Ok N := by
  unfold Chip.coverOrder
  repeat'
    first
    | with_reducible assumption | with_reducible apply Chip.modFault_ok | with_reducible apply Chip.set_ok
    | intro _ _ _ _ | intro _ _ _ | split | dsimp only

theorem Chip.copyRegs_ok {N : Nat} {s : Chip} (hk : s.Ok N) (src dst : Nat) : (s.copyRegs src dst).Ok N := by
  unfold Chip.copyRegs
  extract_lets +onlyGivenNames l
  clear_value l
  repeat'
    first
    | with_reducible assumption | with_reducible apply Chip.recPut_ok | with_reducible apply Chip.clearRegs_ok
    | with_reducible apply Chip.foldl_ok | intro _ _ _ _ | intro _ _ _ | dsimp only

theorem Chip.moveStaged_ok {N : Nat} {s : Chip} (hk : s.Ok N) (src dst : Nat) : (s.moveStaged src dst).Ok N := by
  unfold Chip.moveStaged
  repeat'
    first
    | with_reducible assumption | with_reducible apply Chip.setStaged_ok | with_reducible apply Chip.foldl_ok
    | intro _ _ _ _ | intro _ _ _ | dsimp only

theorem Chip.takeRecords_ok {N : Nat} {s : Chip} (hk : s.Ok N)
    (d sl : Nat) (l : LoopRecord) (r : StandbyRecord) :
    (s.takeRecords d sl l r).Ok N := by
  unfold Chip.takeRecords
  extract_lets +onlyGivenNames park
  clear_value park
  extract_lets +onlyGivenNames s
  have hs : Chip.Ok N s := by
    dsimp only [s]
    repeat'
      first
      | with_reducible assumption | with_reducible apply Chip.setSlot_ok | dsimp only
  clear_value s
  extract_lets +onlyGivenNames s
  have hs : Chip.Ok N s := by
    dsimp only [s]
    repeat'
      first
      | with_reducible assumption | with_reducible apply Chip.showState_ok | dsimp only
  clear_value s
  repeat'
    first
    | with_reducible assumption | with_reducible apply Chip.noteHop_ok | with_reducible apply Chip.tempFresh_ok
    | with_reducible apply Chip.captureLoop_ok

theorem Chip.benchSlot_ok {N : Nat} {s : Chip} (hk : s.Ok N) (b k h e p : Nat) : (s.benchSlot b k h e p).Ok N := by
  unfold Chip.benchSlot
  extract_lets +onlyGivenNames sl
  clear_value sl
  extract_lets +onlyGivenNames c
  clear_value c
  repeat'
    first
    | with_reducible assumption | with_reducible apply Chip.takeRecords_ok
    | with_reducible apply Chip.enableSlot_ok | with_reducible apply Chip.ite_ok | intro _ _ _ _ | intro _ _ _
    | split | dsimp only

theorem Chip.portAdopt_ok {N : Nat} {s : Chip} (hk : s.Ok N) (d p : Nat) : (s.portAdopt d p).Ok N := by
  unfold Chip.portAdopt
  repeat'
    first
    | with_reducible assumption | with_reducible apply Chip.setEl_ok | with_reducible apply Chip.set_ok
    | with_reducible apply Chip.modPort_ok | with_reducible apply Chip.startPass_ok
    | with_reducible apply Chip.ite_ok | intro _ _ _ _ | intro _ _ _ | dsimp only

theorem Chip.setHalf_ok {N : Nat} {s : Chip} (hk : s.Ok N)
    (b k : Nat) (on : Bool) (h e : Nat) :
    (s.setHalf b k on h e).Ok N := by
  unfold Chip.setHalf
  extract_lets +onlyGivenNames s
  have hs : Chip.Ok N s := by
    dsimp only [s]
    repeat'
      first
      | with_reducible assumption | with_reducible apply Chip.setB_ok | with_reducible apply Chip.set_ok
      | with_reducible apply Chip.ite_ok | dsimp only
  clear_value s
  repeat'
    first
    | with_reducible assumption | with_reducible apply Chip.set_ok

theorem Chip.coverEfe_ok {N : Nat} {s : Chip} (hk : s.Ok N) (b k h e : Nat) : (s.coverEfe b k h e).Ok N := by
  unfold Chip.coverEfe
  extract_lets +onlyGivenNames s
  have hs : Chip.Ok N s := by
    dsimp only [s]
    repeat'
      first
      | with_reducible assumption | with_reducible apply Chip.setHalf_ok | dsimp only
  clear_value s
  extract_lets +onlyGivenNames s
  have hs : Chip.Ok N s := by
    dsimp only [s]
    repeat'
      first
      | with_reducible assumption | with_reducible apply Chip.copyRegs_ok | with_reducible apply Chip.moveStaged_ok
      | dsimp only
  clear_value s
  extract_lets +onlyGivenNames s
  have hs : Chip.Ok N s := by
    dsimp only [s]
    repeat'
      first
      | with_reducible assumption | with_reducible apply Chip.parkAll_ok | dsimp only
  clear_value s
  extract_lets +onlyGivenNames s
  have hs : Chip.Ok N s := by
    dsimp only [s]
    repeat'
      first
      | with_reducible assumption | with_reducible apply Chip.each_ok | with_reducible apply Chip.benchSlot_ok
      | with_reducible apply Chip.each_ok | intro _ _ _ _ | intro _ _ _ | dsimp only
  clear_value s
  repeat'
    first
    | with_reducible assumption | with_reducible apply Chip.set_ok | with_reducible apply Chip.portAdopt_ok

theorem Chip.noteHold_ok {N : Nat} {s : Chip} (hk : s.Ok N) (h a : Nat) : (s.noteHold h a).Ok N := by
  unfold Chip.noteHold
  extract_lets +onlyGivenNames f
  clear_value f
  extract_lets +onlyGivenNames n
  clear_value n
  repeat'
    first
    | with_reducible assumption | with_reducible apply Chip.set_ok

theorem Chip.coverDie_ok {N : Nat} {s : Chip} (hk : s.Ok N) (h a : Nat) : (s.coverDie h a).Ok N := by
  unfold Chip.coverDie
  extract_lets +onlyGivenNames s
  have hs : Chip.Ok N s := by
    dsimp only [s]
    repeat'
      first
      | with_reducible assumption | with_reducible apply Chip.modFault_ok | with_reducible apply Chip.ite_ok
      | intro _ _ _ _ | intro _ _ _ | dsimp only
  clear_value s
  extract_lets +onlyGivenNames s
  have hs : Chip.Ok N s := by
    dsimp only [s]
    repeat'
      first
      | with_reducible assumption | with_reducible apply Chip.each_ok | with_reducible apply Chip.coverEfe_ok
      | with_reducible apply Chip.each_ok | intro _ _ _ _ | intro _ _ _ | dsimp only
  clear_value s
  repeat'
    first
    | with_reducible assumption | with_reducible apply Chip.bump_ok | with_reducible apply Chip.raise_ok
    | with_reducible apply Chip.noteHold_ok

theorem Chip.coverStart_ok {N : Nat} {s : Chip} (hk : s.Ok N) : (s.coverStart).Ok N := by
  unfold Chip.coverStart
  repeat'
    first
    | with_reducible assumption | with_reducible apply Chip.sidelineDue_ok | with_reducible apply Chip.coverDie_ok
    | with_reducible apply Chip.ite_ok | split

end Sys2Proof.Machine
end

