-- ==== Sys2Proof/Laws/Ok/Rejoin.lean ====
section
/-!
SUPPORT. Laws/Ok/Rejoin.lean: every operation of Machine/Rejoin.lean keeps a package in good order.
-/

namespace Sys2Proof.Machine

theorem Chip.updTo_ok {N : Nat} {s : Chip} (hk : s.Ok N) (st cause : Nat) : (s.updTo st cause).Ok N := by
  unfold Chip.updTo
  repeat'
    first
    | with_reducible assumption | with_reducible apply Chip.modFault_ok | intro _ _ _ _ | intro _ _ _ | dsimp only

theorem Chip.orderSideline_ok {N : Nat} {s : Chip} (hk : s.Ok N) (d op : Nat) : (s.orderSideline d op).Ok N := by
  unfold Chip.orderSideline
  repeat'
    first
    | with_reducible assumption | with_reducible apply Chip.modFault_ok | with_reducible apply Chip.ite_ok
    | intro _ _ _ _ | intro _ _ _ | dsimp only

theorem Chip.rejoinBegin_ok {N : Nat} {s : Chip} (hk : s.Ok N) (d : Nat) : (s.rejoinBegin d).Ok N := by
  unfold Chip.rejoinBegin
  extract_lets +onlyGivenNames was
  clear_value was
  repeat'
    first
    | with_reducible assumption | with_reducible apply Chip.sidelineDue_ok | with_reducible apply Chip.wipeDie_ok
    | with_reducible apply Chip.setDie_ok | with_reducible apply Chip.fabReset_ok
    | with_reducible apply Chip.fabBack_ok | with_reducible apply Chip.setService_ok
    | with_reducible apply Chip.modFault_ok | with_reducible apply Chip.modRejoin_ok
    | with_reducible apply Chip.bump_ok | with_reducible apply Chip.ite_ok | intro _ _ _ _ | intro _ _ _
    | dsimp only

theorem Chip.dieCtrl_ok {N : Nat} {s : Chip} (hk : s.Ok N) (v : Word) : (s.dieCtrl v).Ok N := by
  unfold Chip.dieCtrl
  extract_lets +onlyGivenNames x
  clear_value x
  extract_lets +onlyGivenNames s
  have hs : Chip.Ok N s := by
    dsimp only [s]
    repeat'
      first
      | with_reducible assumption | with_reducible apply Chip.set_ok | dsimp only
  clear_value s
  extract_lets +onlyGivenNames op
  clear_value op
  extract_lets +onlyGivenNames d
  clear_value d
  repeat'
    first
    | with_reducible assumption | with_reducible apply Chip.set_ok | with_reducible apply Chip.modRejoin_ok
    | with_reducible apply Chip.rejoinBegin_ok | with_reducible apply Chip.orderSideline_ok
    | with_reducible apply Chip.ite_ok | intro _ _ _ _ | intro _ _ _ | dsimp only

theorem Chip.dieOp_ok {N : Nat} {s : Chip} (hk : s.Ok N) (op : Nat) (v : Word) : (s.dieOp op v).Ok N := by
  unfold Chip.dieOp
  repeat'
    first
    | with_reducible assumption | with_reducible apply Chip.dieCtrl_ok | with_reducible apply Chip.ite_ok

theorem Chip.updEnd_ok {N : Nat} {s : Chip} (hk : s.Ok N) (st cause : Nat) : (s.updEnd st cause).Ok N := by
  unfold Chip.updEnd
  extract_lets +onlyGivenNames s
  have hs : Chip.Ok N s := by
    dsimp only [s]
    repeat'
      first
      | with_reducible assumption | with_reducible apply Chip.updTo_ok | with_reducible apply Chip.modFault_ok
      | intro _ _ _ _ | intro _ _ _ | dsimp only
  clear_value s
  repeat'
    first
    | with_reducible assumption | with_reducible apply Chip.raise_ok | with_reducible apply Chip.ite_ok

theorem Chip.rejoinFail_ok {N : Nat} {s : Chip} (hk : s.Ok N) (d cause : Nat) : (s.rejoinFail d cause).Ok N := by
  unfold Chip.rejoinFail
  repeat'
    first
    | with_reducible assumption | with_reducible apply Chip.raiseF1_ok | with_reducible apply Chip.raise_ok
    | with_reducible apply Chip.modRejoin_ok | with_reducible apply Chip.modFault_ok
    | with_reducible apply Chip.opDone_ok | with_reducible apply Chip.updEnd_ok | with_reducible apply Chip.ite_ok
    | intro _ _ _ _ | intro _ _ _ | dsimp only

theorem Chip.partPut_ok {N : Nat} {s : Chip} (hk : s.Ok N) (x : ImgItem) : (s.partPut x).Ok N := by
  unfold Chip.partPut
  repeat'
    first
    | with_reducible assumption | with_reducible apply Chip.recPut_ok | with_reducible apply Chip.imgPut_ok | split

theorem Chip.rejoinLoad_ok {N : Nat} {s : Chip} (hk : s.Ok N) (d : Nat) : (s.rejoinLoad d).Ok N := by
  unfold Chip.rejoinLoad
  extract_lets +onlyGivenNames slot
  clear_value slot
  extract_lets +onlyGivenNames c
  clear_value c
  repeat'
    first
    | with_reducible assumption | with_reducible apply Chip.rejoinFail_ok | with_reducible apply Chip.partPut_ok
    | with_reducible apply Chip.clearRegs_ok | with_reducible apply Chip.loadLib_ok
    | with_reducible apply Chip.modImage_ok | with_reducible apply Chip.modRejoin_ok
    | with_reducible apply Chip.modFault_ok | with_reducible apply Chip.imgEffects_ok
    | with_reducible apply Chip.ite_ok | with_reducible apply Chip.foldl_ok | intro _ _ _ _ | intro _ _ _ | split
    | dsimp only

theorem Chip.copyBack_ok {N : Nat} {s : Chip} (hk : s.Ok N) (d : Nat) : (s.copyBack d).Ok N := by
  unfold Chip.copyBack
  extract_lets +onlyGivenNames upd
  clear_value upd
  extract_lets +onlyGivenNames ks
  clear_value ks
  repeat'
    first
    | with_reducible assumption | with_reducible apply Chip.each_ok | with_reducible apply Chip.readEntry_ok
    | with_reducible apply Chip.homeCopy_ok | with_reducible apply Chip.ite_ok | with_reducible apply Chip.each_ok
    | intro _ _ _ _ | intro _ _ _ | split | dsimp only | with_reducible apply tabPut_wf
    | with_reducible apply tabClear_wf | with_reducible apply tabFilter_wf | with_reducible apply tabMap_wf
    | with_reducible apply tabWf_nil | with_reducible apply emptyLog | with_reducible apply Chip.Ok.count
    | with_reducible apply Chip.Ok.log | with_reducible apply Chip.Ok.regs | with_reducible apply Chip.Ok.shadow
    | with_reducible apply Chip.Ok.staged | with_reducible apply Chip.Ok.lib | with_reducible apply Chip.Ok.poison
    | with_reducible apply Chip.Ok.libLive | with_reducible apply Chip.Ok.libStaged
    | with_reducible apply Chip.Ok.volStage | with_reducible apply Chip.Ok.dies | with_reducible apply Chip.Ok.cals
    | with_reducible apply Chip.Ok.slots | with_reducible apply Chip.Ok.ports | with_reducible apply Chip.Ok.vols
    | with_reducible apply Chip.Ok.rets | with_reducible apply Chip.Ok.hosts | with_reducible apply Chip.Ok.of
    | with_reducible refine Chip.fst_ok (by assumption) ?_

theorem Chip.refill_ok {N : Nat} {s : Chip} (hk : s.Ok N) (d : Nat) : (s.refill d).Ok N := by
  unfold Chip.refill
  extract_lets +onlyGivenNames s
  have hs : Chip.Ok N s := by
    dsimp only [s]
    repeat'
      first
      | with_reducible assumption | with_reducible apply Chip.each_ok | with_reducible apply Chip.fillMirror_ok
      | with_reducible apply Chip.each_ok | intro _ _ _ _ | intro _ _ _ | dsimp only
  clear_value s
  repeat'
    first
    | with_reducible assumption | with_reducible apply Chip.each_ok | with_reducible apply Chip.fillMirror_ok
    | with_reducible apply Chip.ite_ok | with_reducible apply Chip.each_ok | intro _ _ _ _ | intro _ _ _
    | dsimp only

theorem Chip.rejoinReady_ok {N : Nat} {s : Chip} (hk : s.Ok N) (d : Nat) : (s.rejoinReady d).Ok N := by
  unfold Chip.rejoinReady
  extract_lets +onlyGivenNames r
  clear_value r
  extract_lets +onlyGivenNames skew
  clear_value skew
  extract_lets +onlyGivenNames xo
  clear_value xo
  extract_lets +onlyGivenNames ports
  clear_value ports
  repeat'
    first
    | with_reducible assumption | with_reducible apply Chip.replayTrims_ok | with_reducible apply Chip.copyBack_ok
    | with_reducible apply Chip.refill_ok | with_reducible apply Chip.modRejoin_ok
    | with_reducible apply Chip.modFault_ok | with_reducible apply Chip.ite_ok | intro _ _ _ _ | intro _ _ _
    | dsimp only

theorem Chip.homeSlot_ok {N : Nat} {s : Chip} (hk : s.Ok N) (d sl b bs : Nat) : (s.homeSlot d sl b bs).Ok N := by
  unfold Chip.homeSlot
  repeat'
    first
    | with_reducible assumption | with_reducible apply Chip.takeRecords_ok
    | with_reducible apply Chip.enableSlot_ok | with_reducible apply Chip.ite_ok

theorem Chip.homePort_ok {N : Nat} {s : Chip} (hk : s.Ok N) (d p a : Nat) : (s.homePort d p a).Ok N := by
  unfold Chip.homePort
  repeat'
    first
    | with_reducible assumption | with_reducible apply Chip.portAdopt_ok | with_reducible apply Chip.modPort_ok
    | intro _ _ _ _ | intro _ _ _ | dsimp only

theorem Chip.homeEfe_ok {N : Nat} {s : Chip} (hk : s.Ok N) (b k d e a : Nat) : (s.homeEfe b k d e a).Ok N := by
  unfold Chip.homeEfe
  extract_lets +onlyGivenNames s
  have hs : Chip.Ok N s := by
    dsimp only [s]
    repeat'
      first
      | with_reducible assumption | with_reducible apply Chip.copyRegs_ok | with_reducible apply Chip.ite_ok
      | dsimp only
  clear_value s
  extract_lets +onlyGivenNames s
  have hs : Chip.Ok N s := by
    dsimp only [s]
    repeat'
      first
      | with_reducible assumption | with_reducible apply Chip.moveStaged_ok | with_reducible apply Chip.homePort_ok
      | with_reducible apply Chip.parkAll_ok | dsimp only
  clear_value s
  repeat'
    first
    | with_reducible assumption | with_reducible apply Chip.each_ok | with_reducible apply Chip.homeSlot_ok
    | with_reducible apply Chip.each_ok | intro _ _ _ _ | intro _ _ _ | dsimp only

theorem Chip.freeHalf_ok {N : Nat} {s : Chip} (hk : s.Ok N) (b k e : Nat) : (s.freeHalf b k e).Ok N := by
  unfold Chip.freeHalf
  extract_lets +onlyGivenNames lo
  clear_value lo
  extract_lets +onlyGivenNames src s
  have hsrc : Chip.Ok N src := by
    dsimp only [src]
    repeat'
      first
      | with_reducible assumption | with_reducible apply Chip.clearRegs_ok | dsimp only
  clear_value src
  have hs : Chip.Ok N s := by
    dsimp only [s]
    repeat'
      first
      | with_reducible assumption | with_reducible apply Chip.clearRegs_ok | dsimp only
      | with_reducible apply tabPut_wf | with_reducible apply tabClear_wf | with_reducible apply tabFilter_wf
      | with_reducible apply tabMap_wf | with_reducible apply tabWf_nil | with_reducible apply emptyLog
      | with_reducible apply Chip.Ok.count | with_reducible apply Chip.Ok.log | with_reducible apply Chip.Ok.regs
      | with_reducible apply Chip.Ok.shadow | with_reducible apply Chip.Ok.staged
      | with_reducible apply Chip.Ok.lib | with_reducible apply Chip.Ok.poison
      | with_reducible apply Chip.Ok.libLive | with_reducible apply Chip.Ok.libStaged
      | with_reducible apply Chip.Ok.volStage | with_reducible apply Chip.Ok.dies
      | with_reducible apply Chip.Ok.cals | with_reducible apply Chip.Ok.slots | with_reducible apply Chip.Ok.ports
      | with_reducible apply Chip.Ok.vols | with_reducible apply Chip.Ok.rets | with_reducible apply Chip.Ok.hosts
      | with_reducible apply Chip.Ok.of
  clear_value s
  extract_lets +onlyGivenNames s
  have hs : Chip.Ok N s := by
    dsimp only [s]
    repeat'
      first
      | with_reducible assumption | with_reducible apply Chip.set_ok | with_reducible apply Chip.setHalf_ok
      | dsimp only
  clear_value s
  repeat'
    first
    | with_reducible assumption | with_reducible apply Chip.portWarm_ok | with_reducible apply Chip.ite_ok

theorem Chip.handBackEfe_ok {N : Nat} {s : Chip} (hk : s.Ok N)
    (b k d e a : Nat) :
    (s.handBackEfe b k d e a).Ok N := by
  unfold Chip.handBackEfe
  repeat'
    first
    | with_reducible assumption | with_reducible apply Chip.homeEfe_ok | with_reducible apply Chip.freeHalf_ok

theorem Chip.serveAgain_ok {N : Nat} {s : Chip} (hk : s.Ok N) (d e a : Nat) : (s.serveAgain d e a).Ok N := by
  unfold Chip.serveAgain
  repeat'
    first
    | with_reducible assumption | with_reducible apply Chip.homePort_ok | with_reducible apply Chip.parkAll_ok
    | with_reducible apply Chip.each_ok | with_reducible apply Chip.enableSlot_ok
    | with_reducible apply Chip.ite_ok | with_reducible apply Chip.each_ok | intro _ _ _ _ | intro _ _ _
    | dsimp only

theorem Chip.updNext_ok {N : Nat} {s : Chip} (hk : s.Ok N) : (s.updNext).Ok N := by
  unfold Chip.updNext
  extract_lets +onlyGivenNames f
  clear_value f
  repeat'
    first
    | with_reducible assumption | with_reducible apply Chip.updEnd_ok | with_reducible apply Chip.raise_ok
    | with_reducible apply Chip.modFault_ok | with_reducible apply Chip.orderSideline_ok
    | with_reducible apply Chip.ite_ok | intro _ _ _ _ | intro _ _ _ | split | dsimp only

theorem Chip.handBack_ok {N : Nat} {s : Chip} (hk : s.Ok N) (d a : Nat) : (s.handBack d a).Ok N := by
  unfold Chip.handBack
  extract_lets +onlyGivenNames upd
  clear_value upd
  extract_lets +onlyGivenNames was
  clear_value was
  extract_lets +onlyGivenNames arb
  clear_value arb
  extract_lets +onlyGivenNames s
  have hs : Chip.Ok N s := by
    dsimp only [s]
    repeat'
      first
      | with_reducible assumption | with_reducible apply Chip.copyBack_ok | with_reducible apply Chip.setService_ok
      | dsimp only
  clear_value s
  extract_lets +onlyGivenNames cov
  clear_value cov
  extract_lets +onlyGivenNames s
  have hs : Chip.Ok N s := by
    dsimp only [s]
    repeat'
      first
      | with_reducible assumption | with_reducible apply Chip.each_ok | with_reducible apply Chip.handBackEfe_ok
      | with_reducible apply Chip.each_ok | intro _ _ _ _ | intro _ _ _ | dsimp only
  clear_value s
  extract_lets +onlyGivenNames s
  have hs : Chip.Ok N s := by
    dsimp only [s]
    repeat'
      first
      | with_reducible assumption | with_reducible apply Chip.each_ok | with_reducible apply Chip.serveAgain_ok
      | with_reducible apply Chip.each_ok | intro _ _ _ _ | intro _ _ _ | dsimp only
  clear_value s
  extract_lets +onlyGivenNames s
  have hs : Chip.Ok N s := by
    dsimp only [s]
    repeat'
      first
      | with_reducible assumption | with_reducible apply Chip.modRejoin_ok | intro _ _ _ _ | intro _ _ _
      | dsimp only
  clear_value s
  extract_lets +onlyGivenNames s
  have hs : Chip.Ok N s := by
    dsimp only [s]
    repeat'
      first
      | with_reducible assumption | with_reducible apply Chip.modFault_ok | with_reducible apply Chip.ite_ok
      | intro _ _ _ _ | intro _ _ _ | dsimp only
  clear_value s
  extract_lets +onlyGivenNames s
  have hs : Chip.Ok N s := by
    dsimp only [s]
    repeat'
      first
      | with_reducible assumption | with_reducible apply Chip.loadD_ok | with_reducible apply Chip.calEnter_ok
      | dsimp only
  clear_value s
  extract_lets +onlyGivenNames s
  have hs : Chip.Ok N s := by
    dsimp only [s]
    repeat'
      first
      | with_reducible assumption | with_reducible apply Chip.each_ok | with_reducible apply Chip.portStart_ok
      | with_reducible apply Chip.each_ok | intro _ _ _ _ | intro _ _ _ | dsimp only
  clear_value s
  extract_lets +onlyGivenNames s
  have hs : Chip.Ok N s := by
    dsimp only [s]
    repeat'
      first
      | with_reducible assumption | with_reducible apply Chip.raise_ok | dsimp only
  clear_value s
  extract_lets +onlyGivenNames s
  have hs : Chip.Ok N s := by
    dsimp only [s]
    repeat'
      first
      | with_reducible assumption | with_reducible apply Chip.raise_ok | with_reducible apply Chip.ite_ok
      | dsimp only
  clear_value s
  extract_lets +onlyGivenNames s
  have hs : Chip.Ok N s := by
    dsimp only [s]
    repeat'
      first
      | with_reducible assumption | with_reducible apply Chip.setRoles_ok
      | with_reducible apply Chip.arbiterBack_ok | with_reducible apply Chip.ite_ok | dsimp only
  clear_value s
  extract_lets +onlyGivenNames s
  have hs : Chip.Ok N s := by
    dsimp only [s]
    repeat'
      first
      | with_reducible assumption | with_reducible apply Chip.sendOrder_ok | intro _ _ _ _ | intro _ _ _ | split
      | dsimp only
  clear_value s
  extract_lets +onlyGivenNames s
  have hs : Chip.Ok N s := by
    dsimp only [s]
    repeat'
      first
      | with_reducible assumption | with_reducible apply Chip.opDone_ok | with_reducible apply Chip.ite_ok
      | dsimp only
  clear_value s
  repeat'
    first
    | with_reducible assumption | with_reducible apply Chip.updNext_ok | with_reducible apply Chip.ite_ok

theorem Chip.coverReturn_ok {N : Nat} {s : Chip} (hk : s.Ok N) : (s.coverReturn).Ok N := by
  unfold Chip.coverReturn
  repeat'
    first
    | with_reducible assumption | with_reducible apply Chip.handBack_ok | with_reducible apply Chip.ite_ok | split

theorem Chip.updVerify_ok {N : Nat} {s : Chip} (hk : s.Ok N) : (s.updVerify).Ok N := by
  unfold Chip.updVerify
  extract_lets +onlyGivenNames st
  clear_value st
  repeat'
    first
    | with_reducible assumption | with_reducible apply Chip.updTo_ok | with_reducible apply Chip.grant_ok
    | with_reducible apply Chip.modFault_ok | with_reducible apply Chip.ite_ok | intro _ _ _ _ | intro _ _ _
    | dsimp only

theorem Chip.updVerifyDone_ok {N : Nat} {s : Chip} (hk : s.Ok N) (ok : Bool) : (s.updVerifyDone ok).Ok N := by
  unfold Chip.updVerifyDone
  repeat'
    first
    | with_reducible assumption | with_reducible apply Chip.leaseFree_ok | with_reducible apply Chip.updTo_ok
    | with_reducible apply Chip.modImage_ok | with_reducible apply Chip.auditAdd_ok
    | with_reducible apply Chip.raise_ok | with_reducible apply Chip.updEnd_ok | with_reducible apply Chip.ite_ok
    | intro _ _ _ _ | intro _ _ _ | dsimp only

theorem Chip.updGo_ok {N : Nat} {s : Chip} (hk : s.Ok N) : (s.updGo).Ok N := by
  unfold Chip.updGo
  extract_lets +onlyGivenNames f
  clear_value f
  extract_lets +onlyGivenNames slot
  clear_value slot
  extract_lets +onlyGivenNames fwd
  extract_lets +onlyGivenNames back
  repeat'
    first
    | with_reducible assumption | with_reducible apply Chip.modFault_ok | with_reducible apply Chip.updTo_ok
    | with_reducible apply Chip.updNext_ok | with_reducible apply Chip.ite_ok | intro _ _ _ _ | intro _ _ _
    | dsimp only

theorem Chip.updCommit_ok {N : Nat} {s : Chip} (hk : s.Ok N) : (s.updCommit).Ok N := by
  unfold Chip.updCommit
  repeat'
    first
    | with_reducible assumption | with_reducible apply Chip.updTo_ok | with_reducible apply Chip.modFault_ok
    | with_reducible apply Chip.ite_ok | intro _ _ _ _ | intro _ _ _ | dsimp only

theorem Chip.updAbort_ok {N : Nat} {s : Chip} (hk : s.Ok N) : (s.updAbort).Ok N := by
  unfold Chip.updAbort
  repeat'
    first
    | with_reducible assumption | with_reducible apply Chip.updEnd_ok | with_reducible apply Chip.modFault_ok
    | with_reducible apply Chip.ite_ok | intro _ _ _ _ | intro _ _ _ | dsimp only

theorem Chip.updCtrl_ok {N : Nat} {s : Chip} (hk : s.Ok N) (v : Word) : (s.updCtrl v).Ok N := by
  unfold Chip.updCtrl
  extract_lets +onlyGivenNames x
  clear_value x
  extract_lets +onlyGivenNames s
  have hs : Chip.Ok N s := by
    dsimp only [s]
    repeat'
      first
      | with_reducible assumption | with_reducible apply Chip.set_ok | dsimp only
  clear_value s
  extract_lets +onlyGivenNames s
  have hs : Chip.Ok N s := by
    dsimp only [s]
    repeat'
      first
      | with_reducible assumption | with_reducible apply Chip.updVerify_ok | with_reducible apply Chip.ite_ok
      | dsimp only
  clear_value s
  extract_lets +onlyGivenNames s
  have hs : Chip.Ok N s := by
    dsimp only [s]
    repeat'
      first
      | with_reducible assumption | with_reducible apply Chip.updGo_ok | with_reducible apply Chip.ite_ok
      | dsimp only
  clear_value s
  extract_lets +onlyGivenNames s
  have hs : Chip.Ok N s := by
    dsimp only [s]
    repeat'
      first
      | with_reducible assumption | with_reducible apply Chip.updCommit_ok | with_reducible apply Chip.ite_ok
      | dsimp only
  clear_value s
  repeat'
    first
    | with_reducible assumption | with_reducible apply Chip.updAbort_ok | with_reducible apply Chip.ite_ok

theorem Chip.updOp_ok {N : Nat} {s : Chip} (hk : s.Ok N) (b : Nat) (v : Word) : (s.updOp b v).Ok N := by
  unfold Chip.updOp
  repeat'
    first
    | with_reducible assumption | with_reducible apply Chip.updCtrl_ok | with_reducible apply Chip.ite_ok

theorem Chip.updLoad_ok {N : Nat} {s : Chip} (hk : s.Ok N) : (s.updLoad).Ok N := by
  unfold Chip.updLoad
  repeat'
    first
    | with_reducible assumption | with_reducible apply Chip.modFault_ok | with_reducible apply Chip.imgPut_ok
    | with_reducible apply Chip.modSched_ok | with_reducible apply Chip.each_ok
    | with_reducible apply Chip.slotShow_ok | with_reducible apply Chip.showBooted_ok
    | with_reducible apply Chip.showSchedDigest_ok | with_reducible apply Chip.pkgEffects_ok
    | with_reducible apply Chip.auditAdd_ok | with_reducible apply Chip.updTo_ok
    | with_reducible apply Chip.raise_ok | with_reducible apply Chip.ite_ok | with_reducible apply Chip.each_ok
    | with_reducible apply Chip.foldl_ok | intro _ _ _ _ | intro _ _ _ | split | dsimp only

theorem Chip.seeEnabled_ok {N : Nat} {s : Chip} (hk : s.Ok N) : (s.seeEnabled).Ok N := by
  unfold Chip.seeEnabled
  repeat'
    first
    | with_reducible assumption | with_reducible apply Chip.each_ok | with_reducible apply Chip.modFault_ok
    | with_reducible apply Chip.ite_ok | with_reducible apply Chip.each_ok | with_reducible apply Chip.foldl_ok
    | intro _ _ _ _ | intro _ _ _ | dsimp only

theorem Chip.unservedCheck_ok {N : Nat} {s : Chip} (hk : s.Ok N) : (s.unservedCheck).Ok N := by
  unfold Chip.unservedCheck
  extract_lets +onlyGivenNames now
  clear_value now
  extract_lets +onlyGivenNames new
  clear_value new
  repeat'
    first
    | with_reducible assumption | with_reducible apply Chip.each_ok | with_reducible apply Chip.raiseF2_ok
    | with_reducible apply Chip.modFault_ok | with_reducible apply Chip.each_ok | intro _ _ _ _ | intro _ _ _
    | dsimp only

theorem Chip.showNmi_ok {N : Nat} {s : Chip} (hk : s.Ok N) : (s.showNmi).Ok N := by
  unfold Chip.showNmi
  repeat'
    first
    | with_reducible assumption | with_reducible apply Chip.modFault_ok | intro _ _ _ _ | intro _ _ _ | dsimp only

theorem Chip.f0Persist_ok {N : Nat} {s : Chip} (hk : s.Ok N) : (s.f0Persist).Ok N := by
  unfold Chip.f0Persist
  extract_lets +onlyGivenNames s
  have hs : Chip.Ok N s := by
    dsimp only [s]
    repeat'
      first
      | with_reducible assumption | with_reducible apply Chip.raise_ok | with_reducible apply Chip.ite_ok
      | intro _ _ _ _ | intro _ _ _ | dsimp only
  clear_value s
  extract_lets +onlyGivenNames s
  have hs : Chip.Ok N s := by
    dsimp only [s]
    repeat'
      first
      | with_reducible assumption | with_reducible apply Chip.raise_ok | with_reducible apply Chip.ite_ok
      | dsimp only
  clear_value s
  repeat'
    first
    | with_reducible assumption | with_reducible apply Chip.raise_ok | with_reducible apply Chip.showNmi_ok
    | with_reducible apply Chip.ite_ok

theorem Chip.faultCapture_ok {N : Nat} {s : Chip} (hk : s.Ok N) : (s.faultCapture).Ok N := by
  unfold Chip.faultCapture
  extract_lets +onlyGivenNames s
  have hs : Chip.Ok N s := by
    dsimp only [s]
    repeat'
      first
      | with_reducible assumption | with_reducible apply Chip.modFault_ok | intro _ _ _ _ | intro _ _ _
      | dsimp only
  clear_value s
  extract_lets +onlyGivenNames s
  have hs : Chip.Ok N s := by
    dsimp only [s]
    repeat'
      first
      | with_reducible assumption | with_reducible apply Chip.seeEnabled_ok
      | with_reducible apply Chip.unservedCheck_ok | dsimp only
  clear_value s
  extract_lets +onlyGivenNames s
  have hs : Chip.Ok N s := by
    dsimp only [s]
    repeat'
      first
      | with_reducible assumption | with_reducible apply Chip.set_ok | dsimp only
  clear_value s
  extract_lets +onlyGivenNames was
  clear_value was
  extract_lets +onlyGivenNames up
  clear_value up
  extract_lets +onlyGivenNames s
  have hs : Chip.Ok N s := by
    dsimp only [s]
    repeat'
      first
      | with_reducible assumption | with_reducible apply Chip.showNmi_ok | dsimp only
  clear_value s
  extract_lets +onlyGivenNames f
  clear_value f
  extract_lets +onlyGivenNames s
  have hs : Chip.Ok N s := by
    dsimp only [s]
    repeat'
      first
      | with_reducible assumption | with_reducible apply Chip.setB_ok | dsimp only
  clear_value s
  extract_lets +onlyGivenNames s
  have hs : Chip.Ok N s := by
    dsimp only [s]
    repeat'
      first
      | with_reducible assumption | with_reducible apply Chip.setB_ok | with_reducible apply Chip.set_ok
      | dsimp only
  clear_value s
  extract_lets +onlyGivenNames s
  have hs : Chip.Ok N s := by
    dsimp only [s]
    repeat'
      first
      | with_reducible assumption | with_reducible apply Chip.set_ok | intro _ _ _ _ | intro _ _ _ | dsimp only
  clear_value s
  extract_lets +onlyGivenNames s
  have hs : Chip.Ok N s := by
    dsimp only [s]
    repeat'
      first
      | with_reducible assumption | with_reducible apply Chip.set_ok | dsimp only
  clear_value s
  extract_lets +onlyGivenNames s
  have hs : Chip.Ok N s := by
    dsimp only [s]
    repeat'
      first
      | with_reducible assumption | with_reducible apply Chip.set_ok | dsimp only
  clear_value s
  extract_lets +onlyGivenNames s
  have hs : Chip.Ok N s := by
    dsimp only [s]
    repeat'
      first
      | with_reducible assumption | with_reducible apply Chip.setB_ok | with_reducible apply Chip.set_ok
      | dsimp only
  clear_value s
  extract_lets +onlyGivenNames s
  have hs : Chip.Ok N s := by
    dsimp only [s]
    repeat'
      first
      | with_reducible assumption | with_reducible apply Chip.modFault_ok | intro _ _ _ _ | intro _ _ _
      | dsimp only
  clear_value s
  repeat'
    first
    | with_reducible assumption | with_reducible apply Chip.raise_ok | with_reducible apply Chip.ite_ok

theorem Chip.logPop_ok {N : Nat} {s : Chip} (hk : s.Ok N) : (s.logPop).Ok N := by
  have hl := hk.log
  unfold Chip.logPop
  split
  · exact setReg_ok (setReg_ok hk _ _) _ _
  · next t src det l he =>
    rw [he, List.length_cons] at hl
    have hx : Chip.Ok N { s with faultLog := l } := ⟨hk.1, by simp only; omega, hk.2.2⟩
    exact set_ok (setReg_ok (setReg_ok hx _ _) _ _) _ _

theorem Chip.latchHigh_ok {N : Nat} {s : Chip} (hk : s.Ok N) (p a : Nat) (v : Word) : (s.latchHigh p a v).Ok N := by
  unfold Chip.latchHigh
  repeat'
    first
    | with_reducible assumption | with_reducible apply Chip.modHost_ok | intro _ _ _ _ | intro _ _ _ | dsimp only

theorem Chip.readLogPop_ok {N : Nat} {s : Chip} (hk : s.Ok N) (p : Nat) : (s.readLogPop p).Ok N := by
  unfold Chip.readLogPop
  extract_lets +onlyGivenNames s
  have hs : Chip.Ok N s := by
    dsimp only [s]
    repeat'
      first
      | with_reducible assumption | with_reducible apply Chip.logPop_ok | dsimp only
  clear_value s
  repeat'
    first
    | with_reducible assumption | with_reducible apply Chip.latchHigh_ok | with_reducible apply Chip.complete_ok

end Sys2Proof.Machine
end

