-- ==== Sys2Proof/Laws/Ok/Tick.lean ====
section
/-!
SUPPORT. Laws/Ok/Tick.lean: every operation of Machine/Tick.lean keeps a package in good order.
-/

namespace Sys2Proof.Machine

theorem Chip.coreLocked_ok {N : Nat} {s : Chip} (hk : s.Ok N) (d : Nat) : (s.coreLocked d).Ok N := by
  unfold Chip.coreLocked
  extract_lets +onlyGivenNames was
  clear_value was
  extract_lets +onlyGivenNames s
  have hs : Chip.Ok N s := by
    dsimp only [s]
    repeat'
      first
      | with_reducible assumption | with_reducible apply Chip.lockDeclared_ok | dsimp only
  clear_value s
  repeat'
    first
    | with_reducible assumption | with_reducible apply Chip.calEnter_ok | with_reducible apply Chip.each_ok
    | with_reducible apply Chip.portStart_ok | with_reducible apply Chip.calWant_ok
    | with_reducible apply Chip.ite_ok | with_reducible apply Chip.each_ok | intro _ _ _ _ | intro _ _ _
    | dsimp only

theorem Chip.coreTo_ok {N : Nat} {s : Chip} (hk : s.Ok N)
    (d n : Nat) (tdc : List TdcReading) :
    (s.coreTo d n tdc).Ok N := by
  unfold Chip.coreTo
  exact coreRun_ok (fun _ ht => coreLocked_ok ht d) (fun _ ht => lockLost_ok ht d) hk _ _ _

theorem Chip.coreUpTo_ok {N : Nat} {s : Chip} (hk : s.Ok N)
    (d : Nat) (tdc : List TdcReading) :
    (s.coreUpTo d tdc).Ok N := by
  unfold Chip.coreUpTo
  repeat'
    first
    | with_reducible assumption | with_reducible apply Chip.rampGo_ok | with_reducible apply Chip.coreTo_ok

theorem Chip.synTick_ok {N : Nat} {s : Chip} (hk : s.Ok N)
    (d n : Nat) (tdc : List TdcReading) :
    (s.synTick d n tdc).Ok N := by
  unfold Chip.synTick
  repeat'
    first
    | with_reducible assumption | with_reducible apply Chip.rampRun_ok | with_reducible apply Chip.coreTo_ok
    | with_reducible apply Chip.pstepMove_ok | with_reducible apply Chip.showDensity_ok

theorem Chip.endWindows_ok {N : Nat} {s : Chip} (hk : s.Ok N) : (s.endWindows).Ok N := by
  unfold Chip.endWindows
  repeat'
    first
    | with_reducible assumption | with_reducible apply Chip.each_ok | with_reducible apply Chip.windowOnce_ok
    | with_reducible apply Chip.each_ok | intro _ _ _ _ | intro _ _ _ | dsimp only

theorem Chip.stepFive_ok {N : Nat} {s : Chip} (hk : s.Ok N) : (s.stepFive).Ok N := by
  unfold Chip.stepFive
  extract_lets +onlyGivenNames s
  have hs : Chip.Ok N s := by
    dsimp only [s]
    repeat'
      first
      | with_reducible assumption | with_reducible apply Chip.each_ok | with_reducible apply Chip.clearNow_ok
      | with_reducible apply Chip.each_ok | intro _ _ _ _ | intro _ _ _ | dsimp only
  clear_value s
  extract_lets +onlyGivenNames s
  have hs : Chip.Ok N s := by
    dsimp only [s]
    repeat'
      first
      | with_reducible assumption | with_reducible apply Chip.each_ok | with_reducible apply Chip.parityPark_ok
      | with_reducible apply Chip.each_ok | intro _ _ _ _ | intro _ _ _ | dsimp only
  clear_value s
  extract_lets +onlyGivenNames s
  have hs : Chip.Ok N s := by
    dsimp only [s]
    repeat'
      first
      | with_reducible assumption | with_reducible apply Chip.each_ok | with_reducible apply Chip.unorderedPark_ok
      | with_reducible apply Chip.portPark_ok | with_reducible apply Chip.each_ok | intro _ _ _ _ | intro _ _ _
      | dsimp only
  clear_value s
  repeat'
    first
    | with_reducible assumption | with_reducible apply Chip.coverStart_ok
    | with_reducible apply Chip.coverReturn_ok | with_reducible apply Chip.commitSwitch_ok

theorem Chip.loadBoundary_ok {N : Nat} {s : Chip} (hk : s.Ok N) : (s.loadBoundary).Ok N := by
  unfold Chip.loadBoundary
  extract_lets +onlyGivenNames s
  have hs : Chip.Ok N s := by
    dsimp only [s]
    repeat'
      first
      | with_reducible assumption | with_reducible apply Chip.stepFive_ok | dsimp only
  clear_value s
  extract_lets +onlyGivenNames s
  have hs : Chip.Ok N s := by
    dsimp only [s]
    repeat'
      first
      | with_reducible assumption | with_reducible apply Chip.each_ok | with_reducible apply Chip.volLoad_ok
      | with_reducible apply Chip.each_ok | intro _ _ _ _ | intro _ _ _ | dsimp only
  clear_value s
  extract_lets +onlyGivenNames s
  have hs : Chip.Ok N s := by
    dsimp only [s]
    repeat'
      first
      | with_reducible assumption | with_reducible apply Chip.schedCatchup_ok
      | with_reducible apply Chip.schedLoad_ok | dsimp only
  clear_value s
  extract_lets +onlyGivenNames s
  have hs : Chip.Ok N s := by
    dsimp only [s]
    repeat'
      first
      | with_reducible assumption | with_reducible apply Chip.deferred_ok | dsimp only
  clear_value s
  extract_lets +onlyGivenNames s
  have hs : Chip.Ok N s := by
    dsimp only [s]
    repeat'
      first
      | with_reducible assumption | with_reducible apply Chip.each_ok | with_reducible apply Chip.startEfe_ok
      | with_reducible apply Chip.ite_ok | with_reducible apply Chip.each_ok | intro _ _ _ _ | intro _ _ _
      | dsimp only
  clear_value s
  repeat'
    first
    | with_reducible assumption | with_reducible apply Chip.updLoad_ok

theorem Chip.openFive_ok {N : Nat} {s : Chip} (hk : s.Ok N) : (s.openFive).Ok N := by
  unfold Chip.openFive
  repeat'
    first
    | with_reducible assumption | with_reducible apply Chip.commitTick_ok | with_reducible apply Chip.endWindows_ok
    | with_reducible apply Chip.stepFive_ok

theorem Chip.composeAll_ok {N : Nat} {s : Chip} (hk : s.Ok N)
    (n : Nat) (env : List Sys2Proof.DieTick) :
    (s.composeAll n env).Ok N := by
  unfold Chip.composeAll
  extract_lets +onlyGivenNames s
  have hs : Chip.Ok N s := by
    dsimp only [s]
    repeat'
      first
      | with_reducible assumption | with_reducible apply Chip.each_ok | with_reducible apply Chip.parityPark_ok
      | with_reducible apply Chip.ite_ok | with_reducible apply Chip.each_ok | intro _ _ _ _ | intro _ _ _
      | dsimp only
  clear_value s
  extract_lets +onlyGivenNames s
  have hs : Chip.Ok N s := by
    dsimp only [s]
    repeat'
      first
      | with_reducible assumption | with_reducible apply Chip.each_ok | with_reducible apply Chip.hopNow_ok
      | with_reducible apply Chip.each_ok | intro _ _ _ _ | intro _ _ _ | dsimp only
  clear_value s
  repeat'
    first
    | with_reducible assumption | with_reducible apply Chip.each_ok | with_reducible apply Chip.compose_ok
    | with_reducible apply Chip.each_ok | intro _ _ _ _ | intro _ _ _ | dsimp only

theorem Chip.repeatPort_ok {N : Nat} {s : Chip} (hk : s.Ok N) (d p how : Nat) : (s.repeatPort d p how).Ok N := by
  unfold Chip.repeatPort
  repeat'
    first
    | with_reducible assumption | with_reducible apply Chip.bump_ok | with_reducible apply Chip.raise_ok
    | with_reducible apply Chip.ite_ok | intro _ _ _ _ | intro _ _ _ | dsimp only | with_reducible apply tabPut_wf
    | with_reducible apply tabClear_wf | with_reducible apply tabFilter_wf | with_reducible apply tabMap_wf
    | with_reducible apply tabWf_nil | with_reducible apply emptyLog | with_reducible apply Chip.Ok.count
    | with_reducible apply Chip.Ok.log | with_reducible apply Chip.Ok.regs | with_reducible apply Chip.Ok.shadow
    | with_reducible apply Chip.Ok.staged | with_reducible apply Chip.Ok.lib | with_reducible apply Chip.Ok.poison
    | with_reducible apply Chip.Ok.libLive | with_reducible apply Chip.Ok.libStaged
    | with_reducible apply Chip.Ok.volStage | with_reducible apply Chip.Ok.dies | with_reducible apply Chip.Ok.cals
    | with_reducible apply Chip.Ok.slots | with_reducible apply Chip.Ok.ports | with_reducible apply Chip.Ok.vols
    | with_reducible apply Chip.Ok.rets | with_reducible apply Chip.Ok.hosts | with_reducible apply Chip.Ok.of

theorem Chip.badWord_ok {N : Nat} {s : Chip} (hk : s.Ok N) (d sl : Nat) : (s.badWord d sl).Ok N := by
  unfold Chip.badWord
  extract_lets +onlyGivenNames p
  clear_value p
  repeat'
    first
    | with_reducible assumption | with_reducible apply Chip.modSlot_ok | with_reducible apply Chip.repeatPort_ok
    | with_reducible apply Chip.ite_ok | intro _ _ _ _ | intro _ _ _ | dsimp only

theorem Chip.sendFrames_ok {N : Nat} {s : Chip} (hk : s.Ok N)
    (n : Nat) (env : List Sys2Proof.DieTick) :
    (s.sendFrames n env).Ok N := by
  unfold Chip.sendFrames
  extract_lets +onlyGivenNames s
  have hs : Chip.Ok N s := by
    dsimp only [s]
    repeat'
      first
      | with_reducible assumption | with_reducible apply Chip.each_ok | with_reducible apply Chip.badWord_ok
      | with_reducible apply Chip.ite_ok | with_reducible apply Chip.each_ok | intro _ _ _ _ | intro _ _ _
      | dsimp only
  clear_value s
  extract_lets +onlyGivenNames s
  have hs : Chip.Ok N s := by
    dsimp only [s]
    repeat'
      first
      | with_reducible assumption | with_reducible apply Chip.each_ok | with_reducible apply Chip.repeatPort_ok
      | with_reducible apply Chip.ite_ok | with_reducible apply Chip.each_ok | intro _ _ _ _ | intro _ _ _
      | dsimp only
  clear_value s
  repeat'
    first
    | with_reducible assumption | with_reducible apply Chip.each_ok | with_reducible apply Chip.sendDown_ok
    | with_reducible apply Chip.each_ok | intro _ _ _ _ | intro _ _ _ | dsimp only

theorem Chip.sendRecords_ok {N : Nat} {s : Chip} (hk : s.Ok N) : (s.sendRecords).Ok N := by
  unfold Chip.sendRecords
  repeat'
    first
    | with_reducible assumption | with_reducible apply Chip.each_ok | with_reducible apply Chip.recvLoop_ok
    | with_reducible apply Chip.recvStandby_ok | with_reducible apply Chip.ite_ok
    | with_reducible apply Chip.each_ok | intro _ _ _ _ | intro _ _ _ | dsimp only

theorem Chip.finishTick_ok {N : Nat} {s : Chip} (hk : s.Ok N)
    (n : Nat) (env : List Sys2Proof.DieTick) :
    (s.finishTick n env).Ok N := by
  unfold Chip.finishTick
  extract_lets +onlyGivenNames s
  have hs : Chip.Ok N s := by
    dsimp only [s]
    repeat'
      first
      | with_reducible assumption | with_reducible apply Chip.volDeadlines_ok
      | with_reducible apply Chip.endWindows_ok | dsimp only
  clear_value s
  extract_lets +onlyGivenNames s
  have hs : Chip.Ok N s := by
    dsimp only [s]
    repeat'
      first
      | with_reducible assumption | with_reducible apply Chip.each_ok | with_reducible apply Chip.volReport_ok
      | with_reducible apply Chip.each_ok | intro _ _ _ _ | intro _ _ _ | dsimp only
  clear_value s
  extract_lets +onlyGivenNames s
  have hs : Chip.Ok N s := by
    dsimp only [s]
    repeat'
      first
      | with_reducible assumption | with_reducible apply Chip.loadBoundary_ok | dsimp only
  clear_value s
  extract_lets +onlyGivenNames s
  have hs : Chip.Ok N s := by
    dsimp only [s]
    repeat'
      first
      | with_reducible assumption | with_reducible apply Chip.composeAll_ok
      | with_reducible apply Chip.sendRecords_ok | dsimp only
  clear_value s
  repeat'
    first
    | with_reducible assumption | with_reducible apply Chip.each_ok | with_reducible apply Chip.libApply_ok
    | with_reducible apply Chip.sendFrames_ok | with_reducible apply Chip.trimTick_ok
    | with_reducible apply Chip.snapCapture_ok | with_reducible apply Chip.each_ok | intro _ _ _ _ | intro _ _ _
    | dsimp only

theorem Chip.closeTick_ok {N : Nat} {s : Chip} (hk : s.Ok N) (d : Nat) : (s.closeTick d).Ok N := by
  unfold Chip.closeTick
  extract_lets +onlyGivenNames s
  have hs : Chip.Ok N s := by
    dsimp only [s]
    repeat'
      first
      | with_reducible assumption | with_reducible apply Chip.overrun_ok | with_reducible apply Chip.set_ok
      | with_reducible apply Chip.ite_ok | dsimp only
  clear_value s
  repeat'
    first
    | with_reducible assumption | with_reducible apply Chip.modDie_ok | intro _ _ _ _ | intro _ _ _ | dsimp only

theorem Chip.advance_ok {N : Nat} {s : Chip} (hk : s.Ok N) (n now : Nat) : (s.advance n now).Ok N := by
  unfold Chip.advance
  extract_lets +onlyGivenNames s
  have hs : Chip.Ok N s := by
    dsimp only [s]
    repeat'
      first
      | with_reducible assumption | dsimp only | with_reducible apply tabPut_wf | with_reducible apply tabClear_wf
      | with_reducible apply tabFilter_wf | with_reducible apply tabMap_wf | with_reducible apply tabWf_nil
      | with_reducible apply emptyLog | with_reducible apply Chip.Ok.count | with_reducible apply Chip.Ok.log
      | with_reducible apply Chip.Ok.regs | with_reducible apply Chip.Ok.shadow
      | with_reducible apply Chip.Ok.staged | with_reducible apply Chip.Ok.lib
      | with_reducible apply Chip.Ok.poison | with_reducible apply Chip.Ok.libLive
      | with_reducible apply Chip.Ok.libStaged | with_reducible apply Chip.Ok.volStage
      | with_reducible apply Chip.Ok.dies | with_reducible apply Chip.Ok.cals | with_reducible apply Chip.Ok.slots
      | with_reducible apply Chip.Ok.ports | with_reducible apply Chip.Ok.vols | with_reducible apply Chip.Ok.rets
      | with_reducible apply Chip.Ok.hosts | with_reducible apply Chip.Ok.of
  clear_value s
  repeat'
    first
    | with_reducible assumption | with_reducible apply Chip.set_ok | with_reducible apply Chip.modTime_ok
    | with_reducible apply Chip.placeClocks_ok | with_reducible apply Chip.ite_ok | intro _ _ _ _ | intro _ _ _
    | dsimp only

theorem Chip.dieTick_ok {N : Nat} {s : Chip} (hk : s.Ok N)
    (d : Nat) (m : Sys2Proof.DieTick) (sec : Bool) :
    (s.dieTick d m sec).Ok N := by
  unfold Chip.dieTick
  extract_lets +onlyGivenNames s
  have hs : Chip.Ok N s := by
    dsimp only [s]
    repeat'
      first
      | with_reducible assumption | with_reducible apply Chip.setI_ok | with_reducible apply Chip.storeTick_ok
      | dsimp only
  clear_value s
  extract_lets +onlyGivenNames s
  have hs : Chip.Ok N s := by
    dsimp only [s]
    repeat'
      first
      | with_reducible assumption | with_reducible apply Chip.each_ok | with_reducible apply Chip.storeLoses_ok
      | with_reducible apply Chip.ownLine_ok | with_reducible apply Chip.each_ok | intro _ _ _ _ | intro _ _ _
      | dsimp only
  clear_value s
  extract_lets +onlyGivenNames s
  have hs : Chip.Ok N s := by
    dsimp only [s]
    repeat'
      first
      | with_reducible assumption | with_reducible apply Chip.synTick_ok | with_reducible apply Chip.pstepBegin_ok
      | with_reducible apply Chip.rampTick_ok | dsimp only
  clear_value s
  extract_lets +onlyGivenNames s
  have hs : Chip.Ok N s := by
    dsimp only [s]
    repeat'
      first
      | with_reducible assumption | with_reducible apply Chip.rampBegin_ok | with_reducible apply Chip.ckoTick_ok
      | with_reducible apply Chip.calTick_ok | dsimp only
  clear_value s
  extract_lets +onlyGivenNames s
  have hs : Chip.Ok N s := by
    dsimp only [s]
    repeat'
      first
      | with_reducible assumption | with_reducible apply Chip.each_ok | with_reducible apply Chip.portTick_ok
      | with_reducible apply Chip.each_ok | intro _ _ _ _ | intro _ _ _ | dsimp only
  clear_value s
  extract_lets +onlyGivenNames load
  clear_value load
  extract_lets +onlyGivenNames s
  have hs : Chip.Ok N s := by
    dsimp only [s]
    repeat'
      first
      | with_reducible assumption | with_reducible apply Chip.tempAges_ok | with_reducible apply Chip.modDie_ok
      | intro _ _ _ _ | intro _ _ _ | dsimp only
  clear_value s
  extract_lets +onlyGivenNames s
  have hs : Chip.Ok N s := by
    dsimp only [s]
    repeat'
      first
      | with_reducible assumption | with_reducible apply Chip.set_ok | dsimp only
  clear_value s
  repeat'
    first
    | with_reducible assumption | with_reducible apply Chip.set_ok

theorem Chip.second_ok {N : Nat} {s : Chip} (hk : s.Ok N) : (s.second).Ok N := by
  unfold Chip.second
  extract_lets +onlyGivenNames s
  have hs : Chip.Ok N s := by
    dsimp only [s]
    repeat'
      first
      | with_reducible assumption | with_reducible apply Chip.bump_ok | with_reducible apply Chip.ite_ok
      | dsimp only
  clear_value s
  repeat'
    first
    | with_reducible assumption | with_reducible apply Chip.each_ok | with_reducible apply Chip.set_ok
    | with_reducible apply Chip.each_ok | intro _ _ _ _ | intro _ _ _ | dsimp only

theorem Chip.packageTick_ok {N : Nat} {s : Chip} (hk : s.Ok N) (sec : Bool) : (s.packageTick sec).Ok N := by
  unfold Chip.packageTick
  extract_lets +onlyGivenNames s
  have hs : Chip.Ok N s := by
    dsimp only [s]
    repeat'
      first
      | with_reducible assumption | with_reducible apply Chip.unwrap_ok | with_reducible apply Chip.dTick_ok
      | with_reducible apply Chip.keyTick_ok | with_reducible apply Chip.prefTry_ok | dsimp only
  clear_value s
  extract_lets +onlyGivenNames s
  have hs : Chip.Ok N s := by
    dsimp only [s]
    repeat'
      first
      | with_reducible assumption | with_reducible apply Chip.tryFirst_ok | with_reducible apply Chip.tickPin_ok
      | with_reducible apply Chip.ppsFall_ok | with_reducible apply Chip.showHoSec_ok
      | with_reducible apply Chip.each_ok | with_reducible apply Chip.telFollow_ok
      | with_reducible apply Chip.each_ok | intro _ _ _ _ | intro _ _ _ | dsimp only
  clear_value s
  extract_lets +onlyGivenNames s
  have hs : Chip.Ok N s := by
    dsimp only [s]
    repeat'
      first
      | with_reducible assumption | with_reducible apply Chip.second_ok | with_reducible apply Chip.ite_ok
      | dsimp only
  clear_value s
  repeat'
    first
    | with_reducible assumption | with_reducible apply Chip.faultCapture_ok
    | with_reducible apply Chip.showHosts_ok

theorem Chip.slotTick_ok {N : Nat} {s : Chip} (hk : s.Ok N)
    (d sl m : Nat) (byp : Bool) :
    (s.slotTick d sl m byp).Ok N := by
  unfold Chip.slotTick
  extract_lets +onlyGivenNames s
  have hs : Chip.Ok N s := by
    dsimp only [s]
    repeat'
      first
      | with_reducible assumption | with_reducible apply Chip.kickEnd_ok | dsimp only
  clear_value s
  extract_lets +onlyGivenNames s
  have hs : Chip.Ok N s := by
    dsimp only [s]
    repeat'
      first
      | with_reducible assumption | with_reducible apply Chip.modSlot_ok | with_reducible apply Chip.tempTick_ok
      | intro _ _ _ _ | intro _ _ _ | dsimp only
  clear_value s
  repeat'
    first
    | with_reducible assumption | with_reducible apply Chip.accumulate_ok | with_reducible apply Chip.tempStale_ok

theorem Chip.beginTick_ok {N : Nat} {s : Chip} (hk : s.Ok N) (m : Nat) : (s.beginTick m).Ok N := by
  unfold Chip.beginTick
  extract_lets +onlyGivenNames s
  have hs : Chip.Ok N s := by
    dsimp only [s]
    repeat'
      first
      | with_reducible assumption | with_reducible apply Chip.each_ok | with_reducible apply Chip.slotTick_ok
      | with_reducible apply Chip.each_ok | intro _ _ _ _ | intro _ _ _ | dsimp only
  clear_value s
  extract_lets +onlyGivenNames s
  have hs : Chip.Ok N s := by
    dsimp only [s]
    repeat'
      first
      | with_reducible assumption | with_reducible apply Chip.each_ok | with_reducible apply Chip.modDie_ok
      | with_reducible apply Chip.each_ok | intro _ _ _ _ | intro _ _ _ | dsimp only
  clear_value s
  repeat'
    first
    | with_reducible assumption | dsimp only | with_reducible apply tabPut_wf | with_reducible apply tabClear_wf
    | with_reducible apply tabFilter_wf | with_reducible apply tabMap_wf | with_reducible apply tabWf_nil
    | with_reducible apply emptyLog | with_reducible apply Chip.Ok.count | with_reducible apply Chip.Ok.log
    | with_reducible apply Chip.Ok.regs | with_reducible apply Chip.Ok.shadow | with_reducible apply Chip.Ok.staged
    | with_reducible apply Chip.Ok.lib | with_reducible apply Chip.Ok.poison | with_reducible apply Chip.Ok.libLive
    | with_reducible apply Chip.Ok.libStaged | with_reducible apply Chip.Ok.volStage
    | with_reducible apply Chip.Ok.dies | with_reducible apply Chip.Ok.cals | with_reducible apply Chip.Ok.slots
    | with_reducible apply Chip.Ok.ports | with_reducible apply Chip.Ok.vols | with_reducible apply Chip.Ok.rets
    | with_reducible apply Chip.Ok.hosts | with_reducible apply Chip.Ok.of

theorem Chip.boundary_ok {N : Nat} {s : Chip} (hk : s.Ok N)
    (n now : Nat) (env : List Sys2Proof.DieTick) :
    (s.boundary n now env).Ok N := by
  unfold Chip.boundary
  extract_lets +onlyGivenNames m
  clear_value m
  extract_lets +onlyGivenNames s
  have hs : Chip.Ok N s := by
    dsimp only [s]
    repeat'
      first
      | with_reducible assumption | with_reducible apply Chip.finishTick_ok | with_reducible apply Chip.ite_ok
      | dsimp only
  clear_value s
  extract_lets +onlyGivenNames s
  have hs : Chip.Ok N s := by
    dsimp only [s]
    repeat'
      first
      | with_reducible assumption | with_reducible apply Chip.each_ok | with_reducible apply Chip.closeTick_ok
      | with_reducible apply Chip.each_ok | intro _ _ _ _ | intro _ _ _ | dsimp only
  clear_value s
  extract_lets +onlyGivenNames t0
  clear_value t0
  extract_lets +onlyGivenNames sec
  clear_value sec
  extract_lets +onlyGivenNames s
  have hs : Chip.Ok N s := by
    dsimp only [s]
    repeat'
      first
      | with_reducible assumption | with_reducible apply Chip.advance_ok | dsimp only
  clear_value s
  extract_lets +onlyGivenNames s
  have hs : Chip.Ok N s := by
    dsimp only [s]
    repeat'
      first
      | with_reducible assumption | with_reducible apply Chip.each_ok | with_reducible apply Chip.dieTick_ok
      | with_reducible apply Chip.ite_ok | with_reducible apply Chip.each_ok | intro _ _ _ _ | intro _ _ _
      | dsimp only
  clear_value s
  extract_lets +onlyGivenNames s
  have hs : Chip.Ok N s := by
    dsimp only [s]
    repeat'
      first
      | with_reducible assumption | with_reducible apply Chip.packageTick_ok | dsimp only
  clear_value s
  repeat'
    first
    | with_reducible assumption | with_reducible apply Chip.commitTick_ok | with_reducible apply Chip.beginTick_ok
    | with_reducible apply Chip.ite_ok | intro _ _ _ _ | intro _ _ _ | dsimp only | with_reducible apply tabPut_wf
    | with_reducible apply tabClear_wf | with_reducible apply tabFilter_wf | with_reducible apply tabMap_wf
    | with_reducible apply tabWf_nil | with_reducible apply emptyLog | with_reducible apply Chip.Ok.count
    | with_reducible apply Chip.Ok.log | with_reducible apply Chip.Ok.regs | with_reducible apply Chip.Ok.shadow
    | with_reducible apply Chip.Ok.staged | with_reducible apply Chip.Ok.lib | with_reducible apply Chip.Ok.poison
    | with_reducible apply Chip.Ok.libLive | with_reducible apply Chip.Ok.libStaged
    | with_reducible apply Chip.Ok.volStage | with_reducible apply Chip.Ok.dies | with_reducible apply Chip.Ok.cals
    | with_reducible apply Chip.Ok.slots | with_reducible apply Chip.Ok.ports | with_reducible apply Chip.Ok.vols
    | with_reducible apply Chip.Ok.rets | with_reducible apply Chip.Ok.hosts | with_reducible apply Chip.Ok.of

theorem Chip.shiftPending_ok {N : Nat} {s : Chip} (hk : s.Ok N) (ns n : Nat) : (s.shiftPending ns n).Ok N := by
  unfold Chip.shiftPending
  extract_lets +onlyGivenNames f
  clear_value f
  extract_lets +onlyGivenNames g
  clear_value g
  repeat'
    first
    | with_reducible assumption | with_reducible apply Chip.rampAbortAt_ok | with_reducible apply Chip.ite_ok
    | intro _ _ _ _ | intro _ _ _ | dsimp only | with_reducible apply tabPut_wf | with_reducible apply tabClear_wf
    | with_reducible apply tabFilter_wf | with_reducible apply tabMap_wf | with_reducible apply tabWf_nil
    | with_reducible apply emptyLog | with_reducible apply Chip.Ok.count | with_reducible apply Chip.Ok.log
    | with_reducible apply Chip.Ok.regs | with_reducible apply Chip.Ok.shadow | with_reducible apply Chip.Ok.staged
    | with_reducible apply Chip.Ok.lib | with_reducible apply Chip.Ok.poison | with_reducible apply Chip.Ok.libLive
    | with_reducible apply Chip.Ok.libStaged | with_reducible apply Chip.Ok.volStage
    | with_reducible apply Chip.Ok.dies | with_reducible apply Chip.Ok.cals | with_reducible apply Chip.Ok.slots
    | with_reducible apply Chip.Ok.ports | with_reducible apply Chip.Ok.vols | with_reducible apply Chip.Ok.rets
    | with_reducible apply Chip.Ok.hosts | with_reducible apply Chip.Ok.of

theorem Chip.dropPassed_ok {N : Nat} {s : Chip} (hk : s.Ok N) (n : Nat) : (s.dropPassed n).Ok N := by
  unfold Chip.dropPassed
  repeat'
    first
    | with_reducible assumption | with_reducible apply Chip.modSched_ok | intro _ _ _ _ | intro _ _ _ | dsimp only

theorem Chip.stepped_ok {N : Nat} {s : Chip} (hk : s.Ok N)
    (x : Nat) (restep : Bool) :
    (s.stepped x restep).Ok N := by
  unfold Chip.stepped
  extract_lets +onlyGivenNames first
  clear_value first
  extract_lets +onlyGivenNames s
  have hs : Chip.Ok N s := by
    dsimp only [s]
    repeat'
      first
      | with_reducible assumption | with_reducible apply Chip.set_ok | dsimp only
  clear_value s
  extract_lets +onlyGivenNames s
  have hs : Chip.Ok N s := by
    dsimp only [s]
    repeat'
      first
      | with_reducible assumption | with_reducible apply Chip.modTime_ok | with_reducible apply Chip.raise_ok
      | intro _ _ _ _ | intro _ _ _ | dsimp only
  clear_value s
  extract_lets +onlyGivenNames s
  have hs : Chip.Ok N s := by
    dsimp only [s]
    repeat'
      first
      | with_reducible assumption | with_reducible apply Chip.raise_ok | with_reducible apply Chip.ite_ok
      | dsimp only
  clear_value s
  repeat'
    first
    | with_reducible assumption | with_reducible apply Chip.raise_ok | with_reducible apply Chip.ite_ok

theorem Chip.stepTime_ok {N : Nat} {s : Chip} (hk : s.Ok N)
    (env : List Sys2Proof.DieTick) :
    (s.stepTime env).Ok N := by
  unfold Chip.stepTime
  repeat'
    first
    | with_reducible assumption | with_reducible apply Chip.dropPassed_ok
    | with_reducible apply Chip.shiftPending_ok | with_reducible apply Chip.boundary_ok
    | with_reducible apply Chip.stepped_ok | with_reducible apply Chip.volRemap_ok
    | with_reducible apply Chip.schedJump_ok | with_reducible apply Chip.showSched_ok
    | with_reducible apply Chip.launchPassed_ok | with_reducible apply Chip.ite_ok | split | dsimp only

theorem Chip.nextTick_ok {N : Nat} {s : Chip} (hk : s.Ok N)
    (env : List Sys2Proof.DieTick) :
    (s.nextTick env).Ok N := by
  unfold Chip.nextTick
  repeat'
    first
    | with_reducible assumption | with_reducible apply Chip.boundary_ok | with_reducible apply Chip.stepTime_ok
    | with_reducible apply Chip.ite_ok

theorem Chip.unreached_ok {N : Nat} {s : Chip} (hk : s.Ok N) (d sl : Nat) : (s.unreached d sl).Ok N := by
  unfold Chip.unreached
  repeat'
    first
    | with_reducible assumption | with_reducible apply Chip.excludedBad_ok
    | with_reducible apply Chip.discardSample_ok | with_reducible apply Chip.windowOnce_ok
    | with_reducible apply Chip.ite_ok | dsimp only

theorem Chip.overrun_ok {N : Nat} {s : Chip} (hk : s.Ok N)
    (d k : Nat) (begun : Nat) :
    (s.overrun d k begun).Ok N := by
  unfold Chip.overrun
  repeat'
    first
    | with_reducible assumption | with_reducible apply Chip.overrun_ok | with_reducible apply Chip.each_ok
    | with_reducible apply Chip.windowOnce_ok | with_reducible apply Chip.unreached_ok
    | with_reducible apply Chip.repeatPort_ok | with_reducible apply Chip.modDie_ok
    | with_reducible apply Chip.bump_ok | with_reducible apply Chip.raiseF3_ok | with_reducible apply Chip.raise_ok
    | with_reducible apply Chip.raiseF1_ok | with_reducible apply Chip.ite_ok | with_reducible apply Chip.each_ok
    | intro _ _ _ _ | intro _ _ _ | dsimp only

theorem Chip.readWinPop_ok {N : Nat} {s : Chip} (hk : s.Ok N) (p d : Nat) : (s.readWinPop p d).Ok N := by
  unfold Chip.readWinPop
  extract_lets +onlyGivenNames s
  have hs : Chip.Ok N s := by
    dsimp only [s]
    repeat'
      first
      | with_reducible assumption | with_reducible apply Chip.winPop_ok | dsimp only
  clear_value s
  repeat'
    first
    | with_reducible assumption | with_reducible apply Chip.latchHigh_ok | with_reducible apply Chip.complete_ok

theorem Chip.peakClr_ok {N : Nat} {s : Chip} (hk : s.Ok N) (d : Nat) (v : Word) : (s.peakClr d v).Ok N := by
  unfold Chip.peakClr
  repeat'
    first
    | with_reducible assumption | with_reducible apply Chip.set_ok | with_reducible apply Chip.ite_ok

theorem Chip.sidelineAcc_ok {N : Nat} {s : Chip} (hk : s.Ok N) (d : Nat) : (s.sidelineAcc d).Ok N := by
  unfold Chip.sidelineAcc
  repeat'
    first
    | with_reducible assumption | with_reducible apply Chip.bump_ok | with_reducible apply Chip.raise_ok

theorem Chip.timeNow_ok {N : Nat} {s : Chip} (hk : s.Ok N) (p : Nat) : (s.timeNow p).Ok N := by
  unfold Chip.timeNow
  repeat'
    first
    | with_reducible assumption | with_reducible apply Chip.modHost_ok | with_reducible apply Chip.complete_ok
    | intro _ _ _ _ | intro _ _ _ | dsimp only

end Sys2Proof.Machine
end

