-- ==== Sys2Proof/Laws/Ok/Access.lean ====
section
/-!
SUPPORT. Laws/Ok/Access.lean: every operation of Machine/Access.lean keeps a package in good order.
-/

namespace Sys2Proof.Machine

theorem Chip.widthDiscard_ok {N : Nat} {s : Chip} (hk : s.Ok N) (p : Nat) : (s.widthDiscard p).Ok N := by
  unfold Chip.widthDiscard
  repeat'
    first
    | with_reducible assumption | with_reducible apply Chip.bump_ok | with_reducible apply Chip.raise_ok

theorem Chip.plainWrite_ok {N : Nat} {s : Chip} (hk : s.Ok N)
    (p a : Nat) (v : Word) :
    (s.plainWrite p a v).Ok N := by
  unfold Chip.plainWrite
  repeat'
    first
    | with_reducible assumption | with_reducible apply Chip.setReg_ok | with_reducible apply Chip.setShadow_ok
    | with_reducible apply Chip.ite_ok | split | dsimp only

theorem Chip.setLow_ok {N : Nat} {s : Chip} (hk : s.Ok N)
    (p a : Nat) (v : Option Word) :
    (s.setLow p a v).Ok N := by
  unfold Chip.setLow
  repeat'
    first
    | with_reducible assumption | with_reducible apply Chip.modHost_ok | intro _ _ _ _ | intro _ _ _ | dsimp only

theorem Chip.releaseLow_ok {N : Nat} {s : Chip} (hk : s.Ok N) (p a : Nat) : (s.releaseLow p a).Ok N := by
  unfold Chip.releaseLow
  repeat'
    first
    | with_reducible assumption | with_reducible apply Chip.setLow_ok | with_reducible apply Chip.ite_ok

theorem Chip.joinHigh_ok {N : Nat} {s : Chip} (hk : s.Ok N)
    (p a : Nat) (v : Word) (f : Nat → Word → Chip → Chip)
    (hf : ∀ b w t, Chip.Ok N t → (f b w t).Ok N) :
    (s.joinHigh p a v f).Ok N := by
  unfold Chip.joinHigh
  repeat'
    first
    | with_reducible assumption | with_reducible apply Chip.widthDiscard_ok | with_reducible apply Chip.setLow_ok
    | with_reducible apply hf | split

theorem Chip.pairWrite_ok {N : Nat} {s : Chip} (hk : s.Ok N)
    (p a : Nat) (v : Word) (f : Nat → Word → Chip → Chip)
    (hf : ∀ b w t, Chip.Ok N t → (f b w t).Ok N) :
    (s.pairWrite p a v f).Ok N := by
  unfold Chip.pairWrite
  repeat'
    first
    | with_reducible assumption | with_reducible apply Chip.setLow_ok | with_reducible apply Chip.joinHigh_ok
    | with_reducible apply hf | split

theorem Chip.commonWrite_ok {N : Nat} {s : Chip} (hk : s.Ok N)
    (p a : Nat) (v : Word) :
    (s.commonWrite p a v).Ok N := by
  unfold Chip.commonWrite
  repeat'
    first
    | with_reducible assumption | with_reducible apply Chip.pairWrite_ok | with_reducible apply Chip.plainWrite_ok
    | intro _ _ _ _ | intro _ _ _ | dsimp only

theorem Chip.libEffect_ok {N : Nat} {s : Chip} (hk : s.Ok N) (p o : Nat) (v : Word) : (s.libEffect p o v).Ok N := by
  unfold Chip.libEffect
  extract_lets +onlyGivenNames d
  clear_value d
  extract_lets +onlyGivenNames k
  clear_value k
  repeat'
    first
    | with_reducible assumption | with_reducible apply Chip.setLow_ok | with_reducible apply Chip.sidelineAcc_ok
    | with_reducible apply Chip.libLost_ok | with_reducible apply Chip.widthDiscard_ok
    | with_reducible apply Chip.libWrite_ok | with_reducible apply Chip.ite_ok | split

theorem Chip.dieEffect_ok {N : Nat} {s : Chip} (hk : s.Ok N)
    (p c a : Nat) (v : Word) :
    (s.dieEffect p c a v).Ok N := by
  unfold Chip.dieEffect
  extract_lets +onlyGivenNames d
  clear_value d
  extract_lets +onlyGivenNames r
  clear_value r
  repeat'
    first
    | with_reducible assumption | with_reducible apply Chip.peakClr_ok | with_reducible apply Chip.plainWrite_ok
    | with_reducible apply Chip.surveyStart_ok | with_reducible apply Chip.releaseLow_ok
    | with_reducible apply Chip.sidelineAcc_ok | with_reducible apply Chip.pstep_ok
    | with_reducible apply Chip.writeRampCtrl_ok | with_reducible apply Chip.raise_ok
    | with_reducible apply Chip.commonWrite_ok | with_reducible apply Chip.clkoutSelect_ok
    | with_reducible apply Chip.writeCalCtrl_ok | with_reducible apply Chip.retrain_ok
    | with_reducible apply Chip.each_ok | with_reducible apply Chip.loopClear_ok
    | with_reducible apply Chip.efeWrite_ok | with_reducible apply Chip.ite_ok | with_reducible apply Chip.each_ok
    | intro _ _ _ _ | intro _ _ _ | split | dsimp only

theorem Chip.volEffect_ok {N : Nat} {s : Chip} (hk : s.Ok N) (p a : Nat) (v : Word) : (s.volEffect p a v).Ok N := by
  unfold Chip.volEffect
  extract_lets +onlyGivenNames q
  clear_value q
  extract_lets +onlyGivenNames o
  clear_value o
  repeat'
    first
    | with_reducible assumption | with_reducible apply Chip.volCtrl_ok | with_reducible apply Chip.pairWrite_ok
    | with_reducible apply Chip.volWrite_ok | with_reducible apply Chip.releaseLow_ok
    | with_reducible apply Chip.ite_ok | intro _ _ _ _ | intro _ _ _ | dsimp only

theorem Chip.secEffect_ok {N : Nat} {s : Chip} (hk : s.Ok N) (p a : Nat) (v : Word) : (s.secEffect p a v).Ok N := by
  unfold Chip.secEffect
  repeat'
    first
    | with_reducible assumption | with_reducible apply Chip.sessCtrl_ok | with_reducible apply Chip.ownerCtrl_ok
    | with_reducible apply Chip.lifecycleWrite_ok | with_reducible apply Chip.rollbackWrite_ok
    | with_reducible apply Chip.disableWrite_ok | with_reducible apply Chip.hp1Write_ok
    | with_reducible apply Chip.debugWrite_ok | with_reducible apply Chip.ptpKeyWrite_ok
    | with_reducible apply Chip.telKeyWrite_ok | with_reducible apply Chip.keyDataWrite_ok
    | with_reducible apply Chip.attGo_ok | with_reducible apply Chip.logSelect_ok
    | with_reducible apply Chip.setReg_ok | with_reducible apply Chip.commonWrite_ok
    | with_reducible apply Chip.ite_ok

theorem Chip.ethEffect_ok {N : Nat} {s : Chip} (hk : s.Ok N) (p a : Nat) (v : Word) : (s.ethEffect p a v).Ok N := by
  unfold Chip.ethEffect
  repeat'
    first
    | with_reducible assumption | with_reducible apply Chip.launchWrite_ok
    | with_reducible apply Chip.launchCtrl_ok | with_reducible apply Chip.commonWrite_ok
    | with_reducible apply Chip.ite_ok | dsimp only

theorem Chip.msixWrite_ok {N : Nat} {s : Chip} (hk : s.Ok N) (p i : Nat) (v : Word) : (s.msixWrite p i v).Ok N := by
  unfold Chip.msixWrite
  repeat'
    first
    | with_reducible assumption | with_reducible apply Chip.modHost_ok | with_reducible apply Chip.ite_ok
    | intro _ _ _ _ | intro _ _ _ | dsimp only

theorem Chip.pkgEffect_ok {N : Nat} {s : Chip} (hk : s.Ok N) (p a : Nat) (v : Word) : (s.pkgEffect p a v).Ok N := by
  unfold Chip.pkgEffect
  repeat'
    first
    | with_reducible assumption | with_reducible apply Chip.volWrite_ok | with_reducible apply Chip.commitGo_ok
    | with_reducible apply Chip.plainWrite_ok | with_reducible apply Chip.f0Persist_ok
    | with_reducible apply Chip.dieCtrl_ok | with_reducible apply Chip.updCtrl_ok
    | with_reducible apply Chip.restepWrite_ok | with_reducible apply Chip.volEffect_ok
    | with_reducible apply Chip.secEffect_ok | with_reducible apply Chip.pinWrite_ok
    | with_reducible apply Chip.imgCtrl_ok | with_reducible apply Chip.flCtrl_ok
    | with_reducible apply Chip.retCtrl_ok | with_reducible apply Chip.msixWrite_ok
    | with_reducible apply Chip.ethEffect_ok | with_reducible apply Chip.commonWrite_ok
    | with_reducible apply Chip.ite_ok

theorem Chip.regEffect_ok {N : Nat} {s : Chip} (hk : s.Ok N)
    (p c a : Nat) (v : Word) :
    (s.regEffect p c a v).Ok N := by
  unfold Chip.regEffect
  repeat'
    first
    | with_reducible assumption | with_reducible apply Chip.libEffect_ok | with_reducible apply Chip.dieEffect_ok
    | with_reducible apply Chip.pkgEffect_ok | with_reducible apply Chip.ite_ok

theorem Chip.effects_ok {N : Nat} {s : Chip} (hk : s.Ok N)
    (p c : Nat) (l : List (Nat × Word)) :
    (s.effects p c l).Ok N := by
  unfold Chip.effects
  repeat'
    first
    | with_reducible assumption | with_reducible apply Chip.regEffect_ok | with_reducible apply Chip.foldl_ok
    | intro _ _ _ _ | intro _ _ _ | dsimp only

theorem Chip.heldEffect_ok {N : Nat} {s : Chip} (hk : s.Ok N)
    (p c : Nat) (first : Bool) (w : Nat × Word) :
    (s.heldEffect p c first w).Ok N := by
  unfold Chip.heldEffect
  repeat'
    first
    | with_reducible assumption | with_reducible apply Chip.rwlRefuse_ok | with_reducible apply Chip.libLost_ok
    | with_reducible apply Chip.regEffect_ok | with_reducible apply Chip.ite_ok

theorem Chip.heldApply_ok {N : Nat} {s : Chip} (hk : s.Ok N)
    (p c : Nat) (l : List (Nat × Word)) :
    (s.heldApply p c l).Ok N := by
  unfold Chip.heldApply
  extract_lets +onlyGivenNames first
  clear_value first
  extract_lets +onlyGivenNames h
  clear_value h
  extract_lets +onlyGivenNames s
  have hs : Chip.Ok N s := by
    dsimp only [s]
    repeat'
      first
      | with_reducible assumption | with_reducible apply Chip.groupEnd_ok | with_reducible apply Chip.effects_ok
      | with_reducible apply Chip.ite_ok | dsimp only
  clear_value s
  extract_lets +onlyGivenNames s
  have hs : Chip.Ok N s := by
    dsimp only [s]
    repeat'
      first
      | with_reducible assumption | with_reducible apply Chip.heldEffect_ok | with_reducible apply Chip.foldl_ok
      | intro _ _ _ _ | intro _ _ _ | dsimp only
  clear_value s
  repeat'
    first
    | with_reducible assumption | with_reducible apply Chip.sessEnd_ok | with_reducible apply Chip.ite_ok

theorem Chip.awCtrl_ok {N : Nat} {s : Chip} (hk : s.Ok N) (p c : Nat) (v : Word) : (s.awCtrl p c v).Ok N := by
  unfold Chip.awCtrl
  extract_lets +onlyGivenNames x
  clear_value x
  repeat'
    first
    | with_reducible assumption | with_reducible apply Chip.awResult_ok | with_reducible apply Chip.heldDiscard_ok
    | with_reducible apply Chip.heldVerify_ok | with_reducible apply Chip.heldApply_ok
    | with_reducible apply Chip.groupEnd_ok | with_reducible apply Chip.ite_ok | split
    | with_reducible refine Chip.fst_ok (by assumption) ?_

theorem Chip.groupAdd_ok {N : Nat} {s : Chip} (hk : s.Ok N) (p a : Nat) (v : Word) : (s.groupAdd p a v).Ok N := by
  unfold Chip.groupAdd
  extract_lets +onlyGivenNames l
  clear_value l
  repeat'
    first
    | with_reducible assumption | with_reducible apply Chip.groupEnd_ok | with_reducible apply Chip.modHost_ok
    | with_reducible apply Chip.set_ok | with_reducible apply Chip.ite_ok | intro _ _ _ _ | intro _ _ _
    | dsimp only

theorem Chip.groupBad_ok {N : Nat} {s : Chip} (hk : s.Ok N) (p : Nat) : (s.groupBad p).Ok N := by
  unfold Chip.groupBad
  repeat'
    first
    | with_reducible assumption | with_reducible apply Chip.set_ok

theorem Chip.groupCtrl_ok {N : Nat} {s : Chip} (hk : s.Ok N) (p c : Nat) (v : Word) : (s.groupCtrl p c v).Ok N := by
  unfold Chip.groupCtrl
  extract_lets +onlyGivenNames x
  clear_value x
  extract_lets +onlyGivenNames n
  clear_value n
  extract_lets +onlyGivenNames keep
  subst keep
  extract_lets +onlyGivenNames isOpen
  clear_value isOpen
  repeat'
    first
    | with_reducible assumption | with_reducible apply Chip.groupBad_ok | with_reducible apply Chip.modHost_ok
    | with_reducible apply Chip.set_ok | with_reducible apply Chip.groupEnd_ok
    | with_reducible apply Chip.effects_ok | with_reducible apply Chip.ite_ok | intro _ _ _ _ | intro _ _ _
    | dsimp only

theorem Chip.directWrite_ok {N : Nat} {s : Chip} (hk : s.Ok N)
    (p c a : Nat) (v : Word) :
    (s.directWrite p c a v).Ok N := by
  unfold Chip.directWrite
  repeat'
    first
    | with_reducible assumption | with_reducible apply Chip.awCtrl_ok | with_reducible apply Chip.groupCtrl_ok
    | with_reducible apply Chip.regEffect_ok | with_reducible apply Chip.ite_ok

theorem Chip.hostWrite_ok {N : Nat} {s : Chip} (hk : s.Ok N)
    (p c a : Nat) (v : Word) :
    (s.hostWrite p c a v).Ok N := by
  unfold Chip.hostWrite
  repeat'
    first
    | with_reducible assumption | with_reducible apply Chip.heldWrite_ok | with_reducible apply Chip.groupAdd_ok
    | with_reducible apply Chip.directWrite_ok | with_reducible apply Chip.ite_ok

theorem Chip.narrowWrite_ok {N : Nat} {s : Chip} (hk : s.Ok N)
    (p a : Nat) (v : Word) :
    (s.narrowWrite p a v).Ok N := by
  unfold Chip.narrowWrite
  extract_lets +onlyGivenNames t
  have ht : Chip.Ok N t := by
    dsimp only [t]
    repeat'
      first
      | with_reducible assumption | with_reducible apply Chip.widthDiscard_ok
      | with_reducible apply Chip.libLost_ok | dsimp only
  clear_value t
  repeat'
    first
    | with_reducible assumption | with_reducible apply Chip.heldBad_ok | with_reducible apply Chip.ite_ok

theorem Chip.readPair_ok {N : Nat} {s : Chip} (hk : s.Ok N) (p a : Nat) : (s.readPair p a).1.Ok N := by
  unfold Chip.readPair
  repeat'
    first
    | with_reducible assumption | with_reducible apply Chip.latchHigh_ok | with_reducible apply Chip.modHost_ok
    | with_reducible apply Chip.ite_fst_ok | intro _ _ _ _ | intro _ _ _ | dsimp only | split

theorem Chip.readPopHigh_ok {N : Nat} {s : Chip} (hk : s.Ok N)
    (p lo : Nat) (now : Word) :
    (s.readPopHigh p lo now).1.Ok N := by
  unfold Chip.readPopHigh
  repeat'
    first
    | with_reducible assumption | with_reducible apply Chip.modHost_ok | with_reducible apply Chip.ite_fst_ok
    | intro _ _ _ _ | intro _ _ _ | dsimp only | split

theorem Chip.releaseHigh_ok {N : Nat} {s : Chip} (hk : s.Ok N) (p a : Nat) : (s.releaseHigh p a).Ok N := by
  unfold Chip.releaseHigh
  repeat'
    first
    | with_reducible assumption | with_reducible apply Chip.modHost_ok | with_reducible apply Chip.ite_ok
    | intro _ _ _ _ | intro _ _ _ | dsimp only

theorem Chip.readDie_ok {N : Nat} {s : Chip} (hk : s.Ok N) (p a : Nat) : (s.readDie p a).1.Ok N := by
  unfold Chip.readDie
  extract_lets +onlyGivenNames d
  clear_value d
  repeat'
    first
    | with_reducible assumption | with_reducible apply Chip.releaseHigh_ok
    | with_reducible apply Chip.sidelineAcc_ok | with_reducible apply Chip.readWinPop_ok
    | with_reducible apply Chip.winPop_ok | with_reducible apply Chip.readPopHigh_ok
    | with_reducible apply Chip.readPair_ok | with_reducible apply Chip.ite_ok
    | with_reducible apply Chip.ite_fst_ok | intro _ _ _ _ | intro _ _ _ | dsimp only
    | with_reducible refine Chip.fst_ok (by assumption) ?_

theorem Chip.readWord_ok {N : Nat} {s : Chip} (hk : s.Ok N) (p a : Nat) : (s.readWord p a).1.Ok N := by
  unfold Chip.readWord
  repeat'
    first
    | with_reducible assumption | with_reducible apply Chip.readDie_ok | with_reducible apply Chip.timeNow_ok
    | with_reducible apply Chip.readLogPop_ok | with_reducible apply Chip.logPop_ok
    | with_reducible apply Chip.readPopHigh_ok | with_reducible apply Chip.readPair_ok
    | with_reducible apply Chip.ite_ok | with_reducible apply Chip.ite_fst_ok | intro _ _ _ _ | intro _ _ _
    | dsimp only | with_reducible refine Chip.fst_ok (by assumption) ?_

theorem Chip.readLib_ok {N : Nat} {s : Chip} (hk : s.Ok N) (o : Nat) : (s.readLib o).1.Ok N := by
  unfold Chip.readLib
  extract_lets +onlyGivenNames d
  clear_value d
  extract_lets +onlyGivenNames k
  clear_value k
  repeat'
    first
    | with_reducible assumption | with_reducible apply Chip.sidelineAcc_ok | with_reducible apply Chip.readEntry_ok
    | with_reducible apply Chip.raise_ok | with_reducible apply Chip.ite_ok | with_reducible apply Chip.ite_fst_ok
    | intro _ _ _ _ | intro _ _ _ | dsimp only | with_reducible refine Chip.fst_ok (by assumption) ?_

theorem Chip.refuseUr_ok {N : Nat} {s : Chip} (hk : s.Ok N) (p : Nat) (read : Bool) : (s.refuseUr p read).Ok N := by
  unfold Chip.refuseUr
  repeat'
    first
    | with_reducible assumption | with_reducible apply Chip.unsupported_ok | with_reducible apply Chip.aerSet_ok
    | with_reducible apply Chip.bump_ok | with_reducible apply Chip.ite_ok

theorem Chip.refuseCa_ok {N : Nat} {s : Chip} (hk : s.Ok N) (p : Nat) (read : Bool) : (s.refuseCa p read).Ok N := by
  unfold Chip.refuseCa
  extract_lets +onlyGivenNames t
  have ht : Chip.Ok N t := by
    dsimp only [t]
    repeat'
      first
      | with_reducible assumption | with_reducible apply Chip.aerSet_ok | with_reducible apply Chip.bump_ok
      | dsimp only
  clear_value t
  repeat'
    first
    | with_reducible assumption | with_reducible apply Chip.complete_ok | with_reducible apply Chip.ite_ok

theorem Chip.parityDiscard_ok {N : Nat} {s : Chip} (hk : s.Ok N) (p : Nat) : (s.parityDiscard p).Ok N := by
  unfold Chip.parityDiscard
  repeat'
    first
    | with_reducible assumption | with_reducible apply Chip.bump_ok | with_reducible apply Chip.raiseF3_ok

theorem Chip.readDw_ok {N : Nat} {s : Chip} (hk : s.Ok N)
    (p : Nat) (lib : Bool) (be : BitVec 4) (a : Nat) :
    (s.readDw p lib be a).1.Ok N := by
  unfold Chip.readDw
  extract_lets +onlyGivenNames x
  have hx : Chip.Ok N x.1 := by
    dsimp only [x]
    repeat'
      first
      | with_reducible assumption | with_reducible apply Chip.readLib_ok | with_reducible apply Chip.readWord_ok
      | with_reducible apply Chip.ite_ok | with_reducible apply Chip.ite_fst_ok | intro _ _ _ _ | intro _ _ _
      | dsimp only | with_reducible refine Chip.fst_ok (by assumption) ?_
  clear_value x
  repeat'
    first
    | with_reducible assumption | with_reducible apply Chip.ite_ok | with_reducible apply Chip.ite_fst_ok
    | intro _ _ _ _ | intro _ _ _ | dsimp only

theorem Chip.readDws_ok {N : Nat} {s : Chip} (hk : s.Ok N)
    (p : Nat) (lib : Bool) (fbe lbe : BitVec 4) (n : Nat) (l : List Nat) (i : Nat) :
    (s.readDws p lib fbe lbe n l i).1.Ok N := by
  unfold Chip.readDws
  repeat'
    first
    | with_reducible assumption | with_reducible apply Chip.readDw_ok | with_reducible apply Chip.readDws_ok
    | with_reducible apply Chip.ite_fst_ok | intro _ _ _ _ | intro _ _ _ | dsimp only | split
    | with_reducible refine Chip.fst_ok (by assumption) ?_

theorem Chip.memRead_ok {N : Nat} {s : Chip} (hk : s.Ok N)
    (p : Nat) (lib : Bool) (a n : Nat) (fbe lbe : BitVec 4) (perr : Bool) :
    (s.memRead p lib a n fbe lbe perr).Ok N := by
  unfold Chip.memRead
  repeat'
    first
    | with_reducible assumption | with_reducible apply Chip.unsupported_ok | with_reducible apply Chip.refuseCa_ok
    | with_reducible apply Chip.raise_ok | with_reducible apply Chip.readDws_ok
    | with_reducible apply Chip.observe_ok | with_reducible apply Chip.complete_ok
    | with_reducible apply Chip.aerSet_ok | with_reducible apply Chip.ite_ok | dsimp only
    | with_reducible refine Chip.fst_ok (by assumption) ?_

theorem Chip.writeDw_ok {N : Nat} {s : Chip} (hk : s.Ok N)
    (p c : Nat) (lib perr : Bool) (be : BitVec 4) (a : Nat) (v : Word) :
    (s.writeDw p c lib perr be a v).Ok N := by
  unfold Chip.writeDw
  extract_lets +onlyGivenNames k
  clear_value k
  repeat'
    first
    | with_reducible assumption | with_reducible apply Chip.parityDiscard_ok
    | with_reducible apply Chip.narrowWrite_ok | with_reducible apply Chip.hostWrite_ok
    | with_reducible apply Chip.ite_ok

theorem Chip.memWrite_ok {N : Nat} {s : Chip} (hk : s.Ok N)
    (p c : Nat) (lib : Bool) (a : Nat) (vs : List Word) (fbe lbe : BitVec 4) (perr : Nat) :
    (s.memWrite p c lib a vs fbe lbe perr).Ok N := by
  unfold Chip.memWrite
  extract_lets +onlyGivenNames n
  clear_value n
  repeat'
    first
    | with_reducible assumption | with_reducible apply Chip.refuseUr_ok | with_reducible apply Chip.aerSet_ok
    | with_reducible apply Chip.refuseCa_ok | with_reducible apply Chip.raise_ok
    | with_reducible apply Chip.each_ok | with_reducible apply Chip.writeDw_ok | with_reducible apply Chip.ite_ok
    | with_reducible apply Chip.each_ok | intro _ _ _ _ | intro _ _ _ | dsimp only

theorem Chip.writeOne_ok {N : Nat} {s : Chip} (hk : s.Ok N)
    (p cyc : Nat) (a : BitVec 26) (v : Word) :
    (s.writeOne p cyc a v).Ok N := by
  unfold Chip.writeOne
  repeat'
    first
    | with_reducible assumption | with_reducible apply Chip.memWrite_ok

theorem Chip.readOne_ok {N : Nat} {s : Chip} (hk : s.Ok N) (p : Nat) (a : BitVec 26) : (s.readOne p a).Ok N := by
  unfold Chip.readOne
  repeat'
    first
    | with_reducible assumption | with_reducible apply Chip.memRead_ok

theorem Chip.writePart_ok {N : Nat} {s : Chip} (hk : s.Ok N)
    (h : Half) (p cyc : Nat) (a : BitVec 26) (v : Word) :
    (s.writePart h p cyc a v).Ok N := by
  unfold Chip.writePart
  repeat'
    first
    | with_reducible assumption | with_reducible apply Chip.writeOne_ok | with_reducible apply Chip.ite_ok

theorem Chip.readPart_ok {N : Nat} {s : Chip} (hk : s.Ok N)
    (h : Half) (p : Nat) (a : BitVec 26) :
    (s.readPart h p a).Ok N := by
  unfold Chip.readPart
  repeat'
    first
    | with_reducible assumption | with_reducible apply Chip.readOne_ok | with_reducible apply Chip.ite_ok

theorem Chip.groupOp_ok {N : Nat} {s : Chip} (hk : s.Ok N)
    (b p cyc : Nat) (v : Word) :
    (s.groupOp b p cyc v).Ok N := by
  unfold Chip.groupOp
  repeat'
    first
    | with_reducible assumption | with_reducible apply Chip.writeOne_ok | with_reducible apply Chip.ite_ok

theorem Chip.smbRead_ok {N : Nat} {s : Chip} (hk : s.Ok N) (addr code : Nat) : (s.smbRead addr code).Ok N := by
  unfold Chip.smbRead
  repeat'
    first
    | with_reducible assumption | with_reducible apply Chip.took_ok | with_reducible apply Chip.ite_ok
    | with_reducible apply Chip.foldl_ok | intro _ _ _ _ | intro _ _ _ | dsimp only
    | with_reducible apply tabPut_wf | with_reducible apply tabClear_wf | with_reducible apply tabFilter_wf
    | with_reducible apply tabMap_wf | with_reducible apply tabWf_nil | with_reducible apply emptyLog
    | with_reducible apply Chip.Ok.count | with_reducible apply Chip.Ok.log | with_reducible apply Chip.Ok.regs
    | with_reducible apply Chip.Ok.shadow | with_reducible apply Chip.Ok.staged | with_reducible apply Chip.Ok.lib
    | with_reducible apply Chip.Ok.poison | with_reducible apply Chip.Ok.libLive
    | with_reducible apply Chip.Ok.libStaged | with_reducible apply Chip.Ok.volStage
    | with_reducible apply Chip.Ok.dies | with_reducible apply Chip.Ok.cals | with_reducible apply Chip.Ok.slots
    | with_reducible apply Chip.Ok.ports | with_reducible apply Chip.Ok.vols | with_reducible apply Chip.Ok.rets
    | with_reducible apply Chip.Ok.hosts | with_reducible apply Chip.Ok.of

end Sys2Proof.Machine
end

