-- ==== Sys2Proof/Laws/Ok/Exec.lean ====
section
/-!
SUPPORT. Laws/Ok/Exec.lean: every command answers a next state, leaves the queue alone and keeps a package in good order.
-/

namespace Sys2Proof.Machine

theorem Chip.tlpLost_ok {N : Nat} {s u : Chip} (hk : s.Ok N) {p bad : Nat} (h : s.tlpLost p bad = some u) : u.Ok N := by
  unfold Chip.tlpLost at h
  split at h
  · cases h
    exact hk
  · split at h
    · cases h
      exact aerSet_ok hk _ _
    · cases h

theorem efeGo_ok {N : Nat} {c : Chip} (hk : c.Ok N) (d p : Nat) (v : Word) (f : Nat → Bool) : (efeGo d p v f c).Ok N := by
  unfold efeGo
  split
  · exact Chip.efeWrite_ok hk _ _ _
  · exact hk

theorem execClkoutSelect_ok {N : Nat} {s : State} (hk : s.chip.Ok N) (d : Fin 8) (v : Word) :
    ∃ u, execClkoutSelect d v s = .next { s with chip := u } ∧ u.Ok N := by
  refine ⟨_, rfl, ?_⟩
  dsimp only
  repeat'
    first
    | with_reducible assumption | with_reducible apply Chip.clkoutSelect_ok | with_reducible apply Chip.ite_ok
    | intro _ _ _ _ | intro _ _ _ | dsimp only

theorem execCrossingFarReset_ok {N : Nat} {s : State} (hk : s.chip.Ok N) (d : Fin 8) (b : Fin 32) (items : Nat) :
    ∃ u, execCrossingFarReset d b items s = .next { s with chip := u } ∧ u.Ok N := by
  refine ⟨_, rfl, ?_⟩
  dsimp only
  repeat'
    first
    | with_reducible assumption | with_reducible apply Chip.farReset_ok | with_reducible apply Chip.ite_ok
    | intro _ _ _ _ | intro _ _ _ | dsimp only

theorem execCrossingResync_ok {N : Nat} {s : State} (hk : s.chip.Ok N) (d : Fin 8) (b : Fin 32) :
    ∃ u, execCrossingResync d b s = .next { s with chip := u } ∧ u.Ok N := by
  refine ⟨_, rfl, ?_⟩
  dsimp only
  repeat'
    first
    | with_reducible assumption | with_reducible apply Chip.resync_ok | with_reducible apply Chip.ite_ok
    | intro _ _ _ _ | intro _ _ _ | dsimp only

theorem execRefQualWindow_ok {N : Nat} {s : State} (hk : s.chip.Ok N) (d : Fin 8) (x : Fin 2) (ppm : Option Nat) (off : Int) :
    ∃ u, execRefQualWindow d x ppm off s = .next { s with chip := u } ∧ u.Ok N := by
  refine ⟨_, rfl, ?_⟩
  dsimp only
  repeat'
    first
    | with_reducible assumption | with_reducible apply Chip.qualWindow_ok | with_reducible apply Chip.ite_ok
    | intro _ _ _ _ | intro _ _ _ | dsimp only

theorem execRevertTimer_ok {N : Nat} {s : State} (hk : s.chip.Ok N) (d : Fin 8) (off : Int) :
    ∃ u, execRevertTimer d off s = .next { s with chip := u } ∧ u.Ok N := by
  refine ⟨_, rfl, ?_⟩
  dsimp only
  repeat'
    first
    | with_reducible assumption | with_reducible apply Chip.revert_ok | with_reducible apply Chip.ite_ok
    | intro _ _ _ _ | intro _ _ _ | dsimp only

theorem execHoldoverWindow_ok {N : Nat} {s : State} (hk : s.chip.Ok N) (d : Fin 8) (agree : Bool) :
    ∃ u, execHoldoverWindow d agree s = .next { s with chip := u } ∧ u.Ok N := by
  refine ⟨_, rfl, ?_⟩
  dsimp only
  repeat'
    first
    | with_reducible assumption | with_reducible apply Chip.hoWindow_ok | with_reducible apply Chip.ite_ok
    | intro _ _ _ _ | intro _ _ _ | dsimp only

theorem execHoldoverClockTimeout_ok {N : Nat} {s : State} (hk : s.chip.Ok N) (d : Fin 8) :
    ∃ u, execHoldoverClockTimeout d s = .next { s with chip := u } ∧ u.Ok N := by
  refine ⟨_, rfl, ?_⟩
  dsimp only
  repeat'
    first
    | with_reducible assumption | with_reducible apply Chip.hoTimeout_ok | with_reducible apply Chip.ite_ok
    | intro _ _ _ _ | intro _ _ _ | dsimp only

theorem execRelockTimeout_ok {N : Nat} {s : State} (hk : s.chip.Ok N) (d : Fin 8) :
    ∃ u, execRelockTimeout d s = .next { s with chip := u } ∧ u.Ok N := by
  refine ⟨_, rfl, ?_⟩
  dsimp only
  repeat'
    first
    | with_reducible assumption | with_reducible apply Chip.relockTimeout_ok | with_reducible apply Chip.ite_ok
    | intro _ _ _ _ | intro _ _ _ | dsimp only

theorem execRealignEnd_ok {N : Nat} {s : State} (hk : s.chip.Ok N) (d : Fin 8) :
    ∃ u, execRealignEnd d s = .next { s with chip := u } ∧ u.Ok N := by
  refine ⟨_, rfl, ?_⟩
  dsimp only
  repeat'
    first
    | with_reducible assumption | with_reducible apply Chip.realignEnd_ok | with_reducible apply Chip.ite_ok
    | intro _ _ _ _ | intro _ _ _ | dsimp only

theorem execSurveyStart_ok {N : Nat} {s : State} (hk : s.chip.Ok N) (d : Fin 8) :
    ∃ u, execSurveyStart d s = .next { s with chip := u } ∧ u.Ok N := by
  refine ⟨_, rfl, ?_⟩
  dsimp only
  repeat'
    first
    | with_reducible assumption | with_reducible apply Chip.surveyStart_ok | with_reducible apply Chip.ite_ok
    | intro _ _ _ _ | intro _ _ _ | dsimp only

theorem execSurveyDone_ok {N : Nat} {s : State} (hk : s.chip.Ok N) (d : Fin 8) (ms : List (Option (Nat × Nat))) :
    ∃ u, execSurveyDone d ms s = .next { s with chip := u } ∧ u.Ok N := by
  refine ⟨_, rfl, ?_⟩
  dsimp only
  repeat'
    first
    | with_reducible assumption | with_reducible apply Chip.surveyDone_ok | with_reducible apply Chip.ite_ok
    | intro _ _ _ _ | intro _ _ _ | dsimp only

theorem execPstepRequest_ok {N : Nat} {s : State} (hk : s.chip.Ok N) (d : Fin 8) (v : Word) (t : Nat) :
    ∃ u, execPstepRequest d v t s = .next { s with chip := u } ∧ u.Ok N := by
  refine ⟨_, rfl, ?_⟩
  dsimp only
  repeat'
    first
    | with_reducible assumption | with_reducible apply Chip.at_ok | with_reducible apply Chip.pstep_ok
    | with_reducible apply Chip.ite_ok | intro _ _ _ _ | intro _ _ _ | dsimp only

theorem execPstepBegin_ok {N : Nat} {s : State} (hk : s.chip.Ok N) (d : Fin 8) :
    ∃ u, execPstepBegin d s = .next { s with chip := u } ∧ u.Ok N := by
  refine ⟨_, rfl, ?_⟩
  dsimp only
  repeat'
    first
    | with_reducible assumption | with_reducible apply Chip.pstepBegin_ok | with_reducible apply Chip.ite_ok
    | intro _ _ _ _ | intro _ _ _ | dsimp only

theorem execPhaseStepDone_ok {N : Nat} {s : State} (hk : s.chip.Ok N) (d : Fin 8) :
    ∃ u, execPhaseStepDone d s = .next { s with chip := u } ∧ u.Ok N := by
  refine ⟨_, rfl, ?_⟩
  dsimp only
  repeat'
    first
    | with_reducible assumption | with_reducible apply Chip.pstepMove_ok | with_reducible apply Chip.ite_ok
    | intro _ _ _ _ | intro _ _ _ | dsimp only

theorem execRampStart_ok {N : Nat} {s : State} (hk : s.chip.Ok N) (d : Fin 8) (v : Word) (t c : Nat) :
    ∃ u, execRampStart d v t c s = .next { s with chip := u } ∧ u.Ok N := by
  refine ⟨_, rfl, ?_⟩
  dsimp only
  repeat'
    first
    | with_reducible assumption | with_reducible apply Chip.at_ok | with_reducible apply Chip.writeRampCtrl_ok
    | with_reducible apply Chip.ite_ok | intro _ _ _ _ | intro _ _ _ | dsimp only

theorem execRampAbort_ok {N : Nat} {s : State} (hk : s.chip.Ok N) (d : Fin 8) (v : Word) (t c : Nat) :
    ∃ u, execRampAbort d v t c s = .next { s with chip := u } ∧ u.Ok N := by
  refine ⟨_, rfl, ?_⟩
  dsimp only
  repeat'
    first
    | with_reducible assumption | with_reducible apply Chip.at_ok | with_reducible apply Chip.writeRampCtrl_ok
    | with_reducible apply Chip.ite_ok | intro _ _ _ _ | intro _ _ _ | dsimp only

theorem execRampDisable_ok {N : Nat} {s : State} (hk : s.chip.Ok N) (d : Fin 8) (v : Word) (t c : Nat) :
    ∃ u, execRampDisable d v t c s = .next { s with chip := u } ∧ u.Ok N := by
  refine ⟨_, rfl, ?_⟩
  dsimp only
  repeat'
    first
    | with_reducible assumption | with_reducible apply Chip.at_ok | with_reducible apply Chip.writeRampCtrl_ok
    | with_reducible apply Chip.ite_ok | intro _ _ _ _ | intro _ _ _ | dsimp only

theorem execRampFold_ok {N : Nat} {s : State} (hk : s.chip.Ok N) (d : Fin 8) (v : Word) (t c : Nat) :
    ∃ u, execRampFold d v t c s = .next { s with chip := u } ∧ u.Ok N := by
  refine ⟨_, rfl, ?_⟩
  dsimp only
  repeat'
    first
    | with_reducible assumption | with_reducible apply Chip.at_ok | with_reducible apply Chip.writeRampCtrl_ok
    | with_reducible apply Chip.ite_ok | intro _ _ _ _ | intro _ _ _ | dsimp only

theorem execRampBegin_ok {N : Nat} {s : State} (hk : s.chip.Ok N) (d : Fin 8) :
    ∃ u, execRampBegin d s = .next { s with chip := u } ∧ u.Ok N := by
  refine ⟨_, rfl, ?_⟩
  dsimp only
  repeat'
    first
    | with_reducible assumption | with_reducible apply Chip.rampBegin_ok | with_reducible apply Chip.ite_ok
    | intro _ _ _ _ | intro _ _ _ | dsimp only

theorem execRampSegmentEnd_ok {N : Nat} {s : State} (hk : s.chip.Ok N) (d : Fin 8) (c : Nat) :
    ∃ u, execRampSegmentEnd d c s = .next { s with chip := u } ∧ u.Ok N := by
  refine ⟨_, rfl, ?_⟩
  dsimp only
  repeat'
    first
    | with_reducible assumption | with_reducible apply Chip.rampSegmentEnd_ok | with_reducible apply Chip.ite_ok
    | intro _ _ _ _ | intro _ _ _ | dsimp only

theorem execRampClamp_ok {N : Nat} {s : State} (hk : s.chip.Ok N) (d : Fin 8) (c : Nat) (cause : Fin 3) :
    ∃ u, execRampClamp d c cause s = .next { s with chip := u } ∧ u.Ok N := by
  refine ⟨_, rfl, ?_⟩
  dsimp only
  repeat'
    first
    | with_reducible assumption | with_reducible apply Chip.rampClamp_ok | with_reducible apply Chip.ite_ok
    | intro _ _ _ _ | intro _ _ _ | dsimp only

theorem execXoDetectWindow_ok {N : Nat} {s : State} (hk : s.chip.Ok N) (d : Fin 8) (n : Nat) :
    ∃ u, execXoDetectWindow d n s = .next { s with chip := u } ∧ u.Ok N := by
  refine ⟨_, rfl, ?_⟩
  dsimp only
  repeat'
    first
    | with_reducible assumption | with_reducible apply Chip.xoDetect_ok | with_reducible apply Chip.ite_ok
    | intro _ _ _ _ | intro _ _ _ | dsimp only

theorem execXoFailure_ok {N : Nat} {s : State} (hk : s.chip.Ok N) (d : Fin 8) (off : Int) :
    ∃ u, execXoFailure d off s = .next { s with chip := u } ∧ u.Ok N := by
  refine ⟨_, rfl, ?_⟩
  dsimp only
  repeat'
    first
    | with_reducible assumption | with_reducible apply Chip.xoFail_ok | with_reducible apply Chip.ite_ok
    | intro _ _ _ _ | intro _ _ _ | dsimp only

theorem execIoscFailure_ok {N : Nat} {s : State} (hk : s.chip.Ok N) (d : Fin 8) :
    ∃ u, execIoscFailure d s = .next { s with chip := u } ∧ u.Ok N := by
  refine ⟨_, rfl, ?_⟩
  dsimp only
  repeat'
    first
    | with_reducible assumption | with_reducible apply Chip.ioscFail_ok | with_reducible apply Chip.ite_ok
    | intro _ _ _ _ | intro _ _ _ | dsimp only

theorem execXoJudgeWindow_ok {N : Nat} {s : State} (hk : s.chip.Ok N) (d : Fin 8) (n : Nat) (iosc : Bool) (off : Int) :
    ∃ u, execXoJudgeWindow d n iosc off s = .next { s with chip := u } ∧ u.Ok N := by
  refine ⟨_, rfl, ?_⟩
  dsimp only
  repeat'
    first
    | with_reducible assumption | with_reducible apply Chip.xoWindow_ok | with_reducible apply Chip.ite_ok
    | intro _ _ _ _ | intro _ _ _ | dsimp only

theorem execXoJudgeTimeout_ok {N : Nat} {s : State} (hk : s.chip.Ok N) (d : Fin 8) :
    ∃ u, execXoJudgeTimeout d s = .next { s with chip := u } ∧ u.Ok N := by
  refine ⟨_, rfl, ?_⟩
  dsimp only
  repeat'
    first
    | with_reducible assumption | with_reducible apply Chip.judgeTimeout_ok | with_reducible apply Chip.ite_ok
    | intro _ _ _ _ | intro _ _ _ | dsimp only

theorem execBpllUnlock_ok {N : Nat} {s : State} (hk : s.chip.Ok N) (d : Fin 8) :
    ∃ u, execBpllUnlock d s = .next { s with chip := u } ∧ u.Ok N := by
  refine ⟨_, rfl, ?_⟩
  dsimp only
  repeat'
    first
    | with_reducible assumption | with_reducible apply Chip.bpllUnlock_ok | with_reducible apply Chip.ite_ok
    | intro _ _ _ _ | intro _ _ _ | dsimp only

theorem execBpllRelock_ok {N : Nat} {s : State} (hk : s.chip.Ok N) (d : Fin 8) :
    ∃ u, execBpllRelock d s = .next { s with chip := u } ∧ u.Ok N := by
  refine ⟨_, rfl, ?_⟩
  dsimp only
  repeat'
    first
    | with_reducible assumption | with_reducible apply Chip.set_ok | with_reducible apply Chip.ite_ok
    | intro _ _ _ _ | intro _ _ _ | dsimp only

theorem execLibWrite_ok {N : Nat} {s : State} (hk : s.chip.Ok N) (d : Fin 8) (sl : Fin 2560) (q : Fin 1024) (v : BitVec 64) :
    ∃ u, execLibWrite d sl q v s = .next { s with chip := u } ∧ u.Ok N := by
  refine ⟨_, rfl, ?_⟩
  dsimp only
  repeat'
    first
    | with_reducible assumption | with_reducible apply Chip.libWrite_ok | with_reducible apply Chip.ite_ok
    | intro _ _ _ _ | intro _ _ _ | dsimp only

theorem execLibWriteApply_ok {N : Nat} {s : State} (hk : s.chip.Ok N) (d : Fin 8) :
    ∃ u, execLibWriteApply d s = .next { s with chip := u } ∧ u.Ok N := by
  refine ⟨_, rfl, ?_⟩
  dsimp only
  repeat'
    first
    | with_reducible assumption | with_reducible apply Chip.libApply_ok | with_reducible apply Chip.ite_ok
    | intro _ _ _ _ | intro _ _ _ | dsimp only

theorem execMirrorWrite_ok {N : Nat} {s : State} (hk : s.chip.Ok N) (d : Fin 8) :
    ∃ u, execMirrorWrite d s = .next { s with chip := u } ∧ u.Ok N := by
  refine ⟨_, rfl, ?_⟩
  dsimp only
  repeat'
    first
    | with_reducible assumption | with_reducible apply Chip.mirrorWrite_ok | with_reducible apply Chip.ite_ok
    | intro _ _ _ _ | intro _ _ _ | dsimp only

theorem execLibScrubPass_ok {N : Nat} {s : State} (hk : s.chip.Ok N) (d : Fin 8) (l : List (Nat × Nat)) :
    ∃ u, execLibScrubPass d l s = .next { s with chip := u } ∧ u.Ok N := by
  refine ⟨_, rfl, ?_⟩
  dsimp only
  repeat'
    first
    | with_reducible assumption | with_reducible apply Chip.scrub_ok | with_reducible apply Chip.ite_ok
    | intro _ _ _ _ | intro _ _ _ | dsimp only

theorem execMirrorFetch_ok {N : Nat} {s : State} (hk : s.chip.Ok N) (d : Fin 8) (sl : Fin 2560) (q : Fin 1024) :
    ∃ u, execMirrorFetch d sl q s = .next { s with chip := u } ∧ u.Ok N := by
  refine ⟨_, rfl, ?_⟩
  dsimp only
  repeat'
    first
    | with_reducible assumption | with_reducible apply Chip.mirrorFetch_ok | with_reducible apply Chip.ite_ok
    | intro _ _ _ _ | intro _ _ _ | dsimp only

theorem execTempStale_ok {N : Nat} {s : State} (hk : s.chip.Ok N) (d : Fin 8) (sl : Fin 2560) :
    ∃ u, execTempStale d sl s = .next { s with chip := u } ∧ u.Ok N := by
  refine ⟨_, rfl, ?_⟩
  dsimp only
  repeat'
    first
    | with_reducible assumption | with_reducible apply Chip.tempStale_ok | with_reducible apply Chip.ite_ok
    | intro _ _ _ _ | intro _ _ _ | dsimp only

theorem execKickEnd_ok {N : Nat} {s : State} (hk : s.chip.Ok N) (d : Fin 8) (sl : Fin 2560) :
    ∃ u, execKickEnd d sl s = .next { s with chip := u } ∧ u.Ok N := by
  refine ⟨_, rfl, ?_⟩
  dsimp only
  repeat'
    first
    | with_reducible assumption | with_reducible apply Chip.kickEnd_ok | with_reducible apply Chip.ite_ok
    | intro _ _ _ _ | intro _ _ _ | dsimp only

theorem execLoopClear_ok {N : Nat} {s : State} (hk : s.chip.Ok N) (d : Fin 8) (sl : Fin 2560) :
    ∃ u, execLoopClear d sl s = .next { s with chip := u } ∧ u.Ok N := by
  refine ⟨_, rfl, ?_⟩
  dsimp only
  repeat'
    first
    | with_reducible assumption | with_reducible apply Chip.loopClear_ok | with_reducible apply Chip.ite_ok
    | intro _ _ _ _ | intro _ _ _ | dsimp only

theorem execLoopRecord_ok {N : Nat} {s : State} (hk : s.chip.Ok N) (c : Fin 16384) :
    ∃ u, execLoopRecord c s = .next { s with chip := u } ∧ u.Ok N := by
  refine ⟨_, rfl, ?_⟩
  dsimp only
  repeat'
    first
    | with_reducible assumption | with_reducible apply Chip.recvLoop_ok | with_reducible apply Chip.ite_ok
    | intro _ _ _ _ | intro _ _ _ | dsimp only

theorem execStandbyRecord_ok {N : Nat} {s : State} (hk : s.chip.Ok N) (c : Fin 16384) :
    ∃ u, execStandbyRecord c s = .next { s with chip := u } ∧ u.Ok N := by
  refine ⟨_, rfl, ?_⟩
  dsimp only
  repeat'
    first
    | with_reducible assumption | with_reducible apply Chip.recvStandby_ok | with_reducible apply Chip.ite_ok
    | intro _ _ _ _ | intro _ _ _ | dsimp only

theorem execLoopWindowEnd_ok {N : Nat} {s : State} (hk : s.chip.Ok N) (d : Fin 8) (sl : Fin 2560) :
    ∃ u, execLoopWindowEnd d sl s = .next { s with chip := u } ∧ u.Ok N := by
  refine ⟨_, rfl, ?_⟩
  dsimp only
  repeat'
    first
    | with_reducible assumption | with_reducible apply Chip.windowOnce_ok | with_reducible apply Chip.ite_ok
    | intro _ _ _ _ | intro _ _ _ | dsimp only

theorem execEfeCmdRetry_ok {N : Nat} {s : State} (hk : s.chip.Ok N) (d : Fin 8) (p : Fin 16) :
    ∃ u, execEfeCmdRetry d p s = .next { s with chip := u } ∧ u.Ok N := by
  refine ⟨_, rfl, ?_⟩
  dsimp only
  repeat'
    first
    | with_reducible assumption | with_reducible apply Chip.efeRetry_ok | with_reducible apply Chip.ite_ok
    | intro _ _ _ _ | intro _ _ _ | dsimp only

theorem execEfeCmdNop_ok {N : Nat} {s : State} (hk : s.chip.Ok N) (d : Fin 8) (p : Fin 16) (v : Word) :
    ∃ u, execEfeCmdNop d p v s = .next { s with chip := u } ∧ u.Ok N := by
  refine ⟨_, rfl, ?_⟩
  exact efeGo_ok hk ..

theorem execEfeCmdRead_ok {N : Nat} {s : State} (hk : s.chip.Ok N) (d : Fin 8) (p : Fin 16) (v : Word) :
    ∃ u, execEfeCmdRead d p v s = .next { s with chip := u } ∧ u.Ok N := by
  refine ⟨_, rfl, ?_⟩
  exact efeGo_ok hk ..

theorem execEfeCmdWrite_ok {N : Nat} {s : State} (hk : s.chip.Ok N) (d : Fin 8) (p : Fin 16) (v : Word) :
    ∃ u, execEfeCmdWrite d p v s = .next { s with chip := u } ∧ u.Ok N := by
  refine ⟨_, rfl, ?_⟩
  exact efeGo_ok hk ..

theorem execEfeCmdSpot_ok {N : Nat} {s : State} (hk : s.chip.Ok N) (d : Fin 8) (p : Fin 16) (v : Word) :
    ∃ u, execEfeCmdSpot d p v s = .next { s with chip := u } ∧ u.Ok N := by
  refine ⟨_, rfl, ?_⟩
  exact efeGo_ok hk ..

theorem execEfeCmdEcho_ok {N : Nat} {s : State} (hk : s.chip.Ok N) (d : Fin 8) (p : Fin 16) (v : Word) :
    ∃ u, execEfeCmdEcho d p v s = .next { s with chip := u } ∧ u.Ok N := by
  refine ⟨_, rfl, ?_⟩
  exact efeGo_ok hk ..

theorem execEfeCmdOther_ok {N : Nat} {s : State} (hk : s.chip.Ok N) (d : Fin 8) (p : Fin 16) (v : Word) :
    ∃ u, execEfeCmdOther d p v s = .next { s with chip := u } ∧ u.Ok N := by
  refine ⟨_, rfl, ?_⟩
  exact efeGo_ok hk ..

theorem execSpotHoldTimeout_ok {N : Nat} {s : State} (hk : s.chip.Ok N) (d : Fin 8) (p : Fin 16) :
    ∃ u, execSpotHoldTimeout d p s = .next { s with chip := u } ∧ u.Ok N := by
  refine ⟨_, rfl, ?_⟩
  dsimp only
  repeat'
    first
    | with_reducible assumption | with_reducible apply Chip.spotTimeout_ok | with_reducible apply Chip.ite_ok
    | intro _ _ _ _ | intro _ _ _ | dsimp only

theorem execBlockLock_ok {N : Nat} {s : State} (hk : s.chip.Ok N) (d : Fin 8) (p : Fin 16) :
    ∃ u, execBlockLock d p s = .next { s with chip := u } ∧ u.Ok N := by
  refine ⟨_, rfl, ?_⟩
  dsimp only
  repeat'
    first
    | with_reducible assumption | with_reducible apply Chip.blockLock_ok | with_reducible apply Chip.ite_ok
    | intro _ _ _ _ | intro _ _ _ | dsimp only

theorem execCapsFrame_ok {N : Nat} {s : State} (hk : s.chip.Ok N) (d : Fin 8) (p : Fin 16) (cap : BitVec 64) (ack ok : Bool) (status : UpHead) :
    ∃ u, execCapsFrame d p cap ack ok status s = .next { s with chip := u } ∧ u.Ok N := by
  refine ⟨_, rfl, ?_⟩
  dsimp only
  repeat'
    first
    | with_reducible assumption | with_reducible apply Chip.capsFrame_ok | with_reducible apply Chip.ite_ok
    | intro _ _ _ _ | intro _ _ _ | dsimp only

theorem execCapsTimeout_ok {N : Nat} {s : State} (hk : s.chip.Ok N) (d : Fin 8) (p : Fin 16) :
    ∃ u, execCapsTimeout d p s = .next { s with chip := u } ∧ u.Ok N := by
  refine ⟨_, rfl, ?_⟩
  dsimp only
  repeat'
    first
    | with_reducible assumption | with_reducible apply Chip.portFail_ok | with_reducible apply Chip.ite_ok
    | intro _ _ _ _ | intro _ _ _ | dsimp only

theorem execTrainFrame_ok {N : Nat} {s : State} (hk : s.chip.Ok N) (d : Fin 8) (p : Fin 16) (x : Sys2Proof.TrainAnswer) :
    ∃ u, execTrainFrame d p x s = .next { s with chip := u } ∧ u.Ok N := by
  refine ⟨_, rfl, ?_⟩
  dsimp only
  repeat'
    first
    | with_reducible assumption | with_reducible apply Chip.trainFrame_ok | with_reducible apply Chip.ite_ok
    | intro _ _ _ _ | intro _ _ _ | dsimp only

theorem execPrbsCheckEnd_ok {N : Nat} {s : State} (hk : s.chip.Ok N) (d : Fin 8) (p : Fin 16) (errors : Nat) :
    ∃ u, execPrbsCheckEnd d p errors s = .next { s with chip := u } ∧ u.Ok N := by
  refine ⟨_, rfl, ?_⟩
  dsimp only
  repeat'
    first
    | with_reducible assumption | with_reducible apply Chip.modPort_ok | with_reducible apply Chip.ite_ok
    | intro _ _ _ _ | intro _ _ _ | dsimp only

theorem execResultFrame_ok {N : Nat} {s : State} (hk : s.chip.Ok N) (d : Fin 8) (p : Fin 16) (pass : Bool) (x : Sys2Proof.TrainResult) :
    ∃ u, execResultFrame d p pass x s = .next { s with chip := u } ∧ u.Ok N := by
  refine ⟨_, rfl, ?_⟩
  dsimp only
  repeat'
    first
    | with_reducible assumption | with_reducible apply Chip.resultFrame_ok | with_reducible apply Chip.ite_ok
    | intro _ _ _ _ | intro _ _ _ | dsimp only

theorem execTrainTimeout_ok {N : Nat} {s : State} (hk : s.chip.Ok N) (d : Fin 8) (p : Fin 16) :
    ∃ u, execTrainTimeout d p s = .next { s with chip := u } ∧ u.Ok N := by
  refine ⟨_, rfl, ?_⟩
  dsimp only
  repeat'
    first
    | with_reducible assumption | with_reducible apply Chip.trainFail_ok | with_reducible apply Chip.ite_ok
    | intro _ _ _ _ | intro _ _ _ | dsimp only

theorem execFailedRetry_ok {N : Nat} {s : State} (hk : s.chip.Ok N) (d : Fin 8) (p : Fin 16) :
    ∃ u, execFailedRetry d p s = .next { s with chip := u } ∧ u.Ok N := by
  refine ⟨_, rfl, ?_⟩
  dsimp only
  repeat'
    first
    | with_reducible assumption | with_reducible apply Chip.portSync_ok | with_reducible apply Chip.ite_ok
    | intro _ _ _ _ | intro _ _ _ | dsimp only

theorem execUplinkFrame_ok {N : Nat} {s : State} (hk : s.chip.Ok N) (d : Fin 8) (p : Fin 16) (f : UpFrame) :
    ∃ u, execUplinkFrame d p f s = .next { s with chip := u } ∧ u.Ok N := by
  refine ⟨_, rfl, ?_⟩
  dsimp only
  repeat'
    first
    | with_reducible assumption | with_reducible apply Chip.uplink_ok | with_reducible apply Chip.ite_ok
    | intro _ _ _ _ | intro _ _ _ | dsimp only

theorem execUplinkDeadline_ok {N : Nat} {s : State} (hk : s.chip.Ok N) (d : Fin 8) (p : Fin 16) :
    ∃ u, execUplinkDeadline d p s = .next { s with chip := u } ∧ u.Ok N := by
  refine ⟨_, rfl, ?_⟩
  dsimp only
  repeat'
    first
    | with_reducible assumption | with_reducible apply Chip.raise_ok | with_reducible apply Chip.bump_ok
    | with_reducible apply Chip.badFrame_ok | with_reducible apply Chip.ite_ok | intro _ _ _ _ | intro _ _ _
    | dsimp only

theorem execEfeUnorderedPark_ok {N : Nat} {s : State} (hk : s.chip.Ok N) (d : Fin 8) (p : Fin 16) :
    ∃ u, execEfeUnorderedPark d p s = .next { s with chip := u } ∧ u.Ok N := by
  refine ⟨_, rfl, ?_⟩
  dsimp only
  repeat'
    first
    | with_reducible assumption | with_reducible apply Chip.unorderedPark_ok | with_reducible apply Chip.ite_ok
    | intro _ _ _ _ | intro _ _ _ | dsimp only

theorem execCalRunStart_ok {N : Nat} {s : State} (hk : s.chip.Ok N) (d : Fin 8) (ok : Bool) :
    ∃ u, execCalRunStart d ok s = .next { s with chip := u } ∧ u.Ok N := by
  refine ⟨_, rfl, ?_⟩
  dsimp only
  repeat'
    first
    | with_reducible assumption | with_reducible apply Chip.calStart_ok | with_reducible apply Chip.ite_ok
    | intro _ _ _ _ | intro _ _ _ | dsimp only

theorem execCalMeasurementDone_ok {N : Nat} {s : State} (hk : s.chip.Ok N) (d : Fin 8) (m : CalMeas) :
    ∃ u, execCalMeasurementDone d m s = .next { s with chip := u } ∧ u.Ok N := by
  refine ⟨_, rfl, ?_⟩
  dsimp only
  repeat'
    first
    | with_reducible assumption | with_reducible apply Chip.calMeasured_ok | with_reducible apply Chip.ite_ok
    | intro _ _ _ _ | intro _ _ _ | dsimp only

theorem execSkewWaitTimeout_ok {N : Nat} {s : State} (hk : s.chip.Ok N) (d : Fin 8) :
    ∃ u, execSkewWaitTimeout d s = .next { s with chip := u } ∧ u.Ok N := by
  refine ⟨_, rfl, ?_⟩
  dsimp only
  repeat'
    first
    | with_reducible assumption | with_reducible apply Chip.calFail_ok | with_reducible apply Chip.ite_ok
    | intro _ _ _ _ | intro _ _ _ | dsimp only

theorem execCalRequest_ok {N : Nat} {s : State} (hk : s.chip.Ok N) (d : Fin 8) (v : Word) :
    ∃ u, execCalRequest d v s = .next { s with chip := u } ∧ u.Ok N := by
  refine ⟨_, rfl, ?_⟩
  dsimp only
  repeat'
    first
    | with_reducible assumption | with_reducible apply Chip.writeCalCtrl_ok | with_reducible apply Chip.ite_ok
    | intro _ _ _ _ | intro _ _ _ | dsimp only

theorem execCalAbort_ok {N : Nat} {s : State} (hk : s.chip.Ok N) (d : Fin 8) (v : Word) :
    ∃ u, execCalAbort d v s = .next { s with chip := u } ∧ u.Ok N := by
  refine ⟨_, rfl, ?_⟩
  dsimp only
  repeat'
    first
    | with_reducible assumption | with_reducible apply Chip.writeCalCtrl_ok | with_reducible apply Chip.ite_ok
    | intro _ _ _ _ | intro _ _ _ | dsimp only

theorem execCalLoadTdc_ok {N : Nat} {s : State} (hk : s.chip.Ok N) (d : Fin 8) (v : Word) :
    ∃ u, execCalLoadTdc d v s = .next { s with chip := u } ∧ u.Ok N := by
  refine ⟨_, rfl, ?_⟩
  dsimp only
  repeat'
    first
    | with_reducible assumption | with_reducible apply Chip.writeCalCtrl_ok | with_reducible apply Chip.ite_ok
    | intro _ _ _ _ | intro _ _ _ | dsimp only

theorem execCalLoadEq_ok {N : Nat} {s : State} (hk : s.chip.Ok N) (d : Fin 8) (v : Word) :
    ∃ u, execCalLoadEq d v s = .next { s with chip := u } ∧ u.Ok N := by
  refine ⟨_, rfl, ?_⟩
  dsimp only
  repeat'
    first
    | with_reducible assumption | with_reducible apply Chip.writeCalCtrl_ok | with_reducible apply Chip.ite_ok
    | intro _ _ _ _ | intro _ _ _ | dsimp only

theorem execCalTempTrigger_ok {N : Nat} {s : State} (hk : s.chip.Ok N) (d : Fin 8) (k : Fin 5) :
    ∃ u, execCalTempTrigger d k s = .next { s with chip := u } ∧ u.Ok N := by
  refine ⟨_, rfl, ?_⟩
  dsimp only
  repeat'
    first
    | with_reducible assumption | with_reducible apply Chip.calTemp_ok | with_reducible apply Chip.ite_ok
    | intro _ _ _ _ | intro _ _ _ | dsimp only

theorem execCalRetryTimer_ok {N : Nat} {s : State} (hk : s.chip.Ok N) (d : Fin 8) (k : Fin 5) :
    ∃ u, execCalRetryTimer d k s = .next { s with chip := u } ∧ u.Ok N := by
  refine ⟨_, rfl, ?_⟩
  dsimp only
  repeat'
    first
    | with_reducible assumption | with_reducible apply Chip.calRetry_ok | with_reducible apply Chip.ite_ok
    | intro _ _ _ _ | intro _ _ _ | dsimp only

theorem execVolTagVerified_ok {N : Nat} {s : State} (hk : s.chip.Ok N) (q : Fin 64) (t : Nat) :
    ∃ u, execVolTagVerified q t s = .next { s with chip := u } ∧ u.Ok N := by
  refine ⟨_, rfl, ?_⟩
  dsimp only
  repeat'
    first
    | with_reducible assumption | with_reducible apply Chip.at_ok | with_reducible apply Chip.volVerified_ok
    | intro _ _ _ _ | intro _ _ _ | dsimp only

theorem execVolOpen_ok {N : Nat} {s : State} (hk : s.chip.Ok N) (p : Fin 2) (q : Fin 64) (v : Word) :
    ∃ u, execVolOpen p q v s = .next { s with chip := u } ∧ u.Ok N := by
  refine ⟨_, rfl, ?_⟩
  dsimp only
  repeat'
    first
    | with_reducible assumption | with_reducible apply Chip.volCtrl_ok | intro _ _ _ _ | intro _ _ _ | dsimp only

theorem execVolStage_ok {N : Nat} {s : State} (hk : s.chip.Ok N) (p : Fin 2) (q : Fin 64) (v : Word) (t : Nat) :
    ∃ u, execVolStage p q v t s = .next { s with chip := u } ∧ u.Ok N := by
  refine ⟨_, rfl, ?_⟩
  dsimp only
  repeat'
    first
    | with_reducible assumption | with_reducible apply Chip.at_ok | with_reducible apply Chip.volCtrl_ok
    | intro _ _ _ _ | intro _ _ _ | dsimp only

theorem execVolAbort_ok {N : Nat} {s : State} (hk : s.chip.Ok N) (p : Fin 2) (q : Fin 64) (v : Word) (t : Nat) :
    ∃ u, execVolAbort p q v t s = .next { s with chip := u } ∧ u.Ok N := by
  refine ⟨_, rfl, ?_⟩
  dsimp only
  repeat'
    first
    | with_reducible assumption | with_reducible apply Chip.at_ok | with_reducible apply Chip.volCtrl_ok
    | intro _ _ _ _ | intro _ _ _ | dsimp only

theorem execVolRelease_ok {N : Nat} {s : State} (hk : s.chip.Ok N) (p : Fin 2) (q : Fin 64) (v : Word) :
    ∃ u, execVolRelease p q v s = .next { s with chip := u } ∧ u.Ok N := by
  refine ⟨_, rfl, ?_⟩
  dsimp only
  repeat'
    first
    | with_reducible assumption | with_reducible apply Chip.volCtrl_ok | intro _ _ _ _ | intro _ _ _ | dsimp only

theorem execVolEntries_ok {N : Nat} {s : State} (hk : s.chip.Ok N) (d : Fin 8) (q : Fin 64) :
    ∃ u, execVolEntries d q s = .next { s with chip := u } ∧ u.Ok N := by
  refine ⟨_, rfl, ?_⟩
  dsimp only
  repeat'
    first
    | with_reducible assumption | with_reducible apply Chip.volEntries_ok | with_reducible apply Chip.ite_ok
    | intro _ _ _ _ | intro _ _ _ | dsimp only

theorem execVolArmedReport_ok {N : Nat} {s : State} (hk : s.chip.Ok N) (d : Fin 8) (q : Fin 64) :
    ∃ u, execVolArmedReport d q s = .next { s with chip := u } ∧ u.Ok N := by
  refine ⟨_, rfl, ?_⟩
  dsimp only
  repeat'
    first
    | with_reducible assumption | with_reducible apply Chip.volReport1_ok | with_reducible apply Chip.ite_ok
    | intro _ _ _ _ | intro _ _ _ | dsimp only

theorem execVolArmDeadline_ok {N : Nat} {s : State} (hk : s.chip.Ok N) (q : Fin 64) (t : Nat) :
    ∃ u, execVolArmDeadline q t s = .next { s with chip := u } ∧ u.Ok N := by
  refine ⟨_, rfl, ?_⟩
  dsimp only
  repeat'
    first
    | with_reducible assumption | with_reducible apply Chip.at_ok | with_reducible apply Chip.volDeadline_ok
    | intro _ _ _ _ | intro _ _ _ | dsimp only

theorem execVolGo_ok {N : Nat} {s : State} (hk : s.chip.Ok N) (d : Fin 8) (q : Fin 64) :
    ∃ u, execVolGo d q s = .next { s with chip := u } ∧ u.Ok N := by
  refine ⟨_, rfl, ?_⟩
  dsimp only
  repeat'
    first
    | with_reducible assumption | with_reducible apply Chip.modVol_ok | with_reducible apply Chip.ite_ok
    | intro _ _ _ _ | intro _ _ _ | dsimp only

theorem execVolAbortMsg_ok {N : Nat} {s : State} (hk : s.chip.Ok N) (d : Fin 8) (q : Fin 64) :
    ∃ u, execVolAbortMsg d q s = .next { s with chip := u } ∧ u.Ok N := by
  refine ⟨_, rfl, ?_⟩
  dsimp only
  repeat'
    first
    | with_reducible assumption | with_reducible apply Chip.modVol_ok | with_reducible apply Chip.ite_ok
    | intro _ _ _ _ | intro _ _ _ | dsimp only

theorem execVolGoAckTimeout_ok {N : Nat} {s : State} (hk : s.chip.Ok N) (d : Fin 8) (q : Fin 64) :
    ∃ u, execVolGoAckTimeout d q s = .next { s with chip := u } ∧ u.Ok N := by
  refine ⟨_, rfl, ?_⟩
  dsimp only
  repeat'
    first
    | with_reducible assumption | with_reducible apply Chip.raiseF1_ok | with_reducible apply Chip.ite_ok
    | intro _ _ _ _ | intro _ _ _ | dsimp only

theorem execVolReport_ok {N : Nat} {s : State} (hk : s.chip.Ok N) (q : Fin 64) :
    ∃ u, execVolReport q s = .next { s with chip := u } ∧ u.Ok N := by
  refine ⟨_, rfl, ?_⟩
  dsimp only
  repeat'
    first
    | with_reducible assumption | with_reducible apply Chip.volReport_ok | intro _ _ _ _ | intro _ _ _ | dsimp only

theorem execVolDeferredApply_ok {N : Nat} {s : State} (hk : s.chip.Ok N) (q : Fin 64) :
    ∃ u, execVolDeferredApply q s = .next { s with chip := u } ∧ u.Ok N := by
  refine ⟨_, rfl, ?_⟩
  dsimp only
  repeat'
    first
    | with_reducible assumption | with_reducible apply Chip.volDeferred_ok | intro _ _ _ _ | intro _ _ _
    | dsimp only

theorem execCommitGo_ok {N : Nat} {s : State} (hk : s.chip.Ok N) (v : Word) :
    ∃ u, execCommitGo v s = .next { s with chip := u } ∧ u.Ok N := by
  refine ⟨_, rfl, ?_⟩
  dsimp only
  repeat'
    first
    | with_reducible assumption | with_reducible apply Chip.commitGo_ok | intro _ _ _ _ | intro _ _ _ | dsimp only

theorem execFreezeFlit_ok {N : Nat} {s : State} (hk : s.chip.Ok N) (d : Fin 8) :
    ∃ u, execFreezeFlit d s = .next { s with chip := u } ∧ u.Ok N := by
  refine ⟨_, rfl, ?_⟩
  dsimp only
  repeat'
    first
    | with_reducible assumption | with_reducible apply Chip.freezeFlit_ok | with_reducible apply Chip.ite_ok
    | intro _ _ _ _ | intro _ _ _ | dsimp only

theorem execFreezeAck_ok {N : Nat} {s : State} (hk : s.chip.Ok N) (d : Fin 8) (t : Nat) :
    ∃ u, execFreezeAck d t s = .next { s with chip := u } ∧ u.Ok N := by
  refine ⟨_, rfl, ?_⟩
  dsimp only
  repeat'
    first
    | with_reducible assumption | with_reducible apply Chip.at_ok | with_reducible apply Chip.freezeAck_ok
    | with_reducible apply Chip.ite_ok | intro _ _ _ _ | intro _ _ _ | dsimp only

theorem execCommitConfirm_ok {N : Nat} {s : State} (hk : s.chip.Ok N) (d : Fin 8) :
    ∃ u, execCommitConfirm d s = .next { s with chip := u } ∧ u.Ok N := by
  refine ⟨_, rfl, ?_⟩
  dsimp only
  repeat'
    first
    | with_reducible assumption | with_reducible apply Chip.modCommit_ok | with_reducible apply Chip.ite_ok
    | intro _ _ _ _ | intro _ _ _ | dsimp only

theorem execFreezeConfirmTimeout_ok {N : Nat} {s : State} (hk : s.chip.Ok N) (d : Fin 8) :
    ∃ u, execFreezeConfirmTimeout d s = .next { s with chip := u } ∧ u.Ok N := by
  refine ⟨_, rfl, ?_⟩
  dsimp only
  repeat'
    first
    | with_reducible assumption | with_reducible apply Chip.freezeTimeout_ok | with_reducible apply Chip.ite_ok
    | intro _ _ _ _ | intro _ _ _ | dsimp only

theorem execCommitLoad_ok {N : Nat} {s : State} (hk : s.chip.Ok N) (off : List Int) :
    ∃ u, execCommitLoad off s = .next { s with chip := u } ∧ u.Ok N := by
  refine ⟨_, rfl, ?_⟩
  dsimp only
  repeat'
    first
    | with_reducible assumption | with_reducible apply Chip.commitLoad_ok | with_reducible apply Chip.ite_ok
    | intro _ _ _ _ | intro _ _ _ | dsimp only

theorem execCommitSegmentLoad_ok {N : Nat} {s : State} (hk : s.chip.Ok N) :
    ∃ u, execCommitSegmentLoad s = .next { s with chip := u } ∧ u.Ok N := by
  refine ⟨_, rfl, ?_⟩
  dsimp only
  repeat'
    first
    | with_reducible assumption | with_reducible apply Chip.commitTick_ok | with_reducible apply Chip.ite_ok
    | intro _ _ _ _ | intro _ _ _ | dsimp only

theorem execEthAttemptTimeout_ok {N : Nat} {s : State} (hk : s.chip.Ok N) (j : Fin 2) :
    ∃ u, execEthAttemptTimeout j s = .next { s with chip := u } ∧ u.Ok N := by
  refine ⟨_, rfl, ?_⟩
  dsimp only
  repeat'
    first
    | with_reducible assumption | with_reducible apply Chip.ethAttempt_ok | intro _ _ _ _ | intro _ _ _
    | dsimp only

theorem execEthLinkUp_ok {N : Nat} {s : State} (hk : s.chip.Ok N) (j : Fin 2) :
    ∃ u, execEthLinkUp j s = .next { s with chip := u } ∧ u.Ok N := by
  refine ⟨_, rfl, ?_⟩
  dsimp only
  repeat'
    first
    | with_reducible assumption | with_reducible apply Chip.ethLinkUp_ok | intro _ _ _ _ | intro _ _ _ | dsimp only

theorem execEthLinkDown_ok {N : Nat} {s : State} (hk : s.chip.Ok N) (j : Fin 2) :
    ∃ u, execEthLinkDown j s = .next { s with chip := u } ∧ u.Ok N := by
  refine ⟨_, rfl, ?_⟩
  dsimp only
  repeat'
    first
    | with_reducible assumption | with_reducible apply Chip.ethLinkDown_ok | intro _ _ _ _ | intro _ _ _
    | dsimp only

theorem execEthFrameDiscard_ok {N : Nat} {s : State} (hk : s.chip.Ok N) (j : Fin 2) (fcs : Bool) :
    ∃ u, execEthFrameDiscard j fcs s = .next { s with chip := u } ∧ u.Ok N := by
  refine ⟨_, rfl, ?_⟩
  dsimp only
  repeat'
    first
    | with_reducible assumption | with_reducible apply Chip.raise_ok | with_reducible apply Chip.ethDiscard_ok
    | with_reducible apply Chip.ite_ok | intro _ _ _ _ | intro _ _ _ | dsimp only

theorem execPtpOtherMessage_ok {N : Nat} {s : State} (hk : s.chip.Ok N) (h : PtpHdr) :
    ∃ u, execPtpOtherMessage h s = .next { s with chip := u } ∧ u.Ok N := by
  refine ⟨_, rfl, ?_⟩
  dsimp only
  repeat'
    first
    | with_reducible assumption | with_reducible apply Chip.ethDiscard_ok | with_reducible apply Chip.ite_ok
    | intro _ _ _ _ | intro _ _ _ | dsimp only

theorem execPtpAnnounce_ok {N : Nat} {s : State} (hk : s.chip.Ok N) (h : PtpHdr) (d : PtpDataset) :
    ∃ u, execPtpAnnounce h d s = .next { s with chip := u } ∧ u.Ok N := by
  refine ⟨_, rfl, ?_⟩
  dsimp only
  repeat'
    first
    | with_reducible assumption | with_reducible apply Chip.ptpTake_ok | with_reducible apply Chip.announce_ok
    | intro _ _ _ _ | intro _ _ _ | dsimp only

theorem execPtpSync_ok {N : Nat} {s : State} (hk : s.chip.Ok N) (h : PtpHdr) (twoStep : Bool) (origin raw : Int) (t : Nat) :
    ∃ u, execPtpSync h twoStep origin raw t s = .next { s with chip := u } ∧ u.Ok N := by
  refine ⟨_, rfl, ?_⟩
  dsimp only
  repeat'
    first
    | with_reducible assumption | with_reducible apply Chip.at_ok | with_reducible apply Chip.ptpTake_ok
    | with_reducible apply Chip.sync_ok | intro _ _ _ _ | intro _ _ _ | dsimp only

theorem execPtpFollowUp_ok {N : Nat} {s : State} (hk : s.chip.Ok N) (h : PtpHdr) (origin : Int) :
    ∃ u, execPtpFollowUp h origin s = .next { s with chip := u } ∧ u.Ok N := by
  refine ⟨_, rfl, ?_⟩
  dsimp only
  repeat'
    first
    | with_reducible assumption | with_reducible apply Chip.ptpTake_ok | with_reducible apply Chip.followUp_ok
    | intro _ _ _ _ | intro _ _ _ | dsimp only

theorem execPtpDelayResp_ok {N : Nat} {s : State} (hk : s.chip.Ok N) (h : PtpHdr) (req : BitVec 80) (t4 : Int) (t : Nat) :
    ∃ u, execPtpDelayResp h req t4 t s = .next { s with chip := u } ∧ u.Ok N := by
  refine ⟨_, rfl, ?_⟩
  dsimp only
  repeat'
    first
    | with_reducible assumption | with_reducible apply Chip.at_ok | with_reducible apply Chip.ptpTake_ok
    | with_reducible apply Chip.delayResp_ok | intro _ _ _ _ | intro _ _ _ | dsimp only

theorem execSyncTimeout_ok {N : Nat} {s : State} (hk : s.chip.Ok N) (x j : Fin 2) :
    ∃ u, execSyncTimeout x j s = .next { s with chip := u } ∧ u.Ok N := by
  refine ⟨_, rfl, ?_⟩
  dsimp only
  repeat'
    first
    | with_reducible assumption | with_reducible apply Chip.modPtp_ok | with_reducible apply Chip.domLostTry_ok
    | intro _ _ _ _ | intro _ _ _ | dsimp only

theorem execAnnounceTimeout_ok {N : Nat} {s : State} (hk : s.chip.Ok N) (x j : Fin 2) :
    ∃ u, execAnnounceTimeout x j s = .next { s with chip := u } ∧ u.Ok N := by
  refine ⟨_, rfl, ?_⟩
  dsimp only
  repeat'
    first
    | with_reducible assumption | with_reducible apply Chip.modPtp_ok | with_reducible apply Chip.reselect_ok
    | with_reducible apply Chip.domLostTry_ok | intro _ _ _ _ | intro _ _ _ | dsimp only

theorem execTimeWord_ok {N : Nat} {s : State} (hk : s.chip.Ok N) (d : Fin 8) (skew : Int) :
    ∃ u, execTimeWord d skew s = .next { s with chip := u } ∧ u.Ok N := by
  refine ⟨_, rfl, ?_⟩
  dsimp only
  repeat'
    first
    | with_reducible assumption | with_reducible apply Chip.timeWord_ok | with_reducible apply Chip.ite_ok
    | intro _ _ _ _ | intro _ _ _ | dsimp only

theorem execLaunchOpen_ok {N : Nat} {s : State} (hk : s.chip.Ok N) (j : Fin 16) (v : Word) :
    ∃ u, execLaunchOpen j v s = .next { s with chip := u } ∧ u.Ok N := by
  refine ⟨_, rfl, ?_⟩
  dsimp only
  repeat'
    first
    | with_reducible assumption | with_reducible apply Chip.launchCtrl_ok | intro _ _ _ _ | intro _ _ _
    | dsimp only

theorem execLaunchArm_ok {N : Nat} {s : State} (hk : s.chip.Ok N) (j : Fin 16) (v : Word) (t : Nat) :
    ∃ u, execLaunchArm j v t s = .next { s with chip := u } ∧ u.Ok N := by
  refine ⟨_, rfl, ?_⟩
  dsimp only
  repeat'
    first
    | with_reducible assumption | with_reducible apply Chip.at_ok | with_reducible apply Chip.launchCtrl_ok
    | intro _ _ _ _ | intro _ _ _ | dsimp only

theorem execLaunchAbort_ok {N : Nat} {s : State} (hk : s.chip.Ok N) (j : Fin 16) (v : Word) (t : Nat) :
    ∃ u, execLaunchAbort j v t s = .next { s with chip := u } ∧ u.Ok N := by
  refine ⟨_, rfl, ?_⟩
  dsimp only
  repeat'
    first
    | with_reducible assumption | with_reducible apply Chip.at_ok | with_reducible apply Chip.launchCtrl_ok
    | intro _ _ _ _ | intro _ _ _ | dsimp only

theorem execLaunchRelease_ok {N : Nat} {s : State} (hk : s.chip.Ok N) (j : Fin 16) (v : Word) :
    ∃ u, execLaunchRelease j v s = .next { s with chip := u } ∧ u.Ok N := by
  refine ⟨_, rfl, ?_⟩
  dsimp only
  repeat'
    first
    | with_reducible assumption | with_reducible apply Chip.launchCtrl_ok | intro _ _ _ _ | intro _ _ _
    | dsimp only

theorem execDelayReqSend_ok {N : Nat} {s : State} (hk : s.chip.Ok N) (x j : Fin 2) (raw : Sys2Proof.RawEgress) :
    ∃ u, execDelayReqSend x j raw s = .next { s with chip := u } ∧ u.Ok N := by
  refine ⟨_, rfl, ?_⟩
  dsimp only
  repeat'
    first
    | with_reducible assumption | with_reducible apply Chip.at_ok | with_reducible apply Chip.delayReq_ok
    | intro _ _ _ _ | intro _ _ _ | dsimp only

theorem execTelemetryLaunch_ok {N : Nat} {s : State} (hk : s.chip.Ok N) (t : Nat) :
    ∃ u, execTelemetryLaunch t s = .next { s with chip := u } ∧ u.Ok N := by
  refine ⟨_, rfl, ?_⟩
  dsimp only
  repeat'
    first
    | with_reducible assumption | with_reducible apply Chip.at_ok | with_reducible apply Chip.telemetry_ok
    | intro _ _ _ _ | intro _ _ _ | dsimp only

theorem execLaunchTime_ok {N : Nat} {s : State} (hk : s.chip.Ok N) (j : Fin 16) (t : Nat) (raw : Int) :
    ∃ u, execLaunchTime j t raw s = .next { s with chip := u } ∧ u.Ok N := by
  refine ⟨_, rfl, ?_⟩
  dsimp only
  repeat'
    first
    | with_reducible assumption | with_reducible apply Chip.at_ok | with_reducible apply Chip.launch_ok
    | with_reducible apply Chip.telFollow_ok | intro _ _ _ _ | intro _ _ _ | dsimp only

theorem execPpsOut_ok {N : Nat} {s : State} (hk : s.chip.Ok N) (t : Nat) :
    ∃ u, execPpsOut t s = .next { s with chip := u } ∧ u.Ok N := by
  refine ⟨_, rfl, ?_⟩
  dsimp only
  repeat'
    first
    | with_reducible assumption | with_reducible apply Chip.at_ok | with_reducible apply Chip.ppsFall_ok
    | with_reducible apply Chip.pps_ok | intro _ _ _ _ | intro _ _ _ | dsimp only

theorem execOwnerKeyProgram_ok {N : Nat} {s : State} (hk : s.chip.Ok N) (v : Word) :
    ∃ u, execOwnerKeyProgram v s = .next { s with chip := u } ∧ u.Ok N := by
  refine ⟨_, rfl, ?_⟩
  dsimp only
  repeat'
    first
    | with_reducible assumption | with_reducible apply Chip.ownerCtrl_ok | with_reducible apply Chip.ite_ok
    | intro _ _ _ _ | intro _ _ _ | dsimp only

theorem execOwnerKeyRevoke_ok {N : Nat} {s : State} (hk : s.chip.Ok N) (v : Word) :
    ∃ u, execOwnerKeyRevoke v s = .next { s with chip := u } ∧ u.Ok N := by
  refine ⟨_, rfl, ?_⟩
  dsimp only
  repeat'
    first
    | with_reducible assumption | with_reducible apply Chip.ownerCtrl_ok | with_reducible apply Chip.ite_ok
    | intro _ _ _ _ | intro _ _ _ | dsimp only

theorem execLifecycleAdvance_ok {N : Nat} {s : State} (hk : s.chip.Ok N) (v : Word) :
    ∃ u, execLifecycleAdvance v s = .next { s with chip := u } ∧ u.Ok N := by
  refine ⟨_, rfl, ?_⟩
  dsimp only
  repeat'
    first
    | with_reducible assumption | with_reducible apply Chip.lifecycleWrite_ok | intro _ _ _ _ | intro _ _ _
    | dsimp only

theorem execRollbackCommit_ok {N : Nat} {s : State} (hk : s.chip.Ok N) (v : Word) :
    ∃ u, execRollbackCommit v s = .next { s with chip := u } ∧ u.Ok N := by
  refine ⟨_, rfl, ?_⟩
  dsimp only
  repeat'
    first
    | with_reducible assumption | with_reducible apply Chip.rollbackWrite_ok | intro _ _ _ _ | intro _ _ _
    | dsimp only

theorem execDieDisableBurn_ok {N : Nat} {s : State} (hk : s.chip.Ok N) (v : Word) :
    ∃ u, execDieDisableBurn v s = .next { s with chip := u } ∧ u.Ok N := by
  refine ⟨_, rfl, ?_⟩
  dsimp only
  repeat'
    first
    | with_reducible assumption | with_reducible apply Chip.disableWrite_ok | intro _ _ _ _ | intro _ _ _
    | dsimp only

theorem execHp1Disable_ok {N : Nat} {s : State} (hk : s.chip.Ok N) (v : Word) :
    ∃ u, execHp1Disable v s = .next { s with chip := u } ∧ u.Ok N := by
  refine ⟨_, rfl, ?_⟩
  dsimp only
  repeat'
    first
    | with_reducible assumption | with_reducible apply Chip.hp1Write_ok | intro _ _ _ _ | intro _ _ _ | dsimp only

theorem execDebugLock_ok {N : Nat} {s : State} (hk : s.chip.Ok N) (v : Word) :
    ∃ u, execDebugLock v s = .next { s with chip := u } ∧ u.Ok N := by
  refine ⟨_, rfl, ?_⟩
  dsimp only
  repeat'
    first
    | with_reducible assumption | with_reducible apply Chip.debugWrite_ok | intro _ _ _ _ | intro _ _ _
    | dsimp only

theorem execTimeRestep_ok {N : Nat} {s : State} (hk : s.chip.Ok N) (v : Word) (t : Nat) :
    ∃ u, execTimeRestep v t s = .next { s with chip := u } ∧ u.Ok N := by
  refine ⟨_, rfl, ?_⟩
  dsimp only
  repeat'
    first
    | with_reducible assumption | with_reducible apply Chip.at_ok | with_reducible apply Chip.restepWrite_ok
    | intro _ _ _ _ | intro _ _ _ | dsimp only

theorem execFuseBurnDone_ok {N : Nat} {s : State} (hk : s.chip.Ok N) (bad : BitVec 8) :
    ∃ u, execFuseBurnDone bad s = .next { s with chip := u } ∧ u.Ok N := by
  refine ⟨_, rfl, ?_⟩
  dsimp only
  repeat'
    first
    | with_reducible assumption | with_reducible apply Chip.burnDone_ok | intro _ _ _ _ | intro _ _ _ | dsimp only

theorem execSessionOpen_ok {N : Nat} {s : State} (hk : s.chip.Ok N) (p : Fin 2) :
    ∃ u, execSessionOpen p s = .next { s with chip := u } ∧ u.Ok N := by
  refine ⟨_, rfl, ?_⟩
  dsimp only
  repeat'
    first
    | with_reducible assumption | with_reducible apply Chip.sessCtrl_ok | intro _ _ _ _ | intro _ _ _ | dsimp only

theorem execSessionProve_ok {N : Nat} {s : State} (hk : s.chip.Ok N) (p : Fin 2) :
    ∃ u, execSessionProve p s = .next { s with chip := u } ∧ u.Ok N := by
  refine ⟨_, rfl, ?_⟩
  dsimp only
  repeat'
    first
    | with_reducible assumption | with_reducible apply Chip.sessCtrl_ok | intro _ _ _ _ | intro _ _ _ | dsimp only

theorem execSessionClose_ok {N : Nat} {s : State} (hk : s.chip.Ok N) (p : Fin 2) :
    ∃ u, execSessionClose p s = .next { s with chip := u } ∧ u.Ok N := by
  refine ⟨_, rfl, ?_⟩
  dsimp only
  repeat'
    first
    | with_reducible assumption | with_reducible apply Chip.sessEnd_ok | with_reducible apply Chip.ite_ok
    | intro _ _ _ _ | intro _ _ _ | dsimp only

theorem execChallengeLapse_ok {N : Nat} {s : State} (hk : s.chip.Ok N) :
    ∃ u, execChallengeLapse s = .next { s with chip := u } ∧ u.Ok N := by
  refine ⟨_, rfl, ?_⟩
  dsimp only
  repeat'
    first
    | with_reducible assumption | with_reducible apply Chip.modSec_ok | with_reducible apply Chip.showSess_ok
    | intro _ _ _ _ | intro _ _ _ | dsimp only

theorem execSessionIdleTimeout_ok {N : Nat} {s : State} (hk : s.chip.Ok N) :
    ∃ u, execSessionIdleTimeout s = .next { s with chip := u } ∧ u.Ok N := by
  refine ⟨_, rfl, ?_⟩
  dsimp only
  repeat'
    first
    | with_reducible assumption | with_reducible apply Chip.sessEnd_ok | intro _ _ _ _ | intro _ _ _ | dsimp only

theorem execLockoutEnd_ok {N : Nat} {s : State} (hk : s.chip.Ok N) :
    ∃ u, execLockoutEnd s = .next { s with chip := u } ∧ u.Ok N := by
  refine ⟨_, rfl, ?_⟩
  dsimp only
  repeat'
    first
    | with_reducible assumption | with_reducible apply Chip.modSec_ok | with_reducible apply Chip.showSess_ok
    | intro _ _ _ _ | intro _ _ _ | dsimp only

theorem execPtpKeyWrite_ok {N : Nat} {s : State} (hk : s.chip.Ok N) (v : Word) :
    ∃ u, execPtpKeyWrite v s = .next { s with chip := u } ∧ u.Ok N := by
  refine ⟨_, rfl, ?_⟩
  dsimp only
  repeat'
    first
    | with_reducible assumption | with_reducible apply Chip.ptpKeyWrite_ok | intro _ _ _ _ | intro _ _ _
    | dsimp only

theorem execTelKeyWrite_ok {N : Nat} {s : State} (hk : s.chip.Ok N) (v : Word) :
    ∃ u, execTelKeyWrite v s = .next { s with chip := u } ∧ u.Ok N := by
  refine ⟨_, rfl, ?_⟩
  dsimp only
  repeat'
    first
    | with_reducible assumption | with_reducible apply Chip.telKeyWrite_ok | intro _ _ _ _ | intro _ _ _
    | dsimp only

theorem execAttestGo_ok {N : Nat} {s : State} (hk : s.chip.Ok N) (v : Word) :
    ∃ u, execAttestGo v s = .next { s with chip := u } ∧ u.Ok N := by
  refine ⟨_, rfl, ?_⟩
  dsimp only
  repeat'
    first
    | with_reducible assumption | with_reducible apply Chip.attGo_ok | intro _ _ _ _ | intro _ _ _ | dsimp only

theorem execAttestDone_ok {N : Nat} {s : State} (hk : s.chip.Ok N) (t : Nat) :
    ∃ u, execAttestDone t s = .next { s with chip := u } ∧ u.Ok N := by
  refine ⟨_, rfl, ?_⟩
  dsimp only
  repeat'
    first
    | with_reducible assumption | with_reducible apply Chip.at_ok | with_reducible apply Chip.attDone_ok
    | intro _ _ _ _ | intro _ _ _ | dsimp only

theorem execLogSelect_ok {N : Nat} {s : State} (hk : s.chip.Ok N) (v : Word) :
    ∃ u, execLogSelect v s = .next { s with chip := u } ∧ u.Ok N := by
  refine ⟨_, rfl, ?_⟩
  dsimp only
  repeat'
    first
    | with_reducible assumption | with_reducible apply Chip.logSelect_ok | intro _ _ _ _ | intro _ _ _ | dsimp only

theorem execAuditChainCheck_ok {N : Nat} {s : State} (hk : s.chip.Ok N) (d : Fin 8) (hit : Option Nat) :
    ∃ u, execAuditChainCheck d hit s = .next { s with chip := u } ∧ u.Ok N := by
  refine ⟨_, rfl, ?_⟩
  dsimp only
  repeat'
    first
    | with_reducible assumption | with_reducible apply Chip.chainCheck_ok | with_reducible apply Chip.ite_ok
    | intro _ _ _ _ | intro _ _ _ | dsimp only

theorem execEntropyHealthFail_ok {N : Nat} {s : State} (hk : s.chip.Ok N) :
    ∃ u, execEntropyHealthFail s = .next { s with chip := u } ∧ u.Ok N := by
  refine ⟨_, rfl, ?_⟩
  dsimp only
  repeat'
    first
    | with_reducible assumption | with_reducible apply Chip.set_ok | with_reducible apply Chip.secF0_ok
    | intro _ _ _ _ | intro _ _ _ | dsimp only

theorem execDebugInstruction_ok {N : Nat} {s : State} (hk : s.chip.Ok N) (plain : Bool) :
    ∃ u, execDebugInstruction plain s = .next { s with chip := u } ∧ u.Ok N := by
  refine ⟨_, rfl, ?_⟩
  dsimp only
  repeat'
    first
    | with_reducible assumption | with_reducible apply Chip.bump_ok | with_reducible apply Chip.ite_ok
    | intro _ _ _ _ | intro _ _ _ | dsimp only

theorem execResetNAssert_ok {N : Nat} {s : State} (hk : s.chip.Ok N) :
    ∃ u, execResetNAssert s = .next { s with chip := u } ∧ u.Ok N := by
  refine ⟨_, rfl, ?_⟩
  dsimp only
  repeat'
    first
    | with_reducible assumption | with_reducible apply Chip.afterReset_ok | intro _ _ _ _ | intro _ _ _
    | dsimp only

theorem execResetNRelease_ok {N : Nat} {s : State} (hk : s.chip.Ok N) :
    ∃ u, execResetNRelease s = .next { s with chip := u } ∧ u.Ok N := by
  refine ⟨_, rfl, ?_⟩
  dsimp only
  repeat'
    first
    | with_reducible assumption | with_reducible apply Chip.release_ok | intro _ _ _ _ | intro _ _ _ | dsimp only

theorem execRailBelowReset_ok {N : Nat} {s : State} (hk : s.chip.Ok N) (d : Fin 8) (r : Fin 6) :
    ∃ u, execRailBelowReset d r s = .next { s with chip := u } ∧ u.Ok N := by
  refine ⟨_, rfl, ?_⟩
  dsimp only
  repeat'
    first
    | with_reducible assumption | with_reducible apply Chip.railDown_ok | with_reducible apply Chip.ite_ok
    | intro _ _ _ _ | intro _ _ _ | dsimp only

theorem execRailAboveReset_ok {N : Nat} {s : State} (hk : s.chip.Ok N) (d : Fin 8) (r : Fin 6) :
    ∃ u, execRailAboveReset d r s = .next { s with chip := u } ∧ u.Ok N := by
  refine ⟨_, rfl, ?_⟩
  dsimp only
  repeat'
    first
    | with_reducible assumption | with_reducible apply Chip.railUp_ok | with_reducible apply Chip.ite_ok
    | intro _ _ _ _ | intro _ _ _ | dsimp only

theorem execNegotiationStart_ok {N : Nat} {s : State} (hk : s.chip.Ok N) (d : Fin 8) (selfTestOk : Bool) (key : Option Nat) :
    ∃ u, execNegotiationStart d selfTestOk key s = .next { s with chip := u } ∧ u.Ok N := by
  refine ⟨_, rfl, ?_⟩
  dsimp only
  repeat'
    first
    | with_reducible assumption | with_reducible apply Chip.negStart_ok | with_reducible apply Chip.ite_ok
    | intro _ _ _ _ | intro _ _ _ | dsimp only

theorem execRollMessage_ok {N : Nat} {s : State} (hk : s.chip.Ok N) (d e : Fin 8) :
    ∃ u, execRollMessage d e s = .next { s with chip := u } ∧ u.Ok N := by
  refine ⟨_, rfl, ?_⟩
  dsimp only
  repeat'
    first
    | with_reducible assumption | with_reducible apply Chip.rollMessage_ok | with_reducible apply Chip.ite_ok
    | intro _ _ _ _ | intro _ _ _ | dsimp only

theorem execNegotiationEnd_ok {N : Nat} {s : State} (hk : s.chip.Ok N) (d : Fin 8) :
    ∃ u, execNegotiationEnd d s = .next { s with chip := u } ∧ u.Ok N := by
  refine ⟨_, rfl, ?_⟩
  dsimp only
  repeat'
    first
    | with_reducible assumption | with_reducible apply Chip.negEnd_ok | with_reducible apply Chip.ite_ok
    | intro _ _ _ _ | intro _ _ _ | dsimp only

theorem execFuseLevelling_ok {N : Nat} {s : State} (hk : s.chip.Ok N) (found : FuseCheck) :
    ∃ u, execFuseLevelling found s = .next { s with chip := u } ∧ u.Ok N := by
  refine ⟨_, rfl, ?_⟩
  dsimp only
  repeat'
    first
    | with_reducible assumption | with_reducible apply Chip.levelDies_ok | with_reducible apply Chip.ite_ok
    | intro _ _ _ _ | intro _ _ _ | dsimp only

theorem execFlashDiscovery_ok {N : Nat} {s : State} (hk : s.chip.Ok N) (found : Sys2Proof.FlashFound) :
    ∃ u, execFlashDiscovery found s = .next { s with chip := u } ∧ u.Ok N := by
  refine ⟨_, rfl, ?_⟩
  dsimp only
  repeat'
    first
    | with_reducible assumption | with_reducible apply Chip.discover_ok | with_reducible apply Chip.ite_ok
    | intro _ _ _ _ | intro _ _ _ | dsimp only

theorem execImageBlock_ok {N : Nat} {s : State} (hk : s.chip.Ok N) (ok : Bool) :
    ∃ u, execImageBlock ok s = .next { s with chip := u } ∧ u.Ok N := by
  refine ⟨_, rfl, ?_⟩
  dsimp only
  repeat'
    first
    | with_reducible assumption | with_reducible apply Chip.imageBlock_ok | with_reducible apply Chip.ite_ok
    | intro _ _ _ _ | intro _ _ _ | dsimp only

theorem execFlashRead_ok {N : Nat} {s : State} (hk : s.chip.Ok N) (v : Word) :
    ∃ u, execFlashRead v s = .next { s with chip := u } ∧ u.Ok N := by
  refine ⟨_, rfl, ?_⟩
  dsimp only
  repeat'
    first
    | with_reducible assumption | with_reducible apply Chip.flOp_ok | intro _ _ _ _ | intro _ _ _ | dsimp only

theorem execFlashErase_ok {N : Nat} {s : State} (hk : s.chip.Ok N) (v : Word) :
    ∃ u, execFlashErase v s = .next { s with chip := u } ∧ u.Ok N := by
  refine ⟨_, rfl, ?_⟩
  dsimp only
  repeat'
    first
    | with_reducible assumption | with_reducible apply Chip.flOp_ok | intro _ _ _ _ | intro _ _ _ | dsimp only

theorem execFlashProgram_ok {N : Nat} {s : State} (hk : s.chip.Ok N) (v : Word) :
    ∃ u, execFlashProgram v s = .next { s with chip := u } ∧ u.Ok N := by
  refine ⟨_, rfl, ?_⟩
  dsimp only
  repeat'
    first
    | with_reducible assumption | with_reducible apply Chip.flOp_ok | intro _ _ _ _ | intro _ _ _ | dsimp only

theorem execFlashOpDone_ok {N : Nat} {s : State} (hk : s.chip.Ok N) (err : Fin 3) :
    ∃ u, execFlashOpDone err s = .next { s with chip := u } ∧ u.Ok N := by
  refine ⟨_, rfl, ?_⟩
  dsimp only
  repeat'
    first
    | with_reducible assumption | with_reducible apply Chip.flDone_ok | with_reducible apply Chip.ite_ok
    | intro _ _ _ _ | intro _ _ _ | dsimp only

theorem execEnterService_ok {N : Nat} {s : State} (hk : s.chip.Ok N) :
    ∃ u, execEnterService s = .next { s with chip := u } ∧ u.Ok N := by
  refine ⟨_, rfl, ?_⟩
  dsimp only
  repeat'
    first
    | with_reducible assumption | with_reducible apply Chip.enterService_ok | with_reducible apply Chip.ite_ok
    | intro _ _ _ _ | intro _ _ _ | dsimp only

theorem execRetainedRestore_ok {N : Nat} {s : State} (hk : s.chip.Ok N) :
    ∃ u, execRetainedRestore s = .next { s with chip := u } ∧ u.Ok N := by
  refine ⟨_, rfl, ?_⟩
  dsimp only
  repeat'
    first
    | with_reducible assumption | with_reducible apply Chip.restore_ok | with_reducible apply Chip.ite_ok
    | intro _ _ _ _ | intro _ _ _ | dsimp only

theorem execStartStateChange_ok {N : Nat} {s : State} (hk : s.chip.Ok N) (d p : Fin 8) :
    ∃ u, execStartStateChange d p s = .next { s with chip := u } ∧ u.Ok N := by
  refine ⟨_, rfl, ?_⟩
  dsimp only
  repeat'
    first
    | with_reducible assumption | with_reducible apply Chip.startEfe_ok | with_reducible apply Chip.ite_ok
    | intro _ _ _ _ | intro _ _ _ | dsimp only

theorem execStartPortTimeout_ok {N : Nat} {s : State} (hk : s.chip.Ok N) (d : Fin 8) (p : Fin 16) :
    ∃ u, execStartPortTimeout d p s = .next { s with chip := u } ∧ u.Ok N := by
  refine ⟨_, rfl, ?_⟩
  dsimp only
  repeat'
    first
    | with_reducible assumption | with_reducible apply Chip.portLate_ok | with_reducible apply Chip.ite_ok
    | intro _ _ _ _ | intro _ _ _ | dsimp only

theorem execSnapshotPeriod_ok {N : Nat} {s : State} (hk : s.chip.Ok N) (t : Nat) :
    ∃ u, execSnapshotPeriod t s = .next { s with chip := u } ∧ u.Ok N := by
  refine ⟨_, rfl, ?_⟩
  dsimp only
  repeat'
    first
    | with_reducible assumption | with_reducible apply Chip.at_ok | with_reducible apply Chip.snapName_ok
    | with_reducible apply Chip.ite_ok | intro _ _ _ _ | intro _ _ _ | dsimp only

theorem execSnapshotCapture_ok {N : Nat} {s : State} (hk : s.chip.Ok N) :
    ∃ u, execSnapshotCapture s = .next { s with chip := u } ∧ u.Ok N := by
  refine ⟨_, rfl, ?_⟩
  dsimp only
  repeat'
    first
    | with_reducible assumption | with_reducible apply Chip.snapCapture_ok | intro _ _ _ _ | intro _ _ _
    | dsimp only

theorem execSnapshotWriteDone_ok {N : Nat} {s : State} (hk : s.chip.Ok N) (d : Fin 8) (fail : Bool) :
    ∃ u, execSnapshotWriteDone d fail s = .next { s with chip := u } ∧ u.Ok N := by
  refine ⟨_, rfl, ?_⟩
  dsimp only
  repeat'
    first
    | with_reducible assumption | with_reducible apply Chip.snapDone_ok | with_reducible apply Chip.restart_ok
    | with_reducible apply Chip.ite_ok | intro _ _ _ _ | intro _ _ _ | dsimp only

theorem execImgRestart_ok {N : Nat} {s : State} (hk : s.chip.Ok N) (v : Word) (t : Nat) :
    ∃ u, execImgRestart v t s = .next { s with chip := u } ∧ u.Ok N := by
  refine ⟨_, rfl, ?_⟩
  dsimp only
  repeat'
    first
    | with_reducible assumption | with_reducible apply Chip.at_ok | with_reducible apply Chip.imgCtrl_ok
    | intro _ _ _ _ | intro _ _ _ | dsimp only

theorem execSnapNow_ok {N : Nat} {s : State} (hk : s.chip.Ok N) (v : Word) (t : Nat) :
    ∃ u, execSnapNow v t s = .next { s with chip := u } ∧ u.Ok N := by
  refine ⟨_, rfl, ?_⟩
  dsimp only
  repeat'
    first
    | with_reducible assumption | with_reducible apply Chip.at_ok | with_reducible apply Chip.retCtrl_ok
    | with_reducible apply Chip.ite_ok | intro _ _ _ _ | intro _ _ _ | dsimp only

theorem execRetForget_ok {N : Nat} {s : State} (hk : s.chip.Ok N) (v : Word) (t : Nat) :
    ∃ u, execRetForget v t s = .next { s with chip := u } ∧ u.Ok N := by
  refine ⟨_, rfl, ?_⟩
  dsimp only
  repeat'
    first
    | with_reducible assumption | with_reducible apply Chip.at_ok | with_reducible apply Chip.retCtrl_ok
    | with_reducible apply Chip.ite_ok | intro _ _ _ _ | intro _ _ _ | dsimp only

theorem execSupplyWarning_ok {N : Nat} {s : State} (hk : s.chip.Ok N) :
    ∃ u, execSupplyWarning s = .next { s with chip := u } ∧ u.Ok N := by
  refine ⟨_, rfl, ?_⟩
  dsimp only
  repeat'
    first
    | with_reducible assumption | with_reducible apply Chip.supplyWarning_ok | with_reducible apply Chip.ite_ok
    | intro _ _ _ _ | intro _ _ _ | dsimp only

theorem execHostLinkUp_ok {N : Nat} {s : State} (hk : s.chip.Ok N) (p : Fin 2) (speed : Fin 4) (lanes : Fin 3) :
    ∃ u, execHostLinkUp p speed lanes s = .next { s with chip := u } ∧ u.Ok N := by
  refine ⟨_, rfl, ?_⟩
  dsimp only
  repeat'
    first
    | with_reducible assumption | with_reducible apply Chip.hostLinkUp_ok | intro _ _ _ _ | intro _ _ _
    | dsimp only

theorem execPerstAssert_ok {N : Nat} {s : State} (hk : s.chip.Ok N) (p : Fin 2) (tlps : Nat) :
    ∃ u, execPerstAssert p tlps s = .next { s with chip := u } ∧ u.Ok N := by
  refine ⟨_, rfl, ?_⟩
  dsimp only
  repeat'
    first
    | with_reducible assumption | with_reducible apply Chip.modHost_ok | with_reducible apply Chip.hostDown_ok
    | with_reducible apply Chip.ite_ok | intro _ _ _ _ | intro _ _ _ | dsimp only

theorem execPcieLinkDown_ok {N : Nat} {s : State} (hk : s.chip.Ok N) (p : Fin 2) (tlps : Nat) :
    ∃ u, execPcieLinkDown p tlps s = .next { s with chip := u } ∧ u.Ok N := by
  refine ⟨_, rfl, ?_⟩
  dsimp only
  repeat'
    first
    | with_reducible assumption | with_reducible apply Chip.hostDown_ok | with_reducible apply Chip.ite_ok
    | intro _ _ _ _ | intro _ _ _ | dsimp only

theorem execFunctionLevelReset_ok {N : Nat} {s : State} (hk : s.chip.Ok N) (p : Fin 2) (tlps : Nat) :
    ∃ u, execFunctionLevelReset p tlps s = .next { s with chip := u } ∧ u.Ok N := by
  refine ⟨_, rfl, ?_⟩
  dsimp only
  repeat'
    first
    | with_reducible assumption | with_reducible apply Chip.flrBegin_ok | with_reducible apply Chip.ite_ok
    | intro _ _ _ _ | intro _ _ _ | dsimp only

theorem execFlrComplete_ok {N : Nat} {s : State} (hk : s.chip.Ok N) (p : Fin 2) :
    ∃ u, execFlrComplete p s = .next { s with chip := u } ∧ u.Ok N := by
  refine ⟨_, rfl, ?_⟩
  dsimp only
  repeat'
    first
    | with_reducible assumption | with_reducible apply Chip.modHost_ok | with_reducible apply Chip.resync_ok
    | intro _ _ _ _ | intro _ _ _ | dsimp only

theorem execD3hotEntry_ok {N : Nat} {s : State} (hk : s.chip.Ok N) (p : Fin 2) :
    ∃ u, execD3hotEntry p s = .next { s with chip := u } ∧ u.Ok N := by
  refine ⟨_, rfl, ?_⟩
  dsimp only
  repeat'
    first
    | with_reducible assumption | with_reducible apply Chip.hostPower_ok | with_reducible apply Chip.ite_ok
    | intro _ _ _ _ | intro _ _ _ | dsimp only

theorem execD0Return_ok {N : Nat} {s : State} (hk : s.chip.Ok N) (p : Fin 2) :
    ∃ u, execD0Return p s = .next { s with chip := u } ∧ u.Ok N := by
  refine ⟨_, rfl, ?_⟩
  dsimp only
  repeat'
    first
    | with_reducible assumption | with_reducible apply Chip.hostPower_ok | with_reducible apply Chip.ite_ok
    | intro _ _ _ _ | intro _ _ _ | dsimp only

theorem execMsixMessage_ok {N : Nat} {s : State} (hk : s.chip.Ok N) (k : Fin 64) :
    ∃ u, execMsixMessage k s = .next { s with chip := u } ∧ u.Ok N := by
  refine ⟨_, rfl, ?_⟩
  dsimp only
  repeat'
    first
    | with_reducible assumption | with_reducible apply Chip.msixMessage_ok | intro _ _ _ _ | intro _ _ _
    | dsimp only

theorem execMsixPendingRelease_ok {N : Nat} {s : State} (hk : s.chip.Ok N) (p : Fin 2) (k : Fin 64) :
    ∃ u, execMsixPendingRelease p k s = .next { s with chip := u } ∧ u.Ok N := by
  refine ⟨_, rfl, ?_⟩
  dsimp only
  repeat'
    first
    | with_reducible assumption | with_reducible apply Chip.msixSend_ok | with_reducible apply Chip.ite_ok
    | intro _ _ _ _ | intro _ _ _ | dsimp only

theorem execPcieConfigRead_ok {N : Nat} {s : State} (hk : s.chip.Ok N) (p : Fin 2) (r : CfgReg) :
    ∃ u, execPcieConfigRead p r s = .next { s with chip := u } ∧ u.Ok N := by
  refine ⟨_, rfl, ?_⟩
  dsimp only
  repeat'
    first
    | with_reducible assumption | with_reducible apply Chip.complete_ok | with_reducible apply Chip.took_ok
    | with_reducible apply Chip.ite_ok | intro _ _ _ _ | intro _ _ _ | dsimp only

theorem execPcieConfigWrite_ok {N : Nat} {s : State} (hk : s.chip.Ok N) (p : Fin 2) (r : CfgReg) (v : Word) :
    ∃ u, execPcieConfigWrite p r v s = .next { s with chip := u } ∧ u.Ok N := by
  refine ⟨_, rfl, ?_⟩
  dsimp only
  repeat'
    first
    | with_reducible assumption | with_reducible apply Chip.cfgWrite_ok | with_reducible apply Chip.complete_ok
    | with_reducible apply Chip.ite_ok | intro _ _ _ _ | intro _ _ _ | dsimp only

theorem execPcieUnsupportedRequest_ok {N : Nat} {s : State} (hk : s.chip.Ok N) (p : Fin 2) :
    ∃ u, execPcieUnsupportedRequest p s = .next { s with chip := u } ∧ u.Ok N := by
  refine ⟨_, rfl, ?_⟩
  dsimp only
  repeat'
    first
    | with_reducible assumption | with_reducible apply Chip.unsupported_ok | with_reducible apply Chip.ite_ok
    | intro _ _ _ _ | intro _ _ _ | dsimp only

theorem execFlitCrcFail_ok {N : Nat} {s : State} (hk : s.chip.Ok N) (r : FlitRx) :
    ∃ u, execFlitCrcFail r s = .next { s with chip := u } ∧ u.Ok N := by
  refine ⟨_, rfl, ?_⟩
  dsimp only
  repeat'
    first
    | with_reducible assumption | with_reducible apply Chip.hop_ok | with_reducible apply Chip.flitFail_ok
    | with_reducible apply Chip.ite_ok | intro _ _ _ _ | intro _ _ _ | dsimp only

theorem execHopFailure_ok {N : Nat} {s : State} (hk : s.chip.Ok N) (h : Fin 8) :
    ∃ u, execHopFailure h s = .next { s with chip := u } ∧ u.Ok N := by
  refine ⟨_, rfl, ?_⟩
  dsimp only
  repeat'
    first
    | with_reducible assumption | with_reducible apply Chip.hopFails_ok | with_reducible apply Chip.ite_ok
    | intro _ _ _ _ | intro _ _ _ | dsimp only

theorem execHopRetrain_ok {N : Nat} {s : State} (hk : s.chip.Ok N) (h : Fin 8) (errors : Nat) :
    ∃ u, execHopRetrain h errors s = .next { s with chip := u } ∧ u.Ok N := by
  refine ⟨_, rfl, ?_⟩
  dsimp only
  repeat'
    first
    | with_reducible assumption | with_reducible apply Chip.hopRetrained_ok | with_reducible apply Chip.ite_ok
    | intro _ _ _ _ | intro _ _ _ | dsimp only

theorem execLeaseRenewal_ok {N : Nat} {s : State} (hk : s.chip.Ok N) (k : Fin 6) (t : Nat) :
    ∃ u, execLeaseRenewal k t s = .next { s with chip := u } ∧ u.Ok N := by
  refine ⟨_, rfl, ?_⟩
  dsimp only
  repeat'
    first
    | with_reducible assumption | with_reducible apply Chip.at_ok | with_reducible apply Chip.renew_ok
    | intro _ _ _ _ | intro _ _ _ | dsimp only

theorem execLeaseHolderStop_ok {N : Nat} {s : State} (hk : s.chip.Ok N) (k : Fin 6) (t : Nat) :
    ∃ u, execLeaseHolderStop k t s = .next { s with chip := u } ∧ u.Ok N := by
  refine ⟨_, rfl, ?_⟩
  dsimp only
  repeat'
    first
    | with_reducible assumption | with_reducible apply Chip.at_ok | with_reducible apply Chip.leaseStop_ok
    | intro _ _ _ _ | intro _ _ _ | dsimp only

theorem execPlannedHandover_ok {N : Nat} {s : State} (hk : s.chip.Ok N) :
    ∃ u, execPlannedHandover s = .next { s with chip := u } ∧ u.Ok N := by
  refine ⟨_, rfl, ?_⟩
  dsimp only
  repeat'
    first
    | with_reducible assumption | with_reducible apply Chip.handover_ok | with_reducible apply Chip.ite_ok
    | intro _ _ _ _ | intro _ _ _ | dsimp only

theorem execLeaseLapse_ok {N : Nat} {s : State} (hk : s.chip.Ok N) (k : Fin 6) (t : Nat) :
    ∃ u, execLeaseLapse k t s = .next { s with chip := u } ∧ u.Ok N := by
  refine ⟨_, rfl, ?_⟩
  dsimp only
  repeat'
    first
    | with_reducible assumption | with_reducible apply Chip.at_ok | with_reducible apply Chip.leaseLapse_ok
    | intro _ _ _ _ | intro _ _ _ | dsimp only

theorem execDieSideline_ok {N : Nat} {s : State} (hk : s.chip.Ok N) (d : Fin 8) :
    ∃ u, execDieSideline d s = .next { s with chip := u } ∧ u.Ok N := by
  refine ⟨_, rfl, ?_⟩
  dsimp only
  repeat'
    first
    | with_reducible assumption | with_reducible apply Chip.sidelineDue_ok | with_reducible apply Chip.ite_ok
    | intro _ _ _ _ | intro _ _ _ | dsimp only

theorem execHeartbeatMissed_ok {N : Nat} {s : State} (hk : s.chip.Ok N) (d : Fin 8) :
    ∃ u, execHeartbeatMissed d s = .next { s with chip := u } ∧ u.Ok N := by
  refine ⟨_, rfl, ?_⟩
  dsimp only
  repeat'
    first
    | with_reducible assumption | with_reducible apply Chip.heartbeat_ok | intro _ _ _ _ | intro _ _ _ | dsimp only

theorem execCoverOrder_ok {N : Nat} {s : State} (hk : s.chip.Ok N) (ns : Nat) :
    ∃ u, execCoverOrder ns s = .next { s with chip := u } ∧ u.Ok N := by
  refine ⟨_, rfl, ?_⟩
  dsimp only
  repeat'
    first
    | with_reducible assumption | with_reducible apply Chip.coverOrder_ok | intro _ _ _ _ | intro _ _ _
    | dsimp only

theorem execCoverStart_ok {N : Nat} {s : State} (hk : s.chip.Ok N) :
    ∃ u, execCoverStart s = .next { s with chip := u } ∧ u.Ok N := by
  refine ⟨_, rfl, ?_⟩
  dsimp only
  repeat'
    first
    | with_reducible assumption | with_reducible apply Chip.coverStart_ok | intro _ _ _ _ | intro _ _ _
    | dsimp only

theorem execFaultDieSideline_ok {N : Nat} {s : State} (hk : s.chip.Ok N) (v : Word) (t : Nat) :
    ∃ u, execFaultDieSideline v t s = .next { s with chip := u } ∧ u.Ok N := by
  refine ⟨_, rfl, ?_⟩
  dsimp only
  repeat'
    first
    | with_reducible assumption | with_reducible apply Chip.at_ok | with_reducible apply Chip.dieOp_ok
    | intro _ _ _ _ | intro _ _ _ | dsimp only

theorem execFaultDieReload_ok {N : Nat} {s : State} (hk : s.chip.Ok N) (v : Word) (t : Nat) :
    ∃ u, execFaultDieReload v t s = .next { s with chip := u } ∧ u.Ok N := by
  refine ⟨_, rfl, ?_⟩
  dsimp only
  repeat'
    first
    | with_reducible assumption | with_reducible apply Chip.at_ok | with_reducible apply Chip.dieOp_ok
    | intro _ _ _ _ | intro _ _ _ | dsimp only

theorem execFaultDieRejoin_ok {N : Nat} {s : State} (hk : s.chip.Ok N) (v : Word) (t : Nat) :
    ∃ u, execFaultDieRejoin v t s = .next { s with chip := u } ∧ u.Ok N := by
  refine ⟨_, rfl, ?_⟩
  dsimp only
  repeat'
    first
    | with_reducible assumption | with_reducible apply Chip.at_ok | with_reducible apply Chip.dieOp_ok
    | intro _ _ _ _ | intro _ _ _ | dsimp only

theorem execRejoinStart_ok {N : Nat} {s : State} (hk : s.chip.Ok N) (d : Fin 8) (t : Nat) :
    ∃ u, execRejoinStart d t s = .next { s with chip := u } ∧ u.Ok N := by
  refine ⟨_, rfl, ?_⟩
  dsimp only
  repeat'
    first
    | with_reducible assumption | with_reducible apply Chip.at_ok | with_reducible apply Chip.rejoinBegin_ok
    | with_reducible apply Chip.ite_ok | intro _ _ _ _ | intro _ _ _ | dsimp only

theorem execRejoinFailed_ok {N : Nat} {s : State} (hk : s.chip.Ok N) (d : Fin 8) :
    ∃ u, execRejoinFailed d s = .next { s with chip := u } ∧ u.Ok N := by
  refine ⟨_, rfl, ?_⟩
  dsimp only
  repeat'
    first
    | with_reducible assumption | with_reducible apply Chip.rejoinFail_ok | intro _ _ _ _ | intro _ _ _
    | dsimp only

theorem execImageContentCheck_ok {N : Nat} {s : State} (hk : s.chip.Ok N) (d : Fin 8) :
    ∃ u, execImageContentCheck d s = .next { s with chip := u } ∧ u.Ok N := by
  refine ⟨_, rfl, ?_⟩
  dsimp only
  repeat'
    first
    | with_reducible assumption | with_reducible apply Chip.rejoinLoad_ok
    | with_reducible apply Chip.contentCheck_ok | with_reducible apply Chip.ite_ok | intro _ _ _ _ | intro _ _ _
    | dsimp only

theorem execRejoinReady_ok {N : Nat} {s : State} (hk : s.chip.Ok N) (d : Fin 8) (t : Nat) :
    ∃ u, execRejoinReady d t s = .next { s with chip := u } ∧ u.Ok N := by
  refine ⟨_, rfl, ?_⟩
  dsimp only
  repeat'
    first
    | with_reducible assumption | with_reducible apply Chip.at_ok | with_reducible apply Chip.rejoinReady_ok
    | intro _ _ _ _ | intro _ _ _ | dsimp only

theorem execCoverReturn_ok {N : Nat} {s : State} (hk : s.chip.Ok N) :
    ∃ u, execCoverReturn s = .next { s with chip := u } ∧ u.Ok N := by
  refine ⟨_, rfl, ?_⟩
  dsimp only
  repeat'
    first
    | with_reducible assumption | with_reducible apply Chip.coverReturn_ok | intro _ _ _ _ | intro _ _ _
    | dsimp only

theorem execUpdVerifyDone_ok {N : Nat} {s : State} (hk : s.chip.Ok N) (ok : Bool) :
    ∃ u, execUpdVerifyDone ok s = .next { s with chip := u } ∧ u.Ok N := by
  refine ⟨_, rfl, ?_⟩
  dsimp only
  repeat'
    first
    | with_reducible assumption | with_reducible apply Chip.updVerifyDone_ok | intro _ _ _ _ | intro _ _ _
    | dsimp only

theorem execUpdVerify_ok {N : Nat} {s : State} (hk : s.chip.Ok N) (v : Word) (t : Nat) :
    ∃ u, execUpdVerify v t s = .next { s with chip := u } ∧ u.Ok N := by
  refine ⟨_, rfl, ?_⟩
  dsimp only
  repeat'
    first
    | with_reducible assumption | with_reducible apply Chip.at_ok | with_reducible apply Chip.updOp_ok
    | intro _ _ _ _ | intro _ _ _ | dsimp only

theorem execUpdGo_ok {N : Nat} {s : State} (hk : s.chip.Ok N) (v : Word) (t : Nat) :
    ∃ u, execUpdGo v t s = .next { s with chip := u } ∧ u.Ok N := by
  refine ⟨_, rfl, ?_⟩
  dsimp only
  repeat'
    first
    | with_reducible assumption | with_reducible apply Chip.at_ok | with_reducible apply Chip.updOp_ok
    | intro _ _ _ _ | intro _ _ _ | dsimp only

theorem execUpdCommit_ok {N : Nat} {s : State} (hk : s.chip.Ok N) (v : Word) (t : Nat) :
    ∃ u, execUpdCommit v t s = .next { s with chip := u } ∧ u.Ok N := by
  refine ⟨_, rfl, ?_⟩
  dsimp only
  repeat'
    first
    | with_reducible assumption | with_reducible apply Chip.at_ok | with_reducible apply Chip.updOp_ok
    | intro _ _ _ _ | intro _ _ _ | dsimp only

theorem execUpdAbort_ok {N : Nat} {s : State} (hk : s.chip.Ok N) (v : Word) (t : Nat) :
    ∃ u, execUpdAbort v t s = .next { s with chip := u } ∧ u.Ok N := by
  refine ⟨_, rfl, ?_⟩
  dsimp only
  repeat'
    first
    | with_reducible assumption | with_reducible apply Chip.at_ok | with_reducible apply Chip.updOp_ok
    | intro _ _ _ _ | intro _ _ _ | dsimp only

theorem execServiceOkRise_ok {N : Nat} {s : State} (hk : s.chip.Ok N) :
    ∃ u, execServiceOkRise s = .next { s with chip := u } ∧ u.Ok N := by
  refine ⟨_, rfl, ?_⟩
  dsimp only
  repeat'
    first
    | with_reducible assumption | with_reducible apply Chip.faultCapture_ok | with_reducible apply Chip.ite_ok
    | intro _ _ _ _ | intro _ _ _ | dsimp only

theorem execFaultLogPop_ok {N : Nat} {s : State} (hk : s.chip.Ok N) (p : Fin 2) :
    ∃ u, execFaultLogPop p s = .next { s with chip := u } ∧ u.Ok N := by
  refine ⟨_, rfl, ?_⟩
  dsimp only
  repeat'
    first
    | with_reducible assumption | with_reducible apply Chip.unsupported_ok
    | with_reducible apply Chip.readLogPop_ok | with_reducible apply Chip.observe_ok
    | with_reducible apply Chip.ite_ok | intro _ _ _ _ | intro _ _ _ | dsimp only

theorem execLockDeclared_ok {N : Nat} {s : State} (hk : s.chip.Ok N) (m : CoreCycles) :
    ∃ u, execLockDeclared m s = .next { s with chip := u } ∧ u.Ok N := by
  refine ⟨_, rfl, ?_⟩
  dsimp only
  repeat'
    first
    | with_reducible assumption | with_reducible apply Chip.coreUpTo_ok | with_reducible apply Chip.ite_ok
    | intro _ _ _ _ | intro _ _ _ | dsimp only

theorem execLossOfLock_ok {N : Nat} {s : State} (hk : s.chip.Ok N) (m : CoreCycles) :
    ∃ u, execLossOfLock m s = .next { s with chip := u } ∧ u.Ok N := by
  refine ⟨_, rfl, ?_⟩
  dsimp only
  repeat'
    first
    | with_reducible assumption | with_reducible apply Chip.coreUpTo_ok | with_reducible apply Chip.ite_ok
    | intro _ _ _ _ | intro _ _ _ | dsimp only

theorem execLossOfReference_ok {N : Nat} {s : State} (hk : s.chip.Ok N) (d : Fin 8) (tdc : List TdcReading) (off : Int) :
    ∃ u, execLossOfReference d tdc off s = .next { s with chip := u } ∧ u.Ok N := by
  refine ⟨_, rfl, ?_⟩
  dsimp only
  repeat'
    first
    | with_reducible assumption | with_reducible apply Chip.coreUpTo_ok | with_reducible apply Chip.refLost_ok
    | with_reducible apply Chip.ite_ok | intro _ _ _ _ | intro _ _ _ | dsimp only

theorem execBandHop_ok {N : Nat} {s : State} (hk : s.chip.Ok N) (d : Fin 8) (fine : Nat) :
    ∃ u, execBandHop d fine s = .next { s with chip := u } ∧ u.Ok N := by
  refine ⟨_, rfl, ?_⟩
  dsimp only
  repeat'
    first
    | with_reducible assumption | with_reducible apply Chip.bandHop_ok | with_reducible apply Chip.ite_ok
    | intro _ _ _ _ | intro _ _ _ | dsimp only | with_reducible refine Chip.fst_ok (by assumption) ?_

theorem execVolLoadBoundary_ok {N : Nat} {s : State} (hk : s.chip.Ok N) (q : Fin 64) :
    ∃ u, execVolLoadBoundary q s = .next { s with chip := u } ∧ u.Ok N := by
  refine ⟨_, rfl, ?_⟩
  dsimp only
  repeat'
    first
    | with_reducible assumption | with_reducible apply Chip.openFive_ok | with_reducible apply Chip.volLoad_ok
    | with_reducible apply Chip.ite_ok | intro _ _ _ _ | intro _ _ _ | dsimp only

theorem execSchedOccurrence_ok {N : Nat} {s : State} (hk : s.chip.Ok N) (armed : BitVec 8) (t : Nat) :
    ∃ u, execSchedOccurrence armed t s = .next { s with chip := u } ∧ u.Ok N := by
  refine ⟨_, rfl, ?_⟩
  dsimp only
  repeat'
    first
    | with_reducible assumption | with_reducible apply Chip.at_ok | with_reducible apply Chip.schedArm_ok
    | with_reducible apply Chip.openFive_ok | with_reducible apply Chip.schedLoad_ok
    | with_reducible apply Chip.showSched_ok | with_reducible apply Chip.ite_ok | intro _ _ _ _ | intro _ _ _
    | dsimp only

theorem execSchedCatchup_ok {N : Nat} {s : State} (hk : s.chip.Ok N) :
    ∃ u, execSchedCatchup s = .next { s with chip := u } ∧ u.Ok N := by
  refine ⟨_, rfl, ?_⟩
  dsimp only
  repeat'
    first
    | with_reducible assumption | with_reducible apply Chip.openFive_ok | with_reducible apply Chip.schedCatchup_ok
    | with_reducible apply Chip.ite_ok | intro _ _ _ _ | intro _ _ _ | dsimp only

theorem execTickBoundary_ok {N : Nat} {s : State} (hk : s.chip.Ok N) (env : List DieTick) :
    ∃ u, execTickBoundary env s = .next { s with chip := u } ∧ u.Ok N := by
  refine ⟨_, rfl, ?_⟩
  dsimp only
  repeat'
    first
    | with_reducible assumption | with_reducible apply Chip.nextTick_ok | intro _ _ _ _ | intro _ _ _ | dsimp only

theorem execFirstStep_ok {N : Nat} {s : State} (hk : s.chip.Ok N) (env : List DieTick) :
    ∃ u, execFirstStep env s = .next { s with chip := u } ∧ u.Ok N := by
  refine ⟨_, rfl, ?_⟩
  dsimp only
  repeat'
    first
    | with_reducible assumption | with_reducible apply Chip.stepTime_ok | intro _ _ _ _ | intro _ _ _ | dsimp only

theorem execTickOverrun_ok {N : Nat} {s : State} (hk : s.chip.Ok N) (d : Fin 8) (k : Nat) (begun : BitVec 16) :
    ∃ u, execTickOverrun d k begun s = .next { s with chip := u } ∧ u.Ok N := by
  refine ⟨_, rfl, ?_⟩
  dsimp only
  repeat'
    first
    | with_reducible assumption | with_reducible apply Chip.overrun_ok | with_reducible apply Chip.ite_ok
    | intro _ _ _ _ | intro _ _ _ | dsimp only

theorem execLinkLoss_ok {N : Nat} {s : State} (hk : s.chip.Ok N) (d : Fin 8) (p : Fin 16) :
    ∃ u, execLinkLoss d p s = .next { s with chip := u } ∧ u.Ok N := by
  refine ⟨_, rfl, ?_⟩
  dsimp only
  repeat'
    first
    | with_reducible assumption | with_reducible apply Chip.linkLoss_ok | with_reducible apply Chip.ite_ok
    | intro _ _ _ _ | intro _ _ _ | dsimp only

theorem execElinkRetrain_ok {N : Nat} {s : State} (hk : s.chip.Ok N) (d : Fin 8) (p : Fin 16) :
    ∃ u, execElinkRetrain d p s = .next { s with chip := u } ∧ u.Ok N := by
  refine ⟨_, rfl, ?_⟩
  dsimp only
  repeat'
    first
    | with_reducible assumption | with_reducible apply Chip.retrain_ok | with_reducible apply Chip.ite_ok
    | intro _ _ _ _ | intro _ _ _ | dsimp only

theorem execEfeWinPop_ok {N : Nat} {s : State} (hk : s.chip.Ok N) (p : Fin 2) (d : Fin 8) :
    ∃ u, execEfeWinPop p d s = .next { s with chip := u } ∧ u.Ok N := by
  refine ⟨_, rfl, ?_⟩
  dsimp only
  repeat'
    first
    | with_reducible assumption | with_reducible apply Chip.unsupported_ok
    | with_reducible apply Chip.readWinPop_ok | with_reducible apply Chip.observe_ok
    | with_reducible apply Chip.ite_ok | intro _ _ _ _ | intro _ _ _ | dsimp only

theorem execDiePeakClr_ok {N : Nat} {s : State} (hk : s.chip.Ok N) (d : Fin 8) (v : Word) :
    ∃ u, execDiePeakClr d v s = .next { s with chip := u } ∧ u.Ok N := by
  refine ⟨_, rfl, ?_⟩
  dsimp only
  repeat'
    first
    | with_reducible assumption | with_reducible apply Chip.peakClr_ok | with_reducible apply Chip.ite_ok
    | intro _ _ _ _ | intro _ _ _ | dsimp only

theorem execSidelinedDieAccess_ok {N : Nat} {s : State} (hk : s.chip.Ok N) (p : Fin 2) (d : Fin 8) (read : Bool) :
    ∃ u, execSidelinedDieAccess p d read s = .next { s with chip := u } ∧ u.Ok N := by
  refine ⟨_, rfl, ?_⟩
  dsimp only
  repeat'
    first
    | with_reducible assumption | with_reducible apply Chip.sidelineAcc_ok | with_reducible apply Chip.complete_ok
    | with_reducible apply Chip.ite_ok | intro _ _ _ _ | intro _ _ _ | dsimp only

theorem execTimeNowRead_ok {N : Nat} {s : State} (hk : s.chip.Ok N) (p : Fin 2) (t : Nat) :
    ∃ u, execTimeNowRead p t s = .next { s with chip := u } ∧ u.Ok N := by
  refine ⟨_, rfl, ?_⟩
  dsimp only
  repeat'
    first
    | with_reducible assumption | with_reducible apply Chip.unsupported_ok | with_reducible apply Chip.at_ok
    | with_reducible apply Chip.timeNow_ok | with_reducible apply Chip.observe_ok
    | with_reducible apply Chip.ite_ok | intro _ _ _ _ | intro _ _ _ | dsimp only

theorem execPcieMemRead_ok {N : Nat} {s : State} (hk : s.chip.Ok N) (p : Fin 2) (lib : Bool) (a : BitVec 28) (n : Fin 1024) (fbe lbe : BitVec 4) (bad : Fin 3) (perr : Bool) (t : Nat) :
    ∃ u, execPcieMemRead p lib a n fbe lbe bad perr t s = .next { s with chip := u } ∧ u.Ok N := by
  refine ⟨_, rfl, ?_⟩
  dsimp only
  repeat'
    first
    | with_reducible assumption | with_reducible apply Chip.at_ok | with_reducible apply Chip.memRead_ok
    | with_reducible apply Chip.ite_ok | intro _ _ _ _ | intro _ _ _ | split | dsimp only
  exact Chip.tlpLost_ok (Chip.at_ok hk _) (by assumption)

theorem execPcieMemWrite_ok {N : Nat} {s : State} (hk : s.chip.Ok N) (p : Fin 2) (lib : Bool) (a : BitVec 28) (vs : List Word) (fbe lbe : BitVec 4) (bad : Fin 3) (perr : Nat) (t cyc : Nat) :
    ∃ u, execPcieMemWrite p lib a vs fbe lbe bad perr t cyc s = .next { s with chip := u } ∧ u.Ok N := by
  refine ⟨_, rfl, ?_⟩
  dsimp only
  repeat'
    first
    | with_reducible assumption | with_reducible apply Chip.at_ok | with_reducible apply Chip.memWrite_ok
    | with_reducible apply Chip.ite_ok | intro _ _ _ _ | intro _ _ _ | split | dsimp only
  exact Chip.tlpLost_ok (Chip.at_ok hk _) (by assumption)

theorem execRegisterWrite_ok {N : Nat} {s : State} (hk : s.chip.Ok N) (p : Fin 2) (a : BitVec 26) (v : Word) (t cyc : Nat) :
    ∃ u, execRegisterWrite p a v t cyc s = .next { s with chip := u } ∧ u.Ok N := by
  refine ⟨_, rfl, ?_⟩
  dsimp only
  repeat'
    first
    | with_reducible assumption | with_reducible apply Chip.at_ok | with_reducible apply Chip.writeOne_ok
    | with_reducible apply Chip.ite_ok | intro _ _ _ _ | intro _ _ _ | dsimp only

theorem execPairLowWrite_ok {N : Nat} {s : State} (hk : s.chip.Ok N) (p : Fin 2) (a : BitVec 26) (v : Word) (t cyc : Nat) :
    ∃ u, execPairLowWrite p a v t cyc s = .next { s with chip := u } ∧ u.Ok N := by
  refine ⟨_, rfl, ?_⟩
  dsimp only
  repeat'
    first
    | with_reducible assumption | with_reducible apply Chip.at_ok | with_reducible apply Chip.writePart_ok
    | with_reducible apply Chip.ite_ok | intro _ _ _ _ | intro _ _ _ | dsimp only

theorem execPairHighWrite_ok {N : Nat} {s : State} (hk : s.chip.Ok N) (p : Fin 2) (a : BitVec 26) (v : Word) (t cyc : Nat) :
    ∃ u, execPairHighWrite p a v t cyc s = .next { s with chip := u } ∧ u.Ok N := by
  refine ⟨_, rfl, ?_⟩
  dsimp only
  repeat'
    first
    | with_reducible assumption | with_reducible apply Chip.at_ok | with_reducible apply Chip.writePart_ok
    | with_reducible apply Chip.ite_ok | intro _ _ _ _ | intro _ _ _ | dsimp only

theorem execPairLowRead_ok {N : Nat} {s : State} (hk : s.chip.Ok N) (p : Fin 2) (a : BitVec 26) (t : Nat) :
    ∃ u, execPairLowRead p a t s = .next { s with chip := u } ∧ u.Ok N := by
  refine ⟨_, rfl, ?_⟩
  dsimp only
  repeat'
    first
    | with_reducible assumption | with_reducible apply Chip.at_ok | with_reducible apply Chip.readPart_ok
    | with_reducible apply Chip.ite_ok | intro _ _ _ _ | intro _ _ _ | dsimp only

theorem execPairHighRead_ok {N : Nat} {s : State} (hk : s.chip.Ok N) (p : Fin 2) (a : BitVec 26) (t : Nat) :
    ∃ u, execPairHighRead p a t s = .next { s with chip := u } ∧ u.Ok N := by
  refine ⟨_, rfl, ?_⟩
  dsimp only
  repeat'
    first
    | with_reducible assumption | with_reducible apply Chip.at_ok | with_reducible apply Chip.readPart_ok
    | with_reducible apply Chip.ite_ok | intro _ _ _ _ | intro _ _ _ | dsimp only

theorem execHeldWrite_ok {N : Nat} {s : State} (hk : s.chip.Ok N) (p : Fin 2) (lib : Bool) (a : BitVec 28) (v : Word) (be : BitVec 4) (t cyc : Nat) :
    ∃ u, execHeldWrite p lib a v be t cyc s = .next { s with chip := u } ∧ u.Ok N := by
  refine ⟨_, rfl, ?_⟩
  dsimp only
  repeat'
    first
    | with_reducible assumption | with_reducible apply Chip.at_ok | with_reducible apply Chip.memWrite_ok
    | with_reducible apply Chip.ite_ok | intro _ _ _ _ | intro _ _ _ | dsimp only

theorem execHeldGroupCommit_ok {N : Nat} {s : State} (hk : s.chip.Ok N) (p : Fin 2) (v : Word) (t cyc : Nat) :
    ∃ u, execHeldGroupCommit p v t cyc s = .next { s with chip := u } ∧ u.Ok N := by
  refine ⟨_, rfl, ?_⟩
  dsimp only
  repeat'
    first
    | with_reducible assumption | with_reducible apply Chip.at_ok | with_reducible apply Chip.writeOne_ok
    | with_reducible apply Chip.ite_ok | intro _ _ _ _ | intro _ _ _ | dsimp only

theorem execHeldGroupDiscard_ok {N : Nat} {s : State} (hk : s.chip.Ok N) (p : Fin 2) (v : Word) (t cyc : Nat) :
    ∃ u, execHeldGroupDiscard p v t cyc s = .next { s with chip := u } ∧ u.Ok N := by
  refine ⟨_, rfl, ?_⟩
  dsimp only
  repeat'
    first
    | with_reducible assumption | with_reducible apply Chip.at_ok | with_reducible apply Chip.writeOne_ok
    | with_reducible apply Chip.ite_ok | intro _ _ _ _ | intro _ _ _ | dsimp only

theorem execHostGroupOpen_ok {N : Nat} {s : State} (hk : s.chip.Ok N) (p : Fin 2) (v : Word) (t cyc : Nat) :
    ∃ u, execHostGroupOpen p v t cyc s = .next { s with chip := u } ∧ u.Ok N := by
  refine ⟨_, rfl, ?_⟩
  dsimp only
  repeat'
    first
    | with_reducible assumption | with_reducible apply Chip.at_ok | with_reducible apply Chip.groupOp_ok
    | with_reducible apply Chip.ite_ok | intro _ _ _ _ | intro _ _ _ | dsimp only

theorem execHostGroupCommit_ok {N : Nat} {s : State} (hk : s.chip.Ok N) (p : Fin 2) (v : Word) (t cyc : Nat) :
    ∃ u, execHostGroupCommit p v t cyc s = .next { s with chip := u } ∧ u.Ok N := by
  refine ⟨_, rfl, ?_⟩
  dsimp only
  repeat'
    first
    | with_reducible assumption | with_reducible apply Chip.at_ok | with_reducible apply Chip.groupOp_ok
    | with_reducible apply Chip.ite_ok | intro _ _ _ _ | intro _ _ _ | dsimp only

theorem execHostGroupDiscard_ok {N : Nat} {s : State} (hk : s.chip.Ok N) (p : Fin 2) (v : Word) (t cyc : Nat) :
    ∃ u, execHostGroupDiscard p v t cyc s = .next { s with chip := u } ∧ u.Ok N := by
  refine ⟨_, rfl, ?_⟩
  dsimp only
  repeat'
    first
    | with_reducible assumption | with_reducible apply Chip.at_ok | with_reducible apply Chip.groupOp_ok
    | with_reducible apply Chip.ite_ok | intro _ _ _ _ | intro _ _ _ | dsimp only

theorem execVolStagingWrite_ok {N : Nat} {s : State} (hk : s.chip.Ok N) (p : Fin 2) (a : BitVec 26) (v : Word) :
    ∃ u, execVolStagingWrite p a v s = .next { s with chip := u } ∧ u.Ok N := by
  refine ⟨_, rfl, ?_⟩
  dsimp only
  repeat'
    first
    | with_reducible assumption | with_reducible apply Chip.volWrite_ok | with_reducible apply Chip.volEffect_ok
    | with_reducible apply Chip.ite_ok | intro _ _ _ _ | intro _ _ _ | dsimp only

theorem execSmbStatusByte_ok {N : Nat} {s : State} (hk : s.chip.Ok N) (addr : BitVec 7) :
    ∃ u, execSmbStatusByte addr s = .next { s with chip := u } ∧ u.Ok N := by
  refine ⟨_, rfl, ?_⟩
  dsimp only
  repeat'
    first
    | with_reducible assumption | with_reducible apply Chip.smbRead_ok | intro _ _ _ _ | intro _ _ _ | dsimp only

theorem execSmbInService_ok {N : Nat} {s : State} (hk : s.chip.Ok N) (addr : BitVec 7) :
    ∃ u, execSmbInService addr s = .next { s with chip := u } ∧ u.Ok N := by
  refine ⟨_, rfl, ?_⟩
  dsimp only
  repeat'
    first
    | with_reducible assumption | with_reducible apply Chip.smbRead_ok | intro _ _ _ _ | intro _ _ _ | dsimp only

theorem execSmbSidelined_ok {N : Nat} {s : State} (hk : s.chip.Ok N) (addr : BitVec 7) :
    ∃ u, execSmbSidelined addr s = .next { s with chip := u } ∧ u.Ok N := by
  refine ⟨_, rfl, ?_⟩
  dsimp only
  repeat'
    first
    | with_reducible assumption | with_reducible apply Chip.smbRead_ok | intro _ _ _ _ | intro _ _ _ | dsimp only

theorem execSmbLockDensity_ok {N : Nat} {s : State} (hk : s.chip.Ok N) (addr : BitVec 7) :
    ∃ u, execSmbLockDensity addr s = .next { s with chip := u } ∧ u.Ok N := by
  refine ⟨_, rfl, ?_⟩
  dsimp only
  repeat'
    first
    | with_reducible assumption | with_reducible apply Chip.smbRead_ok | intro _ _ _ _ | intro _ _ _ | dsimp only

theorem execSmbTemperature_ok {N : Nat} {s : State} (hk : s.chip.Ok N) (addr : BitVec 7) :
    ∃ u, execSmbTemperature addr s = .next { s with chip := u } ∧ u.Ok N := by
  refine ⟨_, rfl, ?_⟩
  dsimp only
  repeat'
    first
    | with_reducible assumption | with_reducible apply Chip.smbRead_ok | intro _ _ _ _ | intro _ _ _ | dsimp only

theorem execSmbHealthRecord_ok {N : Nat} {s : State} (hk : s.chip.Ok N) (addr : BitVec 7) :
    ∃ u, execSmbHealthRecord addr s = .next { s with chip := u } ∧ u.Ok N := by
  refine ⟨_, rfl, ?_⟩
  dsimp only
  repeat'
    first
    | with_reducible assumption | with_reducible apply Chip.smbRead_ok | intro _ _ _ _ | intro _ _ _ | dsimp only

theorem execSmbOtherCommand_ok {N : Nat} {s : State} (hk : s.chip.Ok N) (addr : BitVec 7) (code : BitVec 8) :
    ∃ u, execSmbOtherCommand addr code s = .next { s with chip := u } ∧ u.Ok N := by
  refine ⟨_, rfl, ?_⟩
  dsimp only
  repeat'
    first
    | with_reducible assumption | with_reducible apply Chip.smbRead_ok | with_reducible apply Chip.ite_ok
    | intro _ _ _ _ | intro _ _ _ | dsimp only

/-- Every command answers a next state of a package in good order, with the queue as it was. -/
theorem exec_ok {N : Nat} {s : State} (hk : s.chip.Ok N) (i : Instr) :
    ∃ u, exec i s = .next { s with chip := u } ∧ u.Ok N := by
  cases i with
  | pairLowWrite => exact execPairLowWrite_ok hk ..
  | pairHighWrite => exact execPairHighWrite_ok hk ..
  | pairLowRead => exact execPairLowRead_ok hk ..
  | pairHighRead => exact execPairHighRead_ok hk ..
  | registerWrite => exact execRegisterWrite_ok hk ..
  | sidelinedDieAccess => exact execSidelinedDieAccess_ok hk ..
  | diePeakClr => exact execDiePeakClr_ok hk ..
  | railBelowReset => exact execRailBelowReset_ok hk ..
  | resetNAssert => exact execResetNAssert_ok hk ..
  | resetNRelease => exact execResetNRelease_ok hk ..
  | supplyWarning => exact execSupplyWarning_ok hk ..
  | negotiationStart => exact execNegotiationStart_ok hk ..
  | rollMessage => exact execRollMessage_ok hk ..
  | negotiationEnd => exact execNegotiationEnd_ok hk ..
  | fuseLevelling => exact execFuseLevelling_ok hk ..
  | auditChainCheck => exact execAuditChainCheck_ok hk ..
  | flashDiscovery => exact execFlashDiscovery_ok hk ..
  | imageBlock => exact execImageBlock_ok hk ..
  | imageContentCheck => exact execImageContentCheck_ok hk ..
  | enterService => exact execEnterService_ok hk ..
  | retainedRestore => exact execRetainedRestore_ok hk ..
  | startStateChange => exact execStartStateChange_ok hk ..
  | serviceOkRise => exact execServiceOkRise_ok hk ..
  | imgRestart => exact execImgRestart_ok hk ..
  | tickBoundary => exact execTickBoundary_ok hk ..
  | tickOverrun => exact execTickOverrun_ok hk ..
  | commitGo => exact execCommitGo_ok hk ..
  | freezeFlit => exact execFreezeFlit_ok hk ..
  | freezeAck => exact execFreezeAck_ok hk ..
  | commitConfirm => exact execCommitConfirm_ok hk ..
  | freezeConfirmTimeout => exact execFreezeConfirmTimeout_ok hk ..
  | commitLoad => exact execCommitLoad_ok hk ..
  | commitSegmentLoad => exact execCommitSegmentLoad_ok hk ..
  | refQualWindow => exact execRefQualWindow_ok hk ..
  | revertTimer => exact execRevertTimer_ok hk ..
  | lossOfReference => exact execLossOfReference_ok hk ..
  | lockDeclared => exact execLockDeclared_ok hk ..
  | lossOfLock => exact execLossOfLock_ok hk ..
  | holdoverWindow => exact execHoldoverWindow_ok hk ..
  | holdoverClockTimeout => exact execHoldoverClockTimeout_ok hk ..
  | relockTimeout => exact execRelockTimeout_ok hk ..
  | bandHop => exact execBandHop_ok hk ..
  | realignEnd => exact execRealignEnd_ok hk ..
  | surveyStart => exact execSurveyStart_ok hk ..
  | surveyDone => exact execSurveyDone_ok hk ..
  | pstepRequest => exact execPstepRequest_ok hk ..
  | pstepBegin => exact execPstepBegin_ok hk ..
  | rampStart => exact execRampStart_ok hk ..
  | rampBegin => exact execRampBegin_ok hk ..
  | rampSegmentEnd => exact execRampSegmentEnd_ok hk ..
  | rampAbort => exact execRampAbort_ok hk ..
  | rampDisable => exact execRampDisable_ok hk ..
  | rampFold => exact execRampFold_ok hk ..
  | rampClamp => exact execRampClamp_ok hk ..
  | xoDetectWindow => exact execXoDetectWindow_ok hk ..
  | xoJudgeWindow => exact execXoJudgeWindow_ok hk ..
  | xoJudgeTimeout => exact execXoJudgeTimeout_ok hk ..
  | xoFailure => exact execXoFailure_ok hk ..
  | ioscFailure => exact execIoscFailure_ok hk ..
  | bpllUnlock => exact execBpllUnlock_ok hk ..
  | bpllRelock => exact execBpllRelock_ok hk ..
  | clkoutSelect => exact execClkoutSelect_ok hk ..
  | crossingFarReset => exact execCrossingFarReset_ok hk ..
  | crossingResync => exact execCrossingResync_ok hk ..
  | tempStale => exact execTempStale_ok hk ..
  | loopWindowEnd => exact execLoopWindowEnd_ok hk ..
  | loopClear => exact execLoopClear_ok hk ..
  | kickEnd => exact execKickEnd_ok hk ..
  | loopRecord => exact execLoopRecord_ok hk ..
  | libWrite => exact execLibWrite_ok hk ..
  | libWriteApply => exact execLibWriteApply_ok hk ..
  | libScrubPass => exact execLibScrubPass_ok hk ..
  | mirrorFetch => exact execMirrorFetch_ok hk ..
  | mirrorWrite => exact execMirrorWrite_ok hk ..
  | standbyRecord => exact execStandbyRecord_ok hk ..
  | volOpen => exact execVolOpen_ok hk ..
  | volStagingWrite => exact execVolStagingWrite_ok hk ..
  | volStage => exact execVolStage_ok hk ..
  | volTagVerified => exact execVolTagVerified_ok hk ..
  | volAbort => exact execVolAbort_ok hk ..
  | volRelease => exact execVolRelease_ok hk ..
  | volEntries => exact execVolEntries_ok hk ..
  | volArmedReport => exact execVolArmedReport_ok hk ..
  | volArmDeadline => exact execVolArmDeadline_ok hk ..
  | volGo => exact execVolGo_ok hk ..
  | volAbortMsg => exact execVolAbortMsg_ok hk ..
  | volGoAckTimeout => exact execVolGoAckTimeout_ok hk ..
  | volLoadBoundary => exact execVolLoadBoundary_ok hk ..
  | volReport => exact execVolReport_ok hk ..
  | volDeferredApply => exact execVolDeferredApply_ok hk ..
  | schedOccurrence => exact execSchedOccurrence_ok hk ..
  | schedCatchup => exact execSchedCatchup_ok hk ..
  | ptpAnnounce => exact execPtpAnnounce_ok hk ..
  | ptpSync => exact execPtpSync_ok hk ..
  | ptpFollowUp => exact execPtpFollowUp_ok hk ..
  | delayReqSend => exact execDelayReqSend_ok hk ..
  | ptpDelayResp => exact execPtpDelayResp_ok hk ..
  | ptpOtherMessage => exact execPtpOtherMessage_ok hk ..
  | syncTimeout => exact execSyncTimeout_ok hk ..
  | announceTimeout => exact execAnnounceTimeout_ok hk ..
  | timeWord => exact execTimeWord_ok hk ..
  | firstStep => exact execFirstStep_ok hk ..
  | timeRestep => exact execTimeRestep_ok hk ..
  | ethAttemptTimeout => exact execEthAttemptTimeout_ok hk ..
  | ethLinkUp => exact execEthLinkUp_ok hk ..
  | ethLinkDown => exact execEthLinkDown_ok hk ..
  | ethFrameDiscard => exact execEthFrameDiscard_ok hk ..
  | launchOpen => exact execLaunchOpen_ok hk ..
  | launchArm => exact execLaunchArm_ok hk ..
  | launchAbort => exact execLaunchAbort_ok hk ..
  | launchRelease => exact execLaunchRelease_ok hk ..
  | launchTime => exact execLaunchTime_ok hk ..
  | telemetryLaunch => exact execTelemetryLaunch_ok hk ..
  | timeNowRead => exact execTimeNowRead_ok hk ..
  | blockLock => exact execBlockLock_ok hk ..
  | capsFrame => exact execCapsFrame_ok hk ..
  | capsTimeout => exact execCapsTimeout_ok hk ..
  | trainFrame => exact execTrainFrame_ok hk ..
  | prbsCheckEnd => exact execPrbsCheckEnd_ok hk ..
  | resultFrame => exact execResultFrame_ok hk ..
  | trainTimeout => exact execTrainTimeout_ok hk ..
  | failedRetry => exact execFailedRetry_ok hk ..
  | elinkRetrain => exact execElinkRetrain_ok hk ..
  | uplinkFrame => exact execUplinkFrame_ok hk ..
  | uplinkDeadline => exact execUplinkDeadline_ok hk ..
  | linkLoss => exact execLinkLoss_ok hk ..
  | efeCmdNop => exact execEfeCmdNop_ok hk ..
  | efeCmdRead => exact execEfeCmdRead_ok hk ..
  | efeCmdWrite => exact execEfeCmdWrite_ok hk ..
  | efeCmdSpot => exact execEfeCmdSpot_ok hk ..
  | efeCmdEcho => exact execEfeCmdEcho_ok hk ..
  | efeCmdOther => exact execEfeCmdOther_ok hk ..
  | efeCmdRetry => exact execEfeCmdRetry_ok hk ..
  | spotHoldTimeout => exact execSpotHoldTimeout_ok hk ..
  | efeUnorderedPark => exact execEfeUnorderedPark_ok hk ..
  | efeWinPop => exact execEfeWinPop_ok hk ..
  | coverStart => exact execCoverStart_ok hk ..
  | coverReturn => exact execCoverReturn_ok hk ..
  | calRequest => exact execCalRequest_ok hk ..
  | calAbort => exact execCalAbort_ok hk ..
  | calLoadTdc => exact execCalLoadTdc_ok hk ..
  | calLoadEq => exact execCalLoadEq_ok hk ..
  | calTempTrigger => exact execCalTempTrigger_ok hk ..
  | calRetryTimer => exact execCalRetryTimer_ok hk ..
  | calRunStart => exact execCalRunStart_ok hk ..
  | calMeasurementDone => exact execCalMeasurementDone_ok hk ..
  | snapshotPeriod => exact execSnapshotPeriod_ok hk ..
  | snapNow => exact execSnapNow_ok hk ..
  | snapshotCapture => exact execSnapshotCapture_ok hk ..
  | snapshotWriteDone => exact execSnapshotWriteDone_ok hk ..
  | retForget => exact execRetForget_ok hk ..
  | flashRead => exact execFlashRead_ok hk ..
  | flashErase => exact execFlashErase_ok hk ..
  | flashProgram => exact execFlashProgram_ok hk ..
  | flashOpDone => exact execFlashOpDone_ok hk ..
  | sessionOpen => exact execSessionOpen_ok hk ..
  | sessionProve => exact execSessionProve_ok hk ..
  | sessionClose => exact execSessionClose_ok hk ..
  | challengeLapse => exact execChallengeLapse_ok hk ..
  | sessionIdleTimeout => exact execSessionIdleTimeout_ok hk ..
  | heldWrite => exact execHeldWrite_ok hk ..
  | heldGroupCommit => exact execHeldGroupCommit_ok hk ..
  | heldGroupDiscard => exact execHeldGroupDiscard_ok hk ..
  | lockoutEnd => exact execLockoutEnd_ok hk ..
  | ownerKeyProgram => exact execOwnerKeyProgram_ok hk ..
  | ownerKeyRevoke => exact execOwnerKeyRevoke_ok hk ..
  | lifecycleAdvance => exact execLifecycleAdvance_ok hk ..
  | rollbackCommit => exact execRollbackCommit_ok hk ..
  | dieDisableBurn => exact execDieDisableBurn_ok hk ..
  | hp1Disable => exact execHp1Disable_ok hk ..
  | debugLock => exact execDebugLock_ok hk ..
  | fuseBurnDone => exact execFuseBurnDone_ok hk ..
  | ptpKeyWrite => exact execPtpKeyWrite_ok hk ..
  | telKeyWrite => exact execTelKeyWrite_ok hk ..
  | attestGo => exact execAttestGo_ok hk ..
  | attestDone => exact execAttestDone_ok hk ..
  | logSelect => exact execLogSelect_ok hk ..
  | entropyHealthFail => exact execEntropyHealthFail_ok hk ..
  | debugInstruction => exact execDebugInstruction_ok hk ..
  | heartbeatMissed => exact execHeartbeatMissed_ok hk ..
  | dieSideline => exact execDieSideline_ok hk ..
  | coverOrder => exact execCoverOrder_ok hk ..
  | faultDieSideline => exact execFaultDieSideline_ok hk ..
  | faultDieReload => exact execFaultDieReload_ok hk ..
  | faultDieRejoin => exact execFaultDieRejoin_ok hk ..
  | rejoinStart => exact execRejoinStart_ok hk ..
  | rejoinReady => exact execRejoinReady_ok hk ..
  | rejoinFailed => exact execRejoinFailed_ok hk ..
  | plannedHandover => exact execPlannedHandover_ok hk ..
  | leaseRenewal => exact execLeaseRenewal_ok hk ..
  | leaseLapse => exact execLeaseLapse_ok hk ..
  | leaseHolderStop => exact execLeaseHolderStop_ok hk ..
  | flitCrcFail => exact execFlitCrcFail_ok hk ..
  | hopFailure => exact execHopFailure_ok hk ..
  | hopRetrain => exact execHopRetrain_ok hk ..
  | updVerify => exact execUpdVerify_ok hk ..
  | updVerifyDone => exact execUpdVerifyDone_ok hk ..
  | updGo => exact execUpdGo_ok hk ..
  | updCommit => exact execUpdCommit_ok hk ..
  | updAbort => exact execUpdAbort_ok hk ..
  | faultLogPop => exact execFaultLogPop_ok hk ..
  | pcieMemRead => exact execPcieMemRead_ok hk ..
  | pcieMemWrite => exact execPcieMemWrite_ok hk ..
  | pcieConfigRead => exact execPcieConfigRead_ok hk ..
  | pcieConfigWrite => exact execPcieConfigWrite_ok hk ..
  | pcieUnsupportedRequest => exact execPcieUnsupportedRequest_ok hk ..
  | perstAssert => exact execPerstAssert_ok hk ..
  | pcieLinkDown => exact execPcieLinkDown_ok hk ..
  | functionLevelReset => exact execFunctionLevelReset_ok hk ..
  | d3hotEntry => exact execD3hotEntry_ok hk ..
  | d0Return => exact execD0Return_ok hk ..
  | hostGroupOpen => exact execHostGroupOpen_ok hk ..
  | hostGroupCommit => exact execHostGroupCommit_ok hk ..
  | hostGroupDiscard => exact execHostGroupDiscard_ok hk ..
  | msixMessage => exact execMsixMessage_ok hk ..
  | msixPendingRelease => exact execMsixPendingRelease_ok hk ..
  | smbStatusByte => exact execSmbStatusByte_ok hk ..
  | smbInService => exact execSmbInService_ok hk ..
  | smbSidelined => exact execSmbSidelined_ok hk ..
  | smbLockDensity => exact execSmbLockDensity_ok hk ..
  | smbTemperature => exact execSmbTemperature_ok hk ..
  | smbHealthRecord => exact execSmbHealthRecord_ok hk ..
  | smbOtherCommand => exact execSmbOtherCommand_ok hk ..
  | hostLinkUp => exact execHostLinkUp_ok hk ..
  | railAboveReset => exact execRailAboveReset_ok hk ..
  | ppsOut => exact execPpsOut_ok hk ..
  | phaseStepDone => exact execPhaseStepDone_ok hk ..
  | startPortTimeout => exact execStartPortTimeout_ok hk ..
  | skewWaitTimeout => exact execSkewWaitTimeout_ok hk ..
  | flrComplete => exact execFlrComplete_ok hk ..

end Sys2Proof.Machine
end

