-- ==== Sys2Proof/Laws/Regs.lean ====
section
/-!
SUPPORT. Laws/Regs.lean: registers and fields: what a read gives after a write to the same place, and that a write
leaves every other place alone.
-/

namespace Sys2Proof.Machine

/-! ### Runs of bits -/

theorem bitsOf_lt (x lo w : Nat) : bitsOf x lo w < 2 ^ w := Nat.mod_lt _ (Nat.two_pow_pos w)

theorem testBit_bitsOf (x lo w i : Nat) : (bitsOf x lo w).testBit i = (decide (i < w) && x.testBit (lo + i)) := by
  rw [bitsOf, Nat.testBit_mod_two_pow, Nat.testBit_div_two_pow, Nat.add_comm]

theorem testBit_putBits (x lo w v i : Nat) :
    (putBits x lo w v).testBit i = if lo ≤ i ∧ i < lo + w then v.testBit (i - lo) else x.testBit i := by
  rw [putBits, Nat.add_comm, Nat.testBit_two_pow_mul_add _ (Nat.mod_lt _ (Nat.two_pow_pos lo))]
  by_cases h : i < lo
  · rw [if_pos h, if_neg (by omega), Nat.testBit_mod_two_pow]
    simp [h]
  · rw [if_neg h, Nat.add_comm, Nat.testBit_two_pow_mul_add _ (Nat.mod_lt _ (Nat.two_pow_pos w))]
    by_cases h2 : i - lo < w
    · rw [if_pos h2, if_pos (by omega), Nat.testBit_mod_two_pow]
      simp [h2]
    · rw [if_neg h2, if_neg (by omega), Nat.testBit_div_two_pow]
      congr 1
      omega

/-- The bits just put in. -/
theorem bitsOf_putBits_same (x lo w v : Nat) : bitsOf (putBits x lo w v) lo w = v % 2 ^ w := by
  refine Nat.eq_of_testBit_eq fun i => ?_
  rw [testBit_bitsOf, testBit_putBits, Nat.testBit_mod_two_pow]
  by_cases h : i < w
  · rw [if_pos (by omega)]
    simp [h]
  · simp [h]

/-- Bits outside the run that was put in. -/
theorem bitsOf_putBits_ne (x : Nat) {lo w l' w' : Nat} (v : Nat) (h : l' + w' ≤ lo ∨ lo + w ≤ l') :
    bitsOf (putBits x lo w v) l' w' = bitsOf x l' w' := by
  refine Nat.eq_of_testBit_eq fun i => ?_
  rw [testBit_bitsOf, testBit_bitsOf, testBit_putBits]
  by_cases hi : i < w'
  · rw [if_neg (by omega)]
  · simp [hi]

/-- Bits inside the low `k`. -/
theorem bitsOf_mod (x : Nat) {k l w : Nat} (h : l + w ≤ k) : bitsOf (x % 2 ^ k) l w = bitsOf x l w := by
  refine Nat.eq_of_testBit_eq fun i => ?_
  rw [testBit_bitsOf, testBit_bitsOf, Nat.testBit_mod_two_pow]
  by_cases hi : i < w
  · have : l + i < k := by omega
    simp [hi, this]
  · simp [hi]

/-- The two words of a pair, put together again. -/
theorem pair_split {x : Nat} : x % 2 ^ 32 + 2 ^ 32 * (x / 2 ^ 32 % 2 ^ 32) = x % 2 ^ 64 := by omega

theorem signedOf_unsignedOf {w : Nat} {v : Int} (h : -(2 ^ w : Nat) ≤ 2 * v) (h' : 2 * v < (2 ^ w : Nat)) :
    signedOf w (unsignedOf w v) = v := by
  unfold signedOf unsignedOf
  generalize 2 ^ w = m at *
  by_cases hv : 0 ≤ v
  · have e : v % (m : Int) = v := Int.emod_eq_of_lt hv (by omega)
    rw [e]
    have e2 : v.toNat % m = v.toNat := Nat.mod_eq_of_lt (by omega)
    rw [e2, if_pos (by omega)]
    omega
  · have e : v % (m : Int) = v + m := by
      rw [← Int.add_emod_right]
      exact Int.emod_eq_of_lt (by omega) (by omega)
    rw [e]
    have e2 : (v + m).toNat % m = (v + m).toNat := Nat.mod_eq_of_lt (by omega)
    rw [e2, if_neg (by omega)]
    omega

/-! ### Registers -/

section
variable (s : Chip)

@[simp] theorem Chip.reg_setReg_same (a : Nat) (v : Word) : (s.setReg a v).reg a = v := tabGet_put_same _ _ _

theorem Chip.reg_setReg_ne {a b : Nat} (v : Word) (h : b ≠ a) : (s.setReg a v).reg b = s.reg b :=
  tabGet_put_ne _ _ h

theorem Chip.set_one (f : Fld) (v : Nat) (h : f.lo + f.w ≤ 32) :
    s.set f v = s.setReg f.addr (BitVec.ofNat 32 (putBits (s.reg f.addr).toNat f.lo f.w v)) := by
  simp [Chip.set, Chip.wide, h]

/-- A field write leaves every other register alone. -/
theorem Chip.reg_set_ne {f : Fld} {b : Nat} (v : Nat) (h : b ≠ f.addr) (h' : f.lo + f.w ≤ 32 ∨ b ≠ f.addr + 4) :
    (s.set f v).reg b = s.reg b := by
  unfold Chip.set
  dsimp only
  split
  · rw [Chip.reg_setReg_ne _ _ h]
  · next hw =>
    rw [Chip.reg_setReg_ne _ _ (h'.resolve_left hw), Chip.reg_setReg_ne _ _ h]

/-- The word or the pair of words that a write of `f` leaves. -/
theorem Chip.wide_set (f : Fld) (v : Nat) : (s.set f v).wide f =
    if f.lo + f.w ≤ 32 then putBits (s.wide f) f.lo f.w v % 2 ^ 32 else putBits (s.wide f) f.lo f.w v % 2 ^ 64 := by
  by_cases h : f.lo + f.w ≤ 32
  · simp [Chip.set, Chip.wide, h]
  · have hne : f.addr ≠ f.addr + 4 := by omega
    simp only [Chip.set, Chip.wide, if_neg h, Chip.reg_setReg_same, Chip.reg_setReg_ne _ _ hne, BitVec.toNat_ofNat]
    exact pair_split

/-- A field read after a write to it gives the value written. -/
theorem Chip.get_set_same (f : Fld) (v : Nat) (h : f.lo + f.w ≤ 64) : (s.set f v).get f = v % 2 ^ f.w := by
  unfold Chip.get
  rw [Chip.wide_set]
  split
  · next h' => rw [bitsOf_mod _ h', bitsOf_putBits_same]
  · rw [bitsOf_mod _ h, bitsOf_putBits_same]

/-- Two fields with no word in common, or in one register or pair with no bit in common. -/
def Fld.Apart (f g : Fld) : Prop :=
  (f.addr ≠ g.addr ∧ (f.lo + f.w ≤ 32 ∨ f.addr + 4 ≠ g.addr) ∧ (g.lo + g.w ≤ 32 ∨ g.addr + 4 ≠ f.addr)) ∨
    (f.addr = g.addr ∧ g.lo + g.w ≤ 64 ∧ (g.lo + g.w ≤ f.lo ∨ f.lo + f.w ≤ g.lo))

/-- A field write leaves every field apart from it alone. -/
theorem Chip.get_set_ne {f g : Fld} (v : Nat) (h : f.Apart g) : (s.set f v).get g = s.get g := by
  rcases h with ⟨h1, h2, h3⟩ | ⟨h1, h2, h3⟩
  · have e1 : (s.set f v).reg g.addr = s.reg g.addr :=
      Chip.reg_set_ne _ _ (Ne.symm h1) (h2.imp id Ne.symm)
    unfold Chip.get Chip.wide
    rw [e1]
    split
    · rfl
    · next hg =>
      have e2 : (s.set f v).reg (g.addr + 4) = s.reg (g.addr + 4) :=
        Chip.reg_set_ne _ _ (h3.resolve_left hg) (.inr (by omega))
      rw [e2]
  · obtain ⟨a, l, w⟩ := f
    obtain ⟨b, l', w'⟩ := g
    simp only at h1 h2 h3
    subst h1
    unfold Chip.get
    simp only
    by_cases hf : l + w ≤ 32 <;> by_cases hg : l' + w' ≤ 32
    · have := Chip.wide_set s ⟨a, l, w⟩ v
      simp only [Chip.wide, hf, hg, if_true] at this ⊢
      rw [this, bitsOf_mod _ hg, bitsOf_putBits_ne _ _ h3]
    · have e : (s.set ⟨a, l, w⟩ v).reg (a + 4) = s.reg (a + 4) := Chip.reg_set_ne _ _ (by simp) (.inl hf)
      have := Chip.wide_set s ⟨a, l, w⟩ v
      simp only [Chip.wide, hf, hg, if_true, if_false, e] at this ⊢
      rw [this]
      refine Nat.eq_of_testBit_eq fun i => ?_
      rw [testBit_bitsOf, testBit_bitsOf, Nat.add_comm (_ % _), Nat.add_comm (BitVec.toNat _),
        Nat.testBit_two_pow_mul_add _ (Nat.mod_lt _ (by decide)), Nat.testBit_two_pow_mul_add _ (BitVec.isLt _),
        Nat.testBit_mod_two_pow, testBit_putBits]
      by_cases hi : i < w'
      · by_cases h32 : l' + i < 32
        · rw [if_pos h32, if_pos h32, if_neg (by omega)]
          simp [h32]
        · rw [if_neg h32, if_neg h32]
      · simp [hi]
    · have := Chip.wide_set s ⟨a, l, w⟩ v
      have hm : ∀ x y : Nat, bitsOf (x % 2 ^ 32 + 2 ^ 32 * y) l' w' = bitsOf (x % 2 ^ 32) l' w' := fun x y => by
        rw [← bitsOf_mod (x % 2 ^ 32 + 2 ^ 32 * y) hg, Nat.add_mul_mod_self_left, Nat.mod_mod]
      have hb : ∀ b : Word, b.toNat % 2 ^ 32 = b.toNat := fun b => Nat.mod_eq_of_lt b.isLt
      simp only [Chip.wide, hf, hg, if_true, if_false] at this ⊢
      rw [← hb ((s.set ⟨a, l, w⟩ v).reg a), ← hm _ ((s.set ⟨a, l, w⟩ v).reg (a + 4)).toNat, hb, this,
        bitsOf_mod _ h2, bitsOf_putBits_ne _ _ h3, ← hb (s.reg a), hm]
    · have := Chip.wide_set s ⟨a, l, w⟩ v
      simp only [Chip.wide, hf, hg, if_false] at this ⊢
      rw [this, bitsOf_mod _ h2, bitsOf_putBits_ne _ _ h3]

end

end Sys2Proof.Machine
end

