-- ==== Sys2Proof/Laws/State.lean ====
section
/-!
SUPPORT. Laws/State.lean: what each named update of the state leaves as it was, one lemma per part per update, and what a
read of a unit's record gives after a write to it.
-/

namespace Sys2Proof.Machine

/-- Registers and fields are read from the register table alone. -/
theorem Chip.reg_congr {s t : Chip} (h : t.regs = s.regs) (a : Nat) : t.reg a = s.reg a := by
  unfold Chip.reg; rw [h]

theorem Chip.get_congr {s t : Chip} (g : Fld) (h : t.regs = s.regs) : t.get g = s.get g := by
  unfold Chip.get Chip.wide Chip.reg; rw [h]

section
variable (s : Chip)

/-! ### A register write changes registers alone -/

@[simp] theorem Chip.setReg_dieCount (a : Nat) (v : Word) : (s.setReg a v).dieCount = s.dieCount := rfl
@[simp] theorem Chip.setReg_moment (a : Nat) (v : Word) : (s.setReg a v).moment = s.moment := rfl
@[simp] theorem Chip.setReg_upTicks (a : Nat) (v : Word) : (s.setReg a v).upTicks = s.upTicks := rfl
@[simp] theorem Chip.setReg_freeCnt (a : Nat) (v : Word) : (s.setReg a v).freeCnt = s.freeCnt := rfl
@[simp] theorem Chip.setReg_shadow (a : Nat) (v : Word) : (s.setReg a v).shadow = s.shadow := rfl
@[simp] theorem Chip.setReg_staged (a : Nat) (v : Word) : (s.setReg a v).staged = s.staged := rfl
@[simp] theorem Chip.setReg_dies (a : Nat) (v : Word) : (s.setReg a v).dies = s.dies := rfl
@[simp] theorem Chip.setReg_cals (a : Nat) (v : Word) : (s.setReg a v).cals = s.cals := rfl
@[simp] theorem Chip.setReg_slots (a : Nat) (v : Word) : (s.setReg a v).slots = s.slots := rfl
@[simp] theorem Chip.setReg_ports (a : Nat) (v : Word) : (s.setReg a v).ports = s.ports := rfl
@[simp] theorem Chip.setReg_winFifo (a : Nat) (v : Word) : (s.setReg a v).winFifo = s.winFifo := rfl
@[simp] theorem Chip.setReg_frames (a : Nat) (v : Word) : (s.setReg a v).frames = s.frames := rfl
@[simp] theorem Chip.setReg_down (a : Nat) (v : Word) : (s.setReg a v).down = s.down := rfl
@[simp] theorem Chip.setReg_repeatNext (a : Nat) (v : Word) : (s.setReg a v).repeatNext = s.repeatNext := rfl
@[simp] theorem Chip.setReg_lib (a : Nat) (v : Word) : (s.setReg a v).lib = s.lib := rfl
@[simp] theorem Chip.setReg_poison (a : Nat) (v : Word) : (s.setReg a v).poison = s.poison := rfl
@[simp] theorem Chip.setReg_libQueue (a : Nat) (v : Word) : (s.setReg a v).libQueue = s.libQueue := rfl
@[simp] theorem Chip.setReg_libLive (a : Nat) (v : Word) : (s.setReg a v).libLive = s.libLive := rfl
@[simp] theorem Chip.setReg_libStaged (a : Nat) (v : Word) : (s.setReg a v).libStaged = s.libStaged := rfl
@[simp] theorem Chip.setReg_libSince (a : Nat) (v : Word) : (s.setReg a v).libSince = s.libSince := rfl
@[simp] theorem Chip.setReg_libWrote (a : Nat) (v : Word) : (s.setReg a v).libWrote = s.libWrote := rfl
@[simp] theorem Chip.setReg_mirrorQueue (a : Nat) (v : Word) : (s.setReg a v).mirrorQueue = s.mirrorQueue := rfl
@[simp] theorem Chip.setReg_dirty (a : Nat) (v : Word) : (s.setReg a v).dirty = s.dirty := rfl
@[simp] theorem Chip.setReg_trimNew (a : Nat) (v : Word) : (s.setReg a v).trimNew = s.trimNew := rfl
@[simp] theorem Chip.setReg_trimBack (a : Nat) (v : Word) : (s.setReg a v).trimBack = s.trimBack := rfl
@[simp] theorem Chip.setReg_protMask (a : Nat) (v : Word) : (s.setReg a v).protMask = s.protMask := rfl
@[simp] theorem Chip.setReg_loopRecs (a : Nat) (v : Word) : (s.setReg a v).loopRecs = s.loopRecs := rfl
@[simp] theorem Chip.setReg_standbyRecs (a : Nat) (v : Word) : (s.setReg a v).standbyRecs = s.standbyRecs := rfl
@[simp] theorem Chip.setReg_due (a : Nat) (v : Word) : (s.setReg a v).due = s.due := rfl
@[simp] theorem Chip.setReg_faultLog (a : Nat) (v : Word) : (s.setReg a v).faultLog = s.faultLog := rfl
@[simp] theorem Chip.setReg_commit (a : Nat) (v : Word) : (s.setReg a v).commit = s.commit := rfl
@[simp] theorem Chip.setReg_volStage (a : Nat) (v : Word) : (s.setReg a v).volStage = s.volStage := rfl
@[simp] theorem Chip.setReg_vols (a : Nat) (v : Word) : (s.setReg a v).vols = s.vols := rfl
@[simp] theorem Chip.setReg_volOrder (a : Nat) (v : Word) : (s.setReg a v).volOrder = s.volOrder := rfl
@[simp] theorem Chip.setReg_sched (a : Nat) (v : Word) : (s.setReg a v).sched = s.sched := rfl
@[simp] theorem Chip.setReg_time (a : Nat) (v : Word) : (s.setReg a v).time = s.time := rfl
@[simp] theorem Chip.setReg_fault (a : Nat) (v : Word) : (s.setReg a v).fault = s.fault := rfl
@[simp] theorem Chip.setReg_image (a : Nat) (v : Word) : (s.setReg a v).image = s.image := rfl
@[simp] theorem Chip.setReg_rets (a : Nat) (v : Word) : (s.setReg a v).rets = s.rets := rfl
@[simp] theorem Chip.setReg_snap (a : Nat) (v : Word) : (s.setReg a v).snap = s.snap := rfl
@[simp] theorem Chip.setReg_sec (a : Nat) (v : Word) : (s.setReg a v).sec = s.sec := rfl
@[simp] theorem Chip.setReg_hosts (a : Nat) (v : Word) : (s.setReg a v).hosts = s.hosts := rfl
@[simp] theorem Chip.setReg_latency (a : Nat) (v : Word) : (s.setReg a v).latency = s.latency := rfl
@[simp] theorem Chip.setReg_smbus (a : Nat) (v : Word) : (s.setReg a v).smbus = s.smbus := rfl
@[simp] theorem Chip.setReg_resetLow (a : Nat) (v : Word) : (s.setReg a v).resetLow = s.resetLow := rfl
@[simp] theorem Chip.setReg_started (a : Nat) (v : Word) : (s.setReg a v).started = s.started := rfl

@[simp] theorem Chip.set_dieCount (g : Fld) (v : Nat) : (s.set g v).dieCount = s.dieCount := by
  unfold Chip.set; dsimp only; split <;> rfl
@[simp] theorem Chip.set_moment (g : Fld) (v : Nat) : (s.set g v).moment = s.moment := by
  unfold Chip.set; dsimp only; split <;> rfl
@[simp] theorem Chip.set_upTicks (g : Fld) (v : Nat) : (s.set g v).upTicks = s.upTicks := by
  unfold Chip.set; dsimp only; split <;> rfl
@[simp] theorem Chip.set_freeCnt (g : Fld) (v : Nat) : (s.set g v).freeCnt = s.freeCnt := by
  unfold Chip.set; dsimp only; split <;> rfl
@[simp] theorem Chip.set_shadow (g : Fld) (v : Nat) : (s.set g v).shadow = s.shadow := by
  unfold Chip.set; dsimp only; split <;> rfl
@[simp] theorem Chip.set_staged (g : Fld) (v : Nat) : (s.set g v).staged = s.staged := by
  unfold Chip.set; dsimp only; split <;> rfl
@[simp] theorem Chip.set_dies (g : Fld) (v : Nat) : (s.set g v).dies = s.dies := by
  unfold Chip.set; dsimp only; split <;> rfl
@[simp] theorem Chip.set_cals (g : Fld) (v : Nat) : (s.set g v).cals = s.cals := by
  unfold Chip.set; dsimp only; split <;> rfl
@[simp] theorem Chip.set_slots (g : Fld) (v : Nat) : (s.set g v).slots = s.slots := by
  unfold Chip.set; dsimp only; split <;> rfl
@[simp] theorem Chip.set_ports (g : Fld) (v : Nat) : (s.set g v).ports = s.ports := by
  unfold Chip.set; dsimp only; split <;> rfl
@[simp] theorem Chip.set_winFifo (g : Fld) (v : Nat) : (s.set g v).winFifo = s.winFifo := by
  unfold Chip.set; dsimp only; split <;> rfl
@[simp] theorem Chip.set_frames (g : Fld) (v : Nat) : (s.set g v).frames = s.frames := by
  unfold Chip.set; dsimp only; split <;> rfl
@[simp] theorem Chip.set_down (g : Fld) (v : Nat) : (s.set g v).down = s.down := by
  unfold Chip.set; dsimp only; split <;> rfl
@[simp] theorem Chip.set_repeatNext (g : Fld) (v : Nat) : (s.set g v).repeatNext = s.repeatNext := by
  unfold Chip.set; dsimp only; split <;> rfl
@[simp] theorem Chip.set_lib (g : Fld) (v : Nat) : (s.set g v).lib = s.lib := by
  unfold Chip.set; dsimp only; split <;> rfl
@[simp] theorem Chip.set_poison (g : Fld) (v : Nat) : (s.set g v).poison = s.poison := by
  unfold Chip.set; dsimp only; split <;> rfl
@[simp] theorem Chip.set_libQueue (g : Fld) (v : Nat) : (s.set g v).libQueue = s.libQueue := by
  unfold Chip.set; dsimp only; split <;> rfl
@[simp] theorem Chip.set_libLive (g : Fld) (v : Nat) : (s.set g v).libLive = s.libLive := by
  unfold Chip.set; dsimp only; split <;> rfl
@[simp] theorem Chip.set_libStaged (g : Fld) (v : Nat) : (s.set g v).libStaged = s.libStaged := by
  unfold Chip.set; dsimp only; split <;> rfl
@[simp] theorem Chip.set_libSince (g : Fld) (v : Nat) : (s.set g v).libSince = s.libSince := by
  unfold Chip.set; dsimp only; split <;> rfl
@[simp] theorem Chip.set_libWrote (g : Fld) (v : Nat) : (s.set g v).libWrote = s.libWrote := by
  unfold Chip.set; dsimp only; split <;> rfl
@[simp] theorem Chip.set_mirrorQueue (g : Fld) (v : Nat) : (s.set g v).mirrorQueue = s.mirrorQueue := by
  unfold Chip.set; dsimp only; split <;> rfl
@[simp] theorem Chip.set_dirty (g : Fld) (v : Nat) : (s.set g v).dirty = s.dirty := by
  unfold Chip.set; dsimp only; split <;> rfl
@[simp] theorem Chip.set_trimNew (g : Fld) (v : Nat) : (s.set g v).trimNew = s.trimNew := by
  unfold Chip.set; dsimp only; split <;> rfl
@[simp] theorem Chip.set_trimBack (g : Fld) (v : Nat) : (s.set g v).trimBack = s.trimBack := by
  unfold Chip.set; dsimp only; split <;> rfl
@[simp] theorem Chip.set_protMask (g : Fld) (v : Nat) : (s.set g v).protMask = s.protMask := by
  unfold Chip.set; dsimp only; split <;> rfl
@[simp] theorem Chip.set_loopRecs (g : Fld) (v : Nat) : (s.set g v).loopRecs = s.loopRecs := by
  unfold Chip.set; dsimp only; split <;> rfl
@[simp] theorem Chip.set_standbyRecs (g : Fld) (v : Nat) : (s.set g v).standbyRecs = s.standbyRecs := by
  unfold Chip.set; dsimp only; split <;> rfl
@[simp] theorem Chip.set_due (g : Fld) (v : Nat) : (s.set g v).due = s.due := by
  unfold Chip.set; dsimp only; split <;> rfl
@[simp] theorem Chip.set_faultLog (g : Fld) (v : Nat) : (s.set g v).faultLog = s.faultLog := by
  unfold Chip.set; dsimp only; split <;> rfl
@[simp] theorem Chip.set_commit (g : Fld) (v : Nat) : (s.set g v).commit = s.commit := by
  unfold Chip.set; dsimp only; split <;> rfl
@[simp] theorem Chip.set_volStage (g : Fld) (v : Nat) : (s.set g v).volStage = s.volStage := by
  unfold Chip.set; dsimp only; split <;> rfl
@[simp] theorem Chip.set_vols (g : Fld) (v : Nat) : (s.set g v).vols = s.vols := by
  unfold Chip.set; dsimp only; split <;> rfl
@[simp] theorem Chip.set_volOrder (g : Fld) (v : Nat) : (s.set g v).volOrder = s.volOrder := by
  unfold Chip.set; dsimp only; split <;> rfl
@[simp] theorem Chip.set_sched (g : Fld) (v : Nat) : (s.set g v).sched = s.sched := by
  unfold Chip.set; dsimp only; split <;> rfl
@[simp] theorem Chip.set_time (g : Fld) (v : Nat) : (s.set g v).time = s.time := by
  unfold Chip.set; dsimp only; split <;> rfl
@[simp] theorem Chip.set_fault (g : Fld) (v : Nat) : (s.set g v).fault = s.fault := by
  unfold Chip.set; dsimp only; split <;> rfl
@[simp] theorem Chip.set_image (g : Fld) (v : Nat) : (s.set g v).image = s.image := by
  unfold Chip.set; dsimp only; split <;> rfl
@[simp] theorem Chip.set_rets (g : Fld) (v : Nat) : (s.set g v).rets = s.rets := by
  unfold Chip.set; dsimp only; split <;> rfl
@[simp] theorem Chip.set_snap (g : Fld) (v : Nat) : (s.set g v).snap = s.snap := by
  unfold Chip.set; dsimp only; split <;> rfl
@[simp] theorem Chip.set_sec (g : Fld) (v : Nat) : (s.set g v).sec = s.sec := by
  unfold Chip.set; dsimp only; split <;> rfl
@[simp] theorem Chip.set_hosts (g : Fld) (v : Nat) : (s.set g v).hosts = s.hosts := by
  unfold Chip.set; dsimp only; split <;> rfl
@[simp] theorem Chip.set_latency (g : Fld) (v : Nat) : (s.set g v).latency = s.latency := by
  unfold Chip.set; dsimp only; split <;> rfl
@[simp] theorem Chip.set_smbus (g : Fld) (v : Nat) : (s.set g v).smbus = s.smbus := by
  unfold Chip.set; dsimp only; split <;> rfl
@[simp] theorem Chip.set_resetLow (g : Fld) (v : Nat) : (s.set g v).resetLow = s.resetLow := by
  unfold Chip.set; dsimp only; split <;> rfl
@[simp] theorem Chip.set_started (g : Fld) (v : Nat) : (s.set g v).started = s.started := by
  unfold Chip.set; dsimp only; split <;> rfl

@[simp] theorem Chip.setI_dieCount (g : Fld) (v : Int) : (s.setI g v).dieCount = s.dieCount := Chip.set_dieCount ..
@[simp] theorem Chip.setI_moment (g : Fld) (v : Int) : (s.setI g v).moment = s.moment := Chip.set_moment ..
@[simp] theorem Chip.setI_upTicks (g : Fld) (v : Int) : (s.setI g v).upTicks = s.upTicks := Chip.set_upTicks ..
@[simp] theorem Chip.setI_freeCnt (g : Fld) (v : Int) : (s.setI g v).freeCnt = s.freeCnt := Chip.set_freeCnt ..
@[simp] theorem Chip.setI_shadow (g : Fld) (v : Int) : (s.setI g v).shadow = s.shadow := Chip.set_shadow ..
@[simp] theorem Chip.setI_staged (g : Fld) (v : Int) : (s.setI g v).staged = s.staged := Chip.set_staged ..
@[simp] theorem Chip.setI_dies (g : Fld) (v : Int) : (s.setI g v).dies = s.dies := Chip.set_dies ..
@[simp] theorem Chip.setI_cals (g : Fld) (v : Int) : (s.setI g v).cals = s.cals := Chip.set_cals ..
@[simp] theorem Chip.setI_slots (g : Fld) (v : Int) : (s.setI g v).slots = s.slots := Chip.set_slots ..
@[simp] theorem Chip.setI_ports (g : Fld) (v : Int) : (s.setI g v).ports = s.ports := Chip.set_ports ..
@[simp] theorem Chip.setI_winFifo (g : Fld) (v : Int) : (s.setI g v).winFifo = s.winFifo := Chip.set_winFifo ..
@[simp] theorem Chip.setI_frames (g : Fld) (v : Int) : (s.setI g v).frames = s.frames := Chip.set_frames ..
@[simp] theorem Chip.setI_down (g : Fld) (v : Int) : (s.setI g v).down = s.down := Chip.set_down ..
@[simp] theorem Chip.setI_repeatNext (g : Fld) (v : Int) : (s.setI g v).repeatNext = s.repeatNext := Chip.set_repeatNext ..
@[simp] theorem Chip.setI_lib (g : Fld) (v : Int) : (s.setI g v).lib = s.lib := Chip.set_lib ..
@[simp] theorem Chip.setI_poison (g : Fld) (v : Int) : (s.setI g v).poison = s.poison := Chip.set_poison ..
@[simp] theorem Chip.setI_libQueue (g : Fld) (v : Int) : (s.setI g v).libQueue = s.libQueue := Chip.set_libQueue ..
@[simp] theorem Chip.setI_libLive (g : Fld) (v : Int) : (s.setI g v).libLive = s.libLive := Chip.set_libLive ..
@[simp] theorem Chip.setI_libStaged (g : Fld) (v : Int) : (s.setI g v).libStaged = s.libStaged := Chip.set_libStaged ..
@[simp] theorem Chip.setI_libSince (g : Fld) (v : Int) : (s.setI g v).libSince = s.libSince := Chip.set_libSince ..
@[simp] theorem Chip.setI_libWrote (g : Fld) (v : Int) : (s.setI g v).libWrote = s.libWrote := Chip.set_libWrote ..
@[simp] theorem Chip.setI_mirrorQueue (g : Fld) (v : Int) : (s.setI g v).mirrorQueue = s.mirrorQueue := Chip.set_mirrorQueue ..
@[simp] theorem Chip.setI_dirty (g : Fld) (v : Int) : (s.setI g v).dirty = s.dirty := Chip.set_dirty ..
@[simp] theorem Chip.setI_trimNew (g : Fld) (v : Int) : (s.setI g v).trimNew = s.trimNew := Chip.set_trimNew ..
@[simp] theorem Chip.setI_trimBack (g : Fld) (v : Int) : (s.setI g v).trimBack = s.trimBack := Chip.set_trimBack ..
@[simp] theorem Chip.setI_protMask (g : Fld) (v : Int) : (s.setI g v).protMask = s.protMask := Chip.set_protMask ..
@[simp] theorem Chip.setI_loopRecs (g : Fld) (v : Int) : (s.setI g v).loopRecs = s.loopRecs := Chip.set_loopRecs ..
@[simp] theorem Chip.setI_standbyRecs (g : Fld) (v : Int) : (s.setI g v).standbyRecs = s.standbyRecs := Chip.set_standbyRecs ..
@[simp] theorem Chip.setI_due (g : Fld) (v : Int) : (s.setI g v).due = s.due := Chip.set_due ..
@[simp] theorem Chip.setI_faultLog (g : Fld) (v : Int) : (s.setI g v).faultLog = s.faultLog := Chip.set_faultLog ..
@[simp] theorem Chip.setI_commit (g : Fld) (v : Int) : (s.setI g v).commit = s.commit := Chip.set_commit ..
@[simp] theorem Chip.setI_volStage (g : Fld) (v : Int) : (s.setI g v).volStage = s.volStage := Chip.set_volStage ..
@[simp] theorem Chip.setI_vols (g : Fld) (v : Int) : (s.setI g v).vols = s.vols := Chip.set_vols ..
@[simp] theorem Chip.setI_volOrder (g : Fld) (v : Int) : (s.setI g v).volOrder = s.volOrder := Chip.set_volOrder ..
@[simp] theorem Chip.setI_sched (g : Fld) (v : Int) : (s.setI g v).sched = s.sched := Chip.set_sched ..
@[simp] theorem Chip.setI_time (g : Fld) (v : Int) : (s.setI g v).time = s.time := Chip.set_time ..
@[simp] theorem Chip.setI_fault (g : Fld) (v : Int) : (s.setI g v).fault = s.fault := Chip.set_fault ..
@[simp] theorem Chip.setI_image (g : Fld) (v : Int) : (s.setI g v).image = s.image := Chip.set_image ..
@[simp] theorem Chip.setI_rets (g : Fld) (v : Int) : (s.setI g v).rets = s.rets := Chip.set_rets ..
@[simp] theorem Chip.setI_snap (g : Fld) (v : Int) : (s.setI g v).snap = s.snap := Chip.set_snap ..
@[simp] theorem Chip.setI_sec (g : Fld) (v : Int) : (s.setI g v).sec = s.sec := Chip.set_sec ..
@[simp] theorem Chip.setI_hosts (g : Fld) (v : Int) : (s.setI g v).hosts = s.hosts := Chip.set_hosts ..
@[simp] theorem Chip.setI_latency (g : Fld) (v : Int) : (s.setI g v).latency = s.latency := Chip.set_latency ..
@[simp] theorem Chip.setI_smbus (g : Fld) (v : Int) : (s.setI g v).smbus = s.smbus := Chip.set_smbus ..
@[simp] theorem Chip.setI_resetLow (g : Fld) (v : Int) : (s.setI g v).resetLow = s.resetLow := Chip.set_resetLow ..
@[simp] theorem Chip.setI_started (g : Fld) (v : Int) : (s.setI g v).started = s.started := Chip.set_started ..

@[simp] theorem Chip.setB_dieCount (g : Fld) (b : Bool) : (s.setB g b).dieCount = s.dieCount := Chip.set_dieCount ..
@[simp] theorem Chip.setB_moment (g : Fld) (b : Bool) : (s.setB g b).moment = s.moment := Chip.set_moment ..
@[simp] theorem Chip.setB_upTicks (g : Fld) (b : Bool) : (s.setB g b).upTicks = s.upTicks := Chip.set_upTicks ..
@[simp] theorem Chip.setB_freeCnt (g : Fld) (b : Bool) : (s.setB g b).freeCnt = s.freeCnt := Chip.set_freeCnt ..
@[simp] theorem Chip.setB_shadow (g : Fld) (b : Bool) : (s.setB g b).shadow = s.shadow := Chip.set_shadow ..
@[simp] theorem Chip.setB_staged (g : Fld) (b : Bool) : (s.setB g b).staged = s.staged := Chip.set_staged ..
@[simp] theorem Chip.setB_dies (g : Fld) (b : Bool) : (s.setB g b).dies = s.dies := Chip.set_dies ..
@[simp] theorem Chip.setB_cals (g : Fld) (b : Bool) : (s.setB g b).cals = s.cals := Chip.set_cals ..
@[simp] theorem Chip.setB_slots (g : Fld) (b : Bool) : (s.setB g b).slots = s.slots := Chip.set_slots ..
@[simp] theorem Chip.setB_ports (g : Fld) (b : Bool) : (s.setB g b).ports = s.ports := Chip.set_ports ..
@[simp] theorem Chip.setB_winFifo (g : Fld) (b : Bool) : (s.setB g b).winFifo = s.winFifo := Chip.set_winFifo ..
@[simp] theorem Chip.setB_frames (g : Fld) (b : Bool) : (s.setB g b).frames = s.frames := Chip.set_frames ..
@[simp] theorem Chip.setB_down (g : Fld) (b : Bool) : (s.setB g b).down = s.down := Chip.set_down ..
@[simp] theorem Chip.setB_repeatNext (g : Fld) (b : Bool) : (s.setB g b).repeatNext = s.repeatNext := Chip.set_repeatNext ..
@[simp] theorem Chip.setB_lib (g : Fld) (b : Bool) : (s.setB g b).lib = s.lib := Chip.set_lib ..
@[simp] theorem Chip.setB_poison (g : Fld) (b : Bool) : (s.setB g b).poison = s.poison := Chip.set_poison ..
@[simp] theorem Chip.setB_libQueue (g : Fld) (b : Bool) : (s.setB g b).libQueue = s.libQueue := Chip.set_libQueue ..
@[simp] theorem Chip.setB_libLive (g : Fld) (b : Bool) : (s.setB g b).libLive = s.libLive := Chip.set_libLive ..
@[simp] theorem Chip.setB_libStaged (g : Fld) (b : Bool) : (s.setB g b).libStaged = s.libStaged := Chip.set_libStaged ..
@[simp] theorem Chip.setB_libSince (g : Fld) (b : Bool) : (s.setB g b).libSince = s.libSince := Chip.set_libSince ..
@[simp] theorem Chip.setB_libWrote (g : Fld) (b : Bool) : (s.setB g b).libWrote = s.libWrote := Chip.set_libWrote ..
@[simp] theorem Chip.setB_mirrorQueue (g : Fld) (b : Bool) : (s.setB g b).mirrorQueue = s.mirrorQueue := Chip.set_mirrorQueue ..
@[simp] theorem Chip.setB_dirty (g : Fld) (b : Bool) : (s.setB g b).dirty = s.dirty := Chip.set_dirty ..
@[simp] theorem Chip.setB_trimNew (g : Fld) (b : Bool) : (s.setB g b).trimNew = s.trimNew := Chip.set_trimNew ..
@[simp] theorem Chip.setB_trimBack (g : Fld) (b : Bool) : (s.setB g b).trimBack = s.trimBack := Chip.set_trimBack ..
@[simp] theorem Chip.setB_protMask (g : Fld) (b : Bool) : (s.setB g b).protMask = s.protMask := Chip.set_protMask ..
@[simp] theorem Chip.setB_loopRecs (g : Fld) (b : Bool) : (s.setB g b).loopRecs = s.loopRecs := Chip.set_loopRecs ..
@[simp] theorem Chip.setB_standbyRecs (g : Fld) (b : Bool) : (s.setB g b).standbyRecs = s.standbyRecs := Chip.set_standbyRecs ..
@[simp] theorem Chip.setB_due (g : Fld) (b : Bool) : (s.setB g b).due = s.due := Chip.set_due ..
@[simp] theorem Chip.setB_faultLog (g : Fld) (b : Bool) : (s.setB g b).faultLog = s.faultLog := Chip.set_faultLog ..
@[simp] theorem Chip.setB_commit (g : Fld) (b : Bool) : (s.setB g b).commit = s.commit := Chip.set_commit ..
@[simp] theorem Chip.setB_volStage (g : Fld) (b : Bool) : (s.setB g b).volStage = s.volStage := Chip.set_volStage ..
@[simp] theorem Chip.setB_vols (g : Fld) (b : Bool) : (s.setB g b).vols = s.vols := Chip.set_vols ..
@[simp] theorem Chip.setB_volOrder (g : Fld) (b : Bool) : (s.setB g b).volOrder = s.volOrder := Chip.set_volOrder ..
@[simp] theorem Chip.setB_sched (g : Fld) (b : Bool) : (s.setB g b).sched = s.sched := Chip.set_sched ..
@[simp] theorem Chip.setB_time (g : Fld) (b : Bool) : (s.setB g b).time = s.time := Chip.set_time ..
@[simp] theorem Chip.setB_fault (g : Fld) (b : Bool) : (s.setB g b).fault = s.fault := Chip.set_fault ..
@[simp] theorem Chip.setB_image (g : Fld) (b : Bool) : (s.setB g b).image = s.image := Chip.set_image ..
@[simp] theorem Chip.setB_rets (g : Fld) (b : Bool) : (s.setB g b).rets = s.rets := Chip.set_rets ..
@[simp] theorem Chip.setB_snap (g : Fld) (b : Bool) : (s.setB g b).snap = s.snap := Chip.set_snap ..
@[simp] theorem Chip.setB_sec (g : Fld) (b : Bool) : (s.setB g b).sec = s.sec := Chip.set_sec ..
@[simp] theorem Chip.setB_hosts (g : Fld) (b : Bool) : (s.setB g b).hosts = s.hosts := Chip.set_hosts ..
@[simp] theorem Chip.setB_latency (g : Fld) (b : Bool) : (s.setB g b).latency = s.latency := Chip.set_latency ..
@[simp] theorem Chip.setB_smbus (g : Fld) (b : Bool) : (s.setB g b).smbus = s.smbus := Chip.set_smbus ..
@[simp] theorem Chip.setB_resetLow (g : Fld) (b : Bool) : (s.setB g b).resetLow = s.resetLow := Chip.set_resetLow ..
@[simp] theorem Chip.setB_started (g : Fld) (b : Bool) : (s.setB g b).started = s.started := Chip.set_started ..

@[simp] theorem Chip.bump_dieCount (g : Fld) (k : Nat) : (s.bump g k).dieCount = s.dieCount := Chip.set_dieCount ..
@[simp] theorem Chip.bump_moment (g : Fld) (k : Nat) : (s.bump g k).moment = s.moment := Chip.set_moment ..
@[simp] theorem Chip.bump_upTicks (g : Fld) (k : Nat) : (s.bump g k).upTicks = s.upTicks := Chip.set_upTicks ..
@[simp] theorem Chip.bump_freeCnt (g : Fld) (k : Nat) : (s.bump g k).freeCnt = s.freeCnt := Chip.set_freeCnt ..
@[simp] theorem Chip.bump_shadow (g : Fld) (k : Nat) : (s.bump g k).shadow = s.shadow := Chip.set_shadow ..
@[simp] theorem Chip.bump_staged (g : Fld) (k : Nat) : (s.bump g k).staged = s.staged := Chip.set_staged ..
@[simp] theorem Chip.bump_dies (g : Fld) (k : Nat) : (s.bump g k).dies = s.dies := Chip.set_dies ..
@[simp] theorem Chip.bump_cals (g : Fld) (k : Nat) : (s.bump g k).cals = s.cals := Chip.set_cals ..
@[simp] theorem Chip.bump_slots (g : Fld) (k : Nat) : (s.bump g k).slots = s.slots := Chip.set_slots ..
@[simp] theorem Chip.bump_ports (g : Fld) (k : Nat) : (s.bump g k).ports = s.ports := Chip.set_ports ..
@[simp] theorem Chip.bump_winFifo (g : Fld) (k : Nat) : (s.bump g k).winFifo = s.winFifo := Chip.set_winFifo ..
@[simp] theorem Chip.bump_frames (g : Fld) (k : Nat) : (s.bump g k).frames = s.frames := Chip.set_frames ..
@[simp] theorem Chip.bump_down (g : Fld) (k : Nat) : (s.bump g k).down = s.down := Chip.set_down ..
@[simp] theorem Chip.bump_repeatNext (g : Fld) (k : Nat) : (s.bump g k).repeatNext = s.repeatNext := Chip.set_repeatNext ..
@[simp] theorem Chip.bump_lib (g : Fld) (k : Nat) : (s.bump g k).lib = s.lib := Chip.set_lib ..
@[simp] theorem Chip.bump_poison (g : Fld) (k : Nat) : (s.bump g k).poison = s.poison := Chip.set_poison ..
@[simp] theorem Chip.bump_libQueue (g : Fld) (k : Nat) : (s.bump g k).libQueue = s.libQueue := Chip.set_libQueue ..
@[simp] theorem Chip.bump_libLive (g : Fld) (k : Nat) : (s.bump g k).libLive = s.libLive := Chip.set_libLive ..
@[simp] theorem Chip.bump_libStaged (g : Fld) (k : Nat) : (s.bump g k).libStaged = s.libStaged := Chip.set_libStaged ..
@[simp] theorem Chip.bump_libSince (g : Fld) (k : Nat) : (s.bump g k).libSince = s.libSince := Chip.set_libSince ..
@[simp] theorem Chip.bump_libWrote (g : Fld) (k : Nat) : (s.bump g k).libWrote = s.libWrote := Chip.set_libWrote ..
@[simp] theorem Chip.bump_mirrorQueue (g : Fld) (k : Nat) : (s.bump g k).mirrorQueue = s.mirrorQueue := Chip.set_mirrorQueue ..
@[simp] theorem Chip.bump_dirty (g : Fld) (k : Nat) : (s.bump g k).dirty = s.dirty := Chip.set_dirty ..
@[simp] theorem Chip.bump_trimNew (g : Fld) (k : Nat) : (s.bump g k).trimNew = s.trimNew := Chip.set_trimNew ..
@[simp] theorem Chip.bump_trimBack (g : Fld) (k : Nat) : (s.bump g k).trimBack = s.trimBack := Chip.set_trimBack ..
@[simp] theorem Chip.bump_protMask (g : Fld) (k : Nat) : (s.bump g k).protMask = s.protMask := Chip.set_protMask ..
@[simp] theorem Chip.bump_loopRecs (g : Fld) (k : Nat) : (s.bump g k).loopRecs = s.loopRecs := Chip.set_loopRecs ..
@[simp] theorem Chip.bump_standbyRecs (g : Fld) (k : Nat) : (s.bump g k).standbyRecs = s.standbyRecs := Chip.set_standbyRecs ..
@[simp] theorem Chip.bump_due (g : Fld) (k : Nat) : (s.bump g k).due = s.due := Chip.set_due ..
@[simp] theorem Chip.bump_faultLog (g : Fld) (k : Nat) : (s.bump g k).faultLog = s.faultLog := Chip.set_faultLog ..
@[simp] theorem Chip.bump_commit (g : Fld) (k : Nat) : (s.bump g k).commit = s.commit := Chip.set_commit ..
@[simp] theorem Chip.bump_volStage (g : Fld) (k : Nat) : (s.bump g k).volStage = s.volStage := Chip.set_volStage ..
@[simp] theorem Chip.bump_vols (g : Fld) (k : Nat) : (s.bump g k).vols = s.vols := Chip.set_vols ..
@[simp] theorem Chip.bump_volOrder (g : Fld) (k : Nat) : (s.bump g k).volOrder = s.volOrder := Chip.set_volOrder ..
@[simp] theorem Chip.bump_sched (g : Fld) (k : Nat) : (s.bump g k).sched = s.sched := Chip.set_sched ..
@[simp] theorem Chip.bump_time (g : Fld) (k : Nat) : (s.bump g k).time = s.time := Chip.set_time ..
@[simp] theorem Chip.bump_fault (g : Fld) (k : Nat) : (s.bump g k).fault = s.fault := Chip.set_fault ..
@[simp] theorem Chip.bump_image (g : Fld) (k : Nat) : (s.bump g k).image = s.image := Chip.set_image ..
@[simp] theorem Chip.bump_rets (g : Fld) (k : Nat) : (s.bump g k).rets = s.rets := Chip.set_rets ..
@[simp] theorem Chip.bump_snap (g : Fld) (k : Nat) : (s.bump g k).snap = s.snap := Chip.set_snap ..
@[simp] theorem Chip.bump_sec (g : Fld) (k : Nat) : (s.bump g k).sec = s.sec := Chip.set_sec ..
@[simp] theorem Chip.bump_hosts (g : Fld) (k : Nat) : (s.bump g k).hosts = s.hosts := Chip.set_hosts ..
@[simp] theorem Chip.bump_latency (g : Fld) (k : Nat) : (s.bump g k).latency = s.latency := Chip.set_latency ..
@[simp] theorem Chip.bump_smbus (g : Fld) (k : Nat) : (s.bump g k).smbus = s.smbus := Chip.set_smbus ..
@[simp] theorem Chip.bump_resetLow (g : Fld) (k : Nat) : (s.bump g k).resetLow = s.resetLow := Chip.set_resetLow ..
@[simp] theorem Chip.bump_started (g : Fld) (k : Nat) : (s.bump g k).started = s.started := Chip.set_started ..

/-- The vectors that fall due leave everything but the list of due vectors. -/
theorem Chip.dueVec_eq (k : Nat) : s.dueVec k = { s with due := (s.dueVec k).due } := by
  unfold Chip.dueVec; split <;> rfl

theorem Chip.dueVecs_eq (l : List Nat) : l.foldl Chip.dueVec s = { s with due := (l.foldl Chip.dueVec s).due } := by
  induction l generalizing s with
  | nil => rfl
  | cons k r ih =>
    simp only [List.foldl_cons]
    rw [ih, Chip.dueVec_eq]

/-- An event bit that is raised changes its register and the list of due vectors alone. -/
theorem Chip.raiseBit_eq (a b : Nat) :
    s.raiseBit a b = { s with regs := (s.raiseBit a b).regs, due := (s.raiseBit a b).due } := by
  unfold Chip.raiseBit
  split
  · rfl
  · rw [Chip.dueVecs_eq]; rfl

@[simp] theorem Chip.raise_dieCount (g : Fld) : (s.raise g).dieCount = s.dieCount := by
  unfold Chip.raise; rw [Chip.raiseBit_eq]
@[simp] theorem Chip.raise_moment (g : Fld) : (s.raise g).moment = s.moment := by
  unfold Chip.raise; rw [Chip.raiseBit_eq]
@[simp] theorem Chip.raise_upTicks (g : Fld) : (s.raise g).upTicks = s.upTicks := by
  unfold Chip.raise; rw [Chip.raiseBit_eq]
@[simp] theorem Chip.raise_freeCnt (g : Fld) : (s.raise g).freeCnt = s.freeCnt := by
  unfold Chip.raise; rw [Chip.raiseBit_eq]
@[simp] theorem Chip.raise_shadow (g : Fld) : (s.raise g).shadow = s.shadow := by
  unfold Chip.raise; rw [Chip.raiseBit_eq]
@[simp] theorem Chip.raise_staged (g : Fld) : (s.raise g).staged = s.staged := by
  unfold Chip.raise; rw [Chip.raiseBit_eq]
@[simp] theorem Chip.raise_dies (g : Fld) : (s.raise g).dies = s.dies := by
  unfold Chip.raise; rw [Chip.raiseBit_eq]
@[simp] theorem Chip.raise_cals (g : Fld) : (s.raise g).cals = s.cals := by
  unfold Chip.raise; rw [Chip.raiseBit_eq]
@[simp] theorem Chip.raise_slots (g : Fld) : (s.raise g).slots = s.slots := by
  unfold Chip.raise; rw [Chip.raiseBit_eq]
@[simp] theorem Chip.raise_ports (g : Fld) : (s.raise g).ports = s.ports := by
  unfold Chip.raise; rw [Chip.raiseBit_eq]
@[simp] theorem Chip.raise_winFifo (g : Fld) : (s.raise g).winFifo = s.winFifo := by
  unfold Chip.raise; rw [Chip.raiseBit_eq]
@[simp] theorem Chip.raise_frames (g : Fld) : (s.raise g).frames = s.frames := by
  unfold Chip.raise; rw [Chip.raiseBit_eq]
@[simp] theorem Chip.raise_down (g : Fld) : (s.raise g).down = s.down := by
  unfold Chip.raise; rw [Chip.raiseBit_eq]
@[simp] theorem Chip.raise_repeatNext (g : Fld) : (s.raise g).repeatNext = s.repeatNext := by
  unfold Chip.raise; rw [Chip.raiseBit_eq]
@[simp] theorem Chip.raise_lib (g : Fld) : (s.raise g).lib = s.lib := by
  unfold Chip.raise; rw [Chip.raiseBit_eq]
@[simp] theorem Chip.raise_poison (g : Fld) : (s.raise g).poison = s.poison := by
  unfold Chip.raise; rw [Chip.raiseBit_eq]
@[simp] theorem Chip.raise_libQueue (g : Fld) : (s.raise g).libQueue = s.libQueue := by
  unfold Chip.raise; rw [Chip.raiseBit_eq]
@[simp] theorem Chip.raise_libLive (g : Fld) : (s.raise g).libLive = s.libLive := by
  unfold Chip.raise; rw [Chip.raiseBit_eq]
@[simp] theorem Chip.raise_libStaged (g : Fld) : (s.raise g).libStaged = s.libStaged := by
  unfold Chip.raise; rw [Chip.raiseBit_eq]
@[simp] theorem Chip.raise_libSince (g : Fld) : (s.raise g).libSince = s.libSince := by
  unfold Chip.raise; rw [Chip.raiseBit_eq]
@[simp] theorem Chip.raise_libWrote (g : Fld) : (s.raise g).libWrote = s.libWrote := by
  unfold Chip.raise; rw [Chip.raiseBit_eq]
@[simp] theorem Chip.raise_mirrorQueue (g : Fld) : (s.raise g).mirrorQueue = s.mirrorQueue := by
  unfold Chip.raise; rw [Chip.raiseBit_eq]
@[simp] theorem Chip.raise_dirty (g : Fld) : (s.raise g).dirty = s.dirty := by
  unfold Chip.raise; rw [Chip.raiseBit_eq]
@[simp] theorem Chip.raise_trimNew (g : Fld) : (s.raise g).trimNew = s.trimNew := by
  unfold Chip.raise; rw [Chip.raiseBit_eq]
@[simp] theorem Chip.raise_trimBack (g : Fld) : (s.raise g).trimBack = s.trimBack := by
  unfold Chip.raise; rw [Chip.raiseBit_eq]
@[simp] theorem Chip.raise_protMask (g : Fld) : (s.raise g).protMask = s.protMask := by
  unfold Chip.raise; rw [Chip.raiseBit_eq]
@[simp] theorem Chip.raise_loopRecs (g : Fld) : (s.raise g).loopRecs = s.loopRecs := by
  unfold Chip.raise; rw [Chip.raiseBit_eq]
@[simp] theorem Chip.raise_standbyRecs (g : Fld) : (s.raise g).standbyRecs = s.standbyRecs := by
  unfold Chip.raise; rw [Chip.raiseBit_eq]
@[simp] theorem Chip.raise_faultLog (g : Fld) : (s.raise g).faultLog = s.faultLog := by
  unfold Chip.raise; rw [Chip.raiseBit_eq]
@[simp] theorem Chip.raise_commit (g : Fld) : (s.raise g).commit = s.commit := by
  unfold Chip.raise; rw [Chip.raiseBit_eq]
@[simp] theorem Chip.raise_volStage (g : Fld) : (s.raise g).volStage = s.volStage := by
  unfold Chip.raise; rw [Chip.raiseBit_eq]
@[simp] theorem Chip.raise_vols (g : Fld) : (s.raise g).vols = s.vols := by
  unfold Chip.raise; rw [Chip.raiseBit_eq]
@[simp] theorem Chip.raise_volOrder (g : Fld) : (s.raise g).volOrder = s.volOrder := by
  unfold Chip.raise; rw [Chip.raiseBit_eq]
@[simp] theorem Chip.raise_sched (g : Fld) : (s.raise g).sched = s.sched := by
  unfold Chip.raise; rw [Chip.raiseBit_eq]
@[simp] theorem Chip.raise_time (g : Fld) : (s.raise g).time = s.time := by
  unfold Chip.raise; rw [Chip.raiseBit_eq]
@[simp] theorem Chip.raise_fault (g : Fld) : (s.raise g).fault = s.fault := by
  unfold Chip.raise; rw [Chip.raiseBit_eq]
@[simp] theorem Chip.raise_image (g : Fld) : (s.raise g).image = s.image := by
  unfold Chip.raise; rw [Chip.raiseBit_eq]
@[simp] theorem Chip.raise_rets (g : Fld) : (s.raise g).rets = s.rets := by
  unfold Chip.raise; rw [Chip.raiseBit_eq]
@[simp] theorem Chip.raise_snap (g : Fld) : (s.raise g).snap = s.snap := by
  unfold Chip.raise; rw [Chip.raiseBit_eq]
@[simp] theorem Chip.raise_sec (g : Fld) : (s.raise g).sec = s.sec := by
  unfold Chip.raise; rw [Chip.raiseBit_eq]
@[simp] theorem Chip.raise_hosts (g : Fld) : (s.raise g).hosts = s.hosts := by
  unfold Chip.raise; rw [Chip.raiseBit_eq]
@[simp] theorem Chip.raise_latency (g : Fld) : (s.raise g).latency = s.latency := by
  unfold Chip.raise; rw [Chip.raiseBit_eq]
@[simp] theorem Chip.raise_smbus (g : Fld) : (s.raise g).smbus = s.smbus := by
  unfold Chip.raise; rw [Chip.raiseBit_eq]
@[simp] theorem Chip.raise_resetLow (g : Fld) : (s.raise g).resetLow = s.resetLow := by
  unfold Chip.raise; rw [Chip.raiseBit_eq]
@[simp] theorem Chip.raise_started (g : Fld) : (s.raise g).started = s.started := by
  unfold Chip.raise; rw [Chip.raiseBit_eq]
@[simp] theorem Chip.dueVec_dieCount (k : Nat) : (s.dueVec k).dieCount = s.dieCount := by rw [Chip.dueVec_eq]
@[simp] theorem Chip.dueVec_moment (k : Nat) : (s.dueVec k).moment = s.moment := by rw [Chip.dueVec_eq]
@[simp] theorem Chip.dueVec_upTicks (k : Nat) : (s.dueVec k).upTicks = s.upTicks := by rw [Chip.dueVec_eq]
@[simp] theorem Chip.dueVec_freeCnt (k : Nat) : (s.dueVec k).freeCnt = s.freeCnt := by rw [Chip.dueVec_eq]
@[simp] theorem Chip.dueVec_regs (k : Nat) : (s.dueVec k).regs = s.regs := by rw [Chip.dueVec_eq]
@[simp] theorem Chip.dueVec_shadow (k : Nat) : (s.dueVec k).shadow = s.shadow := by rw [Chip.dueVec_eq]
@[simp] theorem Chip.dueVec_staged (k : Nat) : (s.dueVec k).staged = s.staged := by rw [Chip.dueVec_eq]
@[simp] theorem Chip.dueVec_dies (k : Nat) : (s.dueVec k).dies = s.dies := by rw [Chip.dueVec_eq]
@[simp] theorem Chip.dueVec_cals (k : Nat) : (s.dueVec k).cals = s.cals := by rw [Chip.dueVec_eq]
@[simp] theorem Chip.dueVec_slots (k : Nat) : (s.dueVec k).slots = s.slots := by rw [Chip.dueVec_eq]
@[simp] theorem Chip.dueVec_ports (k : Nat) : (s.dueVec k).ports = s.ports := by rw [Chip.dueVec_eq]
@[simp] theorem Chip.dueVec_winFifo (k : Nat) : (s.dueVec k).winFifo = s.winFifo := by rw [Chip.dueVec_eq]
@[simp] theorem Chip.dueVec_frames (k : Nat) : (s.dueVec k).frames = s.frames := by rw [Chip.dueVec_eq]
@[simp] theorem Chip.dueVec_down (k : Nat) : (s.dueVec k).down = s.down := by rw [Chip.dueVec_eq]
@[simp] theorem Chip.dueVec_repeatNext (k : Nat) : (s.dueVec k).repeatNext = s.repeatNext := by rw [Chip.dueVec_eq]
@[simp] theorem Chip.dueVec_lib (k : Nat) : (s.dueVec k).lib = s.lib := by rw [Chip.dueVec_eq]
@[simp] theorem Chip.dueVec_poison (k : Nat) : (s.dueVec k).poison = s.poison := by rw [Chip.dueVec_eq]
@[simp] theorem Chip.dueVec_libQueue (k : Nat) : (s.dueVec k).libQueue = s.libQueue := by rw [Chip.dueVec_eq]
@[simp] theorem Chip.dueVec_libLive (k : Nat) : (s.dueVec k).libLive = s.libLive := by rw [Chip.dueVec_eq]
@[simp] theorem Chip.dueVec_libStaged (k : Nat) : (s.dueVec k).libStaged = s.libStaged := by rw [Chip.dueVec_eq]
@[simp] theorem Chip.dueVec_libSince (k : Nat) : (s.dueVec k).libSince = s.libSince := by rw [Chip.dueVec_eq]
@[simp] theorem Chip.dueVec_libWrote (k : Nat) : (s.dueVec k).libWrote = s.libWrote := by rw [Chip.dueVec_eq]
@[simp] theorem Chip.dueVec_mirrorQueue (k : Nat) : (s.dueVec k).mirrorQueue = s.mirrorQueue := by rw [Chip.dueVec_eq]
@[simp] theorem Chip.dueVec_dirty (k : Nat) : (s.dueVec k).dirty = s.dirty := by rw [Chip.dueVec_eq]
@[simp] theorem Chip.dueVec_trimNew (k : Nat) : (s.dueVec k).trimNew = s.trimNew := by rw [Chip.dueVec_eq]
@[simp] theorem Chip.dueVec_trimBack (k : Nat) : (s.dueVec k).trimBack = s.trimBack := by rw [Chip.dueVec_eq]
@[simp] theorem Chip.dueVec_protMask (k : Nat) : (s.dueVec k).protMask = s.protMask := by rw [Chip.dueVec_eq]
@[simp] theorem Chip.dueVec_loopRecs (k : Nat) : (s.dueVec k).loopRecs = s.loopRecs := by rw [Chip.dueVec_eq]
@[simp] theorem Chip.dueVec_standbyRecs (k : Nat) : (s.dueVec k).standbyRecs = s.standbyRecs := by rw [Chip.dueVec_eq]
@[simp] theorem Chip.dueVec_faultLog (k : Nat) : (s.dueVec k).faultLog = s.faultLog := by rw [Chip.dueVec_eq]
@[simp] theorem Chip.dueVec_commit (k : Nat) : (s.dueVec k).commit = s.commit := by rw [Chip.dueVec_eq]
@[simp] theorem Chip.dueVec_volStage (k : Nat) : (s.dueVec k).volStage = s.volStage := by rw [Chip.dueVec_eq]
@[simp] theorem Chip.dueVec_vols (k : Nat) : (s.dueVec k).vols = s.vols := by rw [Chip.dueVec_eq]
@[simp] theorem Chip.dueVec_volOrder (k : Nat) : (s.dueVec k).volOrder = s.volOrder := by rw [Chip.dueVec_eq]
@[simp] theorem Chip.dueVec_sched (k : Nat) : (s.dueVec k).sched = s.sched := by rw [Chip.dueVec_eq]
@[simp] theorem Chip.dueVec_time (k : Nat) : (s.dueVec k).time = s.time := by rw [Chip.dueVec_eq]
@[simp] theorem Chip.dueVec_fault (k : Nat) : (s.dueVec k).fault = s.fault := by rw [Chip.dueVec_eq]
@[simp] theorem Chip.dueVec_image (k : Nat) : (s.dueVec k).image = s.image := by rw [Chip.dueVec_eq]
@[simp] theorem Chip.dueVec_rets (k : Nat) : (s.dueVec k).rets = s.rets := by rw [Chip.dueVec_eq]
@[simp] theorem Chip.dueVec_snap (k : Nat) : (s.dueVec k).snap = s.snap := by rw [Chip.dueVec_eq]
@[simp] theorem Chip.dueVec_sec (k : Nat) : (s.dueVec k).sec = s.sec := by rw [Chip.dueVec_eq]
@[simp] theorem Chip.dueVec_hosts (k : Nat) : (s.dueVec k).hosts = s.hosts := by rw [Chip.dueVec_eq]
@[simp] theorem Chip.dueVec_latency (k : Nat) : (s.dueVec k).latency = s.latency := by rw [Chip.dueVec_eq]
@[simp] theorem Chip.dueVec_smbus (k : Nat) : (s.dueVec k).smbus = s.smbus := by rw [Chip.dueVec_eq]
@[simp] theorem Chip.dueVec_resetLow (k : Nat) : (s.dueVec k).resetLow = s.resetLow := by rw [Chip.dueVec_eq]
@[simp] theorem Chip.dueVec_started (k : Nat) : (s.dueVec k).started = s.started := by rw [Chip.dueVec_eq]

/-! ### A unit's record changes alone -/

@[simp] theorem Chip.setDie_dieCount (d : Nat) (r : DieRec) : (s.setDie d r).dieCount = s.dieCount := rfl
@[simp] theorem Chip.setDie_moment (d : Nat) (r : DieRec) : (s.setDie d r).moment = s.moment := rfl
@[simp] theorem Chip.setDie_upTicks (d : Nat) (r : DieRec) : (s.setDie d r).upTicks = s.upTicks := rfl
@[simp] theorem Chip.setDie_freeCnt (d : Nat) (r : DieRec) : (s.setDie d r).freeCnt = s.freeCnt := rfl
@[simp] theorem Chip.setDie_regs (d : Nat) (r : DieRec) : (s.setDie d r).regs = s.regs := rfl
@[simp] theorem Chip.setDie_shadow (d : Nat) (r : DieRec) : (s.setDie d r).shadow = s.shadow := rfl
@[simp] theorem Chip.setDie_staged (d : Nat) (r : DieRec) : (s.setDie d r).staged = s.staged := rfl
@[simp] theorem Chip.setDie_cals (d : Nat) (r : DieRec) : (s.setDie d r).cals = s.cals := rfl
@[simp] theorem Chip.setDie_slots (d : Nat) (r : DieRec) : (s.setDie d r).slots = s.slots := rfl
@[simp] theorem Chip.setDie_ports (d : Nat) (r : DieRec) : (s.setDie d r).ports = s.ports := rfl
@[simp] theorem Chip.setDie_winFifo (d : Nat) (r : DieRec) : (s.setDie d r).winFifo = s.winFifo := rfl
@[simp] theorem Chip.setDie_frames (d : Nat) (r : DieRec) : (s.setDie d r).frames = s.frames := rfl
@[simp] theorem Chip.setDie_down (d : Nat) (r : DieRec) : (s.setDie d r).down = s.down := rfl
@[simp] theorem Chip.setDie_repeatNext (d : Nat) (r : DieRec) : (s.setDie d r).repeatNext = s.repeatNext := rfl
@[simp] theorem Chip.setDie_lib (d : Nat) (r : DieRec) : (s.setDie d r).lib = s.lib := rfl
@[simp] theorem Chip.setDie_poison (d : Nat) (r : DieRec) : (s.setDie d r).poison = s.poison := rfl
@[simp] theorem Chip.setDie_libQueue (d : Nat) (r : DieRec) : (s.setDie d r).libQueue = s.libQueue := rfl
@[simp] theorem Chip.setDie_libLive (d : Nat) (r : DieRec) : (s.setDie d r).libLive = s.libLive := rfl
@[simp] theorem Chip.setDie_libStaged (d : Nat) (r : DieRec) : (s.setDie d r).libStaged = s.libStaged := rfl
@[simp] theorem Chip.setDie_libSince (d : Nat) (r : DieRec) : (s.setDie d r).libSince = s.libSince := rfl
@[simp] theorem Chip.setDie_libWrote (d : Nat) (r : DieRec) : (s.setDie d r).libWrote = s.libWrote := rfl
@[simp] theorem Chip.setDie_mirrorQueue (d : Nat) (r : DieRec) : (s.setDie d r).mirrorQueue = s.mirrorQueue := rfl
@[simp] theorem Chip.setDie_dirty (d : Nat) (r : DieRec) : (s.setDie d r).dirty = s.dirty := rfl
@[simp] theorem Chip.setDie_trimNew (d : Nat) (r : DieRec) : (s.setDie d r).trimNew = s.trimNew := rfl
@[simp] theorem Chip.setDie_trimBack (d : Nat) (r : DieRec) : (s.setDie d r).trimBack = s.trimBack := rfl
@[simp] theorem Chip.setDie_protMask (d : Nat) (r : DieRec) : (s.setDie d r).protMask = s.protMask := rfl
@[simp] theorem Chip.setDie_loopRecs (d : Nat) (r : DieRec) : (s.setDie d r).loopRecs = s.loopRecs := rfl
@[simp] theorem Chip.setDie_standbyRecs (d : Nat) (r : DieRec) : (s.setDie d r).standbyRecs = s.standbyRecs := rfl
@[simp] theorem Chip.setDie_due (d : Nat) (r : DieRec) : (s.setDie d r).due = s.due := rfl
@[simp] theorem Chip.setDie_faultLog (d : Nat) (r : DieRec) : (s.setDie d r).faultLog = s.faultLog := rfl
@[simp] theorem Chip.setDie_commit (d : Nat) (r : DieRec) : (s.setDie d r).commit = s.commit := rfl
@[simp] theorem Chip.setDie_volStage (d : Nat) (r : DieRec) : (s.setDie d r).volStage = s.volStage := rfl
@[simp] theorem Chip.setDie_vols (d : Nat) (r : DieRec) : (s.setDie d r).vols = s.vols := rfl
@[simp] theorem Chip.setDie_volOrder (d : Nat) (r : DieRec) : (s.setDie d r).volOrder = s.volOrder := rfl
@[simp] theorem Chip.setDie_sched (d : Nat) (r : DieRec) : (s.setDie d r).sched = s.sched := rfl
@[simp] theorem Chip.setDie_time (d : Nat) (r : DieRec) : (s.setDie d r).time = s.time := rfl
@[simp] theorem Chip.setDie_fault (d : Nat) (r : DieRec) : (s.setDie d r).fault = s.fault := rfl
@[simp] theorem Chip.setDie_image (d : Nat) (r : DieRec) : (s.setDie d r).image = s.image := rfl
@[simp] theorem Chip.setDie_rets (d : Nat) (r : DieRec) : (s.setDie d r).rets = s.rets := rfl
@[simp] theorem Chip.setDie_snap (d : Nat) (r : DieRec) : (s.setDie d r).snap = s.snap := rfl
@[simp] theorem Chip.setDie_sec (d : Nat) (r : DieRec) : (s.setDie d r).sec = s.sec := rfl
@[simp] theorem Chip.setDie_hosts (d : Nat) (r : DieRec) : (s.setDie d r).hosts = s.hosts := rfl
@[simp] theorem Chip.setDie_latency (d : Nat) (r : DieRec) : (s.setDie d r).latency = s.latency := rfl
@[simp] theorem Chip.setDie_smbus (d : Nat) (r : DieRec) : (s.setDie d r).smbus = s.smbus := rfl
@[simp] theorem Chip.setDie_resetLow (d : Nat) (r : DieRec) : (s.setDie d r).resetLow = s.resetLow := rfl
@[simp] theorem Chip.setDie_started (d : Nat) (r : DieRec) : (s.setDie d r).started = s.started := rfl

@[simp] theorem Chip.setDie_reg (d : Nat) (r : DieRec) (b : Nat) : (s.setDie d r).reg b = s.reg b := Chip.reg_congr rfl b
@[simp] theorem Chip.setDie_get (d : Nat) (r : DieRec) (g : Fld) : (s.setDie d r).get g = s.get g := Chip.get_congr g rfl

@[simp] theorem Chip.modDie_dieCount (d : Nat) (h : DieRec → DieRec) : (s.modDie d h).dieCount = s.dieCount := rfl
@[simp] theorem Chip.modDie_moment (d : Nat) (h : DieRec → DieRec) : (s.modDie d h).moment = s.moment := rfl
@[simp] theorem Chip.modDie_upTicks (d : Nat) (h : DieRec → DieRec) : (s.modDie d h).upTicks = s.upTicks := rfl
@[simp] theorem Chip.modDie_freeCnt (d : Nat) (h : DieRec → DieRec) : (s.modDie d h).freeCnt = s.freeCnt := rfl
@[simp] theorem Chip.modDie_regs (d : Nat) (h : DieRec → DieRec) : (s.modDie d h).regs = s.regs := rfl
@[simp] theorem Chip.modDie_shadow (d : Nat) (h : DieRec → DieRec) : (s.modDie d h).shadow = s.shadow := rfl
@[simp] theorem Chip.modDie_staged (d : Nat) (h : DieRec → DieRec) : (s.modDie d h).staged = s.staged := rfl
@[simp] theorem Chip.modDie_cals (d : Nat) (h : DieRec → DieRec) : (s.modDie d h).cals = s.cals := rfl
@[simp] theorem Chip.modDie_slots (d : Nat) (h : DieRec → DieRec) : (s.modDie d h).slots = s.slots := rfl
@[simp] theorem Chip.modDie_ports (d : Nat) (h : DieRec → DieRec) : (s.modDie d h).ports = s.ports := rfl
@[simp] theorem Chip.modDie_winFifo (d : Nat) (h : DieRec → DieRec) : (s.modDie d h).winFifo = s.winFifo := rfl
@[simp] theorem Chip.modDie_frames (d : Nat) (h : DieRec → DieRec) : (s.modDie d h).frames = s.frames := rfl
@[simp] theorem Chip.modDie_down (d : Nat) (h : DieRec → DieRec) : (s.modDie d h).down = s.down := rfl
@[simp] theorem Chip.modDie_repeatNext (d : Nat) (h : DieRec → DieRec) : (s.modDie d h).repeatNext = s.repeatNext := rfl
@[simp] theorem Chip.modDie_lib (d : Nat) (h : DieRec → DieRec) : (s.modDie d h).lib = s.lib := rfl
@[simp] theorem Chip.modDie_poison (d : Nat) (h : DieRec → DieRec) : (s.modDie d h).poison = s.poison := rfl
@[simp] theorem Chip.modDie_libQueue (d : Nat) (h : DieRec → DieRec) : (s.modDie d h).libQueue = s.libQueue := rfl
@[simp] theorem Chip.modDie_libLive (d : Nat) (h : DieRec → DieRec) : (s.modDie d h).libLive = s.libLive := rfl
@[simp] theorem Chip.modDie_libStaged (d : Nat) (h : DieRec → DieRec) : (s.modDie d h).libStaged = s.libStaged := rfl
@[simp] theorem Chip.modDie_libSince (d : Nat) (h : DieRec → DieRec) : (s.modDie d h).libSince = s.libSince := rfl
@[simp] theorem Chip.modDie_libWrote (d : Nat) (h : DieRec → DieRec) : (s.modDie d h).libWrote = s.libWrote := rfl
@[simp] theorem Chip.modDie_mirrorQueue (d : Nat) (h : DieRec → DieRec) : (s.modDie d h).mirrorQueue = s.mirrorQueue := rfl
@[simp] theorem Chip.modDie_dirty (d : Nat) (h : DieRec → DieRec) : (s.modDie d h).dirty = s.dirty := rfl
@[simp] theorem Chip.modDie_trimNew (d : Nat) (h : DieRec → DieRec) : (s.modDie d h).trimNew = s.trimNew := rfl
@[simp] theorem Chip.modDie_trimBack (d : Nat) (h : DieRec → DieRec) : (s.modDie d h).trimBack = s.trimBack := rfl
@[simp] theorem Chip.modDie_protMask (d : Nat) (h : DieRec → DieRec) : (s.modDie d h).protMask = s.protMask := rfl
@[simp] theorem Chip.modDie_loopRecs (d : Nat) (h : DieRec → DieRec) : (s.modDie d h).loopRecs = s.loopRecs := rfl
@[simp] theorem Chip.modDie_standbyRecs (d : Nat) (h : DieRec → DieRec) : (s.modDie d h).standbyRecs = s.standbyRecs := rfl
@[simp] theorem Chip.modDie_due (d : Nat) (h : DieRec → DieRec) : (s.modDie d h).due = s.due := rfl
@[simp] theorem Chip.modDie_faultLog (d : Nat) (h : DieRec → DieRec) : (s.modDie d h).faultLog = s.faultLog := rfl
@[simp] theorem Chip.modDie_commit (d : Nat) (h : DieRec → DieRec) : (s.modDie d h).commit = s.commit := rfl
@[simp] theorem Chip.modDie_volStage (d : Nat) (h : DieRec → DieRec) : (s.modDie d h).volStage = s.volStage := rfl
@[simp] theorem Chip.modDie_vols (d : Nat) (h : DieRec → DieRec) : (s.modDie d h).vols = s.vols := rfl
@[simp] theorem Chip.modDie_volOrder (d : Nat) (h : DieRec → DieRec) : (s.modDie d h).volOrder = s.volOrder := rfl
@[simp] theorem Chip.modDie_sched (d : Nat) (h : DieRec → DieRec) : (s.modDie d h).sched = s.sched := rfl
@[simp] theorem Chip.modDie_time (d : Nat) (h : DieRec → DieRec) : (s.modDie d h).time = s.time := rfl
@[simp] theorem Chip.modDie_fault (d : Nat) (h : DieRec → DieRec) : (s.modDie d h).fault = s.fault := rfl
@[simp] theorem Chip.modDie_image (d : Nat) (h : DieRec → DieRec) : (s.modDie d h).image = s.image := rfl
@[simp] theorem Chip.modDie_rets (d : Nat) (h : DieRec → DieRec) : (s.modDie d h).rets = s.rets := rfl
@[simp] theorem Chip.modDie_snap (d : Nat) (h : DieRec → DieRec) : (s.modDie d h).snap = s.snap := rfl
@[simp] theorem Chip.modDie_sec (d : Nat) (h : DieRec → DieRec) : (s.modDie d h).sec = s.sec := rfl
@[simp] theorem Chip.modDie_hosts (d : Nat) (h : DieRec → DieRec) : (s.modDie d h).hosts = s.hosts := rfl
@[simp] theorem Chip.modDie_latency (d : Nat) (h : DieRec → DieRec) : (s.modDie d h).latency = s.latency := rfl
@[simp] theorem Chip.modDie_smbus (d : Nat) (h : DieRec → DieRec) : (s.modDie d h).smbus = s.smbus := rfl
@[simp] theorem Chip.modDie_resetLow (d : Nat) (h : DieRec → DieRec) : (s.modDie d h).resetLow = s.resetLow := rfl
@[simp] theorem Chip.modDie_started (d : Nat) (h : DieRec → DieRec) : (s.modDie d h).started = s.started := rfl

@[simp] theorem Chip.modDie_reg (d : Nat) (h : DieRec → DieRec) (b : Nat) : (s.modDie d h).reg b = s.reg b := Chip.reg_congr rfl b
@[simp] theorem Chip.modDie_get (d : Nat) (h : DieRec → DieRec) (g : Fld) : (s.modDie d h).get g = s.get g := Chip.get_congr g rfl

@[simp] theorem Chip.modFault_dieCount (h : FaultRec → FaultRec) : (s.modFault h).dieCount = s.dieCount := rfl
@[simp] theorem Chip.modFault_moment (h : FaultRec → FaultRec) : (s.modFault h).moment = s.moment := rfl
@[simp] theorem Chip.modFault_upTicks (h : FaultRec → FaultRec) : (s.modFault h).upTicks = s.upTicks := rfl
@[simp] theorem Chip.modFault_freeCnt (h : FaultRec → FaultRec) : (s.modFault h).freeCnt = s.freeCnt := rfl
@[simp] theorem Chip.modFault_regs (h : FaultRec → FaultRec) : (s.modFault h).regs = s.regs := rfl
@[simp] theorem Chip.modFault_shadow (h : FaultRec → FaultRec) : (s.modFault h).shadow = s.shadow := rfl
@[simp] theorem Chip.modFault_staged (h : FaultRec → FaultRec) : (s.modFault h).staged = s.staged := rfl
@[simp] theorem Chip.modFault_dies (h : FaultRec → FaultRec) : (s.modFault h).dies = s.dies := rfl
@[simp] theorem Chip.modFault_cals (h : FaultRec → FaultRec) : (s.modFault h).cals = s.cals := rfl
@[simp] theorem Chip.modFault_slots (h : FaultRec → FaultRec) : (s.modFault h).slots = s.slots := rfl
@[simp] theorem Chip.modFault_ports (h : FaultRec → FaultRec) : (s.modFault h).ports = s.ports := rfl
@[simp] theorem Chip.modFault_winFifo (h : FaultRec → FaultRec) : (s.modFault h).winFifo = s.winFifo := rfl
@[simp] theorem Chip.modFault_frames (h : FaultRec → FaultRec) : (s.modFault h).frames = s.frames := rfl
@[simp] theorem Chip.modFault_down (h : FaultRec → FaultRec) : (s.modFault h).down = s.down := rfl
@[simp] theorem Chip.modFault_repeatNext (h : FaultRec → FaultRec) : (s.modFault h).repeatNext = s.repeatNext := rfl
@[simp] theorem Chip.modFault_lib (h : FaultRec → FaultRec) : (s.modFault h).lib = s.lib := rfl
@[simp] theorem Chip.modFault_poison (h : FaultRec → FaultRec) : (s.modFault h).poison = s.poison := rfl
@[simp] theorem Chip.modFault_libQueue (h : FaultRec → FaultRec) : (s.modFault h).libQueue = s.libQueue := rfl
@[simp] theorem Chip.modFault_libLive (h : FaultRec → FaultRec) : (s.modFault h).libLive = s.libLive := rfl
@[simp] theorem Chip.modFault_libStaged (h : FaultRec → FaultRec) : (s.modFault h).libStaged = s.libStaged := rfl
@[simp] theorem Chip.modFault_libSince (h : FaultRec → FaultRec) : (s.modFault h).libSince = s.libSince := rfl
@[simp] theorem Chip.modFault_libWrote (h : FaultRec → FaultRec) : (s.modFault h).libWrote = s.libWrote := rfl
@[simp] theorem Chip.modFault_mirrorQueue (h : FaultRec → FaultRec) : (s.modFault h).mirrorQueue = s.mirrorQueue := rfl
@[simp] theorem Chip.modFault_dirty (h : FaultRec → FaultRec) : (s.modFault h).dirty = s.dirty := rfl
@[simp] theorem Chip.modFault_trimNew (h : FaultRec → FaultRec) : (s.modFault h).trimNew = s.trimNew := rfl
@[simp] theorem Chip.modFault_trimBack (h : FaultRec → FaultRec) : (s.modFault h).trimBack = s.trimBack := rfl
@[simp] theorem Chip.modFault_protMask (h : FaultRec → FaultRec) : (s.modFault h).protMask = s.protMask := rfl
@[simp] theorem Chip.modFault_loopRecs (h : FaultRec → FaultRec) : (s.modFault h).loopRecs = s.loopRecs := rfl
@[simp] theorem Chip.modFault_standbyRecs (h : FaultRec → FaultRec) : (s.modFault h).standbyRecs = s.standbyRecs := rfl
@[simp] theorem Chip.modFault_due (h : FaultRec → FaultRec) : (s.modFault h).due = s.due := rfl
@[simp] theorem Chip.modFault_faultLog (h : FaultRec → FaultRec) : (s.modFault h).faultLog = s.faultLog := rfl
@[simp] theorem Chip.modFault_commit (h : FaultRec → FaultRec) : (s.modFault h).commit = s.commit := rfl
@[simp] theorem Chip.modFault_volStage (h : FaultRec → FaultRec) : (s.modFault h).volStage = s.volStage := rfl
@[simp] theorem Chip.modFault_vols (h : FaultRec → FaultRec) : (s.modFault h).vols = s.vols := rfl
@[simp] theorem Chip.modFault_volOrder (h : FaultRec → FaultRec) : (s.modFault h).volOrder = s.volOrder := rfl
@[simp] theorem Chip.modFault_sched (h : FaultRec → FaultRec) : (s.modFault h).sched = s.sched := rfl
@[simp] theorem Chip.modFault_time (h : FaultRec → FaultRec) : (s.modFault h).time = s.time := rfl
@[simp] theorem Chip.modFault_image (h : FaultRec → FaultRec) : (s.modFault h).image = s.image := rfl
@[simp] theorem Chip.modFault_rets (h : FaultRec → FaultRec) : (s.modFault h).rets = s.rets := rfl
@[simp] theorem Chip.modFault_snap (h : FaultRec → FaultRec) : (s.modFault h).snap = s.snap := rfl
@[simp] theorem Chip.modFault_sec (h : FaultRec → FaultRec) : (s.modFault h).sec = s.sec := rfl
@[simp] theorem Chip.modFault_hosts (h : FaultRec → FaultRec) : (s.modFault h).hosts = s.hosts := rfl
@[simp] theorem Chip.modFault_latency (h : FaultRec → FaultRec) : (s.modFault h).latency = s.latency := rfl
@[simp] theorem Chip.modFault_smbus (h : FaultRec → FaultRec) : (s.modFault h).smbus = s.smbus := rfl
@[simp] theorem Chip.modFault_resetLow (h : FaultRec → FaultRec) : (s.modFault h).resetLow = s.resetLow := rfl
@[simp] theorem Chip.modFault_started (h : FaultRec → FaultRec) : (s.modFault h).started = s.started := rfl

@[simp] theorem Chip.modFault_reg (h : FaultRec → FaultRec) (b : Nat) : (s.modFault h).reg b = s.reg b := Chip.reg_congr rfl b
@[simp] theorem Chip.modFault_get (h : FaultRec → FaultRec) (g : Fld) : (s.modFault h).get g = s.get g := Chip.get_congr g rfl

@[simp] theorem Chip.setShadow_dieCount (a : Nat) (v : Option Word) : (s.setShadow a v).dieCount = s.dieCount := rfl
@[simp] theorem Chip.setShadow_moment (a : Nat) (v : Option Word) : (s.setShadow a v).moment = s.moment := rfl
@[simp] theorem Chip.setShadow_upTicks (a : Nat) (v : Option Word) : (s.setShadow a v).upTicks = s.upTicks := rfl
@[simp] theorem Chip.setShadow_freeCnt (a : Nat) (v : Option Word) : (s.setShadow a v).freeCnt = s.freeCnt := rfl
@[simp] theorem Chip.setShadow_regs (a : Nat) (v : Option Word) : (s.setShadow a v).regs = s.regs := rfl
@[simp] theorem Chip.setShadow_staged (a : Nat) (v : Option Word) : (s.setShadow a v).staged = s.staged := rfl
@[simp] theorem Chip.setShadow_dies (a : Nat) (v : Option Word) : (s.setShadow a v).dies = s.dies := rfl
@[simp] theorem Chip.setShadow_cals (a : Nat) (v : Option Word) : (s.setShadow a v).cals = s.cals := rfl
@[simp] theorem Chip.setShadow_slots (a : Nat) (v : Option Word) : (s.setShadow a v).slots = s.slots := rfl
@[simp] theorem Chip.setShadow_ports (a : Nat) (v : Option Word) : (s.setShadow a v).ports = s.ports := rfl
@[simp] theorem Chip.setShadow_winFifo (a : Nat) (v : Option Word) : (s.setShadow a v).winFifo = s.winFifo := rfl
@[simp] theorem Chip.setShadow_frames (a : Nat) (v : Option Word) : (s.setShadow a v).frames = s.frames := rfl
@[simp] theorem Chip.setShadow_down (a : Nat) (v : Option Word) : (s.setShadow a v).down = s.down := rfl
@[simp] theorem Chip.setShadow_repeatNext (a : Nat) (v : Option Word) : (s.setShadow a v).repeatNext = s.repeatNext := rfl
@[simp] theorem Chip.setShadow_lib (a : Nat) (v : Option Word) : (s.setShadow a v).lib = s.lib := rfl
@[simp] theorem Chip.setShadow_poison (a : Nat) (v : Option Word) : (s.setShadow a v).poison = s.poison := rfl
@[simp] theorem Chip.setShadow_libQueue (a : Nat) (v : Option Word) : (s.setShadow a v).libQueue = s.libQueue := rfl
@[simp] theorem Chip.setShadow_libLive (a : Nat) (v : Option Word) : (s.setShadow a v).libLive = s.libLive := rfl
@[simp] theorem Chip.setShadow_libStaged (a : Nat) (v : Option Word) : (s.setShadow a v).libStaged = s.libStaged := rfl
@[simp] theorem Chip.setShadow_libSince (a : Nat) (v : Option Word) : (s.setShadow a v).libSince = s.libSince := rfl
@[simp] theorem Chip.setShadow_libWrote (a : Nat) (v : Option Word) : (s.setShadow a v).libWrote = s.libWrote := rfl
@[simp] theorem Chip.setShadow_mirrorQueue (a : Nat) (v : Option Word) : (s.setShadow a v).mirrorQueue = s.mirrorQueue := rfl
@[simp] theorem Chip.setShadow_dirty (a : Nat) (v : Option Word) : (s.setShadow a v).dirty = s.dirty := rfl
@[simp] theorem Chip.setShadow_trimNew (a : Nat) (v : Option Word) : (s.setShadow a v).trimNew = s.trimNew := rfl
@[simp] theorem Chip.setShadow_trimBack (a : Nat) (v : Option Word) : (s.setShadow a v).trimBack = s.trimBack := rfl
@[simp] theorem Chip.setShadow_protMask (a : Nat) (v : Option Word) : (s.setShadow a v).protMask = s.protMask := rfl
@[simp] theorem Chip.setShadow_loopRecs (a : Nat) (v : Option Word) : (s.setShadow a v).loopRecs = s.loopRecs := rfl
@[simp] theorem Chip.setShadow_standbyRecs (a : Nat) (v : Option Word) : (s.setShadow a v).standbyRecs = s.standbyRecs := rfl
@[simp] theorem Chip.setShadow_due (a : Nat) (v : Option Word) : (s.setShadow a v).due = s.due := rfl
@[simp] theorem Chip.setShadow_faultLog (a : Nat) (v : Option Word) : (s.setShadow a v).faultLog = s.faultLog := rfl
@[simp] theorem Chip.setShadow_commit (a : Nat) (v : Option Word) : (s.setShadow a v).commit = s.commit := rfl
@[simp] theorem Chip.setShadow_volStage (a : Nat) (v : Option Word) : (s.setShadow a v).volStage = s.volStage := rfl
@[simp] theorem Chip.setShadow_vols (a : Nat) (v : Option Word) : (s.setShadow a v).vols = s.vols := rfl
@[simp] theorem Chip.setShadow_volOrder (a : Nat) (v : Option Word) : (s.setShadow a v).volOrder = s.volOrder := rfl
@[simp] theorem Chip.setShadow_sched (a : Nat) (v : Option Word) : (s.setShadow a v).sched = s.sched := rfl
@[simp] theorem Chip.setShadow_time (a : Nat) (v : Option Word) : (s.setShadow a v).time = s.time := rfl
@[simp] theorem Chip.setShadow_fault (a : Nat) (v : Option Word) : (s.setShadow a v).fault = s.fault := rfl
@[simp] theorem Chip.setShadow_image (a : Nat) (v : Option Word) : (s.setShadow a v).image = s.image := rfl
@[simp] theorem Chip.setShadow_rets (a : Nat) (v : Option Word) : (s.setShadow a v).rets = s.rets := rfl
@[simp] theorem Chip.setShadow_snap (a : Nat) (v : Option Word) : (s.setShadow a v).snap = s.snap := rfl
@[simp] theorem Chip.setShadow_sec (a : Nat) (v : Option Word) : (s.setShadow a v).sec = s.sec := rfl
@[simp] theorem Chip.setShadow_hosts (a : Nat) (v : Option Word) : (s.setShadow a v).hosts = s.hosts := rfl
@[simp] theorem Chip.setShadow_latency (a : Nat) (v : Option Word) : (s.setShadow a v).latency = s.latency := rfl
@[simp] theorem Chip.setShadow_smbus (a : Nat) (v : Option Word) : (s.setShadow a v).smbus = s.smbus := rfl
@[simp] theorem Chip.setShadow_resetLow (a : Nat) (v : Option Word) : (s.setShadow a v).resetLow = s.resetLow := rfl
@[simp] theorem Chip.setShadow_started (a : Nat) (v : Option Word) : (s.setShadow a v).started = s.started := rfl

@[simp] theorem Chip.setShadow_reg (a : Nat) (v : Option Word) (b : Nat) : (s.setShadow a v).reg b = s.reg b := Chip.reg_congr rfl b
@[simp] theorem Chip.setShadow_get (a : Nat) (v : Option Word) (g : Fld) : (s.setShadow a v).get g = s.get g := Chip.get_congr g rfl

@[simp] theorem Chip.setStaged_dieCount (a : Nat) (v : Option Word) : (s.setStaged a v).dieCount = s.dieCount := rfl
@[simp] theorem Chip.setStaged_moment (a : Nat) (v : Option Word) : (s.setStaged a v).moment = s.moment := rfl
@[simp] theorem Chip.setStaged_upTicks (a : Nat) (v : Option Word) : (s.setStaged a v).upTicks = s.upTicks := rfl
@[simp] theorem Chip.setStaged_freeCnt (a : Nat) (v : Option Word) : (s.setStaged a v).freeCnt = s.freeCnt := rfl
@[simp] theorem Chip.setStaged_regs (a : Nat) (v : Option Word) : (s.setStaged a v).regs = s.regs := rfl
@[simp] theorem Chip.setStaged_shadow (a : Nat) (v : Option Word) : (s.setStaged a v).shadow = s.shadow := rfl
@[simp] theorem Chip.setStaged_dies (a : Nat) (v : Option Word) : (s.setStaged a v).dies = s.dies := rfl
@[simp] theorem Chip.setStaged_cals (a : Nat) (v : Option Word) : (s.setStaged a v).cals = s.cals := rfl
@[simp] theorem Chip.setStaged_slots (a : Nat) (v : Option Word) : (s.setStaged a v).slots = s.slots := rfl
@[simp] theorem Chip.setStaged_ports (a : Nat) (v : Option Word) : (s.setStaged a v).ports = s.ports := rfl
@[simp] theorem Chip.setStaged_winFifo (a : Nat) (v : Option Word) : (s.setStaged a v).winFifo = s.winFifo := rfl
@[simp] theorem Chip.setStaged_frames (a : Nat) (v : Option Word) : (s.setStaged a v).frames = s.frames := rfl
@[simp] theorem Chip.setStaged_down (a : Nat) (v : Option Word) : (s.setStaged a v).down = s.down := rfl
@[simp] theorem Chip.setStaged_repeatNext (a : Nat) (v : Option Word) : (s.setStaged a v).repeatNext = s.repeatNext := rfl
@[simp] theorem Chip.setStaged_lib (a : Nat) (v : Option Word) : (s.setStaged a v).lib = s.lib := rfl
@[simp] theorem Chip.setStaged_poison (a : Nat) (v : Option Word) : (s.setStaged a v).poison = s.poison := rfl
@[simp] theorem Chip.setStaged_libQueue (a : Nat) (v : Option Word) : (s.setStaged a v).libQueue = s.libQueue := rfl
@[simp] theorem Chip.setStaged_libLive (a : Nat) (v : Option Word) : (s.setStaged a v).libLive = s.libLive := rfl
@[simp] theorem Chip.setStaged_libStaged (a : Nat) (v : Option Word) : (s.setStaged a v).libStaged = s.libStaged := rfl
@[simp] theorem Chip.setStaged_libSince (a : Nat) (v : Option Word) : (s.setStaged a v).libSince = s.libSince := rfl
@[simp] theorem Chip.setStaged_libWrote (a : Nat) (v : Option Word) : (s.setStaged a v).libWrote = s.libWrote := rfl
@[simp] theorem Chip.setStaged_mirrorQueue (a : Nat) (v : Option Word) : (s.setStaged a v).mirrorQueue = s.mirrorQueue := rfl
@[simp] theorem Chip.setStaged_dirty (a : Nat) (v : Option Word) : (s.setStaged a v).dirty = s.dirty := rfl
@[simp] theorem Chip.setStaged_trimNew (a : Nat) (v : Option Word) : (s.setStaged a v).trimNew = s.trimNew := rfl
@[simp] theorem Chip.setStaged_trimBack (a : Nat) (v : Option Word) : (s.setStaged a v).trimBack = s.trimBack := rfl
@[simp] theorem Chip.setStaged_protMask (a : Nat) (v : Option Word) : (s.setStaged a v).protMask = s.protMask := rfl
@[simp] theorem Chip.setStaged_loopRecs (a : Nat) (v : Option Word) : (s.setStaged a v).loopRecs = s.loopRecs := rfl
@[simp] theorem Chip.setStaged_standbyRecs (a : Nat) (v : Option Word) : (s.setStaged a v).standbyRecs = s.standbyRecs := rfl
@[simp] theorem Chip.setStaged_due (a : Nat) (v : Option Word) : (s.setStaged a v).due = s.due := rfl
@[simp] theorem Chip.setStaged_faultLog (a : Nat) (v : Option Word) : (s.setStaged a v).faultLog = s.faultLog := rfl
@[simp] theorem Chip.setStaged_commit (a : Nat) (v : Option Word) : (s.setStaged a v).commit = s.commit := rfl
@[simp] theorem Chip.setStaged_volStage (a : Nat) (v : Option Word) : (s.setStaged a v).volStage = s.volStage := rfl
@[simp] theorem Chip.setStaged_vols (a : Nat) (v : Option Word) : (s.setStaged a v).vols = s.vols := rfl
@[simp] theorem Chip.setStaged_volOrder (a : Nat) (v : Option Word) : (s.setStaged a v).volOrder = s.volOrder := rfl
@[simp] theorem Chip.setStaged_sched (a : Nat) (v : Option Word) : (s.setStaged a v).sched = s.sched := rfl
@[simp] theorem Chip.setStaged_time (a : Nat) (v : Option Word) : (s.setStaged a v).time = s.time := rfl
@[simp] theorem Chip.setStaged_fault (a : Nat) (v : Option Word) : (s.setStaged a v).fault = s.fault := rfl
@[simp] theorem Chip.setStaged_image (a : Nat) (v : Option Word) : (s.setStaged a v).image = s.image := rfl
@[simp] theorem Chip.setStaged_rets (a : Nat) (v : Option Word) : (s.setStaged a v).rets = s.rets := rfl
@[simp] theorem Chip.setStaged_snap (a : Nat) (v : Option Word) : (s.setStaged a v).snap = s.snap := rfl
@[simp] theorem Chip.setStaged_sec (a : Nat) (v : Option Word) : (s.setStaged a v).sec = s.sec := rfl
@[simp] theorem Chip.setStaged_hosts (a : Nat) (v : Option Word) : (s.setStaged a v).hosts = s.hosts := rfl
@[simp] theorem Chip.setStaged_latency (a : Nat) (v : Option Word) : (s.setStaged a v).latency = s.latency := rfl
@[simp] theorem Chip.setStaged_smbus (a : Nat) (v : Option Word) : (s.setStaged a v).smbus = s.smbus := rfl
@[simp] theorem Chip.setStaged_resetLow (a : Nat) (v : Option Word) : (s.setStaged a v).resetLow = s.resetLow := rfl
@[simp] theorem Chip.setStaged_started (a : Nat) (v : Option Word) : (s.setStaged a v).started = s.started := rfl

@[simp] theorem Chip.setStaged_reg (a : Nat) (v : Option Word) (b : Nat) : (s.setStaged a v).reg b = s.reg b := Chip.reg_congr rfl b
@[simp] theorem Chip.setStaged_get (a : Nat) (v : Option Word) (g : Fld) : (s.setStaged a v).get g = s.get g := Chip.get_congr g rfl

@[simp] theorem Chip.at_dieCount (t : Nat) : (s.at t).dieCount = s.dieCount := rfl
@[simp] theorem Chip.at_upTicks (t : Nat) : (s.at t).upTicks = s.upTicks := rfl
@[simp] theorem Chip.at_freeCnt (t : Nat) : (s.at t).freeCnt = s.freeCnt := rfl
@[simp] theorem Chip.at_regs (t : Nat) : (s.at t).regs = s.regs := rfl
@[simp] theorem Chip.at_shadow (t : Nat) : (s.at t).shadow = s.shadow := rfl
@[simp] theorem Chip.at_staged (t : Nat) : (s.at t).staged = s.staged := rfl
@[simp] theorem Chip.at_dies (t : Nat) : (s.at t).dies = s.dies := rfl
@[simp] theorem Chip.at_cals (t : Nat) : (s.at t).cals = s.cals := rfl
@[simp] theorem Chip.at_slots (t : Nat) : (s.at t).slots = s.slots := rfl
@[simp] theorem Chip.at_ports (t : Nat) : (s.at t).ports = s.ports := rfl
@[simp] theorem Chip.at_winFifo (t : Nat) : (s.at t).winFifo = s.winFifo := rfl
@[simp] theorem Chip.at_frames (t : Nat) : (s.at t).frames = s.frames := rfl
@[simp] theorem Chip.at_down (t : Nat) : (s.at t).down = s.down := rfl
@[simp] theorem Chip.at_repeatNext (t : Nat) : (s.at t).repeatNext = s.repeatNext := rfl
@[simp] theorem Chip.at_lib (t : Nat) : (s.at t).lib = s.lib := rfl
@[simp] theorem Chip.at_poison (t : Nat) : (s.at t).poison = s.poison := rfl
@[simp] theorem Chip.at_libQueue (t : Nat) : (s.at t).libQueue = s.libQueue := rfl
@[simp] theorem Chip.at_libLive (t : Nat) : (s.at t).libLive = s.libLive := rfl
@[simp] theorem Chip.at_libStaged (t : Nat) : (s.at t).libStaged = s.libStaged := rfl
@[simp] theorem Chip.at_libSince (t : Nat) : (s.at t).libSince = s.libSince := rfl
@[simp] theorem Chip.at_libWrote (t : Nat) : (s.at t).libWrote = s.libWrote := rfl
@[simp] theorem Chip.at_mirrorQueue (t : Nat) : (s.at t).mirrorQueue = s.mirrorQueue := rfl
@[simp] theorem Chip.at_dirty (t : Nat) : (s.at t).dirty = s.dirty := rfl
@[simp] theorem Chip.at_trimNew (t : Nat) : (s.at t).trimNew = s.trimNew := rfl
@[simp] theorem Chip.at_trimBack (t : Nat) : (s.at t).trimBack = s.trimBack := rfl
@[simp] theorem Chip.at_protMask (t : Nat) : (s.at t).protMask = s.protMask := rfl
@[simp] theorem Chip.at_loopRecs (t : Nat) : (s.at t).loopRecs = s.loopRecs := rfl
@[simp] theorem Chip.at_standbyRecs (t : Nat) : (s.at t).standbyRecs = s.standbyRecs := rfl
@[simp] theorem Chip.at_due (t : Nat) : (s.at t).due = s.due := rfl
@[simp] theorem Chip.at_faultLog (t : Nat) : (s.at t).faultLog = s.faultLog := rfl
@[simp] theorem Chip.at_commit (t : Nat) : (s.at t).commit = s.commit := rfl
@[simp] theorem Chip.at_volStage (t : Nat) : (s.at t).volStage = s.volStage := rfl
@[simp] theorem Chip.at_vols (t : Nat) : (s.at t).vols = s.vols := rfl
@[simp] theorem Chip.at_volOrder (t : Nat) : (s.at t).volOrder = s.volOrder := rfl
@[simp] theorem Chip.at_sched (t : Nat) : (s.at t).sched = s.sched := rfl
@[simp] theorem Chip.at_time (t : Nat) : (s.at t).time = s.time := rfl
@[simp] theorem Chip.at_fault (t : Nat) : (s.at t).fault = s.fault := rfl
@[simp] theorem Chip.at_image (t : Nat) : (s.at t).image = s.image := rfl
@[simp] theorem Chip.at_rets (t : Nat) : (s.at t).rets = s.rets := rfl
@[simp] theorem Chip.at_snap (t : Nat) : (s.at t).snap = s.snap := rfl
@[simp] theorem Chip.at_sec (t : Nat) : (s.at t).sec = s.sec := rfl
@[simp] theorem Chip.at_hosts (t : Nat) : (s.at t).hosts = s.hosts := rfl
@[simp] theorem Chip.at_latency (t : Nat) : (s.at t).latency = s.latency := rfl
@[simp] theorem Chip.at_smbus (t : Nat) : (s.at t).smbus = s.smbus := rfl
@[simp] theorem Chip.at_resetLow (t : Nat) : (s.at t).resetLow = s.resetLow := rfl
@[simp] theorem Chip.at_started (t : Nat) : (s.at t).started = s.started := rfl

@[simp] theorem Chip.at_reg (t : Nat) (b : Nat) : (s.at t).reg b = s.reg b := Chip.reg_congr rfl b
@[simp] theorem Chip.at_get (t : Nat) (g : Fld) : (s.at t).get g = s.get g := Chip.get_congr g rfl

@[simp] theorem Chip.took_dieCount  : (s.took).dieCount = s.dieCount := rfl
@[simp] theorem Chip.took_moment  : (s.took).moment = s.moment := rfl
@[simp] theorem Chip.took_upTicks  : (s.took).upTicks = s.upTicks := rfl
@[simp] theorem Chip.took_regs  : (s.took).regs = s.regs := rfl
@[simp] theorem Chip.took_shadow  : (s.took).shadow = s.shadow := rfl
@[simp] theorem Chip.took_staged  : (s.took).staged = s.staged := rfl
@[simp] theorem Chip.took_dies  : (s.took).dies = s.dies := rfl
@[simp] theorem Chip.took_cals  : (s.took).cals = s.cals := rfl
@[simp] theorem Chip.took_slots  : (s.took).slots = s.slots := rfl
@[simp] theorem Chip.took_ports  : (s.took).ports = s.ports := rfl
@[simp] theorem Chip.took_winFifo  : (s.took).winFifo = s.winFifo := rfl
@[simp] theorem Chip.took_frames  : (s.took).frames = s.frames := rfl
@[simp] theorem Chip.took_down  : (s.took).down = s.down := rfl
@[simp] theorem Chip.took_repeatNext  : (s.took).repeatNext = s.repeatNext := rfl
@[simp] theorem Chip.took_lib  : (s.took).lib = s.lib := rfl
@[simp] theorem Chip.took_poison  : (s.took).poison = s.poison := rfl
@[simp] theorem Chip.took_libQueue  : (s.took).libQueue = s.libQueue := rfl
@[simp] theorem Chip.took_libLive  : (s.took).libLive = s.libLive := rfl
@[simp] theorem Chip.took_libStaged  : (s.took).libStaged = s.libStaged := rfl
@[simp] theorem Chip.took_libSince  : (s.took).libSince = s.libSince := rfl
@[simp] theorem Chip.took_libWrote  : (s.took).libWrote = s.libWrote := rfl
@[simp] theorem Chip.took_mirrorQueue  : (s.took).mirrorQueue = s.mirrorQueue := rfl
@[simp] theorem Chip.took_dirty  : (s.took).dirty = s.dirty := rfl
@[simp] theorem Chip.took_trimNew  : (s.took).trimNew = s.trimNew := rfl
@[simp] theorem Chip.took_trimBack  : (s.took).trimBack = s.trimBack := rfl
@[simp] theorem Chip.took_protMask  : (s.took).protMask = s.protMask := rfl
@[simp] theorem Chip.took_loopRecs  : (s.took).loopRecs = s.loopRecs := rfl
@[simp] theorem Chip.took_standbyRecs  : (s.took).standbyRecs = s.standbyRecs := rfl
@[simp] theorem Chip.took_due  : (s.took).due = s.due := rfl
@[simp] theorem Chip.took_faultLog  : (s.took).faultLog = s.faultLog := rfl
@[simp] theorem Chip.took_commit  : (s.took).commit = s.commit := rfl
@[simp] theorem Chip.took_volStage  : (s.took).volStage = s.volStage := rfl
@[simp] theorem Chip.took_vols  : (s.took).vols = s.vols := rfl
@[simp] theorem Chip.took_volOrder  : (s.took).volOrder = s.volOrder := rfl
@[simp] theorem Chip.took_sched  : (s.took).sched = s.sched := rfl
@[simp] theorem Chip.took_time  : (s.took).time = s.time := rfl
@[simp] theorem Chip.took_fault  : (s.took).fault = s.fault := rfl
@[simp] theorem Chip.took_image  : (s.took).image = s.image := rfl
@[simp] theorem Chip.took_rets  : (s.took).rets = s.rets := rfl
@[simp] theorem Chip.took_snap  : (s.took).snap = s.snap := rfl
@[simp] theorem Chip.took_sec  : (s.took).sec = s.sec := rfl
@[simp] theorem Chip.took_hosts  : (s.took).hosts = s.hosts := rfl
@[simp] theorem Chip.took_latency  : (s.took).latency = s.latency := rfl
@[simp] theorem Chip.took_smbus  : (s.took).smbus = s.smbus := rfl
@[simp] theorem Chip.took_resetLow  : (s.took).resetLow = s.resetLow := rfl
@[simp] theorem Chip.took_started  : (s.took).started = s.started := rfl

@[simp] theorem Chip.took_reg  (b : Nat) : (s.took).reg b = s.reg b := Chip.reg_congr rfl b
@[simp] theorem Chip.took_get  (g : Fld) : (s.took).get g = s.get g := Chip.get_congr g rfl

/-! ### Reads after writes -/

@[simp] theorem Chip.at_moment (t : Nat) : (s.at t).moment = t := rfl
@[simp] theorem Chip.took_freeCnt : s.took.freeCnt = s.freeCnt + 1 := rfl
@[simp] theorem Chip.modFault_fault (h : FaultRec → FaultRec) : (s.modFault h).fault = h s.fault := rfl

@[simp] theorem Chip.die_setDie_same (d : Nat) (r : DieRec) : (s.setDie d r).die d = r := tabGet_put_same _ _ _
theorem Chip.die_setDie_ne {d e : Nat} (r : DieRec) (h : e ≠ d) : (s.setDie d r).die e = s.die e := tabGet_put_ne _ _ h
@[simp] theorem Chip.die_modDie_same (d : Nat) (h : DieRec → DieRec) : (s.modDie d h).die d = h (s.die d) :=
  tabGet_put_same _ _ _
theorem Chip.die_modDie_ne {d e : Nat} (h : DieRec → DieRec) (he : e ≠ d) : (s.modDie d h).die e = s.die e :=
  tabGet_put_ne _ _ he

/-- The record of a die is what the table of dies holds. -/
theorem Chip.die_congr {s t : Chip} (h : t.dies = s.dies) (d : Nat) : t.die d = s.die d := by
  unfold Chip.die; rw [h]

@[simp] theorem Chip.set_die (g : Fld) (v d : Nat) : (s.set g v).die d = s.die d := Chip.die_congr (Chip.set_dies ..) d
@[simp] theorem Chip.setB_die (g : Fld) (b : Bool) (d : Nat) : (s.setB g b).die d = s.die d := Chip.set_die ..
@[simp] theorem Chip.setI_die (g : Fld) (v : Int) (d : Nat) : (s.setI g v).die d = s.die d := Chip.set_die ..
@[simp] theorem Chip.bump_die (g : Fld) (k d : Nat) : (s.bump g k).die d = s.die d := Chip.set_die ..
@[simp] theorem Chip.raise_die (g : Fld) (d : Nat) : (s.raise g).die d = s.die d := Chip.die_congr (Chip.raise_dies ..) d
@[simp] theorem Chip.setReg_die (a : Nat) (v : Word) (d : Nat) : (s.setReg a v).die d = s.die d := Chip.die_congr (Chip.setReg_dies ..) d

/-! ### Fields after the other register writes -/

theorem Chip.get_setB_same (g : Fld) (b : Bool) (h : g.lo + g.w ≤ 64) (h1 : 1 ≤ g.w) :
    (s.setB g b).get g = if b then 1 else 0 := by
  unfold Chip.setB
  rw [Chip.get_set_same _ _ _ h]
  have : 2 ≤ 2 ^ g.w := by
    calc 2 = 2 ^ 1 := rfl
      _ ≤ 2 ^ g.w := Nat.pow_le_pow_right (by decide) h1
  exact Nat.mod_eq_of_lt (by split <;> omega)

theorem Chip.get_setI_same (g : Fld) (v : Int) (h : g.lo + g.w ≤ 64) (h0 : -(2 ^ g.w : Nat) ≤ 2 * v)
    (h1 : 2 * v < (2 ^ g.w : Nat)) : (s.setI g v).getI g = v := by
  unfold Chip.getI Chip.setI
  rw [Chip.get_set_same _ _ _ h]
  have e : signedOf g.w (unsignedOf g.w v % 2 ^ g.w) = signedOf g.w (unsignedOf g.w v) := by
    unfold signedOf; rw [Nat.mod_mod]
  rw [e, signedOf_unsignedOf h0 h1]

theorem Chip.get_lt (g : Fld) : s.get g < 2 ^ g.w := bitsOf_lt ..

/-- A counter after one more count: it saturates. -/
theorem Chip.get_bump_same (g : Fld) (k : Nat) (h : g.lo + g.w ≤ 64) :
    (s.bump g k).get g = min (s.get g + k) (2 ^ g.w - 1) := by
  unfold Chip.bump
  rw [Chip.get_set_same _ _ _ h]
  have := Nat.two_pow_pos g.w
  exact Nat.mod_eq_of_lt (by omega)

theorem Chip.get_setB_ne {f g : Fld} (b : Bool) (h : f.Apart g) : (s.setB f b).get g = s.get g := Chip.get_set_ne _ _ h
theorem Chip.get_setI_ne {f g : Fld} (v : Int) (h : f.Apart g) : (s.setI f v).get g = s.get g := Chip.get_set_ne _ _ h
theorem Chip.get_bump_ne {f g : Fld} (k : Nat) (h : f.Apart g) : (s.bump f k).get g = s.get g := Chip.get_set_ne _ _ h

theorem Chip.reg_raise_ne {f : Fld} {b : Nat} (h : b ≠ f.addr) : (s.raise f).reg b = s.reg b := by
  unfold Chip.raise Chip.raiseBit
  split
  · rfl
  · rw [Chip.dueVecs_eq]
    exact Chip.reg_setReg_ne _ _ h

theorem Chip.reg_raise_same (f : Fld) :
    (s.raise f).reg f.addr = BitVec.ofNat 32 (maskSet (s.reg f.addr).toNat f.lo) := by
  unfold Chip.raise Chip.raiseBit
  split
  · next hb =>
    have e : maskSet (s.reg f.addr).toNat f.lo = (s.reg f.addr).toNat := by
      refine Nat.eq_of_testBit_eq fun i => ?_
      rw [maskSet, Nat.testBit_or, Nat.testBit_two_pow]
      by_cases hi : f.lo = i
      · subst hi
        simpa [maskBit] using hb
      · simp [hi]
    rw [e]
    simp
  · rw [Chip.dueVecs_eq]
    exact Chip.reg_setReg_same ..

/-- An event bit that has been raised is set. -/
theorem Chip.get_raise_same (f : Fld) (h : f.lo < 32) (hw : f.w = 1) : (s.raise f).get f = 1 := by
  have hl : f.lo + f.w ≤ 32 := by omega
  simp only [Chip.get, Chip.wide, hl, if_true, Chip.reg_raise_same _ f, BitVec.toNat_ofNat, bitsOf_mod _ hl]
  refine Nat.eq_of_testBit_eq fun i => ?_
  rw [testBit_bitsOf, maskSet, Nat.testBit_or, Nat.testBit_two_pow, hw]
  by_cases hi : i = 0
  · subst hi
    simp
  · have : ¬ i < 1 := by omega
    have e : Nat.testBit 1 i = false := by
      rw [show (1 : Nat) = 2 ^ 0 from rfl, Nat.testBit_two_pow]
      exact decide_eq_false (Ne.symm hi)
    simp [this, e]

theorem Chip.get_raise_ne {f g : Fld} (h : f.Apart g) (hf : f.lo < 32) (hw : f.w = 1) :
    (s.raise f).get g = s.get g := by
  by_cases hb : maskBit (s.reg f.addr).toNat f.lo
  · unfold Chip.raise Chip.raiseBit
    rw [if_pos hb]
  · have e : (s.raise f).regs = (s.set f 1).regs := by
      unfold Chip.raise Chip.raiseBit
      rw [if_neg hb, Chip.dueVecs_eq, Chip.set_one _ _ _ (by omega)]
      simp only [Chip.setReg]
      congr 2
      refine Nat.eq_of_testBit_eq fun i => ?_
      rw [testBit_putBits, maskSet, Nat.testBit_or, Nat.testBit_two_pow, hw]
      by_cases hi : f.lo = i
      · subst hi
        simp
      · rw [if_neg (by omega)]
        simp [hi]
    rw [Chip.get_congr g e, Chip.get_set_ne _ _ h]

theorem Chip.get_dueVec (k : Nat) (g : Fld) : (s.dueVec k).get g = s.get g := Chip.get_congr g (Chip.dueVec_regs ..)

end

end Sys2Proof.Machine
end

