-- ==== Sys2Proof/WellFormed.lean ====
section
/-!
DEFINITION. WellFormed.lean: what a command from outside can be: the ranges and lengths that the types of Syntax.lean do
not fix already.  No meaning rests on these checks.
-/

namespace Sys2Proof

/-- A moment within a tick: ticks last at most 16 µs (spec/01_package_and_tick.md, R21). -/
def momentOk (t : Nat) : Bool := decide (t ≤ 16000)

/-- An upset of stored library bits: an entry of the die, a mask of its 64 bits (spec/06_setpoint_library.md, R151, R153). -/
def upsetOk (x : Nat × Nat) : Bool := decide (x.1 < 2621440) && decide (x.2 < 2 ^ 64)

/-- A PTP header: 4-bit versions, an ICV of bytes (spec/08_network_time.md, R202, R221). -/
def ptpOk (h : PtpHdr) : Bool :=
  decide (h.version < 16) && decide (h.minor < 16) &&
    match h.tlv with
    | some x => decide (x.spp < 256) && x.icv.all (fun b => decide (b < 256)) && x.covered.all (fun b => decide (b < 256))
    | none => true

/-- A calibration measurement: at most eight hops, and an eye of 16 time offsets by 32 threshold offsets
(spec/10_calibration.md, R279, R280). -/
def calOk (m : CalMeas) : Bool :=
  decide (m.hops.length ≤ 8) && decide (m.gaps.length ≤ 8) && decide (m.sweep.length ≤ 16)
    && m.sweep.all (fun r => decide (r.length ≤ 32)) && decide (m.levels.length ≤ 32)

/-- The command can come from outside. -/
def Instr.wf (i : Instr) : Bool :=
  match i with
  | .pairLowWrite _ _ _ t _ => momentOk t
  | .pairHighWrite _ _ _ t _ => momentOk t
  | .pairLowRead _ _ t => momentOk t
  | .pairHighRead _ _ t => momentOk t
  | .registerWrite _ _ _ t _ => momentOk t
  | .sidelinedDieAccess _ _ _ => true
  | .diePeakClr _ _ => true
  | .railBelowReset _ _ => true
  | .resetNAssert => true
  | .resetNRelease => true
  | .supplyWarning => true
  | .negotiationStart _ _ _ => true
  | .rollMessage _ _ => true
  | .negotiationEnd _ => true
  | .fuseLevelling _ => true
  | .auditChainCheck _ _ => true
  | .flashDiscovery _ => true
  | .imageBlock _ => true
  | .imageContentCheck _ => true
  | .enterService => true
  | .retainedRestore => true
  | .startStateChange _ _ => true
  | .serviceOkRise => true
  | .imgRestart _ t => momentOk t
  | .tickBoundary env => decide (env.length ≤ 8)
  | .tickOverrun _ k _ => decide (k ≤ 2560)
  | .commitGo _ => true
  | .freezeFlit _ => true
  | .freezeAck _ t => momentOk t
  | .commitConfirm _ => true
  | .freezeConfirmTimeout _ => true
  | .commitLoad off => decide (off.length ≤ 8)
  | .commitSegmentLoad => true
  | .refQualWindow _ _ _ _ => true
  | .revertTimer _ _ => true
  | .lossOfReference _ _ _ => true
  | .lockDeclared _ => true
  | .lossOfLock _ => true
  | .holdoverWindow _ _ => true
  | .holdoverClockTimeout _ => true
  | .relockTimeout _ => true
  | .bandHop _ fine => decide (fine < 65536)
  | .realignEnd _ => true
  | .surveyStart _ => true
  | .surveyDone _ ms => decide (ms.length ≤ 64)
  | .pstepRequest _ _ t => momentOk t
  | .pstepBegin _ => true
  | .rampStart _ _ t _ => momentOk t
  | .rampBegin _ => true
  | .rampSegmentEnd _ _ => true
  | .rampAbort _ _ t _ => momentOk t
  | .rampDisable _ _ t _ => momentOk t
  | .rampFold _ _ t _ => momentOk t
  | .rampClamp _ _ _ => true
  | .xoDetectWindow _ _ => true
  | .xoJudgeWindow _ _ _ _ => true
  | .xoJudgeTimeout _ => true
  | .xoFailure _ _ => true
  | .ioscFailure _ => true
  | .bpllUnlock _ => true
  | .bpllRelock _ => true
  | .clkoutSelect _ _ => true
  | .crossingFarReset _ _ _ => true
  | .crossingResync _ _ => true
  | .tempStale _ _ => true
  | .loopWindowEnd _ _ => true
  | .loopClear _ _ => true
  | .kickEnd _ _ => true
  | .loopRecord _ => true
  | .libWrite _ _ _ _ => true
  | .libWriteApply _ => true
  | .libScrubPass _ l => l.all upsetOk
  | .mirrorFetch _ _ _ => true
  | .mirrorWrite _ => true
  | .standbyRecord _ => true
  | .volOpen _ _ _ => true
  | .volStagingWrite _ _ _ => true
  | .volStage _ _ _ t => momentOk t
  | .volTagVerified _ t => momentOk t
  | .volAbort _ _ _ t => momentOk t
  | .volRelease _ _ _ => true
  | .volEntries _ _ => true
  | .volArmedReport _ _ => true
  | .volArmDeadline _ t => momentOk t
  | .volGo _ _ => true
  | .volAbortMsg _ _ => true
  | .volGoAckTimeout _ _ => true
  | .volLoadBoundary _ => true
  | .volReport _ => true
  | .volDeferredApply _ => true
  | .schedOccurrence _ t => momentOk t
  | .schedCatchup => true
  | .ptpAnnounce h _ => ptpOk h
  | .ptpSync h _ _ _ t => ptpOk h && momentOk t
  | .ptpFollowUp h _ => ptpOk h
  | .delayReqSend _ _ raw => momentOk raw.t
  | .ptpDelayResp h _ _ t => ptpOk h && momentOk t
  | .ptpOtherMessage h => ptpOk h
  | .syncTimeout _ _ => true
  | .announceTimeout _ _ => true
  | .timeWord _ _ => true
  | .firstStep env => decide (env.length ≤ 8)
  | .timeRestep _ t => momentOk t
  | .ethAttemptTimeout _ => true
  | .ethLinkUp _ => true
  | .ethLinkDown _ => true
  | .ethFrameDiscard _ _ => true
  | .launchOpen _ _ => true
  | .launchArm _ _ t => momentOk t
  | .launchAbort _ _ t => momentOk t
  | .launchRelease _ _ => true
  | .launchTime _ t _ => momentOk t
  | .telemetryLaunch t => momentOk t
  | .timeNowRead _ t => momentOk t
  | .blockLock _ _ => true
  | .capsFrame _ _ _ _ _ _ => true
  | .capsTimeout _ _ => true
  | .trainFrame _ _ _ => true
  | .prbsCheckEnd _ _ errors => decide (errors < 2 ^ 32)
  | .resultFrame _ _ _ x => decide (x.errors < 2 ^ 32)
  | .trainTimeout _ _ => true
  | .failedRetry _ _ => true
  | .elinkRetrain _ _ => true
  | .uplinkFrame _ _ f => decide (f.samples.length ≤ 256)
  | .uplinkDeadline _ _ => true
  | .linkLoss _ _ => true
  | .efeCmdNop _ _ _ => true
  | .efeCmdRead _ _ _ => true
  | .efeCmdWrite _ _ _ => true
  | .efeCmdSpot _ _ _ => true
  | .efeCmdEcho _ _ _ => true
  | .efeCmdOther _ _ _ => true
  | .efeCmdRetry _ _ => true
  | .spotHoldTimeout _ _ => true
  | .efeUnorderedPark _ _ => true
  | .efeWinPop _ _ => true
  | .coverStart => true
  | .coverReturn => true
  | .calRequest _ _ => true
  | .calAbort _ _ => true
  | .calLoadTdc _ _ => true
  | .calLoadEq _ _ => true
  | .calTempTrigger _ _ => true
  | .calRetryTimer _ _ => true
  | .calRunStart _ _ => true
  | .calMeasurementDone _ m => calOk m
  | .snapshotPeriod t => momentOk t
  | .snapNow _ t => momentOk t
  | .snapshotCapture => true
  | .snapshotWriteDone _ _ => true
  | .retForget _ t => momentOk t
  | .flashRead _ => true
  | .flashErase _ => true
  | .flashProgram _ => true
  | .flashOpDone _ => true
  | .sessionOpen _ => true
  | .sessionProve _ => true
  | .sessionClose _ => true
  | .challengeLapse => true
  | .sessionIdleTimeout => true
  | .heldWrite _ _ _ _ _ t _ => momentOk t
  | .heldGroupCommit _ _ t _ => momentOk t
  | .heldGroupDiscard _ _ t _ => momentOk t
  | .lockoutEnd => true
  | .ownerKeyProgram _ => true
  | .ownerKeyRevoke _ => true
  | .lifecycleAdvance _ => true
  | .rollbackCommit _ => true
  | .dieDisableBurn _ => true
  | .hp1Disable _ => true
  | .debugLock _ => true
  | .fuseBurnDone _ => true
  | .ptpKeyWrite _ => true
  | .telKeyWrite _ => true
  | .attestGo _ => true
  | .attestDone t => momentOk t
  | .logSelect _ => true
  | .entropyHealthFail => true
  | .debugInstruction _ => true
  | .heartbeatMissed _ => true
  | .dieSideline _ => true
  | .coverOrder _ => true
  | .faultDieSideline _ t => momentOk t
  | .faultDieReload _ t => momentOk t
  | .faultDieRejoin _ t => momentOk t
  | .rejoinStart _ t => momentOk t
  | .rejoinReady _ t => momentOk t
  | .rejoinFailed _ => true
  | .plannedHandover => true
  | .leaseRenewal _ t => momentOk t
  | .leaseLapse _ t => momentOk t
  | .leaseHolderStop _ t => momentOk t
  | .flitCrcFail r => decide (r.flit.payload.length = 26)
  | .hopFailure _ => true
  | .hopRetrain _ errors => decide (errors < 2 ^ 32)
  | .updVerify _ t => momentOk t
  | .updVerifyDone _ => true
  | .updGo _ t => momentOk t
  | .updCommit _ t => momentOk t
  | .updAbort _ t => momentOk t
  | .faultLogPop _ => true
  | .pcieMemRead _ _ _ _ _ _ _ _ t => momentOk t
  | .pcieMemWrite _ _ _ vs _ _ _ _ t _ => !vs.isEmpty && decide (vs.length ≤ 1024) && momentOk t
  | .pcieConfigRead _ _ => true
  | .pcieConfigWrite _ _ _ => true
  | .pcieUnsupportedRequest _ => true
  | .perstAssert _ _ => true
  | .pcieLinkDown _ _ => true
  | .functionLevelReset _ _ => true
  | .d3hotEntry _ => true
  | .d0Return _ => true
  | .hostGroupOpen _ _ t _ => momentOk t
  | .hostGroupCommit _ _ t _ => momentOk t
  | .hostGroupDiscard _ _ t _ => momentOk t
  | .msixMessage _ => true
  | .msixPendingRelease _ _ => true
  | .smbStatusByte _ => true
  | .smbInService _ => true
  | .smbSidelined _ => true
  | .smbLockDensity _ => true
  | .smbTemperature _ => true
  | .smbHealthRecord _ => true
  | .smbOtherCommand _ _ => true
  | .hostLinkUp _ _ _ => true
  | .railAboveReset _ _ => true
  | .ppsOut t => momentOk t
  | .phaseStepDone _ => true
  | .startPortTimeout _ _ => true
  | .skewWaitTimeout _ => true
  | .flrComplete _ => true

end Sys2Proof
end

