-- ==== Sys2Proof/Tests/Slice0.lean ====
section
/-!
SUPPORT. Tests/Slice0.lean: single steps on small states, the spec's worked examples, published check values of the standards
that the spec names, ill-formed commands, and for every obligation states and operands that meet its hypotheses (met_<Name>:
one conjunct per clause or boundary value).
-/

namespace Sys2Proof.Tests

set_option maxRecDepth 100000
set_option Elab.async false

open Sys2Proof Sys2Proof.Machine

/-- A package of `n` dies in service with both host ports linked and open to memory requests, running at tick 4000. -/
def base (n : Nat) : Chip :=
  let c : Chip := { State.reset.chip with resetLow := false, dieCount := n, started := true, upTicks := 5000 }
  let c := (List.range n).foldl (fun c d => (c.setService d svcIn).modDie d (fun r =>
    { r with inReset := false, negDone := true, coreOn := true })) c
  let c := [(PKG_ROLE_NEG_DONE, 1), (PKG_ROLE_VICE, 1), (PKG_ROLE_VICE_VALID, 1), (SEC_STATUS_HP1_EN, 1),
    (PKG_TICK_NUM_TICK, 4000)].foldl (fun c p => c.set p.1 p.2) c
  (((c.showHosts.hostLinkUp 0 4 4).hostLinkUp 1 4 4).modHost 0 (fun r => { r with cmd := 2 })).modHost 1
    (fun r => { r with cmd := 2 })

/-- The package of two dies with register fields as listed. -/
def pk (l : List (Fld × Nat)) : Chip := l.foldl (fun c p => c.set p.1 p.2) (base 2)
def mk (c : Chip) : State := { pending := [], chip := c }
def mkq (q : List Instr) (c : Chip) : State := { pending := q, chip := c }

/-- The captain, die 0, holds every lease. -/
def leased (c : Chip) : Chip := { c with fault := { c.fault with leases := List.replicate 6 { held := true } } }

/-- An uplink frame of sixteen-bit zeros, found valid or not. -/
def frm (ok : Bool) : UpFrame :=
  { ok := ok, tick := true, echo := 4000#32, status := 0#8, untimed := false, sensor := 0, tempOk := false, temp := 0#16,
    rspTag := 0#8, rspOp := 0#6, rspResult := 0#8, rspWin := false, rspOvr := false, rspData := 0#32, samples := [] }

/-- A measurement with the given hop differences, taken at instance 0. -/
def meas (hops : List (Int × Int)) : CalMeas := { hops := hops, gaps := [], sweep := [], inst := 0, levels := [], dfe1 := 0, dfe2 := 0 }

/-- A PTP header from source 7, domain 0, on port ETH0, with no authentication. -/
def hd : PtpHdr :=
  { port := 0, annexC := false, altAddr := false, vlan := false, version := 2, minor := 1, domain := 0#8, sdo := 0#12,
    source := 7#80, seq := 5#16, corr := 0, logInt := 0, tlv := none }

/-- Port ETH0 with a link in domain 0, and what the port and the domain hold. -/
def px (l : List (Fld × Nat)) (r : PtpRec) (m : DomRec) : Chip :=
  { pk ([(ETH_STATUS_LINK 0, 1), (ETH_CTRL_TRANSPORT 0, 0), (TIME_CTRL_EN, 1), (TIME_DOM_CFG_EN 0, 1), (TIME_DOM_CFG_PORTS 0, 1),
    (TIME_DOM_CFG_DOMAIN 0, 0), (TIME_DOM_CFG_EN 1, 0)] ++ l) with time := { ptp := [(0, r)], doms := [(0, m)] } }

/-- The master of source 7, heard twice. -/
def m7 : List Foreign := [⟨7, [1, 2, 3, 4, 5, 6], 7, [0, 0], 0⟩]

/-- A launch slot 15 in state `st` with a frame of `len` bytes on ETH1, to go at `ns`, valid time, ETH1 with a link. -/
def ln (st len ns : Nat) (l : List (Fld × Nat)) : Chip :=
  pk ([(ETH_L_STATUS_STATE 15, st), (ETH_L_CFG_LEN 15, len), (ETH_L_CFG_PORT 15, 1), (ETH_L_TIME_NS_NS 15, ns),
    (TIME_STATUS_VALID, 1), (ETH_STATUS_LINK 1, 1)] ++ l)

/-- An audit entry whose chain hash is missing. -/
def aud (i : Nat) : Audit := { index := i, type := 1, site := 0, result := 0, tick := 0, session := 0, time := 0, detail := [], hash := [] }

/-! ### One step, on small states -/

/-- What `f` shows of the state after the command. -/
def after (i : Instr) (c : Chip) (f : Chip → α) : Option α :=
  match step { pending := [i], chip := c } with
  | .next t => some (f t.chip)
  | _ => none

/-- The two commands of a queue run in order, and an empty queue idles. -/
theorem test_queue_order :
    (match step { pending := [.resetNAssert, .supplyWarning], chip := pk [] } with
      | .next t => some (t.pending, t.chip.resetLow)
      | _ => none) = some ([.supplyWarning], true) := by decide +kernel

theorem test_reset_asserted : after .resetNAssert (pk []) (fun c => (c.resetLow, c.started, c.get PKG_DIES_IN_SERVICE)) =
    some (true, false, 0) := by decide +kernel
theorem test_perst_takes_the_link : after (.perstAssert 1 0) (pk []) (fun c => (c.get (HOST_STATUS_LINK 0), c.get (HOST_STATUS_LINK 1))) =
    some (1, 0) := by decide +kernel
theorem test_rw_bits_only : after (.registerWrite 0 (BitVec.ofNat 26 TIME_IRQ_EN) 0xFFFFFFFF#32 0 0) (pk []) (fun c => c.reg TIME_IRQ_EN) =
    some 0x7FFF#32 := by decide +kernel
theorem test_w1c : after (.registerWrite 0 0x4C#26 0x10#32 0 0) ((pk []).setReg 0x4C 0x30#32) (fun c => c.reg 0x4C) =
    some 0x20#32 := by decide +kernel
theorem test_pair_low_held : after (.pairLowWrite 0 0x44#26 7#32 0 0) (pk []) (fun c => (c.reg 0x44, c.lowOf 0 0x44)) =
    some (0#32, some 7#32) := by decide +kernel
theorem test_pair_joined : after (.pairHighWrite 0 0x48#26 9#32 0 0) ((pk []).modHost 0 (fun r => { r with low := [(0x44, some 7#32)] }))
    (fun c => (c.reg 0x44, c.reg 0x48)) = some (7#32, 9#32) := by decide +kernel
theorem test_read_part_number : after (.pcieMemRead 0 false 0#28 0 0xF 0xF 0 false 0) (pk []) (fun c => (c.host 0).cpl.map (fun w => w.toNat / 65536)) =
    some [0xB7A1] := by decide +kernel
theorem test_heartbeat_missed : after (.heartbeatMissed 1) (pk []) (fun c => (c.get (DIE_STATUS_SERVICE 1), c.get PKG_DIES_IN_SERVICE)) =
    some (svcSidelined, 1) := by decide +kernel
theorem test_go_before_service_is_late : after (.commitGo 0x80000000#32) { pk [] with started := false } (fun c => c.get PKG_COMMIT_STATUS_STATE) =
    some 3 := by decide +kernel
theorem test_second_go_overlaps : after (.commitGo 0x80000000#32) { pk [] with commit := { freezing := true } } (fun c => c.get PKG_COMMIT_STATUS_OVERLAP) =
    some 1 := by decide +kernel
theorem test_step_refused_on_the_grid : after (.pstepRequest 0 1#32 0) (pk [(PKG_TICK_CFG_GRID_NET, 1)])
    (fun c => c.get (SYN_EVENTS_PSTEP_REFUSED 0)) = some 1 := by decide +kernel
theorem test_smbus_in_service : after (.smbInService 0x5A#7) (pk [(HOST_SMB_CFG_EN, 1)]) (fun c => c.smbus.map (·.take 1)) =
    some (some [3]) := by decide +kernel

/-! ### The spec's worked examples -/

/-- A 50 MHz source back with an offset of 37.5 ns, at 1.5 GHz: 960 steps less (02_synthesis_core.md, R66). -/
theorem test_buildout_example : wrapBuildout (30 * 2 ^ 48) 0 14400 = -960 := by decide

/-- Bands 62 to 64 of the band example (02_synthesis_core.md, Tables 2.1, 2.2 and 2.8): the entry of band 64, which bands hold
6,000 MHz, the starting fine code, the fine codes after both hops. -/
def bands6 : List Nat := [15740, 15840, 15940].map (fun l => l * 2 ^ 16 + (l + 192) * 2 ^ 32 + 46876 * 2 ^ 48 + 2 ^ 15 + 512)
theorem test_band_example : bands6.getLast? = some 0xB71C3F043E448200 ∧ bands6.map (bandFits 6000000000 1) = [false, true, true] ∧
    bands6.map (fun e => fineFor 6000000000 1 e) = [65535, 54612, 20480] ∧
    fineFor 5997000000 1 (bands6.getD 1 0) = 38229 ∧ fineFor 5990750000 1 (bands6.getD 0 0) = 38229 := by decide

/-- Channel 7,425, state 17 (06_setpoint_library.md, R152): the stored entry, its fields, and data bit 13 flipped. -/
theorem test_entry_example : withCheck 0x717D8F887530 = 0x0600717D8F887530 ∧
    (entBase 0x717D8F887530, entTrim 0x717D8F887530, entSlope 0x717D8F887530, entKick 0x717D8F887530) = (30000, -120, -40, 5) ∧
    secded (0x0600717D8F887530 ^^^ 2 ^ 13) = some (0x0600717D8F887530, true) := by decide

/-- Taps 0 to 3 of Table 10.4 (10_calibration.md), the other hits in one more tap. -/
theorem test_tdc_example :
    let r := tapResults 1500000 1 128 [17512, 16803, 18240, 17077, 978944] [17455, 16860, 18301, 17020, 978940]
    r.1 = true ∧ r.2.take 4 = [(0, 2846), (1, 2740), (2, 2974), (3, 2775)] := by decide

/-- The first step to boundary 2,000,000 (08_network_time.md, Table 8.4). -/
theorem test_first_step_example :
    (({ pk [(PKG_TICK_NUM_TICK, 1999980)] with time := { doms := [(0, { theta := some ((1999999000 - 1800000000012345640) * 1000) })] } } :
      Chip).chooseStep 0 false).time.stepAt = some (2000000, 1800000000012347, 0, false) := by decide +kernel

/-- The slot of Tables 5.6 and 5.7 (05_element_lock_loops.md). -/
def lp : Chip := pk [(LP_KP_KP 3 1280, 1024), (LP_KI_KI 3 1280, 2048), (LP_WIN_WIN 3 1280, 512), (LP_ILIM_ILIM 3 1280, 128)]
def lpAt (integ : Int) : SlotRec := { st := lpAcquire, integ := integ * 65536 }
theorem test_loop_acquires : [lp.filterRun 3 1280 (lpAt 0) (-1024), lp.filterRun 3 1280 (lpAt (-32)) (-256),
    lp.filterRun 3 1280 (lpAt (-40)) (-320), lp.filterRun 3 1280 (lpAt (-50)) (-144)].map (fun r => (r.integ, r.corr)) =
    [(-32 * 65536, -48), (-40 * 65536, -44), (-50 * 65536, -55), (-3571712, -57)] := by decide +kernel
theorem test_loop_clamps : [lp.filterRun 3 1280 (lpAt (-64)) (-4800), lp.filterRun 3 1280 (lpAt (-128)) (-2992)].map (fun r => (r.integ, r.corr, r.clamped)) =
    [(-8388608, -203, true), (-8388608, -175, true)] := by decide +kernel
theorem test_loop_locks : [lp.lockDetect 3 1280 (lpAt 0) (-1024), lp.lockDetect 3 1280 (lpAt 0) (-256),
    lp.lockDetect 3 1280 { lpAt 0 with run := 1 } (-320)].map (fun r => (r.1.st, r.1.run)) =
    [(lpAcquire, 0), (lpAcquire, 1), (lpLocked, 0)] := by decide +kernel
theorem test_loop_loses_lock : [lp.lockDetect 3 1280 { lpAt 0 with st := lpLocked, run := 1 } (-2576),
    lp.lockDetect 3 1280 { lpAt 0 with st := lpLocked, run := 2 } (-3136)].map (fun r => (r.1.st, r.1.run)) =
    [(lpLocked, 2), (lpAcquire, 0)] := by decide +kernel

/-! ### The standards that the spec names: published check values -/

theorem test_crc32c : crc32c [49, 50, 51, 52, 53, 54, 55, 56, 57] = 0xE3069283 := by decide +kernel
theorem test_sha256 : natBE (sha256 [97, 98, 99]) = 0xba7816bf8f01cfea414140de5dae2223b00361a396177a9cb410ff61f20015ad := by decide +kernel
theorem test_sha384 : natBE (sha384 [97, 98, 99]) =
    0xcb00753f45a35e8bb5a03d699ac65007272c32ab0eded1631a8b605a43ff5bed8086072ba1e7cc2358baeca134c825a7 := by decide +kernel
/-- RFC 4231, case 2. -/
theorem test_hmac : natBE (hmacSha256 [74, 101, 102, 101] [119, 104, 97, 116, 32, 100, 111, 32, 121, 97, 32, 119, 97, 110, 116, 32, 102, 111, 114, 32,
    110, 111, 116, 104, 105, 110, 103, 63]) = 0x5bdcc146bf60754e6a042426089575c75a003f089d2739839dec58b964ec3843 := by decide +kernel
theorem test_generator : onCurve p384G = true ∧ (ecAdd (some p384G) (some p384G)).map (·.1) =
    some 0x08d999057ba3d2d969260045c55b97f089025959a6f434d651d207d19fb96e9e4fe0e86ebe0e64f85b96a9c75295df61 := by decide +kernel
/-- A library entry with one wrong bit is corrected; with two it is uncorrectable (R153). -/
theorem test_secded : [secded (withCheck 0x123456789ABC), secded (withCheck 0x123456789ABC ^^^ 2 ^ 40), secded (withCheck 0x123456789ABC ^^^ 3)] =
    [some (withCheck 0x123456789ABC, false), some (withCheck 0x123456789ABC, true), none] := by decide +kernel

/-! ### Terms that no outside can send -/

def ill : List (List Instr) :=
  [[.registerWrite 0 0 0 16001 0, .imgRestart 0 16001, .ppsOut 16001, .pcieMemRead 0 false 0 0 0 0 0 false 16001, .leaseLapse 0 16001],
   [.tickBoundary (List.replicate 9 (DieTick.mk 0 0 [] 0 0 [] [] false [] false)), .firstStep (List.replicate 9 (DieTick.mk 0 0 [] 0 0 [] [] false [] false))],
   [.tickOverrun 0 2561 0], [.commitLoad (List.replicate 9 0)], [.bandHop 0 65536], [.surveyDone 0 (List.replicate 65 none)],
   [.libScrubPass 0 [(2621440, 1)], .libScrubPass 0 [(0, 2 ^ 64)]],
   [.ptpOtherMessage { hd with version := 16 }, .ptpOtherMessage { hd with minor := 16 },
    .ptpOtherMessage { hd with tlv := some (PtpTlv.mk 256 0 [] []) }, .ptpOtherMessage { hd with tlv := some (PtpTlv.mk 0 0 [256] []) },
    .ptpOtherMessage { hd with tlv := some (PtpTlv.mk 0 0 [] [256]) }],
   [.prbsCheckEnd 0 0 (2 ^ 32), .resultFrame 0 0 false ⟨2 ^ 32, ⟨0, false⟩, true⟩, .hopRetrain 0 (2 ^ 32)],
   [.uplinkFrame 0 0 { frm true with samples := List.replicate 257 (UpSample.mk 0 false false) }],
   [.calMeasurementDone 0 { meas [] with sweep := [List.replicate 33 0] }, .calMeasurementDone 0 { meas [] with levels := List.replicate 33 0 },
    .calMeasurementDone 0 { meas [] with sweep := List.replicate 17 [] }, .calMeasurementDone 0 { meas [] with gaps := List.replicate 9 0 },
    .calMeasurementDone 0 (meas (List.replicate 9 (0, 0)))],
   [.flitCrcFail ⟨0, false, 0, ⟨0, 0, 0, List.replicate 27 0, 0⟩⟩],
   [.pcieMemWrite 0 false 0 [] 0 0 0 0 0 0, .pcieMemWrite 0 false 0 (List.replicate 1025 0) 0 0 0 0 0 0, .pcieMemWrite 0 false 0 [0] 0 0 0 0 16001 0]]
theorem test_ill_formed : ill.all (fun l => l.all (fun i => !i.wf)) = true := by decide +kernel
theorem test_well_formed : Instr.wf (.registerWrite 0 0 0 16000 0) = true ∧ Instr.wf (.tickOverrun 0 2560 0) = true ∧
    Instr.wf (.pcieMemWrite 0 false 0 [0] 0 0 0 0 16000 0) = true ∧ Instr.wf (.ptpOtherMessage hd) = true ∧
    Instr.wf (.uplinkFrame 0 0 (frm true)) = true := by decide +kernel

/-! ### A signed image of one block -/

/-- A small image, version 1, key slot 0: a header, one row of the section table, a PKG section of zeros, and the signature block. Its
key is the point whose sum with the generator has the digest as its abscissa, so the signature has r = s = that digest. -/
def imgKey : List Nat :=
  4 :: bytesBE 48 5086178139312674496838676669051757779404153591995170459015358808404310578641426021234924044436813903173201706638488
    ++ bytesBE 48 39015260326115308670701534785312257553700591308811441773055917124509726585792031663259012296268197622345198620121035
def imgSign : List Nat :=
  bytesLE 48 37974961649594029510632302891954241815446920412589460396000288820919692512804488125036102574242381596208131694429393
def imgAll (b : Nat) : List Nat :=
  ([0x45, 0x4C, 0x4F, 0x41] ++ bytesLE 2 1 ++ bytesLE 2 256 ++ bytesLE 4 1 ++ [0, 0, 15, 0] ++ bytesLE 8 336 ++ bytesLE 4 256
    ++ bytesLE 2 1 ++ List.replicate 222 0 ++ bytesLE 4 0xc050184a)
  ++ (bytesLE 2 1 ++ [255, 0] ++ bytesLE 4 0 ++ bytesLE 8 288 ++ bytesLE 8 48 ++ List.replicate 8 0) ++ ([b] ++ List.replicate 41 0 ++ [10] ++ List.replicate 5 0)
  ++ imgKey ++ imgSign ++ imgSign ++ List.replicate 63 0

/-- A flash block with the bytes of `bs` from its start, its CRC at the end; erased bytes are not listed. -/
def blockOf (bs : List Nat) (crc : Nat) : List Nat := bs ++ List.replicate (4092 - bs.length) 255 ++ bytesLE 4 crc
def flashOf (a : Nat) (bs : List Nat) : Tab Nat := ((List.range' a bs.length).zip bs).filter (fun p => p.2 != 255)
def imgBlock : List Nat := blockOf (imgAll 1) 0x69c6bb66

/-- The same with a tick period that no image may hold, its CRC wrong. -/
def badBlock : List Nat := blockOf (imgAll 9) 0

/-- Slot B starts with the block `bs`, an image of no bytes has been booted, and the captain's fuses hold the image's key; slot A holds nothing. -/
def withBlock (bs : List Nat) (c : Chip) : Chip :=
  { c.setFuses 0 { programmed := 1, hashes := [(0, sha384 imgKey)] } with image := { flash := flashOf (2 ^ 28) bs, slot := some 1, booted := sha384 [] } }
def withImg : Chip → Chip := withBlock imgBlock

theorem flashOf_get (bs : List Nat) : ∀ a i, tabGet (fun _ => 255) (flashOf a bs) (a + i) = bs.getD i 255 := by
  induction bs with
  | nil => intro a i; rfl
  | cons x r ih =>
    intro a i
    have hr : flashOf a (x :: r) = if x != 255 then (a, x) :: flashOf (a + 1) r else flashOf (a + 1) r := by
      simp only [flashOf, List.length_cons, List.range'_succ, List.zip_cons_cons, List.filter_cons]
    have hb : ∀ p ∈ flashOf (a + 1) r, a < p.1 := by
      intro p hp
      have h := List.mem_range'.mp (List.of_mem_zip (List.mem_filter.mp hp).1).1
      omega
    rw [hr]
    cases i with
    | zero =>
      by_cases hx : x = 255
      · simp [hx, tabGet_below hb]
      · simp [hx, tabGet]
    | succ j =>
      have e : a + (j + 1) = a + 1 + j := by omega
      have n : ¬ (a + (j + 1) = a) := by omega
      by_cases hx : x = 255
      · simp [hx, e, ih]
      · simp only [bne_iff_ne, ne_eq, hx, not_false_eq_true, if_true, tabGet, n, if_false]
        rw [e, ih]; rfl

theorem withBlock_byte (bs : List Nat) (c : Chip) (i : Nat) : (withBlock bs c).flashByte 1 i = bs.getD i 255 := by
  have := flashOf_get bs (2 ^ 28) i
  simpa [Chip.flashByte, withBlock] using this

theorem withBlock_one (bs : List Nat) (c : Chip) (o : Nat) (h : o < 4092) : (withBlock bs c).imgByte 1 o = bs.getD o 255 := by
  have e : o / 4092 * 4096 + o % 4092 = o := by omega
  rw [Chip.imgByte, withBlock_byte, e]

theorem withBlock_bytes (bs : List Nat) (c : Chip) (o n : Nat) (h : o + n ≤ 4092) :
    (withBlock bs c).imgBytes 1 o n = (List.range n).map (fun i => bs.getD (o + i) 255) := by
  unfold Chip.imgBytes
  apply List.map_congr_left
  intro i hi
  have := List.mem_range.mp hi
  rw [withBlock_one bs c (o + i) (by omega)]

theorem withBlock_nat (bs : List Nat) (c : Chip) (o n : Nat) (h : o + n ≤ 4092) :
    (withBlock bs c).imgNat 1 o n = natLE ((List.range n).map (fun i => bs.getD (o + i) 255)) := by
  rw [Chip.imgNat, withBlock_bytes bs c o n h]

theorem withBlock_crc (bs : List Nat) (c : Chip) (hl : bs.length = 4096) (h : crc32c (bs.take 4092) = natLE (bs.drop 4092)) :
    (withBlock bs c).blockCrcOk 1 0 = true := by
  have e : (List.range 4096).map (fun i => (withBlock bs c).flashByte 1 (0 * 4096 + i)) = bs := by
    apply List.ext_getElem
    · simp [hl]
    · intro i h _
      have hi : i < bs.length := by simpa [hl] using h
      simp [withBlock_byte, List.getD_eq_getElem?_getD, hi]
  unfold Chip.blockCrcOk
  simp only [e, h, beq_self_eq_true]

theorem withImg_one (c : Chip) (o : Nat) (h : o < 4092) : (withImg c).imgByte 1 o = imgBlock.getD o 255 :=
  withBlock_one _ c o h
theorem withImg_bytes (c : Chip) (o n : Nat) (h : o + n ≤ 4092) :
    (withImg c).imgBytes 1 o n = (List.range n).map (fun i => imgBlock.getD (o + i) 255) := withBlock_bytes _ c o n h
theorem withImg_nat (c : Chip) (o n : Nat) (h : o + n ≤ 4092) :
    (withImg c).imgNat 1 o n = natLE ((List.range n).map (fun i => imgBlock.getD (o + i) 255)) := withBlock_nat _ c o n h

theorem withImg_crc (c : Chip) : (withImg c).blockCrcOk 1 0 = true :=
  withBlock_crc _ c (by decide +kernel) (by decide +kernel)

theorem withImg_len (c : Chip) : (withImg c).imgLen 1 = 336 := by
  rw [Chip.imgLen, withImg_nat c 16 8 (by decide)]; decide +kernel

theorem withImg_blocks (c : Chip) : (withImg c).imgBlocks 1 = 1 := by
  rw [Chip.imgBlocks, withImg_len]; decide

/-- The section table of a block that spells one row. -/
theorem withBlock_sections (bs : List Nat) (c : Chip)
    (h : [natLE ((List.range 2).map (fun i => bs.getD (28 + i) 255)), natLE ((List.range 4).map (fun i => bs.getD (24 + i) 255)),
      natLE ((List.range 2).map (fun i => bs.getD (256 + i) 255)), bs.getD (256 + 2) 255, bs.getD (256 + 3) 255,
      natLE ((List.range 4).map (fun i => bs.getD (256 + 4 + i) 255)), natLE ((List.range 8).map (fun i => bs.getD (256 + 8 + i) 255)),
      natLE ((List.range 8).map (fun i => bs.getD (256 + 16 + i) 255))] = [1, 256, 1, 255, 0, 0, 288, 48]) :
    (withBlock bs c).sectionsOf 1 = [⟨1, 255, 0, 0, 288, 48⟩] := by
  simp only [List.cons.injEq] at h
  obtain ⟨h0, h1, h2, h3, h4, h5, h6, h7, -⟩ := h
  have n : (withBlock bs c).sectCount 1 = 1 := by rw [Chip.sectCount, withBlock_nat bs c 28 2 (by decide), h0]
  have o : (withBlock bs c).sectOff 1 = 256 := by rw [Chip.sectOff, withBlock_nat bs c 24 4 (by decide), h1]
  simp only [Chip.sectionsOf, n, o, List.range_one, List.map_cons, List.map_nil, Nat.mul_zero, Nat.add_zero]
  rw [withBlock_nat bs c 256 2 (by decide), withBlock_one bs c (256 + 2) (by decide), withBlock_one bs c (256 + 3) (by decide),
    withBlock_nat bs c (256 + 4) 4 (by decide), withBlock_nat bs c (256 + 8) 8 (by decide),
    withBlock_nat bs c (256 + 16) 8 (by decide), h2, h3, h4, h5, h6, h7]

theorem withImg_sections (c : Chip) : (withImg c).sectionsOf 1 = [⟨1, 255, 0, 0, 288, 48⟩] :=
  withBlock_sections _ c (by decide +kernel)

theorem withBlock_layout (bs : List Nat) (c : Chip) (n : (withBlock bs c).sectCount 1 = 1) (o : (withBlock bs c).sectOff 1 = 256)
    (l : (withBlock bs c).imgLen 1 = 336) (h : (withBlock bs c).sectionsOf 1 = [⟨1, 255, 0, 0, 288, 48⟩]) :
    (withBlock bs c).layoutOk 1 = true := by
  have m : [((256 : Nat), (32 : Nat)), (288, 48)].mergeSort (fun a b => decide (a.1 ≤ b.1)) = [(256, 32), (288, 48)] :=
    List.mergeSort_of_pairwise (by decide)
  unfold Chip.layoutOk
  simp only [n, o, h, l]
  simp [m, Chip.gapsZero, Chip.sectionOk, sectPkg, sectSched]

theorem withImg_layout (c : Chip) : (withImg c).layoutOk 1 = true := by
  refine withBlock_layout _ c ?_ ?_ (withImg_len c) (withImg_sections c)
  · rw [Chip.sectCount, withBlock_nat _ c 28 2 (by decide)]; decide +kernel
  · rw [Chip.sectOff, withBlock_nat _ c 24 4 (by decide)]; decide +kernel

theorem withBad_sections (c : Chip) : (withBlock badBlock c).sectionsOf 1 = [⟨1, 255, 0, 0, 288, 48⟩] :=
  withBlock_sections _ c (by decide +kernel)

theorem withBad_layout (c : Chip) : (withBlock badBlock c).layoutOk 1 = true := by
  refine withBlock_layout _ c ?_ ?_ ?_ (withBad_sections c)
  · rw [Chip.sectCount, withBlock_nat _ c 28 2 (by decide)]; decide +kernel
  · rw [Chip.sectOff, withBlock_nat _ c 24 4 (by decide)]; decide +kernel
  · rw [Chip.imgLen, withBlock_nat _ c 16 8 (by decide)]; decide +kernel

theorem withImg_key (c : Chip) (hc : c.captain = 0) : (withImg c).imgKeyOk 1 = true := by
  have k : (withImg c).imgKeySlot 1 = 0 := by rw [Chip.imgKeySlot, withImg_one c 13 (by decide)]; decide +kernel
  have h : (withImg c).fuses 0 = { programmed := 1, hashes := [(0, sha384 imgKey)] } := tabGet_put_same _ _ _
  have b : (List.range 97).map (fun i => imgBlock.getD (336 + i) 255) = imgKey := by decide +kernel
  rw [Chip.imgKeyOk, withImg_len, withImg_bytes c 336 97 (by decide), k, show (withImg c).captain = 0 from hc, h, b]
  exact beq_self_eq_true _

theorem withImg_header (c : Chip) (hc : c.captain = 0) (hn : c.dieCount = 2) : (withImg c).headerCause 1 = 0 := by
  have ho : (withImg c).headerOk 1 = true := by
    rw [Chip.headerOk, withImg_bytes c 0 4 (by decide), withImg_nat c 4 2 (by decide), withImg_nat c 6 2 (by decide),
      withImg_bytes c 0 252 (by decide), withImg_nat c 252 4 (by decide)]
    decide +kernel
  have k : (withImg c).imgKeySlot 1 = 0 := by rw [Chip.imgKeySlot, withImg_one c 13 (by decide)]; decide +kernel
  have v : (withImg c).imgByte 1 14 = 15 := by rw [withImg_one c 14 (by decide)]; decide +kernel
  have h : (withImg c).fuses 0 = { programmed := 1, hashes := [(0, sha384 imgKey)] } := tabGet_put_same _ _ _
  have ow : ({ programmed := 1, hashes := [(0, sha384 imgKey)] } : Fuses).owner 0 = 1 := rfl
  have mb : maskBit 15 (2 / 2 - 1) = true := by decide
  simp only [Chip.headerCause, ho, k, v, show (withImg c).captain = 0 from hc, show (withImg c).dieCount = 2 from hn, h, ow, mb]
  simp

theorem withImg_signed (c : Chip) : (withImg c).imgSigned 1 = true := by
  have d : (withImg c).imgDigest 1 = sha384 ((List.range 336).map (fun i => imgBlock.getD (0 + i) 255)) := by
    rw [Chip.imgDigest, withImg_len, withImg_bytes c 0 336 (by decide)]
  unfold Chip.imgSigned
  simp only [withImg_len, d]
  rw [withImg_bytes c 336 97 (by decide), withImg_nat c (336 + 97) 48 (by decide), withImg_nat c (336 + 145) 48 (by decide)]
  decide +kernel

/-- The values of the PKG section with the period `b`. -/
def imgItems (b : Nat) : List ImgVal :=
  [⟨288, 0, .pkg 0 b⟩, ⟨292, 0, .pkg 1 0⟩, ⟨300, 0, .pkg 2 0⟩, ⟨304, 0, .pkg 3 0⟩, ⟨312, 0, .pkg 4 0⟩]
    ++ (List.range 8).map (fun d => ⟨320 + d, 0, .pkg (5 + d) 0⟩) ++ [⟨328, 0, .pkg 13 0⟩, ⟨330, 0, .pkg 14 10⟩]

theorem withImg_vals (c : Chip) : (withImg c).imgVals 1 = imgItems 1 := by
  unfold Chip.imgVals
  simp only [withImg_sections, List.length_singleton, List.range_one, List.zip_cons_cons, List.zip_nil_right,
    List.mergeSort_singleton, List.flatMap_cons, List.flatMap_nil, List.append_nil, Chip.sectionVals, sectPkg, if_true,
    show List.range 8 = [0, 1, 2, 3, 4, 5, 6, 7] from rfl, List.map_cons, List.map_nil]
  simp (disch := decide) only [withImg_one, withImg_nat]
  decide +kernel

theorem withBad_vals (c : Chip) : (withBlock badBlock c).imgVals 1 = imgItems 9 := by
  have h := withBad_sections c
  unfold Chip.imgVals
  simp only [h, List.length_singleton, List.range_one, List.zip_cons_cons, List.zip_nil_right,
    List.mergeSort_singleton, List.flatMap_cons, List.flatMap_nil, List.append_nil, Chip.sectionVals, sectPkg, if_true,
    show List.range 8 = [0, 1, 2, 3, 4, 5, 6, 7] from rfl, List.map_cons, List.map_nil]
  simp (disch := decide) only [withBlock_one, withBlock_nat]
  decide +kernel

/-- The first die of two finds no fault in the image, and a CONTENT fault in the other. -/
theorem content_rules (b : Nat) (h : ((imgRules 0 0 []).filter (fun r => !r.2 (imgState 2 (imgItems b)))).length = 0) :
    contentFault 2 0 0 (imgItems b) = if 7 < b then some (8, 0, 288) else none := by
  have r := List.eq_nil_of_length_eq_zero h
  unfold contentFault
  dsimp only
  erw [r]
  simp only [List.foldl_nil]
  by_cases hb : 7 < b
  · simp [imgItems, libTwice, earlier, ImgItem.die, ImgItem.bad, hb, List.range, List.range.loop]
  · simp [imgItems, libTwice, earlier, ImgItem.die, ImgItem.bad, hb, List.range, List.range.loop]
theorem content_ok : contentFault 2 0 0 (imgItems 1) = none := content_rules 1 (by decide +kernel)
theorem content_bad : contentFault 2 0 0 (imgItems 9) = some (8, 0, 288) := content_rules 9 (by decide +kernel)

/-- The first of two blocks: LEN is 3,837, all else erased. -/
def firstBlock : List Nat := blockOf (List.replicate 16 255 ++ bytesLE 8 3837) 0xac57d154
theorem firstBlock_len (c : Chip) : (withBlock firstBlock c).imgLen 1 = 3837 := by
  rw [Chip.imgLen, withBlock_nat _ c 16 8 (by decide)]; decide +kernel

theorem firstBlock_blocks (c : Chip) : (withBlock firstBlock c).imgBlocks 1 = 2 := by
  rw [Chip.imgBlocks, firstBlock_len]; decide

/-- Slot B with LEN 0 and all else erased. -/
def len0 : Tab Nat := (List.range 8).map (fun i => (2 ^ 28 + 16 + i, 0))

/-- The second die of two finds no fault in the image either. -/
theorem content_rest (b : Nat) (h : ((imgRules 1 0 []).filter (fun r => !r.2 (imgState 2 (imgItems b)))).length = 0) :
    contentFault 2 1 0 (imgItems b) = none := by
  have r := List.eq_nil_of_length_eq_zero h
  unfold contentFault
  dsimp only
  erw [r]
  simp only [List.foldl_nil]
  simp [imgItems, libTwice, earlier, ImgItem.die, ImgItem.bad, List.find?, List.range, List.range.loop]
theorem content_ok1 : contentFault 2 1 0 (imgItems 1) = none := content_rest 1 (by decide +kernel)

theorem withImg_content (c : Chip) (hc : c.captain = 0) (hn : c.dieCount = 2) :
    contentFault (withImg c).dieCount 0 (withImg c).captain ((withImg c).imgVals 1) = none := by
  rw [withImg_vals, show (withImg c).captain = 0 from hc, show (withImg c).dieCount = 2 from hn]; exact content_ok

theorem withImg_content1 (c : Chip) (hc : c.captain = 0) (hn : c.dieCount = 2) :
    contentFault (withImg c).dieCount 1 (withImg c).captain ((withImg c).imgVals 1) = none := by
  rw [withImg_vals, show (withImg c).captain = 0 from hc, show (withImg c).dieCount = 2 from hn]; exact content_ok1

theorem none_of_two {α : Type} {f : Nat → Option α} {l : List Nat} (hl : l = [0, 1]) (h : f 0 = none) (h' : f 1 = none) :
    l.findSome? f = none := by simp [hl, h, h']

/-- What a slot must pass to be verified. -/
theorem verified_when (c : Chip) (j : Nat) (r : c.slotReach j = true) (z : c.slotBlocks j ≠ 0) (h : c.headerCause j = 0) (b : c.imgBlocks j = 1)
    (k : c.blockCrcOk j 0 = true) (l : c.layoutOk j = true) (o : c.imgKeyOk j = true) (g : c.imgSigned j = true)
    (f : c.loadDies.findSome? (fun d => contentFault c.dieCount d c.captain (c.imgVals j)) = none)
    (i : c.incompatible (imgState c.dieCount (c.imgVals j)) = false) : c.updRefusal j true = 0 := by
  unfold Chip.updRefusal
  simp [r, z, h, b, k, l, o, g, f, i]

theorem withImg_good (c : Chip) (hc : c.captain = 0) (hn : c.dieCount = 2) (hr : c.service 1 ≤ svcSidelined)
    (hr' : (c.die 1).inReset = false) (hl : c.loadDies = [0, 1]) (hi : c.incompatible (imgState 2 (imgItems 1)) = false) :
    (withImg c).updRefusal 1 true = 0 := by
  have r : (withImg c).slotReach 1 = true := by
    have : (withImg c).slotReach 1 = (maskBit 3 1 && decide (c.service 1 ≤ svcSidelined) && !(c.die 1).inReset) := rfl
    rw [this, hr', decide_eq_true hr]; rfl
  refine verified_when _ 1 r (show (65536 : Nat) ≠ 0 by decide) (withImg_header c hc hn) (withImg_blocks c) (withImg_crc c) (withImg_layout c) (withImg_key c hc)
    (withImg_signed c) (none_of_two (show (withImg c).loadDies = [0, 1] from hl) (withImg_content c hc hn) (withImg_content1 c hc hn)) ?_
  have i : ∀ u, (withImg c).incompatible u = c.incompatible u := fun _ => rfl
  rw [withImg_vals, show (withImg c).dieCount = 2 from hn, i]
  exact hi

/-- An image of no bytes. -/
def noBlock : List Nat := blockOf (List.replicate 16 255 ++ List.replicate 8 0 ++ List.replicate 4 255 ++ [0, 0]) 0x14492294
theorem no_len (c : Chip) : (withBlock noBlock c).imgLen 1 = 0 := by
  rw [Chip.imgLen, withBlock_nat _ c 16 8 (by decide)]; decide +kernel
theorem no_blocks (c : Chip) : (withBlock noBlock c).imgBlocks 1 = 1 := by
  rw [Chip.imgBlocks, no_len]; decide
theorem no_layout (c : Chip) : (withBlock noBlock c).layoutOk 1 = false := by
  have n : (withBlock noBlock c).sectCount 1 = 0 := by rw [Chip.sectCount, withBlock_nat _ c 28 2 (by decide)]; decide +kernel
  unfold Chip.layoutOk
  simp only [n]
  rfl
theorem unreached (c : Chip) (j : Nat) (r : c.slotReach j = false) : c.updRefusal j false ≠ 0 := by
  unfold Chip.updRefusal
  simp [r]
theorem no_key (c : Chip) (hc : c.captain = 0) : (withBlock noBlock c).imgKeyOk 1 = false := by
  have k : (withBlock noBlock c).imgKeySlot 1 = 255 := by rw [Chip.imgKeySlot, withBlock_one _ c 13 (by decide)]; decide +kernel
  have h : (withBlock noBlock c).fuses 0 = { programmed := 1, hashes := [(0, sha384 imgKey)] } := tabGet_put_same _ _ _
  rw [Chip.imgKeyOk, no_len, withBlock_bytes _ c 0 97 (by decide), k, show (withBlock noBlock c).captain = 0 from hc, h]
  decide +kernel
theorem no_rejoin (c : Chip) (d : Nat) (hs : c.rejoinSlot d = 1) (hb : c.bootSlot = 1) (hr : c.service 1 ≤ svcSidelined)
    (hr' : (c.die 1).inReset = false) : (withBlock noBlock c).rejoinCause d = 0 := by
  have r : (withBlock noBlock c).slotReach 1 = true := by
    have : (withBlock noBlock c).slotReach 1 = (maskBit 3 1 && decide (c.service 1 ≤ svcSidelined) && !(c.die 1).inReset) := rfl
    rw [this, hr', decide_eq_true hr]; rfl
  have k : (withBlock noBlock c).blockCrcOk 1 0 = true := withBlock_crc _ c (by decide +kernel) (by decide +kernel)
  have g : (withBlock noBlock c).imgDigest 1 = sha384 [] := by
    unfold Chip.imgDigest Chip.imgBytes
    rw [no_len]; rfl
  have w : (withBlock noBlock c).rejoinDigest d = sha384 [] := by
    unfold Chip.rejoinDigest
    rw [show (withBlock noBlock c).rejoinSlot d = 1 from hs, show (withBlock noBlock c).bootSlot = 1 from hb]; rfl
  unfold Chip.rejoinCause
  simp only [show (withBlock noBlock c).rejoinSlot d = 1 from hs, r, no_blocks, g, w]
  simp [k]
theorem withBad_content (c : Chip) (hc : c.captain = 0) (hn : c.dieCount = 2) :
    contentFault (withBlock badBlock c).dieCount 0 (withBlock badBlock c).captain ((withBlock badBlock c).imgVals 1) = some (8, 0, 288) := by
  rw [withBad_vals, show (withBlock badBlock c).captain = 0 from hc, show (withBlock badBlock c).dieCount = 2 from hn]; exact content_bad

/-- Port HP0 has the session, with the writes `l` held under sequence number 1; `tagged` puts their right tag into the registers. -/
def heldBy (recovery : Bool) (l : List (Nat × Word)) : Chip :=
  { (pk []).set (onPort 0 SEC_AW_SEQ_SEQ) 1 with sec := { sess := some (0, 1, recovery, []), ctrlKey := [1, 2], held := [(0, l)] } }
def tagged (c : Chip) : Chip :=
  let tg := hmacSha256 c.sec.ctrlKey (c.heldMessage 0)
  (List.range 8).foldl (fun c i => c.setReg (portReg 0 (SEC_AW_TAG i)) (BitVec.ofNat 32 (natLE (sub tg (4 * i) 4)))) c

/-- A PROVE request: the owner key and the ephemeral key are the generator, with the signature of the empty challenge by the secret 1. -/
def proveReq : List Nat :=
  ecPublic 1 ++ List.replicate 203 0 ++ ecPublic 1 ++ List.replicate 3 0
    ++ bytesLE 48 2750097886727221852871437489830375535902219297598792969027200942344246907638882141082920203987932105239591664846012
    ++ bytesLE 48 32583534003008945343505834905779716404326224593864149465795863005575300335683161449567301747448720209928562977395765
theorem prove_signed : ecdsaOk (ecPublic 1) (sha384 (sub proveReq 0 400)) (natLE (sub proveReq 400 48)) (natLE (sub proveReq 448 48)) = true := by
  decide +kernel

/-- The request is in its registers, and port HP0 has the empty challenge. -/
def proving : Chip :=
  (List.range 124).foldl (fun c i => c.setReg (SEC_SESS_REQ i) (BitVec.ofNat 32 (natLE (sub proveReq (4 * i) 4))))
    { (pk []).setFuses 0 { lifecycle := 1 } with sec := { chal := some (0, [], 1) } }
theorem proving_req : proving.sessReq = proveReq := by decide +kernel
theorem proving_owner : proving.ownerOf proving.sessReq = some (0, true) := by decide +kernel
theorem proving_passes : proving.proveCause proving.sessReq [] = 0 := by
  have p : (sub proveReq 97 203).all (· == 0) = true := by decide +kernel
  have a : sub proveReq 0 97 = ecPublic 1 := by decide +kernel
  have b : sub proveReq 300 97 = ecPublic 1 := by decide +kernel
  have o : pointOf (ecPublic 1) = some p384G ∧ onCurve p384G = true := by decide +kernel
  rw [proving_req]
  simp [Chip.proveCause, p, a, b, o, prove_signed]

/-! ### The hypotheses of the statements are met -/

theorem met_MonitorClockSelection :
    (∃ (s : State) (d : Fin 8) (v : Word) (f : _), s.chip.open d = true ∧ s.chip.monFreq d (bitsOf v.toNat 16 8) = some f ∧ f.1 ≤ 250000000 * monDiv (bitsOf v.toNat 0 16) * f.2) ∧
    (∃ (s : State) (d : Fin 8) (v : Word), s.chip.open d = true ∧ (∃ f, s.chip.monFreq d (bitsOf v.toNat 16 8) = some f ∧ 250000000 * monDiv (bitsOf v.toNat 0 16) * f.2 < f.1)) :=
  ⟨⟨mk (pk []), 0, 0x800B0000#32, (156250000, 1), by decide +kernel⟩,
   ⟨mk (pk []), 0, 0x80000001#32, by decide +kernel⟩⟩

theorem met_CrossingResets :
    (∃ (s : State) (d : Fin 8) (b : Fin 32), d.val < s.chip.dieCount ∧ (b.val < 4 ∨ 16 ≤ b.val) ∧ s.chip.runs d = false) ∧
    (∃ (s : State) (d : Fin 8) (b : Fin 32), d.val < s.chip.dieCount ∧ (b.val < 4 ∨ 16 ≤ b.val) ∧ s.chip.runs d = true) ∧
    (∃ (s : State) (d : Fin 8) (b : Fin 32), d.val < s.chip.dieCount ∧ (b.val < 4 ∨ 16 ≤ b.val)) :=
  ⟨⟨mk ((pk []).modDie 0 (fun r => { r with inReset := true })), 0, 3, by decide +kernel⟩,
   ⟨mk (pk [(CLK_XING_DISCARD_COUNT 0, 4294967295)]), 0, 3, by decide +kernel⟩,
   ⟨mk (pk []), 1, 16, by decide +kernel⟩⟩

theorem met_StabilityJudge :
    (∃ (s : State) (d : Fin 8) (n : Nat), s.chip.runs d = true ∧ (s.chip.die d).judgeFound = false ∧ (9850 ≤ n ∧ n ≤ 10150) ∨ (4925 ≤ n ∧ n ≤ 5075)) ∧
    (∃ (s : State) (d : Fin 8) (n : Nat), s.chip.runs d = true ∧ (s.chip.die d).judgeFound = false ∧ (¬ ((9850 ≤ n ∧ n ≤ 10150) ∨ (4925 ≤ n ∧ n ≤ 5075)))) ∧
    (∃ (s : State) (d : Fin 8) (n : Nat), let first := if (s.chip.die d).judgeRun = 0 then n else (s.chip.die d).judgeFirst; s.chip.runs d = true ∧ (s.chip.die d).judgeFound = true ∧ s.chip.get (CLK_STATUS_XO_STABLE d) = 0 ∧ (s.chip.die d).judgeRun ≤ 7 ∧ (s.chip.die d).judgeRun < 7 ∧ 9850 ≤ first ∧ first ≤ 10150 ∧ first ≤ n + 5 ∧ n ≤ first + 5) ∧
    (∃ (s : State) (d : Fin 8) (n : Nat), let first := if (s.chip.die d).judgeRun = 0 then n else (s.chip.die d).judgeFirst; s.chip.runs d = true ∧ (s.chip.die d).judgeFound = true ∧ s.chip.get (CLK_STATUS_XO_STABLE d) = 0 ∧ (s.chip.die d).judgeRun ≤ 7 ∧ (first < 9850 ∨ 10150 < first ∨ n + 5 < first ∨ first + 5 < n)) ∧
    (∃ (s : State) (d : Fin 8) (n : Nat), s.chip.runs d = true ∧ (s.chip.die d).judgeFound = true ∧ s.chip.get (CLK_STATUS_XO_STABLE d) = 0 ∧ (s.chip.die d).judgeRun = 7 ∧ (s.chip.die d).judgeFirst ≤ n + 5 ∧ n ≤ (s.chip.die d).judgeFirst + 5 ∧ 9850 ≤ (s.chip.die d).judgeFirst ∧ (s.chip.die d).judgeFirst ≤ 10150) ∧
    (∃ (s : State) (d : Fin 8) (n : Nat), s.chip.runs d = true ∧ (s.chip.die d).judgeFound = true ∧ s.chip.get (CLK_STATUS_XO_STABLE d) = 1 ∧ n ≤ s.chip.get (CLK_XO_COUNT_REF d) + 20 ∧ s.chip.get (CLK_XO_COUNT_REF d) ≤ n + 20) ∧
    (∃ (s : State) (d : Fin 8), s.chip.runs d = true ∧ s.chip.get (CLK_STATUS_XO_STABLE d) = 0) :=
  ⟨⟨mk (pk []), 0, 10150, by decide +kernel⟩,
   ⟨mk (pk []), 0, 9849, by decide +kernel⟩,
   ⟨mk ((pk []).modDie 0 (fun r => { r with judgeFound := true, judgeRun := 3, judgeFirst := 9994 })), 0, 9999, by dsimp only; decide +kernel⟩,
   ⟨mk ((pk []).modDie 0 (fun r => { r with judgeFound := true, judgeRun := 3, judgeFirst := 9994 })), 0, 10000, by dsimp only; decide +kernel⟩,
   ⟨mk ((pk []).modDie 0 (fun r => { r with judgeFound := true, judgeRun := 7, judgeFirst := 10150 })), 0, 10155, by decide +kernel⟩,
   ⟨mk ((pk [(CLK_STATUS_XO_STABLE 0, 1), (CLK_XO_COUNT_REF 0, 10000)]).modDie 0 (fun r => { r with judgeFound := true })), 0, 9980, by decide +kernel⟩,
   ⟨mk (pk [(CLK_STATUS_XO_STABLE 0, 0)]), 0, by decide +kernel⟩⟩

theorem met_ClockFailures :
    (∃ (s : State) (d : Fin 8), s.chip.runs d = true ∧ s.chip.get (CLK_STATUS_XO_FAIL d) = 0 ∧ s.chip.get (CLK_STATUS_XO_STABLE d) = 1) ∧
    (∃ (s : State) (d : Fin 8), s.chip.runs d = true ∧ s.chip.get (CLK_STATUS_IOSC_FAIL d) = 0) ∧
    (∃ (s : State) (d : Fin 8), s.chip.runs d = true) ∧
    (∃ (s : State) (d : Fin 8), s.chip.runs d = true) :=
  ⟨⟨mk (pk [(CLK_STATUS_XO_STABLE 0, 1), (CLK_FAIL_CNT_XO 0, 65535)]), 0, by decide +kernel⟩,
   ⟨mk (pk []), 0, by decide +kernel⟩,
   ⟨mk (pk [(SYN_STATUS_BYPASS 0, 1)]), 0, by decide +kernel⟩,
   ⟨mk (pk []), 0, by decide +kernel⟩⟩

theorem met_ReferenceQualification :
    (∃ (s : State) (d : Fin 8) (x : Fin 2) (ppm : Nat), Inv s ∧ s.chip.runs d = true ∧ ppm ≤ (if s.chip.get (CLK_STATUS_BASE_SRC d) = 0 then 20000 else s.chip.get (SYN_REF_QUAL_TOL_PPM d)) ∧ s.chip.get (SYN_REF_QUAL_WINDOWS d) ≤ s.chip.qualRun d x + 1) ∧
    (∃ (s : State) (d : Fin 8) (ppm : Nat), Inv s ∧ s.chip.runs d = true ∧ (if s.chip.get (CLK_STATUS_BASE_SRC d) = 0 then 20000 else s.chip.get (SYN_REF_QUAL_TOL_PPM d)) < ppm) ∧
    (∃ (s : State) (d : Fin 8), Inv s ∧ s.chip.runs d = true ∧ s.chip.get (SYN_CTRL_REVERT d) = 1 ∧ s.chip.qualified d (s.chip.get (SYN_CTRL_REF_SEL d)) = true ∧ s.chip.get (SYN_STATUS_REF_ACTIVE d) ≠ s.chip.get (SYN_CTRL_REF_SEL d) ∧ s.chip.get (SYN_STATUS_REF_ACTIVE d) ≠ 3 ∧ (s.chip.syn d = synLocked ∨ s.chip.syn d = synAcquire) ∧ (s.chip.die d).retuneDue = false) :=
  ⟨⟨mk (pk [(CLK_STATUS_BASE_SRC 0, 0), (SYN_REF_QUAL_WINDOWS 0, 1)]), 0, 0, 20000, by unfold Machine.Inv Chip.Ok Chip.regsWf Chip.memWf Chip.unitsWf; decide +kernel⟩,
   ⟨mk (pk [(CLK_STATUS_BASE_SRC 0, 0)]), 0, 20001, by unfold Machine.Inv Chip.Ok Chip.regsWf Chip.memWf Chip.unitsWf; decide +kernel⟩,
   ⟨mk (pk [(SYN_CTRL_REVERT 0, 1), (SYN_CTRL_SRC_EN 0, 7), (SYN_STATUS_QUALIFIED 0, 7), (SYN_STATUS_REF_ACTIVE 0, 1), (SYN_STATUS_STATE 0, 3)]), 0, by unfold Machine.Inv Chip.Ok Chip.regsWf Chip.memWf Chip.unitsWf; decide +kernel⟩⟩

theorem met_HoldoverAndRelock :
    (∃ (s : State) (d : Fin 8), s.chip.runs d = true ∧ s.chip.syn d = synHoldover ∧ s.chip.bypassed d = true ∧ (s.chip.die d).hoAgreed = true) ∧
    (∃ (s : State) (d : Fin 8) (agree : Bool), s.chip.runs d = true ∧ s.chip.syn d = synHoldover ∧ s.chip.bypassed d = true ∧ (agree = false ∨ (s.chip.die d).hoAgreed = false)) ∧
    (∃ (s : State) (d : Fin 8), s.chip.runs d = true ∧ s.chip.syn d = synHoldover ∧ s.chip.bypassed d = true) ∧
    (∃ (s : State) (d : Fin 8), s.chip.runs d = true ∧ s.chip.syn d = synAcquire) ∧
    (∃ (s : State) (d : Fin 8), s.chip.runs d = true ∧ s.chip.get (SYN_STATUS_REALIGN d) = 1) :=
  ⟨⟨mk ((pk [(SYN_STATUS_STATE 0, 4), (SYN_STATUS_BYPASS 0, 1)]).modDie 0 (fun r => { r with hoAgreed := true })), 0, by decide +kernel⟩,
   ⟨mk (pk [(SYN_STATUS_STATE 0, 4), (SYN_STATUS_BYPASS 0, 1)]), 0, false, by decide +kernel⟩,
   ⟨mk (pk [(SYN_STATUS_STATE 0, 4), (SYN_STATUS_BYPASS 0, 1)]), 0, by decide +kernel⟩,
   ⟨mk (pk [(SYN_STATUS_STATE 0, 2)]), 0, by decide +kernel⟩,
   ⟨mk (pk [(SYN_STATUS_REALIGN 0, 1)]), 0, by decide +kernel⟩⟩

theorem met_BandSurvey :
    (∃ (s : State) (d : Fin 8), Inv s ∧ s.chip.runs d = true ∧ s.chip.syn d = synStarting) ∧
    (∃ (s : State) (d : Fin 8), Inv s ∧ s.chip.runs d = true ∧ s.chip.service d = svcSidelined ∧ s.chip.syn d ≠ synStarting ∧ s.chip.syn d ≠ synSurvey) ∧
    (∃ (s : State) (d : Fin 8), Inv s ∧ s.chip.runs d = true ∧ s.chip.service d ≠ svcSidelined ∧ s.chip.syn d ≠ synStarting) ∧
    (∃ (s : State) (d : Fin 8), Inv s ∧ s.chip.runs d = true ∧ s.chip.syn d = synSurvey ∧ (s.chip.die d).surveyDue = false) :=
  ⟨⟨mk (pk []), 0, by unfold Machine.Inv Chip.Ok Chip.regsWf Chip.memWf Chip.unitsWf; decide +kernel⟩,
   ⟨mk ((pk [(SYN_STATUS_STATE 1, 3)]).setService 1 svcSidelined), 1, by unfold Machine.Inv Chip.Ok Chip.regsWf Chip.memWf Chip.unitsWf; decide +kernel⟩,
   ⟨mk (pk [(SYN_STATUS_STATE 0, 3)]), 0, by unfold Machine.Inv Chip.Ok Chip.regsWf Chip.memWf Chip.unitsWf; decide +kernel⟩,
   ⟨mk (pk [(SYN_STATUS_STATE 0, 1)]), 0, by unfold Machine.Inv Chip.Ok Chip.regsWf Chip.memWf Chip.unitsWf; decide +kernel⟩⟩

theorem met_PhaseSteps :
    (∃ (s : State) (d : Fin 8), s.chip.open d = true ∧ (s.chip.get PKG_TICK_CFG_GRID_NET = 1 ∨ s.chip.get (SYN_PSTEP_PEND_PEND d) ≠ 0 ∨ s.chip.get (SYN_STATUS_REALIGN d) = 1 ∨ s.chip.syn d ≠ synLocked)) ∧
    (∃ (s : State) (d : Fin 8) (v : Word), s.chip.open d = true ∧ v.toNat.testBit 16 = false ∧ (∃ e ∈ s.chip.inServiceDies, s.chip.pstepBusy e = true)) ∧
    (∃ (s : State) (d : Fin 8) (v : Word), s.chip.open d = true ∧ v.toNat.testBit 16 = false ∧ s.chip.get PKG_TICK_CFG_GRID_NET = 0 ∧ s.chip.pstepBusy d = false ∧ (∀ e ∈ s.chip.inServiceDies, s.chip.pstepBusy e = false) ∧ v.toNat % 65536 ≠ 0) ∧
    (∃ (s : State) (d : Fin 8) (v : Word), s.chip.open d = true ∧ s.chip.get PKG_TICK_CFG_GRID_NET = 0 ∧ s.chip.get (SYN_PSTEP_PEND_PEND d) = 0 ∧ s.chip.get (SYN_STATUS_REALIGN d) = 0 ∧ s.chip.syn d = synLocked ∧ v.toNat.testBit 16 = true ∧ v.toNat % 65536 ≠ 0) ∧
    (∃ (s : State) (d : Fin 8) (b : _), s.chip.runs d = true ∧ (s.chip.die d).pstepAt = some b ∧ b ≤ s.chip.tick) ∧
    (∃ (s : State) (d : Fin 8), s.chip.runs d = true ∧ (s.chip.die d).pstepOn = true ∧ (s.chip.getI (SYN_PSTEP_PEND_PEND d)).natAbs ≤ 65536 ∧ (s.chip.getI (SYN_PHASE_ACC_ACC d)).natAbs ≤ 2 ^ 30) :=
  ⟨⟨mk (pk [(PKG_TICK_CFG_GRID_NET, 1)]), 0, by decide +kernel⟩,
   ⟨mk (pk [(SYN_STATUS_STATE 0, 3)]), 0, 0x00008000#32, by decide +kernel⟩,
   ⟨mk (pk [(SYN_STATUS_STATE 0, 3), (SYN_STATUS_STATE 1, 3)]), 0, 0x00008000#32, by decide +kernel⟩,
   ⟨mk (pk [(SYN_STATUS_STATE 0, 3)]), 0, 0x00018000#32, by decide +kernel⟩,
   ⟨mk ((pk []).modDie 0 (fun r => { r with pstepAt := some 4000 })), 0, 4000, by decide +kernel⟩,
   ⟨mk (((pk [(SYN_PHASE_ACC_ACC 0, 1073741824)]).setI (SYN_PSTEP_PEND_PEND 0) (-32768)).modDie 0 (fun r => { r with pstepOn := true })), 0, by decide +kernel⟩⟩

theorem met_RampCommands :
    (∃ (s : State) (d : Fin 8) (v : Word) (t : Nat), let w := (s.chip.at t).setReg (RAMP_CTRL d) (v &&& 0x8003000F); let b := if v.toNat.testBit 16 then s.chip.get (RAMP_START_TICK_TICK d) else (s.chip.at t).boundary20; Inv s ∧ s.chip.open d = true ∧ v.toNat.testBit 17 = false ∧ v.toNat.testBit 31 = true ∧ v.toNat.testBit 30 = true ∧ v.toNat.testBit 29 = false ∧ v.toNat.testBit 28 = false ∧ (s.chip.at t).boundary20 ≤ b ∧ w.rampOk d (v.toNat % 16) = true) ∧
    (∃ (s : State) (d : Fin 8) (v : Word) (t : Nat), let w := (s.chip.at t).setReg (RAMP_CTRL d) (v &&& 0x8003000F); let b := if v.toNat.testBit 16 then s.chip.get (RAMP_START_TICK_TICK d) else (s.chip.at t).boundary20; Inv s ∧ s.chip.open d = true ∧ v.toNat.testBit 17 = false ∧ v.toNat.testBit 31 = true ∧ v.toNat.testBit 30 = true ∧ v.toNat.testBit 29 = false ∧ v.toNat.testBit 28 = false ∧ (b < (s.chip.at t).boundary20 ∨ w.rampOk d (v.toNat % 16) = false)) ∧
    (∃ (s : State) (d : Fin 8) (v : Word) (t : Nat), let w := (s.chip.at t).setReg (RAMP_CTRL d) (v &&& 0x8003000F); let b := if v.toNat.testBit 16 then s.chip.get (RAMP_START_TICK_TICK d) else (s.chip.at t).boundary20; Inv s ∧ s.chip.open d = true ∧ v.toNat.testBit 17 = true ∧ v.toNat.testBit 31 = true ∧ v.toNat.testBit 30 = true ∧ v.toNat.testBit 29 = false ∧ v.toNat.testBit 28 = false ∧ (s.chip.at t).boundary20 ≤ b ∧ w.rampOk d (v.toNat % 16) = true ∧ (∀ e ∈ s.chip.inServiceDies, w.rampOk e (v.toNat % 16) = true)) ∧
    (∃ (s : State) (d : Fin 8) (v : Word) (t : Nat), let w := (s.chip.at t).setReg (RAMP_CTRL d) (v &&& 0x8003000F); Inv s ∧ s.chip.open d = true ∧ v.toNat.testBit 17 = true ∧ v.toNat.testBit 31 = true ∧ v.toNat.testBit 30 = true ∧ v.toNat.testBit 29 = false ∧ v.toNat.testBit 28 = false ∧ (∃ e ∈ s.chip.inServiceDies, w.rampOk e (v.toNat % 16) = false)) ∧
    (∃ (s : State) (d : Fin 8) (v : Word), Inv s ∧ s.chip.open d = true ∧ v.toNat.testBit 17 = true ∧ v.toNat.testBit 31 = true ∧ v.toNat.testBit 30 = false ∧ v.toNat.testBit 29 = true ∧ v.toNat.testBit 28 = false) ∧
    (∃ (s : State) (d : Fin 8) (v : Word), Inv s ∧ s.chip.open d = true ∧ v.toNat.testBit 17 = false ∧ v.toNat.testBit 31 = true ∧ v.toNat.testBit 30 = false ∧ v.toNat.testBit 29 = true ∧ v.toNat.testBit 28 = false ∧ s.chip.ramp d = rampArmed) ∧
    (∃ (s : State) (d : Fin 8) (v : Word) (t : Nat) (c : Nat), let w := (s.chip.at t).setReg (RAMP_CTRL d) (v &&& 0x8003000F); Inv s ∧ s.chip.open d = true ∧ v.toNat.testBit 17 = false ∧ v.toNat.testBit 31 = true ∧ v.toNat.testBit 30 = false ∧ v.toNat.testBit 29 = true ∧ v.toNat.testBit 28 = false ∧ s.chip.ramp d = rampRunning ∧ c - (s.chip.die d).rampUsed < s.chip.get (RAMP_SEG_LEFT_CYCLES d) ∧ w.rampFree d (s.chip.getI (RAMP_ACC_A d)) (s.chip.rampInc d) (c - (s.chip.die d).rampUsed) = c - (s.chip.die d).rampUsed ∧ (s.chip.getI (RAMP_ACC_A d) + segInc s.chip.get d (s.chip.get (RAMP_STATUS_PROFILE d)) (s.chip.get (RAMP_STATUS_SEGMENT d)) * ((c - (s.chip.die d).rampUsed : Nat) : Int)).natAbs < 2 ^ 63) ∧
    (∃ (s : State) (d : Fin 8) (v : Word) (t : Nat) (c : Nat), let w := (s.chip.at t).setReg (RAMP_CTRL d) (v &&& 0x8003000F); Inv s ∧ s.chip.open d = true ∧ v.toNat.testBit 17 = false ∧ v.toNat.testBit 31 = true ∧ v.toNat.testBit 30 = false ∧ v.toNat.testBit 29 = true ∧ v.toNat.testBit 28 = false ∧ s.chip.ramp d = rampRunning ∧ s.chip.rampLast d = true ∧ s.chip.get (RAMP_SEG_LEFT_CYCLES d) = c - (s.chip.die d).rampUsed ∧ w.rampFree d (s.chip.getI (RAMP_ACC_A d)) (s.chip.rampInc d) (c - (s.chip.die d).rampUsed) = c - (s.chip.die d).rampUsed) ∧
    (∃ (s : State) (d : Fin 8) (v : Word), Inv s ∧ s.chip.open d = true ∧ v.toNat.testBit 17 = false ∧ v.toNat.testBit 31 = false ∧ v.toNat.testBit 30 = false ∧ v.toNat.testBit 29 = false ∧ v.toNat.testBit 28 = false ∧ s.chip.ramp d = rampArmed) ∧
    (∃ (s : State) (d : Fin 8) (v : Word), Inv s ∧ s.chip.open d = true ∧ v.toNat.testBit 31 = true ∧ v.toNat.testBit 30 = false ∧ v.toNat.testBit 29 = false ∧ v.toNat.testBit 28 = true ∧ s.chip.rampBusy d = false ∧ s.chip.foldOk d = true) ∧
    (∃ (s : State) (d : Fin 8) (v : Word), Inv s ∧ s.chip.open d = true ∧ v.toNat.testBit 31 = true ∧ v.toNat.testBit 30 = false ∧ v.toNat.testBit 29 = false ∧ v.toNat.testBit 28 = true ∧ (s.chip.rampBusy d = true ∨ s.chip.foldOk d = false)) :=
  ⟨⟨mk (pk [(SYN_STATUS_STATE 0, 3), (⟨SYN_BAND 0 3, 0, 64⟩, 0x02584E2027108000)]), 0, 0xC000000F#32, 0, by unfold Machine.Inv Chip.Ok Chip.regsWf Chip.memWf Chip.unitsWf; dsimp only; decide +kernel⟩,
   ⟨mk (pk [(RAMP_START_TICK_TICK 0, 4000)]), 0, 0xC0010000#32, 0, by unfold Machine.Inv Chip.Ok Chip.regsWf Chip.memWf Chip.unitsWf; dsimp only; decide +kernel⟩,
   ⟨mk (pk [(SYN_STATUS_STATE 0, 3), (⟨SYN_BAND 0 3, 0, 64⟩, 0x02584E2027108000), (SYN_STATUS_STATE 1, 3), (⟨SYN_BAND 1 3, 0, 64⟩, 0x02584E2027108000)]), 0, 0xC0020000#32, 0, by unfold Machine.Inv Chip.Ok Chip.regsWf Chip.memWf Chip.unitsWf; dsimp only; decide +kernel⟩,
   ⟨mk (pk [(SYN_STATUS_STATE 0, 3), (⟨SYN_BAND 0 3, 0, 64⟩, 0x02584E2027108000)]), 0, 0xC0020000#32, 0, by unfold Machine.Inv Chip.Ok Chip.regsWf Chip.memWf Chip.unitsWf; dsimp only; decide +kernel⟩,
   ⟨mk (pk [(RAMP_STATUS_STATE 1, 2)]), 0, 0xA0020000#32, by unfold Machine.Inv Chip.Ok Chip.regsWf Chip.memWf Chip.unitsWf; decide +kernel⟩,
   ⟨mk (pk [(RAMP_STATUS_STATE 0, 1)]), 0, 0xA0000000#32, by unfold Machine.Inv Chip.Ok Chip.regsWf Chip.memWf Chip.unitsWf; decide +kernel⟩,
   ⟨mk (pk [(SYN_STATUS_STATE 0, 3), (⟨SYN_BAND 0 3, 0, 64⟩, 0x02584E2027108000), (RAMP_STATUS_STATE 0, 2), (RAMP_SEG_LEFT_CYCLES 0, 10), (RAMP_SEG_INC_INC 0 0 0, 0x7FFF)]), 0, 0xA0000000#32, 0, 9, by unfold Machine.Inv Chip.Ok Chip.regsWf Chip.memWf Chip.unitsWf; dsimp only; decide +kernel⟩,
   ⟨mk (pk [(SYN_STATUS_STATE 0, 3), (⟨SYN_BAND 0 3, 0, 64⟩, 0x02584E2027108000), (RAMP_STATUS_STATE 0, 2), (RAMP_STATUS_SEGMENT 0, 15), (RAMP_SEG_LEFT_CYCLES 0, 9)]), 0, 0xA0000000#32, 0, 9, by unfold Machine.Inv Chip.Ok Chip.regsWf Chip.memWf Chip.unitsWf; dsimp only; decide +kernel⟩,
   ⟨mk (pk [(RAMP_STATUS_STATE 0, 1)]), 0, 0#32, by unfold Machine.Inv Chip.Ok Chip.regsWf Chip.memWf Chip.unitsWf; decide +kernel⟩,
   ⟨mk (pk []), 0, 0x90000000#32, by unfold Machine.Inv Chip.Ok Chip.regsWf Chip.memWf Chip.unitsWf; decide +kernel⟩,
   ⟨mk (pk [(RAMP_STATUS_STATE 0, 2)]), 0, 0x90000000#32, by unfold Machine.Inv Chip.Ok Chip.regsWf Chip.memWf Chip.unitsWf; decide +kernel⟩⟩

theorem met_RampMotion :
    (∃ (s : State) (d : Fin 8) (b : _), let p := s.chip.get (RAMP_STATUS_PROFILE d); s.chip.runs d = true ∧ (s.chip.die d).rampAt = some b ∧ b ≤ s.chip.tick ∧ s.chip.ramp d = rampArmed ∧ segDur s.chip.get d p 0 ≠ 0) ∧
    (∃ (s : State) (d : Fin 8), let p := s.chip.get (RAMP_STATUS_PROFILE d); let i := s.chip.get (RAMP_STATUS_SEGMENT d); let left := s.chip.get (RAMP_SEG_LEFT_CYCLES d); let a := s.chip.getI (RAMP_ACC_A d) + segInc s.chip.get d p i * (left : Int); s.chip.runs d = true ∧ s.chip.ramp d = rampRunning ∧ a.natAbs < 2 ^ 63 ∧ s.chip.rampFree d (s.chip.getI (RAMP_ACC_A d)) (s.chip.rampInc d) left = left ∧ i < 15 ∧ segDur s.chip.get d p (i + 1) ≠ 0) ∧
    (∃ (s : State) (d : Fin 8), let p := s.chip.get (RAMP_STATUS_PROFILE d); let i := s.chip.get (RAMP_STATUS_SEGMENT d); let left := s.chip.get (RAMP_SEG_LEFT_CYCLES d); let a := s.chip.getI (RAMP_ACC_A d) + segInc s.chip.get d p i * (left : Int); s.chip.runs d = true ∧ s.chip.ramp d = rampRunning ∧ a.natAbs < 2 ^ 63 ∧ s.chip.rampFree d (s.chip.getI (RAMP_ACC_A d)) (s.chip.rampInc d) left = left ∧ (i = 15 ∨ segDur s.chip.get d p (i + 1) = 0) ∧ s.chip.get (RAMP_PROF_CTRL_END d p) = 0) ∧
    (∃ (s : State) (d : Fin 8), let p := s.chip.get (RAMP_STATUS_PROFILE d); let i := s.chip.get (RAMP_STATUS_SEGMENT d); let left := s.chip.get (RAMP_SEG_LEFT_CYCLES d); let a := s.chip.getI (RAMP_ACC_A d) + segInc s.chip.get d p i * (left : Int); let q := s.chip.get (RAMP_PROF_CTRL_NEXT d p); s.chip.runs d = true ∧ s.chip.ramp d = rampRunning ∧ a.natAbs < 2 ^ 63 ∧ s.chip.rampFree d (s.chip.getI (RAMP_ACC_A d)) (s.chip.rampInc d) left = left ∧ (i = 15 ∨ segDur s.chip.get d p (i + 1) = 0) ∧ s.chip.get (RAMP_PROF_CTRL_END d p) = 1 ∧ segDur s.chip.get d q 0 ≠ 0) ∧
    (∃ (s : State) (d : Fin 8), let p := s.chip.get (RAMP_STATUS_PROFILE d); let i := s.chip.get (RAMP_STATUS_SEGMENT d); let left := s.chip.get (RAMP_SEG_LEFT_CYCLES d); let a := s.chip.getI (RAMP_ACC_A d) + segInc s.chip.get d p i * (left : Int); s.chip.runs d = true ∧ s.chip.ramp d = rampRunning ∧ a.natAbs < 2 ^ 63 ∧ s.chip.rampFree d (s.chip.getI (RAMP_ACC_A d)) (s.chip.rampInc d) left = left ∧ (i = 15 ∨ segDur s.chip.get d p (i + 1) = 0) ∧ s.chip.get (RAMP_PROF_CTRL_END d p) = 2 ∧ s.chip.get (RAMP_PROF_CTRL_COUNT d p) ≠ 0 ∧ s.chip.get (RAMP_STATUS_LOOPS_LEFT d) ≠ 0 ∧ segDur s.chip.get d p 0 ≠ 0) ∧
    (∃ (s : State) (d : Fin 8), let p := s.chip.get (RAMP_STATUS_PROFILE d); let i := s.chip.get (RAMP_STATUS_SEGMENT d); let left := s.chip.get (RAMP_SEG_LEFT_CYCLES d); let a := s.chip.getI (RAMP_ACC_A d) + segInc s.chip.get d p i * (left : Int); s.chip.runs d = true ∧ s.chip.ramp d = rampRunning ∧ a.natAbs < 2 ^ 63 ∧ s.chip.rampFree d (s.chip.getI (RAMP_ACC_A d)) (s.chip.rampInc d) left = left ∧ (i = 15 ∨ segDur s.chip.get d p (i + 1) = 0) ∧ s.chip.get (RAMP_PROF_CTRL_END d p) = 2 ∧ s.chip.get (RAMP_PROF_CTRL_COUNT d p) ≠ 0 ∧ s.chip.get (RAMP_STATUS_LOOPS_LEFT d) = 0) ∧
    (∃ (s : State) (d : Fin 8) (c : Nat) (cause : Fin 3), let left := s.chip.get (RAMP_SEG_LEFT_CYCLES d); let k := c - (s.chip.die d).rampUsed; let x := s.chip.getI (RAMP_ACC_A d) + s.chip.rampInc d * (k : Int); s.chip.runs d = true ∧ s.chip.ramp d = rampRunning ∧ k ≤ left ∧ x.natAbs < 2 ^ 63 ∧ s.chip.rampFree d (s.chip.getI (RAMP_ACC_A d)) (s.chip.rampInc d) k = k ∧ s.chip.rampLimit d (x + s.chip.rampInc d) = cause.val + 4) ∧
    (∃ (s : State) (d : Fin 8) (c : Nat) (cause : Fin 3), let left := s.chip.get (RAMP_SEG_LEFT_CYCLES d); let k := c - (s.chip.die d).rampUsed; let x := s.chip.getI (RAMP_ACC_A d) + s.chip.rampInc d * (k : Int); s.chip.runs d = true ∧ s.chip.ramp d = rampRunning ∧ k ≤ left ∧ x.natAbs < 2 ^ 63 ∧ s.chip.rampFree d (s.chip.getI (RAMP_ACC_A d)) (s.chip.rampInc d) k = k ∧ s.chip.rampLimit d (x + s.chip.rampInc d) ≠ cause.val + 4) :=
  ⟨⟨mk ((pk [(RAMP_STATUS_STATE 0, 1), (RAMP_STATUS_PROFILE 0, 15), (RAMP_SEG_DUR_DUR 0 15 0, 1)]).modDie 0 (fun r => { r with rampAt := some 4000 })), 0, 4000, by dsimp only; decide +kernel⟩,
   ⟨mk (pk [(SYN_STATUS_STATE 0, 3), (⟨SYN_BAND 0 3, 0, 64⟩, 0x02584E2027108000), (RAMP_STATUS_STATE 0, 2), (RAMP_STATUS_SEGMENT 0, 14), (RAMP_SEG_DUR_DUR 0 0 15, 1), (RAMP_SEG_INC_INC 0 0 14, 0xFFFFFFFFFFFF), (RAMP_SEG_LEFT_CYCLES 0, 4294967295)]), 0, by dsimp only; decide +kernel⟩,
   ⟨mk (pk [(SYN_STATUS_STATE 0, 3), (⟨SYN_BAND 0 3, 0, 64⟩, 0x02584E2027108000), (RAMP_STATUS_STATE 0, 2), (RAMP_STATUS_SEGMENT 0, 15)]), 0, by dsimp only; decide +kernel⟩,
   ⟨mk (pk [(SYN_STATUS_STATE 0, 3), (⟨SYN_BAND 0 3, 0, 64⟩, 0x02584E2027108000), (RAMP_STATUS_STATE 0, 2), (RAMP_PROF_CTRL_END 0 0, 1), (RAMP_PROF_CTRL_NEXT 0 0, 7), (RAMP_SEG_DUR_DUR 0 7 0, 1)]), 0, by dsimp only; decide +kernel⟩,
   ⟨mk (pk [(SYN_STATUS_STATE 0, 3), (⟨SYN_BAND 0 3, 0, 64⟩, 0x02584E2027108000), (RAMP_STATUS_STATE 0, 2), (RAMP_PROF_CTRL_END 0 0, 2), (RAMP_PROF_CTRL_COUNT 0 0, 2), (RAMP_STATUS_LOOPS_LEFT 0, 1), (RAMP_SEG_DUR_DUR 0 0 0, 1)]), 0, by dsimp only; decide +kernel⟩,
   ⟨mk (pk [(SYN_STATUS_STATE 0, 3), (⟨SYN_BAND 0 3, 0, 64⟩, 0x02584E2027108000), (RAMP_STATUS_STATE 0, 2), (RAMP_PROF_CTRL_END 0 0, 2), (RAMP_PROF_CTRL_COUNT 0 0, 2)]), 0, by dsimp only; decide +kernel⟩,
   ⟨mk (pk [(SYN_STATUS_STATE 0, 3), (⟨SYN_BAND 0 3, 0, 64⟩, 0x02584E2027108000), (RAMP_STATUS_STATE 0, 2), (RAMP_SEG_INC_INC 0 0 0, 0x7FFFFFFFFFFF), (RAMP_ACC_A 0, 0x1000000000000), (RAMP_SEG_LEFT_CYCLES 0, 4294967295)]), 0, 0, 0, by dsimp only; decide +kernel⟩,
   ⟨mk (pk [(SYN_STATUS_STATE 0, 3), (⟨SYN_BAND 0 3, 0, 64⟩, 0x02584E2027108000), (RAMP_STATUS_STATE 0, 2), (RAMP_SEG_INC_INC 0 0 0, 1), (RAMP_SEG_LEFT_CYCLES 0, 2500)]), 0, 2500, 2, by dsimp only; decide +kernel⟩⟩

theorem met_CoreLockAndLoss :
    (∃ (s : State) (d : Fin 8) (m : TdcReading) (tdc : List TdcReading), let r := (s.chip.die d).core; let win := s.chip.get (SYN_LOCK_CFG_WIN d); let e := s.chip.phaseErr d (s.chip.getI (SYN_BUILDOUT_OFFSET d)) m; Inv s ∧ s.chip.runs d = true ∧ s.chip.ramp d ≠ rampRunning ∧ r.used = tdc.length ∧ s.chip.syn d = synAcquire ∧ e.natAbs ≤ win ∧ s.chip.get (SYN_LOCK_CFG_CNT d) ≤ r.lockRun + 1) ∧
    (∃ (s : State) (d : Fin 8) (m : TdcReading) (tdc : List TdcReading), let r := (s.chip.die d).core; let win := s.chip.get (SYN_LOCK_CFG_WIN d); let e := s.chip.phaseErr d (s.chip.getI (SYN_BUILDOUT_OFFSET d)) m; Inv s ∧ s.chip.runs d = true ∧ s.chip.ramp d ≠ rampRunning ∧ r.used = tdc.length ∧ s.chip.syn d = synAcquire ∧ win < e.natAbs ∧ 0 < s.chip.get (SYN_LOCK_CFG_CNT d)) ∧
    (∃ (s : State) (d : Fin 8) (m : TdcReading) (tdc : List TdcReading), let r := (s.chip.die d).core; let win := s.chip.get (SYN_LOCK_CFG_WIN d); let e := s.chip.phaseErr d (s.chip.getI (SYN_BUILDOUT_OFFSET d)) m; Inv s ∧ s.chip.runs d = true ∧ s.chip.ramp d ≠ rampRunning ∧ r.used = tdc.length ∧ s.chip.syn d = synLocked ∧ ((4 * win < e.natAbs ∧ 3 ≤ r.badRun) ∨ m.out = true)) ∧
    (∃ (s : State) (d : Fin 8) (m : TdcReading) (tdc : List TdcReading), let r := (s.chip.die d).core; let win := s.chip.get (SYN_LOCK_CFG_WIN d); let e := s.chip.phaseErr d (s.chip.getI (SYN_BUILDOUT_OFFSET d)) m; Inv s ∧ s.chip.runs d = true ∧ s.chip.ramp d ≠ rampRunning ∧ r.used = tdc.length ∧ s.chip.syn d = synLocked ∧ ((4 * win < e.natAbs ∧ 3 ≤ r.badRun) ∨ m.out = true)) ∧
    (∃ (s : State) (d : Fin 8) (tdc : List TdcReading), let w := s.chip.coreUpTo d tdc; Inv s ∧ s.chip.runs d = true ∧ (w.syn d = synLocked ∨ w.syn d = synAcquire) ∧ w.get (SYN_STATUS_REF_ACTIVE d) ≠ 3) ∧
    (∃ (s : State) (d : Fin 8) (fine : Nat) (e : _), Inv s ∧ s.chip.runs d = true ∧ s.chip.syn d = synLocked ∧ (fine < 4096 ∨ 61439 < fine) ∧ (if fine < 4096 then bandBelow (bandsOf s.chip.get d) (s.chip.get (SYN_DCO_BAND d)) else bandAbove (bandsOf s.chip.get d) (s.chip.get (SYN_DCO_BAND d))) = some e) ∧
    (∃ (s : State) (d : Fin 8) (fine : Nat), Inv s ∧ s.chip.runs d = true ∧ s.chip.syn d = synLocked ∧ (fine < 4096 ∨ 61439 < fine) ∧ (if fine < 4096 then bandBelow (bandsOf s.chip.get d) (s.chip.get (SYN_DCO_BAND d)) else bandAbove (bandsOf s.chip.get d) (s.chip.get (SYN_DCO_BAND d))) = none) :=
  ⟨⟨mk ((pk [(SYN_STATUS_STATE 0, 2)]).modDie 0 (fun r => { r with core := { r.core with lockRun := 65535 } })), 0, ⟨0, 0, false⟩, [], by unfold Machine.Inv Chip.Ok Chip.regsWf Chip.memWf Chip.unitsWf; dsimp only; decide +kernel⟩,
   ⟨mk (pk [(SYN_STATUS_STATE 0, 2), (SYN_LOCK_CFG_CNT 0, 1)]), 0, ⟨1000000, 63, false⟩, [], by unfold Machine.Inv Chip.Ok Chip.regsWf Chip.memWf Chip.unitsWf; dsimp only; decide +kernel⟩,
   ⟨mk ((pk [(SYN_STATUS_STATE 0, 3)]).modDie 0 (fun r => { r with core := { r.core with badRun := 3 } })), 0, ⟨1000000, 0, false⟩, [], by unfold Machine.Inv Chip.Ok Chip.regsWf Chip.memWf Chip.unitsWf; dsimp only; decide +kernel⟩,
   ⟨mk ((pk [(SYN_STATUS_STATE 0, 3)]).modDie 0 (fun r => { r with core := { r.core with used := 1 } })), 0, ⟨0, 0, true⟩, [⟨0, 0, false⟩], by unfold Machine.Inv Chip.Ok Chip.regsWf Chip.memWf Chip.unitsWf; dsimp only; decide +kernel⟩,
   ⟨mk (pk [(SYN_STATUS_STATE 0, 3), (SYN_STATUS_REF_ACTIVE 0, 0)]), 0, [⟨0, 0, false⟩, ⟨0, 63, false⟩], by unfold Machine.Inv Chip.Ok Chip.regsWf Chip.memWf Chip.unitsWf; dsimp only; decide +kernel⟩,
   ⟨mk (pk [(SYN_STATUS_STATE 0, 3), (⟨SYN_BAND 0 3, 0, 64⟩, 0x02584E2027108000), (SYN_DCO_BAND 0, 2)]), 0, 61440, (3, 0x02584E2027108000), by unfold Machine.Inv Chip.Ok Chip.regsWf Chip.memWf Chip.unitsWf; decide +kernel⟩,
   ⟨mk (pk [(SYN_STATUS_STATE 0, 3)]), 0, 4095, by unfold Machine.Inv Chip.Ok Chip.regsWf Chip.memWf Chip.unitsWf; decide +kernel⟩⟩

theorem met_LibraryCode :
    (∃ (i : _), i < 64 ∧ 2 ^ i < 2 ^ 64) :=
  ⟨63, by decide +kernel⟩

theorem met_LibraryWrites :
    (∃ (s : State) (d : Fin 8) (sl : Fin 2560) (q : Fin 1024) (v : BitVec 64), let k := entKey d sl q; s.chip.open d = true ∧ sl.val < 2048 ∧ (q.val = 0 → v.toNat.testBit 47 = true) ∧ s.chip.isLive k = false) ∧
    (∃ (s : State) (d : Fin 8) (sl : Fin 2560) (q : Fin 1024) (v : BitVec 64), let k := entKey d sl q; s.chip.open d = true ∧ sl.val < 2048 ∧ (q.val = 0 → v.toNat.testBit 47 = true) ∧ s.chip.isLive k = true) ∧
    (∃ (s : State) (d : Fin 8) (sl : Fin 2560) (q : Fin 1024) (v : BitVec 64), s.chip.open d = true ∧ sl.val < 2048 ∧ q.val = 0 ∧ v.toNat.testBit 47 = false) ∧
    (∃ (s : State) (d : Fin 8) (sl : Fin 2560), s.chip.open d = true ∧ 2048 ≤ sl.val) ∧
    (∃ (s : State) (d : Fin 8) (sl : Fin 2560), s.chip.runs d = true ∧ sl.val < 2048) :=
  ⟨⟨mk (pk []), 0, 2047, 0, 0x0000800000000000#64, by dsimp only; decide +kernel⟩,
   ⟨mk ((pk [(CH_STATE_CURRENT 0 3, 1023)]).modSlot 0 3 (fun r => { r with active := true })), 0, 3, 1023, 1#64, by dsimp only; decide +kernel⟩,
   ⟨mk (pk []), 0, 2047, 0, 0x00007FFFFFFFFFFF#64, by decide +kernel⟩,
   ⟨mk (pk []), 0, 2048, by decide +kernel⟩,
   ⟨mk ({ pk [] with libQueue := [(entKey 1 3 5, 2), (entKey 0 3 5, 1)] }), 0, 3, by decide +kernel⟩⟩

theorem met_LibraryRepair :
    (∃ (s : State) (d : Fin 8) (p : _) (m : _), d.val < s.chip.dieCount ∧ s.chip.mirrorQueue.find? (fun p => keyDie p.1 == d.val) = some p ∧ s.chip.mirrorOf p.1 = some m) ∧
    (∃ (s : State) (d : Fin 8) (sl : Fin 2560) (q : Fin 1024) (e : _), let k := entKey d sl q; s.chip.runs d = true ∧ s.chip.get (LIB_CTRL_SCRUB_EN d) = 1 ∧ s.chip.isPoison k = false ∧ (s.chip.lib.any (fun p => p.1 == k) = true) ∧ secded (s.chip.libRaw k) = some (e, true)) ∧
    (∃ (s : State) (d : Fin 8) (sl : Fin 2560) (q : Fin 1024), let k := entKey d sl q; s.chip.runs d = true ∧ s.chip.get (LIB_CTRL_SCRUB_EN d) = 1 ∧ s.chip.isPoison k = false ∧ (s.chip.lib.any (fun p => p.1 == k) = true) ∧ secded (s.chip.libRaw k) = none) ∧
    (∃ (s : State) (d : Fin 8) (sl : Fin 2560) (q : Fin 1024) (o : _), let k := entKey d sl q; s.chip.runs d = true ∧ s.chip.isPoison k = true ∧ s.chip.otherCopy k = some o ∧ s.chip.holdsLib (keyDie o) = false) ∧
    (∃ (s : State) (d : Fin 8) (sl : Fin 2560) (q : Fin 1024) (o : _) (e : _) (fixed : _), let k := entKey d sl q; s.chip.runs d = true ∧ s.chip.isPoison k = true ∧ s.chip.otherCopy k = some o ∧ s.chip.holdsLib (keyDie o) = true ∧ s.chip.isPoison o = false ∧ secded (s.chip.libRaw o) = some (e, fixed)) ∧
    (∃ (s : State) (d : Fin 8) (sl : Fin 2560) (q : Fin 1024) (o : _), let k := entKey d sl q; s.chip.runs d = true ∧ s.chip.isPoison k = true ∧ s.chip.otherCopy k = some o ∧ s.chip.holdsLib (keyDie o) = true ∧ s.chip.isPoison o = false ∧ secded (s.chip.libRaw o) = none) :=
  ⟨⟨mk ({ pk [] with protMask := 1, mirrorQueue := [(entKey 0 3 5, 1)] }), 0, (entKey 0 3 5, 1), mirKey 1 0 3 5, by decide +kernel⟩,
   ⟨mk ({ pk [(LIB_CTRL_SCRUB_EN 0, 1)] with lib := [(entKey 0 3 5, withCheck 9 ^^^ 2 ^ 63)] }), 0, 3, 5, withCheck 9, by dsimp only; decide +kernel⟩,
   ⟨mk ({ pk [(LIB_CTRL_SCRUB_EN 0, 1)] with lib := [(entKey 0 3 5, withCheck 9 ^^^ 2 ^ 63 ^^^ 1)] }), 0, 3, 5, by dsimp only; decide +kernel⟩,
   ⟨mk ({ (pk []).modDie 1 (fun r => { r with inReset := true }) with protMask := 1, poison := [(entKey 0 3 5, true)] }), 0, 3, 5, mirKey 1 0 3 5, by dsimp only; decide +kernel⟩,
   ⟨mk ({ pk [] with protMask := 1, poison := [(entKey 0 3 5, true)], lib := [(mirKey 1 0 3 5, withCheck 9)] }), 0, 3, 5, mirKey 1 0 3 5, (withCheck 9), false, by dsimp only; decide +kernel⟩,
   ⟨mk ({ pk [] with protMask := 1, poison := [(entKey 0 3 5, true)], lib := [(mirKey 1 0 3 5, withCheck 9 ^^^ 3)] }), 0, 3, 5, mirKey 1 0 3 5, by dsimp only; decide +kernel⟩⟩

theorem met_LoopTransitions :
    (∃ (s : State) (d : Fin 8) (sl : Fin 2560), s.chip.runs d = true ∧ (s.chip.slot d sl).st = lpKick ∧ (s.chip.slot d sl).kickAt + (s.chip.slot d sl).kickX ≤ s.chip.tick) ∧
    (∃ (s : State) (d : Fin 8) (sl : Fin 2560), s.chip.open d = true ∧ (s.chip.slot d sl).st = lpFault) ∧
    (∃ (s : State) (d : Fin 8) (sl : Fin 2560), (s.chip.slot d sl).st = lpFault ∧ (s.chip.slot d sl).clearDue = true) ∧
    (∃ (s : State) (d : Fin 8) (sl : Fin 2560), s.chip.open d = true ∧ (s.chip.slot d sl).st ≠ lpFault) ∧
    (∃ (s : State) (c : Fin 16384), s.chip.inService (chanDie c) = true ∧ s.chip.isProt (chanDie c) (chanSlot c / 256) = true ∧ (s.chip.slot (chanDie c) (chanSlot c)).active = true) ∧
    (∃ (s : State) (c : Fin 16384), s.chip.inService (chanDie c) = true ∧ s.chip.isProt (chanDie c) (chanSlot c / 256) = true ∧ (s.chip.slot (chanDie c) (chanSlot c)).active = true) ∧
    (∃ (s : State) (d : Fin 8) (sl : Fin 2560), s.chip.runs d = true ∧ (s.chip.slot d sl).active = true ∧ 256 ≤ (s.chip.slot d sl).tempAge ∧ s.chip.get (CH_DRIVE_TEMP_STALE d sl) = 0) :=
  ⟨⟨mk ((pk []).modSlot 0 7 (fun r => { r with st := lpKick, kickAt := 3936, kickX := 64 })), 0, 7, by decide +kernel⟩,
   ⟨mk ((pk []).modSlot 0 7 (fun r => { r with st := lpFault })), 0, 7, by decide +kernel⟩,
   ⟨mk ((pk []).modSlot 0 7 (fun r => { r with st := lpFault, clearDue := true })), 0, 7, by decide +kernel⟩,
   ⟨mk (pk []), 0, 7, by decide +kernel⟩,
   ⟨mk ({ (pk []).modSlot 1 259 (fun r => { r with active := true }) with protMask := 512 }), 2307, by decide +kernel⟩,
   ⟨mk ({ (pk []).modSlot 1 259 (fun r => { r with active := true }) with protMask := 512 }), 2307, by decide +kernel⟩,
   ⟨mk ((pk []).modSlot 0 2559 (fun r => { r with active := true, tempAge := 256 })), 0, 2559, by decide +kernel⟩⟩

theorem met_LoopWindows :
    (∃ (s : State) (d : Fin 8) (sl : Fin 2560), let r := s.chip.slot d sl; let e := s.chip.windowErr d sl r; let lim : Int := s.chip.get (LP_ILIM_ILIM d sl) * 65536; let i := clampInt (-lim) lim (r.integ + s.chip.getI (LP_KI_KI d sl) * e); s.chip.inService d = true ∧ (s.chip.slot d sl).active = true ∧ s.chip.endsOn d sl s.chip.tick = true ∧ (s.chip.slot d sl).endedAt ≠ some s.chip.tick ∧ (s.chip.slot d sl).calPhase = none ∧ ((s.chip.slot d sl).lastOk = false ∨ (s.chip.die d).bypSeen = false) ∧ r.wHeld = 0 ∧ r.wVoid = false ∧ (r.st = lpAcquire ∨ r.st = lpLocked ∨ r.st = lpHold) ∧ i ≠ lim ∧ i ≠ -lim) ∧
    (∃ (s : State) (d : Fin 8) (sl : Fin 2560), let r := s.chip.slot d sl; let e := s.chip.windowErr d sl r; let lim : Int := s.chip.get (LP_ILIM_ILIM d sl) * 65536; let i := clampInt (-lim) lim (r.integ + s.chip.getI (LP_KI_KI d sl) * e); s.chip.inService d = true ∧ (s.chip.slot d sl).active = true ∧ s.chip.endsOn d sl s.chip.tick = true ∧ (s.chip.slot d sl).endedAt ≠ some s.chip.tick ∧ (s.chip.slot d sl).calPhase = none ∧ ((s.chip.slot d sl).lastOk = false ∨ (s.chip.die d).bypSeen = false) ∧ r.wHeld = 0 ∧ r.wVoid = false ∧ (r.st = lpAcquire ∨ r.st = lpLocked ∨ r.st = lpHold) ∧ (i = lim ∨ i = -lim) ∧ s.chip.get (LP_FAULTCNT_CNT d sl) ≤ min 127 (r.faultRun + 1) ∧ s.chip.get (LP_CTRL_FAULT_ACT d sl) = 1) ∧
    (∃ (s : State) (d : Fin 8) (sl : Fin 2560), let r := s.chip.slot d sl; s.chip.inService d = true ∧ (s.chip.slot d sl).active = true ∧ s.chip.endsOn d sl s.chip.tick = true ∧ (s.chip.slot d sl).endedAt ≠ some s.chip.tick ∧ (s.chip.slot d sl).calPhase = none ∧ ((s.chip.slot d sl).lastOk = false ∨ (s.chip.die d).bypSeen = false) ∧ r.wHeld ≠ 0 ∧ (r.st = lpAcquire ∨ r.st = lpLocked ∨ r.st = lpHold) ∧ (r.wOvr = true → r.ovrRun < s.chip.get (LP_OVRCNT_OVR d sl)) ∧ (s.chip.get (LP_OVRCNT_HOLD_MAX d sl) = 0 ∨ min 127 (r.heldRun + 1) < s.chip.get (LP_OVRCNT_HOLD_MAX d sl))) ∧
    (∃ (s : State) (d : Fin 8) (sl : Fin 2560), let r := s.chip.slot d sl; s.chip.inService d = true ∧ (s.chip.slot d sl).active = true ∧ s.chip.endsOn d sl s.chip.tick = true ∧ (s.chip.slot d sl).endedAt ≠ some s.chip.tick ∧ (s.chip.slot d sl).calPhase = none ∧ ((s.chip.slot d sl).lastOk = false ∨ (s.chip.die d).bypSeen = false) ∧ r.wHeld ≠ 0 ∧ (r.st = lpAcquire ∨ r.st = lpLocked ∨ r.st = lpHold) ∧ r.wOvr = true ∧ s.chip.get (LP_OVRCNT_OVR d sl) ≤ r.ovrRun ∧ s.chip.get (LP_CTRL_FAULT_ACT d sl) = 1) ∧
    (∃ (s : State) (d : Fin 8) (sl : Fin 2560), let r := s.chip.slot d sl; s.chip.inService d = true ∧ (s.chip.slot d sl).active = true ∧ s.chip.endsOn d sl s.chip.tick = true ∧ (s.chip.slot d sl).endedAt ≠ some s.chip.tick ∧ (s.chip.slot d sl).calPhase = none ∧ ((s.chip.slot d sl).lastOk = false ∨ (s.chip.die d).bypSeen = false) ∧ r.wHeld ≠ 0 ∧ (r.st = lpAcquire ∨ r.st = lpLocked ∨ r.st = lpHold) ∧ (r.wOvr = true → r.ovrRun < s.chip.get (LP_OVRCNT_OVR d sl)) ∧ s.chip.get (LP_OVRCNT_HOLD_MAX d sl) ≠ 0 ∧ s.chip.get (LP_OVRCNT_HOLD_MAX d sl) ≤ min 127 (r.heldRun + 1) ∧ s.chip.get (LP_CTRL_FAULT_ACT d sl) = 1) :=
  ⟨⟨mk ((pk [(LP_CTRL_K 0 0, 4), (LP_ILIM_ILIM 0 0, 1)]).modSlot 0 0 (fun r => { r with active := true, st := lpAcquire, integ := 65535 })), 0, 0, by dsimp only; decide +kernel⟩,
   ⟨mk ((pk [(LP_CTRL_K 0 0, 4), (LP_ILIM_ILIM 0 0, 1), (LP_FAULTCNT_CNT 0 0, 127), (LP_CTRL_FAULT_ACT 0 0, 1)]).modSlot 0 0 (fun r => { r with active := true, st := lpLocked, integ := 65536, faultRun := 126 })), 0, 0, by dsimp only; decide +kernel⟩,
   ⟨mk ((pk [(LP_CTRL_K 0 0, 4), (LP_OVRCNT_OVR 0 0, 2), (LP_OVRCNT_HOLD_MAX 0 0, 127)]).modSlot 0 0 (fun r => { r with active := true, st := lpHold, wHeld := 1, wOvr := true, ovrRun := 1, heldRun := 125 })), 0, 0, by dsimp only; decide +kernel⟩,
   ⟨mk ((pk [(LP_CTRL_K 0 0, 4), (LP_OVRCNT_OVR 0 0, 2), (LP_OVRCNT_HOLD_MAX 0 0, 127), (LP_CTRL_FAULT_ACT 0 0, 1)]).modSlot 0 0 (fun r => { r with active := true, st := lpHold, wHeld := 1, wOvr := true, ovrRun := 2, heldRun := 125 })), 0, 0, by dsimp only; decide +kernel⟩,
   ⟨mk ((pk [(LP_CTRL_K 0 0, 4), (LP_OVRCNT_HOLD_MAX 0 0, 127), (LP_CTRL_FAULT_ACT 0 0, 1)]).modSlot 0 0 (fun r => { r with active := true, st := lpHold, wHeld := 1, heldRun := 126 })), 0, 0, by dsimp only; decide +kernel⟩⟩

theorem met_ProxyCommands :
    (∃ (s : State) (d : Fin 8) (p : Fin 16) (v : Word), let op := v.toNat % 64; s.chip.open d = true ∧ op = 0 ∧ s.chip.get (EFE_RSP_BUSY d p) = 0 ∧ s.chip.elUp d p = true) ∧
    (∃ (s : State) (d : Fin 8) (p : Fin 16) (v : Word), let op := v.toNat % 64; s.chip.open d = true ∧ op = 0 ∧ s.chip.get (EFE_RSP_BUSY d p) = 1) ∧
    (∃ (s : State) (d : Fin 8) (p : Fin 16) (v : Word), let op := v.toNat % 64; s.chip.open d = true ∧ op = 0 ∧ s.chip.get (EFE_RSP_BUSY d p) = 0 ∧ s.chip.elUp d p = false) ∧
    (∃ (s : State) (d : Fin 8) (p : Fin 16) (v : Word), let op := v.toNat % 64; s.chip.open d = true ∧ op = 1 ∧ s.chip.get (EFE_RSP_BUSY d p) = 0 ∧ s.chip.elUp d p = true) ∧
    (∃ (s : State) (d : Fin 8) (p : Fin 16) (v : Word), let op := v.toNat % 64; s.chip.open d = true ∧ op = 1 ∧ s.chip.get (EFE_RSP_BUSY d p) = 1) ∧
    (∃ (s : State) (d : Fin 8) (p : Fin 16) (v : Word), let op := v.toNat % 64; s.chip.open d = true ∧ op = 1 ∧ s.chip.get (EFE_RSP_BUSY d p) = 0 ∧ s.chip.elUp d p = false) ∧
    (∃ (s : State) (d : Fin 8) (p : Fin 16) (v : Word), let op := v.toNat % 64; let a := s.chip.get (EFE_ADDR_ADDR d p); s.chip.open d = true ∧ op = 2 ∧ (a < 0x100 ∨ 0x200 ≤ a) ∧ s.chip.get (EFE_RSP_BUSY d p) = 0 ∧ s.chip.elUp d p = true) ∧
    (∃ (s : State) (d : Fin 8) (p : Fin 16) (v : Word), let op := v.toNat % 64; let a := s.chip.get (EFE_ADDR_ADDR d p); s.chip.open d = true ∧ op = 2 ∧ (a < 0x100 ∨ 0x200 ≤ a) ∧ s.chip.get (EFE_RSP_BUSY d p) = 0 ∧ s.chip.elUp d p = true) ∧
    (∃ (s : State) (d : Fin 8) (p : Fin 16) (v : Word), let op := v.toNat % 64; s.chip.open d = true ∧ op = 2 ∧ s.chip.get (EFE_RSP_BUSY d p) = 1) ∧
    (∃ (s : State) (d : Fin 8) (p : Fin 16) (v : Word), let op := v.toNat % 64; s.chip.open d = true ∧ op = 2 ∧ s.chip.get (EFE_RSP_BUSY d p) = 0 ∧ s.chip.elUp d p = false) ∧
    (∃ (s : State) (d : Fin 8) (p : Fin 16) (v : Word), let op := v.toNat % 64; let a := s.chip.get (EFE_ADDR_ADDR d p); s.chip.open d = true ∧ op = 2 ∧ 0x100 ≤ a ∧ a < 0x200 ∧ s.chip.get (EFE_RSP_BUSY d p) = 0 ∧ s.chip.elUp d p = true) ∧
    (∃ (s : State) (d : Fin 8) (p : Fin 16) (v : Word), let op := v.toNat % 64; let a := s.chip.get (EFE_ADDR_ADDR d p); s.chip.open d = true ∧ op = 2 ∧ 0x100 ≤ a ∧ a < 0x200 ∧ s.chip.get (EFE_RSP_BUSY d p) = 0 ∧ s.chip.elUp d p = true) ∧
    (∃ (s : State) (d : Fin 8) (p : Fin 16) (v : Word), let op := v.toNat % 64; s.chip.open d = true ∧ op = 3 ∧ s.chip.get (EFE_RSP_BUSY d p) = 0 ∧ s.chip.elUp d p = true) ∧
    (∃ (s : State) (d : Fin 8) (p : Fin 16) (v : Word), let op := v.toNat % 64; s.chip.open d = true ∧ op = 3 ∧ s.chip.get (EFE_RSP_BUSY d p) = 1) ∧
    (∃ (s : State) (d : Fin 8) (p : Fin 16) (v : Word), let op := v.toNat % 64; s.chip.open d = true ∧ op = 3 ∧ s.chip.get (EFE_RSP_BUSY d p) = 0 ∧ s.chip.elUp d p = false) ∧
    (∃ (s : State) (d : Fin 8) (p : Fin 16) (v : Word), let op := v.toNat % 64; s.chip.open d = true ∧ op = 4 ∧ s.chip.get (EFE_RSP_BUSY d p) = 0 ∧ s.chip.elUp d p = true) ∧
    (∃ (s : State) (d : Fin 8) (p : Fin 16) (v : Word), let op := v.toNat % 64; s.chip.open d = true ∧ op = 4 ∧ s.chip.get (EFE_RSP_BUSY d p) = 1) ∧
    (∃ (s : State) (d : Fin 8) (p : Fin 16) (v : Word), let op := v.toNat % 64; s.chip.open d = true ∧ op = 4 ∧ s.chip.get (EFE_RSP_BUSY d p) = 0 ∧ s.chip.elUp d p = false) ∧
    (∃ (s : State) (d : Fin 8) (p : Fin 16) (v : Word), let op := v.toNat % 64; s.chip.open d = true ∧ 5 ≤ op ∧ s.chip.get (EFE_RSP_BUSY d p) = 0 ∧ s.chip.elUp d p = true) ∧
    (∃ (s : State) (d : Fin 8) (p : Fin 16) (v : Word), let op := v.toNat % 64; s.chip.open d = true ∧ 5 ≤ op ∧ s.chip.get (EFE_RSP_BUSY d p) = 1) ∧
    (∃ (s : State) (d : Fin 8) (p : Fin 16) (v : Word), let op := v.toNat % 64; s.chip.open d = true ∧ 5 ≤ op ∧ s.chip.get (EFE_RSP_BUSY d p) = 0 ∧ s.chip.elUp d p = false) :=
  ⟨⟨mk (pk [(ELINK_STATUS_STATE 0 15, 4)]), 0, 15, 0, by dsimp only; decide +kernel⟩,
   ⟨mk (pk [(EFE_RSP_BUSY 0 0, 1)]), 0, 0, 0, by dsimp only; decide +kernel⟩,
   ⟨mk (pk []), 0, 0, 0, by dsimp only; decide +kernel⟩,
   ⟨mk (pk [(ELINK_STATUS_STATE 0 0, 5)]), 0, 0, 1, by dsimp only; decide +kernel⟩,
   ⟨mk (pk [(EFE_RSP_BUSY 0 0, 1)]), 0, 0, 1, by dsimp only; decide +kernel⟩,
   ⟨mk (pk []), 0, 0, 1, by dsimp only; decide +kernel⟩,
   ⟨mk (pk [(ELINK_STATUS_STATE 0 0, 4), (EFE_ADDR_ADDR 0 0, 0x200)]), 0, 0, 2, by dsimp only; decide +kernel⟩,
   ⟨mk (pk [(ELINK_STATUS_STATE 0 0, 4), (EFE_ADDR_ADDR 0 0, 0xFF)]), 0, 0, 2, by dsimp only; decide +kernel⟩,
   ⟨mk (pk [(EFE_RSP_BUSY 0 0, 1)]), 0, 0, 2, by dsimp only; decide +kernel⟩,
   ⟨mk (pk []), 0, 0, 2, by dsimp only; decide +kernel⟩,
   ⟨mk (pk [(ELINK_STATUS_STATE 0 0, 4), (EFE_ADDR_ADDR 0 0, 0x1FF)]), 0, 0, 2, by dsimp only; decide +kernel⟩,
   ⟨mk (pk [(ELINK_STATUS_STATE 0 0, 4), (EFE_ADDR_ADDR 0 0, 0x100)]), 0, 0, 2, by dsimp only; decide +kernel⟩,
   ⟨mk (pk [(ELINK_STATUS_STATE 0 0, 4)]), 0, 0, 3, by dsimp only; decide +kernel⟩,
   ⟨mk (pk [(EFE_RSP_BUSY 0 0, 1)]), 0, 0, 3, by dsimp only; decide +kernel⟩,
   ⟨mk (pk []), 0, 0, 3, by dsimp only; decide +kernel⟩,
   ⟨mk (pk [(ELINK_STATUS_STATE 0 0, 4)]), 0, 0, 4, by dsimp only; decide +kernel⟩,
   ⟨mk (pk [(EFE_RSP_BUSY 0 0, 1)]), 0, 0, 4, by dsimp only; decide +kernel⟩,
   ⟨mk (pk []), 0, 0, 4, by dsimp only; decide +kernel⟩,
   ⟨mk (pk [(ELINK_STATUS_STATE 0 0, 4)]), 0, 0, 5, by dsimp only; decide +kernel⟩,
   ⟨mk (pk [(EFE_RSP_BUSY 0 0, 1)]), 0, 0, 63, by dsimp only; decide +kernel⟩,
   ⟨mk (pk []), 0, 0, 5, by dsimp only; decide +kernel⟩⟩

theorem met_ProxyTimeouts :
    (∃ (s : State) (d : Fin 8) (p : Fin 16) (o : _), s.chip.runs d = true ∧ (s.chip.port d p).out = some o ∧ o.sent + 4 ≤ s.chip.tick ∧ o.tries < 3) ∧
    (∃ (s : State) (d : Fin 8) (p : Fin 16) (o : _), s.chip.runs d = true ∧ (s.chip.port d p).out = some o ∧ o.sent + 4 ≤ s.chip.tick ∧ 3 ≤ o.tries ∧ o.host = true) ∧
    (∃ (s : State) (d : Fin 8) (p : Fin 16) (o : _), s.chip.runs d = true ∧ (s.chip.port d p).out = some o ∧ o.sent + 4 ≤ s.chip.tick ∧ 3 ≤ o.tries ∧ o.host = false ∧ o.cmd.op = 3) ∧
    (∃ (s : State) (d : Fin 8) (p : Fin 16) (n : _), s.chip.runs d = true ∧ (s.chip.port d p).spotSince = some n ∧ n + 64 < s.chip.tick) ∧
    (∃ (s : State) (h : Fin 2), s.chip.hostUp h = true ∧ s.chip.memOn h = false) ∧
    (∃ (s : State) (d : Fin 8) (h : Fin 2) (e : _) (q : _), s.chip.hostUp h = true ∧ s.chip.memOn h = true ∧ s.chip.open d = true ∧ tabGet (fun _ => []) s.chip.winFifo d = e :: q ∧ q.length < 512) ∧
    (∃ (s : State) (d : Fin 8) (h : Fin 2), s.chip.hostUp h = true ∧ s.chip.memOn h = true ∧ s.chip.open d = true ∧ tabGet (fun _ => []) s.chip.winFifo d = []) :=
  ⟨⟨mk ((pk []).modPort 0 0 (fun r => { r with out := some ⟨⟨2, 16, 5⟩, 7, true, 3996, 2⟩ })), 0, 0, ⟨⟨2, 16, 5⟩, 7, true, 3996, 2⟩, by decide +kernel⟩,
   ⟨mk ((pk []).modPort 0 0 (fun r => { r with out := some ⟨⟨2, 16, 5⟩, 7, true, 3996, 3⟩ })), 0, 0, ⟨⟨2, 16, 5⟩, 7, true, 3996, 3⟩, by decide +kernel⟩,
   ⟨mk ((pk []).modPort 0 0 (fun r => { r with out := some ⟨⟨3, 16, 256⟩, 7, false, 3996, 3⟩ })), 0, 0, ⟨⟨3, 16, 256⟩, 7, false, 3996, 3⟩, by decide +kernel⟩,
   ⟨mk ((pk []).modPort 0 0 (fun r => { r with spotSince := some 3935 })), 0, 0, 3935, by decide +kernel⟩,
   ⟨mk ((pk []).modHost 0 (fun r => { r with cmd := 0 })), 0, by decide +kernel⟩,
   ⟨mk ({ pk [] with winFifo := [(0, [(3999, 1)])] }), 0, 0, (3999, 1), [], by decide +kernel⟩,
   ⟨mk (pk []), 0, 0, by decide +kernel⟩⟩

theorem met_LinkNegotiation :
    (∃ (s : State) (d : Fin 8) (p : Fin 16), s.chip.runs d = true ∧ s.chip.el d p = elSync) ∧
    (∃ (s : State) (d : Fin 8) (p : Fin 16), s.chip.runs d = true ∧ s.chip.el d p = elCaps) ∧
    (∃ (s : State) (d : Fin 8) (p : Fin 16), s.chip.runs d = true ∧ s.chip.el d p = elCaps) ∧
    (∃ (s : State) (d : Fin 8) (p : Fin 16) (cap : BitVec 64), s.chip.runs d = true ∧ s.chip.el d p = elCaps ∧ (s.chip.port d p).caps ≠ some cap.toNat) ∧
    (∃ (s : State) (d : Fin 8) (p : Fin 16) (cap : BitVec 64), s.chip.runs d = true ∧ s.chip.el d p = elCaps ∧ (s.chip.port d p).caps = some cap.toNat) ∧
    (∃ (s : State) (d : Fin 8) (p : Fin 16), s.chip.runs d = true ∧ s.chip.el d p = elCaps) ∧
    (∃ (s : State) (d : Fin 8) (p : Fin 16), s.chip.runs d = true ∧ s.chip.el d p = elTrain) ∧
    (∃ (s : State) (d : Fin 8) (p : Fin 16), s.chip.runs d = true ∧ s.chip.el d p = elTrain ∧ (s.chip.port d p).phase = 2) ∧
    (∃ (s : State) (d : Fin 8) (p : Fin 16) (rate : Fin 4), s.chip.runs d = true ∧ s.chip.el d p = elTrain ∧ (s.chip.port d p).phase = 0 ∧ (s.chip.port d p).rate = rate.val) ∧
    (∃ (s : State) (d : Fin 8) (p : Fin 16), s.chip.runs d = true ∧ s.chip.el d p = elTrain ∧ (s.chip.port d p).phase = 1) ∧
    (∃ (s : State) (d : Fin 8) (p : Fin 16), s.chip.runs d = true ∧ s.chip.el d p = elTrain ∧ (s.chip.port d p).phase = 2 ∧ (s.chip.port d p).errors = 0) ∧
    (∃ (s : State) (d : Fin 8) (p : Fin 16), s.chip.runs d = true ∧ s.chip.el d p = elTrain ∧ (s.chip.port d p).rate ∈ [1, 2, 3]) ∧
    (∃ (s : State) (d : Fin 8) (p : Fin 16) (pass : Bool), s.chip.runs d = true ∧ s.chip.el d p = elTrain ∧ (s.chip.port d p).rate ∈ [1, 2, 3] ∧ (s.chip.port d p).phase = 2 ∧ (pass = false ∨ (s.chip.port d p).errors ≠ 0)) ∧
    (∃ (s : State) (d : Fin 8) (p : Fin 16), s.chip.runs d = true ∧ s.chip.el d p = elFailed) :=
  ⟨⟨mk (pk [(ELINK_STATUS_STATE 0 15, 1)]), 0, 15, by decide +kernel⟩,
   ⟨mk (pk [(ELINK_STATUS_STATE 0 0, 2)]), 0, 0, by decide +kernel⟩,
   ⟨mk (pk [(ELINK_STATUS_STATE 0 0, 2)]), 0, 0, by decide +kernel⟩,
   ⟨mk (pk [(ELINK_STATUS_STATE 0 0, 2)]), 0, 0, 0, by decide +kernel⟩,
   ⟨mk ((pk [(ELINK_STATUS_STATE 0 0, 2)]).modPort 0 0 (fun r => { r with caps := some 7 })), 0, 0, 7#64, by decide +kernel⟩,
   ⟨mk (pk [(ELINK_STATUS_STATE 0 0, 2)]), 0, 0, by decide +kernel⟩,
   ⟨mk (pk [(ELINK_STATUS_STATE 0 0, 3)]), 0, 0, by decide +kernel⟩,
   ⟨mk ((pk [(ELINK_STATUS_STATE 0 0, 3)]).modPort 0 0 (fun r => { r with phase := 2 })), 0, 0, by decide +kernel⟩,
   ⟨mk ((pk [(ELINK_STATUS_STATE 0 0, 3)]).modPort 0 0 (fun r => { r with rate := 3 })), 0, 0, 3, by decide +kernel⟩,
   ⟨mk ((pk [(ELINK_STATUS_STATE 0 0, 3)]).modPort 0 0 (fun r => { r with phase := 1 })), 0, 0, by decide +kernel⟩,
   ⟨mk ((pk [(ELINK_STATUS_STATE 0 0, 3)]).modPort 0 0 (fun r => { r with phase := 2 })), 0, 0, by decide +kernel⟩,
   ⟨mk ((pk [(ELINK_STATUS_STATE 0 0, 3)]).modPort 0 0 (fun r => { r with rate := 1 })), 0, 0, by decide +kernel⟩,
   ⟨mk ((pk [(ELINK_STATUS_STATE 0 15, 3)]).modPort 0 15 (fun r => { r with rate := 3, phase := 2, errors := 1 })), 0, 15, true, by decide +kernel⟩,
   ⟨mk (pk [(ELINK_STATUS_STATE 0 0, 6)]), 0, 0, by decide +kernel⟩⟩

theorem met_UplinkAndLoss :
    (∃ (s : State) (d : Fin 8) (p : Fin 16) (f : UpFrame), Inv s ∧ s.chip.runs d = true ∧ s.chip.elUp d p = true ∧ f.ok = false ∧ (s.chip.port d p).badRun < 15) ∧
    (∃ (s : State) (d : Fin 8) (p : Fin 16) (f : UpFrame), Inv s ∧ s.chip.runs d = true ∧ s.chip.elUp d p = true ∧ f.ok = true) ∧
    (∃ (s : State) (d : Fin 8) (p : Fin 16), Inv s ∧ s.chip.runs d = true ∧ s.chip.elUp d p = true ∧ (s.chip.port d p).badRun < 15) ∧
    (∃ (s : State) (d : Fin 8) (p : Fin 16) (f : UpFrame), Inv s ∧ s.chip.runs d = true ∧ s.chip.elUp d p = true ∧ 15 ≤ (s.chip.port d p).badRun ∧ f.ok = false) ∧
    (∃ (s : State) (d : Fin 8) (p : Fin 16), Inv s ∧ s.chip.runs d = true ∧ s.chip.elUp d p = true ∧ 15 ≤ (s.chip.port d p).badRun) ∧
    (∃ (s : State) (d : Fin 8) (p : Fin 16), Inv s ∧ s.chip.runs d = true ∧ s.chip.elUp d p = true) ∧
    (∃ (s : State) (d : Fin 8) (p : Fin 16), Inv s ∧ s.chip.open d = true ∧ s.chip.elUp d p = true) ∧
    (∃ (s : State) (d : Fin 8) (p : Fin 16) (b : _), Inv s ∧ s.chip.runs d = true ∧ (s.chip.port d p).parkDue = some b ∧ b ≤ s.chip.tick + 1) :=
  ⟨⟨mk ((pk [(ELINK_STATUS_STATE 0 0, 4)]).modPort 0 0 (fun r => { r with badRun := 14 })), 0, 0, frm false, by unfold Machine.Inv Chip.Ok Chip.regsWf Chip.memWf Chip.unitsWf; decide +kernel⟩,
   ⟨mk (pk [(ELINK_STATUS_STATE 0 0, 5)]), 0, 0, frm true, by unfold Machine.Inv Chip.Ok Chip.regsWf Chip.memWf Chip.unitsWf; decide +kernel⟩,
   ⟨mk ((pk [(ELINK_STATUS_STATE 0 0, 4)]).modPort 0 0 (fun r => { r with badRun := 14 })), 0, 0, by unfold Machine.Inv Chip.Ok Chip.regsWf Chip.memWf Chip.unitsWf; decide +kernel⟩,
   ⟨mk ((pk [(ELINK_STATUS_STATE 0 0, 5)]).modPort 0 0 (fun r => { r with badRun := 15 })), 0, 0, frm false, by unfold Machine.Inv Chip.Ok Chip.regsWf Chip.memWf Chip.unitsWf; decide +kernel⟩,
   ⟨mk ((pk [(ELINK_STATUS_STATE 0 0, 4)]).modPort 0 0 (fun r => { r with badRun := 15 })), 0, 0, by unfold Machine.Inv Chip.Ok Chip.regsWf Chip.memWf Chip.unitsWf; decide +kernel⟩,
   ⟨mk (pk [(ELINK_STATUS_STATE 0 0, 5)]), 0, 0, by unfold Machine.Inv Chip.Ok Chip.regsWf Chip.memWf Chip.unitsWf; decide +kernel⟩,
   ⟨mk (pk [(ELINK_STATUS_STATE 0 0, 4)]), 0, 0, by unfold Machine.Inv Chip.Ok Chip.regsWf Chip.memWf Chip.unitsWf; decide +kernel⟩,
   ⟨mk ((pk []).modPort 0 0 (fun r => { r with parkDue := some 4001 })), 0, 0, 4001, by unfold Machine.Inv Chip.Ok Chip.regsWf Chip.memWf Chip.unitsWf; decide +kernel⟩⟩

theorem met_CalRequests :
    (∃ (s : State) (d : Fin 8) (v : Word), let x := v.toNat; s.chip.open d = true ∧ s.chip.get (CAL_STATUS_RUNNING d) = 0 ∧ x / 2 ^ 24 % 4 = 0 ∧ x / 2 ^ 8 % 32 = 0) ∧
    (∃ (s : State) (d : Fin 8) (k : Fin 5) (v : Word), let x := v.toNat; s.chip.open d = true ∧ maskBit x 31 = true ∧ maskBit x k = true ∧ x / 2 ^ 24 % 4 = 0 ∧ x / 2 ^ 8 % 32 = 2 ^ k.val ∧ x / 2 ^ 16 % 32 = 0 ∧ s.chip.get (CAL_STATUS_RUNNING d) = k + 1) ∧
    (∃ (s : State) (d : Fin 8) (k : Fin 5) (v : Word), let x := v.toNat; s.chip.open d = true ∧ maskBit x 31 = true ∧ maskBit x k = true ∧ x / 2 ^ 24 % 4 = 0 ∧ x / 2 ^ 8 % 32 = 2 ^ k.val ∧ x / 2 ^ 16 % 32 = 0 ∧ s.chip.get (CAL_STATUS_RUNNING d) = 0 ∧ s.chip.upTicks ≠ 0 ∧ tabGet (fun _ => 0) (s.chip.cal d).accepted k = s.chip.upTicks) ∧
    (∃ (s : State) (d : Fin 8) (v : Word), let x := v.toNat; s.chip.open d = true ∧ s.chip.get (CAL_STATUS_RUNNING d) = 0 ∧ x / 2 ^ 8 % 32 = 0 ∧ x / 2 ^ 16 % 32 = 0 ∧ x / 2 ^ 24 % 4 = 1) ∧
    (∃ (s : State) (d : Fin 8) (v : Word), let x := v.toNat; s.chip.open d = true ∧ s.chip.get (CAL_STATUS_RUNNING d) = 0 ∧ x / 2 ^ 8 % 32 = 0 ∧ x / 2 ^ 16 % 32 = 0 ∧ x / 2 ^ 24 % 4 = 2) ∧
    (∃ (s : State) (d : Fin 8) (k : Fin 5), s.chip.inService d = true ∧ s.chip.on (CAL_CTRL_EN d) = true ∧ maskBit (s.chip.get (CAL_CTRL_ITEM_EN d)) k = true ∧ 16 * max 1 (s.chip.get (CAL_CFG_DT d)) < (s.chip.getI (CAL_T_NOW_TEMP d) - s.chip.getI (CAL_ITEM_STATUS_T_LAST d k)).natAbs ∧ tabGet (fun _ => 0) (s.chip.cal d).began k + s.chip.calInterval d ≤ s.chip.upTicks) ∧
    (∃ (s : State) (d : Fin 8) (k : Fin 5), s.chip.calOn d = true ∧ maskBit (s.chip.cal d).retry k = true ∧ tabGet (fun _ => 0) (s.chip.cal d).began k + s.chip.calInterval d ≤ s.chip.upTicks) :=
  ⟨⟨mk (pk []), 0, 0x801F001F#32, by dsimp only; decide +kernel⟩,
   ⟨mk (pk [(CAL_STATUS_RUNNING 0, 5)]), 0, 4, 0x8000101F#32, by dsimp only; decide +kernel⟩,
   ⟨mk ((pk []).modCal 0 (fun r => { r with accepted := [(4, 5000)] })), 0, 4, 0x8000101F#32, by dsimp only; decide +kernel⟩,
   ⟨mk (pk []), 0, 0x01000000#32, by dsimp only; decide +kernel⟩,
   ⟨mk (pk []), 0, 0x02000000#32, by dsimp only; decide +kernel⟩,
   ⟨mk ({ pk [(CAL_CTRL_EN 0, 1), (CAL_CTRL_ITEM_EN 0, 31), (CAL_CFG_DT 0, 1), (CAL_T_NOW_TEMP 0, 17)] with upTicks := 5000000000 }), 0, 4, by decide +kernel⟩,
   ⟨mk ((({ pk [] with upTicks := 5000000000 } : Chip)).modCal 0 (fun r => { r with retry := 16 })), 0, 4, by decide +kernel⟩⟩

theorem met_CalRuns :
    (∃ (s : State) (d : Fin 8) (k : Fin 5) (mk : Bool), let r := s.chip.cal d; s.chip.calOn d = true ∧ s.chip.get (CAL_STATUS_RUNNING d) = 0 ∧ s.chip.on (CAL_CTRL_EN d) = true ∧ calItems.find? (fun j => maskBit (s.chip.get (CAL_STATUS_PENDING d)) j && maskBit (s.chip.get (CAL_CTRL_ITEM_EN d)) j && !maskBit r.retry j && !maskBit (s.chip.get (CAL_STATUS_BLENDING d)) j) = some k.val ∧ k.val ≠ calDemod ∧ s.chip.calSuits d k = true ∧ (k.val = calSkew → mk = true)) ∧
    (∃ (s : State) (d : Fin 8) (k : Fin 5), let r := s.chip.cal d; s.chip.calOn d = true ∧ s.chip.get (CAL_STATUS_RUNNING d) = 0 ∧ s.chip.on (CAL_CTRL_EN d) = true ∧ calItems.find? (fun j => maskBit (s.chip.get (CAL_STATUS_PENDING d)) j && maskBit (s.chip.get (CAL_CTRL_ITEM_EN d)) j && !maskBit r.retry j && !maskBit (s.chip.get (CAL_STATUS_BLENDING d)) j) = some k.val ∧ k.val = calDemod ∧ s.chip.calSuits d k = true) ∧
    (∃ (s : State) (d : Fin 8) (k : Fin 5) (mk : Bool), let r := s.chip.cal d; s.chip.calOn d = true ∧ s.chip.get (CAL_STATUS_RUNNING d) = 0 ∧ s.chip.on (CAL_CTRL_EN d) = true ∧ calItems.find? (fun j => maskBit (s.chip.get (CAL_STATUS_PENDING d)) j && maskBit (s.chip.get (CAL_CTRL_ITEM_EN d)) j && !maskBit r.retry j && !maskBit (s.chip.get (CAL_STATUS_BLENDING d)) j) = some k.val ∧ (s.chip.calSuits d k = false ∨ k.val = calSkew ∧ mk = false)) ∧
    (∃ (s : State) (d : Fin 8) (k : Fin 5), let c := (s.chip.die d).core.meas; s.chip.calOn d = true ∧ s.chip.get (CAL_STATUS_RUNNING d) = k + 1 ∧ k.val = calTdc ∧ 2 ^ 20 ≤ c.n ∧ (s.chip.calSuits d calTdc = false ∨ c.spread = false)) ∧
    (∃ (s : State) (d : Fin 8) (k : Fin 5), let r := s.chip.cal d; let c := (s.chip.die d).core.meas; s.chip.calOn d = true ∧ s.chip.get (CAL_STATUS_RUNNING d) = k + 1 ∧ k.val = calTdc ∧ 2 ^ 20 ≤ c.n ∧ s.chip.calSuits d calTdc = true ∧ c.spread = true ∧ r.second = false) ∧
    (∃ (s : State) (d : Fin 8) (k : Fin 5), let r := s.chip.cal d; let c := (s.chip.die d).core.meas; let f := s.chip.synthFreq d; let t := tapResults f.1 f.2 (s.chip.get (CAL_TOL_A_TDC d)) r.hitsA c.hits; s.chip.calOn d = true ∧ s.chip.get (CAL_STATUS_RUNNING d) = k + 1 ∧ k.val = calTdc ∧ 2 ^ 20 ≤ c.n ∧ s.chip.calSuits d calTdc = true ∧ c.spread = true ∧ r.second = true ∧ t.1 = true) ∧
    (∃ (s : State) (d : Fin 8) (k : Fin 5), let r := s.chip.cal d; let c := (s.chip.die d).core.meas; let f := s.chip.synthFreq d; let t := tapResults f.1 f.2 (s.chip.get (CAL_TOL_A_TDC d)) r.hitsA c.hits; s.chip.calOn d = true ∧ s.chip.get (CAL_STATUS_RUNNING d) = k + 1 ∧ k.val = calTdc ∧ 2 ^ 20 ≤ c.n ∧ s.chip.calSuits d calTdc = true ∧ c.spread = true ∧ r.second = true ∧ t.1 = false) ∧
    (∃ (s : State) (d : Fin 8) (k : Fin 5), let c := (s.chip.die d).core.meas; s.chip.calOn d = true ∧ s.chip.get (CAL_STATUS_RUNNING d) = k + 1 ∧ k.val = calGain ∧ 64 * 4096 + 5 ≤ c.n ∧ s.chip.calSuits d calGain = false) ∧
    (∃ (s : State) (d : Fin 8) (k : Fin 5), let r := s.chip.cal d; let c := (s.chip.die d).core.meas; s.chip.calOn d = true ∧ s.chip.get (CAL_STATUS_RUNNING d) = k + 1 ∧ k.val = calGain ∧ 64 * 4096 + 5 ≤ c.n ∧ s.chip.calSuits d calGain = true ∧ r.second = false) ∧
    (∃ (s : State) (d : Fin 8) (k : Fin 5), let r := s.chip.cal d; let c := (s.chip.die d).core.meas; let v := s.chip.gainOf d c; s.chip.calOn d = true ∧ s.chip.get (CAL_STATUS_RUNNING d) = k + 1 ∧ k.val = calGain ∧ 64 * 4096 + 5 ≤ c.n ∧ s.chip.calSuits d calGain = true ∧ r.second = true ∧ (r.valA - v).natAbs * 65536 ≤ s.chip.get (CAL_TOL_A_GAIN d) * r.valA.natAbs) ∧
    (∃ (s : State) (d : Fin 8) (k : Fin 5), let r := s.chip.cal d; let c := (s.chip.die d).core.meas; let v := s.chip.gainOf d c; s.chip.calOn d = true ∧ s.chip.get (CAL_STATUS_RUNNING d) = k + 1 ∧ k.val = calGain ∧ 64 * 4096 + 5 ≤ c.n ∧ s.chip.calSuits d calGain = true ∧ r.second = true ∧ s.chip.get (CAL_TOL_A_GAIN d) * r.valA.natAbs < (r.valA - v).natAbs * 65536) ∧
    (∃ (s : State) (d : Fin 8) (k : Fin 5) (m : CalMeas), s.chip.calOn d = true ∧ s.chip.get (CAL_STATUS_RUNNING d) = k + 1 ∧ k.val = calSkew ∧ s.chip.skewWaits d = false ∧ s.chip.skewOf d m = none) ∧
    (∃ (s : State) (d : Fin 8) (k : Fin 5) (m : CalMeas) (v : _), let r := s.chip.cal d; s.chip.calOn d = true ∧ s.chip.get (CAL_STATUS_RUNNING d) = k + 1 ∧ k.val = calSkew ∧ s.chip.skewWaits d = false ∧ s.chip.skewOf d m = some v ∧ r.second = false) ∧
    (∃ (s : State) (d : Fin 8) (k : Fin 5) (m : CalMeas) (v : _), let r := s.chip.cal d; s.chip.calOn d = true ∧ s.chip.get (CAL_STATUS_RUNNING d) = k + 1 ∧ k.val = calSkew ∧ s.chip.skewWaits d = false ∧ s.chip.skewOf d m = some v ∧ r.second = true ∧ (r.valA - v).natAbs ≤ 16 * s.chip.get (CAL_TOL_B_SKEW d)) ∧
    (∃ (s : State) (d : Fin 8) (k : Fin 5) (m : CalMeas) (v : _), let r := s.chip.cal d; s.chip.calOn d = true ∧ s.chip.get (CAL_STATUS_RUNNING d) = k + 1 ∧ k.val = calSkew ∧ s.chip.skewWaits d = false ∧ s.chip.skewOf d m = some v ∧ r.second = true ∧ 16 * s.chip.get (CAL_TOL_B_SKEW d) < (r.valA - v).natAbs) ∧
    (∃ (s : State) (d : Fin 8) (k : Fin 5) (m : CalMeas), let r := s.chip.cal d; let lost := decide (s.chip.upTicks - r.portSince < 1000 * r.portBad); let bad := s.chip.elUp d r.port = false ∨ lost = true ∨ m.sweep.any (fun l => l.any eyeOpen) = false; s.chip.calOn d = true ∧ s.chip.get (CAL_STATUS_RUNNING d) = k + 1 ∧ k.val = calLink ∧ bad) ∧
    (∃ (s : State) (d : Fin 8) (k : Fin 5) (m : CalMeas), let r := s.chip.cal d; let lost := decide (s.chip.upTicks - r.portSince < 1000 * r.portBad); let bad := s.chip.elUp d r.port = false ∨ lost = true ∨ m.sweep.any (fun l => l.any eyeOpen) = false; s.chip.calOn d = true ∧ s.chip.get (CAL_STATUS_RUNNING d) = k + 1 ∧ k.val = calLink ∧ bad) ∧
    (∃ (s : State) (d : Fin 8) (k : Fin 5) (m : CalMeas) (x : _) (l : _) (p : _), let r := s.chip.cal d; let lost := decide (s.chip.upTicks - r.portSince < 1000 * r.portBad); let bad := s.chip.elUp d r.port = false ∨ lost = true ∨ m.sweep.any (fun l => l.any eyeOpen) = false; s.chip.calOn d = true ∧ s.chip.get (CAL_STATUS_RUNNING d) = k + 1 ∧ k.val = calLink ∧ ¬bad ∧ eyeLevels m m.inst = x :: l ∧ r.linkPorts.find? (fun p => decide (r.port < p)) = some p ∧ s.chip.elUp d p = true) ∧
    (∃ (s : State) (d : Fin 8) (k : Fin 5) (m : CalMeas) (x : _) (l : _), let r := s.chip.cal d; let lost := decide (s.chip.upTicks - r.portSince < 1000 * r.portBad); let bad := s.chip.elUp d r.port = false ∨ lost = true ∨ m.sweep.any (fun l => l.any eyeOpen) = false; s.chip.calOn d = true ∧ s.chip.get (CAL_STATUS_RUNNING d) = k + 1 ∧ k.val = calLink ∧ ¬bad ∧ eyeLevels m m.inst = x :: l ∧ r.linkPorts.find? (fun p => decide (r.port < p)) = none ∧ r.second = false ∧ s.chip.elUp d (r.linkPorts.headD 16) = true) ∧
    (∃ (s : State) (d : Fin 8) (k : Fin 5) (m : CalMeas) (x : _) (l : _), let r := s.chip.cal d; let lost := decide (s.chip.upTicks - r.portSince < 1000 * r.portBad); let bad := s.chip.elUp d r.port = false ∨ lost = true ∨ m.sweep.any (fun l => l.any eyeOpen) = false; let e := (r.port, midOf (l.foldl min x) (l.foldl max x), m.dfe1, m.dfe2); let both := r.eqA.zip (r.eqB ++ [e]); let tol := s.chip.get (CAL_TOL_B_LINK d); let agree := both.all (fun v => within v.1.2.1 v.2.2.1 tol && within v.1.2.2.1 v.2.2.2.1 tol && within v.1.2.2.2 v.2.2.2.2 tol); s.chip.calOn d = true ∧ s.chip.get (CAL_STATUS_RUNNING d) = k + 1 ∧ k.val = calLink ∧ ¬bad ∧ eyeLevels m m.inst = x :: l ∧ r.linkPorts.find? (fun p => decide (r.port < p)) = none ∧ r.second = true ∧ agree = true) ∧
    (∃ (s : State) (d : Fin 8) (k : Fin 5) (m : CalMeas) (x : _) (l : _), let r := s.chip.cal d; let lost := decide (s.chip.upTicks - r.portSince < 1000 * r.portBad); let bad := s.chip.elUp d r.port = false ∨ lost = true ∨ m.sweep.any (fun l => l.any eyeOpen) = false; let e := (r.port, midOf (l.foldl min x) (l.foldl max x), m.dfe1, m.dfe2); let both := r.eqA.zip (r.eqB ++ [e]); let tol := s.chip.get (CAL_TOL_B_LINK d); let agree := both.all (fun v => within v.1.2.1 v.2.2.1 tol && within v.1.2.2.1 v.2.2.2.1 tol && within v.1.2.2.2 v.2.2.2.2 tol); s.chip.calOn d = true ∧ s.chip.get (CAL_STATUS_RUNNING d) = k + 1 ∧ k.val = calLink ∧ ¬bad ∧ eyeLevels m m.inst = x :: l ∧ r.linkPorts.find? (fun p => decide (r.port < p)) = none ∧ r.second = true ∧ agree = false) ∧
    (∃ (s : State) (d : Fin 8) (k : Fin 5), let r := s.chip.cal d; s.chip.calOn d = true ∧ s.chip.get (CAL_STATUS_RUNNING d) = k + 1 ∧ k.val = calDemod ∧ s.chip.settling d = false ∧ s.chip.demodFull d = true ∧ r.second = false) ∧
    (∃ (s : State) (d : Fin 8) (k : Fin 5) (sl : _) (a : _) (b : _), let r := s.chip.cal d; s.chip.calOn d = true ∧ s.chip.get (CAL_STATUS_RUNNING d) = k + 1 ∧ k.val = calDemod ∧ s.chip.settling d = false ∧ s.chip.demodFull d = true ∧ r.second = true ∧ r.part = [sl] ∧ r.phA = [(sl, a)] ∧ s.chip.demodPhases d = [(sl, b)] ∧ (phaseDist a b).natAbs ≤ s.chip.get (CAL_TOL_B_DEMOD d)) ∧
    (∃ (s : State) (d : Fin 8) (k : Fin 5), let r := s.chip.cal d; s.chip.calOn d = true ∧ s.chip.get (CAL_STATUS_RUNNING d) = k + 1 ∧ k.val = calDemod ∧ s.chip.settling d = false ∧ s.chip.demodFull d = true ∧ r.second = true ∧ s.chip.demodPhases d = []) ∧
    (∃ (s : State) (d : Fin 8) (k : Fin 5), s.chip.calOn d = true ∧ s.chip.get (CAL_STATUS_RUNNING d) = k + 1 ∧ k.val = calSkew ∧ s.chip.skewWaits d = true) :=
  ⟨⟨mk ((pk [(CAL_CTRL_EN 0, 1), (CAL_CTRL_ITEM_EN 0, 31), (CAL_STATUS_PENDING 0, 3), (CAL_STATUS_BLENDING 0, 1), (CAL_STATUS_VALID 0, 1), (SYN_STATUS_STATE 0, 3)]).modCal 0 (fun r => { r with tdcSure := true })), 0, 1, false, by dsimp only; decide +kernel⟩,
   ⟨mk ((pk [(CAL_CTRL_EN 0, 1), (CAL_CTRL_ITEM_EN 0, 31), (CAL_STATUS_PENDING 0, 16), (CH_CTRL_EN 0 7, 1)]).modSlot 0 7 (fun r => { r with st := 4, active := true })), 0, 4, by dsimp only; decide +kernel⟩,
   ⟨mk (pk [(CAL_CTRL_EN 0, 1), (CAL_CTRL_ITEM_EN 0, 31), (CAL_STATUS_PENDING 0, 4)]), 0, 2, false, by dsimp only; decide +kernel⟩,
   ⟨mk ((pk [(CAL_STATUS_RUNNING 0, 1), (SYN_STATUS_STATE 0, 3)]).modDie 0 (fun r => { r with core := { r.core with meas := { r.core.meas with n := 1048576, hits := [1048576], bins := [8191] } } })), 0, 0, by dsimp only; decide +kernel⟩,
   ⟨mk ((pk [(CAL_STATUS_RUNNING 0, 1), (SYN_STATUS_STATE 0, 3)]).modDie 0 (fun r => { r with core := { r.core with meas := { r.core.meas with n := 1048576, hits := [524288, 524288], bins := List.replicate 64 16384 } } })), 0, 0, by dsimp only; decide +kernel⟩,
   ⟨mk (((pk [(CAL_STATUS_RUNNING 0, 1), (SYN_STATUS_STATE 0, 3)]).modCal 0 (fun r => { r with second := true, hitsA := [3, 4] })).modDie 0 (fun r => { r with core := { r.core with meas := { r.core.meas with n := 1048576, hits := [3, 4], bins := List.replicate 64 16384 } } })), 0, 0, by dsimp only; decide +kernel⟩,
   ⟨mk (((pk [(CAL_STATUS_RUNNING 0, 1), (SYN_STATUS_STATE 0, 3), (CAL_TOL_A_TDC 0, 0)]).modCal 0 (fun r => { r with second := true, hitsA := [3, 4] })).modDie 0 (fun r => { r with core := { r.core with meas := { r.core.meas with n := 1048576, hits := [4, 3], bins := List.replicate 64 16384 } } })), 0, 0, by dsimp only; decide +kernel⟩,
   ⟨mk ((pk [(CAL_STATUS_RUNNING 0, 2), (SYN_STATUS_STATE 0, 3)]).modDie 0 (fun r => { r with core := { r.core with meas := { r.core.meas with n := 262149 } } })), 0, 1, by dsimp only; decide +kernel⟩,
   ⟨mk (((pk [(CAL_STATUS_RUNNING 0, 2), (SYN_STATUS_STATE 0, 3)]).modCal 0 (fun r => { r with tdcSure := true })).modDie 0 (fun r => { r with core := { r.core with meas := { r.core.meas with n := 262149, probe := 8 } } })), 0, 1, by dsimp only; decide +kernel⟩,
   ⟨mk (((pk [(CAL_STATUS_RUNNING 0, 2), (SYN_STATUS_STATE 0, 3)]).modCal 0 (fun r => { r with tdcSure := true, second := true })).modDie 0 (fun r => { r with core := { r.core with meas := { r.core.meas with n := 262149, probe := 8 } } })), 0, 1, by dsimp only; decide +kernel⟩,
   ⟨mk (((pk [(CAL_STATUS_RUNNING 0, 2), (SYN_STATUS_STATE 0, 3)]).modCal 0 (fun r => { r with tdcSure := true, second := true, valA := 66192 })).modDie 0 (fun r => { r with core := { r.core with meas := { r.core.meas with n := 262149, probe := 8 } } })), 0, 1, by dsimp only; decide +kernel⟩,
   ⟨mk (pk [(CAL_STATUS_RUNNING 1, 3)]), 1, 2, { meas [] with gaps := [16] }, by decide +kernel⟩,
   ⟨mk (pk [(CAL_STATUS_RUNNING 1, 3)]), 1, 2, meas [(16, -16)], 16, by dsimp only; decide +kernel⟩,
   ⟨mk ((pk [(CAL_STATUS_RUNNING 1, 3), (CAL_TOL_B_SKEW 1, 1)]).modCal 1 (fun r => { r with second := true, valA := 16 })), 1, 2, meas [], 0, by dsimp only; decide +kernel⟩,
   ⟨mk ((pk [(CAL_STATUS_RUNNING 1, 3), (CAL_TOL_B_SKEW 1, 1)]).modCal 1 (fun r => { r with second := true, valA := 17 })), 1, 2, meas [], 0, by dsimp only; decide +kernel⟩,
   ⟨mk (pk [(CAL_STATUS_RUNNING 0, 4)]), 0, 3, meas [], by dsimp only; decide +kernel⟩,
   ⟨mk ((pk [(CAL_STATUS_RUNNING 0, 4), (ELINK_STATUS_STATE 0 3, 4)]).modCal 0 (fun r => { r with port := 3 })), 0, 3, { meas [] with sweep := [[17]], levels := [0] }, by dsimp only; decide +kernel⟩,
   ⟨mk ((pk [(CAL_STATUS_RUNNING 0, 4), (ELINK_STATUS_STATE 0 3, 4), (ELINK_STATUS_STATE 0 15, 4)]).modCal 0 (fun r => { r with port := 3, linkPorts := [3, 15] })), 0, 3, { meas [] with sweep := List.replicate 16 [0, 0, 17], levels := [-3, 4, 9], inst := 15 }, -3, [4], 15, by dsimp only; decide +kernel⟩,
   ⟨mk ((pk [(CAL_STATUS_RUNNING 0, 4), (ELINK_STATUS_STATE 0 3, 4)]).modCal 0 (fun r => { r with port := 3, linkPorts := [3] })), 0, 3, { meas [] with sweep := List.replicate 16 [0, 0, 17], levels := [-3, 4, 9], inst := 15 }, -3, [4], by dsimp only; decide +kernel⟩,
   ⟨mk ((pk [(CAL_STATUS_RUNNING 0, 4), (ELINK_STATUS_STATE 0 3, 4)]).modCal 0 (fun r => { r with port := 3, linkPorts := [3], second := true, eqA := [(3, 1, 0, 0)] })), 0, 3, { meas [] with sweep := List.replicate 16 [0, 0, 17], levels := [-3, 4, 9], inst := 15 }, -3, [4], by dsimp only; decide +kernel⟩,
   ⟨mk ((pk [(CAL_STATUS_RUNNING 0, 4), (ELINK_STATUS_STATE 0 3, 4)]).modCal 0 (fun r => { r with port := 3, linkPorts := [3], second := true, eqA := [(3, 99, 0, 0)] })), 0, 3, { meas [] with sweep := List.replicate 16 [0, 0, 17], levels := [-3, 4, 9], inst := 15 }, -3, [4], by dsimp only; decide +kernel⟩,
   ⟨mk (pk [(CAL_STATUS_RUNNING 0, 5)]), 0, 4, by dsimp only; decide +kernel⟩,
   ⟨mk (({ pk [(CAL_STATUS_RUNNING 0, 5), (CAL_TOL_B_DEMOD 0, 1)] with slots := [(7, { st := 4, calOk := true, dem := { n := 64, sii := 6400 } })] } : Chip).modCal 0 (fun r => { r with second := true, part := [7], phA := [(7, 1)] })), 0, 4, 7, 1, 0, by dsimp only; decide +kernel⟩,
   ⟨mk ((pk [(CAL_STATUS_RUNNING 0, 5)]).modCal 0 (fun r => { r with second := true })), 0, 4, by dsimp only; decide +kernel⟩,
   ⟨mk (pk [(CAL_STATUS_RUNNING 0, 3), (SYN_STATUS_REALIGN 0, 1)]), 0, 2, by decide +kernel⟩⟩

theorem met_VolleyCommands :
    (∃ (s : State) (q : Fin 64), let st := s.chip.get (VOL_Q_STATUS_STATE q); st = 0) ∧
    (∃ (s : State) (q : Fin 64), let st := s.chip.get (VOL_Q_STATUS_STATE q); st ≠ 0) ∧
    (∃ (s : State) (p : Fin 2) (q : Fin 64) (t : Nat), let st := s.chip.get (VOL_Q_STATUS_STATE q); let busy := s.chip.get (VOL_Q_STATUS_BUSY q); let c := s.chip.at t; st = 1 ∧ busy = 0 ∧ c.stageCause p q ≠ 0) ∧
    (∃ (s : State) (p : Fin 2) (q : Fin 64) (t : Nat), let st := s.chip.get (VOL_Q_STATUS_STATE q); let busy := s.chip.get (VOL_Q_STATUS_BUSY q); let c := s.chip.at t; st = 1 ∧ busy = 0 ∧ c.stageCause p q = 0) ∧
    (∃ (s : State) (q : Fin 64), let st := s.chip.get (VOL_Q_STATUS_STATE q); let busy := s.chip.get (VOL_Q_STATUS_BUSY q); (st ≠ 1 ∨ busy = 1)) ∧
    (∃ (s : State) (q : Fin 64), let st := s.chip.get (VOL_Q_STATUS_STATE q); let busy := s.chip.get (VOL_Q_STATUS_BUSY q); (st ≠ 1 ∨ busy = 1)) ∧
    (∃ (s : State) (q : Fin 64), let st := s.chip.get (VOL_Q_STATUS_STATE q); st = 1) ∧
    (∃ (s : State) (q : Fin 64) (t : Nat), let st := s.chip.get (VOL_Q_STATUS_STATE q); let cutoff := (s.chip.get (VOL_Q_APPLY_TICK_TICK q) - 1) * s.chip.tickNs; let now := s.chip.get PKG_TICK_NUM_TICK * s.chip.tickNs + t; (st = 2 ∨ st = 3) ∧ now + 4000 < cutoff) ∧
    (∃ (s : State) (q : Fin 64) (t : Nat), let st := s.chip.get (VOL_Q_STATUS_STATE q); let cutoff := (s.chip.get (VOL_Q_APPLY_TICK_TICK q) - 1) * s.chip.tickNs; let now := s.chip.get PKG_TICK_NUM_TICK * s.chip.tickNs + t; (st = 2 ∨ st = 3) ∧ cutoff ≤ now + 4000) ∧
    (∃ (s : State) (q : Fin 64), let st := s.chip.get (VOL_Q_STATUS_STATE q); 4 ≤ st) ∧
    (∃ (s : State) (q : Fin 64), let st := s.chip.get (VOL_Q_STATUS_STATE q); st = 0) ∧
    (∃ (s : State) (q : Fin 64), let st := s.chip.get (VOL_Q_STATUS_STATE q); (st = 1 ∨ 4 ≤ st)) ∧
    (∃ (s : State) (q : Fin 64), let st := s.chip.get (VOL_Q_STATUS_STATE q); (st = 1 ∨ 4 ≤ st)) ∧
    (∃ (s : State) (q : Fin 64), let st := s.chip.get (VOL_Q_STATUS_STATE q); (st = 0 ∨ st = 2 ∨ st = 3)) ∧
    (∃ (s : State) (q : Fin 64), let st := s.chip.get (VOL_Q_STATUS_STATE q); (st = 0 ∨ st = 2 ∨ st = 3)) ∧
    (∃ (s : State) (q : Fin 64), let st := s.chip.get (VOL_Q_STATUS_STATE q); (st = 0 ∨ st = 2 ∨ st = 3)) :=
  ⟨⟨mk (pk []), 63, by dsimp only; decide +kernel⟩,
   ⟨mk (pk [(VOL_Q_STATUS_STATE 63, 1)]), 63, by dsimp only; decide +kernel⟩,
   ⟨mk (pk [(VOL_Q_STATUS_STATE 63, 1)]), 0, 63, 0, by dsimp only; decide +kernel⟩,
   ⟨mk ({ pk [(VOL_Q_STATUS_STATE 63, 1), (VOL_Q_HDR_COUNT 63, 1), (VOL_Q_HDR_BASE 63, 1)] with sec := { (pk []).sec with sess := some (1, 0, true, []) } }), 1, 63, 0, by dsimp only; decide +kernel⟩,
   ⟨mk (pk [(VOL_Q_STATUS_STATE 63, 1), (VOL_Q_STATUS_BUSY 63, 1)]), 63, by dsimp only; decide +kernel⟩,
   ⟨mk (pk [(VOL_Q_STATUS_STATE 63, 2)]), 63, by dsimp only; decide +kernel⟩,
   ⟨mk (pk [(VOL_Q_STATUS_STATE 63, 1)]), 63, by dsimp only; decide +kernel⟩,
   ⟨mk (pk [(VOL_Q_STATUS_STATE 63, 3), (VOL_Q_APPLY_TICK_TICK 63, 5000)]), 63, 1, by dsimp only; decide +kernel⟩,
   ⟨mk (pk [(VOL_Q_STATUS_STATE 63, 3), (VOL_Q_APPLY_TICK_TICK 63, 4001)]), 63, 0, by dsimp only; decide +kernel⟩,
   ⟨mk (pk [(VOL_Q_STATUS_STATE 63, 4)]), 63, by dsimp only; decide +kernel⟩,
   ⟨mk (pk []), 63, by dsimp only; decide +kernel⟩,
   ⟨mk (pk [(VOL_Q_STATUS_STATE 63, 4)]), 63, by dsimp only; decide +kernel⟩,
   ⟨mk (pk [(VOL_Q_STATUS_STATE 63, 1)]), 63, by dsimp only; decide +kernel⟩,
   ⟨mk (pk [(VOL_Q_STATUS_STATE 63, 3)]), 63, by dsimp only; decide +kernel⟩,
   ⟨mk (pk []), 63, by dsimp only; decide +kernel⟩,
   ⟨mk (pk [(VOL_Q_STATUS_STATE 63, 2)]), 63, by dsimp only; decide +kernel⟩⟩

theorem met_VolleyArming :
    (∃ (s : State) (a : BitVec 26), let x := a.toNat / 4 * 4; let i := (x - 0x800000) / 4; 0x800000 ≤ x ∧ x < 0xC00000 ∧ s.chip.get (VOL_Q_STATUS_STATE (i / 16384)) = 1 ∧ s.chip.get (VOL_Q_STATUS_BUSY (i / 16384)) = 0) ∧
    (∃ (s : State) (a : BitVec 26), let x := a.toNat / 4 * 4; let i := (x - 0x800000) / 4; 0x800000 ≤ x ∧ x < 0xC00000 ∧ (s.chip.get (VOL_Q_STATUS_STATE (i / 16384)) ≠ 1 ∨ s.chip.get (VOL_Q_STATUS_BUSY (i / 16384)) = 1)) ∧
    (∃ (s : State) (q : Fin 64) (a : BitVec 26), let st := s.chip.get (VOL_Q_STATUS_STATE q); let x := a.toNat / 4 * 4; x = VOL_Q_HDR q ∧ st = 1 ∧ s.chip.get (VOL_Q_STATUS_BUSY q) = 0) ∧
    (∃ (s : State) (q : Fin 64) (a : BitVec 26), let st := s.chip.get (VOL_Q_STATUS_STATE q); let x := a.toNat / 4 * 4; x = VOL_Q_HDR q ∧ st ≠ 1) ∧
    (∃ (s : State) (q : Fin 64), let r := s.chip.vol q; s.chip.volTurn q = true ∧ r.verdict = 0 ∧ s.chip.segments = none) ∧
    (∃ (s : State) (q : Fin 64), let r := s.chip.vol q; s.chip.volTurn q = true ∧ (r.verdict = 8 ∨ r.verdict = 9)) ∧
    (∃ (s : State) (q : Fin 64), let r := s.chip.vol q; s.chip.volTurn q = true ∧ (r.verdict = 8 ∨ r.verdict = 9)) ∧
    (∃ (s : State) (d : Fin 8) (q : Fin 64), let st := s.chip.get (VOL_Q_STATUS_STATE q); s.chip.inService d = true ∧ (st = 2 ∨ st = 3) ∧ s.chip.volNext d q = true) ∧
    (∃ (s : State) (d : Fin 8) (q : Fin 64), let st := s.chip.get (VOL_Q_STATUS_STATE q); let r := s.chip.vol q; s.chip.inService d = true ∧ (st = 2 ∨ st = 3) ∧ maskBit r.got d = true ∧ s.chip.armPast q = false) ∧
    (∃ (s : State) (d : Fin 8) (q : Fin 64), let r := s.chip.vol q; s.chip.inService d = true ∧ r.goSent = true) ∧
    (∃ (s : State) (d : Fin 8) (q : Fin 64), let r := s.chip.vol q; s.chip.inService d = true ∧ r.abortSent = true) ∧
    (∃ (s : State) (d : Fin 8) (q : Fin 64), let r := s.chip.vol q; s.chip.inService d = true ∧ (r.goSent = true ∨ r.abortSent = true) ∧ maskBit r.acks d = false) ∧
    (∃ (s : State) (q : Fin 64) (t : Nat), let st := s.chip.get (VOL_Q_STATUS_STATE q); let r := s.chip.vol q; let dies := s.chip.get (VOL_Q_ARM_DIES q); let now := s.chip.get PKG_TICK_NUM_TICK * s.chip.tickNs + t; let missed := decide (s.chip.get (VOL_Q_APPLY_TICK_TICK q) * s.chip.tickNs + s.chip.tickNs < now + 20000); (st = 2 ∨ st = 3) ∧ r.goSent = false ∧ s.chip.leaseStopped 0 = false ∧ s.chip.inService s.chip.captain = true ∧ s.chip.get (VOL_Q_APPLY_TICK_TICK q) * s.chip.tickNs ≤ now + 20000 ∧ s.chip.inServiceDies.all (fun e => maskBit dies e) = true ∧ missed = false) ∧
    (∃ (s : State) (q : Fin 64) (t : Nat), let st := s.chip.get (VOL_Q_STATUS_STATE q); let r := s.chip.vol q; let dies := s.chip.get (VOL_Q_ARM_DIES q); let now := s.chip.get PKG_TICK_NUM_TICK * s.chip.tickNs + t; let missed := decide (s.chip.get (VOL_Q_APPLY_TICK_TICK q) * s.chip.tickNs + s.chip.tickNs < now + 20000); (st = 2 ∨ st = 3) ∧ r.goSent = false ∧ s.chip.leaseStopped 0 = false ∧ s.chip.inService s.chip.captain = true ∧ s.chip.get (VOL_Q_APPLY_TICK_TICK q) * s.chip.tickNs ≤ now + 20000 ∧ (s.chip.inServiceDies.all (fun e => maskBit dies e) = false ∨ missed = true)) :=
  ⟨⟨mk (pk [(VOL_Q_STATUS_STATE 63, 1)]), 0xBFFFFF#26, by dsimp only; decide +kernel⟩,
   ⟨mk (pk []), 0x800000#26, by dsimp only; decide +kernel⟩,
   ⟨mk (pk [(VOL_Q_STATUS_STATE 63, 1)]), 63, BitVec.ofNat 26 (VOL_Q_HDR 63), by dsimp only; decide +kernel⟩,
   ⟨mk (pk [(VOL_Q_STATUS_STATE 63, 2)]), 63, BitVec.ofNat 26 (VOL_Q_HDR 63), by dsimp only; decide +kernel⟩,
   ⟨mk (pk [(VOL_Q_STATUS_STATE 63, 1), (VOL_Q_STATUS_BUSY 63, 1), (VOL_Q_SEQ_SEQ 63, 1)]), 63, by dsimp only; decide +kernel⟩,
   ⟨mk ((pk [(VOL_Q_STATUS_STATE 63, 1), (VOL_Q_STATUS_BUSY 63, 1)]).modVol 63 (fun r => { r with verdict := 8 })), 63, by dsimp only; decide +kernel⟩,
   ⟨mk ((pk [(VOL_Q_STATUS_STATE 63, 1), (VOL_Q_STATUS_BUSY 63, 1)]).modVol 63 (fun r => { r with verdict := 9 })), 63, by dsimp only; decide +kernel⟩,
   ⟨mk (pk [(VOL_Q_STATUS_STATE 63, 3)]), 0, 63, by dsimp only; decide +kernel⟩,
   ⟨mk ((pk [(VOL_Q_STATUS_STATE 63, 2), (VOL_Q_APPLY_TICK_TICK 63, 4020)]).modVol 63 (fun r => { r with got := 1 })), 0, 63, by dsimp only; decide +kernel⟩,
   ⟨mk ((pk []).modVol 63 (fun r => { r with goSent := true })), 0, 63, by dsimp only; decide +kernel⟩,
   ⟨mk ((pk []).modVol 63 (fun r => { r with abortSent := true })), 0, 63, by dsimp only; decide +kernel⟩,
   ⟨mk ((pk []).modVol 63 (fun r => { r with abortSent := true, acks := 2 })), 0, 63, by dsimp only; decide +kernel⟩,
   ⟨mk (pk [(VOL_Q_STATUS_STATE 63, 2), (VOL_Q_APPLY_TICK_TICK 63, 4020), (VOL_Q_ARM_DIES 63, 3)]), 63, 0, by dsimp only; decide +kernel⟩,
   ⟨mk (pk [(VOL_Q_STATUS_STATE 63, 2), (VOL_Q_APPLY_TICK_TICK 63, 4002), (VOL_Q_ARM_DIES 63, 1)]), 63, 0, by dsimp only; decide +kernel⟩⟩

theorem met_VolleyApply :
    (∃ (s : State) (q : Fin 64), let c := s.chip.openFive; let rc := c.vol q; s.chip.volDue q = true ∧ c.volDue q = true ∧ rc.loaded = false) ∧
    (∃ (s : State) (q : Fin 64) (d : Fin 8) (sl : Fin 2048) (n : BitVec 30), let h := d.val * 2048 + sl.val; let e := (n.toNat / 2 ^ 15 * 2 ^ 15 + h) % 2 ^ 30; let c := s.chip.openFive; let rc := c.vol q; s.chip.volDue q = true ∧ c.volDue q = true ∧ rc.loaded = false ∧ rc.entries = [e] ∧ c.volOver q = [] ∧ c.servedAt h = some (d.val, sl.val) ∧ c.volHolds q d = true ∧ e / 2 ^ 25 % 4 ≠ 3 ∧ (c.slot d sl).active = false) ∧
    (∃ (s : State) (q : Fin 64) (d : Fin 8) (sl : Fin 2048) (n : BitVec 30), let h := d.val * 2048 + sl.val; let e := (n.toNat / 2 ^ 15 * 2 ^ 15 + h) % 2 ^ 30; let tgt := e / 2 ^ 15 % 2 ^ 10; let c := s.chip.openFive; let rc := c.vol q; s.chip.volDue q = true ∧ c.volDue q = true ∧ rc.loaded = false ∧ rc.entries = [e] ∧ c.volOver q = [] ∧ c.servedAt h = some (d.val, sl.val) ∧ c.volHolds q d = true ∧ e / 2 ^ 25 % 4 ≠ 3 ∧ (c.slot d sl).active = true ∧ c.get (CH_STATE_CURRENT d sl) = tgt) ∧
    (∃ (s : State) (q : Fin 64) (d : Fin 8) (sl : Fin 2048) (n : BitVec 30) (y : _), let h := d.val * 2048 + sl.val; let e := (n.toNat / 2 ^ 15 * 2 ^ 15 + h) % 2 ^ 30; let tgt := e / 2 ^ 15 % 2 ^ 10; let c := s.chip.openFive; let rc := c.vol q; s.chip.volDue q = true ∧ c.volDue q = true ∧ rc.loaded = false ∧ rc.entries = [e] ∧ c.volOver q = [] ∧ c.servedAt h = some (d.val, sl.val) ∧ c.volHolds q d = true ∧ e / 2 ^ 25 % 4 ≠ 3 ∧ (c.slot d sl).active = true ∧ c.get (CH_STATE_CURRENT d sl) ≠ tgt ∧ c.isPoison (entKey d sl tgt) = false ∧ secded (c.libRaw (entKey d sl tgt)) = some (y, false)) ∧
    (∃ (s : State) (q : Fin 64), let r := s.chip.vol q; s.chip.get (VOL_Q_STATUS_STATE q) = 3 ∧ r.loaded = true ∧ s.chip.get (VOL_Q_APPLY_TICK_TICK q) ≤ s.chip.get PKG_TICK_NUM_TICK ∧ r.counts = []) ∧
    (∃ (s : State) (q : Fin 64) (d : Fin 8) (sl : Fin 2048) (n : BitVec 30) (b : _) (bs : _), let r := s.chip.vol q; let h := d.val * 2048 + sl.val; let e := (n.toNat / 2 ^ 15 * 2 ^ 15 + h) % 2 ^ 30; r.left = [e] ∧ s.chip.servedAt h = some (b, bs) ∧ 2048 ≤ bs ∧ e / 2 ^ 25 % 4 ≠ 3 ∧ h ∈ s.chip.volOver q) ∧
    (∃ (s : State) (q : Fin 64) (d : Fin 8) (sl : Fin 2048) (n : BitVec 30) (b : _) (bs : _), let r := s.chip.vol q; let h := d.val * 2048 + sl.val; let e := (n.toNat / 2 ^ 15 * 2 ^ 15 + h) % 2 ^ 30; r.left = [e] ∧ s.chip.servedAt h = some (b, bs) ∧ 2048 ≤ bs ∧ e / 2 ^ 25 % 4 ≠ 3 ∧ h ∉ s.chip.volOver q) :=
  ⟨⟨mk ((pk [(VOL_Q_STATUS_STATE 63, 3), (VOL_Q_APPLY_TICK_TICK 63, 4001)]).modVol 63 (fun r => { r with goSent := true, go := 3, got := 3, entries := [0x8803, 0x8803] })), 63, by dsimp only; decide +kernel⟩,
   ⟨mk ((pk [(VOL_Q_STATUS_STATE 63, 3), (VOL_Q_APPLY_TICK_TICK 63, 4001)]).modVol 63 (fun r => { r with goSent := true, go := 3, got := 3, entries := [0x8803] })), 63, 1, 3, 0x8000#30, by dsimp only; decide +kernel⟩,
   ⟨mk (((pk [(VOL_Q_STATUS_STATE 63, 3), (VOL_Q_APPLY_TICK_TICK 63, 4001), (CH_STATE_CURRENT 1 3, 1)]).modSlot 1 3 (fun r => { r with active := true })).modVol 63 (fun r => { r with goSent := true, go := 3, got := 3, entries := [0x8803] })), 63, 1, 3, 0x8000#30, by dsimp only; decide +kernel⟩,
   ⟨mk (((pk [(VOL_Q_STATUS_STATE 63, 3), (VOL_Q_APPLY_TICK_TICK 63, 4001)]).modSlot 1 3 (fun r => { r with active := true })).modVol 63 (fun r => { r with goSent := true, go := 3, got := 3, entries := [0x8803] })), 63, 1, 3, 0x8000#30, 0, by dsimp only; decide +kernel⟩,
   ⟨mk ((pk [(VOL_Q_STATUS_STATE 63, 3), (VOL_Q_APPLY_TICK_TICK 63, 4000)]).modVol 63 (fun r => { r with loaded := true })), 63, by dsimp only; decide +kernel⟩,
   ⟨mk ((({ pk [(DIE_STATUS_SERVICE 1, svcSidelined), (DIE_COVER_H0_ACTIVE 0, 1), (DIE_COVER_H0_DIE 0, 1), (VOL_Q_STATUS_STATE 62, 3), (VOL_Q_APPLY_TICK_TICK 62, 4001)] with protMask := 256 } : Chip).modVol 62 (fun r => { r with goSent := true, go := 1, got := 1, order := 1, entries := [0x8803] })).modVol 63 (fun r => { r with left := [0x8803] })), 63, 1, 3, 0x8000#30, 0, 2051, by dsimp only; decide +kernel⟩,
   ⟨mk (({ pk [(DIE_STATUS_SERVICE 1, svcSidelined), (DIE_COVER_H0_ACTIVE 0, 1), (DIE_COVER_H0_DIE 0, 1)] with protMask := 256 } : Chip).modVol 63 (fun r => { r with left := [0x8803] })), 63, 1, 3, 0x8000#30, 0, 2051, by dsimp only; decide +kernel⟩⟩

theorem met_ScheduleOccurrences :
    (∃ (s : State) (armed : BitVec 8) (t : Nat) (x : _), let now := s.chip.get PKG_TICK_NUM_TICK * s.chip.tickNs + t; let dig := fun k => tabGet (fun _ => []) s.chip.sched.digests k; let missed := decide (x.1 * s.chip.tickNs + s.chip.tickNs < now + 20000); let agree := !s.chip.leaseStopped 0 && s.chip.inServiceDies.all (fun k => maskBit armed.toNat k && dig k == dig s.chip.captain); s.chip.schedOn = true ∧ s.chip.sched.go = [] ∧ s.chip.nextOcc s.chip.sched.from_ = some x ∧ s.chip.inService s.chip.captain = true ∧ x.1 * s.chip.tickNs ≤ now + 20000 ∧ s.chip.segments = none ∧ x.1 ≠ s.chip.nextB ∧ agree = true ∧ missed = false) ∧
    (∃ (s : State) (armed : BitVec 8) (t : Nat) (x : _), let now := s.chip.get PKG_TICK_NUM_TICK * s.chip.tickNs + t; let dig := fun k => tabGet (fun _ => []) s.chip.sched.digests k; let missed := decide (x.1 * s.chip.tickNs + s.chip.tickNs < now + 20000); let agree := !s.chip.leaseStopped 0 && s.chip.inServiceDies.all (fun k => maskBit armed.toNat k && dig k == dig s.chip.captain); s.chip.schedOn = true ∧ s.chip.sched.go = [] ∧ s.chip.nextOcc s.chip.sched.from_ = some x ∧ s.chip.inService s.chip.captain = true ∧ x.1 * s.chip.tickNs ≤ now + 20000 ∧ s.chip.segments = none ∧ x.1 ≠ s.chip.nextB ∧ (agree = false ∨ missed = true)) ∧
    (∃ (s : State) (d : Fin 8) (sl : Fin 2048) (n : BitVec 30) (t : Nat) (k : _) (m : _) (v : _), let h := d.val * 2048 + sl.val; let e := (n.toNat / 2 ^ 15 * 2 ^ 15 + h) % 2 ^ 30; let c := (s.chip.at t).openFive; s.chip.schedOn = false ∧ s.chip.schedDue ≠ [] ∧ c.sched.go = [⟨c.nextB, k, m⟩] ∧ c.sched.vols[k]? = some v ∧ k < 256 ∧ v.entries = [e] ∧ c.hostOver = [] ∧ c.servedAt h = some (d.val, sl.val) ∧ (c.slot d sl).active = false ∧ maskBit m d = true) ∧
    (∃ (s : State) (d : Fin 8) (sl : Fin 2048) (n : BitVec 30) (t : Nat) (k : _) (m : _) (v : _), let h := d.val * 2048 + sl.val; let e := (n.toNat / 2 ^ 15 * 2 ^ 15 + h) % 2 ^ 30; let c := (s.chip.at t).openFive; s.chip.schedOn = false ∧ s.chip.schedDue ≠ [] ∧ c.sched.go = [⟨c.nextB, k, m⟩] ∧ c.sched.vols[k]? = some v ∧ k < 256 ∧ v.entries = [e] ∧ c.hostOver = [] ∧ c.servedAt h = some (d.val, sl.val) ∧ (c.slot d sl).active = false ∧ maskBit m d = false) ∧
    (∃ (s : State), s.chip.sched.skipped.any (fun y => decide (y.1 ≤ s.chip.nextB)) = true) ∧
    (∃ (s : State) (d : Fin 8) (sl : Fin 2048) (n : BitVec 30) (b : _) (k : _) (v : _), let h := d.val * 2048 + sl.val; let e := (n.toNat / 2 ^ 15 * 2 ^ 15 + h) % 2 ^ 30; let c := s.chip.openFive; let y := c.leftForget [h]; s.chip.sched.skipped.any (fun y => decide (y.1 ≤ s.chip.nextB)) = true ∧ c.sched.skipped = [(b, [k])] ∧ b ≤ c.nextB ∧ c.schedDue = [] ∧ c.sched.vols[k]? = some v ∧ v.entries = [e] ∧ c.hostOver = [] ∧ c.leftTakes (fun o => o == 0) = [] ∧ c.servedAt h = some (d.val, sl.val) ∧ (c.slot d sl).active = false ∧ c.sched.ran.1 ≠ c.nextB) ∧
    (∃ (s : State) (d : Fin 8) (sl : Fin 2048) (n : BitVec 30) (b : _) (k : _) (v : _), let h := d.val * 2048 + sl.val; let e := (n.toNat / 2 ^ 15 * 2 ^ 15 + h) % 2 ^ 30; let c := s.chip.openFive; s.chip.sched.skipped.any (fun y => decide (y.1 ≤ s.chip.nextB)) = true ∧ c.sched.skipped = [(b, [k])] ∧ b ≤ c.nextB ∧ c.schedDue = [] ∧ c.sched.vols[k]? = some v ∧ v.entries = [e] ∧ c.hostOver = [] ∧ c.leftTakes (fun o => o == 0) = [] ∧ c.servedAt h = some (d.val, sl.val) ∧ (c.slot d sl).active = false ∧ c.sched.ran = (c.nextB, [h])) :=
  ⟨⟨mk ({ pk [(SCHED_CTRL_RUN, 1), (SCHED_PERIOD_TICKS, 1000), (SCHED_ANCHOR_G, 3000)] with sched := { vols := [⟨20, 0, 0, []⟩], from_ := 4001 } }), 3#8, 0, (4020, 0), by dsimp only; decide +kernel⟩,
   ⟨mk ({ pk [(SCHED_CTRL_RUN, 1), (SCHED_PERIOD_TICKS, 1000), (SCHED_ANCHOR_G, 3000)] with sched := { vols := [⟨20, 0, 0, []⟩], from_ := 4001 } }), 1#8, 0, (4020, 0), by dsimp only; decide +kernel⟩,
   ⟨mk ({ pk [] with sched := { vols := [⟨3, 0, 0, [0x8803]⟩], go := [⟨4001, 0, 3⟩] } }), 1, 3, 0x8000#30, 0, 0, 3, ⟨3, 0, 0, [0x8803]⟩, by dsimp only; decide +kernel⟩,
   ⟨mk ({ pk [] with sched := { vols := [⟨3, 0, 0, [0x8803]⟩], go := [⟨4001, 0, 1⟩] } }), 1, 3, 0x8000#30, 0, 0, 1, ⟨3, 0, 0, [0x8803]⟩, by dsimp only; decide +kernel⟩,
   ⟨mk ({ pk [] with sched := { vols := [⟨3, 0, 0, [0x8803]⟩], skipped := [(4001, [0])] } }), by decide +kernel⟩,
   ⟨mk ({ pk [] with sched := { vols := [⟨3, 0, 0, [0x8803]⟩], skipped := [(4001, [0])] } }), 1, 3, 0x8000#30, 4001, 0, ⟨3, 0, 0, [0x8803]⟩, by dsimp only; decide +kernel⟩,
   ⟨mk ({ pk [] with sched := { vols := [⟨3, 0, 0, [0x8803]⟩], skipped := [(4001, [0])], ran := (4001, [2051]) } }), 1, 3, 0x8000#30, 4001, 0, ⟨3, 0, 0, [0x8803]⟩, by dsimp only; decide +kernel⟩⟩

theorem met_CommitHandshake :
    (∃ (s : State) (v : Word), let st := s.chip.get PKG_COMMIT_STATUS_STATE; let r := s.chip.commit; Sys2Proof.Machine.Inv s ∧ s.chip.started = true ∧ v.toNat.testBit 31 = true ∧ st ≠ coPending ∧ st ≠ coSegmented ∧ r.freezing = false) ∧
    (∃ (s : State) (v : Word), let st := s.chip.get PKG_COMMIT_STATUS_STATE; let r := s.chip.commit; Sys2Proof.Machine.Inv s ∧ s.chip.started = true ∧ v.toNat.testBit 31 = true ∧ (st = coPending ∨ st = coSegmented ∨ r.freezing = true)) ∧
    (∃ (s : State) (v : Word), let st := s.chip.get PKG_COMMIT_STATUS_STATE; let r := s.chip.commit; Sys2Proof.Machine.Inv s ∧ s.chip.started = true ∧ v.toNat.testBit 31 = true ∧ (st = coPending ∨ st = coSegmented ∨ r.freezing = true)) ∧
    (∃ (s : State) (v : Word), Sys2Proof.Machine.Inv s ∧ s.chip.started = false ∧ v.toNat.testBit 31 = true) ∧
    (∃ (s : State) (d : Fin 8), let r := s.chip.commit; Sys2Proof.Machine.Inv s ∧ s.chip.inService d = true ∧ r.freezing = true ∧ maskBit r.asked d = true ∧ maskBit r.frozen d = false) ∧
    (∃ (s : State) (d : Fin 8), let r := s.chip.commit; let acked := maskSet r.acked d; let all := s.chip.inServiceDies.all (fun e => maskBit acked e); Sys2Proof.Machine.Inv s ∧ s.chip.inService d = true ∧ r.freezing = true ∧ maskBit r.frozen d = true ∧ all = false) ∧
    (∃ (s : State) (d : Fin 8) (t : Nat) (c : _), let r := s.chip.commit; let acked := maskSet r.acked d; let all := s.chip.inServiceDies.all (fun e => maskBit acked e); let c20 := (s.chip.at t).boundary20; Sys2Proof.Machine.Inv s ∧ s.chip.inService d = true ∧ r.freezing = true ∧ maskBit r.frozen d = true ∧ all = true ∧ s.chip.segmentPlan.length = 1 ∧ (r.named = none ∧ c = c20 ∨ r.named = some c ∧ c20 ≤ c)) ∧
    (∃ (s : State) (d : Fin 8) (t : Nat) (c : _), let r := s.chip.commit; let acked := maskSet r.acked d; let all := s.chip.inServiceDies.all (fun e => maskBit acked e); let c20 := (s.chip.at t).boundary20; Sys2Proof.Machine.Inv s ∧ s.chip.inService d = true ∧ r.freezing = true ∧ maskBit r.frozen d = true ∧ all = true ∧ s.chip.segmentPlan.length = 1 ∧ (r.named = none ∧ c = c20 ∨ r.named = some c ∧ c20 ≤ c)) ∧
    (∃ (s : State) (d : Fin 8) (t : Nat) (c : _), let r := s.chip.commit; let dies := s.chip.inServiceDies.foldl maskSet 0; let acked := maskSet r.acked d; let all := s.chip.inServiceDies.all (fun e => maskBit acked e); let c20 := (s.chip.at t).boundary20; Sys2Proof.Machine.Inv s ∧ s.chip.inService d = true ∧ r.freezing = true ∧ maskBit r.frozen d = true ∧ all = true ∧ s.chip.segmentPlan.length = 1 ∧ r.named = some c ∧ c < c20 ∧ r.frozen = dies) ∧
    (∃ (s : State) (d : Fin 8), let r := s.chip.commit; let first : Prop := s.chip.hasVice = false ∨ d.val = s.chip.vice ∨ maskBit r.confirmed s.chip.vice = true ∨ s.chip.inService s.chip.vice = false; Sys2Proof.Machine.Inv s ∧ s.chip.inService d = true ∧ maskBit r.frozen d = true ∧ r.at_.isSome = true ∧ first) ∧
    (∃ (s : State) (d : Fin 8), let r := s.chip.commit; let first : Prop := s.chip.hasVice = false ∨ d.val = s.chip.vice ∨ maskBit r.confirmed s.chip.vice = true ∨ s.chip.inService s.chip.vice = false; Sys2Proof.Machine.Inv s ∧ s.chip.inService d = true ∧ maskBit r.frozen d = true ∧ r.at_.isSome = true ∧ ¬ first) ∧
    (∃ (s : State) (d : Fin 8), let r := s.chip.commit; Sys2Proof.Machine.Inv s ∧ s.chip.inService d = true ∧ maskBit r.frozen d = true ∧ maskBit r.confirmed d = false) :=
  ⟨⟨mk (pk []), 0x80000000#32, by unfold Machine.Inv Chip.Ok Chip.regsWf Chip.memWf Chip.unitsWf; dsimp only; decide +kernel⟩,
   ⟨mk ({ pk [] with commit := { freezing := true } }), 0x80000000#32, by unfold Machine.Inv Chip.Ok Chip.regsWf Chip.memWf Chip.unitsWf; dsimp only; decide +kernel⟩,
   ⟨mk (pk [(PKG_COMMIT_STATUS_STATE, 1)]), 0x80000000#32, by unfold Machine.Inv Chip.Ok Chip.regsWf Chip.memWf Chip.unitsWf; dsimp only; decide +kernel⟩,
   ⟨mk ({ pk [] with started := false }), 0x80000000#32, by unfold Machine.Inv Chip.Ok Chip.regsWf Chip.memWf Chip.unitsWf; decide +kernel⟩,
   ⟨mk ({ pk [] with commit := { freezing := true, asked := 3, frozen := 1 } }), 1, by unfold Machine.Inv Chip.Ok Chip.regsWf Chip.memWf Chip.unitsWf; dsimp only; decide +kernel⟩,
   ⟨mk ({ pk [] with commit := { freezing := true, asked := 3, frozen := 3 } }), 1, by unfold Machine.Inv Chip.Ok Chip.regsWf Chip.memWf Chip.unitsWf; dsimp only; decide +kernel⟩,
   ⟨mk ({ pk [] with commit := { freezing := true, asked := 3, frozen := 3, acked := 1 } }), 1, 0, (pk []).boundary20, by unfold Machine.Inv Chip.Ok Chip.regsWf Chip.memWf Chip.unitsWf; dsimp only; decide +kernel⟩,
   ⟨mk ({ pk [] with commit := { freezing := true, asked := 3, frozen := 3, acked := 1, named := some (pk []).boundary20 } }), 1, 0, (pk []).boundary20, by unfold Machine.Inv Chip.Ok Chip.regsWf Chip.memWf Chip.unitsWf; dsimp only; decide +kernel⟩,
   ⟨mk ({ pk [] with commit := { freezing := true, asked := 3, frozen := 3, acked := 1, named := some 4001 } }), 1, 0, 4001, by unfold Machine.Inv Chip.Ok Chip.regsWf Chip.memWf Chip.unitsWf; dsimp only; decide +kernel⟩,
   ⟨mk ({ pk [] with commit := { frozen := 3, at_ := some 4002 } }), 1, by unfold Machine.Inv Chip.Ok Chip.regsWf Chip.memWf Chip.unitsWf; dsimp only; decide +kernel⟩,
   ⟨mk ({ pk [] with commit := { frozen := 3, at_ := some 4002 } }), 0, by unfold Machine.Inv Chip.Ok Chip.regsWf Chip.memWf Chip.unitsWf; dsimp only; decide +kernel⟩,
   ⟨mk ({ pk [] with commit := { frozen := 3, at_ := some 4002 } }), 1, by unfold Machine.Inv Chip.Ok Chip.regsWf Chip.memWf Chip.unitsWf; dsimp only; decide +kernel⟩⟩

theorem met_CommitLoading :
    (∃ (s : State), let r := s.chip.commit; let fits : Prop := ∀ e : Fin 8, s.chip.inService e = true → maskBit r.confirmed e = true → s.chip.tooMany e = false; Sys2Proof.Machine.Inv s ∧ r.loaded = 0 ∧ r.at_ = some (s.chip.get PKG_TICK_NUM_TICK + 1) ∧ r.plan.length = 1 ∧ fits ∧ (∀ e : Fin 8, s.chip.inService e = true → maskBit r.confirmed e = true → s.chip.syn e ≠ synStarting)) ∧
    (∃ (s : State) (v : Word), let r := s.chip.commit; let g := v.toNat % 1024; let fits : Prop := ∀ e : Fin 8, s.chip.inService e = true → maskBit r.confirmed e = true → s.chip.tooMany e = false; Sys2Proof.Machine.Inv s ∧ r.loaded = 0 ∧ r.at_ = some (s.chip.get PKG_TICK_NUM_TICK + 1) ∧ r.plan.length = 1 ∧ fits ∧ (∀ e : Fin 8, s.chip.inService e = true → maskBit r.confirmed e = true → s.chip.syn e ≠ synStarting) ∧ s.chip.staged = [(VOL_ARM_GUARD, some v)] ∧ s.chip.libStaged = [] ∧ 50 ≤ g ∧ g ≤ 1000) ∧
    (∃ (s : State) (v : Word), let r := s.chip.commit; let g := v.toNat % 1024; let fits : Prop := ∀ e : Fin 8, s.chip.inService e = true → maskBit r.confirmed e = true → s.chip.tooMany e = false; Sys2Proof.Machine.Inv s ∧ r.loaded = 0 ∧ r.at_ = some (s.chip.get PKG_TICK_NUM_TICK + 1) ∧ r.plan.length = 1 ∧ fits ∧ (∀ e : Fin 8, s.chip.inService e = true → maskBit r.confirmed e = true → s.chip.syn e ≠ synStarting) ∧ s.chip.staged = [(VOL_ARM_GUARD, some v)] ∧ s.chip.libStaged = [] ∧ 50 ≤ g ∧ g ≤ 1000) ∧
    (∃ (s : State) (v : Word), let r := s.chip.commit; let g := v.toNat % 1024; let fits : Prop := ∀ e : Fin 8, s.chip.inService e = true → maskBit r.confirmed e = true → s.chip.tooMany e = false; Sys2Proof.Machine.Inv s ∧ r.loaded = 0 ∧ r.at_ = some (s.chip.get PKG_TICK_NUM_TICK + 1) ∧ r.plan.length = 1 ∧ fits ∧ (∀ e : Fin 8, s.chip.inService e = true → maskBit r.confirmed e = true → s.chip.syn e ≠ synStarting) ∧ s.chip.staged = [(VOL_ARM_GUARD, some v)] ∧ s.chip.libStaged = [] ∧ (g < 50 ∨ 1000 < g)) ∧
    (∃ (s : State) (v : Word), let r := s.chip.commit; let g := v.toNat % 1024; let fits : Prop := ∀ e : Fin 8, s.chip.inService e = true → maskBit r.confirmed e = true → s.chip.tooMany e = false; Sys2Proof.Machine.Inv s ∧ r.loaded = 0 ∧ r.at_ = some (s.chip.get PKG_TICK_NUM_TICK + 1) ∧ r.plan.length = 1 ∧ fits ∧ (∀ e : Fin 8, s.chip.inService e = true → maskBit r.confirmed e = true → s.chip.syn e ≠ synStarting) ∧ s.chip.staged = [(VOL_ARM_GUARD, some v)] ∧ s.chip.libStaged = [] ∧ (g < 50 ∨ 1000 < g)) ∧
    (∃ (s : State) (d : Fin 8) (sl : Fin 2048) (v : Word), let r := s.chip.commit; let amp := CH_PHASE_AMP d sl; let idleSlot : Prop := (s.chip.slot d sl).active = false ∧ s.chip.get (CH_CTRL_EN d sl) = 0 ∧ s.chip.inService d = true ∧ maskBit r.confirmed d = true ∧ s.chip.staged = [(amp, some v)] ∧ s.chip.libStaged = []; let fits : Prop := ∀ e : Fin 8, s.chip.inService e = true → maskBit r.confirmed e = true → s.chip.tooMany e = false; Sys2Proof.Machine.Inv s ∧ r.loaded = 0 ∧ r.at_ = some (s.chip.get PKG_TICK_NUM_TICK + 1) ∧ r.plan.length = 1 ∧ fits ∧ (∀ e : Fin 8, s.chip.inService e = true → maskBit r.confirmed e = true → s.chip.syn e ≠ synStarting) ∧ idleSlot ∧ s.chip.planOk s.chip.next (s.chip.serves d) d sl = true) ∧
    (∃ (s : State), let r := s.chip.commit; let fits : Prop := ∀ e : Fin 8, s.chip.inService e = true → maskBit r.confirmed e = true → s.chip.tooMany e = false; Sys2Proof.Machine.Inv s ∧ r.loaded = 0 ∧ r.at_ = some (s.chip.get PKG_TICK_NUM_TICK + 1) ∧ 0 < r.plan.length ∧ ¬ fits) ∧
    (∃ (s : State), let r := s.chip.commit; let fits : Prop := ∀ e : Fin 8, s.chip.inService e = true → maskBit r.confirmed e = true → s.chip.tooMany e = false; Sys2Proof.Machine.Inv s ∧ r.loaded = 0 ∧ r.at_ = some (s.chip.get PKG_TICK_NUM_TICK + 1) ∧ 1 < r.plan.length ∧ fits) ∧
    (∃ (s : State) (j : Nat) (c : _), let r := s.chip.commit; Sys2Proof.Machine.Inv s ∧ r.loaded = j ∧ 0 < j ∧ 1 < r.plan.length ∧ r.at_ = some c ∧ s.chip.get PKG_TICK_NUM_TICK + 1 = c + j ∧ j < r.plan.length) ∧
    (∃ (s : State) (d : Fin 8) (sl : Fin 2048) (v : Word) (j : Nat) (c : _), let r := s.chip.commit; let amp := CH_PHASE_AMP d sl; let idleSlot : Prop := (s.chip.slot d sl).active = false ∧ s.chip.get (CH_CTRL_EN d sl) = 0 ∧ s.chip.inService d = true ∧ maskBit r.confirmed d = true ∧ s.chip.staged = [(amp, some v)] ∧ s.chip.libStaged = []; Sys2Proof.Machine.Inv s ∧ r.loaded = j ∧ 0 < j ∧ 1 < r.plan.length ∧ r.at_ = some c ∧ s.chip.get PKG_TICK_NUM_TICK + 1 = c + j ∧ j < r.plan.length ∧ idleSlot ∧ (r.plan.getD j []).contains (d.val * 8 + sl.val / 256) = true) ∧
    (∃ (s : State) (d : Fin 8) (sl : Fin 2048) (v : Word) (j : Nat) (c : _), let r := s.chip.commit; let amp := CH_PHASE_AMP d sl; let idleSlot : Prop := (s.chip.slot d sl).active = false ∧ s.chip.get (CH_CTRL_EN d sl) = 0 ∧ s.chip.inService d = true ∧ maskBit r.confirmed d = true ∧ s.chip.staged = [(amp, some v)] ∧ s.chip.libStaged = []; Sys2Proof.Machine.Inv s ∧ r.loaded = j ∧ 0 < j ∧ 1 < r.plan.length ∧ r.at_ = some c ∧ s.chip.get PKG_TICK_NUM_TICK + 1 = c + j ∧ j < r.plan.length ∧ idleSlot ∧ (r.plan.getD j []).contains (d.val * 8 + sl.val / 256) = false ∧ j + 1 < r.plan.length) ∧
    (∃ (s : State) (j : Nat) (c : _), let r := s.chip.commit; Sys2Proof.Machine.Inv s ∧ r.loaded = j ∧ 0 < j ∧ 1 < r.plan.length ∧ r.at_ = some c ∧ j = r.plan.length ∧ c + j ≤ s.chip.get PKG_TICK_NUM_TICK + 1) :=
  ⟨⟨mk ({ pk [(SYN_STATUS_STATE 0, 3), (SYN_STATUS_STATE 1, 3)] with commit := { at_ := some 4001, plan := [[]], confirmed := 3 } }), by unfold Machine.Inv Chip.Ok Chip.regsWf Chip.memWf Chip.unitsWf; dsimp only; decide +kernel⟩,
   ⟨mk ({ pk [(SYN_STATUS_STATE 0, 3), (SYN_STATUS_STATE 1, 3)] with commit := { at_ := some 4001, plan := [[]], confirmed := 3 }, staged := [(VOL_ARM_GUARD, some 1000#32)] }), 1000#32, by unfold Machine.Inv Chip.Ok Chip.regsWf Chip.memWf Chip.unitsWf; dsimp only; decide +kernel⟩,
   ⟨mk ({ pk [(SYN_STATUS_STATE 0, 3), (SYN_STATUS_STATE 1, 3)] with commit := { at_ := some 4001, plan := [[]], confirmed := 3 }, staged := [(VOL_ARM_GUARD, some 50#32)] }), 50#32, by unfold Machine.Inv Chip.Ok Chip.regsWf Chip.memWf Chip.unitsWf; dsimp only; decide +kernel⟩,
   ⟨mk ({ pk [(SYN_STATUS_STATE 0, 3), (SYN_STATUS_STATE 1, 3)] with commit := { at_ := some 4001, plan := [[]], confirmed := 3 }, staged := [(VOL_ARM_GUARD, some 49#32)] }), 49#32, by unfold Machine.Inv Chip.Ok Chip.regsWf Chip.memWf Chip.unitsWf; dsimp only; decide +kernel⟩,
   ⟨mk ({ pk [(SYN_STATUS_STATE 0, 3), (SYN_STATUS_STATE 1, 3)] with commit := { at_ := some 4001, plan := [[]], confirmed := 3 }, staged := [(VOL_ARM_GUARD, some 1001#32)] }), 1001#32, by unfold Machine.Inv Chip.Ok Chip.regsWf Chip.memWf Chip.unitsWf; dsimp only; decide +kernel⟩,
   ⟨mk ({ pk [(SYN_STATUS_STATE 0, 3), (SYN_STATUS_STATE 1, 3)] with commit := { at_ := some 4001, plan := [[8]], confirmed := 3 }, staged := [(CH_PHASE_AMP 1 3, some 7#32)] }), 1, 3, 7#32, by unfold Machine.Inv Chip.Ok Chip.regsWf Chip.memWf Chip.unitsWf; dsimp only; decide +kernel⟩,
   ⟨mk ({ (pk ((PKG_TICK_CFG_PERIOD, 0) :: (List.range 129).map (fun i => (CH_CTRL_EN 0 i, 1)))).modPort 0 0 (fun r => { r with passedA := true }) with commit := { at_ := some 4001, plan := [[]], confirmed := 1, frozen := 1 } }), by unfold Machine.Inv Chip.Ok Chip.regsWf Chip.memWf Chip.unitsWf; dsimp only; decide +kernel⟩,
   ⟨mk ({ pk [] with commit := { at_ := some 4001, plan := [[1], [8]], confirmed := 3 } }), by unfold Machine.Inv Chip.Ok Chip.regsWf Chip.memWf Chip.unitsWf; dsimp only; decide +kernel⟩,
   ⟨mk ({ pk [] with commit := { at_ := some 4000, plan := [[1], [8]], confirmed := 3, loaded := 1 } }), 1, 4000, by unfold Machine.Inv Chip.Ok Chip.regsWf Chip.memWf Chip.unitsWf; dsimp only; decide +kernel⟩,
   ⟨mk ({ pk [] with commit := { at_ := some 4000, plan := [[1], [8]], confirmed := 3, loaded := 1 }, staged := [(CH_PHASE_AMP 1 3, some 7#32)] }), 1, 3, 7#32, 1, 4000, by unfold Machine.Inv Chip.Ok Chip.regsWf Chip.memWf Chip.unitsWf; dsimp only; decide +kernel⟩,
   ⟨mk ({ pk [] with commit := { at_ := some 4000, plan := [[1], [2], [8]], confirmed := 3, loaded := 1 }, staged := [(CH_PHASE_AMP 1 3, some 7#32)] }), 1, 3, 7#32, 1, 4000, by unfold Machine.Inv Chip.Ok Chip.regsWf Chip.memWf Chip.unitsWf; dsimp only; decide +kernel⟩,
   ⟨mk ({ pk [] with commit := { at_ := some 3999, plan := [[1], [8]], confirmed := 3, loaded := 2 } }), 2, 3999, by unfold Machine.Inv Chip.Ok Chip.regsWf Chip.memWf Chip.unitsWf; dsimp only; decide +kernel⟩⟩

theorem met_EthernetPorts :
    (∃ (s : State) (j : Fin 2), s.chip.ethReady j = true ∧ s.chip.get (ETH_STATUS_LINK j) = 0 ∧ s.chip.get (ETH_CTRL_MODE j) = 0) ∧
    (∃ (s : State) (j : Fin 2), let m := s.chip.ethTry j; s.chip.ethReady j = true ∧ s.chip.get (ETH_STATUS_LINK j) = 0 ∧ m < 2) ∧
    (∃ (s : State) (j : Fin 2), s.chip.get (ETH_STATUS_LINK j) = 1) ∧
    (∃ (s : State) (j : Fin 2), s.chip.ethUp j = true) ∧
    (∃ (s : State) (h : PtpHdr), s.chip.ethUp h.port = true) :=
  ⟨⟨mk (pk [(ETH_CTRL_EN 1, 1), (ETH_CTRL_MODE 1, 0), (SYN_STATUS_STATE 1, 3)]), 1, by decide +kernel⟩,
   ⟨mk (pk [(ETH_CTRL_EN 1, 1), (ETH_CTRL_MODE 1, 2), (SYN_STATUS_STATE 1, 3)]), 1, by dsimp only; decide +kernel⟩,
   ⟨mk (pk [(ETH_STATUS_LINK 1, 1)]), 1, by decide +kernel⟩,
   ⟨mk (pk [(ETH_STATUS_LINK 1, 1)]), 1, by decide +kernel⟩,
   ⟨mk (pk [(ETH_STATUS_LINK 0, 1)]), hd, by decide +kernel⟩⟩

theorem met_PtpMessages :
    (∃ (s : State) (h : PtpHdr) (d : PtpDataset) (x : Fin 2), let j : Nat := h.port; let src := h.source.toNat; let mine := s.chip.ethUp j && s.chip.ptpFits h && s.chip.ptpDomains h == [x.val]; let auth := !s.chip.on (TIME_DOM_CFG_AUTH x) || s.chip.ptpAuth h; mine = true ∧ auth = true ∧ -7 ≤ h.logInt ∧ h.logInt ≤ 3 ∧ d.steps.toNat < 255 ∧ src / 2 ^ 16 ≠ s.chip.clockId j) ∧
    (∃ (s : State) (h : PtpHdr) (x : Fin 2) (origin : Int) (t : Nat), let j : Nat := h.port; let src := h.source.toNat; let c := (s.chip.at t).reselect x j; let r := c.ptp x j; let mine := s.chip.ethUp j && s.chip.ptpFits h && s.chip.ptpDomains h == [x.val]; let auth := !s.chip.on (TIME_DOM_CFG_AUTH x) || s.chip.ptpAuth h; mine = true ∧ auth = true ∧ -7 ≤ h.logInt ∧ h.logInt ≤ 3 ∧ r.sel = some src ∧ (tabGet (fun _ => none) r.origins src = some 9 ∧ 9 ≤ origin)) ∧
    (∃ (s : State) (h : PtpHdr) (x : Fin 2), let j : Nat := h.port; let src := h.source.toNat; let p := s.chip.reselect x j; let q := p.ptp x j; let mine := s.chip.ethUp j && s.chip.ptpFits h && s.chip.ptpDomains h == [x.val]; let auth := !s.chip.on (TIME_DOM_CFG_AUTH x) || s.chip.ptpAuth h; mine = true ∧ auth = true ∧ q.sel = some src ∧ q.waitSeq = some h.seq.toNat) ∧
    (∃ (s : State) (x : Fin 2) (k : Fin 2) (t : Nat), let seq := ((s.chip.ptp x k).reqSeq + 1) % 2 ^ 16; let f := s.chip.delayReqFrame k (s.chip.delayReqMsg x k seq (-(s.chip.getI (ETH_ASYM_PS k)))); s.chip.ethUp k = true ∧ s.chip.on TIME_CTRL_EN = true ∧ s.chip.on (TIME_DOM_CFG_EN x) = true ∧ maskBit (s.chip.get (TIME_DOM_CFG_PORTS x)) k = true ∧ (s.chip.ptp x k).sel.isSome = true ∧ (s.chip.at t).wireBusy k f.length = false ∧ (s.chip.at t).wireHeld k = false) ∧
    (∃ (s : State) (x : Fin 2) (k : Fin 2) (t : Nat), let seq := ((s.chip.ptp x k).reqSeq + 1) % 2 ^ 16; let f := s.chip.delayReqFrame k (s.chip.delayReqMsg x k seq (-(s.chip.getI (ETH_ASYM_PS k)))); s.chip.ethUp k = true ∧ s.chip.on TIME_CTRL_EN = true ∧ s.chip.on (TIME_DOM_CFG_EN x) = true ∧ maskBit (s.chip.get (TIME_DOM_CFG_PORTS x)) k = true ∧ (s.chip.ptp x k).sel.isSome = true ∧ ((s.chip.at t).wireBusy k f.length = true ∨ (s.chip.at t).wireHeld k = true)) ∧
    (∃ (s : State) (h : PtpHdr) (x : Fin 2) (t : Nat) (req : BitVec 80), let j : Nat := h.port; let src := h.source.toNat; let c := (s.chip.at t).reselect x j; let r := c.ptp x j; let mine := s.chip.ethUp j && s.chip.ptpFits h && s.chip.ptpDomains h == [x.val]; let auth := !s.chip.on (TIME_DOM_CFG_AUTH x) || s.chip.ptpAuth h; mine = true ∧ auth = true ∧ r.sel = some src ∧ r.reqSeq = h.seq.toNat ∧ req.toNat = s.chip.portId j ∧ r.t3 = none) ∧
    (∃ (s : State) (h : PtpHdr) (x : Fin 2) (raw : Int) (t : Nat) (req : BitVec 80) (t1 : _) (t2 : _) (t3 : _), let j : Nat := h.port; let src := h.source.toNat; let c := (s.chip.at t).reselect x j; let r := c.ptp x j; let mine := s.chip.ethUp j && s.chip.ptpFits h && s.chip.ptpDomains h == [x.val]; let auth := !s.chip.on (TIME_DOM_CFG_AUTH x) || s.chip.ptpAuth h; let ms := t2 - t1; let sm := raw - h.corr - t3; let g := (c.dom x).group ++ [(roundDiv (ms - sm) 2, roundDiv (ms + sm) 2)]; mine = true ∧ auth = true ∧ r.sel = some src ∧ r.reqSeq = h.seq.toNat ∧ req.toNat = s.chip.portId j ∧ c.inUse x j = true ∧ r.t1 = some t1 ∧ r.t2 = some t2 ∧ r.t3 = some t3 ∧ g.length < s.chip.get TIME_SERVO_CFG_FILTER) ∧
    (∃ (s : State) (h : PtpHdr) (x : Fin 2) (raw : Int) (t : Nat) (req : BitVec 80) (t1 : _) (t2 : _) (t3 : _), let j : Nat := h.port; let src := h.source.toNat; let c := (s.chip.at t).reselect x j; let r := c.ptp x j; let mine := s.chip.ethUp j && s.chip.ptpFits h && s.chip.ptpDomains h == [x.val]; let auth := !s.chip.on (TIME_DOM_CFG_AUTH x) || s.chip.ptpAuth h; let ms := t2 - t1; let sm := raw - h.corr - t3; let g := (c.dom x).group ++ [(roundDiv (ms - sm) 2, roundDiv (ms + sm) 2)]; mine = true ∧ auth = true ∧ r.sel = some src ∧ r.reqSeq = h.seq.toNat ∧ req.toNat = s.chip.portId j ∧ c.inUse x j = true ∧ r.t1 = some t1 ∧ r.t2 = some t2 ∧ r.t3 = some t3 ∧ s.chip.get TIME_SERVO_CFG_FILTER ≤ g.length) ∧
    (∃ (s : State) (h : PtpHdr) (x : Fin 2), let j : Nat := h.port; let mine := s.chip.ethUp j && s.chip.ptpFits h && s.chip.ptpDomains h == [x.val]; let auth := !s.chip.on (TIME_DOM_CFG_AUTH x) || s.chip.ptpAuth h; mine = true ∧ auth = false) ∧
    (∃ (s : State) (h : PtpHdr), let j : Nat := h.port; s.chip.ethUp j = true ∧ s.chip.ptpFits h = false) :=
  ⟨⟨mk (px [] {} {}), { hd with logInt := -7 }, ⟨1, 2, 3, 4, 5, 6, 254⟩, 0, by dsimp only; decide +kernel⟩,
   ⟨mk (px [] { masters := m7, sel := some 7, origins := [(7, some 9)] } {}), { hd with logInt := 3 }, 0, 9, 0, by dsimp only; decide +kernel⟩,
   ⟨mk (px [] { masters := m7, sel := some 7, waitSeq := some 5 } {}), hd, 0, by dsimp only; decide +kernel⟩,
   ⟨mk (px [] { masters := m7, sel := some 7 } {}), 0, 0, 0, by dsimp only; decide +kernel⟩,
   ⟨mk (px [(ETH_L_STATUS_STATE 15, 2), (ETH_L_CFG_LEN 15, 60), (ETH_L_CFG_PORT 15, 0), (ETH_L_TIME_NS_NS 15, 20)] { masters := m7, sel := some 7 } {}), 0, 0, 0, by dsimp only; decide +kernel⟩,
   ⟨mk (px [] { masters := m7, sel := some 7, reqSeq := 5 } {}), hd, 0, 0, 72055395014672385, by dsimp only; decide +kernel⟩,
   ⟨mk (px [(TIME_SERVO_CFG_FILTER, 2)] { masters := m7, sel := some 7, reqSeq := 5, t1 := some 1, t2 := some 3, t3 := some 4 } { master := some (0, 7, 6) }), hd, 0, 6, 0, 72055395014672385, 1, 3, 4, by dsimp only; decide +kernel⟩,
   ⟨mk (px [(TIME_SERVO_CFG_FILTER, 1)] { masters := m7, sel := some 7, reqSeq := 5, t1 := some 1, t2 := some 3, t3 := some 4 } { master := some (0, 7, 6) }), hd, 0, 6, 0, 72055395014672385, 1, 3, 4, by dsimp only; decide +kernel⟩,
   ⟨mk (px [(TIME_DOM_CFG_AUTH 0, 1)] {} {}), hd, 0, by dsimp only; decide +kernel⟩,
   ⟨mk (px [] {} {}), { hd with minor := 2 }, by dsimp only; decide +kernel⟩⟩

theorem met_TimeoutsAndTelemetry :
    (∃ (s : State) (x : Fin 2) (j : Fin 2), let o : Nat := 1 - j; s.chip.ptpAbsent x o = false ∧ (s.chip.ptp x o).noSync = false ∧ (s.chip.ptp x o).noAnn = false) ∧
    (∃ (s : State) (x : Fin 2) (j : Fin 2), let o : Nat := 1 - j; s.chip.ptpAbsent x o = false ∧ (s.chip.ptp x o).noSync = false ∧ (s.chip.ptp x o).noAnn = false) ∧
    (∃ (s : State) (x : Fin 2) (j : Fin 2), let o : Nat := 1 - j; let st := s.chip.get (TIME_DOM_STATUS_STATE x); let live := decide (domListen ≤ st) && decide (st ≤ domAnomaly); live = true ∧ (s.chip.ptpAbsent x o = true ∨ (s.chip.ptp x o).noSync = true ∨ (s.chip.ptp x o).noAnn = true)) ∧
    (∃ (s : State) (x : Fin 2) (j : Fin 2), let o : Nat := 1 - j; let st := s.chip.get (TIME_DOM_STATUS_STATE x); let live := decide (domListen ≤ st) && decide (st ≤ domAnomaly); live = true ∧ (s.chip.ptpAbsent x o = true ∨ (s.chip.ptp x o).noSync = true ∨ (s.chip.ptp x o).noAnn = true)) ∧
    (∃ (s : State) (d : Fin 8), s.chip.inService d = true ∧ s.chip.started = true ∧ s.chip.leaseStopped 2 = false) ∧
    (∃ (s : State) (j : Fin 2) (t : Nat), let c := s.chip.at t; c.telDue = true ∧ s.chip.get ETH_TEL_CFG_PORTS = 2 ^ j.val ∧ s.chip.ethUp j = true ∧ c.wireBusy j 126 = false) ∧
    (∃ (s : State) (j : Fin 2) (t : Nat), let c := s.chip.at t; c.telDue = true ∧ s.chip.get ETH_TEL_CFG_PORTS = 2 ^ j.val ∧ s.chip.ethUp j = true ∧ c.wireBusy j 126 = false) ∧
    (∃ (s : State) (j : Fin 2) (t : Nat), let c := s.chip.at t; c.telDue = true ∧ s.chip.get ETH_TEL_CFG_PORTS = 2 ^ j.val ∧ s.chip.ethUp j = true ∧ c.wireBusy j 126 = true) ∧
    (∃ (s : State) (t : Nat), let c := s.chip.at t; c.pkgNs % 1000000000 = 0 ∧ s.chip.on TIME_PPS_OUT_EN = true ∧ s.chip.started = true ∧ s.chip.inService s.chip.captain = true ∧ (s.chip.on TIME_STATUS_VALID = true ∨ s.chip.on TIME_PPS_OUT_LOCAL = true)) ∧
    (∃ (s : State) (t : Nat) (n : _), let c := s.chip.at t; c.pkgNs % 1000000000 ≠ 0 ∧ s.chip.time.ppsOut = some n ∧ n + 1000 * s.chip.get TIME_PPS_OUT_WIDTH_US ≤ c.pkgNs) :=
  ⟨⟨mk (px [(ETH_STATUS_LINK 1, 1), (TIME_DOM_CFG_PORTS 0, 3)] {} {}), 0, 0, by dsimp only; decide +kernel⟩,
   ⟨mk (px [(ETH_STATUS_LINK 1, 1), (TIME_DOM_CFG_PORTS 0, 3)] {} {}), 0, 1, by dsimp only; decide +kernel⟩,
   ⟨mk (px [(TIME_DOM_STATUS_STATE 0, domListen)] {} {}), 0, 0, by dsimp only; decide +kernel⟩,
   ⟨mk (px [(TIME_DOM_STATUS_STATE 0, domAnomaly)] {} {}), 0, 0, by dsimp only; decide +kernel⟩,
   ⟨mk (pk []), 1, by decide +kernel⟩,
   ⟨mk ({ pk [(ETH_TEL_CFG_EN, 1), (ETH_TEL_CFG_PERIOD, 1), (ETH_TEL_CFG_PORTS, 2), (ETH_STATUS_LINK 1, 1)] with time := { now := 7000000000 - 400 } }), 1, 400, by dsimp only; decide +kernel⟩,
   ⟨mk ({ pk [(ETH_TEL_CFG_EN, 1), (ETH_TEL_CFG_PERIOD, 1), (ETH_TEL_CFG_PORTS, 2), (ETH_STATUS_LINK 1, 1)] with time := { now := 7000000000 - 400, wireEnd := [(1, 7000000001)] } }), 1, 400, by dsimp only; decide +kernel⟩,
   ⟨mk ({ pk [(ETH_TEL_CFG_EN, 1), (ETH_TEL_CFG_PERIOD, 1), (ETH_TEL_CFG_PORTS, 2), (ETH_STATUS_LINK 1, 1), (ETH_L_STATUS_STATE 15, 2), (ETH_L_CFG_PORT 15, 1), (ETH_L_CFG_LEN 15, 60), (ETH_L_TIME_SEC_LO_SEC 15, 7), (ETH_L_TIME_NS_NS 15, 1)] with time := { now := 7000000000 - 400 } }), 1, 400, by dsimp only; decide +kernel⟩,
   ⟨mk ({ pk [(TIME_PPS_OUT_EN, 1), (TIME_PPS_OUT_LOCAL, 1)] with time := { now := 7000000000 - 400 } }), 400, by dsimp only; decide +kernel⟩,
   ⟨mk ({ pk [(TIME_PPS_OUT_WIDTH_US, 1000)] with time := { now := 7001000000 - 400, ppsOut := some 7000000000 } }), 400, 7000000000, by dsimp only; decide +kernel⟩⟩

theorem met_LaunchSlots :
    (∃ (s : State) (j : Fin 16), let st := s.chip.get (ETH_L_STATUS_STATE j); st = 0) ∧
    (∃ (s : State) (j : Fin 16), let st := s.chip.get (ETH_L_STATUS_STATE j); st ≠ 0) ∧
    (∃ (s : State) (j : Fin 16), let st := s.chip.get (ETH_L_STATUS_STATE j); st ≠ 1) ∧
    (∃ (s : State) (j : Fin 16), let st := s.chip.get (ETH_L_STATUS_STATE j); (st = 0 ∨ st = 1)) ∧
    (∃ (s : State) (j : Fin 16), let st := s.chip.get (ETH_L_STATUS_STATE j); (st = 0 ∨ st = 2)) ∧
    (∃ (s : State) (j : Fin 16), let st := s.chip.get (ETH_L_STATUS_STATE j); st = 1 ∧ s.chip.get TIME_STATUS_VALID = 0) ∧
    (∃ (s : State) (j : Fin 16), let st := s.chip.get (ETH_L_STATUS_STATE j); let len := s.chip.get (ETH_L_CFG_LEN j); st = 1 ∧ s.chip.get TIME_STATUS_VALID = 1 ∧ (len < 60 ∨ 1514 < len)) ∧
    (∃ (s : State) (j : Fin 16), let st := s.chip.get (ETH_L_STATUS_STATE j); let len := s.chip.get (ETH_L_CFG_LEN j); st = 1 ∧ s.chip.get TIME_STATUS_VALID = 1 ∧ (len < 60 ∨ 1514 < len)) ∧
    (∃ (s : State) (j : Fin 16), let st := s.chip.get (ETH_L_STATUS_STATE j); let p := s.chip.get (ETH_L_CFG_PORT j); let len := s.chip.get (ETH_L_CFG_LEN j); st = 1 ∧ s.chip.get TIME_STATUS_VALID = 1 ∧ 60 ≤ len ∧ len ≤ 1514 ∧ s.chip.ethUp p = false) ∧
    (∃ (s : State) (j : Fin 16), let st := s.chip.get (ETH_L_STATUS_STATE j); let p := s.chip.get (ETH_L_CFG_PORT j); let len := s.chip.get (ETH_L_CFG_LEN j); st = 1 ∧ s.chip.get TIME_STATUS_VALID = 1 ∧ 60 ≤ len ∧ len ≤ 1514 ∧ s.chip.ethUp p = true ∧ s.chip.lOverlap j = true) ∧
    (∃ (s : State) (j : Fin 16) (t : Nat), let st := s.chip.get (ETH_L_STATUS_STATE j); let p := s.chip.get (ETH_L_CFG_PORT j); let len := s.chip.get (ETH_L_CFG_LEN j); let at_ := (s.chip.get (ETH_L_TIME_SEC_LO_SEC j) + 2 ^ 32 * s.chip.get (ETH_L_TIME_SEC_HI_SEC j)) * 1000000000 + s.chip.get (ETH_L_TIME_NS_NS j); let now := s.chip.time.now + t; st = 1 ∧ s.chip.get TIME_STATUS_VALID = 1 ∧ 60 ≤ len ∧ len ≤ 1514 ∧ s.chip.ethUp p = true ∧ s.chip.lOverlap j = false ∧ now + 10000 ≤ at_) ∧
    (∃ (s : State) (j : Fin 16) (t : Nat), let st := s.chip.get (ETH_L_STATUS_STATE j); let p := s.chip.get (ETH_L_CFG_PORT j); let len := s.chip.get (ETH_L_CFG_LEN j); let at_ := (s.chip.get (ETH_L_TIME_SEC_LO_SEC j) + 2 ^ 32 * s.chip.get (ETH_L_TIME_SEC_HI_SEC j)) * 1000000000 + s.chip.get (ETH_L_TIME_NS_NS j); let now := s.chip.time.now + t; st = 1 ∧ s.chip.get TIME_STATUS_VALID = 1 ∧ 60 ≤ len ∧ len ≤ 1514 ∧ s.chip.ethUp p = true ∧ s.chip.lOverlap j = false ∧ at_ < now + 10000 ∧ s.chip.get (ETH_L_CFG_LATE j) = 1) ∧
    (∃ (s : State) (j : Fin 16) (t : Nat), let st := s.chip.get (ETH_L_STATUS_STATE j); let p := s.chip.get (ETH_L_CFG_PORT j); let len := s.chip.get (ETH_L_CFG_LEN j); let at_ := (s.chip.get (ETH_L_TIME_SEC_LO_SEC j) + 2 ^ 32 * s.chip.get (ETH_L_TIME_SEC_HI_SEC j)) * 1000000000 + s.chip.get (ETH_L_TIME_NS_NS j); let now := s.chip.time.now + t; st = 1 ∧ s.chip.get TIME_STATUS_VALID = 1 ∧ 60 ≤ len ∧ len ≤ 1514 ∧ s.chip.ethUp p = true ∧ s.chip.lOverlap j = false ∧ at_ < now + 10000 ∧ s.chip.get (ETH_L_CFG_LATE j) = 0) ∧
    (∃ (s : State) (j : Fin 16) (t : Nat), let st := s.chip.get (ETH_L_STATUS_STATE j); let at_ := (s.chip.get (ETH_L_TIME_SEC_LO_SEC j) + 2 ^ 32 * s.chip.get (ETH_L_TIME_SEC_HI_SEC j)) * 1000000000 + s.chip.get (ETH_L_TIME_NS_NS j); let now := s.chip.time.now + t; let late := maskBit s.chip.time.launchLate j; st = 2 ∧ now + 2000 ≤ at_ ∧ late = false) ∧
    (∃ (s : State) (j : Fin 16) (t : Nat), let st := s.chip.get (ETH_L_STATUS_STATE j); let at_ := (s.chip.get (ETH_L_TIME_SEC_LO_SEC j) + 2 ^ 32 * s.chip.get (ETH_L_TIME_SEC_HI_SEC j)) * 1000000000 + s.chip.get (ETH_L_TIME_NS_NS j); let now := s.chip.time.now + t; let late := maskBit s.chip.time.launchLate j; st = 2 ∧ (at_ < now + 2000 ∨ late = true)) ∧
    (∃ (s : State) (j : Fin 16) (t : Nat), let st := s.chip.get (ETH_L_STATUS_STATE j); let p := s.chip.get (ETH_L_CFG_PORT j); let len := s.chip.get (ETH_L_CFG_LEN j); let at_ := (s.chip.get (ETH_L_TIME_SEC_LO_SEC j) + 2 ^ 32 * s.chip.get (ETH_L_TIME_SEC_HI_SEC j)) * 1000000000 + s.chip.get (ETH_L_TIME_NS_NS j); let now := s.chip.time.now + t; let late := maskBit s.chip.time.launchLate j; let held := (s.chip.at t).wireHeld p || (s.chip.at t).wireBusy p len; st = 2 ∧ (late = true ∨ at_ ≤ now) ∧ s.chip.ethUp p = true ∧ late = true ∧ held = true ∧ tabGet (fun _ => none) s.chip.time.telWait p = none) ∧
    (∃ (s : State) (j : Fin 16) (t : Nat) (ns : _), let st := s.chip.get (ETH_L_STATUS_STATE j); let p := s.chip.get (ETH_L_CFG_PORT j); let len := s.chip.get (ETH_L_CFG_LEN j); let at_ := (s.chip.get (ETH_L_TIME_SEC_LO_SEC j) + 2 ^ 32 * s.chip.get (ETH_L_TIME_SEC_HI_SEC j)) * 1000000000 + s.chip.get (ETH_L_TIME_NS_NS j); let now := s.chip.time.now + t; let late := maskBit s.chip.time.launchLate j; let held := (s.chip.at t).wireHeld p || (s.chip.at t).wireBusy p len; st = 2 ∧ (late = true ∨ at_ ≤ now) ∧ s.chip.ethUp p = true ∧ (late = false ∨ held = false) ∧ tabGet (fun _ => none) s.chip.time.telWait p = some ns ∧ (∀ k : Fin 16, k ≠ j → s.chip.get (ETH_L_STATUS_STATE k) ≠ 2)) ∧
    (∃ (s : State) (j : Fin 16) (t : Nat), let st := s.chip.get (ETH_L_STATUS_STATE j); let p := s.chip.get (ETH_L_CFG_PORT j); let len := s.chip.get (ETH_L_CFG_LEN j); let at_ := (s.chip.get (ETH_L_TIME_SEC_LO_SEC j) + 2 ^ 32 * s.chip.get (ETH_L_TIME_SEC_HI_SEC j)) * 1000000000 + s.chip.get (ETH_L_TIME_NS_NS j); let now := s.chip.time.now + t; let late := maskBit s.chip.time.launchLate j; let held := (s.chip.at t).wireHeld p || (s.chip.at t).wireBusy p len; st = 2 ∧ (late = true ∨ at_ ≤ now) ∧ s.chip.ethUp p = true ∧ (late = false ∨ held = false) ∧ tabGet (fun _ => none) s.chip.time.telWait p = none) ∧
    (∃ (s : State) (j : Fin 16) (t : Nat), let st := s.chip.get (ETH_L_STATUS_STATE j); let p := s.chip.get (ETH_L_CFG_PORT j); let at_ := (s.chip.get (ETH_L_TIME_SEC_LO_SEC j) + 2 ^ 32 * s.chip.get (ETH_L_TIME_SEC_HI_SEC j)) * 1000000000 + s.chip.get (ETH_L_TIME_NS_NS j); let now := s.chip.time.now + t; let late := maskBit s.chip.time.launchLate j; st = 2 ∧ (late = true ∨ at_ ≤ now) ∧ s.chip.ethUp p = false ∧ tabGet (fun _ => none) s.chip.time.telWait p = none) ∧
    (∃ (s : State) (j : Fin 16), let st := s.chip.get (ETH_L_STATUS_STATE j); 3 ≤ st) ∧
    (∃ (s : State) (j : Fin 16), let st := s.chip.get (ETH_L_STATUS_STATE j); (st = 1 ∨ 3 ≤ st)) ∧
    (∃ (s : State) (j : Fin 16), let st := s.chip.get (ETH_L_STATUS_STATE j); (st = 1 ∨ 3 ≤ st)) :=
  ⟨⟨mk (pk []), 15, by dsimp only; decide +kernel⟩,
   ⟨mk (ln 1 60 0 []), 15, by dsimp only; decide +kernel⟩,
   ⟨mk (ln 2 60 0 []), 15, by dsimp only; decide +kernel⟩,
   ⟨mk (ln 1 60 0 []), 15, by dsimp only; decide +kernel⟩,
   ⟨mk (ln 2 60 0 []), 15, by dsimp only; decide +kernel⟩,
   ⟨mk (ln 1 60 0 [(TIME_STATUS_VALID, 0)]), 15, by dsimp only; decide +kernel⟩,
   ⟨mk (ln 1 59 0 []), 15, by dsimp only; decide +kernel⟩,
   ⟨mk (ln 1 1515 0 []), 15, by dsimp only; decide +kernel⟩,
   ⟨mk (ln 1 1514 0 [(ETH_STATUS_LINK 1, 0)]), 15, by dsimp only; decide +kernel⟩,
   ⟨mk (ln 1 60 50000 [(ETH_L_STATUS_STATE 0, 2), (ETH_L_CFG_PORT 0, 1), (ETH_L_CFG_LEN 0, 60), (ETH_L_TIME_NS_NS 0, 50000)]), 15, by dsimp only; decide +kernel⟩,
   ⟨mk (ln 1 60 10000 []), 15, 0, by dsimp only; decide +kernel⟩,
   ⟨mk (ln 1 60 9999 [(ETH_L_CFG_LATE 15, 1)]), 15, 0, by dsimp only; decide +kernel⟩,
   ⟨mk (ln 1 60 9999 [(ETH_L_CFG_LATE 15, 0)]), 15, 0, by dsimp only; decide +kernel⟩,
   ⟨mk (ln 2 60 2000 []), 15, 0, by dsimp only; decide +kernel⟩,
   ⟨mk (ln 2 60 1999 []), 15, 0, by dsimp only; decide +kernel⟩,
   ⟨mk ({ ln 2 60 0 [] with time := { launchLate := 32768, wireEnd := [(1, 1)] } }), 15, 0, by dsimp only; decide +kernel⟩,
   ⟨mk ({ ln 2 60 0 [] with time := { telWait := [(1, some 0)] } }), 15, 0, 0, by dsimp only; decide +kernel⟩,
   ⟨mk (ln 2 60 0 []), 15, 0, by dsimp only; decide +kernel⟩,
   ⟨mk (ln 2 60 0 [(ETH_STATUS_LINK 1, 0)]), 15, 0, by dsimp only; decide +kernel⟩,
   ⟨mk (ln 3 60 0 []), 15, by dsimp only; decide +kernel⟩,
   ⟨mk (ln 3 60 0 []), 15, by dsimp only; decide +kernel⟩,
   ⟨mk (ln 1 60 0 []), 15, by dsimp only; decide +kernel⟩⟩

theorem met_TickBoundary :
    (∃ (s : State), s.chip.resetLow = false ∧ s.chip.stepDue = false ∧ s.chip.started = true) ∧
    (∃ (s : State) (ns : _) (m : _) (x : _) (re : _), let n := s.chip.get PKG_TICK_NUM_TICK; s.chip.started = true ∧ s.chip.time.prefDue = false ∧ s.chip.time.stepAt = some (ns, m, x, re) ∧ ns = n + 1 ∧ m < 2 ^ 64 ∧ x < 2) :=
  ⟨⟨mk (pk []), by decide +kernel⟩,
   ⟨mk ({ pk [] with time := { stepAt := some (4001, 0xFFFFFFFFFFFFFFFF, 1, true) } }), 4001, 0xFFFFFFFFFFFFFFFF, 1, true, by dsimp only; decide +kernel⟩⟩

theorem met_OverrunsAndAccesses :
    (∃ (s : State) (d : Fin 8), s.chip.inService d = true ∧ s.chip.started = true ∧ (s.chip.die d).overrun = false ∧ s.chip.bypassed d = false) ∧
    (∃ (s : State) (d : Fin 8) (v : Word), d.val < s.chip.dieCount ∧ v.toNat % 2 = 1) ∧
    (∃ (s : State) (d : Fin 8), d.val < s.chip.dieCount ∧ svcSidelined ≤ s.chip.get (DIE_STATUS_SERVICE d)) ∧
    (∃ (s : State) (h : Fin 2), s.chip.hostUp h = true ∧ s.chip.memOn h = true) ∧
    (∃ (s : State) (h : Fin 2), s.chip.hostUp h = true ∧ s.chip.memOn h = false) :=
  ⟨⟨mk (pk [(SYN_STATUS_BYPASS 1, 0)]), 1, by decide +kernel⟩,
   ⟨mk (pk []), 1, 1, by decide +kernel⟩,
   ⟨mk ((pk []).setService 1 svcSidelined), 1, by decide +kernel⟩,
   ⟨mk (pk []), 1, by decide +kernel⟩,
   ⟨mk ((pk []).modHost 1 (fun r => { r with cmd := 0x140 })), 1, by decide +kernel⟩⟩

theorem met_LimitedCounts :
    (∃ (s : State) (v : Word), let x := v.toNat; let f := s.chip.fuses s.chip.captain; let k := x % 4; x / 2 ^ 31 % 2 = 0 ∧ f.owner k = 0 ∧ maskBit f.programmed k = false ∧ s.chip.sec.sess = none ∧ s.chip.get SEC_STATUS_BURNING = 0 ∧ s.chip.allServing = true) ∧
    (∃ (s : State) (v : Word), let x := v.toNat; let f := s.chip.fuses s.chip.captain; let k := x % 4; x / 2 ^ 31 % 2 = 0 ∧ f.owner k = 0 ∧ maskBit f.programmed k = false ∧ s.chip.sec.sess = none ∧ s.chip.get SEC_STATUS_BURNING = 1) ∧
    (∃ (s : State) (v : Word), let x := v.toNat; let f := s.chip.fuses s.chip.captain; let k := x % 4; x / 2 ^ 31 % 2 = 0 ∧ maskBit f.programmed k = true) ∧
    (∃ (s : State) (v : Word), let x := v.toNat; let f := s.chip.fuses s.chip.captain; let k := x % 4; x / 2 ^ 31 % 2 = 1 ∧ f.owner k = 1 ∧ (∃ j : Fin 4, j.val ≠ k ∧ f.owner j = 1) ∧ s.chip.get SEC_STATUS_BURNING = 0 ∧ s.chip.allServing = true) ∧
    (∃ (s : State) (v : Word), let x := v.toNat; let f := s.chip.fuses s.chip.captain; let k := x % 4; x / 2 ^ 31 % 2 = 1 ∧ f.owner k = 1 ∧ (∃ j : Fin 4, j.val ≠ k ∧ f.owner j = 1) ∧ s.chip.get SEC_STATUS_BURNING = 1) ∧
    (∃ (s : State) (v : Word), let x := v.toNat; let f := s.chip.fuses s.chip.captain; let k := x % 4; f.lifecycle < 3 ∧ k = f.lifecycle + 1 ∧ (k = 2 → ∃ j : Fin 4, f.owner j = 1) ∧ s.chip.get SEC_STATUS_BURNING = 0 ∧ s.chip.allServing = true) ∧
    (∃ (s : State) (v : Word), let x := v.toNat; let f := s.chip.fuses s.chip.captain; let k := x % 4; f.lifecycle < 3 ∧ k = f.lifecycle + 1 ∧ (k = 2 → ∃ j : Fin 4, f.owner j = 1) ∧ s.chip.allServing = false) ∧
    (∃ (s : State) (v : Word), let x := v.toNat; let f := s.chip.fuses s.chip.captain; x % 2 = 1 ∧ f.rollback ≠ s.chip.get IMG_STATUS_SEC_VERSION ∧ f.rollback < 255 ∧ s.chip.get SEC_STATUS_BURNING = 0 ∧ s.chip.allServing = true) ∧
    (∃ (s : State) (v : Word), let x := v.toNat; let f := s.chip.fuses s.chip.captain; x % 2 = 1 ∧ f.rollback ≠ s.chip.get IMG_STATUS_SEC_VERSION ∧ f.rollback < 255 ∧ s.chip.allServing = false) ∧
    (∃ (s : State) (v : Word), let x := v.toNat; let f := s.chip.fuses s.chip.captain; x % 2 = 0 ∧ f.hp1Off = false ∧ s.chip.get SEC_STATUS_BURNING = 0 ∧ s.chip.allServing = true) ∧
    (∃ (s : State) (v : Word), let x := v.toNat; let f := s.chip.fuses s.chip.captain; x % 2 = 0 ∧ f.hp1Off = false ∧ s.chip.get SEC_STATUS_BURNING = 1) ∧
    (∃ (s : State) (v : Word), let x := v.toNat; let f := s.chip.fuses s.chip.captain; x % 256 ≠ 0 ∧ f.disabled ||| x % 256 ≠ f.disabled ∧ (f.disabled ||| x % 256) % 4 ≠ 3 ∧ s.chip.get SEC_STATUS_BURNING = 0 ∧ s.chip.inService 0 = true ∧ s.chip.inService 1 = true) ∧
    (∃ (s : State) (v : Word), let x := v.toNat; let f := s.chip.fuses s.chip.captain; s.chip.get SEC_STATUS_BURNING = 0 ∧ s.chip.allServing = true ∧ s.chip.sec.burn = none ∧ x % 2 = 1 ∧ f.debug = false) ∧
    (∃ (s : State) (v : Word) (th : _), let x := v.toNat; let f := s.chip.fuses s.chip.captain; s.chip.get SEC_STATUS_BURNING = 0 ∧ s.chip.allServing = true ∧ s.chip.sec.burn = none ∧ (s.chip.dom (x % 2)).theta = some th ∧ th < 0 ∧ x / 2 ^ 31 % 2 = 1 ∧ 0 < f.restep ∧ (s.chip.get (TIME_DOM_STATUS_STATE (x % 2)) = domTracking ∨ s.chip.get (TIME_DOM_STATUS_STATE (x % 2)) = domAnomaly)) ∧
    (∃ (s : State) (b : _), s.chip.sec.burn = some b ∧ b.1 ≠ 1) :=
  ⟨⟨mk (pk []), 3#32, by dsimp only; decide +kernel⟩,
   ⟨mk (pk [(SEC_STATUS_BURNING, 1)]), 3#32, by dsimp only; decide +kernel⟩,
   ⟨mk ((pk []).setFuses 0 { programmed := 8 }), 3#32, by dsimp only; decide +kernel⟩,
   ⟨mk ((pk []).setFuses 0 { programmed := 3 }), 0x80000000#32, by dsimp only; decide +kernel⟩,
   ⟨mk (((pk []).setFuses 0 { programmed := 3 }).set SEC_STATUS_BURNING 1), 0x80000001#32, by dsimp only; decide +kernel⟩,
   ⟨mk ((pk []).setFuses 0 { programmed := 8 }), 2#32, by dsimp only; decide +kernel⟩,
   ⟨mk (((pk []).setFuses 0 { lifecycle := 2 }).setService 1 svcSidelined), 3#32, by dsimp only; decide +kernel⟩,
   ⟨mk ((pk []).setFuses 0 { rollback := 254 }), 1#32, by dsimp only; decide +kernel⟩,
   ⟨mk (((pk []).setFuses 0 { rollback := 254 }).setService 1 svcSidelined), 1#32, by dsimp only; decide +kernel⟩,
   ⟨mk (pk []), 0, by dsimp only; decide +kernel⟩,
   ⟨mk (pk [(SEC_STATUS_BURNING, 1)]), 0, by dsimp only; decide +kernel⟩,
   ⟨mk (pk []), 4#32, by dsimp only; decide +kernel⟩,
   ⟨mk (pk []), 1#32, by dsimp only; decide +kernel⟩,
   ⟨mk ((pk [(TIME_DOM_STATUS_STATE 0, domTracking)]).modDom 0 (fun r => { r with theta := some (-1) })), 0x80000000#32, -1, by dsimp only; decide +kernel⟩,
   ⟨mk ({ pk [] with sec := { burn := some (0, 0, []) } }), (0, 0, []), by decide +kernel⟩⟩

theorem met_Sessions :
    (∃ (s : State), let c := s.chip; let lc := c.get SEC_STATUS_LIFECYCLE; (lc = 1 ∨ lc = 2) ∧ c.sec.lockout = false ∧ c.get SEC_STATUS_ENTROPY_OK = 1) ∧
    (∃ (s : State), let c := s.chip; let lc := c.get SEC_STATUS_LIFECYCLE; (lc = 0 ∨ lc = 3 ∨ c.sec.lockout = true)) ∧
    (∃ (s : State) (p : Fin 2) (head : _) (x : _) (k : _) (first : _), let c := s.chip; c.sec.chal = some (p.val, head, x) ∧ c.ownerOf c.sessReq = some (k, first) ∧ k < 4 ∧ c.proveCause c.sessReq head = 0) ∧
    (∃ (s : State), let c := s.chip; c.sec.chal = none) ∧
    (∃ (s : State) (p : Fin 2) (o : _), let c := s.chip; c.sec.sess = some o ∧ o.1 = p.val) ∧
    (∃ (s : State) (p : Fin 2) (o : _), let c := s.chip; c.sec.sess = some o ∧ o.1 = p.val) :=
  ⟨⟨mk (pk [(SEC_STATUS_LIFECYCLE, 1), (SEC_STATUS_ENTROPY_OK, 1)]), by dsimp only; decide +kernel⟩,
   ⟨mk (pk [(SEC_STATUS_LIFECYCLE, 3)]), by dsimp only; decide +kernel⟩,
   ⟨mk proving, 0, [], 1, 0, true, by decide +kernel, proving_owner, by decide, proving_passes⟩,
   ⟨mk (pk []), by dsimp only; decide +kernel⟩,
   ⟨mk ({ pk [] with sec := { sess := some (1, 0, true, []) } }), 1, (1, 0, true, []), by dsimp only; decide +kernel⟩,
   ⟨mk ({ pk [] with sec := { sess := some (1, 0, true, []) } }), 1, (1, 0, true, []), by dsimp only; decide +kernel⟩⟩

theorem met_KeysAndAudit :
    (∃ (s : State) (v : Word), let c := s.chip; let x := v.toNat; x / 2 ^ 31 % 2 = 1 ∧ c.get SEC_ATT_STATUS_BUSY = 0 ∧ c.get SEC_STATUS_ENTROPY_OK = 1) ∧
    (∃ (s : State), let c := s.chip; c.get SEC_ATT_STATUS_BUSY = 1) ∧
    (∃ (s : State) (d : Fin 8) (hit : Option Nat), let c := s.chip; let l := match hit with | some i => (c.log d).damaged i | none => c.log d; c.runs d = true ∧ (c.started = false ∨ c.rejoining d = true) ∧ c.logFail l = none) ∧
    (∃ (s : State) (d : Fin 8) (hit : Option Nat) (i : _), let c := s.chip; let l := match hit with | some i => (c.log d).damaged i | none => c.log d; c.runs d = true ∧ (c.started = false ∨ c.rejoining d = true) ∧ c.logFail l = some i ∧ (l.entries.getLast?).map (·.index) = some i) ∧
    (∃ (s : State) (d : Fin 8) (hit : Option Nat) (i : _), let c := s.chip; let l := match hit with | some i => (c.log d).damaged i | none => c.log d; c.runs d = true ∧ (c.started = false ∨ c.rejoining d = true) ∧ c.logFail l = some i ∧ (l.entries.getLast?).map (·.index) ≠ some i) ∧
    (∃ (s : State) (plain : Bool), let c := s.chip; c.get SEC_STATUS_DEBUG_LOCKED = 1 ∧ plain = false) ∧
    (∃ (s : State) (plain : Bool), let c := s.chip; (c.get SEC_STATUS_DEBUG_LOCKED = 0 ∨ plain = true)) :=
  ⟨⟨mk (pk [(SEC_STATUS_ENTROPY_OK, 1)]), 0x80000000#32, by dsimp only; decide +kernel⟩,
   ⟨mk (pk [(SEC_ATT_STATUS_BUSY, 1)]), by dsimp only; decide +kernel⟩,
   ⟨mk ({ pk [] with started := false }), 1, none, by dsimp only; decide +kernel⟩,
   ⟨mk ({ pk [] with started := false, sec := { logs := [(1, { entries := [aud 0], base := [], next := 1 })] } }), 1, none, 0, by dsimp only; decide +kernel⟩,
   ⟨mk ({ pk [] with started := false, sec := { logs := [(1, { entries := [aud 0, aud 1], base := [], next := 2 })] } }), 1, some 0, 0, by dsimp only; decide +kernel⟩,
   ⟨mk (pk [(SEC_STATUS_DEBUG_LOCKED, 1)]), false, by dsimp only; decide +kernel⟩,
   ⟨mk (pk [(SEC_STATUS_DEBUG_LOCKED, 1)]), true, by dsimp only; decide +kernel⟩⟩

theorem met_ResetAndRails :
    (∃ (s : State) (d : Fin 8), let c := s.chip; c.resetLow = true ∧ d.val < c.dieCount) ∧
    (∃ (s : State) (d : Fin 8), let c := s.chip; d.val < c.dieCount ∧ (c.die d).inReset = false) ∧
    (∃ (s : State) (d : Fin 8), let c := s.chip; d.val < c.dieCount) :=
  ⟨⟨mk State.reset.chip, 7, by dsimp only; decide +kernel⟩,
   ⟨mk (pk []), 1, by dsimp only; decide +kernel⟩,
   ⟨mk (pk []), 1, by dsimp only; decide +kernel⟩⟩

theorem met_Negotiation :
    (∃ (s : State) (d : Fin 8), let c := s.chip; d.val < c.dieCount ∧ (c.die d).inReset = false ∧ (c.die d).negStarted = false ∧ (c.get (CLK_STATUS_JUDGE d) = judgeStable ∨ c.get (CLK_STATUS_JUDGE d) = Sys2Proof.Machine.judgeTimeout)) ∧
    (∃ (s : State) (d : Fin 8), let c := s.chip; d.val < c.dieCount ∧ (c.die d).inReset = false ∧ (c.die d).negStarted = false ∧ (c.get (CLK_STATUS_JUDGE d) = judgeStable ∨ c.get (CLK_STATUS_JUDGE d) = Sys2Proof.Machine.judgeTimeout)) ∧
    (∃ (s : State) (d : Fin 8) (e : Fin 8), let c := s.chip; d.val < c.dieCount ∧ e.val < c.dieCount ∧ (c.die d).inReset = false ∧ (c.die d).negDone = false ∧ (c.die e).negStarted = true) ∧
    (∃ (s : State) (d : Fin 8), let c := s.chip; d.val < c.dieCount ∧ (c.die d).negStarted = true ∧ (c.die d).negDone = false ∧ (c.hasCaptain = true ∨ (∃ k : Fin 8, (c.rolesSeen d).1 = some k.val ∧ k ≠ d))) ∧
    (∃ (s : State) (d : Fin 8), let c := s.chip; d.val < c.dieCount ∧ (c.die d).negStarted = true ∧ (c.die d).negDone = false ∧ (c.rolesSeen d).1 = none ∧ c.get PKG_ROLE_NEG_DONE = 0 ∧ c.dieCount ≤ 8 ∧ (d.val = 0 ∨ c.negOpen 0 = false) ∧ (d.val = 1 ∨ c.negOpen 1 = false)) ∧
    (∃ (s : State) (d : Fin 8), let c := s.chip; d.val < c.dieCount ∧ (c.die d).negStarted = true ∧ (c.die d).negDone = false ∧ c.hasCaptain = false ∧ (c.rolesSeen d).1 = some d.val ∧ c.dieCount ≤ 8) ∧
    (∃ (s : State) (found : FuseCheck), let c := s.chip; let bad := found.bad.toNat; let behind := found.behind.toNat; let ds := c.dieList.filter (fun k => c.service k == svcStarting && !maskBit bad k); c.hasCaptain = true ∧ c.started = false ∧ c.get IMG_STATUS_STATE = 0 ∧ c.image.slot = none ∧ c.service c.captain = svcStarting ∧ c.captain < c.dieCount ∧ maskBit bad c.captain = false ∧ maskBit behind c.captain = false ∧ (c.levelOf ds).lifecycle ≠ 3) :=
  ⟨⟨mk (pk [(CLK_STATUS_JUDGE 0, judgeTimeout)]), 0, by dsimp only; decide +kernel⟩,
   ⟨mk (pk [(CLK_STATUS_JUDGE 0, judgeStable)]), 0, by dsimp only; decide +kernel⟩,
   ⟨mk (((pk []).modDie 0 (fun r => { r with negDone := false })).modDie 1 (fun r => { r with negStarted := true })), 0, 1, by dsimp only; decide +kernel⟩,
   ⟨mk ((pk []).modDie 1 (fun r => { r with negStarted := true, negDone := false })), 1, by dsimp only; decide +kernel⟩,
   ⟨mk ((pk [(PKG_ROLE_NEG_DONE, 0)]).modDie 0 (fun r => { r with negStarted := true, negDone := false })), 0, by dsimp only; decide +kernel⟩,
   ⟨mk ((pk [(PKG_ROLE_NEG_DONE, 0)]).modDie 0 (fun r => { r with negStarted := true, negDone := false, rolls := [(0, some {}), (1, some {})] })), 0, by dsimp only; decide +kernel⟩,
   ⟨mk ({ ((pk []).setService 0 svcStarting) with started := false }), ⟨2, 0⟩, by dsimp only; decide +kernel⟩⟩

theorem met_ImageAndFlash :
    (∃ (s : State), let c := s.chip; let life := c.lifecycle; c.hasCaptain = true ∧ c.started = false ∧ c.get IMG_STATUS_STATE = imgHeaders ∧ c.image.slot = none ∧ c.image.tried = 0 ∧ c.image.pin = 0 ∧ (life = 1 ∨ life = 2)) ∧
    (∃ (s : State) (ok : Bool) (j : Fin 2), let c := s.chip; let b := c.image.block; c.hasCaptain = true ∧ c.get IMG_STATUS_STATE = imgLoading ∧ c.image.slot = some j.val ∧ c.imgBlocks j ≤ c.slotBlocks j ∧ c.flashHeld j = true ∧ ok = true ∧ c.blockCrcOk j b = true ∧ b + 1 < c.imgBlocks j) ∧
    (∃ (s : State) (ok : Bool) (j : Fin 2), let c := s.chip; let b := c.image.block; c.hasCaptain = true ∧ c.get IMG_STATUS_STATE = imgLoading ∧ c.image.slot = some j.val ∧ c.imgBlocks j ≤ c.slotBlocks j ∧ c.flashHeld j = true ∧ ok = true ∧ c.blockCrcOk j b = true ∧ c.imgBlocks j ≤ b + 1 ∧ (c.imgKeyOk j = false ∨ c.imgSigned j = false)) ∧
    (∃ (s : State) (ok : Bool) (j : Fin 2), let c := s.chip; let b := c.image.block; c.hasCaptain = true ∧ c.get IMG_STATUS_STATE = imgLoading ∧ c.image.slot = some j.val ∧ c.imgBlocks j ≤ c.slotBlocks j ∧ c.flashHeld j = true ∧ ok = true ∧ c.blockCrcOk j b = true ∧ c.imgBlocks j ≤ b + 1 ∧ c.imgKeyOk j = true ∧ c.imgSigned j = true) ∧
    (∃ (s : State) (ok : Bool) (j : Fin 2), let c := s.chip; c.hasCaptain = true ∧ c.get IMG_STATUS_STATE = imgLoading ∧ c.image.slot = some j.val ∧ c.imgBlocks j ≤ c.slotBlocks j ∧ c.flashHeld j = true ∧ ok = false ∧ c.image.tries < 3) ∧
    (∃ (s : State) (ok : Bool) (j : Fin 2), let c := s.chip; c.hasCaptain = true ∧ c.get IMG_STATUS_STATE = imgLoading ∧ c.image.slot = some j.val ∧ c.imgBlocks j ≤ c.slotBlocks j ∧ c.flashHeld j = true ∧ ok = false ∧ 3 ≤ c.image.tries) ∧
    (∃ (s : State) (v : Word), let c := s.chip; let op := v.toNat % 4; let j := v.toNat / 2 ^ 8 % 2; let b := c.get IMG_FL_ADDR_BLOCK; let bad := (op = 1 ∧ b % 16 ≠ 0) ∨ c.slotBlocks j ≤ b; let used := op ≠ 0 ∧ c.slotInUse j = true; let crc := op = 2 ∧ crc32c (c.flBuf.take 4092) ≠ natLE (c.flBuf.drop 4092); v.toNat / 2 ^ 31 = 1 ∧ c.get IMG_FL_STATUS_BUSY = 0 ∧ op = 0 ∧ ¬ bad ∧ ¬ used ∧ ¬ crc) ∧
    (∃ (s : State) (v : Word), let c := s.chip; let op := v.toNat % 4; let j := v.toNat / 2 ^ 8 % 2; let b := c.get IMG_FL_ADDR_BLOCK; let bad := (op = 1 ∧ b % 16 ≠ 0) ∨ c.slotBlocks j ≤ b; let used := op ≠ 0 ∧ c.slotInUse j = true; let crc := op = 2 ∧ crc32c (c.flBuf.take 4092) ≠ natLE (c.flBuf.drop 4092); v.toNat / 2 ^ 31 = 1 ∧ c.get IMG_FL_STATUS_BUSY = 0 ∧ op = 1 ∧ ¬ bad ∧ ¬ used ∧ ¬ crc) ∧
    (∃ (s : State) (v : Word), let c := s.chip; let op := v.toNat % 4; let j := v.toNat / 2 ^ 8 % 2; let b := c.get IMG_FL_ADDR_BLOCK; let bad := (op = 1 ∧ b % 16 ≠ 0) ∨ c.slotBlocks j ≤ b; v.toNat / 2 ^ 31 = 1 ∧ c.get IMG_FL_STATUS_BUSY = 0 ∧ op = 1 ∧ bad) ∧
    (∃ (s : State) (v : Word), let c := s.chip; let op := v.toNat % 4; let j := v.toNat / 2 ^ 8 % 2; let b := c.get IMG_FL_ADDR_BLOCK; let bad := (op = 1 ∧ b % 16 ≠ 0) ∨ c.slotBlocks j ≤ b; let used := op ≠ 0 ∧ c.slotInUse j = true; let crc := op = 2 ∧ crc32c (c.flBuf.take 4092) ≠ natLE (c.flBuf.drop 4092); v.toNat / 2 ^ 31 = 1 ∧ c.get IMG_FL_STATUS_BUSY = 0 ∧ op = 2 ∧ ¬ bad ∧ ¬ used ∧ ¬ crc) ∧
    (∃ (s : State) (v : Word), let c := s.chip; let op := v.toNat % 4; let crc := op = 2 ∧ crc32c (c.flBuf.take 4092) ≠ natLE (c.flBuf.drop 4092); v.toNat / 2 ^ 31 = 1 ∧ c.get IMG_FL_STATUS_BUSY = 0 ∧ op = 2 ∧ crc) ∧
    (∃ (s : State) (op : _) (j : _) (b : _), let c := s.chip; c.hasCaptain = true ∧ c.image.op = some (op, j, b) ∧ op < 3 ∧ j < 2 ∧ b < 2 ^ 16 ∧ c.flashHeld j = true) :=
  ⟨⟨mk ({ pk [] with started := false }), by dsimp only; decide +kernel⟩,
   ⟨mk (withBlock firstBlock (leased (pk [(IMG_STATUS_STATE, 1)]))), true, 1, by decide +kernel, by decide +kernel, rfl, le_of_eq_of_le (firstBlock_blocks _) (by decide), by decide +kernel, rfl, withBlock_crc _ _ (by decide +kernel) (by decide +kernel), lt_of_lt_of_eq (by decide : 0 + 1 < 2) (firstBlock_blocks _).symm⟩,
   ⟨mk (withBlock noBlock (leased (pk [(IMG_STATUS_STATE, 1)]))), true, 1, by decide +kernel, by decide +kernel, rfl, le_of_eq_of_le (no_blocks _) (by decide), by decide +kernel, rfl, withBlock_crc _ _ (by decide +kernel) (by decide +kernel), le_of_eq_of_le (no_blocks _) (by decide), Or.inl (no_key _ (by decide +kernel))⟩,
   ⟨mk (withImg (leased (pk [(IMG_STATUS_STATE, 1)]))), true, 1, by decide +kernel, by decide +kernel, rfl, le_of_eq_of_le (withImg_blocks _) (by decide), by decide +kernel, rfl, withImg_crc _, le_of_eq_of_le (withImg_blocks _) (by decide), withImg_key _ (by decide +kernel), withImg_signed _⟩,
   ⟨mk ({ pk [(IMG_STATUS_STATE, 1)] with fault := (leased (pk [])).fault, image := { slot := some 1, tries := 2, flash := len0 } }), false, 1, by dsimp only; decide +kernel⟩,
   ⟨mk ({ pk [(IMG_STATUS_STATE, 1)] with fault := (leased (pk [])).fault, image := { slot := some 1, tries := 3, flash := len0 } }), false, 1, by dsimp only; decide +kernel⟩,
   ⟨mk (pk []), 0x80000000#32, by dsimp only; decide +kernel⟩,
   ⟨mk (pk [(IMG_FL_ADDR_BLOCK, 16)]), 0x80000001#32, by dsimp only; decide +kernel⟩,
   ⟨mk (pk [(IMG_FL_ADDR_BLOCK, 15)]), 0x80000001#32, by dsimp only; decide +kernel⟩,
   ⟨mk ((pk []).setReg (IMG_FL_BUF 1023) 0xa732586e#32), 0x80000002#32, by dsimp only; decide +kernel⟩,
   ⟨mk (pk []), 0x80000102#32, by dsimp only; decide +kernel⟩,
   ⟨mk ({ leased (pk []) with image := { op := some (2, 1, 65535) } }), 2, 1, 65535, by dsimp only; decide +kernel⟩⟩

theorem met_Snapshots :
    (∃ (s : State), let c := s.chip; c.started = true ∧ c.snap.at_ = none ∧ c.get RET_CFG_EN = 1) ∧
    (∃ (s : State) (v : Word), let c := s.chip; c.started = true ∧ c.snap.at_ = none ∧ v.toNat % 4 = 1) ∧
    (∃ (s : State) (v : Word), let c := s.chip; c.started = true ∧ c.snap.at_ = none ∧ v.toNat / 2 ^ 31 = 1) ∧
    (∃ (s : State) (v : Word), let c := s.chip; c.started = false ∧ v.toNat / 2 ^ 31 = 1) ∧
    (∃ (s : State) (n : _) (q : _), let c := s.chip; c.snap.at_ = some (n, q) ∧ n = c.tick + 1) ∧
    (∃ (s : State) (d : Fin 8) (x : _), let c := s.chip; (c.ret d).writing = some x ∧ c.image.restart = false) ∧
    (∃ (s : State) (d : Fin 8) (x : _), let c := s.chip; (c.ret d).writing = some x ∧ c.image.restart = false) ∧
    (∃ (v : Word), v.toNat % 4 = 2) ∧
    (∃ (s : State), let c := s.chip; c.resetLow = false) :=
  ⟨⟨mk (pk [(RET_CFG_EN, 1)]), by dsimp only; decide +kernel⟩,
   ⟨mk (pk []), 1#32, by dsimp only; decide +kernel⟩,
   ⟨mk (pk []), 0x80000000#32, by dsimp only; decide +kernel⟩,
   ⟨mk ({ pk [] with started := false }), 0x80000000#32, by dsimp only; decide +kernel⟩,
   ⟨mk ({ pk [] with snap := { at_ := some (4001, 7), seq := 7 } }), 4001, 7, by dsimp only; decide +kernel⟩,
   ⟨mk ((pk []).setRet 1 { writing := some {} }), 1, {}, by dsimp only; decide +kernel⟩,
   ⟨mk ((pk []).setRet 1 { writing := some {}, forgotten := true, last := 63 }), 1, {}, by dsimp only; decide +kernel⟩,
   ⟨2#32, by decide +kernel⟩,
   ⟨mk (pk []), by dsimp only; decide +kernel⟩⟩

theorem met_EntryAndRestore :
    (∃ (s : State), let c := s.chip; c.resetLow = false ∧ c.hasCaptain = true ∧ c.get IMG_STATUS_STATE = imgLoaded ∧ c.started = false ∧ c.inService c.captain = true ∧ c.dieCount ≤ 8 ∧ (∀ e : Fin 8, e.val < c.dieCount → (c.get (DIE_STATUS_SERVICE e) = svcIn ∧ c.syn e = synLocked) ∨ c.get (DIE_STATUS_SERVICE e) ∈ [svcSidelined, svcRejected, svcAbsent])) ∧
    (∃ (s : State), let c := s.chip; c.started = true ∧ c.image.restored = false) ∧
    (∃ (s : State) (d : Fin 8) (p : Fin 8) (sl : Fin 2048) (e : _), let c := s.chip; let key := entKey d sl (c.get (CH_STATE_TARGET d sl)); c.inService d = true ∧ (c.port d p).firstA = some (c.tick + 1) ∧ sl.val / 256 = p.val ∧ c.get (CH_CTRL_EN d sl) = 1 ∧ (c.slot d sl).active = false ∧ c.isPoison key = false ∧ secded (c.libRaw key) = some (e, false)) ∧
    (∃ (s : State) (d : Fin 8) (p' : Fin 16), let c := s.chip; let st := c.get (ELINK_STATUS_STATE d p'); c.started = true ∧ c.inService d = true ∧ (st = elSync ∨ st = elCaps) ∧ (c.port d p').lateStart = false ∧ c.faultLog.length < 512) ∧
    (∃ (s : State) (d : Fin 8) (p' : Fin 16), let c := s.chip; let st := c.get (ELINK_STATUS_STATE d p'); c.started = true ∧ c.inService d = true ∧ (st = elSync ∨ st = elCaps) ∧ (c.port d p').lateStart = false ∧ c.faultLog.length < 512) ∧
    (∃ (s : State) (d : Fin 8) (p' : Fin 16), let c := s.chip; let st := c.get (ELINK_STATUS_STATE d p'); c.started = true ∧ c.inService d = true ∧ (st = elActive ∨ st = elWarm ∨ st = elFailed ∨ st = elOff ∨ (c.port d p').lateStart = true)) ∧
    (∃ (s : State) (d : Fin 8) (p' : Fin 16), let c := s.chip; let st := c.get (ELINK_STATUS_STATE d p'); c.started = true ∧ c.inService d = true ∧ (st = elActive ∨ st = elWarm ∨ st = elFailed ∨ st = elOff ∨ (c.port d p').lateStart = true)) :=
  ⟨⟨mk ({ pk [(IMG_STATUS_STATE, imgLoaded), (SYN_STATUS_STATE 0, 3), (SYN_STATUS_STATE 1, 3)] with started := false }), by dsimp only; decide +kernel⟩,
   ⟨mk ({ pk [] with image := { restored := false } }), by dsimp only; decide +kernel⟩,
   ⟨mk (({ pk [(CH_CTRL_EN 1 3, 1), (CH_STATE_TARGET 1 3, 1)] with lib := [] }.modPort 1 0 (fun r => { r with firstA := some 4001 }))), 1, 0, 3, 0, by dsimp only; decide +kernel⟩,
   ⟨mk (pk [(ELINK_STATUS_STATE 1 3, elSync)]), 1, 3, by dsimp only; decide +kernel⟩,
   ⟨mk (pk [(ELINK_STATUS_STATE 1 3, elCaps)]), 1, 3, by dsimp only; decide +kernel⟩,
   ⟨mk (pk [(ELINK_STATUS_STATE 1 3, elActive)]), 1, 3, by dsimp only; decide +kernel⟩,
   ⟨mk ((pk [(ELINK_STATUS_STATE 1 3, elSync)]).modPort 1 3 (fun r => { r with lateStart := true })), 1, 3, by dsimp only; decide +kernel⟩⟩

theorem met_HostLinksAndResets :
    (∃ (s : State) (p : Fin 2), let c := s.chip; c.portAvail p = true ∧ c.get (HOST_STATUS_LINK p) = 0) ∧
    (∃ (s : State), let c := s.chip; c.resetLow = false) ∧
    (∃ (s : State), let c := s.chip; c.resetLow = true) ∧
    (∃ (s : State) (p : Fin 2), let c := s.chip; c.get (HOST_STATUS_LINK p) = 1) ∧
    (∃ (s : State) (p : Fin 2), let c := s.chip; let h := c.host p; c.portAvail p = true ∧ c.get (HOST_STATUS_LINK p) = 1 ∧ h.flr = false) ∧
    (∃ (s : State) (p : Fin 2), let c := s.chip; let h := c.host p; c.portAvail p = true ∧ c.get (HOST_STATUS_LINK p) = 1 ∧ h.flr = false) ∧
    (∃ (s : State) (p : Fin 2), let c := s.chip; let h := c.host p; c.portAvail p = true ∧ c.get (HOST_STATUS_LINK p) = 1 ∧ h.flr = false) ∧
    (∃ (s : State) (p : Fin 2), let c := s.chip; let h := c.host p; h.flr = true) :=
  ⟨⟨mk (pk [(HOST_STATUS_LINK 1, 0)]), 1, by dsimp only; decide +kernel⟩,
   ⟨mk (pk []), by dsimp only; decide +kernel⟩,
   ⟨mk ({ pk [] with resetLow := true }), by dsimp only; decide +kernel⟩,
   ⟨mk (pk []), 1, by dsimp only; decide +kernel⟩,
   ⟨mk (pk []), 1, by dsimp only; decide +kernel⟩,
   ⟨mk (pk []), 1, by dsimp only; decide +kernel⟩,
   ⟨mk ((pk []).modHost 1 (fun r => { r with d3 := true })), 1, by dsimp only; decide +kernel⟩,
   ⟨mk ((pk []).modHost 1 (fun r => { r with flr := true })), 1, by dsimp only; decide +kernel⟩⟩

theorem met_MessagesAndConfiguration :
    (∃ (s : State) (k : Fin 64), let c := s.chip; c.due.contains k = true) ∧
    (∃ (s : State) (k : Fin 64), let c := s.chip; c.due.contains k = true) ∧
    (∃ (s : State) (p : Fin 2) (k : Fin 64), let c := s.chip; let h := c.host p; let may : Prop := c.get (HOST_STATUS_LINK p) = 1 ∧ h.flr = false ∧ c.get (HOST_STATUS_BME p) = 1 ∧ c.get (HOST_STATUS_MSIX_EN p) = 1 ∧ c.get (HOST_STATUS_FN_MASK p) = 0 ∧ h.d3 = false ∧ (c.msixWord p (4 * k.val + 3)).toNat % 2 = 0; h.pba.contains k = true ∧ c.portAvail p = true ∧ may) ∧
    (∃ (s : State) (p : Fin 2) (k : Fin 64), let c := s.chip; let h := c.host p; let may : Prop := c.get (HOST_STATUS_LINK p) = 1 ∧ h.flr = false ∧ c.get (HOST_STATUS_BME p) = 1 ∧ c.get (HOST_STATUS_MSIX_EN p) = 1 ∧ c.get (HOST_STATUS_FN_MASK p) = 0 ∧ h.d3 = false ∧ (c.msixWord p (4 * k.val + 3)).toNat % 2 = 0; h.pba.contains k = true ∧ c.portAvail p = true ∧ ¬ may) ∧
    (∃ (s : State) (p : Fin 2), let c := s.chip; let h := c.host p; c.portAvail p = true ∧ c.get (HOST_STATUS_LINK p) = 1 ∧ h.flr = false) ∧
    (∃ (s : State) (p : Fin 2), let c := s.chip; let h := c.host p; c.portAvail p = true ∧ c.get (HOST_STATUS_LINK p) = 1 ∧ h.flr = false ∧ h.cmd &&& 0x142 = h.cmd) ∧
    (∃ (s : State) (p : Fin 2), let c := s.chip; let h := c.host p; c.portAvail p = true ∧ c.get (HOST_STATUS_LINK p) = 1 ∧ h.flr = false) ∧
    (∃ (s : State) (p : Fin 2) (b : Fin 6) (w : _), let c := s.chip; let h := c.host p; c.portAvail p = true ∧ c.get (HOST_STATUS_LINK p) = 1 ∧ h.flr = false ∧ h.bars = [(b.val, w)] ∧ w.toNat % 16 = 0) ∧
    (∃ (s : State) (p : Fin 2), let c := s.chip; let h := c.host p; c.portAvail p = true ∧ c.get (HOST_STATUS_LINK p) = 1 ∧ h.flr = false ∧ h.aer < 2 ^ 32) ∧
    (∃ (s : State) (p : Fin 2) (r : CfgReg), let c := s.chip; let h := c.host p; c.portAvail p = true ∧ c.get (HOST_STATUS_LINK p) = 1 ∧ h.flr = false ∧ r ∈ [.cacheLine, .interruptLine, .deviceControl, .aerMask, .aerSeverity, .aerCorrStatus, .aerCorrMask, .laneErrors]) ∧
    (∃ (s : State) (p : Fin 2) (r : CfgReg), let c := s.chip; let h := c.host p; c.portAvail p = true ∧ c.get (HOST_STATUS_LINK p) = 1 ∧ h.flr = false ∧ r ∈ [.linkControl, .linkControl2]) ∧
    (∃ (s : State) (p : Fin 2) (v : Word), let c := s.chip; let h := c.host p; let x := v.toNat; c.portAvail p = true ∧ c.get (HOST_STATUS_LINK p) = 1 ∧ h.flr = false ∧ x % 4 = 3) ∧
    (∃ (s : State) (p : Fin 2) (v : Word), let c := s.chip; let h := c.host p; let x := v.toNat; c.portAvail p = true ∧ c.get (HOST_STATUS_LINK p) = 1 ∧ h.flr = false ∧ x % 4 = 0) ∧
    (∃ (s : State) (p : Fin 2) (v : Word) (r : CfgReg), let c := s.chip; let h := c.host p; let x := v.toNat; c.portAvail p = true ∧ c.get (HOST_STATUS_LINK p) = 1 ∧ h.flr = false ∧ ((cfgRule r).rw ≠ 0 ∨ (cfgRule r).w1c ≠ 0) ∧ (r ≠ .deviceControl ∨ maskBit x 15 = false)) ∧
    (∃ (s : State) (p : Fin 2) (v : Word) (r : CfgReg), let c := s.chip; let h := c.host p; let x := v.toNat; c.portAvail p = true ∧ c.get (HOST_STATUS_LINK p) = 1 ∧ h.flr = false ∧ ((cfgRule r).rw ≠ 0 ∨ (cfgRule r).w1c ≠ 0) ∧ (r ≠ .deviceControl ∨ maskBit x 15 = false)) :=
  ⟨⟨mk ({ pk [(HOST_STATUS_MSIX_EN 0, 1), (HOST_STATUS_BME 0, 1)] with due := [63] }), 63, by dsimp only; decide +kernel⟩,
   ⟨mk ({ pk [] with due := [0] }), 0, by dsimp only; decide +kernel⟩,
   ⟨mk ((pk [(HOST_STATUS_MSIX_EN 0, 1), (HOST_STATUS_BME 0, 1)]).modHost 0 (fun r => { r with pba := [63], low := [(8, some 5)], msix := [(4 * 63 + 3, 0)] })), 0, 63, by dsimp only; decide +kernel⟩,
   ⟨mk ((pk [(HOST_STATUS_MSIX_EN 0, 1)]).modHost 0 (fun r => { r with pba := [63] })), 0, 63, by dsimp only; decide +kernel⟩,
   ⟨mk (pk []), 1, by dsimp only; decide +kernel⟩,
   ⟨mk (pk []), 1, by dsimp only; decide +kernel⟩,
   ⟨mk (pk []), 1, by dsimp only; decide +kernel⟩,
   ⟨mk ((pk []).modHost 0 (fun r => { r with bars := [(5, 0x10#32)] })), 0, 5, 0x10#32, by dsimp only; decide +kernel⟩,
   ⟨mk ((pk []).modHost 0 (fun r => { r with aer := 2 ^ 32 - 1 })), 0, by dsimp only; decide +kernel⟩,
   ⟨mk (pk []), 1, .laneErrors, by dsimp only; decide +kernel⟩,
   ⟨mk (pk []), 1, .linkControl2, by dsimp only; decide +kernel⟩,
   ⟨mk (pk []), 1, 0xFFFFFFFF#32, by dsimp only; decide +kernel⟩,
   ⟨mk (pk []), 1, 0xFFFFFFFC#32, by dsimp only; decide +kernel⟩,
   ⟨mk (pk []), 1, 0xFFFF7FFF#32, .deviceControl, by dsimp only; decide +kernel⟩,
   ⟨mk (pk []), 1, 0xFFFFFFFF#32, .laneErrors, by dsimp only; decide +kernel⟩⟩

theorem met_FabricAndLeases :
    (∃ (r : FlitRx), crc16 (flitBytes r.flit) = r.flit.crc.toNat) ∧
    (∃ (s : State) (h : Fin 8) (r : FlitRx), let c := s.chip; let f := c.fault; let h := r.hop; let ring := 2 * h.val + (if r.up then 1 else 0); let n := c.replayed ring r.next.toNat; crc16 (flitBytes r.flit) ≠ r.flit.crc.toNat ∧ h.val < c.dieCount ∧ maskBit f.hopFail h = false ∧ n < c.get FAB_CFG_RETRY_MAX) ∧
    (∃ (s : State) (h : Fin 8) (r : FlitRx), let c := s.chip; let f := c.fault; let h := r.hop; let ring := 2 * h.val + (if r.up then 1 else 0); let n := c.replayed ring r.next.toNat; crc16 (flitBytes r.flit) ≠ r.flit.crc.toNat ∧ h.val < c.dieCount ∧ maskBit f.hopFail h = false ∧ c.get FAB_CFG_RETRY_MAX ≤ n ∧ f.hopFail < 2 ^ 8) ∧
    (∃ (s : State) (h : Fin 8), let c := s.chip; let f := c.fault; h.val < c.dieCount ∧ maskBit f.hopFail h = false ∧ f.hopFail < 2 ^ 8 ∧ c.live c.captain = true) ∧
    (∃ (s : State) (h : Fin 8) (d : Fin 8), let c := s.chip; let f := c.fault; let cut : Chip := { c with fault := { f with hopFail := maskSet f.hopFail h } }; let part := cut.partFrom c.captain; h.val < c.dieCount ∧ maskBit f.hopFail h = false ∧ f.hopFail < 2 ^ 8 ∧ c.live c.captain = true ∧ cut.quorum = true ∧ d.val ∈ cut.voters ∧ maskBit part d = false ∧ c.open d = true) ∧
    (∃ (s : State) (h : Fin 8) (d : Fin 8), let c := s.chip; let f := c.fault; let cut : Chip := { c with fault := { f with hopFail := maskSet f.hopFail h } }; h.val < c.dieCount ∧ maskBit f.hopFail h = false ∧ f.hopFail < 2 ^ 8 ∧ c.live c.captain = true ∧ cut.quorum = false ∧ c.open c.captain = true ∧ d.val ∈ cut.voters ∧ maskBit cut.vicePart d = false) ∧
    (∃ (s : State) (h : Fin 8) (d : Fin 8), let c := s.chip; let f := c.fault; let cut : Chip := { c with fault := { f with hopFail := maskSet f.hopFail h } }; h.val < c.dieCount ∧ maskBit f.hopFail h = false ∧ f.hopFail < 2 ^ 8 ∧ c.live c.captain = true ∧ cut.quorum = false ∧ c.open c.captain = true ∧ maskBit cut.vicePart d = true) ∧
    (∃ (s : State) (h : Fin 8) (d : Fin 8), let c := s.chip; let f := c.fault; let cut : Chip := { c with fault := { f with hopFail := maskSet f.hopFail h } }; let part := cut.partFrom c.captain; h.val < c.dieCount ∧ maskBit f.hopFail h = false ∧ f.hopFail < 2 ^ 8 ∧ c.live c.captain = true ∧ ((∀ e ∈ c.dieList, cut.live e = true → maskBit part e = true) ∧ cut.quorum = true ∧ maskBit part d = true)) ∧
    (∃ (s : State) (h : Fin 8) (errors : Nat), let c := s.chip; let f := c.fault; h.val < c.dieCount ∧ maskBit f.hopFail h = true ∧ errors = 0 ∧ c.get FAB_CFG_AUTO_UNWRAP = 1) ∧
    (∃ (s : State) (h : Fin 8) (errors : Nat), let c := s.chip; let f := c.fault; h.val < c.dieCount ∧ maskBit f.hopFail h = true ∧ (errors ≠ 0 ∨ c.get FAB_CFG_AUTO_UNWRAP = 0)) ∧
    (∃ (s : State) (h : Fin 8) (errors : Nat), let c := s.chip; let f := c.fault; h.val < c.dieCount ∧ maskBit f.hopFail h = true ∧ (errors ≠ 0 ∨ c.get FAB_CFG_AUTO_UNWRAP = 0)) ∧
    (∃ (s : State) (k : Fin 6), let c := s.chip; let f := c.fault; let l := f.leases.getD k {}; l.held = true ∧ c.arbiter k = true) ∧
    (∃ (s : State) (k : Fin 6) (t : Nat), let c := s.chip; let f := c.fault; let l := f.leases.getD k {}; let up := c.upTicks * c.tickNs + t; l.held = true ∧ c.arbiter k = true ∧ l.renewed + 45000 ≤ up) ∧
    (∃ (s : State) (k : Fin 6) (t : Nat), let c := s.chip; let f := c.fault; let l := f.leases.getD k {}; let up := c.upTicks * c.tickNs + t; l.held = true ∧ c.arbiter k = true ∧ up < l.renewed + 45000) ∧
    (∃ (s : State) (k : Fin 6), let c := s.chip; let f := c.fault; let l := f.leases.getD k {}; l.held = true ∧ c.arbiter k = false) ∧
    (∃ (s : State) (k : Fin 6), let c := s.chip; let f := c.fault; let l := f.leases.getD k {}; l.held = true ∧ c.arbiter k = false) ∧
    (∃ (s : State) (k : Fin 6), let c := s.chip; let f := c.fault; let l := f.leases.getD k {}; l.held = true ∧ c.arbiter k = false ∧ c.isLost l.holder = false ∧ c.service l.holder ≠ svcSidelined) ∧
    (∃ (s : State) (k : Fin 6) (t : Nat), let c := s.chip; let f := c.fault; let l := f.leases.getD k {}; let up := c.upTicks * c.tickNs + t; l.held = true ∧ c.arbiter k = true ∧ l.renewed + 50000 ≤ up ∧ c.hasVice = false) ∧
    (∃ (s : State) (k : Fin 6) (t : Nat), let c := s.chip; let f := c.fault; let l := f.leases.getD k {}; let up := c.upTicks * c.tickNs + t; l.held = true ∧ c.arbiter k = true ∧ l.renewed + 50000 ≤ up ∧ (c.started = true ∧ c.hasVice = true ∧ c.inService c.vice = true ∧ c.vice < c.dieCount ∧ (∀ j ∈ captainLeases, j ≠ k.val → (f.leases.getD j {}).held = false) ∧ k.val ∈ captainLeases ∧ c.voters.length < 2 * c.votes (c.partFrom c.vice))) ∧
    (∃ (s : State) (k : Fin 6) (t : Nat), let c := s.chip; let f := c.fault; let l := f.leases.getD k {}; let up := c.upTicks * c.tickNs + t; l.held = true ∧ c.arbiter k = true ∧ l.renewed + 50000 ≤ up ∧ c.holdsSession 1 = false) ∧
    (∃ (s : State) (k : Fin 6) (t : Nat), let c := s.chip; let f := c.fault; let l := f.leases.getD k {}; let up := c.upTicks * c.tickNs + t; l.held = true ∧ c.arbiter k = true ∧ l.renewed + 50000 ≤ up ∧ c.started = false ∧ c.get IMG_STATUS_STATE < imgLoaded ∧ c.image.slot = some (k.val - 3) ∧ 3 ≤ k.val ∧ k.val < 5 ∧ c.hasVice = true ∧ c.open c.vice = true ∧ c.voters.length < 2 * c.votes (c.partFrom c.vice)) ∧
    (∃ (s : State) (k : Fin 6), let c := s.chip; let f := c.fault; let l := f.leases.getD k {}; l.held = false ∧ c.arbiter k = true ∧ 3 ≤ k.val ∧ k.val < 5 ∧ c.flashUse (k.val - 3) = true) ∧
    (∃ (s : State) (e : _) (a : _) (op : _), let c := s.chip; let f := c.fault; f.sideAt = some (e, a, op) ∧ e = c.captain ∧ a ≤ c.tick + 1 ∧ c.hasVice = true ∧ c.inService c.vice = true) ∧
    (∃ (s : State) (d : Fin 8), let c := s.chip; c.get PKG_ROLE_NEG_DONE = 1 ∧ (c.live d = true ∨ (d.val < c.dieCount ∧ (c.die d).inReset = true ∧ c.isLost d = false)) ∧ c.open d = true) ∧
    (∃ (s : State) (d : Fin 8), let c := s.chip; c.get PKG_ROLE_NEG_DONE = 1 ∧ (c.live d = true ∨ (d.val < c.dieCount ∧ (c.die d).inReset = true ∧ c.isLost d = false)) ∧ c.open d = true) :=
  ⟨⟨⟨7, true, 0, ⟨0, 0, 0, [], BitVec.ofNat 16 (crc16 (List.replicate 30 0))⟩⟩, by decide +kernel⟩,
   ⟨mk (pk [(FAB_CFG_RETRY_MAX, 1)]), 0, ⟨1, true, 0, ⟨0, 0, 0, [], 1⟩⟩, by dsimp only; decide +kernel⟩,
   ⟨mk ({ pk [(FAB_CFG_RETRY_MAX, 1)] with fault := { replays := [(3, some (0, 1))] } }), 0, ⟨1, true, 0, ⟨0, 0, 0, [], 1⟩⟩, by dsimp only; decide +kernel⟩,
   ⟨mk (pk []), 1, by dsimp only; decide +kernel⟩,
   ⟨mk ({ base 4 with fault := { hopFail := 1 } }), 1, 1, by dsimp only; decide +kernel⟩,
   ⟨mk ((({ base 4 with fault := { hopFail := 1 } }).set PKG_ROLE_CAPTAIN 1)), 1, 1, by dsimp only; decide +kernel⟩,
   ⟨mk ((({ base 4 with fault := { hopFail := 1 } }).set PKG_ROLE_CAPTAIN 1).set PKG_ROLE_VICE 0), 1, 2, by dsimp only; decide +kernel⟩,
   ⟨mk (base 4), 1, 1, by dsimp only; decide +kernel⟩,
   ⟨mk ({ pk [(FAB_CFG_AUTO_UNWRAP, 1)] with fault := { hopFail := 2 } }), 1, 0, by dsimp only; decide +kernel⟩,
   ⟨mk ({ pk [(FAB_CFG_AUTO_UNWRAP, 1)] with fault := { hopFail := 2 } }), 1, 1, by dsimp only; decide +kernel⟩,
   ⟨mk ({ pk [(FAB_CFG_AUTO_UNWRAP, 0)] with fault := { hopFail := 2 } }), 1, 0, by dsimp only; decide +kernel⟩,
   ⟨mk ({ pk [] with fault := { leases := [{}, {}, {}, {}, { held := true, holder := 0, renewed := 1 }, {}] } }), 4, by dsimp only; decide +kernel⟩,
   ⟨mk ({ pk [] with fault := { leases := [{}, {}, {}, {}, { held := true, renewed := 5000 * (pk []).tickNs - 45000 }, {}] } }), 4, 0, by dsimp only; decide +kernel⟩,
   ⟨mk ({ pk [] with fault := { leases := [{}, {}, {}, {}, { held := true, renewed := 5000 * (pk []).tickNs - 44999 }, {}] } }), 4, 0, by dsimp only; decide +kernel⟩,
   ⟨mk ({ pk [(PKG_ROLE_VICE_VALID, 0)] with fault := { leases := [{ held := true }, {}, {}, {}, {}, {}] } }), 0, by dsimp only; decide +kernel⟩,
   ⟨mk ({ pk [(PKG_ROLE_VICE_VALID, 0)] with fault := { leases := [{}, {}, {}, {}, {}, { held := true, renewed := 5000000 }] } }), 5, by dsimp only; decide +kernel⟩,
   ⟨mk ({ pk [(PKG_ROLE_VICE_VALID, 0)] with fault := { leases := [{}, {}, { held := true }, {}, {}, {}] } }), 2, by dsimp only; decide +kernel⟩,
   ⟨mk ({ pk [(PKG_ROLE_VICE_VALID, 0)] with fault := { leases := [{}, {}, {}, {}, { held := true, renewed := 5000 * (pk []).tickNs - 50000 }, {}] } }), 4, 0, by dsimp only; decide +kernel⟩,
   ⟨mk ({ base 4 with fault := { hopFail := 9, leases := [{ held := true }, {}, {}, {}, {}, {}] } }), 0, 0, by dsimp only; decide +kernel⟩,
   ⟨mk ({ pk [] with sec := { sess := some (0, 0, true, []) }, fault := { leases := [{}, {}, {}, {}, {}, { held := true }] } }), 5, 0, by dsimp only; decide +kernel⟩,
   ⟨mk ({ (base 4).set IMG_STATUS_STATE 0 with started := false, image := { slot := some 1 }, fault := { hopFail := 9, leases := [{}, {}, {}, {}, { held := true }, {}] } }), 4, 0, by dsimp only; decide +kernel⟩,
   ⟨mk ({ pk [] with image := { op := some (0, 1, 0) } }), 4, by dsimp only; decide +kernel⟩,
   ⟨mk ({ pk [] with fault := { sideAt := some (0, 4001, 0) } }), 0, 4001, 0, by dsimp only; decide +kernel⟩,
   ⟨mk (pk []), 1, by dsimp only; decide +kernel⟩,
   ⟨mk ((pk []).modDie 1 (fun r => { r with inReset := true })), 1, by dsimp only; decide +kernel⟩⟩

theorem met_SidelineAndCover :
    (∃ (s : State) (d : Fin 8), let c := s.chip; let f := c.fault; d.val < c.dieCount ∧ d.val ≠ c.captain ∧ (c.die d).sidelineDue = true ∧ f.sideAt = none) ∧
    (∃ (s : State) (d : Fin 8), let c := s.chip; let f := c.fault; d.val < c.dieCount ∧ d.val ≠ c.captain ∧ (c.die d).sidelineDue = true ∧ f.sideAt = none ∧ c.coverEfes d ≠ [] ∧ f.order = none ∧ f.coverAt = none ∧ f.covered = none) ∧
    (∃ (s : State) (d : Fin 8) (x : _) (a : _) (op : _), let c := s.chip; let f := c.fault; d.val < c.dieCount ∧ d.val ≠ c.captain ∧ (c.die d).sidelineDue = false ∧ f.sideAt = some (x, a, op) ∧ x = d.val ∧ a ≤ c.tick + 1) ∧
    (∃ (s : State) (d : Fin 8), let c := s.chip; let f := c.fault; d.val = c.captain ∧ c.captain < c.dieCount ∧ (c.die d).sidelineDue = true ∧ f.sideAt = none) ∧
    (∃ (s : State) (d : Fin 8), let c := s.chip; let f := c.fault; d.val = c.captain ∧ c.captain < c.dieCount ∧ (c.die d).sidelineDue = true ∧ f.sideAt = none ∧ c.hasVice = true ∧ c.vice ≠ d.val ∧ c.open c.vice = true ∧ c.isLost d = false ∧ c.voters.length < 2 * c.votes (c.partFrom c.vice)) ∧
    (∃ (s : State) (x : _), let c := s.chip; let f := c.fault; f.order = some x) ∧
    (∃ (s : State) (e : Fin 8) (h : _) (a : _), let c := s.chip; let f := c.fault; let b := backupDie c.dieCount h e; f.coverAt = some (h, a) ∧ a ≤ c.tick + 1 ∧ h < c.dieCount ∧ c.dieCount ≤ 8 ∧ c.sideDue h = none ∧ c.benchPlan b h = [(0, e.val)] ∧ c.inService b = true ∧ b ≠ h) ∧
    (∃ (s : State) (e : Fin 8) (q : Fin 256) (h : _) (a : _), let c := s.chip; let f := c.fault; f.coverAt = some (h, a) ∧ a ≤ c.tick + 1 ∧ h < c.dieCount ∧ c.dieCount ≤ 8 ∧ c.sideDue h = none ∧ c.get (CH_CTRL_EN h (e.val * 256 + q.val)) = 1 ∧ (tabGet (fun _ => none) c.loopRecs (h * 2048 + e.val * 256 + q.val)).isSome = true ∧ (tabGet (fun _ => none) c.standbyRecs (h * 2048 + e.val * 256 + q.val)).isSome = true) ∧
    (∃ (s : State) (e : Fin 8) (q : Fin 256) (h : _) (a : _), let c := s.chip; let f := c.fault; let b := backupDie c.dieCount h e; f.coverAt = some (h, a) ∧ a ≤ c.tick + 1 ∧ h < c.dieCount ∧ c.dieCount ≤ 8 ∧ c.sideDue h = none ∧ (1, e.val) ∈ c.benchPlan b h ∧ (c.benchPlan b h).length ≤ 2 ∧ c.inService b = true ∧ b ≠ h ∧ c.get (CH_CTRL_EN h (e.val * 256 + q.val)) = 1 ∧ (tabGet (fun _ => none) c.loopRecs (h * 2048 + e.val * 256 + q.val)).isSome = true ∧ (tabGet (fun _ => none) c.standbyRecs (h * 2048 + e.val * 256 + q.val)).isSome = true) :=
  ⟨⟨mk ((pk []).modDie 1 (fun r => { r with sidelineDue := true })), 1, by dsimp only; decide +kernel⟩,
   ⟨mk (({ pk [] with protMask := 2 ^ 8 }).modDie 1 (fun r => { r with sidelineDue := true })), 1, by dsimp only; decide +kernel⟩,
   ⟨mk ({ pk [] with fault := { sideAt := some (1, 4001, 0) } }), 1, 1, 4001, 0, by dsimp only; decide +kernel⟩,
   ⟨mk ({ pk [] with fault := { }, dies := ((pk []).modDie 0 (fun r => { r with sidelineDue := true })).dies }), 0, by dsimp only; decide +kernel⟩,
   ⟨mk ((base 4).modDie 0 (fun r => { r with sidelineDue := true })), 0, by dsimp only; decide +kernel⟩,
   ⟨mk ({ pk [] with fault := { order := some 1 } }), 1, by dsimp only; decide +kernel⟩,
   ⟨mk ({ pk [] with fault := { coverAt := some (0, 4001) }, protMask := 1 }), 0, 0, 4001, by dsimp only; decide +kernel⟩,
   ⟨mk ({ pk [(CH_CTRL_EN 0 3, 1)] with fault := { coverAt := some (0, 4001) }, protMask := 1, loopRecs := [(3, some { st := 2, holdFrom := 0, integ := -1, corr := 0, run := 0, faultRun := 0, kickAt := 0 })], standbyRecs := [(3, some { entry := 5, state := 2, start := 0, step := 0, profile := 0, kick := [], held := none })] }), 0, 3, 0, 4001, by dsimp only; decide +kernel⟩,
   ⟨mk ({ pk [(CH_CTRL_EN 0 259, 1)] with fault := { coverAt := some (0, 4001) }, protMask := 3, loopRecs := [(259, some { st := 2, holdFrom := 0, integ := -1, corr := 0, run := 0, faultRun := 0, kickAt := 0 })], standbyRecs := [(259, some { entry := 5, state := 2, start := 0, step := 0, profile := 0, kick := [], held := none })] }), 1, 3, 0, 4001, by dsimp only; decide +kernel⟩⟩

theorem met_DieOperations :
    (∃ (s : State) (v : Word), let c := s.chip; let x := v.toNat; let d := x % 8; let f := c.fault; let free := x / 2 ^ 31 = 1 ∧ c.get FAULT_DIE_STATUS_BUSY = 0; let others := ∃ i : Fin 8, i.val < c.dieCount ∧ i.val ≠ d ∧ c.get (DIE_STATUS_SERVICE i) = svcSidelined; free ∧ x / 2 ^ 24 % 4 = 0 ∧ c.inService d = true ∧ ¬ others ∧ f.updState ≠ updReloading ∧ f.updState ≠ updCommitting ∧ c.captain ≠ d) ∧
    (∃ (s : State) (v : Word), let c := s.chip; let x := v.toNat; let d := x % 8; let f := c.fault; let free := x / 2 ^ 31 = 1 ∧ c.get FAULT_DIE_STATUS_BUSY = 0; let unserved := ∃ i : Fin 8, c.get (ELINK_CTRL_EN d i) = 1 ∧ c.isProt d i = false; let others := ∃ i : Fin 8, i.val < c.dieCount ∧ i.val ≠ d ∧ c.get (DIE_STATUS_SERVICE i) = svcSidelined; free ∧ x / 2 ^ 24 % 4 = 0 ∧ c.inService d = true ∧ ¬ others ∧ f.updState ≠ updReloading ∧ f.updState ≠ updCommitting ∧ c.captain = d ∧ c.hasVice = true ∧ c.inService c.vice = true ∧ ¬ unserved) ∧
    (∃ (s : State) (v : Word), let c := s.chip; let x := v.toNat; let d := x % 8; let free := x / 2 ^ 31 = 1 ∧ c.get FAULT_DIE_STATUS_BUSY = 0; free ∧ x / 2 ^ 24 % 4 = 0 ∧ c.inService d = false) ∧
    (∃ (s : State) (v : Word), let c := s.chip; let x := v.toNat; let d := x % 8; let free := x / 2 ^ 31 = 1 ∧ c.get FAULT_DIE_STATUS_BUSY = 0; let others := ∃ i : Fin 8, i.val < c.dieCount ∧ i.val ≠ d ∧ c.get (DIE_STATUS_SERVICE i) = svcSidelined; free ∧ x / 2 ^ 24 % 4 = 0 ∧ c.inService d = true ∧ others) ∧
    (∃ (s : State) (v : Word), let c := s.chip; let x := v.toNat; let d := x % 8; let free := x / 2 ^ 31 = 1 ∧ c.get FAULT_DIE_STATUS_BUSY = 0; let others := ∃ i : Fin 8, i.val < c.dieCount ∧ i.val ≠ d ∧ c.get (DIE_STATUS_SERVICE i) = svcSidelined; free ∧ x / 2 ^ 24 % 4 = 2 ∧ c.inService d = true ∧ ¬ others ∧ c.captain ≠ d) ∧
    (∃ (s : State) (v : Word), let c := s.chip; let x := v.toNat; let d := x % 8; let free := x / 2 ^ 31 = 1 ∧ c.get FAULT_DIE_STATUS_BUSY = 0; free ∧ x / 2 ^ 24 % 4 = 2 ∧ c.inService d = false) ∧
    (∃ (s : State) (v : Word), let c := s.chip; let x := v.toNat; let d := x % 8; let free := x / 2 ^ 31 = 1 ∧ c.get FAULT_DIE_STATUS_BUSY = 0; free ∧ x / 2 ^ 24 % 4 = 1 ∧ d < c.dieCount ∧ c.get (DIE_STATUS_SERVICE d) = svcSidelined ∧ (c.rejoin d).on = false ∧ (c.die d).sidelineDue = false ∧ (c.die d).inReset = false) ∧
    (∃ (s : State) (v : Word), let c := s.chip; let x := v.toNat; let d := x % 8; let free := x / 2 ^ 31 = 1 ∧ c.get FAULT_DIE_STATUS_BUSY = 0; free ∧ x / 2 ^ 24 % 4 = 1 ∧ c.get (DIE_STATUS_SERVICE d) ≠ svcSidelined) ∧
    (∃ (s : State) (v : Word), let c := s.chip; let x := v.toNat; let d := x % 8; let free := x / 2 ^ 31 = 1 ∧ c.get FAULT_DIE_STATUS_BUSY = 0; free ∧ x / 2 ^ 24 % 4 = 1 ∧ c.get (DIE_STATUS_SERVICE d) ≠ svcSidelined) ∧
    (∃ (s : State) (e : Fin 8), let c := s.chip; e.val < c.dieCount ∧ c.get (DIE_STATUS_SERVICE e) = svcSidelined ∧ (c.rejoin e).on = false ∧ (c.die e).sidelineDue = false ∧ (c.die e).inReset = false ∧ c.mayRejoin e = true) ∧
    (∃ (s : State) (e : Fin 8), let c := s.chip; (c.rejoin e).on = true ∧ (c.rejoin e).byUpdate = false ∧ c.get (DIE_STATUS_SERVICE e) = svcSidelined ∧ c.get FAULT_DIE_STATUS_BUSY = 1 ∧ c.get FAULT_DIE_STATUS_DIE = e.val) ∧
    (∃ (s : State) (p : Fin 2), let c := s.chip; c.hostUp p = true ∧ c.memOn p = false) ∧
    (∃ (s : State) (p : Fin 2), let c := s.chip; c.hostUp p = true ∧ c.memOn p = true ∧ c.faultLog = []) ∧
    (∃ (s : State) (p : Fin 2), let c := s.chip; c.hostUp p = true ∧ c.memOn p = true ∧ c.faultLog.head?.isSome = true) ∧
    (∃ (s : State), let c := s.chip; let f := c.fault; c.boundaryE = true ∧ f.passedE = false ∧ (∀ i : Fin 8, i.val < c.dieCount → c.inService i = true) ∧ c.dieCount ≤ 8 ∧ c.get PKG_ROLE_NEG_DONE = 1 ∧ c.captain < c.dieCount ∧ c.quorum = true ∧ c.inService 0 = true) :=
  ⟨⟨mk (pk []), 0xC0000001#32, by dsimp only; decide +kernel⟩,
   ⟨mk ((List.range 8).foldl (fun c e => c.set (ELINK_CTRL_EN 0 e) 0) (pk [])), 0x80000000#32, by dsimp only; decide +kernel⟩,
   ⟨mk (pk []), 0x80000007#32, by dsimp only; decide +kernel⟩,
   ⟨mk ((pk []).setService 1 svcSidelined), 0x80000000#32, by dsimp only; decide +kernel⟩,
   ⟨mk (pk []), 0xC2000001#32, by dsimp only; decide +kernel⟩,
   ⟨mk ((pk []).setService 1 svcSidelined), 0x82000001#32, by dsimp only; decide +kernel⟩,
   ⟨mk ((pk []).setService 1 svcSidelined), 0x81000001#32, by dsimp only; decide +kernel⟩,
   ⟨mk (pk []), 0x81000001#32, by dsimp only; decide +kernel⟩,
   ⟨mk (pk []), 0x81000007#32, by dsimp only; decide +kernel⟩,
   ⟨mk ((pk [(FAULT_CFG_AUTO_REJOIN, 1), (FAULT_CFG_REJOIN_MAX, 3)]).setService 1 svcSidelined), 1, by dsimp only; decide +kernel⟩,
   ⟨mk (((pk [(FAULT_DIE_STATUS_BUSY, 1), (FAULT_DIE_STATUS_DIE, 1)]).setService 1 svcSidelined).modRejoin 1 (fun r => { r with on := true, starts := [1] })), 1, by dsimp only; decide +kernel⟩,
   ⟨mk ((pk []).modHost 1 (fun r => { r with cmd := 4 })), 1, by dsimp only; decide +kernel⟩,
   ⟨mk (pk []), 1, by dsimp only; decide +kernel⟩,
   ⟨mk ({ pk [] with faultLog := [(1, 2, 3)] }), 1, by dsimp only; decide +kernel⟩,
   ⟨mk ([0, 1].foldl (fun c d => (List.range 8).foldl (fun c e => c.set (ELINK_STATUS_STATE d e) elFailed) c) (pk [])), by dsimp only; decide +kernel⟩⟩

theorem met_RejoinAndReturn :
    (∃ (s : State) (d : Fin 8) (j : _), let c := s.chip; d.val < c.dieCount ∧ (c.rejoin d).on = false ∧ c.get IMG_STATUS_STATE = imgChecking ∧ c.image.slot = some j ∧ j < 2 ∧ c.layoutOk j = false) ∧
    (∃ (s : State) (d : Fin 8) (j : _), let c := s.chip; let done := maskSet c.image.checked d; d.val < c.dieCount ∧ (c.rejoin d).on = false ∧ c.get IMG_STATUS_STATE = imgChecking ∧ c.image.slot = some j ∧ j < 2 ∧ c.layoutOk j = true ∧ contentFault c.dieCount d c.captain (c.imgVals j) = none ∧ c.loadDies.all (fun k => maskBit done k) = false) ∧
    (∃ (s : State) (d : Fin 8) (j : _), let c := s.chip; let done := maskSet c.image.checked d; d.val < c.dieCount ∧ (c.rejoin d).on = false ∧ c.get IMG_STATUS_STATE = imgChecking ∧ c.image.slot = some j ∧ j < 2 ∧ c.layoutOk j = true ∧ contentFault c.dieCount d c.captain (c.imgVals j) = none ∧ c.loadDies.all (fun k => maskBit done k) = true) ∧
    (∃ (s : State) (d : Fin 8) (j : _) (y : _), let c := s.chip; d.val < c.dieCount ∧ (c.rejoin d).on = false ∧ c.get IMG_STATUS_STATE = imgChecking ∧ c.image.slot = some j ∧ j < 2 ∧ c.layoutOk j = true ∧ contentFault c.dieCount d c.captain (c.imgVals j) = some y ∧ y.1 ∈ [8, 9]) ∧
    (∃ (s : State) (d : Fin 8), let c := s.chip; let go := c.judged d = true ∧ c.hopsUp d = true ∧ c.leaseStopped (3 + c.bootSlot) = false; (c.rejoin d).on = true ∧ (c.rejoin d).loaded = false ∧ (c.rejoin d).byUpdate = false ∧ ¬ go) ∧
    (∃ (s : State) (d : Fin 8), let c := s.chip; let go := c.judged d = true ∧ c.hopsUp d = true ∧ c.leaseStopped (3 + c.bootSlot) = false; (c.rejoin d).on = true ∧ (c.rejoin d).loaded = false ∧ (c.rejoin d).byUpdate = false ∧ go ∧ c.rejoinCause d = 0) ∧
    (∃ (s : State) (d : Fin 8), let c := s.chip; let go := c.judged d = true ∧ c.hopsUp d = true ∧ c.leaseStopped (3 + c.bootSlot) = false; (c.rejoin d).on = true ∧ (c.rejoin d).loaded = false ∧ (c.rejoin d).byUpdate = false ∧ go ∧ c.rejoinCause d ≠ 0) ∧
    (∃ (s : State) (d : Fin 8) (i : Fin 1024), let c := s.chip; (c.rejoin d).on = true ∧ (c.rejoin d).loaded = true ∧ (c.rejoin d).ready = false ∧ c.get (SYN_STATUS_STATE d) = synLocked ∧ (∀ i : Fin 8, c.get (ELINK_CTRL_EN d i) = 1 → c.portUsable d i = true → c.elUp d i = true) ∧ (maskBit (c.get (CAL_STATUS_VALID d)) calSkew = true ∨ maskBit (c.get (CAL_CTRL_ITEM_EN d)) calSkew = false ∨ c.get (CAL_CTRL_EN d) = 0) ∧ (c.xoSidelined d = true → c.get (CLK_STATUS_XO_STABLE d) = 1)) ∧
    (∃ (s : State) (d : Fin 8) (x : _) (a : _), let c := s.chip; let f := c.fault; f.returnAt = some (x, a) ∧ x = d.val ∧ a ≤ c.tick + 1 ∧ d.val < c.dieCount ∧ c.dieCount ≤ 8) ∧
    (∃ (s : State) (d : Fin 8) (e : Fin 8) (b : Fin 8) (q : Fin 256) (x : _) (a : _), let c := s.chip; let f := c.fault; f.returnAt = some (x, a) ∧ x = d.val ∧ a ≤ c.tick + 1 ∧ d.val < c.dieCount ∧ c.dieCount ≤ 8 ∧ (b ≠ d ∧ c.inService b = true ∧ c.dirty = [] ∧ (∀ k : Fin 8, c.halvesFor k d = if k = b then [(0, e.val)] else []) ∧ c.get (ELINK_STATUS_STATE d e) = elWarm ∧ c.get (CH_CTRL_EN b (2048 + q.val)) = 1 ∧ (c.slot b (2048 + q.val)).active = true)) :=
  ⟨⟨mk (withBlock noBlock (pk [(IMG_STATUS_STATE, imgChecking)])), 0, 1, by decide +kernel, by decide +kernel, by decide +kernel, rfl, by decide, no_layout _⟩,
   ⟨mk (withImg (pk [(IMG_STATUS_STATE, imgChecking)])), 0, 1, by decide +kernel, by decide +kernel, by decide +kernel, rfl, by decide, withImg_layout _, withImg_content _ (by decide +kernel) (by decide +kernel), by decide +kernel⟩,
   ⟨mk (withImg ((pk [(IMG_STATUS_STATE, imgChecking)]).setService 1 svcRejected)), 0, 1, by decide +kernel, by decide +kernel, by decide +kernel, rfl, by decide, withImg_layout _, withImg_content _ (by decide +kernel) (by decide +kernel), by decide +kernel⟩,
   ⟨mk (withBlock badBlock (pk [(IMG_STATUS_STATE, imgChecking)])), 0, 1, (8, 0, 288), by decide +kernel, by decide +kernel, by decide +kernel, rfl, by decide, withBad_layout _, withBad_content _ (by decide +kernel) (by decide +kernel), by decide⟩,
   ⟨mk ((((pk [(CLK_STATUS_JUDGE 1, judgeCounting)]).setService 1 svcSidelined).modRejoin 1 (fun r => { r with on := true }))), 1, by dsimp only; decide +kernel⟩,
   ⟨mk (withBlock noBlock (((pk [(IMG_STATUS_BOOT_SLOT, 1), (CLK_STATUS_JUDGE 1, judgeTimeout)]).setService 1 svcSidelined).modRejoin 1 (fun r => { r with on := true }))), 1, by decide +kernel, by decide +kernel, by decide +kernel, ⟨by decide +kernel, by decide +kernel, by decide +kernel⟩, no_rejoin _ 1 (by decide +kernel) (by decide +kernel) (by decide +kernel) (by decide +kernel)⟩,
   ⟨mk (((({ pk [(CLK_STATUS_JUDGE 1, judgeStable)] with image := { present := 0 } }).setService 1 svcSidelined).modRejoin 1 (fun r => { r with on := true }))), 1, by dsimp only; decide +kernel⟩,
   ⟨mk ((((List.range 8).foldl (fun c i => c.set (ELINK_STATUS_STATE 1 i) elActive) (pk [(SYN_STATUS_STATE 1, synLocked), (CAL_STATUS_VALID 1, 2 ^ calSkew)])).setService 1 svcSidelined).modRejoin 1 (fun r => { r with on := true, loaded := true })), 1, 0, by dsimp only; decide +kernel⟩,
   ⟨mk (((({ pk [] with fault := { returnAt := some (1, 4001), covered := some 1 } }).setService 1 svcSidelined).modRejoin 1 (fun r => { r with on := true, loaded := true, ready := true }))), 1, 1, 4001, by dsimp only; decide +kernel⟩,
   ⟨mk (((({ (((pk [(DIE_COVER_H0_ACTIVE 0, 1), (DIE_COVER_H0_DIE 0, 1), (DIE_COVER_H0_EFE 0, 2), (CH_CTRL_EN 0 2051, 1), (ELINK_STATUS_STATE 1 2, elWarm)]).modSlot 0 2051 (fun r => { r with active := true }))) with fault := { returnAt := some (1, 4001), covered := some 1 } }).setService 1 svcSidelined).modRejoin 1 (fun r => { r with on := true, loaded := true, ready := true }))), 1, 2, 0, 3, 1, 4001, by dsimp only; decide +kernel⟩⟩

theorem met_UpdateInService :
    (∃ (s : State) (v : Word), let c := s.chip; let f := c.fault; let x := v.toNat; let running := f.updState = updVerifying ∨ f.updState = updReloading ∨ f.updState = updReloaded ∨ f.updState = updCommitting; x / 2 ^ 28 = 8 ∧ ¬ running) ∧
    (∃ (s : State) (v : Word), let c := s.chip; let f := c.fault; let x := v.toNat; let running := f.updState = updVerifying ∨ f.updState = updReloading ∨ f.updState = updReloaded ∨ f.updState = updCommitting; x / 2 ^ 28 = 8 ∧ running) ∧
    (∃ (s : State), let c := s.chip; let f := c.fault; f.updState = updVerifying ∧ c.flashHeld f.updSlot = false) ∧
    (∃ (s : State) (ok : Bool), let c := s.chip; let f := c.fault; f.updState = updVerifying ∧ f.updSlot < 2 ∧ c.flashHeld f.updSlot = true ∧ c.updRefusal f.updSlot ok = 0) ∧
    (∃ (s : State) (ok : Bool), let c := s.chip; let f := c.fault; f.updState = updVerifying ∧ f.updSlot < 2 ∧ c.flashHeld f.updSlot = true ∧ c.updRefusal f.updSlot ok ≠ 0) ∧
    (∃ (s : State), let c := s.chip; let f := c.fault; f.updState = updVerifying ∧ f.updSlot < 2 ∧ c.flashHeld f.updSlot = true ∧ c.slotReach f.updSlot = false) ∧
    (∃ (s : State) (ok : Bool), let c := s.chip; let f := c.fault; f.updState = updVerifying ∧ f.updSlot < 2 ∧ c.flashHeld f.updSlot = true ∧ c.slotReach f.updSlot = true ∧ c.headerCause f.updSlot = 0 ∧ c.imgBlocks f.updSlot ≤ c.slotBlocks f.updSlot ∧ ok = false) ∧
    (∃ (s : State) (v : Word) (y : _) (rest : _), let c := s.chip; let f := c.fault; let x := v.toNat; let j := x % 2; let open_ := ∃ d i : Fin 8, c.inService d = true ∧ c.get (ELINK_CTRL_EN d i) = 1 ∧ c.isProt d i = false; let fwd := f.updState = updVerified ∧ j = f.updSlot; let back := f.updState = updStopped ∧ j = c.bootSlot; x / 2 ^ 28 = 4 ∧ (fwd ∨ back) ∧ (open_ → x / 4 % 2 = 1) ∧ f.sideAt = none ∧ f.updStop = false ∧ (∀ k : Fin 8, k.val < c.dieCount → c.get (DIE_STATUS_SERVICE k) ≠ svcSidelined) ∧ c.dieCount ≤ 8 ∧ c.updOrder (if f.updState = updVerified then c.inServiceDies else c.inServiceDies.filter (maskBit f.updMask)) = y :: rest ∧ (c.captain = y → c.hasVice = true ∧ c.inService c.vice = true)) ∧
    (∃ (s : State) (v : Word) (y : _) (rest : _), let c := s.chip; let f := c.fault; let x := v.toNat; let j := x % 2; let open_ := ∃ d i : Fin 8, c.inService d = true ∧ c.get (ELINK_CTRL_EN d i) = 1 ∧ c.isProt d i = false; let fwd := f.updState = updVerified ∧ j = f.updSlot; let back := f.updState = updStopped ∧ j = c.bootSlot; x / 2 ^ 28 = 4 ∧ (fwd ∨ back) ∧ (open_ → x / 4 % 2 = 1) ∧ f.sideAt = none ∧ f.updStop = false ∧ (∀ k : Fin 8, k.val < c.dieCount → c.get (DIE_STATUS_SERVICE k) ≠ svcSidelined) ∧ c.dieCount ≤ 8 ∧ c.updOrder (if f.updState = updVerified then c.inServiceDies else c.inServiceDies.filter (maskBit f.updMask)) = y :: rest ∧ (c.captain = y → c.hasVice = true ∧ c.inService c.vice = true)) ∧
    (∃ (s : State) (v : Word), let c := s.chip; let f := c.fault; let x := v.toNat; let j := x % 2; let open_ := ∃ d i : Fin 8, c.inService d = true ∧ c.get (ELINK_CTRL_EN d i) = 1 ∧ c.isProt d i = false; let fwd := f.updState = updVerified ∧ j = f.updSlot; let back := f.updState = updStopped ∧ j = c.bootSlot; x / 2 ^ 28 = 4 ∧ (fwd ∨ back) ∧ open_ ∧ x / 4 % 2 = 0) ∧
    (∃ (s : State) (v : Word), let c := s.chip; let f := c.fault; let x := v.toNat; let j := x % 2; let fwd := f.updState = updVerified ∧ j = f.updSlot; let back := f.updState = updStopped ∧ j = c.bootSlot; x / 2 ^ 28 = 4 ∧ ¬ fwd ∧ ¬ back) ∧
    (∃ (s : State) (v : Word), let c := s.chip; let f := c.fault; let x := v.toNat; x / 2 ^ 28 = 2 ∧ f.updState = updReloaded) ∧
    (∃ (s : State) (v : Word), let c := s.chip; let f := c.fault; let x := v.toNat; x / 2 ^ 28 = 2 ∧ f.updState ≠ updReloaded) ∧
    (∃ (s : State) (v : Word), let c := s.chip; let f := c.fault; let x := v.toNat; x / 2 ^ 28 = 1 ∧ f.updState = updReloaded) ∧
    (∃ (s : State) (v : Word), let c := s.chip; let f := c.fault; let x := v.toNat; x / 2 ^ 28 = 1 ∧ f.updState = updReloading) ∧
    (∃ (s : State) (v : Word), let c := s.chip; let f := c.fault; let x := v.toNat; x / 2 ^ 28 = 1 ∧ f.updState ≠ updReloaded ∧ f.updState ≠ updReloading) :=
  ⟨⟨mk (pk []), 0x80000001#32, by dsimp only; decide +kernel⟩,
   ⟨mk ({ pk [] with fault := { updState := updVerifying } }), 0x80000001#32, by dsimp only; decide +kernel⟩,
   ⟨mk ({ pk [] with fault := { updState := updVerifying, updSlot := 1 } }), by dsimp only; decide +kernel⟩,
   ⟨mk (withImg { pk [] with fault := { (leased (pk [])).fault with updState := updVerifying, updSlot := 1 } }), true, by decide +kernel, by decide +kernel, by decide +kernel, withImg_good _ (by decide +kernel) (by decide +kernel) (by decide +kernel) (by decide +kernel) (by decide +kernel) (by decide +kernel)⟩,
   ⟨mk (withImg { (pk []).setService 1 svcRejected with fault := { (leased (pk [])).fault with updState := updVerifying, updSlot := 1 } }), false, by decide +kernel, by decide +kernel, by decide +kernel, unreached _ _ (by decide +kernel)⟩,
   ⟨mk (withImg { (pk []).setService 1 svcRejected with fault := { (leased (pk [])).fault with updState := updVerifying, updSlot := 1 } }), by decide +kernel, by decide +kernel, by decide +kernel, by decide +kernel⟩,
   ⟨mk (withImg { pk [] with fault := { (leased (pk [])).fault with updState := updVerifying, updSlot := 1 } }), false, by decide +kernel, by decide +kernel, by decide +kernel, by decide +kernel, withImg_header _ (by decide +kernel) (by decide +kernel), le_of_eq_of_le (withImg_blocks _) (by decide), rfl⟩,
   ⟨mk ({ pk [] with fault := { updState := updVerified, updSlot := 1 } }), 0x40000005#32, 1, [0], by dsimp only; decide +kernel⟩,
   ⟨mk ({ pk [(IMG_STATUS_BOOT_SLOT, 1)] with fault := { updState := updStopped, updSlot := 0, updMask := 2 } }), 0x40000005#32, 1, [], by dsimp only; decide +kernel⟩,
   ⟨mk ({ pk [(ELINK_CTRL_EN 0 3, 1)] with fault := { updState := updVerified, updSlot := 1 } }), 0x40000001#32, by dsimp only; decide +kernel⟩,
   ⟨mk ({ pk [] with fault := { updState := updReloading } }), 0x40000001#32, by dsimp only; decide +kernel⟩,
   ⟨mk ({ pk [] with fault := { updState := updReloaded } }), 0x20000000#32, by dsimp only; decide +kernel⟩,
   ⟨mk (pk []), 0x20000000#32, by dsimp only; decide +kernel⟩,
   ⟨mk ({ pk [] with fault := { updState := updReloaded } }), 0x10000000#32, by dsimp only; decide +kernel⟩,
   ⟨mk ({ pk [] with fault := { updState := updReloading } }), 0x10000000#32, by dsimp only; decide +kernel⟩,
   ⟨mk (pk []), 0x10000000#32, by dsimp only; decide +kernel⟩⟩

theorem met_RequestTlps :
    (∃ (s : State) (p : Fin 2), let c := s.chip; let h := c.host p; c.portAvail p = true ∧ c.get (HOST_STATUS_LINK p) = 1 ∧ h.flr = false) ∧
    (∃ (s : State) (p : Fin 2), let c := s.chip; let h := c.host p; c.portAvail p = true ∧ c.get (HOST_STATUS_LINK p) = 1 ∧ h.flr = false) ∧
    (∃ (s : State) (p : Fin 2), let c := s.chip; let h := c.host p; c.portAvail p = true ∧ c.get (HOST_STATUS_LINK p) = 1 ∧ h.flr = false ∧ c.get (HOST_STATUS_ECRC_ON p) = 1) ∧
    (∃ (s : State) (p : Fin 2), let c := s.chip; let h := c.host p; c.portAvail p = true ∧ c.get (HOST_STATUS_LINK p) = 1 ∧ h.flr = false ∧ (h.d3 = true ∨ h.cmd.testBit 1 = false)) ∧
    (∃ (s : State) (p : Fin 2), let c := s.chip; let h := c.host p; c.portAvail p = true ∧ c.get (HOST_STATUS_LINK p) = 1 ∧ h.flr = false ∧ (h.d3 = true ∨ h.cmd.testBit 1 = false)) ∧
    (∃ (s : State) (p : Fin 2) (lib : Bool) (n : Fin 1024), let c := s.chip; let h := c.host p; c.portAvail p = true ∧ c.get (HOST_STATUS_LINK p) = 1 ∧ h.flr = false ∧ h.d3 = false ∧ h.cmd.testBit 1 = true ∧ (if lib then 128 else 16) ≤ n.val) ∧
    (∃ (s : State) (p : Fin 2) (lib : Bool) (n : Fin 1024), let c := s.chip; let h := c.host p; c.portAvail p = true ∧ c.get (HOST_STATUS_LINK p) = 1 ∧ h.flr = false ∧ h.d3 = false ∧ h.cmd.testBit 1 = true ∧ (if lib then 128 else 16) ≤ n.val) ∧
    (∃ (s : State) (p : Fin 2) (lib : Bool) (vs : List Word), let c := s.chip; let h := c.host p; c.portAvail p = true ∧ c.get (HOST_STATUS_LINK p) = 1 ∧ h.flr = false ∧ h.d3 = false ∧ h.cmd.testBit 1 = true ∧ lib = true ∧ 64 < vs.length) ∧
    (∃ (s : State) (p : Fin 2) (lib : Bool) (vs : List Word), let c := s.chip; let h := c.host p; c.portAvail p = true ∧ c.get (HOST_STATUS_LINK p) = 1 ∧ h.flr = false ∧ h.d3 = false ∧ h.cmd.testBit 1 = true ∧ lib = false ∧ 16 < vs.length) ∧
    (∃ (s : State) (p : Fin 2) (lib : Bool) (a : BitVec 28) (n : Fin 1024), let c := s.chip; let h := c.host p; c.portAvail p = true ∧ c.get (HOST_STATUS_LINK p) = 1 ∧ h.flr = false ∧ h.d3 = false ∧ h.cmd.testBit 1 = true ∧ n.val < 16 ∧ c.outside lib a.toNat (n.val + 1) = true) ∧
    (∃ (s : State) (p : Fin 2) (lib : Bool) (a : BitVec 28) (n : Fin 1024), let c := s.chip; let h := c.host p; c.portAvail p = true ∧ c.get (HOST_STATUS_LINK p) = 1 ∧ h.flr = false ∧ h.d3 = false ∧ h.cmd.testBit 1 = true ∧ n.val < 16 ∧ c.outside lib a.toNat (n.val + 1) = true) ∧
    (∃ (s : State) (p : Fin 2) (lib : Bool) (a : BitVec 28) (vs : List Word), let c := s.chip; let h := c.host p; c.portAvail p = true ∧ c.get (HOST_STATUS_LINK p) = 1 ∧ h.flr = false ∧ h.d3 = false ∧ h.cmd.testBit 1 = true ∧ vs.length ≤ 16 ∧ c.outside lib a.toNat vs.length = true) ∧
    (∃ (s : State) (p : Fin 2) (lib : Bool) (a : BitVec 28) (n : Fin 1024), let c := s.chip; let h := c.host p; let x := a.toNat / 4 * 4; c.portAvail p = true ∧ c.get (HOST_STATUS_LINK p) = 1 ∧ h.flr = false ∧ h.d3 = false ∧ h.cmd.testBit 1 = true ∧ lib = false ∧ n.val = 0 ∧ x < 0x10000 ∧ c.get (onPort p HOST_VIEW_SHADOW) = 0 ∧ (findReg x).isSome = true ∧ (findReg x).any (fun g => decide (g.half = .single)) = true) ∧
    (∃ (s : State) (p : Fin 2) (lib : Bool) (perr : Bool) (a : BitVec 28) (n : Fin 1024) (y : _), let c := s.chip; let h := c.host p; let x := a.toNat / 4 * 4; let k := x / 0x2000000 * 2 ^ 22 + x % 0x2000000 / 8; c.portAvail p = true ∧ c.get (HOST_STATUS_LINK p) = 1 ∧ h.flr = false ∧ h.d3 = false ∧ h.cmd.testBit 1 = true ∧ lib = true ∧ n.val = 0 ∧ perr = false ∧ c.libOutside x = false ∧ c.get (DIE_STATUS_SERVICE (x / 0x2000000)) ≤ svcIn ∧ c.isPoison k = false ∧ secded (c.libRaw k) = some (y, false)) ∧
    (∃ (s : State) (p : Fin 2) (lib : Bool) (a : BitVec 28), let c := s.chip; let h := c.host p; c.portAvail p = true ∧ c.get (HOST_STATUS_LINK p) = 1 ∧ h.flr = false ∧ h.d3 = false ∧ h.cmd.testBit 1 = true ∧ lib = false ∧ c.outside false a.toNat 1 = false) ∧
    (∃ (s : State) (p : Fin 2) (lib : Bool) (a : BitVec 28) (be : BitVec 4) (v : Word), let c := s.chip; let h := c.host p; let x := a.toNat / 4 * 4; c.portAvail p = true ∧ c.get (HOST_STATUS_LINK p) = 1 ∧ h.flr = false ∧ h.d3 = false ∧ h.cmd.testBit 1 = true ∧ lib = false ∧ c.outside false a.toNat 1 = false ∧ be ≠ 0xF ∧ needsTag x v = false) ∧
    (∃ (s : State) (p : Fin 2) (lib : Bool) (a : BitVec 28), let c := s.chip; let h := c.host p; c.portAvail p = true ∧ c.get (HOST_STATUS_LINK p) = 1 ∧ h.flr = false ∧ h.d3 = false ∧ h.cmd.testBit 1 = true ∧ c.outside lib a.toNat 2 = false) ∧
    (∃ (s : State) (p : Fin 2) (lib : Bool) (a : BitVec 28), let c := s.chip; let h := c.host p; c.portAvail p = true ∧ c.get (HOST_STATUS_LINK p) = 1 ∧ h.flr = false ∧ h.d3 = false ∧ h.cmd.testBit 1 = true ∧ c.outside lib a.toNat 2 = false) :=
  ⟨⟨mk (pk []), 1, by dsimp only; decide +kernel⟩,
   ⟨mk (pk []), 1, by dsimp only; decide +kernel⟩,
   ⟨mk (pk [(HOST_STATUS_ECRC_ON 1, 1)]), 1, by dsimp only; decide +kernel⟩,
   ⟨mk ((pk []).modHost 1 (fun r => { r with d3 := true })), 1, by dsimp only; decide +kernel⟩,
   ⟨mk ((pk []).modHost 1 (fun r => { r with cmd := 0x140 })), 1, by dsimp only; decide +kernel⟩,
   ⟨mk (pk []), 1, false, 16, by dsimp only; decide +kernel⟩,
   ⟨mk (pk []), 1, true, 128, by dsimp only; decide +kernel⟩,
   ⟨mk (pk []), 0, true, List.replicate 65 0#32, by dsimp only; decide +kernel⟩,
   ⟨mk (pk []), 0, false, List.replicate 17 0#32, by dsimp only; decide +kernel⟩,
   ⟨mk (pk []), 0, true, 0x4000000#28, 15, by dsimp only; decide +kernel⟩,
   ⟨mk (pk []), 0, false, 0x2C00000#28, 0, by dsimp only; decide +kernel⟩,
   ⟨mk (pk []), 0, true, 0x4000000#28, List.replicate 16 0#32, by dsimp only; decide +kernel⟩,
   ⟨mk (pk []), 0, false, 0x40#28, 0, by dsimp only; decide +kernel⟩,
   ⟨mk (pk []), 0, true, false, 0x33FFFFC#28, 0, 0, by dsimp only; decide +kernel⟩,
   ⟨mk (pk []), 0, false, 0x20020#28, by dsimp only; decide +kernel⟩,
   ⟨mk (pk []), 0, false, 0x44#28, 7, 1#32, by dsimp only; decide +kernel⟩,
   ⟨mk (pk []), 0, false, 0x44#28, by dsimp only; decide +kernel⟩,
   ⟨mk (pk []), 0, true, 0x44#28, by dsimp only; decide +kernel⟩⟩

theorem met_RegisterAccess :
    (∃ (s : State) (p : Fin 2) (a : BitVec 26) (v : Word), let c := s.chip; let h := c.host p; let x := a.toNat / 4 * 4; let plain := x < 0x10000 ∧ x ≠ PKG_COMMIT_CTRL ∨ 0x20000 ≤ x ∧ x < 0x30000 ∧ x ≠ TIME_RESTEP; c.portAvail p = true ∧ c.get (HOST_STATUS_LINK p) = 1 ∧ h.flr = false ∧ c.memOn p = true ∧ plain ∧ c.groupOpen p = false ∧ (findReg x).isSome = true ∧ needsTag x v = false ∧ writeHalf x = .single) ∧
    (∃ (s : State) (p : Fin 2) (a : BitVec 26) (v : Word), let c := s.chip; let h := c.host p; let x := a.toNat / 4 * 4; let plain := x < 0x10000 ∧ x ≠ PKG_COMMIT_CTRL ∨ 0x20000 ≤ x ∧ x < 0x30000 ∧ x ≠ TIME_RESTEP; c.portAvail p = true ∧ c.get (HOST_STATUS_LINK p) = 1 ∧ h.flr = false ∧ c.memOn p = true ∧ plain ∧ c.groupOpen p = false ∧ (findReg x).isSome = true ∧ needsTag x v = false ∧ writeHalf x = .single) ∧
    (∃ (s : State) (p : Fin 2) (a : BitVec 26) (v : Word), let c := s.chip; let h := c.host p; let x := a.toNat / 4 * 4; let plain := x < 0x10000 ∧ x ≠ PKG_COMMIT_CTRL ∨ 0x20000 ≤ x ∧ x < 0x30000 ∧ x ≠ TIME_RESTEP; c.portAvail p = true ∧ c.get (HOST_STATUS_LINK p) = 1 ∧ h.flr = false ∧ c.memOn p = true ∧ plain ∧ c.groupOpen p = false ∧ (findReg x).isSome = true ∧ needsTag x v = false ∧ writeHalf x = .low) ∧
    (∃ (s : State) (p : Fin 2) (a : BitVec 26) (v : Word) (w : _), let c := s.chip; let h := c.host p; let x := a.toNat / 4 * 4; let plain := x < 0x10000 ∧ x ≠ PKG_COMMIT_CTRL ∨ 0x20000 ≤ x ∧ x < 0x30000 ∧ x ≠ TIME_RESTEP; c.portAvail p = true ∧ c.get (HOST_STATUS_LINK p) = 1 ∧ h.flr = false ∧ c.memOn p = true ∧ plain ∧ c.groupOpen p = false ∧ (findReg x).isSome = true ∧ needsTag x v = false ∧ writeHalf x = .high ∧ 4 ≤ x ∧ c.lowOf p (x - 4) = some w ∧ (findReg (x - 4)).isSome = true ∧ (findReg x).any (fun g => g.rwt = 0) = true ∧ (findReg (x - 4)).any (fun g => g.rwt = 0) = true ∧ (findReg x).any (fun g => g.w1c = 0) = true ∧ (findReg (x - 4)).any (fun g => g.w1c = 0) = true) ∧
    (∃ (s : State) (p : Fin 2) (a : BitVec 26) (v : Word), let c := s.chip; let h := c.host p; let x := a.toNat / 4 * 4; let plain := x < 0x10000 ∧ x ≠ PKG_COMMIT_CTRL ∨ 0x20000 ≤ x ∧ x < 0x30000 ∧ x ≠ TIME_RESTEP; c.portAvail p = true ∧ c.get (HOST_STATUS_LINK p) = 1 ∧ h.flr = false ∧ c.memOn p = true ∧ plain ∧ c.groupOpen p = false ∧ (findReg x).isSome = true ∧ needsTag x v = false ∧ writeHalf x = .high ∧ 4 ≤ x ∧ c.lowOf p (x - 4) = none) ∧
    (∃ (s : State) (p : Fin 2) (a : BitVec 26), let c := s.chip; let h := c.host p; let x := a.toNat / 4 * 4; c.portAvail p = true ∧ c.get (HOST_STATUS_LINK p) = 1 ∧ h.flr = false ∧ c.memOn p = true ∧ x < 0x30000 ∧ x ≠ FAULT_LOG_POP_LO ∧ x ≠ FAULT_LOG_POP_HI ∧ (findReg x).isSome = true ∧ c.get (onPort p HOST_VIEW_SHADOW) = 0 ∧ (findReg x).any (fun g => decide (g.half = .low)) = true ∧ (findReg (x + 4)).isSome = true) ∧
    (∃ (s : State) (p : Fin 2) (a : BitVec 26), let c := s.chip; let h := c.host p; let x := a.toNat / 4 * 4; c.portAvail p = true ∧ c.get (HOST_STATUS_LINK p) = 1 ∧ h.flr = false ∧ c.memOn p = true ∧ x < 0x30000 ∧ x ≠ FAULT_LOG_POP_LO ∧ x ≠ FAULT_LOG_POP_HI ∧ (findReg x).isSome = true ∧ c.get (onPort p HOST_VIEW_SHADOW) = 0 ∧ (findReg x).any (fun g => decide (g.half = .high)) = true ∧ 4 ≤ x) :=
  ⟨⟨mk (pk []), 1, 0x4c#26, 1#32, by dsimp only; decide +kernel⟩,
   ⟨mk (pk []), 1, 0x2000c#26, 1#32, by dsimp only; decide +kernel⟩,
   ⟨mk (pk []), 1, 0x44#26, 1#32, by dsimp only; decide +kernel⟩,
   ⟨mk ((pk []).modHost 1 (fun r => { r with low := [(0x44, some 0xAABBCCDD#32)] })), 1, 0x48#26, 1#32, 0xAABBCCDD#32, by dsimp only; decide +kernel⟩,
   ⟨mk (pk []), 1, 0x48#26, 1#32, by dsimp only; decide +kernel⟩,
   ⟨mk (pk []), 1, 0x10#26, by dsimp only; decide +kernel⟩,
   ⟨mk (pk []), 1, 0x14#26, by dsimp only; decide +kernel⟩⟩

theorem met_HeldAndHostGroups :
    (∃ (s : State) (p : Fin 2) (lib : Bool) (a : BitVec 28) (v : Word) (be : BitVec 4), let c := s.chip; let h := c.host p; let x := a.toNat / 4 * 4; let k := if lib then 0x80000000 + x else x; let l := c.heldOf p; c.portAvail p = true ∧ c.get (HOST_STATUS_LINK p) = 1 ∧ h.flr = false ∧ c.memOn p = true ∧ c.dieCount ≤ 8 ∧ needsTag k v = true ∧ c.outside lib x 1 = false ∧ be = 0xF ∧ c.holdsSession p = true ∧ l.length < 4096) ∧
    (∃ (s : State) (p : Fin 2) (lib : Bool) (a : BitVec 28) (v : Word) (be : BitVec 4), let c := s.chip; let h := c.host p; let x := a.toNat / 4 * 4; let k := if lib then 0x80000000 + x else x; let l := c.heldOf p; c.portAvail p = true ∧ c.get (HOST_STATUS_LINK p) = 1 ∧ h.flr = false ∧ c.memOn p = true ∧ c.dieCount ≤ 8 ∧ needsTag k v = true ∧ c.outside lib x 1 = false ∧ be = 0xF ∧ c.holdsSession p = true ∧ l.length < 4096) ∧
    (∃ (s : State) (p : Fin 2) (lib : Bool) (a : BitVec 28) (v : Word) (be : BitVec 4), let c := s.chip; let h := c.host p; let x := a.toNat / 4 * 4; let k := if lib then 0x80000000 + x else x; c.portAvail p = true ∧ c.get (HOST_STATUS_LINK p) = 1 ∧ h.flr = false ∧ c.memOn p = true ∧ c.dieCount ≤ 8 ∧ needsTag k v = true ∧ c.outside lib x 1 = false ∧ be ≠ 0xF ∧ c.holdsSession p = true) ∧
    (∃ (s : State) (p : Fin 2) (lib : Bool) (a : BitVec 28) (v : Word) (be : BitVec 4), let c := s.chip; let h := c.host p; let x := a.toNat / 4 * 4; let k := if lib then 0x80000000 + x else x; c.portAvail p = true ∧ c.get (HOST_STATUS_LINK p) = 1 ∧ h.flr = false ∧ c.memOn p = true ∧ c.dieCount ≤ 8 ∧ needsTag k v = true ∧ c.outside lib x 1 = false ∧ be = 0xF ∧ c.holdsSession p = false) ∧
    (∃ (s : State) (p : Fin 2) (v : Word), let c := s.chip; let h := c.host p; let z := v.toNat; c.portAvail p = true ∧ c.get (HOST_STATUS_LINK p) = 1 ∧ h.flr = false ∧ c.memOn p = true ∧ c.dieCount ≤ 8 ∧ z / 2 ^ 30 = 1) ∧
    (∃ (s : State) (p : Fin 2) (v : Word), let c := s.chip; let h := c.host p; let z := v.toNat; let tagOk := c.heldTag p = hmacSha256 c.sec.ctrlKey (c.heldMessage p); let seq := c.get (onPort p SEC_AW_SEQ_SEQ); c.portAvail p = true ∧ c.get (HOST_STATUS_LINK p) = 1 ∧ h.flr = false ∧ c.memOn p = true ∧ c.dieCount ≤ 8 ∧ z / 2 ^ 30 = 2 ∧ (c.fault.leases.getD 5 {}).stopped = false ∧ c.groupOpen p = false ∧ c.holdsSession p = true ∧ tagOk ∧ c.sec.seqLast < seq) ∧
    (∃ (s : State) (p : Fin 2) (v : Word), let c := s.chip; let h := c.host p; let l := c.heldOf p; let z := v.toNat; let tagOk := c.heldTag p = hmacSha256 c.sec.ctrlKey (c.heldMessage p); let seq := c.get (onPort p SEC_AW_SEQ_SEQ); c.portAvail p = true ∧ c.get (HOST_STATUS_LINK p) = 1 ∧ h.flr = false ∧ c.memOn p = true ∧ c.dieCount ≤ 8 ∧ z / 2 ^ 30 = 2 ∧ (c.fault.leases.getD 5 {}).stopped = false ∧ c.groupOpen p = false ∧ c.holdsSession p = true ∧ tagOk ∧ c.sec.seqLast < seq ∧ l = []) ∧
    (∃ (s : State) (p : Fin 2) (v : Word) (w : Word), let c := s.chip; let h := c.host p; let l := c.heldOf p; let z := v.toNat; let tagOk := c.heldTag p = hmacSha256 c.sec.ctrlKey (c.heldMessage p); let seq := c.get (onPort p SEC_AW_SEQ_SEQ); c.portAvail p = true ∧ c.get (HOST_STATUS_LINK p) = 1 ∧ h.flr = false ∧ c.memOn p = true ∧ c.dieCount ≤ 8 ∧ z / 2 ^ 30 = 2 ∧ (c.fault.leases.getD 5 {}).stopped = false ∧ c.groupOpen p = false ∧ c.holdsSession p = true ∧ tagOk ∧ c.sec.seqLast < seq ∧ (c.sec.sess.map (fun o => o.2.2.1)) = some false ∧ l = [(IMG_PIN, w)]) ∧
    (∃ (s : State) (p : Fin 2) (v : Word), let c := s.chip; let h := c.host p; let z := v.toNat; let tagOk := c.heldTag p = hmacSha256 c.sec.ctrlKey (c.heldMessage p); let seq := c.get (onPort p SEC_AW_SEQ_SEQ); c.portAvail p = true ∧ c.get (HOST_STATUS_LINK p) = 1 ∧ h.flr = false ∧ c.memOn p = true ∧ c.dieCount ≤ 8 ∧ z / 2 ^ 30 = 2 ∧ (c.fault.leases.getD 5 {}).stopped = false ∧ c.groupOpen p = false ∧ c.holdsSession p = true ∧ (¬ tagOk ∨ seq ≤ c.sec.seqLast)) ∧
    (∃ (s : State) (p : Fin 2) (v : Word), let c := s.chip; let h := c.host p; let z := v.toNat; c.portAvail p = true ∧ c.get (HOST_STATUS_LINK p) = 1 ∧ h.flr = false ∧ c.memOn p = true ∧ c.dieCount ≤ 8 ∧ z / 2 ^ 30 = 2 ∧ (c.fault.leases.getD 5 {}).stopped = false ∧ c.groupOpen p = false ∧ c.holdsSession p = false) ∧
    (∃ (s : State) (p : Fin 2) (v : Word), let c := s.chip; let h := c.host p; let z := v.toNat; c.portAvail p = true ∧ c.get (HOST_STATUS_LINK p) = 1 ∧ h.flr = false ∧ c.memOn p = true ∧ c.dieCount ≤ 8 ∧ z / 2 ^ 29 = 4 ∧ c.groupOpen p = false) ∧
    (∃ (s : State) (p : Fin 2) (v : Word), let c := s.chip; let h := c.host p; let z := v.toNat; c.portAvail p = true ∧ c.get (HOST_STATUS_LINK p) = 1 ∧ h.flr = false ∧ c.memOn p = true ∧ c.dieCount ≤ 8 ∧ z / 2 ^ 29 = 4 ∧ c.groupOpen p = true) ∧
    (∃ (s : State) (p : Fin 2) (v : Word), let c := s.chip; let h := c.host p; let z := v.toNat; c.portAvail p = true ∧ c.get (HOST_STATUS_LINK p) = 1 ∧ h.flr = false ∧ c.memOn p = true ∧ c.dieCount ≤ 8 ∧ z / 2 ^ 29 = 2 ∧ c.groupOpen p = true ∧ h.withAw = false) ∧
    (∃ (s : State) (p : Fin 2) (v : Word), let c := s.chip; let h := c.host p; let z := v.toNat; c.portAvail p = true ∧ c.get (HOST_STATUS_LINK p) = 1 ∧ h.flr = false ∧ c.memOn p = true ∧ c.dieCount ≤ 8 ∧ z / 2 ^ 29 = 2 ∧ c.groupOpen p = true ∧ h.withAw = false ∧ h.group = []) ∧
    (∃ (s : State) (p : Fin 2) (v : Word) (w : Word), let c := s.chip; let h := c.host p; let z := v.toNat; c.portAvail p = true ∧ c.get (HOST_STATUS_LINK p) = 1 ∧ h.flr = false ∧ c.memOn p = true ∧ c.dieCount ≤ 8 ∧ z / 2 ^ 29 = 2 ∧ c.groupOpen p = true ∧ h.withAw = false ∧ h.group = [(TIME_IRQ_EN, v), (TIME_IRQ_EN, w)]) ∧
    (∃ (s : State) (p : Fin 2) (v : Word), let c := s.chip; let h := c.host p; let z := v.toNat; c.portAvail p = true ∧ c.get (HOST_STATUS_LINK p) = 1 ∧ h.flr = false ∧ c.memOn p = true ∧ c.dieCount ≤ 8 ∧ z / 2 ^ 29 = 2 ∧ (c.groupOpen p = false ∨ h.withAw = true)) ∧
    (∃ (s : State) (p : Fin 2) (v : Word), let c := s.chip; let h := c.host p; let z := v.toNat; c.portAvail p = true ∧ c.get (HOST_STATUS_LINK p) = 1 ∧ h.flr = false ∧ c.memOn p = true ∧ c.dieCount ≤ 8 ∧ z / 2 ^ 29 = 2 ∧ (c.groupOpen p = false ∨ h.withAw = true)) ∧
    (∃ (s : State) (p : Fin 2) (v : Word), let c := s.chip; let h := c.host p; let z := v.toNat; c.portAvail p = true ∧ c.get (HOST_STATUS_LINK p) = 1 ∧ h.flr = false ∧ c.memOn p = true ∧ c.dieCount ≤ 8 ∧ z / 2 ^ 29 = 1 ∧ c.groupOpen p = true) ∧
    (∃ (s : State) (p : Fin 2) (v : Word), let c := s.chip; let h := c.host p; let z := v.toNat; c.portAvail p = true ∧ c.get (HOST_STATUS_LINK p) = 1 ∧ h.flr = false ∧ c.memOn p = true ∧ c.dieCount ≤ 8 ∧ z / 2 ^ 29 = 1 ∧ c.groupOpen p = false) ∧
    (∃ (s : State) (p : Fin 2) (b : BitVec 26) (v : Word), let c := s.chip; let h := c.host p; let y := b.toNat / 4 * 4; c.portAvail p = true ∧ c.get (HOST_STATUS_LINK p) = 1 ∧ h.flr = false ∧ c.memOn p = true ∧ c.dieCount ≤ 8 ∧ c.groupOpen p = true ∧ needsTag y v = false ∧ hostExempt y = false ∧ c.regOutside y = false ∧ h.group.length < 256) ∧
    (∃ (s : State) (p : Fin 2) (b : BitVec 26) (v : Word), let c := s.chip; let h := c.host p; let y := b.toNat / 4 * 4; c.portAvail p = true ∧ c.get (HOST_STATUS_LINK p) = 1 ∧ h.flr = false ∧ c.memOn p = true ∧ c.dieCount ≤ 8 ∧ c.groupOpen p = true ∧ needsTag y v = false ∧ hostExempt y = false ∧ c.regOutside y = false ∧ 256 ≤ h.group.length) :=
  ⟨⟨mk ({ pk [] with sec := { sess := some (1, 1, true, []) } }), 1, false, BitVec.ofNat 28 IMG_PIN, 5#32, 0xF, by dsimp only; decide +kernel⟩,
   ⟨mk ({ pk [] with sec := { sess := some (1, 1, true, []) } }), 1, true, 8#28, 5#32, 0xF, by dsimp only; decide +kernel⟩,
   ⟨mk ({ pk [] with sec := { sess := some (1, 1, true, []) } }), 1, false, BitVec.ofNat 28 IMG_PIN, 5#32, 7, by dsimp only; decide +kernel⟩,
   ⟨mk (pk []), 1, false, BitVec.ofNat 28 IMG_PIN, 5#32, 0xF, by dsimp only; decide +kernel⟩,
   ⟨mk (pk []), 0, 0x40000000#32, by dsimp only; decide +kernel⟩,
   ⟨mk (tagged (heldBy true [])), 0, 0x80000000#32, by dsimp only; decide +kernel⟩,
   ⟨mk (tagged (heldBy true [])), 0, 0x80000000#32, by dsimp only; decide +kernel⟩,
   ⟨mk (tagged (heldBy false [(IMG_PIN, 5#32)])), 0, 0x80000000#32, 5#32, by dsimp only; decide +kernel⟩,
   ⟨mk (heldBy true []), 0, 0x80000000#32, by dsimp only; decide +kernel⟩,
   ⟨mk (pk []), 0, 0x80000000#32, by dsimp only; decide +kernel⟩,
   ⟨mk (pk []), 1, 0x80000000#32, by dsimp only; decide +kernel⟩,
   ⟨mk ((pk []).set (onPort 1 HOST_GROUP_STATUS_OPEN) 1), 1, 0x80000000#32, by dsimp only; decide +kernel⟩,
   ⟨mk ((pk []).set (onPort 1 HOST_GROUP_STATUS_OPEN) 1), 1, 0x40000000#32, by dsimp only; decide +kernel⟩,
   ⟨mk ((pk []).set (onPort 1 HOST_GROUP_STATUS_OPEN) 1), 1, 0x40000000#32, by dsimp only; decide +kernel⟩,
   ⟨mk (((pk []).set (onPort 1 HOST_GROUP_STATUS_OPEN) 1).modHost 1 (fun r => { r with group := [(TIME_IRQ_EN, 0x40000000#32), (TIME_IRQ_EN, 3#32)] })), 1, 0x40000000#32, 3#32, by dsimp only; decide +kernel⟩,
   ⟨mk (pk []), 0, 0x40000000#32, by dsimp only; decide +kernel⟩,
   ⟨mk (((pk []).set (onPort 1 HOST_GROUP_STATUS_OPEN) 1).modHost 1 (fun r => { r with withAw := true })), 1, 0x40000000#32, by dsimp only; decide +kernel⟩,
   ⟨mk ((pk []).set (onPort 1 HOST_GROUP_STATUS_OPEN) 1), 1, 0x20000000#32, by dsimp only; decide +kernel⟩,
   ⟨mk (pk []), 0, 0x20000000#32, by dsimp only; decide +kernel⟩,
   ⟨mk (((pk []).set (onPort 1 HOST_GROUP_STATUS_OPEN) 1).modHost 1 (fun r => { r with group := List.replicate 255 (TIME_IRQ_EN, 3#32) })), 1, BitVec.ofNat 26 TIME_IRQ_EN, 1#32, by dsimp only; decide +kernel⟩,
   ⟨mk (((pk []).set (onPort 1 HOST_GROUP_STATUS_OPEN) 1).modHost 1 (fun r => { r with group := List.replicate 256 (TIME_IRQ_EN, 3#32) })), 1, BitVec.ofNat 26 TIME_IRQ_EN, 1#32, by dsimp only; decide +kernel⟩⟩

theorem met_SmbusTarget :
    (∃ (s : State) (addr : BitVec 7), let c := s.chip; let here := c.resetLow = false ∧ c.get HOST_SMB_CFG_EN = 1 ∧ (c.hasCaptain = true ∨ c.get PKG_ROLE_NEG_DONE = 0) ∧ addr.toNat = c.get HOST_SMB_CFG_ADDR; here) ∧
    (∃ (s : State) (addr : BitVec 7), let c := s.chip; let here := c.resetLow = false ∧ c.get HOST_SMB_CFG_EN = 1 ∧ (c.hasCaptain = true ∨ c.get PKG_ROLE_NEG_DONE = 0) ∧ addr.toNat = c.get HOST_SMB_CFG_ADDR; ¬ here) ∧
    (∃ (code : BitVec 8), code.toNat ∉ [0, 1, 2, 3, 4, 16]) ∧
    (∃ (code : BitVec 8), code.toNat ∉ [0, 1, 2, 3, 4, 16]) :=
  ⟨⟨mk (pk [(HOST_SMB_CFG_EN, 1)]), BitVec.ofNat 7 (State.reset.chip.get HOST_SMB_CFG_ADDR), by dsimp only; decide +kernel⟩,
   ⟨mk (pk [(HOST_SMB_CFG_EN, 0)]), 0, by dsimp only; decide +kernel⟩,
   ⟨5#8, by decide +kernel⟩,
   ⟨17#8, by decide +kernel⟩⟩

theorem met_StepKeepsOrder :
    (∃ (s : State), Sys2Proof.Machine.Inv s) ∧
    (∃ (s : State), Sys2Proof.Machine.Inv s) :=
  ⟨⟨mk (pk []), by unfold Machine.Inv Chip.Ok Chip.regsWf Chip.memWf Chip.unitsWf; decide +kernel⟩,
   ⟨mkq [.supplyWarning, .snapshotCapture] (pk [(PKG_TICK_CFG_PERIOD, 7)]), by unfold Machine.Inv Chip.Ok Chip.regsWf Chip.memWf Chip.unitsWf; decide +kernel⟩⟩

theorem met_AbsentDieAccess :
    (∃ (s : State) (p : Fin 2) (lib : Bool) (a : BitVec 28), let c := s.chip; let h := c.host p; let d := if lib then a.toNat / 2 ^ 25 else (a.toNat - 0x1000000) / 2 ^ 22; c.portAvail p = true ∧ c.get (HOST_STATUS_LINK p) = 1 ∧ h.flr = false ∧ c.memOn p = true ∧ c.dieCount ≤ d ∧ (lib = false → 0x1000000 ≤ a.toNat)) ∧
    (∃ (s : State) (p : Fin 2) (lib : Bool) (a : BitVec 28), let c := s.chip; let h := c.host p; let d := if lib then a.toNat / 2 ^ 25 else (a.toNat - 0x1000000) / 2 ^ 22; c.portAvail p = true ∧ c.get (HOST_STATUS_LINK p) = 1 ∧ h.flr = false ∧ c.memOn p = true ∧ c.dieCount ≤ d ∧ (lib = false → 0x1000000 ≤ a.toNat)) :=
  ⟨⟨mk (pk []), 0, false, 0x1800000#28, by dsimp only; decide +kernel⟩,
   ⟨mk (pk []), 0, true, 0x4000000#28, by dsimp only; decide +kernel⟩⟩

theorem met_SelfHolding :
    (∃ (s : State) (k : Fin 6), let c := s.chip; let l := c.fault.leases.getD k {}; let serves : Nat → Prop := fun d => if c.started = true then c.inService d = true else c.open d = true; let arbiter : Prop := if k.val = 3 then serves 0 else if k.val = 4 then serves 1 else c.get PKG_ROLE_VICE_VALID = 1 ∧ serves (c.get PKG_ROLE_VICE); l.held = true ∧ ¬ arbiter ∧ c.isLost l.holder = false ∧ c.get (DIE_STATUS_SERVICE l.holder) ≠ svcSidelined) ∧
    (∃ (s : State) (k : Fin 6) (t : Nat), let c := s.chip; let l := c.fault.leases.getD k {}; let up := c.upTicks * c.tickNs + t; let serves : Nat → Prop := fun d => if c.started = true then c.inService d = true else c.open d = true; let arbiter : Prop := if k.val = 3 then serves 0 else if k.val = 4 then serves 1 else c.get PKG_ROLE_VICE_VALID = 1 ∧ serves (c.get PKG_ROLE_VICE); l.held = true ∧ arbiter ∧ l.renewed + 45000 ≤ up) ∧
    (∃ (s : State) (k : Fin 6) (t : Nat), let c := s.chip; let l := c.fault.leases.getD k {}; let up := c.upTicks * c.tickNs + t; let serves : Nat → Prop := fun d => if c.started = true then c.inService d = true else c.open d = true; let arbiter : Prop := if k.val = 3 then serves 0 else if k.val = 4 then serves 1 else c.get PKG_ROLE_VICE_VALID = 1 ∧ serves (c.get PKG_ROLE_VICE); l.held = true ∧ arbiter ∧ l.renewed + 50000 ≤ up) :=
  ⟨⟨mk ({ (pk []).setService 1 svcSidelined with fault := { leases := [{ held := true }, {}, {}, {}, {}, {}] } }), 0, by dsimp only; decide +kernel⟩,
   ⟨mk ({ pk [] with fault := { leases := [{ held := true, renewed := 5000 * (pk []).tickNs - 45000 }, {}, {}, {}, {}, {}] } }), 0, 0, by dsimp only; decide +kernel⟩,
   ⟨mk ({ pk [] with started := false, fault := { leases := [{}, {}, {}, { held := true, renewed := 5000 * (pk []).tickNs - 50000 }, {}, {}] } }), 3, 0, by dsimp only; decide +kernel⟩⟩

theorem met_BackupPorts :
    (∃ (s : State) (h : _) (a : _), s.chip.fault.coverAt = some (h, a) ∧ a ≤ s.chip.tick + 1) :=
  ⟨mk ({ pk [] with fault := { coverAt := some (1, 4001) } }), 1, 4001, by decide +kernel⟩

end Sys2Proof.Tests
end

section
/-!
SUPPORT. What the scope of the package says (spec/00_scope.md): a step keeps the package in good order (R1, R347), an access to a
die that the variant does not have is a decode error (R2), register accesses by access type and by halves of pairs (R6 to R9).
-/

namespace Sys2Proof.Machine

/-! ### Every step keeps good order -/

/-- Settles O55: a command keeps every part of good order (`exec_ok`), the die count among them, and leaves the queue alone. -/
theorem stepKeepsOrder : Obligations.StepKeepsOrder := by
  rintro ⟨queue, c⟩ ⟨hn, hk⟩
  cases queue with
  | nil =>
    refine ⟨⟨_, rfl⟩, fun t ht => ?_⟩
    cases ht
    exact ⟨⟨hn, hk⟩, rfl, rfl⟩
  | cons i rest =>
    obtain ⟨u, hu, hok⟩ := exec_ok (s := ⟨rest, c⟩) hk i
    have hs : step ⟨i :: rest, c⟩ = .next ⟨rest, u⟩ := hu
    refine ⟨⟨_, hs⟩, fun t ht => ?_⟩
    cases hs.symm.trans ht
    have hc : u.dieCount = c.dieCount := hok.count
    exact ⟨⟨hc ▸ hn, hc ▸ hok⟩, hc, rfl⟩

/-! ### Writes of registers alone -/

/-- Fields of two registers, each within its own. -/
theorem Fld.apart_of_regs {f g : Fld} (hf : f.lo + f.w ≤ 32) (hg : g.lo + g.w ≤ 32) (h : f.addr ≠ g.addr) : f.Apart g :=
  .inl ⟨h, .inl hf, .inl hg⟩

section
variable {s t u : Chip}

theorem Chip.RegsOnly.trans (h : s.RegsOnly t) (h' : t.RegsOnly u) : s.RegsOnly u := by
  unfold Chip.RegsOnly at *
  calc u = { t with regs := u.regs, due := u.due } := h'
    _ = { s with regs := u.regs, due := u.due } := by rw [h]

theorem Chip.set_regsOnly (f : Fld) (v : Nat) : s.RegsOnly (s.set f v) := by
  unfold Chip.RegsOnly Chip.set
  dsimp only
  split <;> rfl

theorem Chip.raise_regsOnly (f : Fld) : s.RegsOnly (s.raise f) := Chip.raiseBit_eq s f.addr f.lo

/-- An access that a rule turns away counts in a field `f` and sets an event bit `g`. -/
theorem Chip.bump_raise_regsOnly (f g : Fld) : s.RegsOnly ((s.bump f).raise g) :=
  (Chip.set_regsOnly f _).trans (Chip.raise_regsOnly g)

theorem Chip.bump_raise_sameRegs {f g : Fld} (hf : f.lo + f.w ≤ 32) : s.SameRegs ((s.bump f).raise g) [f.addr, g.addr] := by
  intro a ha
  simp only [List.mem_cons, List.not_mem_nil, or_false, not_or] at ha
  rw [Chip.reg_raise_ne _ ha.2, Chip.bump, Chip.reg_set_ne _ _ ha.1 (.inl hf)]

theorem Chip.get_bump_raise {f g : Fld} (hf : f.lo + f.w ≤ 64) (hg : g.lo < 32) (hw : g.w = 1) (h : g.Apart f) :
    ((s.bump f).raise g).get f = min (s.get f + 1) (2 ^ f.w - 1) := by
  rw [Chip.get_raise_ne _ h hg hw, Chip.get_bump_same _ _ _ hf]

end

/-! ### Records of the host ports -/

theorem Chip.host_congr {s t : Chip} (h : t.hosts = s.hosts) (p : Nat) : t.host p = s.host p := by
  unfold Chip.host; rw [h]

section
variable (s : Chip)

@[simp] theorem Chip.host_modHost_same (p : Nat) (f : HostRec → HostRec) : (s.modHost p f).host p = f (s.host p) :=
  tabGet_put_same _ _ _

theorem Chip.host_modHost_ne {p q : Nat} (f : HostRec → HostRec) (h : q ≠ p) : (s.modHost p f).host q = s.host q :=
  tabGet_put_ne _ _ h

end

/-- `w` is `c`, `t` ns after the boundary, but for the record of host port `p`. -/
def Chip.PortDiffers (c w : Chip) (p t : Nat) : Prop :=
  w = { c with moment := t, hosts := w.hosts } ∧ ∀ q, q ≠ p → w.host q = c.host q

section
variable {c w : Chip} {p t : Nat}

theorem Chip.portDiffers_at : c.PortDiffers (c.at t) p t := ⟨rfl, fun _ _ => rfl⟩

theorem Chip.PortDiffers.modHost (h : c.PortDiffers w p t) (f : HostRec → HostRec) : c.PortDiffers (w.modHost p f) p t := by
  refine ⟨?_, fun q hq => (Chip.host_modHost_ne _ _ hq).trans (h.2 q hq)⟩
  have e : w.modHost p f = { w with hosts := (w.modHost p f).hosts } := rfl
  generalize (w.modHost p f).hosts = l at e
  rw [e, h.1]

theorem Chip.PortDiffers.regs (h : c.PortDiffers w p t) : w.regs = c.regs := by rw [h.1]

end

/-! ### Requests of one DW -/

theorem Chip.hostUp_of {c : Chip} {p : Nat} (ha : c.portAvail p = true) (hl : c.get (HOST_STATUS_LINK p) = 1)
    (hf : (c.host p).flr = false) : c.hostUp p = true := by
  simp [Chip.hostUp, Chip.on, ha, hl, hf]

theorem dwords_one (a : Nat) : dwords a 1 = [a / 4 * 4] := rfl

theorem Chip.outside_one (s : Chip) (lib : Bool) (a : Nat) :
    s.outside lib a 1 = if lib then s.libOutside (a / 4 * 4) else s.regOutside (a / 4 * 4) := by
  cases lib <;> simp [Chip.outside, dwords_one]

/-- A TLP that arrives whole at a port that serves requests. -/
theorem exec_pcieMemRead_one {s : State} {p : Fin 2} (hup : s.chip.hostUp p = true) (lib perr : Bool) (a : BitVec 28)
    (fbe lbe : BitVec 4) (t : Nat) :
    exec (.pcieMemRead p lib a 0 fbe lbe 0 perr t) s
      = .next { s with chip := (s.chip.at t).memRead p lib a.toNat 1 fbe lbe perr } := by
  simp [exec, execPcieMemRead, State.act, hup, Chip.tlpLost]

theorem exec_pcieMemWrite_whole {s : State} {p : Fin 2} (hup : s.chip.hostUp p = true) (lib : Bool) (a : BitVec 28)
    (vs : List Word) (fbe lbe : BitVec 4) (m t cyc : Nat) :
    exec (.pcieMemWrite p lib a vs fbe lbe 0 m t cyc) s
      = .next { s with chip := (s.chip.at t).memWrite p cyc lib a.toNat vs fbe lbe m } := by
  simp [exec, execPcieMemWrite, State.act, hup, Chip.tlpLost]

section
variable {s : Chip} {p : Nat} {lib : Bool} {a : Nat}

theorem Chip.memRead_outside (hm : s.memOn p = true) (ho : s.outside lib a 1 = true) (fbe lbe : BitVec 4) (perr : Bool) :
    s.memRead p lib a 1 fbe lbe perr = (s.unsupported p).raise HOST_EVENTS_DECODE := by
  cases lib <;> simp [Chip.memRead, hm, ho]

theorem Chip.memWrite_outside (hm : s.memOn p = true) (ho : s.outside lib a 1 = true) (cyc : Nat) (v : Word)
    (fbe lbe : BitVec 4) (m : Nat) :
    s.memWrite p cyc lib a [v] fbe lbe m = (s.refuseUr p false).raise HOST_EVENTS_DECODE := by
  cases lib <;> simp [Chip.memWrite, hm, ho]

/-! ### Accesses to a die that the variant does not have (R2) -/

theorem dieOf_dword (a : Nat) : dieOf (a / 4 * 4) = (a - 0x1000000) / 2 ^ 22 := by
  unfold dieOf
  omega

/-- The one layout of the windows: an address in the block or the library region of a die beyond the die count lies outside. -/
theorem Chip.outside_of_absentDie (hd : s.dieCount ≤ if lib then a / 2 ^ 25 else (a - 0x1000000) / 2 ^ 22)
    (hlo : lib = false → 0x1000000 ≤ a) : s.outside lib a 1 = true := by
  rw [Chip.outside_one]
  cases lib with
  | true =>
    have e : a / 4 * 4 / 0x2000000 = a / 2 ^ 25 := by omega
    rw [if_pos rfl, ← e] at hd
    simp only [Chip.libOutside, if_true, Bool.or_eq_true, decide_eq_true_eq]
    exact .inl hd
  | false =>
    have hge : ¬ a / 4 * 4 < 0x1000000 := by
      have := hlo rfl
      omega
    rw [if_neg Bool.false_ne_true, ← dieOf_dword] at hd
    simp [Chip.regOutside, hge, hd]

end

/-- A decode error of port `p`: counted as an Unsupported Request, HOST_EVENTS.DECODE set, nothing else but the port's own record
changed. -/
def Chip.DecodeError (c u : Chip) (p : Fin 2) (t : Nat) : Prop :=
  u.get HOST_EVENTS_DECODE = 1 ∧ u.get (HOST_UR_CNT_COUNT p) = min (c.get (HOST_UR_CNT_COUNT p) + 1) (2 ^ 32 - 1) ∧
    (∀ q : Fin 2, q ≠ p → u.host q = c.host q) ∧ c.SameRegs u [HOST_UR_CNT p, HOST_EVENTS] ∧
    u = { c with regs := u.regs, due := u.due, hosts := u.hosts, moment := t }

theorem Chip.PortDiffers.decodeError {c w : Chip} {p : Fin 2} {t : Nat} (h : c.PortDiffers w p t) :
    c.DecodeError ((w.bump (HOST_UR_CNT_COUNT p)).raise HOST_EVENTS_DECODE) p t := by
  have hr : w.RegsOnly ((w.bump (HOST_UR_CNT_COUNT p)).raise HOST_EVENTS_DECODE) := Chip.bump_raise_regsOnly _ _
  refine ⟨Chip.get_raise_same _ _ (by decide) rfl, ?_, fun q hq => ?_, fun a ha => ?_, ?_⟩
  · rw [Chip.get_bump_raise (by simp) (by decide) rfl (Fld.apart_of_regs (by decide) (by simp) (by simp only; omega)),
      Chip.get_congr _ h.regs]
  · rw [Chip.host_congr (s := w) (by simp)]
    exact h.2 q (Fin.val_ne_of_ne hq)
  · rw [Chip.bump_raise_sameRegs (f := HOST_UR_CNT_COUNT p) (by simp) a ha, Chip.reg_congr h.regs]
  · generalize (w.bump (HOST_UR_CNT_COUNT p)).raise HOST_EVENTS_DECODE = u at hr ⊢
    unfold Chip.RegsOnly at hr
    rw [hr, h.1]

/-- Settles O57: the address lies outside every block, so the request is an Unsupported Request and a decode error. -/
theorem absentDieAccess : Obligations.AbsentDieAccess := by
  intro s p lib perr a be lbe v m t cyc c h d gone hav hlink hflr hmem hd hlo
  have hup : s.chip.hostUp p = true := Chip.hostUp_of hav hlink hflr
  have hmem : (c.at t).memOn p = true := hmem
  have hout : (c.at t).outside lib a.toNat 1 = true := Chip.outside_of_absentDie hd hlo
  refine ⟨⟨_, exec_pcieMemRead_one hup .., ?_⟩, _, exec_pcieMemWrite_whole hup .., ?_⟩
  · rw [Chip.memRead_outside hmem hout]
    refine ⟨((Chip.portDiffers_at.modHost _).modHost _).decodeError, ?_⟩
    rw [Chip.unsupported, Chip.host_congr (s := ((c.at t).complete p 1 []).aerSet p aerUnsupported) (by simp), Chip.aerSet,
      Chip.host_modHost_same, Chip.complete, Chip.host_modHost_same]
    rfl
  · rw [Chip.memWrite_outside hmem hout]
    refine ⟨(Chip.portDiffers_at.modHost _).decodeError, ?_⟩
    rw [Chip.host_congr (s := (c.at t).aerSet p aerUnsupported) (by simp [Chip.refuseUr]), Chip.aerSet, Chip.host_modHost_same]
    rfl


/-! ### Addresses of the first package blocks -/

/-- The registers of PKG and TIME whose write has no action of its own: all but PKG_COMMIT_CTRL and TIME_RESTEP. -/
def PlainAddr (x : Nat) : Prop := x < 0x10000 ∧ x ≠ PKG_COMMIT_CTRL ∨ 0x20000 ≤ x ∧ x < 0x30000 ∧ x ≠ TIME_RESTEP

theorem PlainAddr.lt {x : Nat} (h : PlainAddr x) : x < 0x30000 := by
  unfold PlainAddr at h
  omega

theorem homeAddr_of_lt {x : Nat} (p : Nat) (h : x < 0x40000) : homeAddr p x = x := by
  have hp : perPort x = false := by
    simp [perPort, HOST_GROUP_COMMIT, HOST_GROUP_STATUS, HOST_VIEW, SEC_SESS_STATUS, SEC_AW_STATUS, SEC_AW_SEQ, SEC_SESS_BUF]
    omega
  simp [homeAddr, hp]

theorem Chip.outside_of_lt (s : Chip) {a : Nat} (h : a / 4 * 4 < 0x30000) : s.outside false a 1 = false := by
  have h1 : a / 4 * 4 < 0x1000000 := by omega
  have h2 : ¬ 0x90000 ≤ a / 4 * 4 := by omega
  have h3 : ¬ 0xC00000 ≤ a / 4 * 4 := by omega
  rw [Chip.outside_one]
  simp only [Chip.regOutside, Bool.false_eq_true, if_false, h1, if_true, h2, h3, decide_false, Bool.false_and, Bool.or_false]

/-! ### A write takes effect by access type (R9) -/

theorem mergeBits_zero (old v : Word) : mergeBits 0 old v = old := by
  rw [mergeBits, BitVec.not_zero, BitVec.and_allOnes, BitVec.and_zero, BitVec.or_zero]

theorem and_not_and_zero (old v : Word) : old &&& ~~~(v &&& BitVec.ofNat 32 0) = old := by
  rw [BitVec.and_zero, BitVec.not_zero, BitVec.and_allOnes]

/-- What a write of `v` at `x` does to the value in force: RW bits change, W1C bits written 1 clear. -/
def Chip.writeForce (s : Chip) (r : RegDef) (x : Nat) (v : Word) : Chip :=
  if r.rw = 0 ∧ r.w1c = 0 then s else s.setReg x (mergeBits r.rw (s.reg x) v &&& ~~~(v &&& BitVec.ofNat 32 r.w1c))

section
variable {s : Chip} {p x b : Nat} {v w : Word} {r r' : RegDef}

theorem Chip.writeForce_reg_same :
    (s.writeForce r x v).reg x = mergeBits r.rw (s.reg x) v &&& ~~~(v &&& BitVec.ofNat 32 r.w1c) := by
  unfold Chip.writeForce
  split
  · next h => rw [h.1, h.2, mergeBits_zero, and_not_and_zero]
  · exact Chip.reg_setReg_same ..

theorem Chip.writeForce_reg_ne (hb : b ≠ x) : (s.writeForce r x v).reg b = s.reg b := by
  unfold Chip.writeForce
  split
  · rfl
  · exact Chip.reg_setReg_ne _ _ hb

theorem Chip.writeForce_frame : s.writeForce r x v = { s with regs := (s.writeForce r x v).regs } := by
  unfold Chip.writeForce
  split <;> rfl

theorem Chip.shadowOf_congr {s t : Chip} (h : t.shadow = s.shadow) (a : Nat) : t.shadowOf a = s.shadowOf a := by
  unfold Chip.shadowOf; rw [h]

theorem Chip.writeForce_shadowOf : (s.writeForce r x v).shadowOf b = s.shadowOf b :=
  Chip.shadowOf_congr (by rw [Chip.writeForce_frame]) b

theorem Chip.shadowOf_setShadow_same (a : Nat) (y : Option Word) : (s.setShadow a y).shadowOf a = y := tabGet_put_same _ _ _

theorem Chip.shadowOf_setShadow_ne {a b : Nat} (y : Option Word) (h : b ≠ a) : (s.setShadow a y).shadowOf b = s.shadowOf b :=
  tabGet_put_ne _ _ h

/-- A write by access type: the value in force first, then the shadow of a register with RWT bits. -/
theorem Chip.plainWrite_eq (hr : findReg x = some r) (hh : homeAddr p x = x) :
    s.plainWrite p x v = if r.rwt = 0 then s.writeForce r x v
      else (s.writeForce r x v).setShadow x (some (mergeBits r.rwt ((s.writeForce r x v).shadowVal x) v)) := by
  unfold Chip.plainWrite
  simp only [hr, hh]
  rfl

theorem Chip.plainWrite_reg (hr : findReg x = some r) (hh : homeAddr p x = x) :
    (s.plainWrite p x v).reg b = (s.writeForce r x v).reg b := by
  rw [Chip.plainWrite_eq hr hh]
  split
  · rfl
  · exact Chip.setShadow_reg ..

theorem Chip.plainWrite_reg_same (hr : findReg x = some r) (hh : homeAddr p x = x) :
    (s.plainWrite p x v).reg x = mergeBits r.rw (s.reg x) v &&& ~~~(v &&& BitVec.ofNat 32 r.w1c) :=
  (Chip.plainWrite_reg hr hh).trans Chip.writeForce_reg_same

theorem Chip.plainWrite_reg_ne (hr : findReg x = some r) (hh : homeAddr p x = x) (hb : b ≠ x) :
    (s.plainWrite p x v).reg b = s.reg b :=
  (Chip.plainWrite_reg hr hh).trans (Chip.writeForce_reg_ne hb)

theorem Chip.plainWrite_shadow_same (hr : findReg x = some r) (hh : homeAddr p x = x) :
    (s.plainWrite p x v).shadowOf x = if r.rwt = 0 then s.shadowOf x
      else some (mergeBits r.rwt ((s.shadowOf x).getD ((s.plainWrite p x v).reg x)) v) := by
  rw [Chip.plainWrite_reg hr hh, Chip.plainWrite_eq hr hh]
  split
  · exact Chip.writeForce_shadowOf
  · rw [Chip.shadowOf_setShadow_same, Chip.shadowVal, Chip.writeForce_shadowOf]

theorem Chip.plainWrite_shadow_ne (hr : findReg x = some r) (hh : homeAddr p x = x) (hb : b ≠ x) :
    (s.plainWrite p x v).shadowOf b = s.shadowOf b := by
  rw [Chip.plainWrite_eq hr hh]
  split
  · exact Chip.writeForce_shadowOf
  · rw [Chip.shadowOf_setShadow_ne _ hb, Chip.writeForce_shadowOf]

theorem Chip.plainWrite_frame (hr : findReg x = some r) (hh : homeAddr p x = x) :
    s.plainWrite p x v = { s with regs := (s.plainWrite p x v).regs, shadow := (s.plainWrite p x v).shadow } := by
  rw [Chip.plainWrite_eq hr hh, Chip.writeForce_frame]
  split <;> rfl

/-- Without RWT bits the shadows stay. -/
theorem Chip.plainWrite_regs_frame (hr : findReg x = some r) (hh : homeAddr p x = x) (h : r.rwt = 0) :
    s.plainWrite p x v = { s with regs := (s.plainWrite p x v).regs } := by
  rw [Chip.plainWrite_eq hr hh, if_pos h]
  exact Chip.writeForce_frame

/-- Both halves of a pair of RW bits written: each takes its RW bits, and nothing else changes. -/
theorem Chip.plainWrite_pair (hr' : findReg b = some r') (hh' : homeAddr p b = b) (hr : findReg x = some r)
    (hh : homeAddr p x = x) (hb : b ≠ x) (ht' : r'.rwt = 0) (ht : r.rwt = 0) (hc' : r'.w1c = 0) (hc : r.w1c = 0) :
    let u := (s.plainWrite p b w).plainWrite p x v
    u.reg b = mergeBits r'.rw (s.reg b) w ∧ u.reg x = mergeBits r.rw (s.reg x) v ∧ s.SameRegs u [x, b] ∧
      u = { s with regs := u.regs } := by
  refine ⟨?_, ?_, fun e he => ?_, ?_⟩
  · rw [Chip.plainWrite_reg_ne hr hh hb, Chip.plainWrite_reg_same hr' hh', hc', and_not_and_zero]
  · rw [Chip.plainWrite_reg_same hr hh, Chip.plainWrite_reg_ne hr' hh' hb.symm, hc, and_not_and_zero]
  · simp only [List.mem_cons, List.not_mem_nil, or_false, not_or] at he
    rw [Chip.plainWrite_reg_ne hr hh he.1, Chip.plainWrite_reg_ne hr' hh' he.2]
  · rw [Chip.plainWrite_regs_frame hr hh ht, Chip.plainWrite_regs_frame hr' hh' ht']

theorem Chip.lowOf_setLow_same (q a : Nat) (y : Option Word) : (s.setLow q a y).lowOf q a = y := by
  rw [Chip.lowOf, Chip.setLow, Chip.host_modHost_same]
  exact tabGet_put_same _ _ _

/-! ### Halves of a writable pair (R7, R8) -/

theorem Chip.commonWrite_single (h : writeHalf x = .single) : s.commonWrite p x v = s.plainWrite p x v := by
  simp [Chip.commonWrite, Chip.pairWrite, h]

theorem Chip.commonWrite_low (h : writeHalf x = .low) : s.commonWrite p x v = s.setLow p x (some v) := by
  simp [Chip.commonWrite, Chip.pairWrite, h]

end

section
variable {c : Chip} {x t : Nat} {v w : Word} {r r' : RegDef}

/-- The high half joins the low half held from the same port: both are written, and the low half is released. -/
theorem Chip.commonWrite_high_held {p : Nat} (h : writeHalf x = .high) (hb : x - 4 ≠ x) (hlt : x < 0x30000)
    (hw : c.lowOf p (x - 4) = some w) (hr : findReg x = some r) (hr' : findReg (x - 4) = some r') (ht : r.rwt = 0)
    (ht' : r'.rwt = 0) (hc : r.w1c = 0) (hc' : r'.w1c = 0) :
    let u := (c.at t).commonWrite p x v
    u.reg (x - 4) = mergeBits r'.rw (c.reg (x - 4)) w ∧ u.reg x = mergeBits r.rw (c.reg x) v ∧ u.lowOf p (x - 4) = none ∧
      c.SameRegs u [x, x - 4] ∧ (∀ q, q ≠ p → u.host q = c.host q) ∧ u = { c with moment := t, regs := u.regs, hosts := u.hosts } := by
  have hw : (c.at t).lowOf p (x - 4) = some w := hw
  have e : (c.at t).commonWrite p x v = (((c.at t).setLow p (x - 4) none).plainWrite p (x - 4) w).plainWrite p x v := by
    simp [Chip.commonWrite, Chip.pairWrite, Chip.joinHigh, h, hw]
  have hd : c.PortDiffers ((c.at t).setLow p (x - 4) none) p t := Chip.portDiffers_at.modHost _
  obtain ⟨hlow, hhigh, hsame, hu⟩ := Chip.plainWrite_pair (s := (c.at t).setLow p (x - 4) none) (w := w) (v := v) hr'
    (homeAddr_of_lt p (by omega)) hr (homeAddr_of_lt p (by omega)) hb ht' ht hc' hc
  rw [← e] at hlow hhigh hsame hu
  generalize (c.at t).commonWrite p x v = u at *
  have hhosts : u.hosts = ((c.at t).setLow p (x - 4) none).hosts := by rw [hu]
  refine ⟨hlow, hhigh, ?_, hsame, fun q hq => (Chip.host_congr hhosts q).trans (hd.2 q hq), hu.trans ?_⟩
  · rw [Chip.lowOf, Chip.host_congr hhosts]
    exact Chip.lowOf_setLow_same ..
  · rw [hhosts]
    rfl

/-- A high half without a low half held is discarded and counted. -/
theorem Chip.commonWrite_high_alone {p : Nat} (h : writeHalf x = .high) (hw : c.lowOf p (x - 4) = none) :
    let u := (c.at t).commonWrite p x v
    u.get (HOST_WIDTH_CNT_COUNT p) = min (c.get (HOST_WIDTH_CNT_COUNT p) + 1) (2 ^ 32 - 1) ∧ u.get HOST_EVENTS_WIDTH = 1 ∧
      u = { c with moment := t, regs := u.regs, due := u.due } ∧ c.SameRegs u [HOST_WIDTH_CNT p, HOST_EVENTS] := by
  have hw : (c.at t).lowOf p (x - 4) = none := hw
  have e : (c.at t).commonWrite p x v = ((c.at t).bump (HOST_WIDTH_CNT_COUNT p)).raise HOST_EVENTS_WIDTH := by
    simp [Chip.commonWrite, Chip.pairWrite, Chip.joinHigh, h, hw, Chip.widthDiscard]
  rw [e]
  exact ⟨Chip.get_bump_raise (by simp) (by decide) rfl (Fld.apart_of_regs (by decide) (by simp) (by simp only; omega)),
    Chip.get_raise_same _ _ (by decide) rfl, Chip.bump_raise_regsOnly _ _,
    Chip.bump_raise_sameRegs (s := c.at t) (f := HOST_WIDTH_CNT_COUNT p) (g := HOST_EVENTS_WIDTH) (by simp)⟩

end

/-! ### Where the write of a plain register goes -/

section
variable {s : Chip} {p x : Nat} {v : Word}

theorem Chip.directWrite_plain (hx : PlainAddr x) (cyc : Nat) : s.directWrite p cyc x v = s.commonWrite p x v := by
  simp only [PlainAddr, PKG_COMMIT_CTRL, TIME_RESTEP] at hx
  simp (disch := omega) only [Chip.directWrite, Chip.regEffect, Chip.pkgEffect, SEC_AW_CTRL, HOST_GROUP_COMMIT, PKG_COMMIT_CTRL,
    FAULT_F0_EVENTS, FAULT_DIE_CTRL, UPD_CTRL, TIME_RESTEP, IMG_PIN, IMG_CTRL, IMG_FL_CTRL, RET_CTRL, HOST_MSIX, if_neg]

theorem Chip.memWrite_one {a : Nat} (hm : s.memOn p = true) (ho : s.outside false a 1 = false) (cyc : Nat) :
    s.memWrite p cyc false a [v] 0xF 0xF 0 = s.hostWrite p cyc (a / 4 * 4) v := by
  simp [Chip.memWrite, hm, ho, dwords_one, Chip.each, Chip.writeDw, enables, maskBit]

theorem Chip.hostWrite_direct (ht : needsTag x v = false) (hg : s.groupOpen p = false) (cyc : Nat) :
    s.hostWrite p cyc x v = s.directWrite p cyc x v := by
  unfold Chip.hostWrite
  rw [ht, hg]
  rfl

theorem Chip.writeOne_plain {a : BitVec 26} (hm : s.memOn p = true) (hg : s.groupOpen p = false)
    (hx : PlainAddr (a.toNat / 4 * 4)) (ht : needsTag (a.toNat / 4 * 4) v = false) (cyc : Nat) :
    s.writeOne p cyc a v = s.commonWrite p (a.toNat / 4 * 4) v := by
  have ho : s.outside false a.toNat 1 = false := s.outside_of_lt hx.lt
  rw [Chip.writeOne, Chip.memWrite_one hm ho, Chip.hostWrite_direct ht hg, Chip.directWrite_plain hx]

end

section
variable {s : State} {p : Fin 2} {a : BitVec 26} {v : Word} (hup : s.chip.hostUp p = true) (hm : s.chip.memOn p = true)
  (hg : s.chip.groupOpen p = false) (hx : PlainAddr (a.toNat / 4 * 4)) (ht : needsTag (a.toNat / 4 * 4) v = false) (t cyc : Nat)
include hup hm hg hx ht

theorem exec_registerWrite_plain : exec (.registerWrite p a v t cyc) s
    = .next { s with chip := (s.chip.at t).commonWrite p (a.toNat / 4 * 4) v } := by
  rw [← Chip.writeOne_plain (s := s.chip.at t) hm hg hx ht cyc]
  simp [exec, execRegisterWrite, State.act, hup]

theorem exec_pairLowWrite_plain (h : writeHalf (a.toNat / 4 * 4) = .low) : exec (.pairLowWrite p a v t cyc) s
    = .next { s with chip := (s.chip.at t).commonWrite p (a.toNat / 4 * 4) v } := by
  rw [← Chip.writeOne_plain (s := s.chip.at t) hm hg hx ht cyc]
  simp [exec, execPairLowWrite, State.act, hup, Chip.writePart, h]

theorem exec_pairHighWrite_plain (h : writeHalf (a.toNat / 4 * 4) = .high) : exec (.pairHighWrite p a v t cyc) s
    = .next { s with chip := (s.chip.at t).commonWrite p (a.toNat / 4 * 4) v } := by
  rw [← Chip.writeOne_plain (s := s.chip.at t) hm hg hx ht cyc]
  simp [exec, execPairHighWrite, State.act, hup, Chip.writePart, h]

end

/-! ### Reads -/

section
variable {s : Chip} {p x : Nat} {r : RegDef}

theorem Chip.liveReg_of_lt (h : x < 0x60000) : s.liveReg x = s.reg x := by
  simp (disch := omega) only [Chip.liveReg, HOST_LAT, ETH_STATUS, if_neg, if_pos]

/-- With HOST_VIEW.SHADOW clear a read returns the value in force, WO bits zero. -/
theorem Chip.regValue_of_lt (hx : x < 0x40000) (hr : findReg x = some r) (hv : s.get (onPort p HOST_VIEW_SHADOW) = 0) :
    s.regValue p x = s.reg x &&& ~~~BitVec.ofNat 32 r.wo := by
  simp [Chip.regValue, hr, homeAddr_of_lt p hx, Chip.on, hv, Chip.liveReg_of_lt (show x < 0x60000 by omega)]

/-- The registers of package time stand alone: their latch is TIME_NOW's own. -/
theorem half_of_timeNow (hr : findReg x = some r) (h : x = TIME_NOW_NS ∨ x = TIME_NOW_SEC ∨ x = TIME_NOW_SEC + 4) :
    r.half = .single := by
  have e : (findReg x).map RegDef.half = some .single := by rcases h with rfl | rfl | rfl <;> decide
  simpa [hr] using e

theorem Chip.readWord_pair (hx : x < 0x30000) (hr : findReg x = some r) (hh : r.half ≠ .single) (h1 : x ≠ FAULT_LOG_POP_LO)
    (h2 : x ≠ FAULT_LOG_POP_HI) : s.readWord p x = s.readPair p x := by
  have ht : ¬ (x = TIME_NOW_NS ∨ x = TIME_NOW_SEC ∨ x = TIME_NOW_SEC + 4) := fun h => hh (half_of_timeNow hr h)
  simp (disch := omega) only [Chip.readWord, HOST_PORT_ID, SEC_CERT, HOST_MSIX, HOST_PBA, if_neg]

/-- Port `p` reads the register at `x` and has been answered. -/
def Chip.readAnswered (s : Chip) (p x : Nat) : Chip :=
  ((s.readPair p x).1.observe p false).complete p 0 [(s.readPair p x).2]

theorem Chip.readOne_pair {a : BitVec 26} (hm : s.memOn p = true) (hx : a.toNat / 4 * 4 < 0x30000)
    (hr : findReg (a.toNat / 4 * 4) = some r) (hh : r.half ≠ .single) (h1 : a.toNat / 4 * 4 ≠ FAULT_LOG_POP_LO)
    (h2 : a.toNat / 4 * 4 ≠ FAULT_LOG_POP_HI) : s.readOne p a = s.readAnswered p (a.toNat / 4 * 4) := by
  have ho : s.outside false a.toNat 1 = false := s.outside_of_lt hx
  rw [Chip.readAnswered, ← Chip.readWord_pair hx hr hh h1 h2]
  simp [Chip.readOne, Chip.memRead, hm, ho, dwords_one, Chip.readDws, Chip.readDw, enables]

end

section
variable {c : Chip} {x t : Nat} {r : RegDef}

/-- A read of a low half latches the high one for its port. -/
theorem Chip.readPair_low {p : Nat} (hr : findReg x = some r) (h : r.half = .low) :
    let y := (c.at t).readPair p x
    c.PortDiffers y.1 p t ∧ y.2 = (c.at t).regValue p x ∧
      tabGet (fun _ => none) (y.1.host p).high x = some ((c.at t).regValue p (x + 4)) ∧
      ∀ b, b ≠ x → tabGet (fun _ => none) (y.1.host p).high b = tabGet (fun _ => none) (c.host p).high b := by
  have e : (c.at t).readPair p x = ((c.at t).latchHigh p x ((c.at t).regValue p (x + 4)), (c.at t).regValue p x) := by
    simp [Chip.readPair, hr, h]
  rw [e]
  dsimp only [Chip.latchHigh]
  rw [Chip.host_modHost_same]
  refine ⟨Chip.portDiffers_at.modHost _, rfl, ?_, fun b hb => ?_⟩
  · exact tabGet_put_same _ _ _
  · exact tabGet_put_ne _ _ hb

/-- A high half reads as latched for its port, and is released. -/
theorem Chip.readPair_high {p : Nat} (hr : findReg x = some r) (h : r.half = .high) :
    let y := (c.at t).readPair p x
    c.PortDiffers y.1 p t ∧ y.2 = (tabGet (fun _ => none) (c.host p).high (x - 4)).getD ((c.at t).regValue p x) ∧
      tabGet (fun _ => none) (y.1.host p).high (x - 4) = none := by
  cases hw : tabGet (fun _ => none) (c.host p).high (x - 4) with
  | none =>
    have hw' : tabGet (fun _ => none) ((c.at t).host p).high (x - 4) = none := hw
    have e : (c.at t).readPair p x = (c.at t, (c.at t).regValue p x) := by simp [Chip.readPair, hr, h, hw']
    rw [e]
    exact ⟨Chip.portDiffers_at, rfl, hw'⟩
  | some w =>
    have hw' : tabGet (fun _ => none) ((c.at t).host p).high (x - 4) = some w := hw
    have e : (c.at t).readPair p x =
        ((c.at t).modHost p (fun y => { y with high := tabPut (fun _ => none) y.high (x - 4) none }), w) := by
      simp [Chip.readPair, hr, h, hw']
    rw [e]
    dsimp only
    rw [Chip.host_modHost_same]
    exact ⟨Chip.portDiffers_at.modHost _, rfl, tabGet_put_same _ _ _⟩

/-- The answer moves HOST_p_LAT and completes the request; the rest is as `readPair` left it. -/
theorem Chip.PortDiffers.readAnswered {p : Fin 2} (h : c.PortDiffers ((c.at t).readPair p x).1 p t) :
    let y := (c.at t).readPair p x
    let u := (c.at t).readAnswered p x
    u.host p = { y.1.host p with cplStatus := 0, cpl := [y.2] } ∧ (∀ q : Fin 2, q ≠ p → u.host q = c.host q) ∧
      u = { c.observe p false with moment := t, hosts := u.hosts } := by
  refine ⟨Chip.host_modHost_same .., fun q hq => ?_, ?_⟩
  · have hq := Fin.val_ne_of_ne hq
    exact (Chip.host_modHost_ne _ _ hq).trans (h.2 q hq)
  · unfold Chip.readAnswered
    obtain ⟨hw, -⟩ := h
    rw [hw]
    rfl

end

/-! ### The statement -/

section
variable {s : State} {p : Fin 2} {a : BitVec 26} {r : RegDef} (hup : s.chip.hostUp p = true) (hm : s.chip.memOn p = true)
  (hx : a.toNat / 4 * 4 < 0x30000) (hr : findReg (a.toNat / 4 * 4) = some r) (h1 : a.toNat / 4 * 4 ≠ FAULT_LOG_POP_LO)
  (h2 : a.toNat / 4 * 4 ≠ FAULT_LOG_POP_HI) (t : Nat)
include hup hm hx hr h1 h2

theorem exec_pairLowRead_pair (h : r.half = .low) :
    exec (.pairLowRead p a t) s = .next { s with chip := (s.chip.at t).readAnswered p (a.toNat / 4 * 4) } := by
  rw [← Chip.readOne_pair (s := s.chip.at t) hm hx hr (by simp [h]) h1 h2]
  simp [exec, execPairLowRead, State.act, hup, Chip.readPart, hr, h]

theorem exec_pairHighRead_pair (h : r.half = .high) :
    exec (.pairHighRead p a t) s = .next { s with chip := (s.chip.at t).readAnswered p (a.toNat / 4 * 4) } := by
  rw [← Chip.readOne_pair (s := s.chip.at t) hm hx hr (by simp [h]) h1 h2]
  simp [exec, execPairHighRead, State.act, hup, Chip.readPart, hr, h]

end

/-- Settles O51: a write of a plain register comes down to `commonWrite`, a read of a half of a pair to `readPair`; the rest is
what each leaves, half by half. -/
theorem registerAccess : Obligations.RegisterAccess := by
  intro s p a v t cyc c h x mask merged plain others read hav hlink hflr hmem
  have hup : c.hostUp p = true := Chip.hostUp_of hav hlink hflr
  constructor
  · intro hx hg r hr ht
    have hlt : x < 0x30000 := PlainAddr.lt hx
    have hh : homeAddr p x = x := homeAddr_of_lt p (by omega)
    refine ⟨fun hs => ?_, fun hl => ?_, fun hhi h4 => ⟨fun w hw r' hr' hrwt hrwt' hw1c hw1c' => ?_, fun hnone => ?_⟩⟩
    · refine ⟨_, exec_registerWrite_plain hup hmem hg hx ht t cyc, ?_⟩
      rw [Chip.commonWrite_single hs]
      exact ⟨Chip.plainWrite_reg_same hr hh, Chip.plainWrite_shadow_same hr hh, fun b hb => Chip.plainWrite_shadow_ne hr hh hb,
        fun b hb => Chip.plainWrite_reg_ne hr hh (by simpa using hb), Chip.plainWrite_frame hr hh⟩
    · refine ⟨_, exec_pairLowWrite_plain hup hmem hg hx ht t cyc hl, ?_⟩
      rw [Chip.commonWrite_low hl]
      have hd : c.PortDiffers ((c.at t).setLow p x (some v)) p t := Chip.portDiffers_at.modHost _
      refine ⟨Chip.lowOf_setLow_same .., ?_, fun q hq => hd.2 q (Fin.val_ne_of_ne hq), hd.1⟩
      rw [Chip.setLow, Chip.host_modHost_same]
      rfl
    · obtain ⟨hlow, hhigh, hrel, hsame, hothers, hu⟩ := Chip.commonWrite_high_held (c := c) (t := t) (v := v) hhi (by omega) hlt
        hw hr hr' hrwt hrwt' hw1c hw1c'
      exact ⟨_, exec_pairHighWrite_plain hup hmem hg hx ht t cyc hhi, hlow, hhigh, hrel, hsame,
        fun q hq => hothers q (Fin.val_ne_of_ne hq), hu⟩
    · exact ⟨_, exec_pairHighWrite_plain hup hmem hg hx ht t cyc hhi, Chip.commonWrite_high_alone hhi hnone⟩
  · intro hlt hp1 hp2 r hr hv
    refine ⟨fun hl r' hr' => ?_, fun hhi h4 => ?_⟩
    · refine ⟨_, exec_pairLowRead_pair hup hmem hlt hr hp1 hp2 t hl, ?_⟩
      obtain ⟨hd, hval, hlatch, hrest⟩ := Chip.readPair_low (c := c) (t := t) (p := p) hr hl
      obtain ⟨hhost, hothers, hu⟩ := hd.readAnswered
      have hcpl : (c.at t).regValue p x = c.reg x &&& ~~~mask r.wo := Chip.regValue_of_lt (by omega) hr hv
      have hnext : (c.at t).regValue p (x + 4) = c.reg (x + 4) &&& ~~~mask r'.wo := Chip.regValue_of_lt (by omega) hr' hv
      rw [hval, hcpl] at hhost
      rw [hnext] at hlatch
      exact ⟨by rw [hhost], ⟨by rw [hhost], hothers, hu⟩, by rw [hhost]; exact hlatch, fun b hb => by rw [hhost]; exact hrest b hb⟩
    · refine ⟨_, exec_pairHighRead_pair hup hmem hlt hr hp1 hp2 t hhi, ?_⟩
      obtain ⟨hd, hval, hreleased⟩ := Chip.readPair_high (c := c) (t := t) (p := p) hr hhi
      obtain ⟨hhost, hothers, hu⟩ := hd.readAnswered
      have hcpl : (c.at t).regValue p x = c.reg x &&& ~~~mask r.wo := Chip.regValue_of_lt (by omega) hr hv
      rw [hval, hcpl] at hhost
      exact ⟨⟨by rw [hhost], hothers, hu⟩, by rw [hhost], by rw [hhost]; exact hreleased⟩

end Sys2Proof.Machine
end

section
/-!
SUPPORT. The loop of an element slot outside its windows (spec/05_element_lock_loops.md): the end of a kick (R145), a CLEAR and its
step 5 (R142), what the loop's registers show, the records for the backup die (R148, R161), a stale temperature (R126).
-/

namespace Sys2Proof.Machine

/-! ### Slot records -/

section
variable {s t u : Chip} {d sl : Nat}

theorem Chip.slot_congr (h : t.slots = s.slots) (d sl : Nat) : t.slot d sl = s.slot d sl := by
  unfold Chip.slot; rw [h]

@[simp] theorem Chip.slot_setSlot_same (r : SlotRec) : (s.setSlot d sl r).slot d sl = r := tabGet_put_same _ _ _

theorem Chip.setSlot_slotOnly (r : SlotRec) : s.SlotOnly (s.setSlot d sl r) d sl := ⟨rfl, fun _ hk => tabGet_put_ne _ _ hk⟩

theorem Chip.RegsOnly.slot (h : s.RegsOnly u) (d sl : Nat) : u.slot d sl = s.slot d sl :=
  Chip.slot_congr (by rw [h]) d sl

theorem Chip.SlotOnly.regsOnly (h : s.SlotOnly t d sl) (h' : t.RegsOnly u) : s.SlotOnly u d sl := by
  obtain ⟨hall, hne⟩ := h
  unfold Chip.RegsOnly at h'
  have hslots : u.slots = t.slots := by rw [h']
  refine ⟨?_, fun k hk => hslots ▸ hne k hk⟩
  calc u = { t with regs := u.regs, due := u.due } := h'
    _ = { s with regs := u.regs, due := u.due, slots := t.slots } := by rw [hall]
    _ = { s with regs := u.regs, due := u.due, slots := u.slots } := by rw [hslots]

end

/-! ### What LP_ERR, LP_INTEG and LP_STATUS show (Table 5.9) -/

section
variable {s : Chip} {d sl : Nat}

theorem Chip.showLoop_regsOnly : s.RegsOnly (s.showLoop d sl) := rfl

theorem Chip.showLoop_sameRegs : s.SameRegs (s.showLoop d sl) [LP_STATUS d sl] := fun _ ha =>
  Chip.reg_setReg_ne _ _ (by simpa using ha)

/-- The parts of LP_STATUS above STATE are whole multiples of 8. -/
theorem Chip.showLoop_state : (s.showLoop d sl).get (LP_STATUS_STATE d sl) = (s.slot d sl).st % 8 := by
  have hw : (s.showLoop d sl).wide (LP_STATUS_STATE d sl) = ((s.showLoop d sl).reg (LP_STATUS d sl)).toNat := if_pos (by simp)
  rw [Chip.get, hw, Chip.showLoop, Chip.reg_setReg_same, BitVec.toNat_ofNat, bitsOf_mod _ (by simp)]
  simp only [bitsOf]
  split <;> split <;> omega

theorem Chip.captureLoop_none : s.captureLoop d sl none none =
    ((s.setI (LP_ERR_E d sl) (s.slot d sl).lastErr).setI (LP_INTEG_INTEG d sl) (s.slot d sl).integ).showLoop d sl := rfl

theorem Chip.captureLoop_none_regsOnly : s.RegsOnly (s.captureLoop d sl none none) :=
  ((Chip.set_regsOnly _ _).trans (Chip.set_regsOnly _ _)).trans Chip.showLoop_regsOnly

theorem Chip.captureLoop_none_sameRegs :
    s.SameRegs (s.captureLoop d sl none none) [LP_ERR d sl, LP_INTEG d sl, LP_STATUS d sl] := by
  intro a ha
  simp only [List.mem_cons, List.not_mem_nil, or_false, not_or] at ha
  obtain ⟨herr, hinteg, hstatus⟩ := ha
  rw [Chip.captureLoop_none, Chip.showLoop_sameRegs a (by simpa using hstatus), Chip.setI,
    Chip.reg_set_ne _ _ hinteg (.inl (by simp)), Chip.setI, Chip.reg_set_ne _ _ herr (.inl (by simp))]

end

/-! ### The transitions -/

section
variable {s : Chip} {d sl : Nat}

theorem Chip.kickEnd_kick (hst : (s.slot d sl).st = lpKick) (ht : (s.slot d sl).kickAt + (s.slot d sl).kickX ≤ s.tick) :
    s.kickEnd d sl = (s.setSlot d sl { s.slot d sl with st := lpAcquire, run := 0 }).showLoop d sl :=
  if_pos ⟨hst, ht⟩

theorem Chip.loopClear_fault (hst : (s.slot d sl).st = lpFault) :
    s.loopClear d sl = s.setSlot d sl { s.slot d sl with clearDue := true } := if_pos hst

theorem Chip.loopClear_other (hst : (s.slot d sl).st ≠ lpFault) : s.loopClear d sl = s := if_neg hst

/-- The record of a slot that a CLEAR has taken out of FAULT (R142). -/
def Chip.clearedSlot (s : Chip) (d sl : Nat) : SlotRec :=
  let r := s.slot d sl
  let closed := s.on (LP_CTRL_EN d sl) && entLoop r.entry
  { r with st := if closed then lpAcquire else lpParked, integ := 0, clearDue := false, corr := if closed then r.corr else 0,
           wVoid := true, clamped := false, run := 0, faultRun := 0, heldRun := 0, ovrRun := 0 }

theorem Chip.clearNow_fault (hst : (s.slot d sl).st = lpFault) (hdue : (s.slot d sl).clearDue = true) :
    s.clearNow d sl = (s.setSlot d sl (s.clearedSlot d sl)).captureLoop d sl none none := by
  simp [Chip.clearNow, Chip.clearedSlot, hst, hdue]

/-- A one-bit field is set when it reads 1. -/
theorem Chip.on_iff {f : Fld} (hw : f.w = 1) : s.on f = true ↔ s.get f = 1 := by
  have hlt : s.get f < 2 ^ f.w := Chip.get_lt ..
  rw [hw] at hlt
  rw [Chip.on, bne_iff_ne]
  omega

theorem Chip.clearedSlot_st : (s.clearedSlot d sl).st =
    if s.get (LP_CTRL_EN d sl) = 1 ∧ entLoop (s.slot d sl).entry then lpAcquire else lpParked := by
  simp only [Chip.clearedSlot, Bool.and_eq_true, Chip.on_iff]

theorem Chip.recvLoop_active {c : Nat} (hp : s.isProt (chanDie c) (chanSlot c / 256) = true)
    (ha : (s.slot (chanDie c) (chanSlot c)).active = true) : s.recvLoop c =
      { s with loopRecs := tabPut (fun _ => none) s.loopRecs c (some (s.loopRecordOf (chanDie c) (chanSlot c))) } :=
  if_pos ⟨hp, ha⟩

theorem Chip.recvStandby_active {c : Nat} (hp : s.isProt (chanDie c) (chanSlot c / 256) = true)
    (ha : (s.slot (chanDie c) (chanSlot c)).active = true) : s.recvStandby c =
      { s with standbyRecs := tabPut (fun _ => none) s.standbyRecs c (some (s.standbyRecordOf (chanDie c) (chanSlot c))) } :=
  if_pos ⟨hp, ha⟩

theorem Chip.tempStale_aged (ha : (s.slot d sl).active = true) (ht : 256 ≤ (s.slot d sl).tempAge)
    (h0 : s.get (CH_DRIVE_TEMP_STALE d sl) = 0) :
    s.tempStale d sl = (s.set (CH_DRIVE_TEMP_STALE d sl) 1).raise (CH_EVENTS_TEMP_STALE d sl) :=
  if_pos ⟨ha, ht, by simp [Chip.on, h0]⟩

end

/-! ### What each command leaves -/

section
variable {s : State} {d : Fin 8} {sl : Fin 2560} {c : Fin 16384}

theorem exec_kickEnd (h : s.chip.runs d = true) :
    exec (.kickEnd d sl) s = .next { s with chip := s.chip.kickEnd d sl } := by
  simp [exec, execKickEnd, State.act, h]

theorem exec_loopClear (h : s.chip.open d = true) :
    exec (.loopClear d sl) s = .next { s with chip := s.chip.loopClear d sl } := by
  simp [exec, execLoopClear, State.act, h]

theorem exec_tempStale (h : s.chip.runs d = true) :
    exec (.tempStale d sl) s = .next { s with chip := s.chip.tempStale d sl } := by
  simp [exec, execTempStale, State.act, h]

theorem exec_loopRecord (h : s.chip.inService (chanDie c) = true) :
    exec (.loopRecord c) s = .next { s with chip := s.chip.recvLoop c } := by
  simp [exec, execLoopRecord, State.act, h]

theorem exec_standbyRecord (h : s.chip.inService (chanDie c) = true) :
    exec (.standbyRecord c) s = .next { s with chip := s.chip.recvStandby c } := by
  simp [exec, execStandbyRecord, State.act, h]

end

/-- Settles O15: each transition writes the slot's record and then registers alone, so what a record or a register reads afterwards
comes from the last write to it. -/
theorem loopTransitions : Obligations.LoopTransitions := by
  intro s d sl c
  refine ⟨fun hrun hst ht => ?_, fun hopen hst => ?_, fun hst hdue => ?_, fun hopen hst => ?_, fun hin hp ha => ⟨?_, ?_⟩,
    fun hrun ha ht h0 => ?_⟩
  · -- KICK ends
    refine ⟨_, exec_kickEnd hrun, ?_⟩
    rw [Chip.kickEnd_kick hst ht]
    refine ⟨?_, ?_, (Chip.setSlot_slotOnly _).regsOnly Chip.showLoop_regsOnly, Chip.showLoop_sameRegs⟩
    · rw [Chip.showLoop_regsOnly.slot, Chip.slot_setSlot_same]
    · rw [Chip.showLoop_state, Chip.slot_setSlot_same]
      rfl
  · -- CLEAR is accepted in FAULT
    refine ⟨_, exec_loopClear hopen, ?_⟩
    rw [Chip.loopClear_fault hst]
    exact ⟨Chip.slot_setSlot_same _, Chip.setSlot_slotOnly _, fun _ _ => rfl⟩
  · -- step 5 of an accepted CLEAR
    have hslot : (s.chip.clearNow d sl).slot d sl = s.chip.clearedSlot d sl := by
      rw [Chip.clearNow_fault hst hdue, Chip.captureLoop_none_regsOnly.slot, Chip.slot_setSlot_same]
    intro u
    rw [hslot, Chip.clearedSlot_st]
    refine ⟨rfl, rfl, rfl, rfl, rfl, rfl, rfl, rfl, ?_⟩
    rw [show u = _ from Chip.clearNow_fault hst hdue]
    exact ⟨(Chip.setSlot_slotOnly _).regsOnly Chip.captureLoop_none_regsOnly, Chip.captureLoop_none_sameRegs⟩
  · -- CLEAR outside FAULT
    rw [exec_loopClear hopen, Chip.loopClear_other hst]
  · -- the loop record
    refine ⟨_, exec_loopRecord hin, ?_⟩
    rw [Chip.recvLoop_active hp ha]
    exact ⟨tabGet_put_same _ _ _, rfl⟩
  · -- the standby record
    refine ⟨_, exec_standbyRecord hin, ?_⟩
    rw [Chip.recvStandby_active hp ha]
    exact ⟨tabGet_put_same _ _ _, rfl⟩
  · -- 256 ticks without a reading
    refine ⟨_, exec_tempStale hrun, ?_⟩
    rw [Chip.tempStale_aged ha ht h0]
    refine ⟨?_, Chip.get_raise_same _ _ (by simp) rfl, (Chip.set_regsOnly _ _).trans (Chip.raise_regsOnly _), fun a ha => ?_⟩
    · have hap : (CH_EVENTS_TEMP_STALE d sl).Apart (CH_DRIVE_TEMP_STALE d sl) :=
        Fld.apart_of_regs (by simp) (by simp) (by simp only; omega)
      rw [Chip.get_raise_ne _ hap (by simp) rfl, Chip.get_set_same _ _ _ (by simp)]
      rfl
    · simp only [List.mem_cons, List.not_mem_nil, or_false, not_or] at ha
      rw [Chip.reg_raise_ne _ ha.2, Chip.reg_set_ne _ _ ha.1 (.inl (by simp))]

end Sys2Proof.Machine
end
